-- ==== Sys2Proof/Word.lean ====
section
/-! DEFINITION. Plain words of the ZK7160 model: bytes, 64-bit words, tagged 128-bit values, the two halves, core names. -/

namespace Sys2Proof

abbrev Byte := BitVec 8
abbrev Word := BitVec 64
abbrev Word128 := BitVec 128

/-- A compute die of the package (R12, Table 0.6). -/
inductive HalfId where
  | east
  | west
  deriving DecidableEq, Repr

/-- The half at the other end of the seam link (R13). -/
def HalfId.other : HalfId → HalfId
  | .east => .west
  | .west => .east

/-- The HALF number of IDV_DEVICE (Table 0.2): 0 = East, 1 = West. -/
def HalfId.num : HalfId → Nat
  | .east => 0
  | .west => 1

/-- An Aboux/C core: its half, physical grove 0–16 and core 0–7 within the grove (Table 0.1). -/
structure CoreId where
  half : HalfId
  grove : Fin 17
  core : Fin 8
  deriving DecidableEq, Repr

/-- Number of a core within its half: grove × 8 + core (Table 20.13). -/
def CoreId.num (k : CoreId) : Nat := k.grove.val * 8 + k.core.val

/-- A 128-bit value with its tag (R32, R33). With the tag clear the bits are plain data. -/
structure TCap where
  bits : Word128
  tag : Bool
  deriving DecidableEq, Repr

/-- The all-zero untagged value. -/
def TCap.null : TCap := ⟨0, false⟩

/-- Register-sized arithmetic shorthand: the number a bit holds. -/
def b2n (b : Bool) : Nat := if b then 1 else 0

/-- Bits [hi:lo] of a natural number. -/
def nbits (n hi lo : Nat) : Nat := (n >>> lo) % 2 ^ (hi + 1 - lo)

/-- Whether bit i of a natural number is 1. -/
def nbit (n i : Nat) : Bool := n.testBit i

end Sys2Proof
end

