-- ==== Sys2Proof/Syntax.lean ====
section
/-! DEFINITION. The commands of the ZK7160: one constructor of `Instr` per row of spec/opcode_table.json, with the
row's operands, and the operand types they carry. -/

namespace Sys2Proof

/-- One operand specifier as the encoding holds it (R64, Table 3.8): mode, register field, scale byte (modes A and B)
and the extension value (displacement sign-extended, or the immediate zero-extended). -/
structure Spec where
  mode : BitVec 4
  reg : BitVec 4
  scale : Byte
  ext : Word
  deriving DecidableEq, Repr

/-- One leading byte of an instruction before its opcode (R61, Table 3.5); `nn` is the count byte that follows F6 and
is not there for any other. -/
structure Lead where
  byte : Byte
  nn : Byte
  deriving DecidableEq, Repr

/-- An Aboux/C instruction as its encoding spells it (R60), the opcode apart: the leading bytes in order, the fixed
bytes (displacement sign-extended to 32 bits, system register number, or packed length byte) and the operand
specifiers in order. -/
structure Enc where
  leads : List Lead
  fixed : BitVec 32
  ops : List Spec
  deriving DecidableEq, Repr

/-- Containment regions, rows of Table 1.2 in order (R15, R438). -/
inductive Region where
  | grove | wardenPair | canopyBank | ddrChannel | codeStoreDie | sessionPipeline | hostInterface | boomLink
  | seamLink | timebase | alwaysOn
  deriving DecidableEq, Repr

/-- What holds a Warden in reset under R371. -/
inductive WardenFault where
  | lockstep | sramUncorrectable | stall
  deriving DecidableEq, Repr

/-- Why a Boom link goes down (R332). -/
inductive LinkDownCause where
  | replays | silence
  deriving DecidableEq, Repr

/-- What a scrubber reads (R174): Canopy and other device memory by physical granule or line address. -/
inductive ScrubStore where
  | canopy | ddr | groveL2 | unitSram | wardenSram
  deriving DecidableEq, Repr

/-- The error that has arisen in what a scrubber reads (R174). -/
inductive ScrubFind where
  | clean | correctable | uncorrectable
  deriving DecidableEq, Repr

/-- What a scrub read meets: the place it reads, and the error that has arisen there. -/
structure ScrubPlace where
  addr : BitVec 46
  found : ScrubFind
  deriving DecidableEq, Repr

/-- What training finds of a half's DIMM population (R175): slots populated, GiB per channel, and whether every DIMM
is an ECC x4 RDIMM of equal channels whose SPD lists the rate. -/
structure DdrPopulation where
  slots : BitVec 8
  capGib : BitVec 8
  dimmsPerChannel : BitVec 2
  rdimmX4Ecc : Bool
  equalChannels : Bool
  spdListsRate : Bool
  deriving DecidableEq, Repr

/-- Rails that R412 watches. -/
inductive Rail where
  | vddCoreE | vddCoreW | vddAon | vddSram | vddIo | vddFl | vddSer | vddhSer | vddqDdr
  deriving DecidableEq, Repr

/-- Wake sources in the order of their codes 1–5 (R410). -/
inductive WakeSource where
  | frame | doorbell | timer | boomPacket | smbus
  deriving DecidableEq, Repr

/-- A node-table entry as Cruise distributes it (R337, R343, R344). -/
structure NodeEntry where
  node : BitVec 9
  serial : Word
  state : BitVec 2
  epoch : BitVec 4
  floor : BitVec 4
  alt : BitVec 4
  pri : BitVec 4
  deriving DecidableEq, Repr

/-- Cruise messages by what R336–R344 say they do; the manual gives their bytes no layout. -/
inductive CruMsg where
  /-- A device's link has trained, or an unjoined device asks to join (R338 steps 1–3). -/
  | hello (serial : Word) (pref : Byte)
  /-- The root's grant of a device number and its epochs to this device (R338 step 3). -/
  | grant (device : Byte) (eastEpoch westEpoch : BitVec 4) (rootNode : BitVec 9) (fgen : BitVec 16)
  /-- The node table as the root distributes it after each change (R337, R344). -/
  | table (rootNode : BitVec 9) (fgen : BitVec 16) (entries : List NodeEntry)
  /-- Two sets have met: the other root's serial and its node table with its floors (R342, R343). -/
  | merge (rootSerial : Word) (fgen : BitVec 16) (entries : List NodeEntry)
  /-- The receiver is excluded and must rejoin (R339). -/
  | excluded
  deriving DecidableEq, Repr

/-- The commands: one constructor per row of spec/opcode_table.json. `k` names the core that executes, `h` the half
whose unit acts, `m` the 7-bit master identity (Table 9.1) that makes a set-up access. -/
inductive Instr where
  -- Aboux/C instructions (chapters 3 to 7)
  | nop (k : CoreId) (e : Enc)
  | wait (k : CoreId) (e : Enc)
  | fence (k : CoreId) (e : Enc)
  | fenceE (k : CoreId) (e : Enc)
  | svc (k : CoreId) (e : Enc)
  | mcall (k : CoreId) (e : Enc)
  | ret (k : CoreId) (e : Enc)
  | reti (k : CoreId) (e : Enc)
  | bpt (k : CoreId) (e : Enc)
  | mov (k : CoreId) (e : Enc)
  | movz (k : CoreId) (e : Enc)
  | movs (k : CoreId) (e : Enc)
  | clr (k : CoreId) (e : Enc)
  | xchg (k : CoreId) (e : Enc)
  | swapb (k : CoreId) (e : Enc)
  | add (k : CoreId) (e : Enc)
  | adc (k : CoreId) (e : Enc)
  | sub (k : CoreId) (e : Enc)
  | sbc (k : CoreId) (e : Enc)
  | neg (k : CoreId) (e : Enc)
  | inc (k : CoreId) (e : Enc)
  | dec (k : CoreId) (e : Enc)
  | cmp (k : CoreId) (e : Enc)
  | and (k : CoreId) (e : Enc)
  | or (k : CoreId) (e : Enc)
  | xor (k : CoreId) (e : Enc)
  | not (k : CoreId) (e : Enc)
  | tst (k : CoreId) (e : Enc)
  | shl (k : CoreId) (e : Enc)
  | shr (k : CoreId) (e : Enc)
  | sar (k : CoreId) (e : Enc)
  | rol (k : CoreId) (e : Enc)
  | ror (k : CoreId) (e : Enc)
  | mul (k : CoreId) (e : Enc)
  | muluH (k : CoreId) (e : Enc)
  | mulsH (k : CoreId) (e : Enc)
  | div (k : CoreId) (e : Enc)
  | divu (k : CoreId) (e : Enc)
  | rem (k : CoreId) (e : Enc)
  | remu (k : CoreId) (e : Enc)
  /-- Long operation number `i`, counted from the oldest incomplete one, completes (R135). -/
  | longOperationComplete (k : CoreId) (i : Nat)
  | daa (k : CoreId) (e : Enc)
  | addp (k : CoreId) (e : Enc)
  | subp (k : CoreId) (e : Enc)
  | cmpp (k : CoreId) (e : Enc)
  | cvtpb (k : CoreId) (e : Enc)
  | cvtbp (k : CoreId) (e : Enc)
  | cvtpd (k : CoreId) (e : Enc)
  | cvtdp (k : CoreId) (e : Enc)
  /-- `wide` = the r16 form, opcodes 0x70–0x7F (Table 3.6). -/
  | bcc (k : CoreId) (cc : BitVec 4) (wide : Bool) (e : Enc)
  | brl (k : CoreId) (e : Enc)
  | jmp (k : CoreId) (e : Enc)
  | call (k : CoreId) (e : Enc)
  | jmpa (k : CoreId) (e : Enc)
  | calla (k : CoreId) (e : Enc)
  | callr (k : CoreId) (e : Enc)
  | callrl (k : CoreId) (e : Enc)
  | rdsr (k : CoreId) (e : Enc)
  | wrsr (k : CoreId) (e : Enc)
  | rdsc (k : CoreId) (e : Enc)
  | wrsc (k : CoreId) (e : Enc)
  | rdsw (k : CoreId) (e : Enc)
  | wrsw (k : CoreId) (e : Enc)
  | ei (k : CoreId) (e : Enc)
  | di (k : CoreId) (e : Enc)
  | cas (k : CoreId) (e : Enc)
  | ccopy (k : CoreId) (e : Enc)
  | cstep (k : CoreId) (e : Enc)
  | cplace (k : CoreId) (e : Enc)
  | cfit (k : CoreId) (e : Enc)
  | cfitx (k : CoreId) (e : Enc)
  | cdrop (k : CoreId) (e : Enc)
  | cmode (k : CoreId) (e : Enc)
  | cbrand (k : CoreId) (e : Enc)
  | cunbr (k : CoreId) (e : Enc)
  | csent (k : CoreId) (e : Enc)
  | cvoid (k : CoreId) (e : Enc)
  | cldc (k : CoreId) (e : Enc)
  | cstc (k : CoreId) (e : Enc)
  | crbase (k : CoreId) (e : Enc)
  | crtop (k : CoreId) (e : Enc)
  | crspan (k : CoreId) (e : Enc)
  | crperm (k : CoreId) (e : Enc)
  | crotype (k : CoreId) (e : Enc)
  | crtag (k : CoreId) (e : Enc)
  | crnode (k : CoreId) (e : Enc)
  | crepoch (k : CoreId) (e : Enc)
  | dadd (k : CoreId) (e : Enc)
  | dsub (k : CoreId) (e : Enc)
  | dmul (k : CoreId) (e : Enc)
  | ddiv (k : CoreId) (e : Enc)
  | dcmp (k : CoreId) (e : Enc)
  | dquant (k : CoreId) (e : Enc)
  | drnd (k : CoreId) (e : Enc)
  | dneg (k : CoreId) (e : Enc)
  | dabs (k : CoreId) (e : Enc)
  | dcvti (k : CoreId) (e : Enc)
  | dcvtf (k : CoreId) (e : Enc)
  | dcvtw (k : CoreId) (e : Enc)
  | fadd (k : CoreId) (e : Enc)
  | fsub (k : CoreId) (e : Enc)
  | fmul (k : CoreId) (e : Enc)
  | fdiv (k : CoreId) (e : Enc)
  | fcmp (k : CoreId) (e : Enc)
  | fcvtd (k : CoreId) (e : Enc)
  | fcvtb (k : CoreId) (e : Enc)
  | tlbi (k : CoreId) (e : Enc)
  | tlbia (k : CoreId) (e : Enc)
  | tlbik (k : CoreId) (e : Enc)
  | wci (k : CoreId) (e : Enc)
  | pmcrd (k : CoreId) (e : Enc)
  -- core events (chapters 5, 6 and 10)
  | interruptEntry (k : CoreId)
  | holdOverrun (k : CoreId)
  /-- `late` = ticks by which completion followed the slot end (Table 6.5). -/
  | paceMiss (k : CoreId) (late : Nat)
  | pacedEnable (h : HalfId) (m : BitVec 7) (g : Fin 17) (v : Word)
  | pacedCopyComplete (h : HalfId) (g : Fin 17)
  -- Foreman (chapter 10)
  | start (h : HalfId) (m : BitVec 7) (thread : BitVec 17)
  | abortThread (h : HalfId) (m : BitVec 7) (thread : BitVec 17)
  | abortCompartment (h : HalfId) (m : BitVec 7) (comp : BitVec 17)
  | free (h : HalfId) (m : BitVec 7) (thread : BitVec 17)
  | signal (h : HalfId) (m : BitVec 7) (thread : BitVec 17)
  | timer (h : HalfId) (thread : BitVec 17)
  | switchIn (k : CoreId)
  | stepLimit (k : CoreId)
  -- set-up space and boundary table (chapters 0 and 9)
  | registerWrite (h : HalfId) (m : BitVec 7) (addr : BitVec 46) (size : Nat) (v : Word)
  /-- `word` 0, 1, 2 = BND_ENTn_CTL, _RD, _WR. -/
  | boundaryEntryWrite (h : HalfId) (m : BitVec 7) (n : Fin 256) (word : Fin 3) (v : Word)
  | groupDisable (h : HalfId) (m : BitVec 7) (g : Fin 16)
  | groupDrained (h : HalfId) (g : Fin 16)
  | groupEnable (h : HalfId) (m : BitVec 7) (g : Fin 16)
  | boundaryHoldTimeout (h : HalfId)
  | bndFence (h : HalfId) (m : BitVec 7) (mask : BitVec 17)
  -- fault manager (chapter 17)
  | codewordViolation (h : HalfId) (r : Region) (index : Byte)
  /-- `unreadable` = cores of the grove whose journal or commit buffer reads uncorrectable through the recovery port. -/
  | groveTakeover (h : HalfId) (g : Fin 17) (unreadable : List (Fin 8))
  | pacedAreaCopyComplete (h : HalfId) (g : Fin 17) (fromCodeStore : Bool)
  | stall (h : HalfId) (r : Region) (index : Byte) (handshake : Word)
  | rotationWindow (h : HalfId)
  | drainEnd (h : HalfId)
  | selfTestComplete (h : HalfId) (g : Fin 17) (pass : Bool)
  | returnEnd (h : HalfId)
  | suspensionWindow (h : HalfId)
  | faultInject (h : HalfId) (m : BitVec 7) (v : Word)
  | fltRetest (h : HalfId) (m : BitVec 7) (grove : BitVec 5)
  | retestComplete (h : HalfId) (pass : Bool)
  /-- `both` = the other Warden claims in the same handshake. -/
  | claim (h : HalfId) (both : Bool)
  | renew (h : HalfId)
  | latchRelease (h : HalfId)
  | leaseExpiry
  | lockstep (h : HalfId) (cause : WardenFault)
  | seamLoss
  | oscFail
  | scrubRead (h : HalfId) (st : ScrubStore) (place : ScrubPlace)
  /-- `store` 0, 1, 2 = SRAM, DDR, code store (FLT_SCRUB bit). -/
  | scrubLate (h : HalfId) (store : Fin 3)
  /-- `errs`, `otherErrs` = bit errors found in the line on this die and on the other die. -/
  | codestorePatrolRead (h : HalfId) (line : BitVec 28) (errs otherErrs : Nat)
  -- Ethernet ports and Flume (chapter 11)
  | frameReceive (h : HalfId) (sub : Fin 4) (frame : List Byte)
  | pfcRepeat (h : HalfId) (sub : Fin 4) (prio : Fin 8)
  | pauseFrame (h : HalfId) (sub : Fin 4) (quanta : BitVec 16)
  | pfcFrame (h : HalfId) (sub : Fin 4) (enable : Byte) (times : List (BitVec 16))
  | pauseTimeExpiry (h : HalfId) (sub : Fin 4) (prio : Fin 8)
  | ethModeWrite (h : HalfId) (m : BitVec 7) (v : Word)
  | autoNegotiationComplete (h : HalfId) (sub : Fin 4) (common : Bool)
  | linkUp (h : HalfId) (sub : Fin 4)
  | linkLoss (h : HalfId) (sub : Fin 4)
  | flumeSessionLookup (h : HalfId)
  | reassemblyTimeout (h : HalfId) (i : Nat)
  | retransmissionTimeout (h : HalfId) (session : BitVec 16)
  | delayedAckTimeout (h : HalfId) (session : BitVec 16)
  | keepaliveTimeout (h : HalfId) (session : BitVec 16)
  | udpIdleTimeout (h : HalfId) (session : BitVec 16)
  | coldSessionFetch (h : HalfId) (session : BitVec 16)
  | openSession (h : HalfId) (m : BitVec 7) (addr : BitVec 40) (session : BitVec 16)
  | close (h : HalfId) (m : BitVec 7) (session : BitVec 16)
  | abort (h : HalfId) (m : BitVec 7) (session : BitVec 16)
  | path0 (h : HalfId) (m : BitVec 7) (session : BitVec 16)
  | path1 (h : HalfId) (m : BitVec 7) (session : BitVec 16)
  | release (h : HalfId) (m : BitVec 7) (session : BitVec 16)
  | frameTransmit (h : HalfId) (sub : Fin 4)
  | tmbStep (h : HalfId) (m : BitVec 7) (v : Word)
  | tmbTxts0Read (h : HalfId) (m : BitVec 7)
  | ppsIn
  | ppsOut
  | ppsOutFall
  -- Kiln (chapter 12)
  | recordUnprotect (h : HalfId) (session : BitVec 16)
  | recordProtect (h : HalfId) (session : BitVec 16)
  | primitivePost (h : HalfId) (m : BitVec 7) (prod : BitVec 16)
  | rand (h : HalfId)
  | keygen (h : HalfId)
  | ecdh (h : HalfId)
  | hash (h : HalfId)
  | extract (h : HalfId)
  | expand (h : HalfId)
  | hmac (h : HalfId)
  | sign (h : HalfId)
  | verify (h : HalfId)
  | install (h : HalfId)
  | kilnFree (h : HalfId)
  | unwrap (h : HalfId) (m : BitVec 7) (slot : BitVec 6) (addr : BitVec 46)
  | clear (h : HalfId) (m : BitVec 7) (slot : BitVec 6)
  | done (h : HalfId) (m : BitVec 7)
  | entropyFail (h : HalfId)
  | drbgReseed (h : HalfId)
  -- Mill and Scaler (chapters 13 and 14)
  | millParseJob (h : HalfId) (session : BitVec 16)
  | frameBuild (h : HalfId) (session : BitVec 16)
  | load (h : HalfId) (m : BitVec 7) (slot : Byte) (addr : BitVec 40)
  | unload (h : HalfId) (m : BitVec 7) (slot : Byte)
  | scalerJob (h : HalfId) (session : BitVec 16)
  | sweepClose (h : HalfId) (cls : Fin 16)
  | set (h : HalfId) (m : BitVec 7) (point : BitVec 24)
  | read (h : HalfId) (m : BitVec 7) (point : BitVec 24)
  | flush (h : HalfId) (m : BitVec 7) (point : BitVec 24)
  | dropCurve (h : HalfId) (m : BitVec 7) (slot : BitVec 16)
  | dropProgram (h : HalfId) (m : BitVec 7) (slot : BitVec 16)
  -- host interface and rings (chapter 15)
  | doorbell (h : HalfId) (ring : BitVec 17) (v : Word)
  | descriptorFetch (h : HalfId)
  | acceptance (h : HalfId) (ring : BitVec 17)
  /-- `tag` = the in-flight TAG of the accepted descriptor (R320), here and in the operations below. -/
  | createRing (h : HalfId) (tag : BitVec 15)
  | destroyRing (h : HalfId) (tag : BitVec 15)
  | ackAttn (h : HalfId) (tag : BitVec 15)
  | queryRing (h : HalfId) (tag : BitVec 15)
  | nopCommand (h : HalfId) (tag : BitVec 15)
  | send (h : HalfId) (tag : BitVec 15)
  | deliver (h : HalfId) (tag : BitVec 15)
  | raw (h : HalfId) (tag : BitVec 15)
  | group (h : HalfId) (tag : BitVec 15)
  | replyRecordWrite (h : HalfId) (ring : BitVec 17)
  | replyPost (h : HalfId)
  | framePost (h : HalfId)
  | msixModerationTimeout (h : HalfId) (ring : BitVec 17)
  | ringEngineEnable (h : HalfId) (m : BitVec 7)
  | ringEngineDisable (h : HalfId) (m : BitVec 7)
  | hifNotice (h : HalfId) (m : BitVec 7)
  | hostInterfaceReset (h : HalfId)
  | bdfCapture (h : HalfId) (bdf : BitVec 16)
  /-- The read of the 64-byte host line at `line` gets no completion in time. -/
  | completionTimeout (h : HalfId) (line : Word)
  | dedupExpiry (h : HalfId) (cmdid : Word)
  | partTimeout (h : HalfId) (tag : BitVec 15) (part : Fin 64)
  -- Boom fabric (chapter 16)
  | linkTrained (h : HalfId) (l : Fin 4)
  | linkTrainRetry (h : HalfId) (l : Fin 4)
  | flitReceive (h : HalfId) (l : Fin 4) (flit : List Byte)
  | nak (h : HalfId) (l : Fin 4) (ack : BitVec 10)
  | linkDown (h : HalfId) (l : Fin 4) (cause : LinkDownCause)
  | rd (h : HalfId)
  | wr (h : HalfId)
  | atom (h : HalfId)
  | eff (h : HalfId)
  | sig (h : HalfId)
  | rsp (h : HalfId)
  | part (h : HalfId)
  | pres (h : HalfId)
  | mirr (h : HalfId)
  | mack (h : HalfId)
  | keyx (h : HalfId)
  | cru (h : HalfId) (src : BitVec 9) (msg : CruMsg)
  | excluded (h : HalfId)
  | hb (h : HalfId)
  | heartbeatSend (h : HalfId)
  | busyResend (h : HalfId) (txn : BitVec 11)
  | nodeDead (h : HalfId) (node : BitVec 9)
  | silence (h : HalfId)
  | adoption (h : HalfId)
  | bomFinv (h : HalfId) (m : BitVec 7)
  | bomXsig (h : HalfId) (m : BitVec 7) (node : BitVec 9) (thread : BitVec 17)
  -- root-firmware services, life-cycle and tamper (chapter 18)
  | ctrRead (k : CoreId)
  | ctrAdvance (k : CoreId)
  | svnCommit (k : CoreId)
  | update (k : CoreId)
  | lcRequest (k : CoreId)
  | safe (k : CoreId)
  | activate (k : CoreId)
  | lcsXreq (h : HalfId) (m : BitVec 7) (addr : BitVec 41)
  | lcsCinc (h : HalfId) (m : BitVec 7) (counter : BitVec 4) (target : Byte)
  /-- `cause` + 1 is the cause number of Table 18.8. -/
  | tamperAlarm (cause : Fin 14)
  -- modes, power and start-up (chapter 19)
  | powerOnReset
  | warmReset
  | warm (h : HalfId) (m : BitVec 7)
  | resetRelease
  | ddrTrainingComplete (h : HalfId) (pop : DdrPopulation)
  | ddrInitComplete (h : HalfId)
  | coreRelease
  | railOutOfRange (rail : Rail)
  | watchEntry
  | wake (src : WakeSource)
  | wakeComplete
  | voltageStep (h : HalfId) (mv : BitVec 16)
  /-- `ok` = the PMBus transaction succeeded; then the readings of VOUT in mV, Tj and the delay monitor's step. -/
  | pmbusPoll (h : HalfId) (ok : Bool) (vout tj stepPs : BitVec 16)
  -- low-speed I/O, TAP and debug (chapter 20)
  | smbReadIdv
  | smbReadPwrStat (h : HalfId)
  | smbReadFltGuar
  | smbReadTmpAlarm
  | smbReadLcsState
  | smbWake
  | spiGo (h : HalfId) (m : BitVec 7) (v : Word)
  /-- `rx` = the bytes the flash returned (a read transfer). -/
  | spiTransferComplete (rx : List Byte)
  | uartDataWrite (h : HalfId) (m : BitVec 7) (n : Fin 2) (v : Word)
  | uartDataRead (h : HalfId) (m : BitVec 7) (n : Fin 2)
  | uartReceive (n : Fin 2) (b : Byte)
  | uartTransmit (n : Fin 2)
  | tapReset
  | bypass (h : HalfId)
  | idcode (h : HalfId)
  | samplePreload (h : HalfId)
  | extest (h : HalfId)
  | highz (h : HalfId)
  | clamp (h : HalfId)
  | extestPulse (h : HalfId)
  | extestTrain (h : HalfId)
  | dbgAuth (h : HalfId) (signature : List Byte) (scope : Byte)
  | dbgAccessRead (h : HalfId) (addr : BitVec 46)
  | dbgAccessWrite (h : HalfId) (addr : BitVec 46) (data : Word)
  /-- `stage` + 1 is the stage of Table 18.4; `ok` = the SPI recovery flash holds valid images, where stage 2 comes to it. -/
  | bootStageComplete (stage : Fin 6) (ok : Bool)
  /-- `ok` = every fuse programmed, in at most 8 retries each. -/
  | lifeCycleTransitionComplete (ok : Bool)
  | msixVectorUnmask (h : HalfId) (vector : BitVec 10)
  | keptResponseExpiry (h : HalfId) (src : BitVec 9) (txn : BitVec 11)
  | pcieLinkUp (h : HalfId)
  deriving DecidableEq, Repr

end Sys2Proof
end

