-- ==== Sys2Proof/Decode.lean ====
section
/-! DEFINITION. Commands read from table words. The opcode table gives no row bits: a command reaches the block with its
operands, and no word spells one. -/

namespace Sys2Proof

/-- The command that a word spells by the table's bits: none, since no row of the table gives bits. -/
def decodeTableWord (_nbits _w : Nat) : Option Instr := none

end Sys2Proof
end

