-- ==== Sys2Proof/Config.lean ====
section
/-! DEFINITION. What the spec leaves open (free values, none with a body) and the cryptographic functions it takes
from standards outside it. Nothing can evaluate them: a statement about one holds whatever it is. -/

namespace Sys2Proof

/-- Free values, applied to the counter `freeCount` of State (log entry 12). -/
opaque Config.free : Nat → Word

/-- Random bytes of the DRBG (R253, R259), applied to the counter and the byte's place. -/
opaque Config.random : Nat → Nat → Byte

/-- SHA-256 (PARAM 0) and SHA-384 (PARAM 1) of Table 12.5 (log entry 8). -/
opaque Config.hash : (param : Nat) → List Byte → List Byte

/-- HKDF-Extract: hash, salt, input keying material (Table 12.5, log entry 8). -/
opaque Config.hkdfExtract : (param : Nat) → (salt ikm : List Byte) → List Byte

/-- HKDF-Expand: hash, secret, info, length (Table 12.5, log entry 8). -/
opaque Config.hkdfExpand : (param : Nat) → (secret info : List Byte) → (len : Nat) → List Byte

/-- HMAC: hash, key, message (Table 12.5, log entry 8). -/
opaque Config.hmac : (param : Nat) → (key msg : List Byte) → List Byte

/-- The record number mask of RFC 9147 section 4.2.3: suite, record number key, leading ciphertext bytes (R248, R443). -/
opaque Config.snMask : (suite : Nat) → (key sample : List Byte) → BitVec 16

/-- Public key of a private key under a curve (KEYGEN of Table 12.5). -/
opaque Config.publicKey : (curve : Nat) → (priv : List Byte) → List Byte

/-- Key agreement: none for an invalid or small-order point (ECDH of Table 12.5). -/
opaque Config.ecdh : (curve : Nat) → (priv peer : List Byte) → Option (List Byte)

/-- Signature of a message or digest (SIGN of Table 12.5); the last argument is the nonce counter of ECDSA. -/
opaque Config.sign : (curve : Nat) → (priv msg : List Byte) → Nat → List Byte

/-- Whether VERIFY's input (public key, signature and message, as PARAM gives) verifies (Table 12.5). -/
opaque Config.verify : (param : Nat) → (input : List Byte) → Bool

/-- ECDSA P-384 verification: public key, signature r ‖ s, signed bytes (R384, R391, R398). -/
opaque Config.ecdsaP384 : (key signature msg : List Byte) → Bool

/-- AES-256 KW unwrap of a vault blob under the die's KEK: key type, use mask and key, or none (R255). -/
opaque Config.kwUnwrap : (half : Nat) → (blob : List Byte) → Option (Nat × Nat × List Byte)

/-- The pair key for one direction, which HKDF-SHA-384 derives from the X25519 shares that the two buddies' messages carry (R350): sender and
receiver, and their messages. -/
opaque Config.pairKey : (src dst : Nat) → (srcMsg dstMsg : List Byte) → List Byte

/-- TCP timestamp value that Flume sends at an elapsed count (R226): RFC 7323 leaves the clock open (log entry 12). -/
opaque Config.tcpClock : (elapsed : Nat) → BitVec 32

/-- The levels that the board gives the GPIO pins at an elapsed count (R433, log entry 41): no command of the table carries
them. -/
opaque Config.gpioIn : (elapsed : Nat) → BitVec 16

/-- What a 64-bit division-like corner that the manual leaves without a result reads as (log entry 12). -/
opaque Config.undefinedResult : (opcode a b : Nat) → Word

/-- Whether binary64 operations detect tininess after rounding, which IEEE 754 leaves to the device (R101, R102). -/
opaque Config.tinyAfterRounding : Bool

/-- Sign of the quiet NaN that a default invalid result is (R99 gives its payload only). -/
opaque Config.defaultNanSign : Bool

end Sys2Proof
end

