-- ==== Sys2Proof/Machine/RegMap.lean ====
section
/-! DEFINITION. The register maps of the set-up blocks, transcribed from the spec's tables (0.2, 0.5, 6.3, 6.7–6.11,
8.4, 8.5, 9.2–9.10, 10.10–10.13, 11.8–11.10, 12.7, 13.10, 14.8, 15.11, 16.10, 17.7, 17.8, 18.11, 18.12, 19.6–19.8,
20.12, 20.13). Bits that no field of a register covers are reserved (R10). -/

namespace Sys2Proof.Machine

/-- Access codes of Table 0.4 (R9). -/
inductive Access where
  | ro | rw | wo | w1c | w1s | rwl | ros
  deriving DecidableEq, Repr

/-- One field of a register: bits [hi:lo], access code and reset value. -/
structure RField where
  name : String
  hi : Nat
  lo : Nat
  acc : Access
  reset : Nat
  deriving DecidableEq, Repr

/-- One row group of a register map: register `name` of block `blk`, `count` of them `stride` bytes apart. -/
structure RegDesc where
  name : String
  blk : Nat
  off : Nat
  stride : Nat
  count : Nat
  fields : List RField
  deriving DecidableEq, Repr

/-- A field named by the block, offset and bit positions it stands at. -/
structure Fld where
  blk : Nat
  off : Nat
  hi : Nat
  lo : Nat
  deriving DecidableEq, Repr

/-- The same field of the register `d` bytes further on (numbered registers). -/
def Fld.at (f : Fld) (d : Nat) : Fld := { f with off := f.off + d }

/-- The same field in grove g's block (R29: block 0x20 + grove). -/
def Fld.grove (f : Fld) (g : Nat) : Fld := { f with blk := 0x20 + g }

/-- One field row of a table. -/
def rf (name : String) (hi lo : Nat) (acc : Access) (reset : Nat) : RField := ⟨name, hi, lo, acc, reset⟩

/-- Registers of block 0x00 (IDV). -/
def regsIdv : List RegDesc := [
  ⟨"IDV_DEVICE", 0x00, 0x0000, 0, 1, [rf "PART" 31 16 .ro 29024, rf "STEP_LETTER" 15 12 .ro 2,
    rf "STEP_NUM" 11 8 .ro 1, rf "HALF" 7 4 .ro 0, rf "ORDER" 3 0 .ros 1]⟩]

/-- Registers of block 0x02 (FLT). -/
def regsFlt : List RegDesc := [
  ⟨"FLT_GUAR", 0x02, 0x0000, 0, 1, [rf "DEGR" 7 7 .ro 0, rf "GUAR" 6 6 .ro 0, rf "GROUP_OK" 5 5 .ro 0,
    rf "LATCH_OK" 4 4 .ro 0, rf "SCRUB_OK" 3 3 .ro 0, rf "ROT_OK" 2 2 .ro 0, rf "COND_OK" 1 1 .ro 0,
    rf "SPARE_OK" 0 0 .ro 0]⟩,
  ⟨"FLT_LATCH", 0x02, 0x0008, 0, 1, [rf "LEASE_US" 25 16 .ro 0, rf "RELEASE" 5 5 .w1s 0, rf "RENEW" 4 4 .w1s 0,
    rf "CLAIM" 3 3 .w1s 0, rf "HOLDER" 1 0 .ro 2]⟩,
  ⟨"FLT_ROT", 0x02, 0x0010, 0, 1, [rf "WINDOW" 35 32 .ro 0, rf "POSTPONED" 31 16 .ro 0, rf "EN" 0 0 .rwl 0]⟩,
  ⟨"FLT_GSTAT", 0x02, 0x0018, 0, 1, [rf "STATE" 33 0 .ro 8589934592]⟩,
  ⟨"FLT_GFAIL", 0x02, 0x0020, 0, 1, [rf "FAILED" 16 0 .ros 0]⟩,
  ⟨"FLT_RETEST", 0x02, 0x0028, 0, 1, [rf "RESULT" 63 62 .ro 0, rf "BUSY" 61 61 .ro 0, rf "GROVE" 4 0 .wo 0]⟩,
  ⟨"FLT_LOG", 0x02, 0x0030, 0, 1, [rf "BASE" 45 12 .rwl 0, rf "LOG2" 3 0 .rwl 8]⟩,
  ⟨"FLT_LIDX", 0x02, 0x0038, 0, 1, [rf "LOST" 63 32 .ro 0, rf "PROD" 31 16 .ro 0, rf "CONS" 15 0 .rw 0]⟩,
  ⟨"FLT_HLOG", 0x02, 0x0040, 0, 1, [rf "BASE" 63 12 .rw 0, rf "EN" 4 4 .rw 0, rf "LOG2" 3 0 .rw 6]⟩,
  ⟨"FLT_CNT0", 0x02, 0x0048, 0, 1, [rf "CE_SRAM" 63 32 .ro 0, rf "UE_SRAM" 31 16 .ro 0, rf "CODEWORD" 15 0 .ro 0]⟩,
  ⟨"FLT_CNT1", 0x02, 0x0050, 0, 1, [rf "STALL" 63 48 .ro 0, rf "TEST_FAIL" 47 32 .ro 0, rf "TEST_LATE" 31 16 .ro 0,
    rf "LATCH_DROP" 15 0 .ro 0]⟩,
  ⟨"FLT_SCRUB", 0x02, 0x0058, 0, 1, [rf "CODE_LATE" 2 2 .w1c 0, rf "DDR_LATE" 1 1 .w1c 0, rf "SRAM_LATE" 0 0 .w1c 0]⟩,
  ⟨"FLT_INJ", 0x02, 0x0060, 0, 1, [rf "CLASS" 63 60 .wo 0, rf "TARGET" 4 0 .wo 0]⟩,
  ⟨"FLT_CNT2", 0x02, 0x0068, 0, 1, [rf "PMERGE_SRAM" 63 32 .ro 0, rf "PMERGE_DDR" 31 0 .ro 0]⟩]

/-- Registers of block 0x03 (BND), part 1. -/
def regsBnd1 : List RegDesc := [
  ⟨"BND_CTRL", 0x03, 0x0000, 0, 1, [rf "STRICT" 0 0 .rwl 0]⟩,
  ⟨"BND_PRIV", 0x03, 0x0008, 0, 1, [rf "PRIV" 62 0 .rwl 3]⟩,
  ⟨"BND_HOLDT", 0x03, 0x0010, 0, 1, [rf "HOLD_US" 9 0 .rwl 100]⟩,
  ⟨"BND_GDIS", 0x03, 0x0018, 0, 1, [rf "GDIS" 15 0 .rw 0]⟩,
  ⟨"BND_GSTAT", 0x03, 0x0020, 0, 1, [rf "HELD" 31 16 .ro 0, rf "DRAINED" 15 0 .ro 65535]⟩,
  ⟨"BND_FENCE", 0x03, 0x0028, 0, 1, [rf "FENCE" 16 0 .w1s 0]⟩,
  ⟨"BND_GEPOCH", 0x03, 0x0030, 0, 1, [rf "EPOCH" 33 0 .ro 0]⟩,
  ⟨"BND_STAT", 0x03, 0x0038, 0, 1, [rf "HOLDTO" 31 16 .ro 0, rf "OVERLAPS" 15 0 .ro 0]⟩,
  ⟨"BND_CNT", 0x03, 0x0040, 0, 1, [rf "REFUSED" 63 32 .ro 0, rf "FENCED_DROP" 31 0 .ro 0]⟩,
  ⟨"BND_EGRESS_RD", 0x03, 0x0048, 0, 1, [rf "EGR" 62 0 .rwl 0]⟩,
  ⟨"BND_EGRESS_WR", 0x03, 0x0050, 0, 1, [rf "EGR" 62 0 .rwl 0]⟩,
  ⟨"BND_ENT_CTL", 0x03, 0x1000, 32, 256, [rf "V" 63 63 .rw 0, rf "LOCK" 62 62 .w1s 0, rf "GRP" 59 56 .rw 0,
    rf "MANT" 55 52 .rw 0, rf "EXP" 51 46 .rw 0, rf "BASE" 45 12 .rw 0]⟩,
  ⟨"BND_ENT_RD", 0x03, 0x1008, 32, 256, [rf "MASK" 62 0 .rw 0]⟩,
  ⟨"BND_ENT_WR", 0x03, 0x1010, 32, 256, [rf "MASK" 62 0 .rw 0]⟩]

/-- Registers of block 0x03 (BND), part 2. -/
def regsBnd2 : List RegDesc := [
  ⟨"BND_MCLASS", 0x03, 0x0100, 8, 9, [rf "CLASS0" 5 0 .rwl 0, rf "CLASS1" 13 8 .rwl 0, rf "CLASS2" 21 16 .rwl 0,
    rf "CLASS3" 29 24 .rwl 0, rf "CLASS4" 37 32 .rwl 0, rf "CLASS5" 45 40 .rwl 0, rf "CLASS6" 53 48 .rwl 0,
    rf "CLASS7" 61 56 .rwl 0]⟩,
  ⟨"BND_MCLASS9", 0x03, 0x0148, 0, 1, [rf "CLASS0" 5 0 .rwl 0, rf "CLASS1" 13 8 .rwl 0, rf "CLASS2" 21 16 .rwl 0,
    rf "CLASS3" 29 24 .rwl 0, rf "CLASS4" 37 32 .rwl 0, rf "CLASS5" 45 40 .rwl 0, rf "CLASS6" 53 48 .rwl 0]⟩]

/-- Registers of block 0x03 (BND). -/
def regsBnd : List RegDesc := regsBnd1 ++ regsBnd2

/-- Registers of block 0x04 (FMN). -/
def regsFmn : List RegDesc := [
  ⟨"FMN_CTRL", 0x04, 0x0000, 0, 1, [rf "TSEL" 1 1 .rwl 0, rf "EN" 0 0 .rwl 0]⟩,
  ⟨"FMN_STEPLIM", 0x04, 0x0008, 0, 1, [rf "LIMIT_US" 31 0 .rw 0]⟩,
  ⟨"FMN_GROVE", 0x04, 0x0010, 0, 1, [rf "DRAIN" 48 32 .rw 0, rf "SPARE_AS" 20 16 .ro 31]⟩,
  ⟨"FMN_SIGNAL", 0x04, 0x0018, 0, 1, [rf "THREAD" 16 0 .wo 0]⟩,
  ⟨"FMN_CMD", 0x04, 0x0020, 0, 1, [rf "OP" 63 61 .wo 0, rf "ARG" 16 0 .wo 0]⟩,
  ⟨"FMN_STAT", 0x04, 0x0028, 0, 1, [rf "READY" 49 32 .ro 0, rf "ABORTED" 17 0 .ro 0]⟩,
  ⟨"FMN_CNT", 0x04, 0x0030, 0, 1, [rf "EV_DROP" 63 32 .ro 0, rf "CMD_IGN" 31 16 .ro 0, rf "STEPLIM" 15 0 .ro 0]⟩,
  ⟨"FMN_RESTART", 0x04, 0x0038, 0, 1, [rf "RESTARTED" 63 32 .ro 0, rf "ABORTED_NR" 31 16 .ro 0,
    rf "IN_DOUBT" 15 0 .ro 0]⟩]

/-- Registers of block 0x05 (HIF). -/
def regsHif : List RegDesc := [
  ⟨"HIF_CTRL", 0x05, 0x0000, 0, 1, [rf "EN" 0 0 .rw 0]⟩,
  ⟨"HIF_HWIN", 0x05, 0x0008, 0, 1, [rf "BASE" 63 45 .rwl 0]⟩,
  ⟨"HIF_MCMD", 0x05, 0x0010, 0, 1, [rf "BASE" 63 12 .rw 0, rf "LOG2" 4 0 .rw 4]⟩,
  ⟨"HIF_MRPL", 0x05, 0x0018, 0, 1, [rf "BASE" 63 12 .rw 0, rf "LOG2" 4 0 .rw 4]⟩,
  ⟨"HIF_MMOD", 0x05, 0x0020, 0, 1, [rf "IRQ" 63 63 .rw 0, rf "VEC" 57 48 .rw 0, rf "MOD_COUNT" 47 32 .rw 1,
    rf "MOD_US" 15 0 .rw 0]⟩,
  ⟨"HIF_MBASE", 0x05, 0x0028, 0, 1, [rf "BASE" 45 27 .rwl 0]⟩,
  ⟨"HIF_ATTN", 0x05, 0x0030, 0, 1, [rf "PEND" 15 0 .ro 0]⟩,
  ⟨"HIF_NOTICE", 0x05, 0x0038, 0, 1, [rf "RAISE" 0 0 .w1s 0]⟩,
  ⟨"HIF_STAT", 0x05, 0x0040, 0, 1, [rf "DEDUP" 63 48 .ro 0, rf "INFLIGHT" 47 32 .ro 0, rf "POSTQ" 31 16 .ro 0,
    rf "PEER_UP" 1 1 .ro 0, rf "LINK" 0 0 .ro 0]⟩,
  ⟨"HIF_CNT", 0x05, 0x0048, 0, 1, [rf "DB_BAD" 63 32 .ro 0, rf "POST_BAD" 31 16 .ro 0, rf "NORING" 15 0 .ro 0]⟩]

/-- Registers of block 0x06 (FLM). -/
def regsFlm : List RegDesc := [
  ⟨"FLM_CTRL", 0x06, 0x0000, 0, 1, [rf "PBASE" 31 16 .rwl 0, rf "EN" 0 0 .rwl 0]⟩,
  ⟨"FLM_DBASE", 0x06, 0x0008, 0, 1, [rf "BASE" 45 32 .rwl 0]⟩,
  ⟨"FLM_LBASE", 0x06, 0x0010, 0, 1, [rf "BASE" 45 17 .rwl 0]⟩,
  ⟨"FLM_SSBASE", 0x06, 0x0018, 0, 1, [rf "BASE" 45 20 .rwl 0]⟩,
  ⟨"FLM_SPBASE", 0x06, 0x0020, 0, 1, [rf "BASE" 45 12 .rwl 0]⟩,
  ⟨"FLM_SLOW", 0x06, 0x0028, 0, 1, [rf "PROD" 63 48 .ro 0, rf "CONS" 47 32 .rw 0, rf "LOG2" 20 17 .rwl 6,
    rf "THREAD" 16 0 .rwl 0]⟩,
  ⟨"FLM_TCP", 0x06, 0x0030, 0, 1, [rf "RTO_MIN_MS" 63 54 .rw 200, rf "RETRIES" 53 50 .rw 8,
    rf "SYN_RETRIES" 49 47 .rw 5, rf "DELACK_MS" 46 40 .rw 10, rf "KA_INTVL_S" 39 32 .rw 10, rf "TW_S" 31 24 .rw 60,
    rf "MSS" 13 0 .rw 1460]⟩,
  ⟨"FLM_REASM", 0x06, 0x0038, 0, 1, [rf "TIMEOUT_S" 7 0 .rw 30]⟩,
  ⟨"FLM_SCMD", 0x06, 0x0040, 0, 1, [rf "OP" 63 61 .wo 0, rf "ADDR" 55 16 .wo 0, rf "SESSION" 15 0 .wo 0]⟩,
  ⟨"FLM_SRES", 0x06, 0x0048, 0, 1, [rf "BUSY" 63 63 .ro 0, rf "STATUS" 15 0 .ro 0]⟩,
  ⟨"FLM_HOT", 0x06, 0x0050, 0, 1, [rf "HOT" 63 32 .ro 0, rf "PINNED" 31 0 .ro 0]⟩,
  ⟨"FLM_CNT0", 0x06, 0x0058, 0, 1, [rf "CSUM_DROP" 63 32 .ro 0, rf "REASM_DROP" 31 0 .ro 0]⟩,
  ⟨"FLM_CNT1", 0x06, 0x0060, 0, 1, [rf "SP_DROP" 63 48 .ro 0, rf "RST_SENT" 47 32 .ro 0, rf "URG" 31 16 .ro 0,
    rf "BAD_ENTRY" 15 0 .ro 0]⟩,
  ⟨"FLM_CNT2", 0x06, 0x0068, 0, 1, [rf "DIS_DROP" 63 32 .ro 0]⟩]

/-- Registers of block 0x07 (ETH), part 1. -/
def regsEth1 : List RegDesc := [
  ⟨"ETH_MODE", 0x07, 0x0000, 0, 1, [rf "FEC" 11 10 .rwl 0, rf "AN" 9 9 .rwl 1, rf "MODE" 3 0 .rwl 0]⟩,
  ⟨"ETH_PFC", 0x07, 0x0008, 0, 1, [rf "QUANTA" 63 48 .rw 65535, rf "UNTAG_PRIO" 44 42 .rw 0, rf "FLOW" 41 40 .rw 0,
    rf "EN" 39 32 .rw 255, rf "XOFF_KIB" 31 16 .rw 768, rf "XON_KIB" 15 0 .rw 512]⟩,
  ⟨"ETH_STAT", 0x07, 0x0010, 0, 1, [rf "AN_FAIL" 7 4 .ro 0, rf "LINK" 3 0 .ro 0]⟩,
  ⟨"ETH_MAC", 0x07, 0x0018, 0, 1, [rf "MAC" 47 0 .rw 0]⟩,
  ⟨"ETH_DROP", 0x07, 0x0020, 8, 8, [rf "DROP" 63 0 .ro 0]⟩,
  ⟨"ETH_CNT", 0x07, 0x0060, 0, 1, [rf "FCS" 63 32 .ro 0, rf "LEN" 31 0 .ro 0]⟩,
  ⟨"ETH_TXDROP", 0x07, 0x0068, 0, 1, [rf "TXDROP" 63 0 .ro 0]⟩,
  ⟨"ETH_WC_ACT", 0x07, 0x1080, 256, 64, [rf "V" 63 63 .rw 0, rf "ACT" 62 60 .rw 0, rf "SUBPORTS" 59 56 .rw 15,
    rf "LISTENER" 11 0 .rw 0]⟩,
  ⟨"ETH_WC_VAL0", 0x07, 0x1000, 256, 64, [rf "VAL" 63 0 .rw 0]⟩,
  ⟨"ETH_WC_VAL1", 0x07, 0x1008, 256, 64, [rf "VAL" 63 0 .rw 0]⟩,
  ⟨"ETH_WC_VAL2", 0x07, 0x1010, 256, 64, [rf "VAL" 63 0 .rw 0]⟩,
  ⟨"ETH_WC_VAL3", 0x07, 0x1018, 256, 64, [rf "VAL" 63 0 .rw 0]⟩,
  ⟨"ETH_WC_VAL4", 0x07, 0x1020, 256, 64, [rf "VAL" 63 0 .rw 0]⟩,
  ⟨"ETH_WC_VAL5", 0x07, 0x1028, 256, 64, [rf "VAL" 63 0 .rw 0]⟩]

/-- Registers of block 0x07 (ETH), part 2. -/
def regsEth2 : List RegDesc := [
  ⟨"ETH_WC_VAL6", 0x07, 0x1030, 256, 64, [rf "VAL" 63 0 .rw 0]⟩,
  ⟨"ETH_WC_VAL7", 0x07, 0x1038, 256, 64, [rf "VAL" 63 0 .rw 0]⟩,
  ⟨"ETH_WC_MASK0", 0x07, 0x1040, 256, 64, [rf "MASK" 63 0 .rw 0]⟩,
  ⟨"ETH_WC_MASK1", 0x07, 0x1048, 256, 64, [rf "MASK" 63 0 .rw 0]⟩,
  ⟨"ETH_WC_MASK2", 0x07, 0x1050, 256, 64, [rf "MASK" 63 0 .rw 0]⟩,
  ⟨"ETH_WC_MASK3", 0x07, 0x1058, 256, 64, [rf "MASK" 63 0 .rw 0]⟩,
  ⟨"ETH_WC_MASK4", 0x07, 0x1060, 256, 64, [rf "MASK" 63 0 .rw 0]⟩,
  ⟨"ETH_WC_MASK5", 0x07, 0x1068, 256, 64, [rf "MASK" 63 0 .rw 0]⟩,
  ⟨"ETH_WC_MASK6", 0x07, 0x1070, 256, 64, [rf "MASK" 63 0 .rw 0]⟩,
  ⟨"ETH_WC_MASK7", 0x07, 0x1078, 256, 64, [rf "MASK" 63 0 .rw 0]⟩]

/-- Registers of block 0x07 (ETH). -/
def regsEth : List RegDesc := regsEth1 ++ regsEth2

/-- Registers of block 0x08 (KLN). -/
def regsKln : List RegDesc := [
  ⟨"KLN_CTRL", 0x08, 0x0000, 0, 1, [rf "SOFT_LOG2" 13 8 .rw 47, rf "EN" 0 0 .rwl 0]⟩,
  ⟨"KLN_PRING", 0x08, 0x0008, 0, 1, [rf "BASE" 45 12 .rwl 0]⟩,
  ⟨"KLN_PIDX", 0x08, 0x0010, 0, 1, [rf "PROD" 63 48 .rw 0, rf "CONS" 47 32 .ro 0, rf "LOG2" 3 0 .rwl 4]⟩,
  ⟨"KLN_HRING", 0x08, 0x0018, 0, 1, [rf "PROD" 63 48 .ro 0, rf "CONS" 47 32 .rw 0, rf "LOG2" 20 17 .rwl 6,
    rf "THREAD" 16 0 .rwl 0]⟩,
  ⟨"KLN_HBASE", 0x08, 0x0020, 0, 1, [rf "BASE" 45 12 .rwl 0]⟩,
  ⟨"KLN_STAT", 0x08, 0x0028, 0, 1, [rf "SLOTS" 31 16 .ro 0, rf "VAULT_READY" 2 2 .ro 0, rf "ENT_FAIL" 1 1 .ro 0,
    rf "ZEROED" 0 0 .ros 0]⟩,
  ⟨"KLN_CNT", 0x08, 0x0030, 0, 1, [rf "AUTH_FAIL" 63 32 .ro 0, rf "REPLAY" 31 16 .ro 0, rf "BAD_TYPE" 15 0 .ro 0]⟩,
  ⟨"KLN_VCMD", 0x08, 0x0038, 0, 1, [rf "OP" 63 62 .wo 0, rf "SLOT" 61 56 .wo 0, rf "ADDR" 51 6 .wo 0]⟩,
  ⟨"KLN_VSTAT", 0x08, 0x0040, 0, 1, [rf "VALID" 63 0 .ro 0]⟩]

/-- Registers of block 0x09 (MIL). -/
def regsMil : List RegDesc := [
  ⟨"MIL_CTRL", 0x09, 0x0000, 0, 1, [rf "PART_MS" 31 16 .rw 5000, rf "EN" 0 0 .rwl 0]⟩,
  ⟨"MIL_SBASE", 0x09, 0x0008, 0, 1, [rf "BASE" 45 20 .rwl 0]⟩,
  ⟨"MIL_PBASE", 0x09, 0x0010, 0, 1, [rf "BASE" 45 29 .rwl 0]⟩,
  ⟨"MIL_TCMD", 0x09, 0x0018, 0, 1, [rf "OP" 63 62 .wo 0, rf "SLOT" 61 54 .wo 0, rf "ADDR" 45 6 .wo 0]⟩,
  ⟨"MIL_TRES", 0x09, 0x0020, 0, 1, [rf "BUSY" 63 63 .ro 0, rf "REASON" 39 32 .ro 0, rf "OFFSET" 31 0 .ro 0]⟩,
  ⟨"MIL_TSTAT", 0x09, 0x0028, 0, 1, [rf "FREE_4K" 42 32 .ro 1024, rf "LOADED" 8 0 .ro 0]⟩,
  ⟨"MIL_TVALID", 0x09, 0x0030, 8, 4, [rf "VALID" 63 0 .ro 0]⟩,
  ⟨"MIL_CNT0", 0x09, 0x0050, 0, 1, [rf "MALFORMED" 63 32 .ro 0, rf "NO_TABLE" 31 0 .ro 0]⟩,
  ⟨"MIL_CNT1", 0x09, 0x0058, 0, 1, [rf "SPILLS" 63 32 .ro 0, rf "BUILD_FAIL" 31 0 .ro 0]⟩]

/-- Registers of block 0x0A (SCL), part 1. -/
def regsScl1 : List RegDesc := [
  ⟨"SCL_CTRL", 0x0A, 0x0000, 0, 1, [rf "EN" 0 0 .rwl 0]⟩,
  ⟨"SCL_PBASE", 0x0A, 0x0008, 0, 1, [rf "BASE" 45 32 .rwl 0]⟩,
  ⟨"SCL_CBASE", 0x0A, 0x0010, 0, 1, [rf "BASE" 45 27 .rwl 0]⟩,
  ⟨"SCL_FBASE", 0x0A, 0x0018, 0, 1, [rf "BASE" 45 24 .rwl 0]⟩,
  ⟨"SCL_IBASE0", 0x0A, 0x0020, 0, 1, [rf "BASE" 45 9 .rwl 0]⟩,
  ⟨"SCL_IBASE1", 0x0A, 0x0028, 0, 1, [rf "BASE" 45 9 .rwl 0]⟩,
  ⟨"SCL_ISPLIT", 0x0A, 0x0030, 0, 1, [rf "ISPLIT" 16 0 .rwl 65536]⟩,
  ⟨"SCL_PADDR", 0x0A, 0x0038, 0, 1, [rf "ADDR" 45 6 .rw 0]⟩,
  ⟨"SCL_PCMD", 0x0A, 0x0040, 0, 1, [rf "OP" 63 61 .wo 0, rf "SLOT" 39 24 .wo 0, rf "POINT" 23 0 .wo 0]⟩,
  ⟨"SCL_PRES", 0x0A, 0x0048, 0, 1, [rf "BUSY" 63 63 .ro 0, rf "REASON" 7 0 .ro 0]⟩,
  ⟨"SCL_WMARK", 0x0A, 0x0050, 0, 1, [rf "WMARK" 63 0 .ro 0]⟩,
  ⟨"SCL_CNT0", 0x0A, 0x0058, 0, 1, [rf "LATE" 63 32 .ro 0, rf "FUTURE" 31 0 .ro 0]⟩,
  ⟨"SCL_CNT1", 0x0A, 0x0060, 0, 1, [rf "FORMULA" 63 32 .ro 0, rf "BADTAB" 31 16 .ro 0, rf "NOPOINT" 15 0 .ro 0]⟩,
  ⟨"SCL_PCLS_W0", 0x0A, 0x0100, 16, 16, [rf "GRACE_MS" 63 32 .rwl 0, rf "PLEN_S" 31 0 .rwl 0]⟩]

/-- Registers of block 0x0A (SCL), part 2. -/
def regsScl2 : List RegDesc := [
  ⟨"SCL_PCLS_W1", 0x0A, 0x0108, 16, 16, [rf "V" 63 63 .rwl 0, rf "ORIGIN_S" 31 0 .rwl 0]⟩]

/-- Registers of block 0x0A (SCL). -/
def regsScl : List RegDesc := regsScl1 ++ regsScl2

/-- Registers of block 0x0B (TMB). -/
def regsTmb : List RegDesc := [
  ⟨"TMB_TIME", 0x0B, 0x0000, 0, 1, [rf "TIME" 63 0 .ro 0]⟩,
  ⟨"TMB_STEP", 0x0B, 0x0008, 0, 1, [rf "STEP" 63 0 .wo 0]⟩,
  ⟨"TMB_TRIM", 0x0B, 0x0010, 0, 1, [rf "TRIM" 31 0 .rw 0]⟩,
  ⟨"TMB_PPS", 0x0B, 0x0018, 0, 1, [rf "EN" 63 63 .rw 0, rf "WIDTH_US" 50 32 .rw 100000, rf "OFFSET_NS" 29 0 .rw 0]⟩,
  ⟨"TMB_PPSIN", 0x0B, 0x0020, 0, 1, [rf "TIME" 63 0 .ro 0]⟩,
  ⟨"TMB_PPSSEQ", 0x0B, 0x0028, 0, 1, [rf "SEQ" 31 0 .ro 0]⟩,
  ⟨"TMB_TXTS0", 0x0B, 0x0030, 0, 1, [rf "TIME" 63 0 .ro 0]⟩,
  ⟨"TMB_TXTS1", 0x0B, 0x0038, 0, 1, [rf "VALID" 63 63 .ro 0, rf "PTP" 24 24 .ro 0, rf "MSGTYPE" 23 20 .ro 0,
    rf "SUBPORT" 19 16 .ro 0, rf "SEQID" 15 0 .ro 0]⟩,
  ⟨"TMB_STAT", 0x0B, 0x0040, 0, 1, [rf "TXTS_LOST" 31 0 .ro 0]⟩]

/-- Registers of block 0x0C (BOM), part 1. -/
def regsBom1 : List RegDesc := [
  ⟨"BOM_CTRL", 0x0C, 0x0000, 0, 1, [rf "EN" 0 0 .rwl 0]⟩,
  ⟨"BOM_CFG", 0x0C, 0x0008, 0, 1, [rf "BUDDY" 63 55 .rw 0, rf "BV" 54 54 .rw 0, rf "PREF" 39 32 .rwl 255,
    rf "ATHREAD" 16 0 .rw 0]⟩,
  ⟨"BOM_ID", 0x0C, 0x0010, 0, 1, [rf "NODE" 63 55 .ro 511, rf "EPOCH" 54 51 .ro 0, rf "FGEN" 50 35 .ro 0,
    rf "ROOT" 34 26 .ro 511, rf "CSTATE" 1 0 .ro 0]⟩,
  ⟨"BOM_LINK", 0x0C, 0x0018, 0, 1, [rf "TRAINED" 7 4 .ro 0, rf "UP" 3 0 .ro 0]⟩,
  ⟨"BOM_FXLAT", 0x0C, 0x0020, 0, 1, [rf "ROOT" 51 16 .rw 0, rf "CTX" 15 0 .rw 0]⟩,
  ⟨"BOM_FKRR", 0x0C, 0x0028, 0, 1, [rf "KRR" 63 0 .rw 0]⟩,
  ⟨"BOM_FINV", 0x0C, 0x0030, 0, 1, [rf "INV" 0 0 .w1s 0]⟩,
  ⟨"BOM_MBASE", 0x0C, 0x0038, 0, 1, [rf "BASE" 45 20 .rwl 0]⟩,
  ⟨"BOM_RBASE", 0x0C, 0x0040, 0, 1, [rf "BASE" 45 26 .rwl 0]⟩,
  ⟨"BOM_ADBASE", 0x0C, 0x0048, 0, 1, [rf "BASE" 45 20 .rwl 0]⟩,
  ⟨"BOM_XSIG", 0x0C, 0x0050, 0, 1, [rf "NODE" 63 55 .wo 0, rf "THREAD" 16 0 .wo 0]⟩,
  ⟨"BOM_STAT", 0x0C, 0x0058, 0, 1, [rf "ADOPTED" 63 48 .ro 0, rf "MIRRORED" 47 32 .ro 0, rf "REFUSED" 15 0 .ro 0]⟩,
  ⟨"BOM_CNT0", 0x0C, 0x0060, 0, 1, [rf "RETRY" 63 32 .ro 0, rf "LINKDOWN" 31 0 .ro 0]⟩,
  ⟨"BOM_CNT1", 0x0C, 0x0068, 0, 1, [rf "STALE_DROP" 63 32 .ro 0, rf "TAG_CLR" 31 16 .ro 0, rf "HOPS_DROP" 15 0 .ro 0]⟩]

/-- Registers of block 0x0C (BOM), part 2. -/
def regsBom2 : List RegDesc := [
  ⟨"BOM_CNT2", 0x0C, 0x0070, 0, 1, [rf "MIRR_AUTH" 63 32 .ro 0, rf "DUP_DROP" 31 0 .ro 0]⟩,
  ⟨"BOM_TRUST", 0x0C, 0x0100, 8, 8, [rf "TRUST" 63 0 .rw 0]⟩,
  ⟨"BOM_NODE_SER", 0x0C, 0x2000, 16, 510, [rf "SERIAL" 63 0 .ro 0]⟩,
  ⟨"BOM_NODE_ST", 0x0C, 0x2008, 16, 510, [rf "STATE" 63 62 .ro 0, rf "EPOCH" 59 56 .ro 0, rf "FLOOR" 55 52 .ro 0,
    rf "ALT" 11 8 .ro 15, rf "PRI" 3 0 .ro 15]⟩]

/-- Registers of block 0x0C (BOM). -/
def regsBom : List RegDesc := regsBom1 ++ regsBom2

/-- Registers of block 0x0D (DDR). -/
def regsDdr : List RegDesc := [
  ⟨"DDR_STAT", 0x0D, 0x0000, 0, 1, [rf "DIMMS" 39 32 .ro 0, rf "CAP_GIB" 31 24 .ro 0, rf "RATE" 23 16 .ro 0,
    rf "CFG_ERR" 2 2 .ro 0, rf "INIT_DONE" 1 1 .ro 0, rf "TRAINED" 0 0 .ro 0]⟩,
  ⟨"DDR_ERRCNT", 0x0D, 0x0010, 8, 4, [rf "UE" 63 32 .ro 0, rf "CE" 31 0 .ro 0]⟩]

/-- Registers of block 0x0E (CST). -/
def regsCst : List RegDesc := [
  ⟨"CST_CTRL", 0x0E, 0x0000, 0, 1, [rf "PF_TGT" 5 4 .rwl 2, rf "PF_SEQ" 1 0 .rwl 1]⟩]

/-- Registers of block 0x0F (LCS). -/
def regsLcs : List RegDesc := [
  ⟨"LCS_STATE", 0x0F, 0x0000, 0, 1, [rf "TAMPER_CNT" 47 40 .ro 0, rf "COMMIT" 15 12 .ro 0, rf "INTENT" 11 8 .ro 0,
    rf "PART" 6 6 .ro 0, rf "UNDEC" 5 5 .ro 0, rf "PENDING" 4 4 .ro 0, rf "STATE" 2 0 .ro 0]⟩,
  ⟨"LCS_XREQ", 0x0F, 0x0008, 0, 1, [rf "ADDR" 45 5 .wo 0]⟩,
  ⟨"LCS_XRES", 0x0F, 0x0010, 0, 1, [rf "BUSY" 63 63 .ro 0, rf "RESULT" 7 0 .ro 0]⟩,
  ⟨"LCS_BOOT", 0x0F, 0x0018, 0, 1, [rf "FAIL" 15 8 .ros 0, rf "STAGE" 7 0 .ros 0]⟩,
  ⟨"LCS_CTR", 0x0F, 0x0020, 8, 16, [rf "VALUE" 7 0 .ro 0]⟩,
  ⟨"LCS_CINC", 0x0F, 0x00A0, 0, 1, [rf "COUNTER" 11 8 .wo 0, rf "TARGET" 7 0 .wo 0]⟩,
  ⟨"LCS_SERIAL", 0x0F, 0x00A8, 0, 1, [rf "SERIAL" 63 0 .ro 0]⟩,
  ⟨"LCS_DBG", 0x0F, 0x00B0, 0, 1, [rf "SCOPE" 7 4 .ros 0]⟩,
  ⟨"LCS_DIG", 0x0F, 0x0100, 8, 18, [rf "DIGEST" 63 0 .ro 0]⟩]

/-- Registers of block 0x10 (TMP). -/
def regsTmp : List RegDesc := [
  ⟨"TMP_CFG", 0x10, 0x0000, 0, 1, [rf "LIGHT_EN" 4 4 .rwl 1, rf "TEMP_EN" 3 3 .rwl 1, rf "GLITCH_EN" 2 2 .rwl 1,
    rf "VOLT_EN" 1 1 .rwl 1, rf "MESH_EN" 0 0 .rwl 1]⟩,
  ⟨"TMP_ALARM", 0x10, 0x0008, 0, 1, [rf "CNT_FULL" 15 15 .ros 0, rf "CAUSE" 14 1 .ros 0, rf "ZEROED" 0 0 .ros 0]⟩,
  ⟨"TMP_MESH", 0x10, 0x0010, 0, 1, [rf "SHORT" 7 4 .ro 0, rf "OPEN" 3 0 .ro 0]⟩,
  ⟨"TMP_LOG", 0x10, 0x0100, 8, 8, [rf "CAUSES" 63 0 .ro 0]⟩]

/-- Registers of block 0x11 (PWR). -/
def regsPwr : List RegDesc := [
  ⟨"PWR_STAT", 0x11, 0x0000, 0, 1, [rf "VDD_MV" 63 48 .ro 800, rf "TJ" 47 32 .ro 0, rf "STEP_PS" 31 16 .ro 500,
    rf "WAKE" 7 4 .ro 0, rf "PMB_ERR" 3 3 .w1c 0, rf "MODE" 2 0 .ro 1]⟩,
  ⟨"PWR_AVS", 0x11, 0x0008, 0, 1, [rf "POLICY" 63 62 .rw 1, rf "VMAX_MV" 47 32 .rw 880, rf "VMIN_MV" 31 16 .rw 720,
    rf "VSET_MV" 15 0 .rw 800]⟩,
  ⟨"PWR_WATCH", 0x11, 0x0010, 0, 1, [rf "EN" 63 63 .rw 0, rf "IDLE_MS" 15 0 .rw 100]⟩,
  ⟨"PWR_RST", 0x11, 0x0018, 0, 1, [rf "WARM" 0 0 .w1s 0]⟩,
  ⟨"PWR_CNT", 0x11, 0x0020, 0, 1, [rf "WAKES" 63 32 .ro 0, rf "PMBERR" 31 16 .ro 0]⟩]

/-- Registers of block 0x12 (DBG). -/
def regsDbg : List RegDesc := [
  ⟨"DBG_TRACE_CTRL", 0x12, 0x0000, 0, 1, [rf "CORE" 39 32 .rw 0, rf "EN" 0 0 .rw 0]⟩,
  ⟨"DBG_TRACE_BASE", 0x12, 0x0008, 0, 1, [rf "BASE" 45 20 .rw 0]⟩,
  ⟨"DBG_TRACE_PTR", 0x12, 0x0010, 0, 1, [rf "WRAPS" 63 32 .ro 0, rf "PTR" 19 0 .ro 0]⟩]

/-- Registers of block 0x13 (LIO). -/
def regsLio : List RegDesc := [
  ⟨"LIO_GPIO_DIR", 0x13, 0x0000, 0, 1, [rf "DIR" 15 0 .rw 0]⟩,
  ⟨"LIO_GPIO_OUT", 0x13, 0x0008, 0, 1, [rf "OUT" 15 0 .rw 0]⟩,
  ⟨"LIO_GPIO_IN", 0x13, 0x0010, 0, 1, [rf "IN" 15 0 .ro 0]⟩,
  ⟨"LIO_UART", 0x13, 0x0018, 8, 2, [rf "EN" 63 63 .rw 0, rf "FMT" 19 16 .rw 0, rf "DIV" 15 0 .rw 217]⟩,
  ⟨"LIO_UDATA", 0x13, 0x0028, 8, 2, [rf "RXV" 63 63 .ro 0, rf "TXF" 62 62 .ro 0, rf "DATA" 7 0 .rw 0]⟩,
  ⟨"LIO_SMB", 0x13, 0x0038, 0, 1, [rf "ADDR" 6 0 .rwl 76]⟩,
  ⟨"LIO_SPICMD", 0x13, 0x0040, 0, 1, [rf "OPC" 63 56 .wo 0, rf "ADDR" 55 32 .wo 0, rf "LEN" 31 16 .wo 0,
    rf "WR" 1 1 .wo 0, rf "GO" 0 0 .w1s 0]⟩,
  ⟨"LIO_SPISTAT", 0x13, 0x0048, 0, 1, [rf "BUSY" 63 63 .ro 0]⟩,
  ⟨"LIO_SPIBUF", 0x13, 0x1000, 8, 512, [rf "DATA" 63 0 .rw 0]⟩]

/-- Registers of block 0x14 (SEM). -/
def regsSem : List RegDesc := [
  ⟨"SEM_STAT", 0x14, 0x0000, 0, 1, [rf "RETRY" 63 32 .ro 0, rf "LOST" 1 1 .ros 0, rf "UP" 0 0 .ro 0]⟩]

/-- Registers of block 0x20 (GRV). -/
def regsGrv : List RegDesc := [
  ⟨"GRV_MODE", 0x20, 0x0000, 0, 1, [rf "FR_TICKS" 63 48 .rwl 125, rf "CEN" 2 2 .rwl 0, rf "HOLDS" 1 1 .ro 0,
    rf "PACED" 0 0 .rwl 0]⟩,
  ⟨"GRV_SWIN", 0x20, 0x0008, 0, 1, [rf "TOP_4K" 49 32 .rwl 0, rf "BASE_4K" 17 0 .rwl 0]⟩,
  ⟨"GRV_PCODE", 0x20, 0x0010, 0, 1, [rf "CODE_BASE" 44 32 .rwl 0, rf "CODE_KIB" 10 0 .rwl 0]⟩,
  ⟨"GRV_PDATA", 0x20, 0x0018, 0, 1, [rf "DATA_BASE" 25 16 .rwl 0, rf "DATA_KIB" 10 0 .rwl 0]⟩,
  ⟨"GRV_PSTAT", 0x20, 0x0020, 0, 1, [rf "MISSES" 63 32 .ro 0, rf "MISS" 2 2 .w1c 0, rf "READY" 1 1 .ro 0,
    rf "LOADING" 0 0 .ro 0]⟩]

/-- The registers of a block, none in blocks that are unpopulated (R30) or whose registers the manual does not lay
out (WMB, block 0x01). GRV blocks 0x20–0x30 share one map (R29). -/
def regsOf (blk : Nat) : List RegDesc :=
  match blk with
  | 0x00 => regsIdv
  | 0x02 => regsFlt
  | 0x03 => regsBnd
  | 0x04 => regsFmn
  | 0x05 => regsHif
  | 0x06 => regsFlm
  | 0x07 => regsEth
  | 0x08 => regsKln
  | 0x09 => regsMil
  | 0x0A => regsScl
  | 0x0B => regsTmb
  | 0x0C => regsBom
  | 0x0D => regsDdr
  | 0x0E => regsCst
  | 0x0F => regsLcs
  | 0x10 => regsTmp
  | 0x11 => regsPwr
  | 0x12 => regsDbg
  | 0x13 => regsLio
  | 0x14 => regsSem
  | b => if 0x20 ≤ b && b ≤ 0x30 then regsGrv else []

/-- Whether a row group holds the register at offset `off` of its block. -/
def RegDesc.covers (d : RegDesc) (off : Nat) : Bool :=
  d.off ≤ off && off < d.off + (if d.stride = 0 then 1 else d.stride * d.count) &&
    (if d.stride = 0 then off == d.off else (off - d.off) % d.stride == 0)

/-- The register at an offset of a block, BLKSTAT apart. -/
def regAt (blk off : Nat) : Option RegDesc := (regsOf blk).find? (·.covers off)

/-- The word a register reads as right after reset, field by field. -/
def RegDesc.resetWord (d : RegDesc) : Nat := d.fields.foldl (fun a f => a + f.reset * 2 ^ f.lo) 0

/-- The mask of the bits that some field covers; the rest are reserved (R10). -/
def RegDesc.defined (d : RegDesc) : Nat := d.fields.foldl (fun a f => a + (2 ^ (f.hi + 1) - 2 ^ f.lo)) 0

/-- The mask of the fields with one of the access codes. -/
def RegDesc.maskOf (d : RegDesc) (p : Access → Bool) : Nat :=
  d.fields.foldl (fun a f => if p f.acc then a + (2 ^ (f.hi + 1) - 2 ^ f.lo) else a) 0

/-! Named fields, as BLOCK_REGISTER_FIELD (00_scope.md, register names). Numbered registers: entry 0, moved by `Fld.at`. -/

def Reg.IDV_DEVICE_PART : Fld := ⟨0x00, 0x0000, 31, 16⟩
def Reg.IDV_DEVICE_STEP_LETTER : Fld := ⟨0x00, 0x0000, 15, 12⟩
def Reg.IDV_DEVICE_STEP_NUM : Fld := ⟨0x00, 0x0000, 11, 8⟩
def Reg.IDV_DEVICE_HALF : Fld := ⟨0x00, 0x0000, 7, 4⟩
def Reg.IDV_DEVICE_ORDER : Fld := ⟨0x00, 0x0000, 3, 0⟩
def Reg.FLT_GUAR_DEGR : Fld := ⟨0x02, 0x0000, 7, 7⟩
def Reg.FLT_GUAR_GUAR : Fld := ⟨0x02, 0x0000, 6, 6⟩
def Reg.FLT_GUAR_GROUP_OK : Fld := ⟨0x02, 0x0000, 5, 5⟩
def Reg.FLT_GUAR_LATCH_OK : Fld := ⟨0x02, 0x0000, 4, 4⟩
def Reg.FLT_GUAR_SCRUB_OK : Fld := ⟨0x02, 0x0000, 3, 3⟩
def Reg.FLT_GUAR_ROT_OK : Fld := ⟨0x02, 0x0000, 2, 2⟩
def Reg.FLT_GUAR_COND_OK : Fld := ⟨0x02, 0x0000, 1, 1⟩
def Reg.FLT_GUAR_SPARE_OK : Fld := ⟨0x02, 0x0000, 0, 0⟩
def Reg.FLT_LATCH_LEASE_US : Fld := ⟨0x02, 0x0008, 25, 16⟩
def Reg.FLT_LATCH_RELEASE : Fld := ⟨0x02, 0x0008, 5, 5⟩
def Reg.FLT_LATCH_RENEW : Fld := ⟨0x02, 0x0008, 4, 4⟩
def Reg.FLT_LATCH_CLAIM : Fld := ⟨0x02, 0x0008, 3, 3⟩
def Reg.FLT_LATCH_HOLDER : Fld := ⟨0x02, 0x0008, 1, 0⟩
def Reg.FLT_ROT_WINDOW : Fld := ⟨0x02, 0x0010, 35, 32⟩
def Reg.FLT_ROT_POSTPONED : Fld := ⟨0x02, 0x0010, 31, 16⟩
def Reg.FLT_ROT_EN : Fld := ⟨0x02, 0x0010, 0, 0⟩
def Reg.FLT_GSTAT_STATE : Fld := ⟨0x02, 0x0018, 33, 0⟩
def Reg.FLT_GFAIL_FAILED : Fld := ⟨0x02, 0x0020, 16, 0⟩
def Reg.FLT_RETEST_RESULT : Fld := ⟨0x02, 0x0028, 63, 62⟩
def Reg.FLT_RETEST_BUSY : Fld := ⟨0x02, 0x0028, 61, 61⟩
def Reg.FLT_RETEST_GROVE : Fld := ⟨0x02, 0x0028, 4, 0⟩
def Reg.FLT_LOG_BASE : Fld := ⟨0x02, 0x0030, 45, 12⟩
def Reg.FLT_LOG_LOG2 : Fld := ⟨0x02, 0x0030, 3, 0⟩
def Reg.FLT_LIDX_LOST : Fld := ⟨0x02, 0x0038, 63, 32⟩
def Reg.FLT_LIDX_PROD : Fld := ⟨0x02, 0x0038, 31, 16⟩
def Reg.FLT_LIDX_CONS : Fld := ⟨0x02, 0x0038, 15, 0⟩
def Reg.FLT_HLOG_BASE : Fld := ⟨0x02, 0x0040, 63, 12⟩
def Reg.FLT_HLOG_EN : Fld := ⟨0x02, 0x0040, 4, 4⟩
def Reg.FLT_HLOG_LOG2 : Fld := ⟨0x02, 0x0040, 3, 0⟩
def Reg.FLT_CNT0_CE_SRAM : Fld := ⟨0x02, 0x0048, 63, 32⟩
def Reg.FLT_CNT0_UE_SRAM : Fld := ⟨0x02, 0x0048, 31, 16⟩
def Reg.FLT_CNT0_CODEWORD : Fld := ⟨0x02, 0x0048, 15, 0⟩
def Reg.FLT_CNT1_STALL : Fld := ⟨0x02, 0x0050, 63, 48⟩
def Reg.FLT_CNT1_TEST_FAIL : Fld := ⟨0x02, 0x0050, 47, 32⟩
def Reg.FLT_CNT1_TEST_LATE : Fld := ⟨0x02, 0x0050, 31, 16⟩
def Reg.FLT_CNT1_LATCH_DROP : Fld := ⟨0x02, 0x0050, 15, 0⟩
def Reg.FLT_SCRUB_CODE_LATE : Fld := ⟨0x02, 0x0058, 2, 2⟩
def Reg.FLT_SCRUB_DDR_LATE : Fld := ⟨0x02, 0x0058, 1, 1⟩
def Reg.FLT_SCRUB_SRAM_LATE : Fld := ⟨0x02, 0x0058, 0, 0⟩
def Reg.FLT_INJ_CLASS : Fld := ⟨0x02, 0x0060, 63, 60⟩
def Reg.FLT_INJ_TARGET : Fld := ⟨0x02, 0x0060, 4, 0⟩
def Reg.FLT_CNT2_PMERGE_SRAM : Fld := ⟨0x02, 0x0068, 63, 32⟩
def Reg.FLT_CNT2_PMERGE_DDR : Fld := ⟨0x02, 0x0068, 31, 0⟩
def Reg.BND_CTRL_STRICT : Fld := ⟨0x03, 0x0000, 0, 0⟩
def Reg.BND_PRIV_PRIV : Fld := ⟨0x03, 0x0008, 62, 0⟩
def Reg.BND_HOLDT_HOLD_US : Fld := ⟨0x03, 0x0010, 9, 0⟩
def Reg.BND_GDIS_GDIS : Fld := ⟨0x03, 0x0018, 15, 0⟩
def Reg.BND_GSTAT_HELD : Fld := ⟨0x03, 0x0020, 31, 16⟩
def Reg.BND_GSTAT_DRAINED : Fld := ⟨0x03, 0x0020, 15, 0⟩
def Reg.BND_FENCE_FENCE : Fld := ⟨0x03, 0x0028, 16, 0⟩
def Reg.BND_GEPOCH_EPOCH : Fld := ⟨0x03, 0x0030, 33, 0⟩
def Reg.BND_STAT_HOLDTO : Fld := ⟨0x03, 0x0038, 31, 16⟩
def Reg.BND_STAT_OVERLAPS : Fld := ⟨0x03, 0x0038, 15, 0⟩
def Reg.BND_CNT_REFUSED : Fld := ⟨0x03, 0x0040, 63, 32⟩
def Reg.BND_CNT_FENCED_DROP : Fld := ⟨0x03, 0x0040, 31, 0⟩
def Reg.BND_EGRESS_RD_EGR : Fld := ⟨0x03, 0x0048, 62, 0⟩
def Reg.BND_EGRESS_WR_EGR : Fld := ⟨0x03, 0x0050, 62, 0⟩
def Reg.BND_ENT_CTL_V : Fld := ⟨0x03, 0x1000, 63, 63⟩
def Reg.BND_ENT_CTL_LOCK : Fld := ⟨0x03, 0x1000, 62, 62⟩
def Reg.BND_ENT_CTL_GRP : Fld := ⟨0x03, 0x1000, 59, 56⟩
def Reg.BND_ENT_CTL_MANT : Fld := ⟨0x03, 0x1000, 55, 52⟩
def Reg.BND_ENT_CTL_EXP : Fld := ⟨0x03, 0x1000, 51, 46⟩
def Reg.BND_ENT_CTL_BASE : Fld := ⟨0x03, 0x1000, 45, 12⟩
def Reg.BND_ENT_RD_MASK : Fld := ⟨0x03, 0x1008, 62, 0⟩
def Reg.BND_ENT_WR_MASK : Fld := ⟨0x03, 0x1010, 62, 0⟩
def Reg.FMN_CTRL_TSEL : Fld := ⟨0x04, 0x0000, 1, 1⟩
def Reg.FMN_CTRL_EN : Fld := ⟨0x04, 0x0000, 0, 0⟩
def Reg.FMN_STEPLIM_LIMIT_US : Fld := ⟨0x04, 0x0008, 31, 0⟩
def Reg.FMN_GROVE_DRAIN : Fld := ⟨0x04, 0x0010, 48, 32⟩
def Reg.FMN_GROVE_SPARE_AS : Fld := ⟨0x04, 0x0010, 20, 16⟩
def Reg.FMN_SIGNAL_THREAD : Fld := ⟨0x04, 0x0018, 16, 0⟩
def Reg.FMN_CMD_OP : Fld := ⟨0x04, 0x0020, 63, 61⟩
def Reg.FMN_CMD_ARG : Fld := ⟨0x04, 0x0020, 16, 0⟩
def Reg.FMN_STAT_READY : Fld := ⟨0x04, 0x0028, 49, 32⟩
def Reg.FMN_STAT_ABORTED : Fld := ⟨0x04, 0x0028, 17, 0⟩
def Reg.FMN_CNT_EV_DROP : Fld := ⟨0x04, 0x0030, 63, 32⟩
def Reg.FMN_CNT_CMD_IGN : Fld := ⟨0x04, 0x0030, 31, 16⟩
def Reg.FMN_CNT_STEPLIM : Fld := ⟨0x04, 0x0030, 15, 0⟩
def Reg.FMN_RESTART_RESTARTED : Fld := ⟨0x04, 0x0038, 63, 32⟩
def Reg.FMN_RESTART_ABORTED_NR : Fld := ⟨0x04, 0x0038, 31, 16⟩
def Reg.FMN_RESTART_IN_DOUBT : Fld := ⟨0x04, 0x0038, 15, 0⟩
def Reg.HIF_CTRL_EN : Fld := ⟨0x05, 0x0000, 0, 0⟩
def Reg.HIF_HWIN_BASE : Fld := ⟨0x05, 0x0008, 63, 45⟩
def Reg.HIF_MCMD_BASE : Fld := ⟨0x05, 0x0010, 63, 12⟩
def Reg.HIF_MCMD_LOG2 : Fld := ⟨0x05, 0x0010, 4, 0⟩
def Reg.HIF_MRPL_BASE : Fld := ⟨0x05, 0x0018, 63, 12⟩
def Reg.HIF_MRPL_LOG2 : Fld := ⟨0x05, 0x0018, 4, 0⟩
def Reg.HIF_MMOD_IRQ : Fld := ⟨0x05, 0x0020, 63, 63⟩
def Reg.HIF_MMOD_VEC : Fld := ⟨0x05, 0x0020, 57, 48⟩
def Reg.HIF_MMOD_MOD_COUNT : Fld := ⟨0x05, 0x0020, 47, 32⟩
def Reg.HIF_MMOD_MOD_US : Fld := ⟨0x05, 0x0020, 15, 0⟩
def Reg.HIF_MBASE_BASE : Fld := ⟨0x05, 0x0028, 45, 27⟩
def Reg.HIF_ATTN_PEND : Fld := ⟨0x05, 0x0030, 15, 0⟩
def Reg.HIF_NOTICE_RAISE : Fld := ⟨0x05, 0x0038, 0, 0⟩
def Reg.HIF_STAT_DEDUP : Fld := ⟨0x05, 0x0040, 63, 48⟩
def Reg.HIF_STAT_INFLIGHT : Fld := ⟨0x05, 0x0040, 47, 32⟩
def Reg.HIF_STAT_POSTQ : Fld := ⟨0x05, 0x0040, 31, 16⟩
def Reg.HIF_STAT_PEER_UP : Fld := ⟨0x05, 0x0040, 1, 1⟩
def Reg.HIF_STAT_LINK : Fld := ⟨0x05, 0x0040, 0, 0⟩
def Reg.HIF_CNT_DB_BAD : Fld := ⟨0x05, 0x0048, 63, 32⟩
def Reg.HIF_CNT_POST_BAD : Fld := ⟨0x05, 0x0048, 31, 16⟩
def Reg.HIF_CNT_NORING : Fld := ⟨0x05, 0x0048, 15, 0⟩
def Reg.FLM_CTRL_PBASE : Fld := ⟨0x06, 0x0000, 31, 16⟩
def Reg.FLM_CTRL_EN : Fld := ⟨0x06, 0x0000, 0, 0⟩
def Reg.FLM_DBASE_BASE : Fld := ⟨0x06, 0x0008, 45, 32⟩
def Reg.FLM_LBASE_BASE : Fld := ⟨0x06, 0x0010, 45, 17⟩
def Reg.FLM_SSBASE_BASE : Fld := ⟨0x06, 0x0018, 45, 20⟩
def Reg.FLM_SPBASE_BASE : Fld := ⟨0x06, 0x0020, 45, 12⟩
def Reg.FLM_SLOW_PROD : Fld := ⟨0x06, 0x0028, 63, 48⟩
def Reg.FLM_SLOW_CONS : Fld := ⟨0x06, 0x0028, 47, 32⟩
def Reg.FLM_SLOW_LOG2 : Fld := ⟨0x06, 0x0028, 20, 17⟩
def Reg.FLM_SLOW_THREAD : Fld := ⟨0x06, 0x0028, 16, 0⟩
def Reg.FLM_TCP_RTO_MIN_MS : Fld := ⟨0x06, 0x0030, 63, 54⟩
def Reg.FLM_TCP_RETRIES : Fld := ⟨0x06, 0x0030, 53, 50⟩
def Reg.FLM_TCP_SYN_RETRIES : Fld := ⟨0x06, 0x0030, 49, 47⟩
def Reg.FLM_TCP_DELACK_MS : Fld := ⟨0x06, 0x0030, 46, 40⟩
def Reg.FLM_TCP_KA_INTVL_S : Fld := ⟨0x06, 0x0030, 39, 32⟩
def Reg.FLM_TCP_TW_S : Fld := ⟨0x06, 0x0030, 31, 24⟩
def Reg.FLM_TCP_MSS : Fld := ⟨0x06, 0x0030, 13, 0⟩
def Reg.FLM_REASM_TIMEOUT_S : Fld := ⟨0x06, 0x0038, 7, 0⟩
def Reg.FLM_SCMD_OP : Fld := ⟨0x06, 0x0040, 63, 61⟩
def Reg.FLM_SCMD_ADDR : Fld := ⟨0x06, 0x0040, 55, 16⟩
def Reg.FLM_SCMD_SESSION : Fld := ⟨0x06, 0x0040, 15, 0⟩
def Reg.FLM_SRES_BUSY : Fld := ⟨0x06, 0x0048, 63, 63⟩
def Reg.FLM_SRES_STATUS : Fld := ⟨0x06, 0x0048, 15, 0⟩
def Reg.FLM_HOT_HOT : Fld := ⟨0x06, 0x0050, 63, 32⟩
def Reg.FLM_HOT_PINNED : Fld := ⟨0x06, 0x0050, 31, 0⟩
def Reg.FLM_CNT0_CSUM_DROP : Fld := ⟨0x06, 0x0058, 63, 32⟩
def Reg.FLM_CNT0_REASM_DROP : Fld := ⟨0x06, 0x0058, 31, 0⟩
def Reg.FLM_CNT1_SP_DROP : Fld := ⟨0x06, 0x0060, 63, 48⟩
def Reg.FLM_CNT1_RST_SENT : Fld := ⟨0x06, 0x0060, 47, 32⟩
def Reg.FLM_CNT1_URG : Fld := ⟨0x06, 0x0060, 31, 16⟩
def Reg.FLM_CNT1_BAD_ENTRY : Fld := ⟨0x06, 0x0060, 15, 0⟩
def Reg.FLM_CNT2_DIS_DROP : Fld := ⟨0x06, 0x0068, 63, 32⟩
def Reg.ETH_MODE_FEC : Fld := ⟨0x07, 0x0000, 11, 10⟩
def Reg.ETH_MODE_AN : Fld := ⟨0x07, 0x0000, 9, 9⟩
def Reg.ETH_MODE_MODE : Fld := ⟨0x07, 0x0000, 3, 0⟩
def Reg.ETH_PFC_QUANTA : Fld := ⟨0x07, 0x0008, 63, 48⟩
def Reg.ETH_PFC_UNTAG_PRIO : Fld := ⟨0x07, 0x0008, 44, 42⟩
def Reg.ETH_PFC_FLOW : Fld := ⟨0x07, 0x0008, 41, 40⟩
def Reg.ETH_PFC_EN : Fld := ⟨0x07, 0x0008, 39, 32⟩
def Reg.ETH_PFC_XOFF_KIB : Fld := ⟨0x07, 0x0008, 31, 16⟩
def Reg.ETH_PFC_XON_KIB : Fld := ⟨0x07, 0x0008, 15, 0⟩
def Reg.ETH_STAT_AN_FAIL : Fld := ⟨0x07, 0x0010, 7, 4⟩
def Reg.ETH_STAT_LINK : Fld := ⟨0x07, 0x0010, 3, 0⟩
def Reg.ETH_MAC_MAC : Fld := ⟨0x07, 0x0018, 47, 0⟩
def Reg.ETH_DROP_DROP : Fld := ⟨0x07, 0x0020, 63, 0⟩
def Reg.ETH_CNT_FCS : Fld := ⟨0x07, 0x0060, 63, 32⟩
def Reg.ETH_CNT_LEN : Fld := ⟨0x07, 0x0060, 31, 0⟩
def Reg.ETH_TXDROP_TXDROP : Fld := ⟨0x07, 0x0068, 63, 0⟩
def Reg.ETH_WC_ACT_V : Fld := ⟨0x07, 0x1080, 63, 63⟩
def Reg.ETH_WC_ACT_ACT : Fld := ⟨0x07, 0x1080, 62, 60⟩
def Reg.ETH_WC_ACT_SUBPORTS : Fld := ⟨0x07, 0x1080, 59, 56⟩
def Reg.ETH_WC_ACT_LISTENER : Fld := ⟨0x07, 0x1080, 11, 0⟩
def Reg.ETH_WC_VAL0_VAL : Fld := ⟨0x07, 0x1000, 63, 0⟩
def Reg.ETH_WC_MASK0_MASK : Fld := ⟨0x07, 0x1040, 63, 0⟩
def Reg.KLN_CTRL_SOFT_LOG2 : Fld := ⟨0x08, 0x0000, 13, 8⟩
def Reg.KLN_CTRL_EN : Fld := ⟨0x08, 0x0000, 0, 0⟩
def Reg.KLN_PRING_BASE : Fld := ⟨0x08, 0x0008, 45, 12⟩
def Reg.KLN_PIDX_PROD : Fld := ⟨0x08, 0x0010, 63, 48⟩
def Reg.KLN_PIDX_CONS : Fld := ⟨0x08, 0x0010, 47, 32⟩
def Reg.KLN_PIDX_LOG2 : Fld := ⟨0x08, 0x0010, 3, 0⟩
def Reg.KLN_HRING_PROD : Fld := ⟨0x08, 0x0018, 63, 48⟩
def Reg.KLN_HRING_CONS : Fld := ⟨0x08, 0x0018, 47, 32⟩
def Reg.KLN_HRING_LOG2 : Fld := ⟨0x08, 0x0018, 20, 17⟩
def Reg.KLN_HRING_THREAD : Fld := ⟨0x08, 0x0018, 16, 0⟩
def Reg.KLN_HBASE_BASE : Fld := ⟨0x08, 0x0020, 45, 12⟩
def Reg.KLN_STAT_SLOTS : Fld := ⟨0x08, 0x0028, 31, 16⟩
def Reg.KLN_STAT_VAULT_READY : Fld := ⟨0x08, 0x0028, 2, 2⟩
def Reg.KLN_STAT_ENT_FAIL : Fld := ⟨0x08, 0x0028, 1, 1⟩
def Reg.KLN_STAT_ZEROED : Fld := ⟨0x08, 0x0028, 0, 0⟩
def Reg.KLN_CNT_AUTH_FAIL : Fld := ⟨0x08, 0x0030, 63, 32⟩
def Reg.KLN_CNT_REPLAY : Fld := ⟨0x08, 0x0030, 31, 16⟩
def Reg.KLN_CNT_BAD_TYPE : Fld := ⟨0x08, 0x0030, 15, 0⟩
def Reg.KLN_VCMD_OP : Fld := ⟨0x08, 0x0038, 63, 62⟩
def Reg.KLN_VCMD_SLOT : Fld := ⟨0x08, 0x0038, 61, 56⟩
def Reg.KLN_VCMD_ADDR : Fld := ⟨0x08, 0x0038, 51, 6⟩
def Reg.KLN_VSTAT_VALID : Fld := ⟨0x08, 0x0040, 63, 0⟩
def Reg.MIL_CTRL_PART_MS : Fld := ⟨0x09, 0x0000, 31, 16⟩
def Reg.MIL_CTRL_EN : Fld := ⟨0x09, 0x0000, 0, 0⟩
def Reg.MIL_SBASE_BASE : Fld := ⟨0x09, 0x0008, 45, 20⟩
def Reg.MIL_PBASE_BASE : Fld := ⟨0x09, 0x0010, 45, 29⟩
def Reg.MIL_TCMD_OP : Fld := ⟨0x09, 0x0018, 63, 62⟩
def Reg.MIL_TCMD_SLOT : Fld := ⟨0x09, 0x0018, 61, 54⟩
def Reg.MIL_TCMD_ADDR : Fld := ⟨0x09, 0x0018, 45, 6⟩
def Reg.MIL_TRES_BUSY : Fld := ⟨0x09, 0x0020, 63, 63⟩
def Reg.MIL_TRES_REASON : Fld := ⟨0x09, 0x0020, 39, 32⟩
def Reg.MIL_TRES_OFFSET : Fld := ⟨0x09, 0x0020, 31, 0⟩
def Reg.MIL_TSTAT_FREE_4K : Fld := ⟨0x09, 0x0028, 42, 32⟩
def Reg.MIL_TSTAT_LOADED : Fld := ⟨0x09, 0x0028, 8, 0⟩
def Reg.MIL_TVALID_VALID : Fld := ⟨0x09, 0x0030, 63, 0⟩
def Reg.MIL_CNT0_MALFORMED : Fld := ⟨0x09, 0x0050, 63, 32⟩
def Reg.MIL_CNT0_NO_TABLE : Fld := ⟨0x09, 0x0050, 31, 0⟩
def Reg.MIL_CNT1_SPILLS : Fld := ⟨0x09, 0x0058, 63, 32⟩
def Reg.MIL_CNT1_BUILD_FAIL : Fld := ⟨0x09, 0x0058, 31, 0⟩
def Reg.SCL_CTRL_EN : Fld := ⟨0x0A, 0x0000, 0, 0⟩
def Reg.SCL_PBASE_BASE : Fld := ⟨0x0A, 0x0008, 45, 32⟩
def Reg.SCL_CBASE_BASE : Fld := ⟨0x0A, 0x0010, 45, 27⟩
def Reg.SCL_FBASE_BASE : Fld := ⟨0x0A, 0x0018, 45, 24⟩
def Reg.SCL_IBASE0_BASE : Fld := ⟨0x0A, 0x0020, 45, 9⟩
def Reg.SCL_IBASE1_BASE : Fld := ⟨0x0A, 0x0028, 45, 9⟩
def Reg.SCL_ISPLIT_ISPLIT : Fld := ⟨0x0A, 0x0030, 16, 0⟩
def Reg.SCL_PADDR_ADDR : Fld := ⟨0x0A, 0x0038, 45, 6⟩
def Reg.SCL_PCMD_OP : Fld := ⟨0x0A, 0x0040, 63, 61⟩
def Reg.SCL_PCMD_SLOT : Fld := ⟨0x0A, 0x0040, 39, 24⟩
def Reg.SCL_PCMD_POINT : Fld := ⟨0x0A, 0x0040, 23, 0⟩
def Reg.SCL_PRES_BUSY : Fld := ⟨0x0A, 0x0048, 63, 63⟩
def Reg.SCL_PRES_REASON : Fld := ⟨0x0A, 0x0048, 7, 0⟩
def Reg.SCL_WMARK_WMARK : Fld := ⟨0x0A, 0x0050, 63, 0⟩
def Reg.SCL_CNT0_LATE : Fld := ⟨0x0A, 0x0058, 63, 32⟩
def Reg.SCL_CNT0_FUTURE : Fld := ⟨0x0A, 0x0058, 31, 0⟩
def Reg.SCL_CNT1_FORMULA : Fld := ⟨0x0A, 0x0060, 63, 32⟩
def Reg.SCL_CNT1_BADTAB : Fld := ⟨0x0A, 0x0060, 31, 16⟩
def Reg.SCL_CNT1_NOPOINT : Fld := ⟨0x0A, 0x0060, 15, 0⟩
def Reg.SCL_PCLS_W0_GRACE_MS : Fld := ⟨0x0A, 0x0100, 63, 32⟩
def Reg.SCL_PCLS_W0_PLEN_S : Fld := ⟨0x0A, 0x0100, 31, 0⟩
def Reg.SCL_PCLS_W1_V : Fld := ⟨0x0A, 0x0108, 63, 63⟩
def Reg.SCL_PCLS_W1_ORIGIN_S : Fld := ⟨0x0A, 0x0108, 31, 0⟩
def Reg.TMB_TIME_TIME : Fld := ⟨0x0B, 0x0000, 63, 0⟩
def Reg.TMB_STEP_STEP : Fld := ⟨0x0B, 0x0008, 63, 0⟩
def Reg.TMB_TRIM_TRIM : Fld := ⟨0x0B, 0x0010, 31, 0⟩
def Reg.TMB_PPS_EN : Fld := ⟨0x0B, 0x0018, 63, 63⟩
def Reg.TMB_PPS_WIDTH_US : Fld := ⟨0x0B, 0x0018, 50, 32⟩
def Reg.TMB_PPS_OFFSET_NS : Fld := ⟨0x0B, 0x0018, 29, 0⟩
def Reg.TMB_PPSIN_TIME : Fld := ⟨0x0B, 0x0020, 63, 0⟩
def Reg.TMB_PPSSEQ_SEQ : Fld := ⟨0x0B, 0x0028, 31, 0⟩
def Reg.TMB_TXTS0_TIME : Fld := ⟨0x0B, 0x0030, 63, 0⟩
def Reg.TMB_TXTS1_VALID : Fld := ⟨0x0B, 0x0038, 63, 63⟩
def Reg.TMB_TXTS1_PTP : Fld := ⟨0x0B, 0x0038, 24, 24⟩
def Reg.TMB_TXTS1_MSGTYPE : Fld := ⟨0x0B, 0x0038, 23, 20⟩
def Reg.TMB_TXTS1_SUBPORT : Fld := ⟨0x0B, 0x0038, 19, 16⟩
def Reg.TMB_TXTS1_SEQID : Fld := ⟨0x0B, 0x0038, 15, 0⟩
def Reg.TMB_STAT_TXTS_LOST : Fld := ⟨0x0B, 0x0040, 31, 0⟩
def Reg.BOM_CTRL_EN : Fld := ⟨0x0C, 0x0000, 0, 0⟩
def Reg.BOM_CFG_BUDDY : Fld := ⟨0x0C, 0x0008, 63, 55⟩
def Reg.BOM_CFG_BV : Fld := ⟨0x0C, 0x0008, 54, 54⟩
def Reg.BOM_CFG_PREF : Fld := ⟨0x0C, 0x0008, 39, 32⟩
def Reg.BOM_CFG_ATHREAD : Fld := ⟨0x0C, 0x0008, 16, 0⟩
def Reg.BOM_ID_NODE : Fld := ⟨0x0C, 0x0010, 63, 55⟩
def Reg.BOM_ID_EPOCH : Fld := ⟨0x0C, 0x0010, 54, 51⟩
def Reg.BOM_ID_FGEN : Fld := ⟨0x0C, 0x0010, 50, 35⟩
def Reg.BOM_ID_ROOT : Fld := ⟨0x0C, 0x0010, 34, 26⟩
def Reg.BOM_ID_CSTATE : Fld := ⟨0x0C, 0x0010, 1, 0⟩
def Reg.BOM_LINK_TRAINED : Fld := ⟨0x0C, 0x0018, 7, 4⟩
def Reg.BOM_LINK_UP : Fld := ⟨0x0C, 0x0018, 3, 0⟩
def Reg.BOM_FXLAT_ROOT : Fld := ⟨0x0C, 0x0020, 51, 16⟩
def Reg.BOM_FXLAT_CTX : Fld := ⟨0x0C, 0x0020, 15, 0⟩
def Reg.BOM_FKRR_KRR : Fld := ⟨0x0C, 0x0028, 63, 0⟩
def Reg.BOM_FINV_INV : Fld := ⟨0x0C, 0x0030, 0, 0⟩
def Reg.BOM_MBASE_BASE : Fld := ⟨0x0C, 0x0038, 45, 20⟩
def Reg.BOM_RBASE_BASE : Fld := ⟨0x0C, 0x0040, 45, 26⟩
def Reg.BOM_ADBASE_BASE : Fld := ⟨0x0C, 0x0048, 45, 20⟩
def Reg.BOM_XSIG_NODE : Fld := ⟨0x0C, 0x0050, 63, 55⟩
def Reg.BOM_XSIG_THREAD : Fld := ⟨0x0C, 0x0050, 16, 0⟩
def Reg.BOM_STAT_ADOPTED : Fld := ⟨0x0C, 0x0058, 63, 48⟩
def Reg.BOM_STAT_MIRRORED : Fld := ⟨0x0C, 0x0058, 47, 32⟩
def Reg.BOM_STAT_REFUSED : Fld := ⟨0x0C, 0x0058, 15, 0⟩
def Reg.BOM_CNT0_RETRY : Fld := ⟨0x0C, 0x0060, 63, 32⟩
def Reg.BOM_CNT0_LINKDOWN : Fld := ⟨0x0C, 0x0060, 31, 0⟩
def Reg.BOM_CNT1_STALE_DROP : Fld := ⟨0x0C, 0x0068, 63, 32⟩
def Reg.BOM_CNT1_TAG_CLR : Fld := ⟨0x0C, 0x0068, 31, 16⟩
def Reg.BOM_CNT1_HOPS_DROP : Fld := ⟨0x0C, 0x0068, 15, 0⟩
def Reg.BOM_CNT2_MIRR_AUTH : Fld := ⟨0x0C, 0x0070, 63, 32⟩
def Reg.BOM_CNT2_DUP_DROP : Fld := ⟨0x0C, 0x0070, 31, 0⟩
def Reg.BOM_TRUST_TRUST : Fld := ⟨0x0C, 0x0100, 63, 0⟩
def Reg.BOM_NODE_SER_SERIAL : Fld := ⟨0x0C, 0x2000, 63, 0⟩
def Reg.BOM_NODE_ST_STATE : Fld := ⟨0x0C, 0x2008, 63, 62⟩
def Reg.BOM_NODE_ST_EPOCH : Fld := ⟨0x0C, 0x2008, 59, 56⟩
def Reg.BOM_NODE_ST_FLOOR : Fld := ⟨0x0C, 0x2008, 55, 52⟩
def Reg.BOM_NODE_ST_ALT : Fld := ⟨0x0C, 0x2008, 11, 8⟩
def Reg.BOM_NODE_ST_PRI : Fld := ⟨0x0C, 0x2008, 3, 0⟩
def Reg.DDR_STAT_DIMMS : Fld := ⟨0x0D, 0x0000, 39, 32⟩
def Reg.DDR_STAT_CAP_GIB : Fld := ⟨0x0D, 0x0000, 31, 24⟩
def Reg.DDR_STAT_RATE : Fld := ⟨0x0D, 0x0000, 23, 16⟩
def Reg.DDR_STAT_CFG_ERR : Fld := ⟨0x0D, 0x0000, 2, 2⟩
def Reg.DDR_STAT_INIT_DONE : Fld := ⟨0x0D, 0x0000, 1, 1⟩
def Reg.DDR_STAT_TRAINED : Fld := ⟨0x0D, 0x0000, 0, 0⟩
def Reg.DDR_ERRCNT_UE : Fld := ⟨0x0D, 0x0010, 63, 32⟩
def Reg.DDR_ERRCNT_CE : Fld := ⟨0x0D, 0x0010, 31, 0⟩
def Reg.CST_CTRL_PF_TGT : Fld := ⟨0x0E, 0x0000, 5, 4⟩
def Reg.CST_CTRL_PF_SEQ : Fld := ⟨0x0E, 0x0000, 1, 0⟩
def Reg.LCS_STATE_TAMPER_CNT : Fld := ⟨0x0F, 0x0000, 47, 40⟩
def Reg.LCS_STATE_COMMIT : Fld := ⟨0x0F, 0x0000, 15, 12⟩
def Reg.LCS_STATE_INTENT : Fld := ⟨0x0F, 0x0000, 11, 8⟩
def Reg.LCS_STATE_PART : Fld := ⟨0x0F, 0x0000, 6, 6⟩
def Reg.LCS_STATE_UNDEC : Fld := ⟨0x0F, 0x0000, 5, 5⟩
def Reg.LCS_STATE_PENDING : Fld := ⟨0x0F, 0x0000, 4, 4⟩
def Reg.LCS_STATE_STATE : Fld := ⟨0x0F, 0x0000, 2, 0⟩
def Reg.LCS_XREQ_ADDR : Fld := ⟨0x0F, 0x0008, 45, 5⟩
def Reg.LCS_XRES_BUSY : Fld := ⟨0x0F, 0x0010, 63, 63⟩
def Reg.LCS_XRES_RESULT : Fld := ⟨0x0F, 0x0010, 7, 0⟩
def Reg.LCS_BOOT_FAIL : Fld := ⟨0x0F, 0x0018, 15, 8⟩
def Reg.LCS_BOOT_STAGE : Fld := ⟨0x0F, 0x0018, 7, 0⟩
def Reg.LCS_CTR_VALUE : Fld := ⟨0x0F, 0x0020, 7, 0⟩
def Reg.LCS_CINC_COUNTER : Fld := ⟨0x0F, 0x00A0, 11, 8⟩
def Reg.LCS_CINC_TARGET : Fld := ⟨0x0F, 0x00A0, 7, 0⟩
def Reg.LCS_SERIAL_SERIAL : Fld := ⟨0x0F, 0x00A8, 63, 0⟩
def Reg.LCS_DBG_SCOPE : Fld := ⟨0x0F, 0x00B0, 7, 4⟩
def Reg.LCS_DIG_DIGEST : Fld := ⟨0x0F, 0x0100, 63, 0⟩
def Reg.TMP_CFG_LIGHT_EN : Fld := ⟨0x10, 0x0000, 4, 4⟩
def Reg.TMP_CFG_TEMP_EN : Fld := ⟨0x10, 0x0000, 3, 3⟩
def Reg.TMP_CFG_GLITCH_EN : Fld := ⟨0x10, 0x0000, 2, 2⟩
def Reg.TMP_CFG_VOLT_EN : Fld := ⟨0x10, 0x0000, 1, 1⟩
def Reg.TMP_CFG_MESH_EN : Fld := ⟨0x10, 0x0000, 0, 0⟩
def Reg.TMP_ALARM_CNT_FULL : Fld := ⟨0x10, 0x0008, 15, 15⟩
def Reg.TMP_ALARM_CAUSE : Fld := ⟨0x10, 0x0008, 14, 1⟩
def Reg.TMP_ALARM_ZEROED : Fld := ⟨0x10, 0x0008, 0, 0⟩
def Reg.TMP_MESH_SHORT : Fld := ⟨0x10, 0x0010, 7, 4⟩
def Reg.TMP_MESH_OPEN : Fld := ⟨0x10, 0x0010, 3, 0⟩
def Reg.TMP_LOG_CAUSES : Fld := ⟨0x10, 0x0100, 63, 0⟩
def Reg.PWR_STAT_VDD_MV : Fld := ⟨0x11, 0x0000, 63, 48⟩
def Reg.PWR_STAT_TJ : Fld := ⟨0x11, 0x0000, 47, 32⟩
def Reg.PWR_STAT_STEP_PS : Fld := ⟨0x11, 0x0000, 31, 16⟩
def Reg.PWR_STAT_WAKE : Fld := ⟨0x11, 0x0000, 7, 4⟩
def Reg.PWR_STAT_PMB_ERR : Fld := ⟨0x11, 0x0000, 3, 3⟩
def Reg.PWR_STAT_MODE : Fld := ⟨0x11, 0x0000, 2, 0⟩
def Reg.PWR_AVS_POLICY : Fld := ⟨0x11, 0x0008, 63, 62⟩
def Reg.PWR_AVS_VMAX_MV : Fld := ⟨0x11, 0x0008, 47, 32⟩
def Reg.PWR_AVS_VMIN_MV : Fld := ⟨0x11, 0x0008, 31, 16⟩
def Reg.PWR_AVS_VSET_MV : Fld := ⟨0x11, 0x0008, 15, 0⟩
def Reg.PWR_WATCH_EN : Fld := ⟨0x11, 0x0010, 63, 63⟩
def Reg.PWR_WATCH_IDLE_MS : Fld := ⟨0x11, 0x0010, 15, 0⟩
def Reg.PWR_RST_WARM : Fld := ⟨0x11, 0x0018, 0, 0⟩
def Reg.PWR_CNT_WAKES : Fld := ⟨0x11, 0x0020, 63, 32⟩
def Reg.PWR_CNT_PMBERR : Fld := ⟨0x11, 0x0020, 31, 16⟩
def Reg.DBG_TRACE_CTRL_CORE : Fld := ⟨0x12, 0x0000, 39, 32⟩
def Reg.DBG_TRACE_CTRL_EN : Fld := ⟨0x12, 0x0000, 0, 0⟩
def Reg.DBG_TRACE_BASE_BASE : Fld := ⟨0x12, 0x0008, 45, 20⟩
def Reg.DBG_TRACE_PTR_WRAPS : Fld := ⟨0x12, 0x0010, 63, 32⟩
def Reg.DBG_TRACE_PTR_PTR : Fld := ⟨0x12, 0x0010, 19, 0⟩
def Reg.LIO_GPIO_DIR_DIR : Fld := ⟨0x13, 0x0000, 15, 0⟩
def Reg.LIO_GPIO_OUT_OUT : Fld := ⟨0x13, 0x0008, 15, 0⟩
def Reg.LIO_GPIO_IN_IN : Fld := ⟨0x13, 0x0010, 15, 0⟩
def Reg.LIO_UART_EN : Fld := ⟨0x13, 0x0018, 63, 63⟩
def Reg.LIO_UART_FMT : Fld := ⟨0x13, 0x0018, 19, 16⟩
def Reg.LIO_UART_DIV : Fld := ⟨0x13, 0x0018, 15, 0⟩
def Reg.LIO_UDATA_RXV : Fld := ⟨0x13, 0x0028, 63, 63⟩
def Reg.LIO_UDATA_TXF : Fld := ⟨0x13, 0x0028, 62, 62⟩
def Reg.LIO_UDATA_DATA : Fld := ⟨0x13, 0x0028, 7, 0⟩
def Reg.LIO_SMB_ADDR : Fld := ⟨0x13, 0x0038, 6, 0⟩
def Reg.LIO_SPICMD_OPC : Fld := ⟨0x13, 0x0040, 63, 56⟩
def Reg.LIO_SPICMD_ADDR : Fld := ⟨0x13, 0x0040, 55, 32⟩
def Reg.LIO_SPICMD_LEN : Fld := ⟨0x13, 0x0040, 31, 16⟩
def Reg.LIO_SPICMD_WR : Fld := ⟨0x13, 0x0040, 1, 1⟩
def Reg.LIO_SPICMD_GO : Fld := ⟨0x13, 0x0040, 0, 0⟩
def Reg.LIO_SPISTAT_BUSY : Fld := ⟨0x13, 0x0048, 63, 63⟩
def Reg.LIO_SPIBUF_DATA : Fld := ⟨0x13, 0x1000, 63, 0⟩
def Reg.SEM_STAT_RETRY : Fld := ⟨0x14, 0x0000, 63, 32⟩
def Reg.SEM_STAT_LOST : Fld := ⟨0x14, 0x0000, 1, 1⟩
def Reg.SEM_STAT_UP : Fld := ⟨0x14, 0x0000, 0, 0⟩
def Reg.GRV_MODE_FR_TICKS : Fld := ⟨0x20, 0x0000, 63, 48⟩
def Reg.GRV_MODE_CEN : Fld := ⟨0x20, 0x0000, 2, 2⟩
def Reg.GRV_MODE_HOLDS : Fld := ⟨0x20, 0x0000, 1, 1⟩
def Reg.GRV_MODE_PACED : Fld := ⟨0x20, 0x0000, 0, 0⟩
def Reg.GRV_SWIN_TOP_4K : Fld := ⟨0x20, 0x0008, 49, 32⟩
def Reg.GRV_SWIN_BASE_4K : Fld := ⟨0x20, 0x0008, 17, 0⟩
def Reg.GRV_PCODE_CODE_BASE : Fld := ⟨0x20, 0x0010, 44, 32⟩
def Reg.GRV_PCODE_CODE_KIB : Fld := ⟨0x20, 0x0010, 10, 0⟩
def Reg.GRV_PDATA_DATA_BASE : Fld := ⟨0x20, 0x0018, 25, 16⟩
def Reg.GRV_PDATA_DATA_KIB : Fld := ⟨0x20, 0x0018, 10, 0⟩
def Reg.GRV_PSTAT_MISSES : Fld := ⟨0x20, 0x0020, 63, 32⟩
def Reg.GRV_PSTAT_MISS : Fld := ⟨0x20, 0x0020, 2, 2⟩
def Reg.GRV_PSTAT_READY : Fld := ⟨0x20, 0x0020, 1, 1⟩
def Reg.GRV_PSTAT_LOADING : Fld := ⟨0x20, 0x0020, 0, 0⟩

/-- The class of a master identity at reset (Table 9.1). -/
def mclassReset (mid : Nat) : Nat :=
  if mid < 51 then 3 - mid % 3
  else if mid < 0x44 then 4
  else if mid = 0x44 then 0
  else if mid < 0x4F then mid - 0x45 + 8
  else 0

/-- The word a register of a half reads as right after reset: the table's values, the classes of Table 9.1 in
BND_MCLASSk, and HALF of IDV_DEVICE. -/
def regReset (h : HalfId) (addr : Nat) : Word :=
  let blk := addr / 0x10000
  let off := addr % 0x10000
  match regAt blk off with
  | none => 0
  | some d =>
    if blk = 3 && 0x100 ≤ off && off < 0x150 then
      BitVec.ofNat 64 ((List.range 8).foldl
        (fun a j => a + (if (off - 0x100) + j < 0x4F then mclassReset ((off - 0x100) + j) * 2 ^ (8 * j) else 0)) 0)
    else if blk = 0 && off = 0 then BitVec.ofNat 64 (d.resetWord + h.num * 2 ^ 4)
    else BitVec.ofNat 64 d.resetWord

end Sys2Proof.Machine
end

