-- ==== Sys2Proof/Machine/State.lean ====
section
/-! DEFINITION. The state of the ZK7160 package: plain data, every piece of state the spec names (INVENTORY.md lists
them with their rules), the queue of waiting commands, and the machine right after reset. -/

namespace Sys2Proof.Machine

/-- Sparse data by key: keys strictly rising, no entry equal to what an unlisted key reads as. -/
abbrev SMap (β : Type) := List (Nat × β)

/-- What key `k` holds; `d` gives what an unlisted key reads as. -/
def SMap.get {β : Type} (d : Nat → β) : SMap β → Nat → β
  | [], k => d k
  | (a, v) :: m, k => if k = a then v else SMap.get d m k

/-- Sets key `k`, keeping the canonical form: writing what an unlisted key reads as removes the entry. -/
def SMap.set {β : Type} [DecidableEq β] (d : Nat → β) : SMap β → Nat → β → SMap β
  | [], k, v => if v = d k then [] else [(k, v)]
  | (a, w) :: m, k, v =>
    if k = a then (if v = d k then m else (k, v) :: m)
    else if k < a then (if v = d k then (a, w) :: m else (k, v) :: (a, w) :: m)
    else (a, w) :: SMap.set d m k v

/-- The canonical form of sparse data above a bound: keys above it and strictly rising, no default entry. -/
def SMap.wfFrom {β : Type} [DecidableEq β] (d : Nat → β) (lo : Option Nat) : SMap β → Bool
  | [] => true
  | (a, v) :: m => (match lo with | none => true | some b => decide (b < a)) && decide (v ≠ d a) && SMap.wfFrom d (some a) m

/-- The canonical form of sparse data. -/
def SMap.wf {β : Type} [DecidableEq β] (d : Nat → β) (m : SMap β) : Bool := SMap.wfFrom d none m

/-- What a byte of memory that nothing has written reads as (log entry 2). -/
def memDefault : Nat → Byte := fun _ => 0

/-- A set of numbers, each listed once in rising order (tags, poison marks). -/
abbrev NatSet := List Nat

/-- Adds a number to a rising list. -/
def NatSet.add : NatSet → Nat → NatSet
  | [], k => [k]
  | a :: m, k => if k = a then a :: m else if k < a then k :: a :: m else a :: NatSet.add m k

/-- Removes a number. -/
def NatSet.del (m : NatSet) (k : Nat) : NatSet := m.filter (· ≠ k)

/-- A half's memory: bytes of Canopy and own DDR by physical address, the granules (address / 16) that hold tag 1, and, for
the SRAM that holds a granule (Canopy's banks, or the grove L2 for a DDR line it holds), the poisoned granules and those
with a correctable or uncorrectable error standing in them (R33, R169, R171, R172); `held` = the DDR lines (address / 64)
that an L2 holds; `lineP`, `lineCe`, `lineUe` = the DDR lines stored with poison 1, or with an error of one device or of two
standing in them (R170). -/
structure Mem where
  cells : List Host.Cell
  tags : NatSet
  poison : NatSet
  ce : NatSet
  ue : NatSet
  held : NatSet
  lineP : NatSet
  lineCe : NatSet
  lineUe : NatSet
  deriving DecidableEq, Repr

/-- The canonical form of a half's memory. -/
abbrev Memory.wf (m : Mem) : Prop := SMap.wf memDefault m.cells = true

/-- Whether a core executes (Table 1.6, R201): held in reset, halted or abandoned; executing; or free, with no thread. -/
inductive CoreRun where
  | held | running | idle
  deriving DecidableEq, Repr

/-- A return-stack frame (Table 5.2). -/
structure RFrame where
  rpcc : TCap
  image : Word
  cause : Word
  deriving DecidableEq, Repr

/-- A TLB slot (R155, R159), and the address of the leaf it was walked from. -/
structure TlbSlot where
  ctx : BitVec 16
  vbase : Nat
  size : Nat
  pbase : Nat
  key : BitVec 4
  mt : BitVec 2
  te : Bool
  u : Bool
  w : Bool
  r : Bool
  a : Bool
  d : Bool
  cont : Bool
  level : Nat
  table : Nat
  deriving DecidableEq, Repr

/-- A walk-cache entry: a pointer entry of a level, tagged by context and virtual leading bits (R159). -/
structure WalkEntry where
  ctx : BitVec 16
  level : Nat
  vtop : Nat
  next : Nat
  deriving DecidableEq, Repr

/-- What an effect of a restartable step targets (R207). -/
inductive EffectKind where
  | hostMem | setup | sideEffect | remote | replyPost | framePost
  deriving DecidableEq, Repr

/-- An effect: held in the commit buffer, or on its way to its target (R207). `addr` is a physical address, or the
cursor at the home for a remote effect, whose authority is `auth`; a byte that no merged store wrote is none; `va` = the address
that its first store named, `mid` = the identity it was checked under; `release` = a store of it carried RELEASE (R178); `sub` = its place among
the runs of bytes that merged into one effect, 0 for the first (log entry 24); `origin` = the operand's number. -/
structure Effect where
  kind : EffectKind
  addr : Nat
  bytes : List (Option Byte)
  va : Nat
  mid : Nat
  auth : TCap
  datum : Option TCap
  pos : Nat
  thread : Nat
  stepseq : Nat
  release : Bool
  sub : Nat
  origin : Nat
  deriving DecidableEq, Repr

/-- A granule as it stood before a step's first write to it (R208). -/
structure JEntry where
  half : HalfId
  granule : Nat
  data : List Byte
  tag : Bool
  poison : Bool
  deriving DecidableEq, Repr

/-- One checked part of a long operation's memory destination (R135, R136): virtual and physical first byte, size, whether it is
a side-effect page, whether it goes to another node, whether the page is cached, the operand's number, and the authority it goes under. -/
structure LongPart where
  va : Nat
  phys : Nat
  n : Nat
  side : Bool
  remote : Bool
  cached : Bool
  origin : Nat
  cap : TCap
  deriving DecidableEq, Repr

/-- Where a long operation writes (R135). -/
inductive LongDest where
  | none
  | x (n : Fin 8) (w : Nat)
  | d (n : Fin 8)
  | mem (ps : List LongPart)
  deriving DecidableEq, Repr

/-- A long operation of a BULK thread that has issued and not completed (R135), with its number among the core's long
operations, the result it will write, the SW flags it sets by bit number, the DSR flags it raises, and the vector of its
imprecise fault if it will fault (R136); `release` = its memory write carries RELEASE. -/
structure LongOp where
  age : Nat
  opcode : Byte
  cursor : Word
  dest : LongDest
  value : Word128
  bytes : List Byte
  flags : List (Nat × Bool)
  raised : BitVec 5
  faultVec : Option Nat
  release : Bool
  deriving DecidableEq, Repr

/-- A pending imprecise fault (R136, Table 6.1), its long operation's number, and the destination it left unwritten. -/
structure Imprecise where
  age : Nat
  inner : Nat
  cursor : Word
  dest : LongDest
  deriving DecidableEq, Repr

/-- A fabric packet (Table 16.3) with the port it arrived on or leaves by; `detail` = the DETAIL of a home's refusal, which no
field of the header carries (log entry 96), and `eff` = a WR is a committed step's effect, with its place among the effect's runs (log
entry 26). -/
structure Packet where
  dst : BitVec 9
  src : BitVec 9
  depoch : BitVec 4
  sepoch : BitVec 4
  vc : BitVec 3
  type : BitVec 5
  hops : BitVec 5
  info : Byte
  seq : BitVec 32
  pos : BitVec 4
  txn : BitVec 11
  thread : BitVec 17
  addr : Word
  tags : Word
  payload : List Byte
  port : Nat
  detail : Nat := 0
  eff : Option Nat := none
  deriving DecidableEq, Repr

/-- A response that a core's remote access awaits no longer: the request and its response (R334). -/
structure RemoteRsp where
  req : Packet
  rsp : Packet
  deriving DecidableEq, Repr

/-- One core: its architectural registers (Table 3.1) and the state chapters 5 to 10 and 15 give it. `marks` = the leaves to
mark when the running instruction retires: virtual address, slot, whether D too (R156); `popped` = what its side-effect loads have read where
it then had to wait, by operand, address and size (R154); `issued` = the instruction that waits has opened its HOLD region (R125); `longs` = long operations
issued; `report` = where the next imprecise fault is reported (R137); `drain` = a level change's older accesses must still be
performed (R119); `seq` and `dsave` = STEPSEQ and DSAVE of the running thread's record as read at its switch-in (R195). -/
structure Core where
  run : CoreRun
  caps : Vector TCap 16
  xs : Vector Word 8
  ds : Vector Word128 8
  pcc : TCap
  sw : Word
  dsr : BitVec 32
  vba : Word
  krr : Word
  rsc : TCap
  btr : Vector Word128 8
  bankOn : Bool
  bankC : Vector TCap 8
  bankX : Vector Word 4
  rstack : List RFrame
  reserve : Bool
  mstack : List RFrame
  decOwner : Option Nat
  decDirty : Bool
  thread : Option Nat
  root : Nat
  ctx : BitVec 16
  control : Bool
  quiet : Bool
  nr : Bool
  seq : Nat
  dsave : Nat
  stepStart : Nat
  limitRaised : Bool
  holdStart : Option Nat
  longOps : List LongOp
  longs : Nat
  imprecise : List Imprecise
  report : Option Nat
  drain : Bool
  marks : List (Nat × TlbSlot × Bool)
  tlb : List TlbSlot
  walk : List WalkEntry
  journal : List JEntry
  effects : List Effect
  handed : List Effect
  remote : List RemoteRsp
  popped : List (Nat × Nat × Nat × List Byte)
  issued : Bool
  converted : Bool
  pos : Nat
  posts : SMap (List (Option Byte))
  irqs : List (Nat × Word)
  perf : Vector Word 16
  queued : Nat
  pacedTicks : Nat
  lastOpcode : Byte
  lastClass : Nat
  deriving DecidableEq, Repr

/-- Thread states (Table 10.2). -/
inductive TState where
  | free | waiting | ready | running | aborted
  deriving DecidableEq, Repr

/-- What the Foreman holds of a thread in its own store (R196): STATE, PEND, the SCHED and EVENT fields as last read,
its place in the ready order, its wait timer (elapsed count of expiry) and whether an ABORT awaits its commit point;
`restart` = its next run restarts the step from its last commit point (R211), `rolled` = that step was rolled back for a
self-test (R363). -/
structure Thread where
  state : TState
  pend : BitVec 16
  sched : Word
  mask : BitVec 16
  order : Nat
  timer : Option Nat
  abortAtCommit : Bool
  restart : Bool
  rolled : Bool
  deriving DecidableEq, Repr

/-- What the Foreman has of a thread that was never started. -/
def threadDefault : Nat → Thread := fun _ => ⟨.free, 0, 0, 0, 0, none, false, false, false⟩

/-- A range captured from a region entry of a disabled group (R191). -/
structure Capture where
  group : Nat
  lo : Nat
  hi : Nat
  deriving DecidableEq, Repr

/-- An access held because its group is disabled (R191), and the core that makes it when a core does; `expired` = its
hold limit has passed and it is refused when it is next decided. -/
structure Held where
  group : Nat
  mid : Nat
  addr : Nat
  core : Option Nat
  since : Nat
  expired : Bool
  deriving DecidableEq, Repr

/-- A frame in the landing buffer (R220), with the classifier's decision (R221): `slow` = slow-path reason, or
`listener` = the one a wildcard entry named; `held` = bytes of it that still take space; `also` = space of the other fragments of its datagram, by
priority and bytes (R224); `place` = its first granule in the buffer (log entry 98). -/
structure LandFrame where
  sub : Nat
  bytes : List Byte
  prio : Nat
  time : Word
  slow : Option Nat
  listener : Option Nat
  held : Nat
  also : List (Nat × Nat)
  place : Nat
  deriving DecidableEq, Repr

/-- A frame queued for transmission on a link or sub-port; `stamp` = transmit timestamp wanted (R237). -/
structure TxFrame where
  sub : Nat
  bytes : List Byte
  prio : Nat
  stamp : Bool
  deriving DecidableEq, Repr

/-- A segment sent and not yet acknowledged (R228, R229); `due` = the retransmission timer took it for lost, and it goes again
as the congestion window allows (RFC 5681). -/
structure Seg where
  seq : Nat
  data : List Byte
  syn : Bool
  fin : Bool
  sends : Nat
  sentAt : Nat
  due : Bool
  deriving DecidableEq, Repr, Inhabited

/-- A TCP control block (R226–R230). Sequence numbers are taken modulo 2^32; times are elapsed ns. A received byte stands
with the receive timestamp of its frame (R271). `wsOk` = the peer's SYN offered window scaling; `recover` = the end of the fast
recovery in progress, `recoverPt` = the highest sequence number when the last recovery or time-out began (RFC 6582);
`wl1`, `wl2` = SND.WL1 and SND.WL2 (RFC 9293), `lastAck` = Last.ACK.sent (RFC 7323), `probes` = zero-window probes since the peer's last
acknowledgement. -/
structure Tcb where
  sndUna : Nat
  sndNxt : Nat
  sndWnd : Nat
  rcvNxt : Nat
  peerMss : Nat
  peerShift : Nat
  wsOk : Bool
  tsOk : Bool
  tsRecent : Nat
  sackOk : Bool
  sacked : List (Nat × Nat)
  cwnd : Nat
  ssthresh : Nat
  dupAcks : Nat
  recover : Option Nat
  recoverPt : Option Nat
  srtt : Nat
  rttvar : Nat
  rto : Nat
  rtoAt : Option Nat
  ackAt : Option Nat
  unacked : Nat
  outq : List Seg
  unsent : List Byte
  ooo : List (Nat × List (Byte × Word))
  rcv : List (Byte × Word)
  finSent : Bool
  finRcvd : Bool
  passive : Bool
  kaSent : Nat
  kaAt : Option Nat
  wl1 : Nat
  wl2 : Nat
  lastAck : Nat
  probes : Nat
  deriving DecidableEq, Repr, Inhabited

/-- Session states with their codes 0–4 (Table 11.4). -/
inductive SState where
  | free | opening | opened | closing | closed
  deriving DecidableEq, Repr, Inhabited

/-- A session (Tables 11.3, 11.4, 11.6; R228, R231, R232, R441). Addresses are the 16 bytes of Table 11.6. `sealCtr` = the counter
of the last seal of its key record, as Flume's resident index keeps it (R251); `oldPeers` = the addresses and ports
that rebindings left (R231). -/
structure Session where
  state : SState
  listener : Nat
  laddr : List Byte
  lport : Nat
  proto : Nat
  dtls : Bool
  tagged : Bool
  vid : Nat
  cidLen : Nat
  raddr : List Byte
  rport : Nat
  cid : List Byte
  in5 : Bool
  inCid : Bool
  path : Bool
  pin : Bool
  pcp : Nat
  thread : Option Nat
  ring : Nat
  kaS : Nat
  kaProbes : Nat
  rebinds : Nat
  sub : Nat
  nhMac : List Byte
  lastRx : Nat
  closedAt : Nat
  ownFin : Bool
  hot : Bool
  sealCtr : Option Nat
  used : Nat
  tcb : Option Tcb
  oldPeers : List (List Byte × Nat)
  deriving DecidableEq, Repr, Inhabited

/-- A session number that nothing has opened. -/
def sessionDefault : Nat → Session := fun _ =>
  ⟨.free, 0, [], 0, 0, false, false, 0, 0, [], 0, [], false, false, false, false, 0, none, 0, 0, 0, 0, 0, [], 0, 0,
    false, false, none, 0, none, []⟩

/-- A reassembly context (R224); `dead` = its datagram was discarded for an overlap, and fragments that still come are discarded
with it (RFC 5722); `space` = landing-buffer space that its fragments take, by priority and bytes (R220). -/
structure Reasm where
  key : List Byte
  v6 : Bool
  frags : List (Nat × List Byte)
  total : Option Nat
  header : List Byte
  first : LandFrame
  since : Nat
  dead : Bool
  space : List (Nat × Nat)
  deriving DecidableEq, Repr

/-- A record on its way to Kiln (R246): its bytes, the receive timestamp of each byte's frame, and, for a provisional
DTLS record, the address, port, sub-port and source MAC it came from (R231). -/
structure RxRecord where
  session : Nat
  bytes : List Byte
  times : List Word
  path : Bool
  provisional : Option (List Byte × Nat × Nat × List Byte)
  deriving DecidableEq, Repr

/-- Traffic keys of one direction and epoch (R245, R254, R442), named by their traffic secret; `seq` counts records
under the key; `high` and `seen` are the replay window (R248). -/
structure DirKey where
  secret : List Byte
  suite : Nat
  dtls : Bool
  epoch : Nat
  seq : Nat
  high : Option Nat
  seen : List Nat
  soft : Bool
  exhausted : Bool
  deriving DecidableEq, Repr, Inhabited

/-- A session's key record (R246–R248, R254, R256, R442, R443) with the one suite of its keys (R245). -/
structure SessKeys where
  suite : Option Nat
  rx : Option DirKey
  rxNext : Option DirKey
  rxTop : Option Nat
  rxFailed : Bool
  tx : Option DirKey
  txTop : Option Nat
  txFailed : Bool
  peerCid : List Byte
  plainSeq : Nat
  high : Option (Nat × Nat)
  deriving DecidableEq, Repr, Inhabited

/-- A session with no keys. -/
def keysDefault : Nat → SessKeys := fun _ => ⟨none, none, none, none, false, none, none, false, [], 0, none⟩

/-- Types of what a secret slot holds (R252). -/
inductive SlotType where
  | priv | secret | finished
  deriving DecidableEq, Repr

/-- An occupied secret slot: type, PARAM (curve or hash) it was made under, and its bytes (R252). -/
structure Slot where
  type : SlotType
  param : Nat
  bytes : List Byte
  deriving DecidableEq, Repr

/-- A vault slot that holds a key: key type, use mask (bit 0 SIGN, bit 1 ECDH) and key (R255). -/
structure VaultKey where
  type : Nat
  use : Nat
  bytes : List Byte
  deriving DecidableEq, Repr

/-- A field register of Mill (R268). -/
structure MField where
  value : Word
  count : Nat
  exp : Int
  neg : Bool
  dot : Bool
  deriving DecidableEq, Repr, Inhabited

/-- A CRC descriptor (Table 13.4). -/
structure CrcDesc where
  poly : Nat
  init : Nat
  xorout : Nat
  width : Nat
  refl : Bool
  le : Bool
  block : Nat
  deriving DecidableEq, Repr, Inhabited

/-- A CRC unit (R268, R269): descriptor, register, bytes covered since the last check, and check bytes still due. -/
structure CrcUnit where
  desc : CrcDesc
  reg : Nat
  covered : Nat
  due : List Byte
  on : Bool
  bad : Bool
  deriving DecidableEq, Repr, Inhabited

/-- A 32-byte record of Mill or Scaler (Tables 13.5, 14.7). -/
structure Rec where
  time : Word
  value : Word128
  point : BitVec 32
  vtype : Byte
  qual : Byte
  kind : Byte
  tinfo : Byte
  deriving DecidableEq, Repr, Inhabited

/-- A session's parse context (R265) with the message in progress. -/
structure ParseCtx where
  ready : Bool
  state : Nat
  f : List MField
  len : List (Nat × Option Nat)
  crc : List CrcUnit
  v : List (BitVec 32)
  vst : List (Nat × BitVec 32)
  recs : List Rec
  slot : Option Nat
  noteMalf : Bool
  pointBase : Nat
  arrival : Word
  offset : Nat
  skip : Nat
  lastByte : Nat
  parked : Bool
  deriving DecidableEq, Repr, Inhabited

/-- The parse context of a session that was never opened. -/
def parseDefault : Nat → ParseCtx := fun _ => ⟨false, 0, [], [], [], [], [], [], none, false, 0, 0, 0, 0, 0, false⟩

/-- Work of a session waiting for a Mill parse: plaintext bytes with their receive timestamps, path at acceptance (R266,
R271, R18). -/
structure ParseJob where
  session : Nat
  data : List (Byte × Word)
  path : Bool
  deriving DecidableEq, Repr

/-- Where a frame request came from and what its end is reported to (R314, R321). -/
inductive ReqFrom where
  | command (tag : Nat) (part : Option Nat)
  | post (thread : Nat) (cmdid : Word) (ring : Nat) (silent : Bool)
  | remote (node : Nat) (cmdid : Word) (part : Nat)
  deriving DecidableEq, Repr

/-- A frame request on its way through Mill, Kiln and Flume (R21): `data` is the parameter block, then the plaintext,
then the record. -/
structure SendJob where
  session : Nat
  src : ReqFrom
  format : Nat
  kupd : Bool
  data : List Byte
  deriving DecidableEq, Repr

/-- A job of a session's, in the order they reached Mill (R263). -/
inductive MillJob where
  | parse (j : ParseJob)
  | build (j : SendJob)
  deriving DecidableEq, Repr

/-- The session of a job. -/
def MillJob.session : MillJob → Nat
  | .parse j => j.session
  | .build j => j.session

/-- Records of one Mill message on their way to Scaler, with the message's arrival time (R281, R297). -/
structure ScalerJob where
  session : Nat
  recs : List Rec
  arrival : Word
  path : Bool
  deriving DecidableEq, Repr

/-- A resident Mill table (R263, R275, R276) and the 4 KiB pages of the store that hold its image, in order. -/
structure MTable where
  image : List Byte
  pages : List Nat
  retiring : Bool
  deriving DecidableEq, Repr

/-- A ring context (R310–R313, R325): base, size, indices, reservations, moderation. -/
structure Ring where
  isCmd : Bool
  isReply : Bool
  base : Nat
  log2 : Nat
  prod : Nat
  cons : Nat
  rbase : Nat
  rlog2 : Nat
  rprod : Nat
  rcons : Nat
  written : Nat
  reply : Nat
  vecOn : Bool
  vec : Nat
  modCount : Nat
  modUs : Nat
  reserved : Nat
  unsignalled : Nat
  firstAt : Option Nat
  fetched : List (List Byte)
  deriving DecidableEq, Repr

/-- An accepted descriptor (R317, R320) until its completion: its parameters as read, the thread it was delivered to, the
status words of a GROUP's ended parts and its part list as read; `skip` = parts that had succeeded before (R327), `begun`
= parts started (bit 0 for another command), `again` = attention causes raised again since acceptance (R322), `owns` =
it has the deduplication entry of its CMDID; `sentAt` = when each remote part of a GROUP was started (R326). -/
structure InFlight where
  tag : Nat
  ring : Nat
  desc : List Byte
  params : List Byte
  thread : Option Nat
  parts : List (Option Nat)
  partList : List Byte
  skip : Nat
  begun : Nat
  again : Nat
  owns : Bool
  sentAt : SMap Nat
  deriving DecidableEq, Repr

/-- A deduplication entry (R327). -/
structure Dedup where
  cmdid : Word
  op : Byte
  target : Nat
  len : Nat
  mask : Nat
  busy : Bool
  doneAt : Option Nat
  origin : Option (Nat × Nat)
  deriving DecidableEq, Repr

/-- A released post that waits for the ring engine (R321). -/
structure Post where
  frame : Bool
  thread : Nat
  stepseq : Nat
  pos : Nat
  bytes : List Byte
  deriving DecidableEq, Repr

/-- A 32-byte reply record waiting to be written into a ring: `tag` = the in-flight descriptor whose reserved slot it
takes (R318); `session` = the session it derives from (R19), `post` = a thread posted it (R321). -/
structure WaitRec where
  ring : Nat
  bytes : List Byte
  tag : Option Nat
  session : Option Nat
  post : Bool
  deriving DecidableEq, Repr

/-- A flit waiting for a credit: FTYPE, channel, body, and the packet it belongs to by its number on the link. -/
structure TxFlit where
  ftype : Nat
  vc : Nat
  body : List Byte
  id : Nat
  deriving DecidableEq, Repr

/-- A flit in the retry buffer (R332). -/
structure SentFlit where
  seq : Nat
  id : Nat
  bytes : List Byte
  deriving DecidableEq, Repr

/-- A Boom link (R329–R332): `pkts` = packets with flits not sent or not acknowledged, `partials` = packets arriving, by
channel, `owed` = credits to return per channel, `turn`, `rxTurn` = the channel of 0–5 served last, and received on last. -/
structure Link where
  trained : Bool
  up : Bool
  rxNext : Nat
  txSeq : Nat
  retry : List SentFlit
  replays : Nat
  credits : Vector Nat 8
  partials : List (Nat × List Byte)
  lastGood : Nat
  failedAt : Option Nat
  txq : List TxFlit
  pkts : List (Nat × Packet)
  ids : Nat
  owed : Vector Nat 8
  turn : Nat
  rxTurn : Nat
  deriving DecidableEq, Repr

/-- A request of this half that awaits its response (R334): the packet, and the core it answers. -/
structure Outstanding where
  txn : Nat
  pkt : Packet
  core : Option Nat
  busyAt : Option Nat
  deriving DecidableEq, Repr

/-- A response a home keeps for duplicates (R335). -/
structure Kept where
  src : Nat
  txn : Nat
  rsp : Packet
  since : Nat
  deriving DecidableEq, Repr

/-- An entry of the home's effect table (R348). -/
structure DupEntry where
  src : Nat
  thread : Nat
  stepseq : Nat
  pos : Nat
  at_ : Nat
  deriving DecidableEq, Repr

/-- Phases of a self-test window (R362). -/
inductive RotPhase where
  | off | drain | test | ret
  deriving DecidableEq, Repr

/-- Modes of Table 1.6. -/
inductive Mode where
  | reset | boot | run | watch | safe | service
  deriving DecidableEq, Repr

/-- Instructions a TAP can hold (Table 20.6). -/
inductive TapInstr where
  | bypass | idcode | samplePreload | extest | highz | clamp | extestPulse | extestTrain | dbgAuth | dbgAccess
  deriving DecidableEq, Repr

/-- What the device has put on its pins or answered, oldest first (log entry 14). -/
inductive Output where
  | ethFrame (h : HalfId) (sub : Nat) (bytes : List Byte)
  | ethPause (h : HalfId) (sub : Nat) (pfc : Bool) (prio : Nat) (quanta : Nat)
  | msix (h : HalfId) (vector : Nat) (addr : Word) (data : Nat)
  | flit (h : HalfId) (link : Nat) (bytes : List Byte)
  | packet (h : HalfId) (p : Packet)
  | cruise (h : HalfId) (dst : Nat) (msg : CruMsg)
  | smbBlock (v : Word)
  | readData (v : Word)
  | uartByte (n : Nat) (b : Byte)
  | spi (opc : Nat) (addr : Nat) (bytes : List Byte)
  | tapData (h : HalfId) (v : Nat)
  deriving DecidableEq, Repr

/-- A committed store that was refused, which its thread has not been told of: thread, vector, ORIGIN, DETAIL and address (R50). -/
structure RefusedStore where
  thread : Nat
  vec : Nat
  origin : Nat
  detail : Nat
  va : Nat
  deriving DecidableEq, Repr

/-- Foreman (chapter 10): `owed` = threads whose record waits for a write of STATE and PEND that is held (R191), `cmds` = FMN_CMD
commands whose record reads are held, `refused` = committed stores that were refused (R50). -/
structure Foreman where
  threads : SMap Thread
  readyCount : Nat
  owed : NatSet
  cmds : List (Nat × Nat)
  refused : List RefusedStore
  deriving DecidableEq, Repr

/-- Boundary table state beside its registers (R191); `holds` counts the accesses held so far (the model's own); `posted` = the
units' allowed writes to set-up space, by master, physical address and bytes, not performed yet (log entry 97), `signals` = the events that
follow them, by thread and source (R179). -/
structure Bnd where
  captures : List Capture
  held : List Held
  holds : Nat
  posted : List (Nat × Nat × List Byte)
  signals : List (Nat × Nat)
  deriving DecidableEq, Repr

/-- Ethernet port (R216–R220, R439): paused = (sub-port, priority, elapsed count at which the pause ends); `cnt` = each
sub-port's counters by 4 × sub-port + kind: 0 FCS, 1 LEN, 2 TXDROP (R216); `landNext` = the landing buffer's granule at which the next
frame is put (log entry 98). -/
structure Eth where
  landing : List LandFrame
  txq : List TxFrame
  paused : List (Nat × Nat × Nat)
  xoff : List (Nat × Nat × Nat)
  anDone : List Nat
  cnt : SMap Nat
  landNext : Nat
  deriving DecidableEq, Repr

/-- Flume (chapter 11): `noSlot` = passive opens that found no session number free (NO_SESSION_SLOT, R222). -/
structure Flume where
  sessions : SMap Session
  reasm : List Reasm
  useCount : Nat
  noSlot : Nat
  out : List SendJob
  deriving DecidableEq, Repr

/-- Kiln (chapter 12): `sealCount` = the eviction counter, `evictKey` = the eviction key (R251). -/
structure Kiln where
  keys : SMap SessKeys
  rxq : List RxRecord
  txq : List SendJob
  slots : SMap (Option Slot)
  vault : SMap (Option VaultKey)
  drbg : Bool
  drbgRequests : Nat
  drbgSince : Nat
  sealCount : Nat
  evictKey : Option (List Byte)
  pairTx : Option (List Byte × Nat)
  pairRx : Option (List Byte × Nat)
  deriving DecidableEq, Repr

/-- Mill (chapter 13). -/
structure Mill where
  tables : SMap (Option MTable)
  ctxs : SMap ParseCtx
  jobs : List MillJob
  deriving DecidableEq, Repr

/-- Output records of a Scaler job on their way to their session's destination (R302): `first` = the job's first, `arrival` = that of the
job's message, where it has one (R298). -/
structure ScalerOut where
  session : Nat
  path : Bool
  rec_ : Rec
  first : Bool
  arrival : Option Word
  deriving DecidableEq, Repr

/-- Scaler (chapter 14): waiting jobs, outputs not delivered yet, hot stream records by point and cached slots by
kind × 65,536 + slot (0 curve, 1 program), both least recently used first; per class the end of the period swept last;
per point the time of its SET and VTYPE + 1 of its latest record; `boxed` = the sessions whose records went into an inbox
since the inbox was last seen empty (R19); `pendInfo` = TINFO of each point's pending record (R294);
`classes` = the two words of each period class in effect (R304). -/
structure Scaler where
  jobs : List ScalerJob
  outq : List ScalerOut
  points : List (Nat × List Byte)
  slots : List (Nat × List Byte)
  swept : SMap Int
  setAt : SMap Nat
  vtypes : SMap Nat
  boxed : NatSet
  pendInfo : SMap Nat
  classes : SMap Nat
  deriving DecidableEq, Repr

/-- Host interface and ring engine (chapter 15): `aer` = uncorrectable errors that AER reports, by the bit of the specification's status
register: 12 poisoned TLP, 14 completion timeout (R305); `gone`, `goneRings` = tags delivered to threads, by tag and thread, and rings, that a
reset removed (R308); `msixTable` = the 2,048 words of the MSI-X table but for its mask bits (R306). -/
structure Hif where
  rings : SMap (Option Ring)
  turn : Nat
  inflight : List InFlight
  nextTag : Nat
  dedup : List Dedup
  posts : List Post
  waiting : List WaitRec
  msixOn : NatSet
  msixPend : NatSet
  poisoned : List Nat
  gone : List (Nat × Nat)
  goneRings : NatSet
  aer : NatSet
  msixTable : SMap Word
  ownBdf : Option (BitVec 16)
  peerBdf : Option (BitVec 16)
  deriving DecidableEq, Repr

/-- Boom (chapter 16): `mirrorSeal` = per mirror slot, one more than the counter its key record is sealed under (R351); `keyx` = the key
agreement message this half's Kiln sent last (R350); `lost` = serials of the devices that lost their number when sets met (R342). -/
structure Boom where
  links : Vector Link 4
  rxq : List Packet
  outstanding : List Outstanding
  effects : List Effect
  nextTxn : Nat
  kept : List Kept
  dups : List DupEntry
  tlb : List TlbSlot
  walk : List WalkEntry
  hbSeq : SMap Nat
  buddySeen : Nat
  buddyEcho : Nat
  buddyTrip : Nat
  buddyGone : Bool
  lastHb : SMap Nat
  silenced : Bool
  adopted : Bool
  adoptSeen : Option Nat
  mirrorSeq : SMap Nat
  mirrorSeal : SMap Nat
  awaiting : List (Nat × Nat × TxFrame)
  keyx : List Byte
  lost : List Word
  deriving DecidableEq, Repr

/-- Fault manager (chapter 17): phase and groves of a self-test window, when each grove last passed (elapsed count + 1), the
failed grove whose areas are being copied (R366), the window or grove tested next, record counts, recoveries in progress
(R373), groves whose last test failed; `injected` = granules in which FLT_INJ put the error that stands there (R357); `told` = number
of the record of which the latch holder's Warden was informed last (R377); `taken` = the threads that the takeover of a paced grove has
taken from it and that its second fault would abort (R373). -/
structure Flt where
  phase : RotPhase
  testing : List Nat
  tested : SMap Nat
  takeover : Option Nat
  next : Nat
  hostIndex : Nat
  lastRefused : SMap Nat
  lastFenced : SMap Nat
  recovering : List (Region × Nat)
  testBad : NatSet
  injected : NatSet
  seq : Nat
  told : Option Nat
  taken : List Nat
  deriving DecidableEq, Repr

/-- One half: the set-up registers and every unit's own state; `paceBase` and `paceLen` = the range of the code store that each
paced grove copied (R144); `sram` = error marks of the SRAM granules that no physical address names, by store × 2^40 + granule
(stores in log entry 98): 1 correctable, 2 uncorrectable, 3 poisoned (R169); `codeCe` = corrected reads of its code-store die (R361); `wardenActive` = its Warden believes itself active (R370); VDD_CORE's set point in mV, the one to return to from Watch,
when it last moved, and the PMBus transactions that failed in a row (R413). -/
structure Half where
  mode : Mode
  regs : SMap Word
  mem : Mem
  cores : SMap Core
  fmn : Foreman
  bnd : Bnd
  eth : Eth
  flm : Flume
  txts : List (Word × Word)
  kln : Kiln
  mil : Mill
  scl : Scaler
  hif : Hif
  bom : Boom
  flt : Flt
  ddrGib : Nat
  vset : Nat
  vrun : Nat
  vsetAt : Nat
  pmbFails : Nat
  safeDue : Option (Nat × Nat × Nat)
  code : List Host.Cell
  paceCode : SMap (List Host.Cell)
  paceBase : SMap Nat
  paceLen : SMap Nat
  sram : SMap Nat
  codeErrs : SMap Nat
  codeCe : Nat
  codeWorn : SMap Nat
  wardenHeld : Bool
  wardenActive : Bool
  perst : Bool
  tap : TapInstr
  challenge : List Byte
  authStatus : Nat
  dbgData : Word
  dbgStatus : Nat
  deriving DecidableEq, Repr

/-- OTP (R386–R395): fuse rows, counters, tamper counter and causes, digests, package serial. -/
structure Otp where
  intent : Word
  commit : Word
  kekKill : Word
  counters : Vector Nat 16
  tamper : List Byte
  tkey : List Byte
  okey : List Byte
  odbg : List Byte
  serial : Word
  deriving DecidableEq, Repr

/-- A life-cycle transition being programmed (R392). -/
structure Transition where
  target : Nat
  serial : Word
  okey : List Byte
  odbg : List Byte
  deriving DecidableEq, Repr

/-- The package (`ppsEdge` = the last tick brought the timebase to a PPS_OUT edge, R238): both halves, the single-instance
units and pins, the stages of this boot and the directory slots it took (R385), and the queue of waiting commands. `idleAt` = the
elapsed count, plus 1, from which the idle conditions of R408 have held, 0 where they do not; `activating` = an ACTIVATE whose
steps are done on the die named, for this slot, and not on the other (R388); `dbgGrant` = the scope of the debug
grant that the last warm reset brought into effect (R398). -/
structure State where
  east : Half
  west : Half
  timebase : Word
  elapsed : Nat
  trimAcc : Int
  ppsOut : Bool
  ppsFall : Nat
  ppsEdge : Bool
  idleAt : Nat
  latch : Option HalfId
  leaseEnd : Nat
  frozen : Bool
  seamUp : Bool
  timeFailed : Bool
  otp : Otp
  xfer : Option Transition
  bootStage : Nat
  booted : List Nat
  activating : Option (HalfId × Nat)
  dbgGrant : Nat
  host : List Host.Cell
  porst : Bool
  wrst : Bool
  waking : Bool
  faultN : Bool
  safeOut : Bool
  uartRx : Vector (List Byte) 2
  uartTx : Vector (List Byte) 2
  spi : Option Word
  out : List Output
  freeCount : Nat
  pending : List Instr
  deriving DecidableEq, Repr

/-- Why the machine stops. -/
inductive Fault where
  /-- No meaning raises it: every fault the spec gives the device is an effect on State (a trap taken, a record
  written, a mode entered). It is here so that the type has a value. Safe. -/
  | none
  deriving DecidableEq, Repr

/-- Why the model gives a command no outcome. -/
inductive Refusal where
  /-- Raised by an arm of exec whose meaning is not written yet. Safe: the model stops where the device goes on. -/
  | notModelled (mnemonic : String)
  deriving DecidableEq, Repr

/-- The root capability (R47): E = 63, all twelve permissions, OTYPE 0, MODE 0, NODE 511, EPOCH 0, cursor 0. -/
def rootCap : TCap := ⟨0xFFF00003F0000000FF80000000000000#128, true⟩

/-- A core held in reset with the values R47, R55, R124 and R148 give, and zero elsewhere (log entry 3). -/
def Core.reset : Core where
  run := .held
  caps := Vector.ofFn fun i => if i.val = 0 then rootCap else TCap.null
  xs := Vector.replicate 8 0
  ds := Vector.replicate 8 0
  pcc := rootCap
  sw := 0x600000
  dsr := 0
  vba := 0
  krr := 0
  rsc := TCap.null
  btr := Vector.replicate 8 0
  bankOn := false
  bankC := Vector.replicate 8 TCap.null
  bankX := Vector.replicate 4 0
  rstack := []
  reserve := false
  mstack := []
  decOwner := none
  decDirty := false
  thread := none
  root := 0
  ctx := 0
  control := true
  quiet := false
  nr := true
  seq := 0
  dsave := 0
  stepStart := 0
  limitRaised := false
  holdStart := none
  longOps := []
  longs := 0
  imprecise := []
  report := none
  drain := false
  marks := []
  tlb := []
  walk := []
  journal := []
  effects := []
  handed := []
  remote := []
  popped := []
  issued := false
  converted := false
  pos := 0
  posts := []
  irqs := []
  perf := Vector.replicate 16 0
  queued := 0
  pacedTicks := 0
  lastOpcode := 0
  lastClass := 0

/-- What a core that nothing has changed since reset holds. -/
def coreDefault : Nat → Core := fun _ => Core.reset

/-- A Boom link at reset: not trained, 64 credits on each of eight channels (R331). -/
def Link.reset : Link :=
  ⟨false, false, 0, 0, [], 0, Vector.replicate 8 64, [], 0, none, [], [], 0, Vector.replicate 8 0, 0, 0⟩

/-- A half right after reset (Table 19.3): registers at their reset values, every unit empty. -/
def Half.reset : Half where
  mode := .reset
  regs := []
  mem := ⟨[], [], [], [], [], [], [], [], []⟩
  cores := []
  fmn := ⟨[], 0, [], [], []⟩
  bnd := ⟨[], [], 0, [], []⟩
  eth := ⟨[], [], [], [], [], [], 0⟩
  flm := ⟨[], [], 0, 0, []⟩
  txts := []
  kln := ⟨[], [], [], [], [], true, 0, 0, 0, none, none, none⟩
  mil := ⟨[], [], []⟩
  scl := ⟨[], [], [], [], [], [], [], [], [], []⟩
  hif := ⟨[], 0, [], 0, [], [], [], [], [], [], [], [], [], [], none, none⟩
  bom := ⟨Vector.replicate 4 Link.reset, [], [], [], 0, [], [], [], [], [], 0, 0, 0, false, [], false, false, none, [], [], [], [], []⟩
  flt := ⟨.off, [], [], none, 0, 0, [], [], [], [], [], 0, none, []⟩
  ddrGib := 0
  vset := 800
  vrun := 800
  vsetAt := 0
  pmbFails := 0
  safeDue := none
  code := []
  paceCode := []
  paceBase := []
  paceLen := []
  sram := []
  codeErrs := []
  codeCe := 0
  codeWorn := []
  wardenHeld := false
  wardenActive := false
  perst := false
  tap := .idcode
  challenge := []
  authStatus := 0
  dbgData := 0
  dbgStatus := 0

/-- OTP with no fuse programmed (log entry 1): the BLANK state of Table 18.5. -/
def Otp.blank : Otp :=
  ⟨0, 0, 0, Vector.replicate 16 0, [], List.replicate 48 0, List.replicate 48 0, List.replicate 48 0, 0⟩

/-- The package right after power-on reset, with the reset pins still low (R403, R406, Table 19.4): FAULT_N driven
low, SAFE_OUT driven high, PPS_OUT low, no command waiting. -/
def State.reset : State where
  east := Half.reset
  west := Half.reset
  timebase := 0
  elapsed := 0
  trimAcc := 0
  ppsOut := false
  ppsFall := 0
  ppsEdge := false
  idleAt := 0
  latch := none
  leaseEnd := 0
  frozen := false
  seamUp := true
  timeFailed := false
  otp := Otp.blank
  xfer := none
  bootStage := 0
  booted := []
  activating := none
  dbgGrant := 0
  host := []
  porst := false
  wrst := false
  waking := false
  faultN := false
  safeOut := true
  uartRx := Vector.replicate 2 []
  uartTx := Vector.replicate 2 []
  spi := none
  out := []
  freeCount := 0
  pending := []

end Sys2Proof.Machine
end

