-- ==== Sys2Proof/Machine/Ops.lean ====
section
/-! DEFINITION. The named operations over a half's registers and memory: register fields (R7–R11, R31), the physical
map (R27, R28), writes onto granules and DDR lines (R46, R170–R172), error records (R375–R377), the boundary table's check
(R187) and attention (R322). -/

namespace Sys2Proof.Machine

-- bytes and numbers

/-- `n` bytes of a number, least significant first. -/
def leBytes : Nat → Nat → List Byte
  | 0, _ => []
  | n + 1, v => BitVec.ofNat 8 v :: leBytes n (v / 256)

/-- The number that bytes hold, least significant first. -/
def leNat : List Byte → Nat
  | [] => 0
  | b :: bs => b.toNat + 256 * leNat bs

/-- `n` bytes of a number, most significant first (network order). -/
def beBytes (n v : Nat) : List Byte := (leBytes n v).reverse

/-- The number that bytes hold, most significant first. -/
def beNat (bs : List Byte) : Nat := leNat bs.reverse

/-- Bytes [a, a + n) of a list, zero beyond its end. -/
def sliceB (bs : List Byte) (a n : Nat) : List Byte := (List.range n).map fun i => bs.getD (a + i) 0

/-- Replaces the bytes of a list from `a` on. -/
def patchB (bs : List Byte) (a : Nat) (v : List Byte) : List Byte :=
  bs.take a ++ v ++ bs.drop (a + v.length)

/-- Little-endian number of `n` bytes at offset `a`. -/
def fieldLE (bs : List Byte) (a n : Nat) : Nat := leNat (sliceB bs a n)

/-- Big-endian number of `n` bytes at offset `a`. -/
def fieldBE (bs : List Byte) (a n : Nat) : Nat := beNat (sliceB bs a n)

def zerosB (n : Nat) : List Byte := List.replicate n 0

/-- Replaces bits [hi:lo] of a word. -/
def putBits (w : Word) (hi lo v : Nat) : Word :=
  let m : Word := BitVec.ofNat 64 (2 ^ (hi + 1) - 2 ^ lo)
  (w &&& ~~~m) ||| (BitVec.ofNat 64 (v * 2 ^ lo) &&& m)

/-- `v` read as an `n`-bit two's-complement value. -/
def signedOf (n v : Nat) : Int := if v % 2 ^ n < 2 ^ (n - 1) then ((v % 2 ^ n : Nat) : Int) else ((v % 2 ^ n : Nat) : Int) - 2 ^ n

/-- An integer reduced modulo 2^n. -/
def unsignedOf (n : Nat) (i : Int) : Nat := (i % (2 ^ n : Int)).toNat

-- sparse data

/-- Changes every listed entry, keeping the canonical form. -/
def SMap.change {β : Type} [DecidableEq β] (d : Nat → β) (f : Nat → β → β) (m : SMap β) : SMap β :=
  (m.map fun p => (p.1, f p.1 p.2)).filter fun p => decide (p.2 ≠ d p.1)

-- the halves and the set-up registers

/-- The half named. -/
def State.half (s : State) : HalfId → Half
  | .east => s.east
  | .west => s.west

/-- Replaces a half. -/
def State.setHalf (s : State) (h : HalfId) (x : Half) : State :=
  match h with
  | .east => { s with east := x }
  | .west => { s with west := x }

/-- Changes a half. -/
def State.upd (s : State) (h : HalfId) (f : Half → Half) : State := s.setHalf h (f (s.half h))

/-- The half that decodes a block: blocks 0x0F, 0x10 and 0x13 are single instances on East (R31). -/
def regHome (h : HalfId) (blk : Nat) : HalfId :=
  if blk = 0x0F ∨ blk = 0x10 ∨ blk = 0x13 then .east else h

/-- The stored word of a set-up register. -/
def State.reg (s : State) (h : HalfId) (blk off : Nat) : Word :=
  SMap.get (regReset (regHome h blk)) (s.half (regHome h blk)).regs (blk * 0x10000 + off)

/-- Stores the word of a set-up register. -/
def State.setReg (s : State) (h : HalfId) (blk off : Nat) (w : Word) : State :=
  s.upd (regHome h blk) fun x =>
    { x with regs := SMap.set (regReset (regHome h blk)) x.regs (blk * 0x10000 + off) w }

/-- A field of a set-up register. -/
def State.fld (s : State) (h : HalfId) (f : Fld) : Nat := nbits (s.reg h f.blk f.off).toNat f.hi f.lo

/-- A one-bit field of a set-up register. -/
def State.flag (s : State) (h : HalfId) (f : Fld) : Bool := s.fld h f != 0

/-- Stores a field of a set-up register. -/
def State.setFld (s : State) (h : HalfId) (f : Fld) (v : Nat) : State :=
  s.setReg h f.blk f.off (putBits (s.reg h f.blk f.off) f.hi f.lo v)

/-- Adds to a saturating counter field. -/
def State.addFld (s : State) (h : HalfId) (f : Fld) (n : Nat) : State :=
  s.setFld h f (min (s.fld h f + n) (2 ^ (f.hi + 1 - f.lo) - 1))

/-- Counts one in a saturating counter field. -/
def State.incFld (s : State) (h : HalfId) (f : Fld) : State := s.addFld h f 1

/-- Sets bit i of a field. -/
def State.setBit (s : State) (h : HalfId) (f : Fld) (i : Nat) : State := s.setFld h f (s.fld h f ||| 2 ^ i)

/-- Clears bit i of a field. -/
def State.clearBit (s : State) (h : HalfId) (f : Fld) (i : Nat) : State :=
  if (s.fld h f).testBit i then s.setFld h f (s.fld h f - 2 ^ i) else s

/-- The block whose ERR_WR bit records a refusal in `blk` (R30). -/
def errBlk (blk : Nat) : Nat := if blk ≤ 0x14 ∨ (0x20 ≤ blk ∧ blk ≤ 0x30) then blk else 0

/-- Sets a block's ERR_WR bit (Table 0.5). -/
def State.errWr (s : State) (h : HalfId) (blk : Nat) : State := s.setFld h ⟨errBlk blk, 0xFFF0, 0, 0⟩ 1

/-- A block's LOCK bit (Table 0.5). -/
def State.locked (s : State) (h : HalfId) (blk : Nat) : Bool := s.flag h ⟨blk, 0xFFF0, 1, 1⟩

/-- Takes the next free value (log entry 12). -/
def State.takeFree (s : State) : Word × State := (Config.free s.freeCount, { s with freeCount := s.freeCount + 1 })

/-- Adds to what the device has put on its pins (log entry 14). -/
def State.emit (s : State) (o : Output) : State := { s with out := s.out ++ [o] }

/-- The cores of a half, by number within it. -/
def State.coreN (s : State) (h : HalfId) (n : Nat) : Core := SMap.get coreDefault (s.half h).cores n

def State.setCoreN (s : State) (h : HalfId) (n : Nat) (c : Core) : State :=
  s.upd h fun x => { x with cores := SMap.set coreDefault x.cores n c }

/-- The core named. -/
def State.core (s : State) (k : CoreId) : Core := s.coreN k.half k.num

def State.setCore (s : State) (k : CoreId) (c : Core) : State := s.setCoreN k.half k.num c

/-- Mode of a half, or of the device (R402). -/
def State.inMode (s : State) (h : HalfId) (m : Mode) : Bool := (s.half h).mode == m

-- the physical map

/-- What a physical address of a half reaches (Table 1.7). `own` tells this half's from the other half's. -/
inductive Place where
  | code (own : Bool) (off : Nat)
  | canopy (own : Bool) (addr : Nat)
  | setup (blk off : Nat)
  | ddr (addr : Nat)
  | host (off : Nat)
  | hole
  deriving DecidableEq, Repr

/-- Decodes a physical address (R27, R28). `addr` of another half's Canopy is the address its own half knows it by. -/
def placeOf (s : State) (h : HalfId) (a : Nat) : Place :=
  if a < 0x10000000 then .code true a
  else if a < 0x20000000 then .code false (a - 0x10000000)
  else if 0x40000000 ≤ a ∧ a < 0x44000000 then .canopy true a
  else if 0x44000000 ≤ a ∧ a < 0x48000000 then .canopy false (a - 0x4000000)
  else if 0x80000000 ≤ a ∧ a < 0x81000000 then .setup ((a - 0x80000000) / 0x10000) ((a - 0x80000000) % 0x10000)
  else if 0x1000000000 ≤ a ∧ a < 0x1000000000 + (s.half h).ddrGib * 0x40000000 ∧ a < 0x200000000000 then .ddr a
  else if 0x200000000000 ≤ a ∧ a < 0x400000000000 then .host (a - 0x200000000000)
  else .hole

/-- The host address of an offset in the host window (R309). -/
def hostAddr (s : State) (h : HalfId) (off : Nat) : Nat := s.fld h Reg.HIF_HWIN_BASE * 2 ^ 45 + off

-- memory cells

/-- `n` bytes of sparse memory from address `a`. -/
def readCells (m : List Host.Cell) (a : Nat) : Nat → List Byte
  | 0 => []
  | n + 1 => SMap.get memDefault m a :: readCells m (a + 1) n

/-- Writes bytes from address `a` on. -/
def writeCells (m : List Host.Cell) (a : Nat) : List Byte → List Host.Cell
  | [] => m
  | b :: bs => writeCells (SMap.set memDefault m a b) (a + 1) bs

/-- The granules (address / 16) that bytes [a, a + n) touch. -/
def granulesOf (a n : Nat) : List Nat := if n = 0 then [] else (List.range ((a + n - 1) / 16 - a / 16 + 1)).map (a / 16 + ·)

/-- Whether granule g lies in DDR. -/
def isDdrGranule (g : Nat) : Bool := 0x100000000 ≤ g

/-- Whether an L2 holds the granule, or a Canopy bank does: it is then marked and merged by granule; else its DDR line is (R171,
R172). -/
def inSram (m : Mem) (g : Nat) : Bool := !isDdrGranule g || m.held.contains (g / 4)

/-- The four granules of a line. -/
def lineGranules (l : Nat) : List Nat := [4 * l, 4 * l + 1, 4 * l + 2, 4 * l + 3]

/-- Whether a read of a granule finds it poisoned where it stands (R171). -/
def granulePoisoned (m : Mem) (g : Nat) : Bool :=
  if inSram m g then m.poison.contains g else m.lineP.contains (g / 4)

/-- DDR channel of an address (R168). -/
def ddrChannel (a : Nat) : Nat := ((a - 0x1000000000) / 256) % 4

/-- Canopy bank of an address (R168). -/
def canopyBank (a : Nat) : Nat := (a / 64) % 32

/-- Region and index of the store that holds an address (Table 17.9). -/
def memRegion (a : Nat) : Nat × Nat := if isDdrGranule (a / 16) then (3, ddrChannel a) else (2, canopyBank a)

/-- What a write does to one granule's mark (Table 8.2), and which report it makes. -/
inductive Merge where
  | quiet | corrected | poisonedMerge | alreadyPoisoned
  deriving DecidableEq, Repr

/-- Table 8.2 for one granule: `full` = the write covers all of it. -/
def mergeGranule (m : Mem) (g : Nat) (full : Bool) : Mem × Merge :=
  let m0 := { m with tags := m.tags.del g }
  if full then ({ m0 with poison := m.poison.del g, ce := m.ce.del g, ue := m.ue.del g }, .quiet)
  else if m.ue.contains g then
    ({ m0 with poison := m.poison.add g, ue := m.ue.del g, ce := m.ce.del g }, .poisonedMerge)
  else if m.poison.contains g then ({ m0 with ce := m.ce.del g }, .alreadyPoisoned)
  else if m.ce.contains g then ({ m0 with ce := m.ce.del g }, .corrected)
  else (m0, .quiet)

/-- Splits [a, a + n) at 64-byte lines (R138, R187); `f` bounds the number of parts. -/
def lineParts : Nat → Nat → Nat → List (Nat × Nat)
  | 0, _, _ => []
  | f + 1, a, n =>
    if n = 0 then [] else
    let k := min n (64 - a % 64)
    (a, k) :: lineParts f (a + k) (n - k)

/-- The parts of an access. -/
def partsOf (a n : Nat) : List (Nat × Nat) := lineParts (n / 64 + 2) a n

/-- Whether bytes [a, a + n) cover granule g whole. -/
def coversGranule (a n g : Nat) : Bool := a ≤ g * 16 && g * 16 + 16 ≤ a + n

/-- Writes data bytes into a half's memory: every granule touched loses its tag (R46) and merges by Table 8.2. -/
def Mem.put (m : Mem) (a : Nat) (bs : List Byte) : Mem × List (Nat × Merge) :=
  let r := (granulesOf a bs.length).foldl
    (fun (acc : Mem × List (Nat × Merge)) g =>
      let x := mergeGranule acc.1 g (coversGranule a bs.length g)
      (x.1, acc.2 ++ [(g, x.2)])) (m, [])
  ({ r.1 with cells := writeCells m.cells a bs }, r.2)

/-- The read-modify-write of one DDR line by a write of bytes [a, a + n) in it (R170–R172): a whole line leaves it clean; a
narrower write meets the line's own marks, with a report per granule that it covers in part, or one for the line. -/
def mergeLine (m : Mem) (a n : Nat) : Mem × List (Nat × Merge) :=
  let l := a / 64
  let part := (granulesOf a n).filter fun g => !coversGranule a n g
  let m0 := { m with tags := (granulesOf a n).foldl NatSet.del m.tags, lineCe := m.lineCe.del l, lineUe := m.lineUe.del l }
  if n = 64 then ({ m0 with lineP := m.lineP.del l }, [])
  else if m.lineUe.contains l then ({ m0 with lineP := m.lineP.add l }, part.map fun g => (g, .poisonedMerge))
  else if m.lineP.contains l then (m0, (part.take 1).map fun g => (g, .alreadyPoisoned))
  else if m.lineCe.contains l then (m0, (part.take 1).map fun g => (g, .corrected))
  else (m0, [])

/-- Writes data bytes within one line of DDR that no L2 holds. -/
def Mem.putLine (m : Mem) (a : Nat) (bs : List Byte) : Mem × List (Nat × Merge) :=
  let r := mergeLine m a bs.length
  ({ r.1 with cells := writeCells m.cells a bs }, r.2)

/-- A DDR line enters an L2: all four granules poisoned where the line has poison 1 (R171). -/
def Mem.fill (m : Mem) (l : Nat) : Mem :=
  if m.held.contains l then m
  else { m with held := m.held.add l, poison := if m.lineP.contains l then (lineGranules l).foldl NatSet.add m.poison else m.poison }

/-- A DDR line leaves the L2 that holds it: it is written back, changed there or not (log entry 133), with poison 1 where any of its granules
is poisoned (R171), and no error older than the write is left in it (Table 8.2). -/
def Mem.writeBack (m : Mem) (l : Nat) : Mem :=
  { m with
    held := m.held.del l, poison := (lineGranules l).foldl NatSet.del m.poison, lineCe := m.lineCe.del l, lineUe := m.lineUe.del l
    lineP := if (lineGranules l).any m.poison.contains then m.lineP.add l else m.lineP.del l }

-- attention and notices

/-- The highest pending attention value (R322); 15 in Safe. -/
def attnValue (s : State) (h : HalfId) : Nat :=
  if (s.half h).mode = .safe then 15
  else ((List.range 7).filter fun v => (s.fld h Reg.HIF_ATTN_PEND).testBit v).getLast?.getD 0

/-- Raises an attention cause: a cause newly pending also makes one notice record for ring 0 (R322, R324, Table 15.8). -/
def raiseAttn (s : State) (h : HalfId) (v : Nat) : State :=
  let s := s.upd h fun x => { x with hif := { x.hif with
    inflight := x.hif.inflight.map fun e => { e with again := e.again ||| 2 ^ v } } }
  if (s.fld h Reg.HIF_ATTN_PEND).testBit v then s else
  let s := s.setBit h Reg.HIF_ATTN_PEND v
  let rec_ := leBytes 8 0 ++ leBytes 8 s.timebase.toNat ++ leBytes 4 (s.fld h Reg.HIF_ATTN_PEND ||| if (s.half h).mode = .safe then 0x8000 else 0) ++ leBytes 4 0 ++
    leBytes 4 0 ++ leBytes 2 (v * 0x1000) ++ [0x43, 0]
  s.upd h fun x => { x with hif := { x.hif with waiting := x.hif.waiting ++ [⟨0, rec_, none, none, false⟩] } }

/-- Raises a cause on both functions. -/
def raiseAttnBoth (s : State) (v : Nat) : State := raiseAttn (raiseAttn s .east v) .west v

/-- Counts in an HIF_CNT field, which raises attention 2 (R324). -/
def hifCount (s : State) (h : HalfId) (f : Fld) : State := raiseAttn (s.incFld h f) h 2

-- the boundary table

/-- What an access asks for (R187). -/
inductive AccKind where
  | read | fetch | write | atomic
  deriving DecidableEq, Repr

/-- What the boundary table decides of one access (R187). -/
inductive Verdict where
  | allow
  | refuse (detail : Nat) (overlap : Bool)
  | drop
  | hold (group : Nat)
  deriving DecidableEq, Repr

/-- The grove whose cores or walker issue under a master identity (Table 9.1). -/
def groveOfMid (mid : Nat) : Option Nat :=
  if mid < 51 then some (mid / 3) else if 0x33 ≤ mid ∧ mid < 0x44 then some (mid - 0x33) else none

/-- The master class of a master identity: 63 while its grove is fenced (R182, R192). -/
def classOf (s : State) (h : HalfId) (mid : Nat) : Nat :=
  match groveOfMid mid with
  | some g => if (s.fld h Reg.BND_FENCE_FENCE).testBit g then 63
              else nbits (s.reg h 3 (0x100 + 8 * (mid / 8))).toNat (8 * (mid % 8) + 5) (8 * (mid % 8))
  | none => nbits (s.reg h 3 (0x100 + 8 * (mid / 8))).toNat (8 * (mid % 8) + 5) (8 * (mid % 8))

/-- A region entry as its three registers hold it (R185). -/
structure Entry where
  num : Nat
  ctl : Word
  rd : Word
  wr : Word
  deriving DecidableEq, Repr

def Entry.lo (e : Entry) : Nat := nbits e.ctl.toNat 45 12 * 0x1000
def Entry.hi (e : Entry) : Nat := e.lo + (nbits e.ctl.toNat 55 52 + 1) * 2 ^ nbits e.ctl.toNat 51 46
def Entry.grp (e : Entry) : Nat := nbits e.ctl.toNat 59 56
def Entry.lock (e : Entry) : Bool := e.ctl.toNat.testBit 62
def Entry.contains (e : Entry) (a n : Nat) : Bool := e.lo ≤ a && a + n ≤ e.hi

/-- Entry n of a half. -/
def entryOf (s : State) (h : HalfId) (n : Nat) : Entry :=
  ⟨n, s.reg h 3 (0x1000 + 0x20 * n), s.reg h 3 (0x1008 + 0x20 * n), s.reg h 3 (0x1010 + 0x20 * n)⟩

/-- The valid entries: V is 0 at reset, so every valid entry's CTL is listed among the registers that hold another value
than at reset. -/
def validEntries (s : State) (h : HalfId) : List Entry :=
  (s.half h).regs.filterMap fun (k, w) =>
    if 0x31000 ≤ k ∧ k < 0x33000 ∧ k % 0x20 = 0 ∧ w.toNat.testBit 63 then some (entryOf s h ((k - 0x31000) / 0x20)) else none

/-- The rights the default map gives a privileged class (Table 9.4): whether the place may be written. -/
def defaultWritable (p : Place) : Bool :=
  match p with
  | .canopy _ _ | .ddr _ | .host _ => true
  | .setup blk _ => (1 ≤ blk && blk ≤ 0x14) || (0x20 ≤ blk && blk ≤ 0x30)
  | .code _ _ | .hole => false

/-- Whether a set-up access has a size that R8 allows; the post windows take 1, 2, 4, 8 and 16 (R321). -/
def setupSizeOk (blk off n : Nat) : Bool :=
  if blk == 5 && 0x4000 ≤ off && off < 0x4800 then (n == 1 || n == 2 || n == 4 || n == 8 || n == 16) && off % n == 0
  else (n == 4 || n == 8) && off % n == 0

/-- The check of R187 for a part [a, a + n) under a class; `core` = the core that asks, where one does: the cores of a grove share an
identity, and a hold that expired was one core's (R191). -/
def checkClass (s : State) (h : HalfId) (cls mid : Nat) (kind : AccKind) (a n : Nat) (core : Option Nat := none) : Verdict :=
  let p := placeOf s h a
  let bad : Option Nat :=
    match p with
    | .hole => some 1
    | .code _ _ => if kind = .write then some 0 else none
    | .setup blk off => if setupSizeOk blk off n then none else some 3
    | _ => none
  if cls = 63 then .drop
  else match bad with
  | some d => .refuse d false
  | none =>
    if (s.half h).bnd.held.any (fun x => x.expired && x.mid == mid && x.addr == a && x.core == core) then .refuse 0 false else
    let es := validEntries s h
    let gdis := s.fld h Reg.BND_GDIS_GDIS
    let caps := ((s.half h).bnd.captures.filter fun c => gdis.testBit c.group && c.lo ≤ a && a + n ≤ c.hi).map (·.group)
    let cur := (es.filter fun e => gdis.testBit e.grp && !e.lock && e.contains a n).map Entry.grp
    match caps ++ cur with
    | g :: _ => .hold g
    | [] =>
      let ms := es.filter fun e => e.contains a n
      let unsupported := kind == .atomic && (match p with | .host _ | .setup _ _ | .code _ _ => true | _ => false)
      match ms with
      | [] =>
        if (s.fld h Reg.BND_PRIV_PRIV).testBit cls && (kind == .read || kind == .fetch || defaultWritable p) then
          (if unsupported then .refuse 4 false else .allow)
        else .refuse 0 false
      | _ :: rest =>
        if s.flag h Reg.BND_CTRL_STRICT && !rest.isEmpty then .refuse 0 true
        else
          let rdOk := ms.all fun e => e.rd.toNat.testBit cls
          let wrOk := ms.all fun e => e.wr.toNat.testBit cls
          let ok := match kind with
            | .read | .fetch => rdOk
            | .write => wrOk
            | .atomic => rdOk && wrOk
          if ok then (if unsupported then .refuse 4 false else .allow) else .refuse 0 false

/-- The check of R187 for a master. -/
def check (s : State) (h : HalfId) (mid : Nat) (kind : AccKind) (a n : Nat) (core : Option Nat := none) : Verdict :=
  checkClass s h (classOf s h mid) mid kind a n core

/-- Notes that an access waits for its group (R191). -/
def noteHeld (s : State) (h : HalfId) (g mid a : Nat) (core : Option Nat) : State :=
  let s := s.setBit h Reg.BND_GSTAT_HELD g
  s.upd h fun x =>
    { x with bnd := { x.bnd with
        held := if x.bnd.held.any (fun y => y.mid == mid && y.addr == a && y.core == core) then x.bnd.held
                else x.bnd.held ++ [⟨g, mid, a, core, s.elapsed, false⟩]
        holds := x.bnd.holds + 1 } }

/-- Notes a held write whose master does not wait for it: it joins the writes that are still to be performed (log entry 97). -/
def notePosted (s : State) (h : HalfId) (g mid a : Nat) (bs : List Byte) : State :=
  (noteHeld s h g mid a none).upd h fun x => { x with bnd := { x.bnd with
    posted := x.bnd.posted ++ [(mid, a, bs)], holds := (s.half h).bnd.holds } }

-- error records

/-- The fields of an error record that its cause sets (Table 17.5). -/
structure ErrRec where
  code : Nat
  region : Nat := 0xFF
  index : Nat := 0xFF
  outcome : Nat := 5
  mid : Nat := 0x7F
  status : Nat := 0
  thread : Option Nat := none
  stepseq : Nat := 0
  address : Nat := 0
  syndrome : Nat := 0
  aux : Nat := 0
  deriving DecidableEq, Repr

/-- The 64 bytes of an error record (Table 17.5) with PHASE 0. -/
def ErrRec.bytes (s : State) (h : HalfId) (r : ErrRec) : List Byte :=
  leBytes 8 s.timebase.toNat ++ leBytes 4 (s.half h).flt.seq ++
  [BitVec.ofNat 8 r.code, BitVec.ofNat 8 r.region, BitVec.ofNat 8 r.index, BitVec.ofNat 8 r.outcome] ++
  leBytes 2 r.mid ++ leBytes 2 r.status ++
  leBytes 4 (match r.thread with | some t => t % 0x20000 + 0x80000000 | none => 0) ++ leBytes 4 r.stepseq ++
  leBytes 2 (s.fld h Reg.PWR_STAT_VDD_MV) ++ leBytes 2 (s.fld h Reg.PWR_STAT_TJ) ++
  leBytes 8 r.address ++ leBytes 8 r.syndrome ++ leBytes 8 r.aux ++ zerosB 8

/-- What becomes of a write of the fault manager to its log: done, held for a disabled group (R191), or refused, with whether
it was an overlap in strict mode (R188). -/
inductive LogPut where
  | done | held | refused (overlap : Bool)
  deriving DecidableEq, Repr

/-- Writes a 64-byte line at the home of a physical address; a write of the whole line needs no report (Table 8.2). -/
def putWhole (m : Mem) (b : Nat) (bs : List Byte) : Mem :=
  if inSram m (b / 16) then (m.put b bs).1 else (m.putLine b bs).1

/-- Stores a record at a physical address of the fault manager's half, where the boundary table lets the fault manager (MID
0x4E) write; a held write joins the writes not performed yet. -/
def putLog (s : State) (h : HalfId) (a : Nat) (bs : List Byte) : State × LogPut :=
  match check s h 0x4E .write a bs.length, placeOf s h a with
  | .allow, .canopy true b | .allow, .ddr b => (s.upd h fun x => { x with mem := putWhole x.mem b bs }, .done)
  | .hold g, _ => (notePosted s h g 0x4E a bs, .held)
  | .refuse 3 o, .setup blk _ => (s.errWr h blk, .refused o)
  | .refuse _ o, _ => (s, .refused o)
  | _, _ => (s, .refused false)

/-- Advances the device log's indices for one more record, dropping the oldest when it is full (R377). -/
def advanceLog (s : State) (h : HalfId) : State :=
  let prod := s.fld h Reg.FLT_LIDX_PROD
  let cons := s.fld h Reg.FLT_LIDX_CONS
  let size := 2 ^ s.fld h Reg.FLT_LOG_LOG2
  let s := s.setFld h Reg.FLT_LIDX_PROD ((prod + 1) % 0x10000)
  if (prod + 0x10000 - cons) % 0x10000 = size - 1 then
    (s.setFld h Reg.FLT_LIDX_CONS ((cons + 1) % 0x10000)).incFld h Reg.FLT_LIDX_LOST
  else s

/-- PHASE of index i in a ring of 2^log2 entries (R312). -/
def phaseOf (log2 i : Nat) : Nat := 1 - (i / 2 ^ log2) % 2

/-- Writes a record to the device log, and to the host log when that is enabled, raises attention 3, and informs the latch holder's Warden,
where there is a holder (R377). -/
def recordOnce (s : State) (h : HalfId) (r : ErrRec) : State × LogPut :=
  let bs := r.bytes s h
  let slot := s.fld h Reg.FLT_LIDX_PROD % 2 ^ s.fld h Reg.FLT_LOG_LOG2
  let w := putLog s h (s.fld h Reg.FLT_LOG_BASE * 0x1000 + 64 * slot) bs
  let s := advanceLog w.1 h
  let s := s.upd h fun x => { x with flt := { x.flt with
    seq := (x.flt.seq + 1) % 2 ^ 32, told := if s.latch.isSome then some x.flt.seq else x.flt.told } }
  let s := raiseAttnBoth s 3
  let s :=
    if s.flag h Reg.FLT_HLOG_EN then
      let log2 := s.fld h Reg.FLT_HLOG_LOG2
      let j := (s.half h).flt.hostIndex
      let a := s.fld h Reg.FLT_HLOG_BASE * 0x1000 + 64 * (j % 2 ^ log2)
      let s := { s with host := writeCells s.host a (bs.take 63 ++ [BitVec.ofNat 8 (phaseOf log2 j * 128)]) }
      s.upd h fun x => { x with flt := { x.flt with hostIndex := j + 1 } }
    else s
  (s, w.2)

/-- The milliseconds of elapsed time, by which R376 and R368 limit records. -/
def State.ms (s : State) : Nat := s.elapsed / 1000000

/-- Region of a master (Table 17.9). -/
def midRegion (h : HalfId) (mid : Nat) : Nat × Nat :=
  match groveOfMid mid with
  | some g => (0, g)
  | none =>
    if mid = 0x44 then (1, h.num)
    else if 0x46 ≤ mid ∧ mid ≤ 0x49 then (5, 0)
    else if mid = 0x4A ∨ mid = 0x4B then (6, 0)
    else if mid = 0x4C then (7, 0)
    else (0xFF, 0xFF)

/-- Counts a refusal, and an overlap in strict mode (R188, R189). -/
def countRefusal (s : State) (h : HalfId) (overlap : Bool) : State :=
  let s := s.incFld h Reg.BND_CNT_REFUSED
  if overlap then s.incFld h Reg.BND_STAT_OVERLAPS else s

/-- Writes an error record (R375–R377). Where the boundary table refuses the log write of the fault manager itself, that
refusal is counted and, once a millisecond, makes a record of its own (R189, R376), whose own log write is counted as well
where it is refused. -/
def record (s : State) (h : HalfId) (r : ErrRec) : State :=
  let w := recordOnce s h r
  match w.2 with
  | .done | .held => w.1
  | .refused o =>
    let s := countRefusal w.1 h o
    if SMap.get (fun _ => 0) (s.half h).flt.lastRefused 0x4E = s.ms + 1 then s else
    let s := s.upd h fun x => { x with flt := { x.flt with lastRefused := SMap.set (fun _ => 0) x.flt.lastRefused 0x4E (s.ms + 1) } }
    let v := recordOnce s h { code := 0x50, mid := 0x4E, address := s.fld h Reg.FLT_LOG_BASE * 0x1000 }
    match v.2 with
    | .done | .held => v.1
    | .refused o => countRefusal v.1 h o

/-- Counts and logs a refusal (R189) with the region given: masters other than cores get a record, at most one per ms
(R376). -/
def noteRefusalAt (s : State) (h : HalfId) (mid a : Nat) (overlap : Bool) (reg : Nat × Nat) (core : Option Nat := none) : State :=
  let s := countRefusal s h overlap
  let s := s.upd h fun x => { x with bnd := { x.bnd with
    held := x.bnd.held.filter fun y => !(y.expired && y.mid == mid && y.addr == a && y.core == core) } }
  if mid < 51 then s
  else if SMap.get (fun _ => 0) (s.half h).flt.lastRefused mid = s.ms + 1 then s
  else
    let s := s.upd h fun x =>
      { x with flt := { x.flt with lastRefused := SMap.set (fun _ => 0) x.flt.lastRefused mid (s.ms + 1) } }
    record s h { code := 0x50, region := reg.1, index := reg.2, mid, address := a }

/-- Counts and logs a refusal with the region of its master (Table 17.9). -/
def noteRefusal (s : State) (h : HalfId) (mid a : Nat) (overlap : Bool) (core : Option Nat := none) : State :=
  noteRefusalAt s h mid a overlap (midRegion h mid) core

/-- Counts and logs a dropped access of a fenced grove (R192, R368). -/
def noteFenced (s : State) (h : HalfId) (mid a : Nat) : State :=
  let s := s.incFld h Reg.BND_CNT_FENCED_DROP
  match groveOfMid mid with
  | none => s
  | some g =>
    if SMap.get (fun _ => 0) (s.half h).flt.lastFenced g = s.ms + 1 then s
    else
      let s := s.upd h fun x =>
        { x with flt := { x.flt with lastFenced := SMap.set (fun _ => 0) x.flt.lastFenced g (s.ms + 1) } }
      record s h { code := 0x30, region := 0, index := g, mid, address := a }

-- completions

/-- Status words (R322, Table 15.9): class and detail; the engine fills ATTN in when it writes the record. -/
def statusOf (cls detail : Nat) : Nat := cls * 256 + detail

end Sys2Proof.Machine
end

