-- ==== Sys2Proof/Machine/Caps.lean ====
section
/-! DEFINITION. Capabilities: fields (R32), bounds (R34–R36), permissions (R37), derivation (R39) and what a
capability becomes when it leaves a half or arrives at one (R48, R49). -/

namespace Sys2Proof

-- fields (Table 2.1)

def TCap.fld (c : TCap) (hi lo : Nat) : Nat := nbits c.bits.toNat hi lo
def TCap.perms (c : TCap) : Nat := c.fld 127 116
def TCap.otype (c : TCap) : Nat := c.fld 115 104
def TCap.epoch (c : TCap) : Nat := c.fld 103 100
def TCap.mode (c : TCap) : Bool := c.bits.toNat.testBit 98
def TCap.exp (c : TCap) : Nat := c.fld 97 92
def TCap.fieldB (c : TCap) : Nat := c.fld 91 78
def TCap.fieldT (c : TCap) : Nat := c.fld 77 64
def TCap.node (c : TCap) : Nat := c.fld 63 55
def TCap.cursor (c : TCap) : Nat := c.fld 54 0

/-- Replaces bits [hi:lo] of a capability's 128 bits; the tag stands. -/
def TCap.put (c : TCap) (hi lo v : Nat) : TCap :=
  let m : Word128 := BitVec.ofNat 128 (2 ^ (hi + 1) - 2 ^ lo)
  ⟨(c.bits &&& ~~~m) ||| (BitVec.ofNat 128 (v * 2 ^ lo) &&& m), c.tag⟩

def TCap.clearTag (c : TCap) : TCap := ⟨c.bits, false⟩

/-- Permission bit (Table 2.2), by its place in the word. -/
def TCap.has (c : TCap) (bit : Nat) : Bool := c.bits.toNat.testBit bit

abbrev permLD : Nat := 127
abbrev permST : Nat := 126
abbrev permEX : Nat := 125
abbrev permLC : Nat := 124
abbrev permSC : Nat := 123
abbrev permSL : Nat := 122
abbrev permGL : Nat := 121
abbrev permSE : Nat := 120
abbrev permUS : Nat := 119
abbrev permSY : Nat := 118
abbrev permFB : Nat := 117

/-- Sealed: OTYPE ≠ 0 with tag 1 (R39). -/
def TCap.sealed (c : TCap) : Bool := c.tag && c.otype != 0

-- bounds

/-- The base that R34 decodes from a cursor, for E in 0–41. -/
def baseAt (cursor e b : Nat) : Int :=
  let unit : Int := ((cursor / 2 ^ e : Nat) : Int)
  let lead : Int := (unit - b + 1024) % 16384
  (unit - lead + 1024) * 2 ^ e

/-- Base and top (R34). -/
def TCap.bounds (c : TCap) : Int × Int :=
  if c.exp = 63 then (0, 2 ^ 55)
  else
    let b := baseAt c.cursor c.exp c.fieldB
    (b, b + (c.fieldT : Int) * 2 ^ c.exp)

def TCap.base (c : TCap) : Int := c.bounds.1
def TCap.top (c : TCap) : Int := c.bounds.2

/-- Whether a cursor is representable with a capability's bounds (R35). -/
def TCap.representable (c : TCap) (cur : Int) : Bool :=
  if c.exp = 63 then true
  else decide (c.base - 1024 * 2 ^ c.exp ≤ cur) && decide (cur < c.base + 15360 * 2 ^ c.exp) &&
    decide (0 ≤ cur) && decide (cur < 2 ^ 55)

/-- Moves the cursor: the tag clears where the new cursor is not representable (R35, CSTEP and CPLACE of Table 2.3). With E = 63 every
cursor is representable; what a value outside the 55-bit field gives is not stated: the model keeps its low 55 bits and clears the
tag (log entry 106). -/
def TCap.moveTo (c : TCap) (cur : Int) : TCap :=
  let d := c.put 54 0 (Machine.unsignedOf 55 cur)
  if c.tag && c.representable cur && (decide (0 ≤ cur) && decide (cur < 2 ^ 55)) then d else d.clearTag

/-- CSTEP's move by a signed offset. -/
def TCap.step (c : TCap) (off : Int) : TCap := c.moveTo ((c.cursor : Int) + off)

/-- The smallest exponent from `e` on that encodes [b, b + l) (R36), among `n` candidates. -/
def fitExp (b l : Nat) : Nat → Nat → Option Nat
  | _, 0 => none
  | e, n + 1 =>
    let b' := b / 2 ^ e * 2 ^ e
    let t' := (b + l + 2 ^ e - 1) / 2 ^ e * 2 ^ e
    if t' - b' ≤ 14336 * 2 ^ e then some e else fitExp b l (e + 1) n

/-- What R36 makes of a request: exponent, rounded base, rounded top. -/
structure Fit where
  e : Nat
  base : Nat
  top : Nat
  deriving DecidableEq, Repr

/-- Encodes a requested range [b, b + l) (R36). -/
def fitRange (b l : Nat) : Option Fit :=
  match fitExp b l 0 42 with
  | some e => some ⟨e, b / 2 ^ e * 2 ^ e, (b + l + 2 ^ e - 1) / 2 ^ e * 2 ^ e⟩
  | none => if b = 0 ∧ l = 2 ^ 55 then some ⟨63, 0, 2 ^ 55⟩ else none

/-- Installs fitted bounds with the cursor at the rounded base. -/
def TCap.withFit (c : TCap) (f : Fit) : TCap :=
  let c := c.put 97 92 f.e
  let c := if f.e = 63 then (c.put 91 78 0).put 77 64 0
           else (c.put 91 78 ((f.base / 2 ^ f.e) % 16384)).put 77 64 ((f.top - f.base) / 2 ^ f.e)
  c.put 54 0 f.base

/-- Whether a field-read instruction takes an untagged value's bounds as 0 (Table 2.3, last row). -/
def TCap.malformed (c : TCap) : Bool :=
  !c.tag && ((41 < c.exp && c.exp != 63) || (c.exp ≤ 41 && 14336 < c.fieldT) || c.bits.toNat.testBit 99 || c.node == 510)

/-- Base and top as the field-read instructions give them. -/
def TCap.readBounds (c : TCap) : Int × Int := if c.malformed then (0, 0) else c.bounds

/-- The conditions every tagged capability meets (R32). -/
def TCap.wellFormed (c : TCap) : Bool :=
  !c.bits.toNat.testBit 99 && ((c.exp ≤ 41 && c.fieldT ≤ 14336) || (c.exp == 63 && c.fieldB == 0 && c.fieldT == 0)) &&
    c.node != 510

/-- A capability over [b, b + l) with the permissions given, cursor at its base; bounds rounded by R36. -/
def mkCap (permMask b l : Nat) : TCap :=
  match fitRange b l with
  | some f => (((⟨0, true⟩ : TCap).put 127 116 permMask).put 63 55 511).withFit f
  | none => TCap.null

/-- PERMS field (12 bits, LD highest) of the permissions listed by bit number. -/
def permMask (ps : List Nat) : Nat := ps.foldl (fun a p => a ||| 2 ^ (p - 116)) 0

-- bytes

/-- The 16 bytes a capability is stored as (R32). -/
def TCap.bytes (c : TCap) : List Byte := Machine.leBytes 16 c.bits.toNat

/-- The capability that 16 bytes and a tag make. -/
def capOf (bs : List Byte) (tag : Bool) : TCap := ⟨BitVec.ofNat 128 (Machine.leNat bs), tag⟩

end Sys2Proof

namespace Sys2Proof.Machine

-- leaving and arriving (R48)

/-- The sender's own number and epoch in the fabric (BOM_ID). -/
def ownNode (s : State) (h : HalfId) : Nat := s.fld h Reg.BOM_ID_NODE
def ownEpoch (s : State) (h : HalfId) : Nat := s.fld h Reg.BOM_ID_EPOCH

/-- The copy of a capability that leaves half h (R48, sending rules). -/
def leaveHalf (s : State) (h : HalfId) (c : TCap) : TCap :=
  if !c.tag then c
  else
    let d := if c.node = 511 then (c.put 63 55 (ownNode s h)).put 103 100 (ownEpoch s h) else c
    if !c.has permGL || !c.has permFB then d.clearTag else d

/-- The copy that arrives at half h (R48, arrival rules); `trusted` = the sender lies in the trust mask. -/
def arriveHalf (s : State) (h : HalfId) (trusted : Bool) (c : TCap) : TCap :=
  if !c.tag then c
  else if !trusted || c.node = 510 then c.clearTag
  else if c.node = ownNode s h then
    (if c.epoch = ownEpoch s h then (c.put 63 55 511).put 103 100 0 else c.clearTag)
  else c

/-- A granule that crosses the seam from one half to the other (R49). -/
def crossSeam (s : State) (src : HalfId) (c : TCap) : TCap :=
  if c.tag && c.node = 511 && ownNode s src = 511 then c.clearTag
  else arriveHalf s src.other true (leaveHalf s src c)

end Sys2Proof.Machine
end

