-- ==== Sys2Proof/Machine/RegRead.lean ====
section
/-! DEFINITION. What the set-up registers read as (R8–R10 and the register maps of Table 1.8): the words as stored, with the
fields that show a unit's state. -/

namespace Sys2Proof.Machine

-- what the units hold

/-- The decoded life-cycle state (Table 18.5). -/
def lcState (s : State) : Nat := s.fld .east Reg.LCS_STATE_STATE

/-- Whether debug and fault injection are open: BLANK, TEST and RETURNED (Table 18.10). -/
def lcOpen (s : State) : Bool := lcState s == 0 || lcState s == 1 || lcState s == 4

/-- The value of a counter. -/
def counterOf (s : State) (c : Nat) : Nat := s.otp.counters.getD c 0

/-- Posts that wait for the ring engine or for ring slots (HIF_STAT.POSTQ). -/
def postsWaiting (s : State) (h : HalfId) : Nat := (s.half h).hif.posts.length + ((s.half h).hif.waiting.filter (·.post)).length

/-- Hot sessions of a half. -/
def hotCount (s : State) (h : HalfId) : Nat := ((s.half h).flm.sessions.filter (·.2.hot)).length

/-- Sessions pinned hot. -/
def pinCount (s : State) (h : HalfId) : Nat := ((s.half h).flm.sessions.filter (·.2.pin)).length

/-- 4 KiB pages of a table. -/
def tablePages (t : MTable) : Nat := t.pages.length

/-- Free pages of the store. -/
def freePages (s : State) (h : HalfId) : Nat :=
  1024 - (((s.half h).mil.tables.filterMap (·.2)).map tablePages).sum

/-- Slots that hold a valid table, not retiring. -/
def validTables (s : State) (h : HalfId) : List Nat :=
  (s.half h).mil.tables.filterMap fun p => match p.2 with | some t => if t.retiring then none else some p.1 | none => none

/-- Arrival times of the messages between the landing buffer and the end of their Scaler jobs. -/
def arrivalsInFlight (s : State) (h : HalfId) : List Nat :=
  let y := s.half h
  y.eth.landing.map (·.time.toNat) ++ y.flm.reasm.map (·.first.time.toNat) ++
  (y.flm.sessions.map fun p => ((p.2.tcb.map fun t => (t.rcv ++ (t.ooo.map (·.2)).flatten).map fun b => b.2.toNat).getD [])).flatten ++
  (y.kln.rxq.map fun r => r.times.map (·.toNat)).flatten ++
  (y.mil.jobs.map fun j => match j with | .parse j => j.data.map fun b => b.2.toNat | .build _ => []).flatten ++
  (y.mil.ctxs.filterMap fun p => if p.2.slot.isSome then some p.2.arrival.toNat else none) ++
  y.scl.jobs.map (·.arrival.toNat) ++ y.scl.outq.filterMap fun o => o.arrival.map (·.toNat)

/-- The watermark, SCL_WMARK (R298). -/
def watermark (s : State) (h : HalfId) : Nat := (arrivalsInFlight s h).foldl min s.timebase.toNat

/-- The cores of a grove that hold a thread: core and thread. -/
def groveThreads (s : State) (h : HalfId) (g : Nat) : List (Nat × Nat) :=
  (List.range 8).filterMap fun c => (s.coreN h (8 * g + c)).thread.map fun t => (8 * g + c, t)

/-- The levels of the GPIO pins (Table 20.12): an output has its bit of OUT, any other the level that the board gives it. -/
def gpioLevels (s : State) : Nat :=
  let dir : BitVec 16 := BitVec.ofNat 16 (s.fld .east Reg.LIO_GPIO_DIR_DIR)
  let out : BitVec 16 := BitVec.ofNat 16 (s.fld .east Reg.LIO_GPIO_OUT_OUT)
  ((out &&& dir) ||| (Config.gpioIn s.elapsed &&& ~~~dir)).toNat

/-- The word that a read of LIO_UDATAn gives: receive byte, its presence, and whether the transmit queue is full. -/
def uartWord (s : State) (n : Nat) : Nat :=
  let q := s.uartRx.getD n []
  (q.headD 0).toNat + b2n (decide (16 ≤ (s.uartTx.getD n []).length)) * 2 ^ 62 + b2n (!q.isEmpty) * 2 ^ 63

/-- A read pops the receive byte, if there is one. -/
def uartPop (s : State) (n : Nat) : State := { s with uartRx := s.uartRx.setIfInBounds n ((s.uartRx.getD n []).drop 1) }

/-- Pops the head timestamp: its first word, with the second latched into TMB_TXTS1; VALID = 0 where there is none (R244). -/
def popStamp (s : State) (h : HalfId) : Word × State :=
  match (s.half h).txts with
  | [] => (0, s.setReg h 0x0B 0x38 0)
  | x :: r => (x.1, (s.upd h fun y => { y with txts := r }).setReg h 0x0B 0x38 x.2)

-- words

/-- Replaces a field of a number. -/
def putField (w : Nat) (f : Fld) (v : Nat) : Nat := (putBits (BitVec.ofNat 64 w) f.hi f.lo v).toNat

/-- Threads in a state. -/
def threadsIn (s : State) (h : HalfId) (t : TState) : Nat := ((s.half h).fmn.threads.filter fun p => p.2.state == t).length

/-- FLT_LATCH: holder and µs of lease left. -/
def latchWord (s : State) : Nat :=
  match s.latch with
  | none => 2
  | some h => h.num + (s.leaseEnd - s.elapsed) / 1000 % 1024 * 2 ^ 16

/-- Occupied secret slots (KLN_STAT.SLOTS). -/
def occupiedSlots (s : State) (h : HalfId) : Nat := ((s.half h).kln.slots.filter (·.2.isSome)).length

/-- Word k of MIL_TVALID. -/
def tvalidWord (s : State) (h : HalfId) (k : Nat) : Nat :=
  ((validTables s h).filter fun n => n / 64 == k).foldl (fun w n => w ||| 2 ^ (n % 64)) 0

/-- Sessions whose buddy binding has V = 1, as Boom may read it and no error stands in it. -/
def boundSessions (s : State) (h : HalfId) : Nat :=
  ((List.range 65536).filter fun n =>
    let a := s.fld h Reg.BOM_MBASE_BASE * 0x100000 + 16 * n
    match check s h 0x4C .read a 16, placeOf s h a with
    | .allow, .canopy true b | .allow, .ddr b =>
      (fieldLE (readCells (s.half h).mem.cells b 2) 0 2).testBit 15 && !granulePoisoned (s.half h).mem (b / 16)
    | _, _ => false).length

/-- TMP_CFG: outside BLANK, TEST and RETURNED every sensor but the mesh reads enabled (R401). -/
def tmpCfgWord (s : State) (w : Nat) : Nat := if lcOpen s then w else w ||| 0x1E

/-- A word of a digest or a serial in OTP. -/
def digestWord (s : State) (k : Nat) : Nat :=
  if k < 6 then fieldLE s.otp.tkey (8 * k) 8
  else if k < 12 then fieldLE s.otp.okey (8 * (k - 6)) 8
  else fieldLE s.otp.odbg (8 * (k - 12)) 8

/-- A register's word with the fields that show a unit's state, from the word `w` as stored. -/
def liveWord (s : State) (h : HalfId) (blk off w : Nat) : Nat :=
  match blk with
  | 0x02 => if off = 0x08 then latchWord s else w
  | 0x04 => if off = 0x28 then threadsIn s h .ready % 2 ^ 18 * 2 ^ 32 + threadsIn s h .aborted % 2 ^ 18 else w
  | 0x05 =>
    if off = 0x30 then w % 0x8000 + (if s.inMode h .safe then 0x8000 else 0)
    else if off = 0x40 then
      putField (putField (putField (putField w Reg.HIF_STAT_DEDUP (s.half h).hif.dedup.length) Reg.HIF_STAT_INFLIGHT
        (s.half h).hif.inflight.length) Reg.HIF_STAT_POSTQ (postsWaiting s h)) Reg.HIF_STAT_PEER_UP
        (b2n (s.half h).hif.peerBdf.isSome)
    else w
  | 0x06 => if off = 0x50 then hotCount s h * 2 ^ 32 + pinCount s h else w
  | 0x08 => if off = 0x28 then putField w Reg.KLN_STAT_SLOTS (occupiedSlots s h) else w
  | 0x09 =>
    if off = 0x28 then freePages s h * 2 ^ 32 + (validTables s h).length
    else if 0x30 ≤ off ∧ off < 0x50 then tvalidWord s h ((off - 0x30) / 8)
    else w
  | 0x0A => if off = 0x50 then watermark s h else w
  | 0x0B => if off = 0 then s.timebase.toNat else w
  | 0x0C => if off = 0x58 then putField w Reg.BOM_STAT_MIRRORED (boundSessions s h) else w
  | 0x0F =>
    if off = 0 then putField w Reg.LCS_STATE_TAMPER_CNT s.otp.tamper.length
    else if 0x20 ≤ off ∧ off < 0xA0 then counterOf s ((off - 0x20) / 8)
    else if off = 0xA8 then s.otp.serial.toNat
    else if 0x100 ≤ off ∧ off < 0x190 then digestWord s ((off - 0x100) / 8)
    else w
  | 0x10 =>
    if off = 0 then tmpCfgWord s w
    else if 0x100 ≤ off ∧ off < 0x140 then fieldLE s.otp.tamper (off - 0x100) 8
    else w
  | 0x13 => if off = 0x10 then gpioLevels s else if off = 0x28 then uartWord s 0 else if off = 0x30 then uartWord s 1 else w
  | 0x14 => if off = 0 then putField w Reg.SEM_STAT_UP (b2n (s.seamUp && !s.inMode h .reset)) else w
  | b =>
    if 0x20 ≤ b ∧ b ≤ 0x30 ∧ off = 0 then putField w ⟨b, 0, 1, 1⟩ (b2n (!(groveThreads s h (b - 0x20)).isEmpty))
    else w

/-- What a register reads as: reserved and write-only fields as 0 (R9, R10), BLKSTAT in every populated block (R11). -/
def regWord (s : State) (h : HalfId) (blk off : Nat) : Nat :=
  if off = 0xFFF0 then (if errBlk blk = blk then (s.reg h blk off).toNat % 4 else 0) else
  match regAt blk off with
  | none => 0
  | some d => liveWord s h blk off (s.reg h blk off).toNat &&& (d.maskOf fun a => a != .wo)

/-- Whether an offset lies in the post windows (R321). -/
def postWindow (blk off : Nat) : Bool := blk == 5 && 0x4000 ≤ off && off < 0x4800

/-- A master's read of n bytes of set-up space that the boundary table has let through: the bytes, and the state after what
the read itself does (R244, R433). -/
def busRead (s : State) (h : HalfId) (_mid blk off n : Nat) (_core : Option Nat) : List Byte × State :=
  if !setupSizeOk blk off n then (zerosB n, s.errWr h blk)
  else if postWindow blk off then (zerosB n, s)
  else
    let base := off / 8 * 8
    let cut (w : Nat) : List Byte := sliceB (leBytes 8 w) (off % 8) n
    if blk = 0x0B ∧ base = 0x30 then
      let r := popStamp s h
      (cut r.1.toNat, r.2)
    else
      let bs := cut (regWord s h blk base)
      if blk = 0x13 ∧ base = 0x28 then (bs, uartPop s 0)
      else if blk = 0x13 ∧ base = 0x30 then (bs, uartPop s 1)
      else (bs, s)

end Sys2Proof.Machine
end

