-- ==== Sys2Proof/Machine/UnitMem.lean ====
section
/-! DEFINITION. A half's memory as its masters reach it: errors and poison met on the way (R169–R174), granules that cross the
seam (R49), the code store (R361), the accesses of the units that address memory physically (R149, R187, R189), and the
Foreman's store and events (R196–R198). -/

namespace Sys2Proof.Machine

-- memory with its errors, by home half and address there

/-- Whether FLT_INJ put the error that stands in one of these granules (R357); it is forgotten. -/
def takeInjected (s : State) (h : HalfId) (gs : List Nat) : Bool × State :=
  (gs.any (s.half h).flt.injected.contains,
    s.upd h fun x => { x with flt := { x.flt with injected := gs.foldl NatSet.del x.flt.injected } })

/-- Region and index of the store that holds a granule (Table 17.9). Which grove's L2 holds a line is no state of the model: its number is a
free value (log entry 110). -/
def granuleRegion (s : State) (g : Nat) (line : Bool) : (Nat × Nat) × State :=
  if isDdrGranule g && !line then ((0, s.takeFree.1.toNat % 17), s.takeFree.2) else (memRegion (g * 16), s)

/-- What R171 and R174 make of an error standing in an SRAM granule when it is read: a correctable one is corrected and counted
once; an uncorrectable one is poisoned where it stands and recorded. -/
def touchSram (s : State) (h : HalfId) (g : Nat) : State :=
  let m := (s.half h).mem
  if m.ue.contains g then
    let s := s.upd h fun x => { x with mem := { x.mem with ue := x.mem.ue.del g, ce := x.mem.ce.del g, poison := x.mem.poison.add g } }
    let i := takeInjected s h [g]
    let reg := granuleRegion i.2 g false
    record (reg.2.incFld h Reg.FLT_CNT0_UE_SRAM) h
      { code := 0x10, region := reg.1.1, index := reg.1.2, address := g * 16, aux := if i.1 then 2 ^ 63 else 0 }
  else if m.ce.contains g then
    let s := s.upd h fun x => { x with mem := { x.mem with ce := x.mem.ce.del g } }
    (takeInjected s h [g]).2.incFld h Reg.FLT_CNT0_CE_SRAM
  else s

/-- The same of a DDR line: an uncorrectable line is poisoned in place and recorded, a corrected one counted once. -/
def touchLine (s : State) (h : HalfId) (l : Nat) : State :=
  let m := (s.half h).mem
  let c := ddrChannel (l * 64)
  if m.lineUe.contains l then
    let s := s.upd h fun x => { x with mem := { x.mem with
      lineUe := x.mem.lineUe.del l, lineCe := x.mem.lineCe.del l, lineP := x.mem.lineP.add l } }
    let i := takeInjected s h (lineGranules l)
    record (i.2.incFld h (Reg.DDR_ERRCNT_UE.at (8 * c))) h
      { code := 0x11, region := 3, index := c, address := l * 64, aux := if i.1 then 2 ^ 63 else 0 }
  else if m.lineCe.contains l then
    let s := s.upd h fun x => { x with mem := { x.mem with lineCe := x.mem.lineCe.del l } }
    (takeInjected s h (lineGranules l)).2.incFld h (Reg.DDR_ERRCNT_CE.at (8 * c))
  else s

/-- What a read of a granule meets where it stands: in SRAM, or in its DDR line. -/
def touchGranule (s : State) (h : HalfId) (g : Nat) : State :=
  if inSram (s.half h).mem g then touchSram s h g else touchLine s h (g / 4)

/-- Lines of DDR that bytes [a, a + n) touch. -/
def ddrLines (a n : Nat) : List Nat := if isDdrGranule (a / 16) then (partsOf a n).map fun p => p.1 / 64 else []

/-- A core's access, or its walker's, brings the DDR lines it touches into the grove's L2 (R171). -/
def fillLines (s : State) (h : HalfId) (a n : Nat) : State :=
  (ddrLines a n).foldl (fun s l =>
    if (s.half h).mem.held.contains l then s
    else (touchLine s h l).upd h fun x => { x with mem := x.mem.fill l }) s

/-- A line leaves the L2 that holds it: its granules are read, and it is written back to DDR (R171). -/
def evictLine (s : State) (h : HalfId) (l : Nat) : State :=
  ((lineGranules l).foldl (fun s g => touchSram s h g) s).upd h fun x => { x with mem := x.mem.writeBack l }

/-- Reads bytes of a half's memory: the bytes, the granules that are poisoned, and the state after corrections; `core` = the
access goes through a grove's L2. -/
def memRead (s : State) (h : HalfId) (a n : Nat) (core : Bool) : List Byte × List Nat × State :=
  let s := if core then fillLines s h a n else s
  let s := (granulesOf a n).foldl (fun s g => touchGranule s h g) s
  (readCells (s.half h).mem.cells a n, (granulesOf a n).filter (granulePoisoned (s.half h).mem), s)

/-- The reports of Table 8.2: `line` = the merge took place in a DDR line. The record names the writer's identity; no thread is noted in it
(log entry 134). -/
def mergeReport (h : HalfId) (mid : Nat) (line : Bool) (s : State) (gm : Nat × Merge) : State :=
  let c := ddrChannel (gm.1 * 16)
  match gm.2 with
  | .quiet => s
  | .corrected => if line then s.incFld h (Reg.DDR_ERRCNT_CE.at (8 * c)) else s.incFld h Reg.FLT_CNT0_CE_SRAM
  | .alreadyPoisoned => if line then s.incFld h Reg.FLT_CNT2_PMERGE_DDR else s.incFld h Reg.FLT_CNT2_PMERGE_SRAM
  | .poisonedMerge =>
    let i := takeInjected s h (if line then lineGranules (gm.1 / 4) else [gm.1])
    let reg := granuleRegion i.2 gm.1 line
    record reg.2 h { code := 0x12, region := reg.1.1, index := reg.1.2, mid, status := statusOf 6 1, address := gm.1 * 16
                     aux := if i.1 then 2 ^ 63 else 0 }

/-- Writes the bytes of one line part where its granules stand: in SRAM, or in the DDR line (R172). -/
def memWritePart (h : HalfId) (mid : Nat) (s : State) (a : Nat) (bs : List Byte) : State :=
  let line := !inSram (s.half h).mem (a / 16)
  let r := if line then (s.half h).mem.putLine a bs else (s.half h).mem.put a bs
  r.2.foldl (mergeReport h mid line) (s.upd h fun x => { x with mem := r.1 })

/-- Writes data bytes into a half's memory under a master, with the reports of Table 8.2; `core` = the access goes through a
grove's L2, where a core merges (log entry 15). -/
def memWrite (s : State) (h : HalfId) (mid a : Nat) (bs : List Byte) (core : Bool) : State :=
  let s := if core then fillLines s h a bs.length else s
  (partsOf a bs.length).foldl (fun s p => memWritePart h mid s p.1 (sliceB bs (p.1 - a) p.2)) s

/-- Writes a capability-width granule with its tag (R46). -/
def memPutCap (s : State) (h : HalfId) (mid a : Nat) (bs : List Byte) (tag core : Bool) : State :=
  let s := memWrite s h mid a bs core
  if tag then s.upd h fun x => { x with mem := { x.mem with tags := x.mem.tags.add (a / 16) } } else s

-- granules across the seam (R49)

/-- The capability that a granule of a half's memory holds. -/
def granuleCap (s : State) (h : HalfId) (g : Nat) : TCap :=
  capOf (readCells (s.half h).mem.cells (g * 16) 16) ((s.half h).mem.tags.contains g)

/-- Bytes of a half's memory as the other half sees them: a tagged granule in the form it takes when it crosses. -/
def seamBytes (s : State) (hm : HalfId) (a n : Nat) : List Byte :=
  let bs := (granulesOf a n).flatMap fun g =>
    if (granuleCap s hm g).tag then (crossSeam s hm (granuleCap s hm g)).bytes else readCells (s.half hm).mem.cells (g * 16) 16
  sliceB bs (a % 16) n

/-- Reads bytes of Canopy or own DDR for an access of half h: `own` tells which half's Canopy. The tag is that of the first
granule, as it crosses. -/
def homeBytes (s : State) (h : HalfId) (own : Bool) (a n : Nat) (core : Bool) : List Byte × Bool × Bool × State :=
  let hm := if own then h else h.other
  let r := memRead s hm a n core
  let c := granuleCap r.2.2 hm (a / 16)
  if own then (r.1, c.tag, !r.2.1.isEmpty, r.2.2)
  else (seamBytes r.2.2 hm a n, (crossSeam r.2.2 hm c).tag, !r.2.1.isEmpty, r.2.2)

/-- Puts a capability into a granule of a half's memory as it stands there. -/
def setGranule (s : State) (hm : HalfId) (g : Nat) (c : TCap) : State :=
  s.upd hm fun x => { x with mem := { x.mem with
    cells := writeCells x.mem.cells (g * 16) c.bytes, tags := if c.tag then x.mem.tags.add g else x.mem.tags.del g } }

/-- A core's write to the other half's Canopy fills the line across the seam and writes it back: the granules that it leaves alone cross
twice, and one that it writes in part merges in the writer's form. -/
def seamMerge (s : State) (hm : HalfId) (a n : Nat) : State :=
  ((partsOf a n).flatMap fun p => lineGranules (p.1 / 64)).foldl (fun s g =>
    let c := granuleCap s hm g
    if !c.tag || coversGranule a n g then s
    else if (granulesOf a n).contains g then setGranule s hm g (crossSeam s hm c)
    else setGranule s hm g (crossSeam s hm.other (crossSeam s hm c))) s

-- the units' SRAM (R169, R171, R174)

/-- What stands in a granule of the units' SRAM: 0 no error, 1 a correctable one, 2 an uncorrectable one, 3 poison. -/
def unitMark (s : State) (h : HalfId) (i : Nat) : Nat := SMap.get (fun _ => 0) (s.half h).sram i

def setUnitMark (s : State) (h : HalfId) (i v : Nat) : State :=
  s.upd h fun x => { x with sram := SMap.set (fun _ => 0) x.sram i v }

/-- An error that has arisen in a granule of the units' SRAM. -/
def markUnit (s : State) (h : HalfId) (i : Nat) (f : ScrubFind) : State :=
  match f with
  | .clean => s
  | .correctable => setUnitMark s h i 1
  | .uncorrectable => setUnitMark s h i 2

/-- A read of a granule of the units' SRAM: whether it comes poisoned, and the state after a correction or a record. The record's region
is the session pipeline, or the host interface for the ring context store (Table 17.9); no physical address names the granule. -/
def touchUnit (s : State) (h : HalfId) (i : Nat) : Bool × State :=
  match unitMark s h i with
  | 0 => (false, s)
  | 1 => (false, (setUnitMark s h i 0).incFld h Reg.FLT_CNT0_CE_SRAM)
  | 2 => (true, record ((setUnitMark s h i 3).incFld h Reg.FLT_CNT0_UE_SRAM) h
      { code := 0x10, region := if i / 2 ^ 40 = 5 then 6 else 5, index := 0 })
  | _ => (true, s)

/-- A read of n bytes from `a` in one of the units' stores: whether any granule of it comes poisoned. -/
def readUnit (s : State) (h : HalfId) (store a n : Nat) : Bool × State :=
  (granulesOf a n).foldl (fun (x : Bool × State) g => let r := touchUnit x.2 h (store * 2 ^ 40 + g); (x.1 || r.1, r.2)) (false, s)

/-- What a write does to the mark of one granule of the units' SRAM (Table 8.2): `full` = it covers all of it. -/
def mergeUnit (h : HalfId) (mid : Nat) (full : Bool) (s : State) (i : Nat) : State :=
  if full then setUnitMark s h i 0 else
  match unitMark s h i with
  | 0 => s
  | 1 => (setUnitMark s h i 0).incFld h Reg.FLT_CNT0_CE_SRAM
  | 2 => record (setUnitMark s h i 3) h
      { code := 0x12, region := if i / 2 ^ 40 = 5 then 6 else 5, index := 0, mid, status := statusOf 6 1 }
  | _ => s.incFld h Reg.FLT_CNT2_PMERGE_SRAM

/-- A write of n bytes from `a` in one of the units' stores by a master. -/
def writeUnit (s : State) (h : HalfId) (mid store a n : Nat) : State :=
  if (s.half h).sram.isEmpty then s
  else (granulesOf a n).foldl (fun s g => mergeUnit h mid (coversGranule a n g) s (store * 2 ^ 40 + g)) s

-- host memory

/-- Reads host memory at a full host address (R309); a line whose read failed comes back poisoned. -/
def hostRead (s : State) (h : HalfId) (a n : Nat) : List Byte × Bool × State :=
  let bad := (s.half h).hif.poisoned.filter fun l => a < l * 64 + 64 && l * 64 < a + n
  (readCells s.host a n, !bad.isEmpty,
    s.upd h fun x => { x with hif := { x.hif with poisoned := x.hif.poisoned.filter (!bad.contains ·) } })

/-- Writes host memory at a full host address. -/
def hostWrite (s : State) (a : Nat) (bs : List Byte) : State := { s with host := writeCells s.host a bs }

-- the code store

/-- Bit errors that stand in a line of a die. -/
def lineErrs (s : State) (die : HalfId) (line : Nat) : Nat := SMap.get (fun _ => 0) (s.half die).codeErrs line

/-- The die whose copy of a line a read gives: the other one where the line is uncorrectable on the first (R14). -/
def codeSource (s : State) (die : HalfId) (line : Nat) : HalfId := if lineErrs s die line ≤ 8 then die else die.other

/-- One line of a die as its controller reads it (R361): whether it is uncorrectable, and the state after counts and records. -/
def codeLine (s : State) (die : HalfId) (line : Nat) : Bool × State :=
  let errs := lineErrs s die line
  let wear (s : State) : State :=
    let pass := s.elapsed / 86400000000000 + 1
    if SMap.get (fun _ => 0) (s.half die).codeWorn line = pass then s else
    record (s.upd die fun x => { x with codeWorn := SMap.set (fun _ => 0) x.codeWorn line pass }) die
      { code := 0x17, region := 4, index := 0, outcome := 0, address := line * 64 }
  let counted := s.upd die fun x => { x with codeCe := x.codeCe + 1 }
  if errs = 0 then (false, s)
  else if errs ≤ 4 then (false, counted)
  else if errs ≤ 8 then (false, wear counted)
  else (true, record s die { code := 0x15, region := 4, index := 0, outcome := 0, address := line * 64 })

/-- A line that is uncorrectable on its die is re-read on the other (R14, R361); `true` where both are. -/
def codeLineBoth (s : State) (die : HalfId) (line : Nat) : Bool × State :=
  match codeLine s die line with
  | (false, s) => (false, s)
  | (true, s) =>
    match codeLine s die.other line with
    | (false, s) => (false, s)
    | (true, s) => (true, record s die { code := 0x16, region := 4, index := 0, address := line * 64 })

/-- Bytes of a code store, the first line that is uncorrectable on both dies if any, and the state. -/
def codeRead (s : State) (die : HalfId) (off n : Nat) : List Byte × Option Nat × State :=
  let lines := if n = 0 then [] else (List.range ((off + n - 1) / 64 - off / 64 + 1)).map (off / 64 + ·)
  let r := lines.foldl (fun (acc : Option Nat × State) l =>
    match codeLineBoth acc.2 die l with
    | (true, s) => (some (acc.1.getD l), s)
    | (false, s) => (acc.1, s)) (none, s)
  ((List.range n).map (fun i => SMap.get memDefault (s.half (codeSource s die ((off + i) / 64))).code (off + i)), r.1, r.2)

/-- A refusal of a unit's access is noted, and a set-up access of a size that R8 does not allow sets ERR_WR as well. -/
def unitRefused (s : State) (h : HalfId) (mid a detail : Nat) (overlap : Bool) : State :=
  let s := noteRefusal s h mid a overlap
  match detail, placeOf s h a with
  | 3, .setup blk _ => s.errWr h blk
  | _, _ => s

/-- A unit's read of one part: data, poison indication, refusal (R173, R189). -/
def unitReadPart (s : State) (h : HalfId) (mid a n : Nat) : List Byte × Bool × Bool × State :=
  match check s h mid .read a n with
  | .drop => (zerosB n, false, true, noteFenced s h mid a)
  | .hold g => (zerosB n, false, false, noteHeld s h g mid a none)
  | .refuse d o => (zerosB n, false, true, unitRefused s h mid a d o)
  | .allow =>
    match placeOf s h a with
    | .canopy own b => let r := homeBytes s h own b n false; (r.1, r.2.2.1, false, r.2.2.2)
    | .ddr b => let r := homeBytes s h true b n false; (r.1, r.2.2.1, false, r.2.2.2)
    | .code own b => let r := codeRead s (if own then h else h.other) b n; (r.1, r.2.1.isSome, false, r.2.2)
    | .host off => let r := hostRead s h (hostAddr s h off) n; (r.1, r.2.1, false, r.2.2)
    | .setup blk off => let r := busRead s h mid blk off n none; (r.1, false, false, r.2)
    | .hole => (zerosB n, false, false, s)

/-- A unit's write of one part (R189); `true` where it was refused. One to set-up space is performed at the next idle tick (log
entry 97). -/
def unitWritePart (s : State) (h : HalfId) (mid a : Nat) (bs : List Byte) : Bool × State :=
  match check s h mid .write a bs.length with
  | .drop => (true, noteFenced s h mid a)
  | .hold g => (false, noteHeld s h g mid a none)
  | .refuse d o => (true, unitRefused s h mid a d o)
  | .allow =>
    match placeOf s h a with
    | .canopy own b => (false, memWrite s (if own then h else h.other) mid b bs false)
    | .ddr b => (false, memWrite s h mid b bs false)
    | .host off => (false, { s with host := writeCells s.host (hostAddr s h off) bs })
    | .setup _ _ => (false, s.upd h fun x => { x with bnd := { x.bnd with posted := x.bnd.posted ++ [(mid, a, bs)] } })
    | .code _ _ | .hole => (false, s)

/-- What a unit's read answers: data, whether any part was poisoned, which of its 64-byte parts were (R173), and whether any was
refused. -/
structure UnitRead where
  bytes : List Byte
  poison : Bool
  refused : Bool
  parts : List Bool

/-- A unit's read of [a, a + n), part by part (R173, R187, R189). -/
def unitRead (s : State) (h : HalfId) (mid a n : Nat) : UnitRead × State :=
  (partsOf a n).foldl (fun (acc : UnitRead × State) p =>
    let r := unitReadPart acc.2 h mid p.1 p.2
    (⟨acc.1.bytes ++ r.1, acc.1.poison || r.2.1, acc.1.refused || r.2.2.1, acc.1.parts ++ [r.2.1]⟩, r.2.2.2))
    (⟨[], false, false, []⟩, s)

/-- A unit's write of bytes from `a` on, part by part. -/
def unitWrite (s : State) (h : HalfId) (mid a : Nat) (bs : List Byte) : State :=
  (partsOf a bs.length).foldl (fun s p => (unitWritePart s h mid p.1 (sliceB bs (p.1 - a) p.2)).2) s

/-- Granules that a master has written poisoned: those of own DDR or Canopy hold the poison (R171). -/
def poisonAt (s : State) (h : HalfId) (a n : Nat) : State :=
  (partsOf a n).foldl (fun s p =>
    let mark (s : State) (hm : HalfId) (b : Nat) : State := s.upd hm fun x => { x with mem := { x.mem with
      poison := if inSram x.mem (b / 16) then (granulesOf b p.2).foldl NatSet.add x.mem.poison else x.mem.poison
      lineP := if inSram x.mem (b / 16) then x.mem.lineP else x.mem.lineP.add (b / 64) } }
    match placeOf s h p.1 with
    | .canopy own b => mark s (if own then h else h.other) b
    | .ddr b => mark s h b
    | _ => s) s

/-- A unit's write that it does not wait for: a part that a group holds is performed when it is enabled (log entry 97). -/
def unitPost (s : State) (h : HalfId) (mid a : Nat) (bs : List Byte) : State :=
  (partsOf a bs.length).foldl (fun s p =>
    match check s h mid .write p.1 p.2 with
    | .hold g => notePosted s h g mid p.1 (sliceB bs (p.1 - a) p.2)
    | _ => (unitWritePart s h mid p.1 (sliceB bs (p.1 - a) p.2)).2) s

/-- A state as it was, but for the notes of the accesses that a try at work found held (R191). -/
def keepHolds (h : HalfId) (s t : State) : State :=
  (s.setFld h Reg.BND_GSTAT_HELD (t.fld h Reg.BND_GSTAT_HELD)).upd h fun x =>
    { x with bnd := { x.bnd with held := (t.half h).bnd.held, holds := (t.half h).bnd.holds } }

/-- Runs the work of a unit's command. Where one of its accesses is held for a disabled group (R191), nothing of the
work takes place but the note that it waits, and the command is sent again once the group is enabled (log entry 16). -/
def unitCmd (h : HalfId) (f : State → State) (s : State) : State :=
  let t := f s
  if (t.half h).bnd.holds = (s.half h).bnd.holds then t else keepHolds h s t

-- the Foreman's store and events

/-- What the Foreman holds of a thread. -/
def State.thread (s : State) (h : HalfId) (t : Nat) : Thread := SMap.get threadDefault (s.half h).fmn.threads t

/-- Address of a thread's context record (R194). -/
def recordAddr (s : State) (h : HalfId) (t : Nat) : Nat :=
  (if s.flag h Reg.FMN_CTRL_TSEL then 0x42000000 else 0x40000000) + 256 * t

/-- State code of Table 10.2. -/
def TState.code : TState → Nat
  | .free => 0
  | .waiting => 1
  | .ready => 2
  | .running => 3
  | .aborted => 4

/-- The SCHED word after the Foreman's write: STATE and NEXT are its own, the other fields stay as they stand in memory (R196).
What the queue link NEXT holds is not stated: it is a free value (log entry 12). -/
def schedWord (x : Thread) (cur : Nat) (next : Word) : Nat :=
  x.state.code * 2 ^ 61 + (putBits (BitVec.ofNat 64 cur) 33 17 (next.toNat % 2 ^ 17)).toNat % 2 ^ 61

/-- Writes STATE and NEXT, or PEND, or both, of a thread into its record as the Foreman holds them (R196). Where a group holds the
access (R191) the record is owed the write. -/
def writeThreadFields (s : State) (h : HalfId) (t : Nat) (st pd : Bool) : State :=
  let x := s.thread h t
  let a := recordAddr s h t + 0xF0
  let n := (s.half h).bnd.holds
  let s := if !st then s
           else
             let r := unitRead s h 0x45 a 8
             let cur := if r.1.refused || r.1.poison then x.sched.toNat else leNat r.1.bytes
             unitWrite r.2.takeFree.2 h 0x45 a (leBytes 8 (schedWord x cur r.2.takeFree.1))
  let s := if pd then unitWrite s h 0x45 (a + 8) (leBytes 2 x.pend.toNat) else s
  if (s.half h).bnd.holds = n then s
  else s.upd h fun y => { y with fmn := { y.fmn with owed := y.fmn.owed.add t } }

/-- Writes again what records are owed, once the group that held the writes is enabled. -/
def writeOwed (h : HalfId) (s : State) : State :=
  let ts := (s.half h).fmn.owed
  ts.foldl (fun s t => writeThreadFields s h t true true) (s.upd h fun y => { y with fmn := { y.fmn with owed := [] } })

/-- The Foreman's change to a thread's STATE or PEND: its own store, and the fields of the record (R196). -/
def State.setThread (s : State) (h : HalfId) (t : Nat) (x : Thread) : State :=
  let old := s.thread h t
  writeThreadFields (s.upd h fun y => { y with fmn := { y.fmn with threads := SMap.set threadDefault y.fmn.threads t x } }) h t
    (old.state != x.state) (old.pend != x.pend)

/-- Makes a thread READY, last among its equals (R201). -/
def makeReady (s : State) (h : HalfId) (t : Nat) (x : Thread) : State :=
  let n := (s.half h).fmn.readyCount
  (s.upd h fun y => { y with fmn := { y.fmn with readyCount := n + 1 } }).setThread h t { x with state := .ready, order := n }

/-- An event of source `src` for thread t (R198). -/
def fmnEvent (s : State) (h : HalfId) (t src : Nat) : State :=
  let x := s.thread h t
  if x.state = .free ∨ x.state = .aborted then s.incFld h Reg.FMN_CNT_EV_DROP
  else
    let x := { x with pend := x.pend ||| BitVec.ofNat 16 (2 ^ src) }
    if x.state = .waiting ∧ x.pend &&& x.mask ≠ 0 then makeReady s h t x else s.setThread h t x

end Sys2Proof.Machine
end

