-- ==== Sys2Proof/Machine/Access.lean ====
section
/-! DEFINITION. What an access of a core names and whether it may: capability checks (R38, R50), translation
(R149–R158), protection keys (R163, R164), the boundary table (R187) and split accesses (R138, R139). -/

namespace Sys2Proof.Machine

/-- How an instruction stops before it has any effect: a trap it takes; a wait (an access held under R191, dropped
from a fenced grove under R192, or a remote access without its response yet), after which its command is sent again
(log entry 16); a long operation, by its place, that must complete first (R134); or a TLB slot that is dropped, after which it translates
again (R156). -/
inductive Stop where
  | trap (vec : Nat) (cause : Word)
  | wait
  | need (i : Nat)
  | stale (x : TlbSlot)
  deriving DecidableEq, Repr

/-- A part of an instruction: an answer and a state, or a stop. -/
abbrev Exec := EStateM Stop State

/-- A memory-fault cause (Table 5.5). -/
def memCause (origin detail addr : Nat) : Word := BitVec.ofNat 64 (origin * 2 ^ 60 + detail * 2 ^ 55 + addr % 2 ^ 55)

/-- Takes a memory fault. -/
def memFault {α : Type} (vec origin detail addr : Nat) : Exec α := throw (.trap vec (memCause origin detail addr))

-- levels (Table 3.2)

abbrev levelC : Nat := 0
abbrev levelS : Nat := 1
abbrev levelM : Nat := 3

/-- LEVEL of SW. -/
def Core.level (c : Core) : Nat := nbits c.sw.toNat 22 21

/-- Rank of a level: C < S < M (R121). -/
def levelRank (l : Nat) : Nat := if l = levelM then 2 else l

/-- The master identity of a core's accesses at a level (Table 9.1). -/
def coreMid (k : CoreId) (level : Nat) : Nat := 3 * k.grove.val + levelRank level

/-- Whether the core's grove is paced (R25). -/
def isPaced (s : State) (k : CoreId) : Bool := s.flag k.half (Reg.GRV_MODE_PACED.grove k.grove.val)

/-- Whether the running step is restartable: a thread that keeps a journal and has not been converted (R209, R210). -/
def Core.restartable (c : Core) : Bool := c.thread.isSome && !c.nr && !c.converted

def getCore (k : CoreId) : Exec Core := do return (← get).core k

def modCore (k : CoreId) (f : Core → Core) : Exec Unit := modify fun s => s.setCore k (f (s.core k))

/-- One part of an access, checked: virtual and physical first byte, size, side-effect page (MT 2), page tag enable,
TS of its key, the slot whose leaf is marked at retirement (whether D too), whether it goes to another node, whether the page is
cached (MT 0), and the operand's number. -/
structure Part where
  va : Nat
  n : Nat
  phys : Nat
  side : Bool
  te : Bool
  ts : Bool
  leaf : Option (TlbSlot × Bool)
  remote : Bool
  cached : Bool
  origin : Nat
  deriving DecidableEq, Repr

-- translation

/-- What a translation answers. -/
structure Xlat where
  phys : Nat
  mt : Nat
  te : Bool
  key : Nat
  leaf : Option (TlbSlot × Bool)
  deriving DecidableEq, Repr

/-- Table 7.6, conditions 4 to 6, for an entry's rights. -/
def rightsOk (level mt : Nat) (u w r : Bool) (kind : AccKind) : Bool :=
  mt != 3 && (level != levelC || u) &&
    (match kind with | .read | .fetch => r | .write => w | .atomic => r && w)

/-- A translation from a BTR (Table 7.4). -/
def btrMatch (va : Nat) (b : Word128) : Option (Nat × Nat × Bool × Nat × Bool × Bool × Bool) :=
  let v := b.toNat
  let size := nbits v 69 64
  let vb := nbits v 54 16 * 2 ^ 16
  if v.testBit 127 ∧ vb ≤ va ∧ va < vb + 2 ^ size then
    some (nbits v 109 80 * 2 ^ 16 + (va - vb), nbits v 117 116, v.testBit 115, nbits v 126 123,
      v.testBit 114, v.testBit 113, v.testBit 112)
  else none

/-- The first BTR that covers an address: a match is final (R150). -/
def btrFind (va : Nat) (bs : List Word128) : Option (Nat × Nat × Bool × Nat × Bool × Bool × Bool) :=
  bs.findSome? (btrMatch va)

/-- shift(level) of R152. -/
def walkShift (level : Nat) : Nat := 12 + 9 * level

/-- A walk read (R161): none where it is refused, or held for a disabled group (R191). A grove's walker reads through its L2. -/
def walkRead (s : State) (h : HalfId) (mid a : Nat) : Option Nat × State :=
  match placeOf s h a with
  | .canopy true b | .ddr b =>
    match check s h mid .read a 8 with
    | .allow =>
      let r := memRead s h b 8 (groveOfMid mid).isSome
      if r.2.1.isEmpty then (some (leNat r.1), r.2.2) else (none, r.2.2)
    | .refuse _ o => (none, noteRefusal s h mid a o)
    | .drop => (none, noteFenced s h mid a)
    | .hold g => (none, noteHeld s h g mid a none)
  | .hole => (none, noteRefusal s h mid a false)
  | _ => (none, s)

/-- Reserved bits of a page-table entry (Table 7.2): more of them in a pointer entry. -/
def pteReserved (e : Nat) : Bool :=
  if e.testBit 1 then e.testBit 63 || nbits e 58 56 != 0 || nbits e 54 46 != 0 || nbits e 3 2 != 0
  else nbits e 63 46 != 0 || nbits e 11 2 != 0

/-- A context that walks: its root, its number, its walker's identity, and its caches. -/
structure WalkCtx where
  half : HalfId
  mid : Nat
  root : Nat
  ctx : BitVec 16
  walk : List WalkEntry

/-- The walk of R152 from `level` down (`f` levels left): the slot it fills, the pointer entries met, the state. -/
def walkFrom (c : WalkCtx) (va : Nat) : Nat → Nat → Nat → List WalkEntry → State → Option TlbSlot × List WalkEntry × State
  | 0, _, _, ws, s => (none, ws, s)
  | f + 1, level, table, ws, s =>
    let idx := (va >>> walkShift level) % (if level = 4 then 128 else 512)
    let vtop := va >>> walkShift level
    match c.walk.find? fun e => e.ctx == c.ctx && e.level == level && e.vtop == vtop with
    | some e => walkFrom c va f (level - 1) e.next ws s
    | none =>
      match walkRead s c.half c.mid (table + 8 * idx) with
      | (none, s) => (none, ws, s)
      | (some e, s) =>
        let pa := nbits e 45 12 * 0x1000
        if !e.testBit 0 || pteReserved e then (none, ws, s)
        else if e.testBit 1 then
          if level > 2 || pa % 2 ^ walkShift level != 0 then (none, ws, s)
          else
            let page := 2 ^ walkShift level
            let cont := e.testBit 55
            let size := if cont then 16 * page else page
            let slot : TlbSlot :=
              { ctx := c.ctx, vbase := va / size * size, size, pbase := pa / size * size,
                key := BitVec.ofNat 4 (nbits e 62 59), mt := BitVec.ofNat 2 (nbits e 11 10),
                te := e.testBit 9, u := e.testBit 6, w := e.testBit 5, r := e.testBit 4,
                a := e.testBit 7, d := e.testBit 8, cont, level, table }
            (some slot, ws, s)
        else if level = 0 then (none, ws, s)
        else walkFrom c va f (level - 1) pa (⟨c.ctx, level, vtop, pa⟩ :: ws) s

/-- Adds an entry to a cache of `cap` entries; which one a full cache gives up is a free choice (R159). -/
def cacheAdd {α : Type} (cap : Nat) (xs : List α) (x : α) (pick : Word) : List α :=
  if xs.length < cap then xs ++ [x] else xs.eraseIdx (pick.toNat % xs.length) ++ [x]

/-- Address of the leaf that maps `va` in the table a slot was walked from: for a CONT slot the sibling (R156). -/
def leafAddr (x : TlbSlot) (va : Nat) : Nat := x.table + 8 * ((va >>> walkShift x.level) % 512)

/-- Whether a re-read leaf still agrees with its slot (R156, item 3). -/
def leafAgrees (x : TlbSlot) (va e : Nat) : Bool :=
  let page := 2 ^ walkShift x.level
  e.testBit 0 && e.testBit 1 && nbits e 45 12 * 0x1000 == x.pbase + (va - x.vbase) / page * page &&
    nbits e 62 59 == x.key.toNat && nbits e 11 10 == x.mt.toNat && e.testBit 9 == x.te && e.testBit 6 == x.u &&
    e.testBit 5 == x.w && e.testBit 4 == x.r && e.testBit 55 == x.cont

/-- What a slot gives for an address; `needD` = the access sets D. -/
def slotXlat (x : TlbSlot) (va : Nat) (needD : Bool) : Xlat :=
  { phys := x.pbase + (va - x.vbase), mt := x.mt.toNat, te := x.te, key := x.key.toNat,
    leaf := if !x.a || (needD && !x.d) then some (x, needD) else none }

/-- A TLB: slots and walk cache, with their sizes. -/
structure Tlb where
  slots : List TlbSlot
  walk : List WalkEntry
  nSlots : Nat
  nWalk : Nat

/-- Translation through slots and page tables (R150 items 2 and 3): the translation where none of Table 7.6 holds,
with the TLB and state as they then stand. -/
def translateVia (s : State) (h : HalfId) (mid root : Nat) (ctx : BitVec 16) (t : Tlb) (level va : Nat) (kind : AccKind) :
    Option Xlat × Tlb × State :=
  let needD := kind == .write || kind == .atomic
  let found := t.slots.find? fun x => x.ctx == ctx && x.vbase ≤ va && va < x.vbase + x.size
  match found with
  | some x =>
    if rightsOk level x.mt.toNat x.u x.w x.r kind then (some (slotXlat x va needD), t, s) else (none, t, s)
  | none =>
    match walkFrom ⟨h, mid, root, ctx, t.walk⟩ va 5 4 root [] s with
    | (none, ws, s) =>
      (none, { t with walk := ws.foldl (fun w e => cacheAdd t.nWalk w e s.takeFree.1) t.walk }, s.takeFree.2)
    | (some x, ws, s) =>
      let t := { t with walk := ws.foldl (fun w e => cacheAdd t.nWalk w e s.takeFree.1) t.walk
                        slots := cacheAdd t.nSlots t.slots x s.takeFree.1 }
      let s := s.takeFree.2
      if rightsOk level x.mt.toNat x.u x.w x.r kind then (some (slotXlat x va needD), t, s) else (none, t, s)

/-- Translation of a core's access at levels S and C, and at M where there is none (Table 7.1, R150). A walk whose read is held
waits with the access (R191). -/
def translate (k : CoreId) (level va : Nat) (kind : AccKind) (origin : Nat) : Exec Xlat := do
  if level = levelM then
    if va / 2 ^ 46 ≠ 0 then memFault 5 origin 0 va
    return ⟨va, 0, true, 0, none⟩
  let c ← getCore k
  match btrFind va c.btr.toList with
  | some (phys, mt, te, key, u, w, r) =>
    if rightsOk level mt u w r kind then return ⟨phys, mt, te, key, none⟩ else memFault 5 origin 0 va
  | none =>
    let s ← get
    if isPaced s k then memFault 5 origin 0 va
    let n := (s.half k.half).bnd.holds
    let (x, t, s) := translateVia s k.half (0x33 + k.grove.val) c.root c.ctx ⟨c.tlb, c.walk, 96, 32⟩ level va kind
    set s
    modCore k fun c => { c with tlb := t.slots, walk := t.walk }
    match x with
    | some x => return x
    | none => if (s.half k.half).bnd.holds = n then memFault 5 origin 0 va else throw .wait

/-- The protection-key check (R163, R164): whether a key's KRR bits let the access through. -/
def keyOk (krr : Word) (key : Nat) (kind : AccKind) : Bool :=
  let rd := krr.toNat.testBit (4 * key)
  let wd := krr.toNat.testBit (4 * key + 1)
  match kind with
  | .read | .fetch => !rd
  | .write => !wd
  | .atomic => !rd && !wd

/-- TS of a key: loads through it deliver tag 0 (Table 7.5). -/
def keyTs (krr : Word) (key : Nat) : Bool := krr.toNat.testBit (4 * key + 2)

/-- A boundary fault of a core's part: counted, and for a set-up access of a size or alignment that R8 does not allow ERR_WR is set. -/
def boundaryFault {α : Type} (k : CoreId) (mid phys va origin detail : Nat) (overlap : Bool) : Exec α := do
  let s ← get
  let s := noteRefusal s k.half mid phys overlap (some k.num)
  set (match detail, placeOf s k.half phys with
    | 3, .setup blk _ => s.errWr k.half blk
    | _, _ => s)
  memFault 7 origin detail va

/-- The boundary table's verdict on a core's part, with what a core takes for it (R189, R8). -/
def boundary (k : CoreId) (mid : Nat) (kind : AccKind) (phys n va origin : Nat) : Exec Unit := do
  let s ← get
  match check s k.half mid kind phys n (some k.num) with
  | .allow => return
  | .drop => set (noteFenced s k.half mid phys); throw .wait
  | .hold g => set (noteHeld s k.half g mid phys (some k.num)); throw .wait
  | .refuse d o => boundaryFault k mid phys va origin d o

/-- Whether a place is treated as side-effect memory whatever its page says (R154). -/
def sideEffectPlace (p : Place) : Bool :=
  match p with
  | .setup _ _ | .host _ => true
  | _ => false

/-- Whether a place holds tags (R45). -/
def tagPlace (p : Place) : Bool :=
  match p with
  | .canopy _ _ | .ddr _ => true
  | _ => false

/-- Whether an access of n bytes at `a` is naturally aligned. -/
def naturallyAligned (a n : Nat) : Bool := (n == 1 || n == 2 || n == 4 || n == 8 || n == 16) && a % n == 0

/-- An access as R38 checks it: authority, effective address, size, kind, operand number, and the capability that a capability
store writes (none tagged for any other access). -/
structure AccReq where
  cap : TCap
  ea : Int
  n : Nat
  kind : AccKind
  origin : Nat
  stored : TCap

/-- R38 step 4 for the part that starts at `va`, `off` bytes into the access: the bounds hold the address as computed, before it is
taken modulo 2^55. -/
def AccReq.inBounds (x : AccReq) (off n : Nat) : Bool :=
  decide (x.cap.base ≤ x.ea + off) && decide (x.ea + off + n ≤ x.cap.top)

/-- What a misaligned access to side-effect memory takes: a boundary fault where it lies in set-up space (R8; log entry 99), else vector 8
(R138, R154). -/
def misaligned {α : Type} (k : CoreId) (mid va phys origin : Nat) : Exec α := do
  let s ← get
  match placeOf s k.half phys with
  | .setup _ _ =>
    if classOf s k.half mid = 63 then
      set (noteFenced s k.half mid phys); throw .wait
    boundaryFault k mid phys va origin 3 false
  | _ => memFault 8 origin 0 va

/-- Steps 4 to 6 of R38 for one part of a local access. A tagged store to memory without tags takes permission fault before the
boundary table is asked (R45); to an address that does not exist it takes the boundary fault. -/
def resolvePart (k : CoreId) (level : Nat) (x : AccReq) (p : Nat × Nat) : Exec Part := do
  let (va, n) := p
  let va0 := unsignedOf 55 x.ea
  if !x.inBounds (va - va0) n then memFault 2 x.origin 0 va
  let t ← translate k level va x.kind x.origin
  let c ← getCore k
  if level ≠ levelM && !keyOk c.krr t.key x.kind then memFault 6 x.origin 0 va
  let s ← get
  let pl := placeOf s k.half t.phys
  let side := t.mt = 2 || sideEffectPlace pl
  let tagged := t.te && tagPlace pl
  if x.stored.tag && !tagged && pl != .hole then memFault 3 x.origin 0 va
  if side && !naturallyAligned va0 x.n then misaligned k (coreMid k level) va t.phys x.origin
  boundary k (coreMid k level) x.kind t.phys n va x.origin
  return ⟨va, n, t.phys, side, tagged, level ≠ levelM && keyTs c.krr t.key, t.leaf, false, t.mt = 0, x.origin⟩

/-- The permission an access needs (R38 step 3). -/
def permOk (cap : TCap) (kind : AccKind) : Bool :=
  match kind with
  | .read => cap.has permLD
  | .fetch => cap.has permEX
  | .write => cap.has permST
  | .atomic => cap.has permLD && cap.has permST

/-- What a tagged capability asks of the authority it is stored through (Table 2.3, R41), and of itself where it leaves for another
node (R48). The model asks it with step 3 of R38 (log entry 100). -/
def storeOk (cap c : TCap) : Bool :=
  !c.tag || (cap.has permSC && (c.has permGL || cap.has permSL) && (cap.node == 511 || (c.has permGL && c.has permFB)))

/-- State of a node in the table this half has (Table 16.5), and its epoch there. -/
def nodeState (s : State) (h : HalfId) (n : Nat) : Nat × Nat :=
  (s.fld h (Reg.BOM_NODE_ST_STATE.at (16 * n)), s.fld h (Reg.BOM_NODE_ST_EPOCH.at (16 * n)))

/-- The port by which a node is reached now: its primary, or its alternate where the primary is down; none where neither
is usable (R344). The seam port is 4. -/
def routeTo (s : State) (h : HalfId) (n : Nat) : Option Nat :=
  let usable (p : Nat) : Bool :=
    if p < 4 then (((s.half h).bom.links[p]?).map (·.up)).getD false else p = 4 && s.seamUp
  let pri := s.fld h (Reg.BOM_NODE_ST_PRI.at (16 * n))
  let alt := s.fld h (Reg.BOM_NODE_ST_ALT.at (16 * n))
  if usable pri then some pri else if usable alt then some alt else none

/-- The origin's checks of one part of a remote access (R50, R184). -/
def resolveRemote (k : CoreId) (level : Nat) (x : AccReq) (p : Nat × Nat) : Exec Unit := do
  let (va, n) := p
  if !x.inBounds (va - unsignedOf 55 x.ea) n then memFault 2 x.origin 0 va
  if !x.cap.has permFB then memFault 3 x.origin 0 va
  let s ← get
  let cls := classOf s k.half (coreMid k level)
  let rd := (s.fld k.half Reg.BND_EGRESS_RD_EGR).testBit cls
  let wr := (s.fld k.half Reg.BND_EGRESS_WR_EGR).testBit cls
  if cls = 63 then
    set (noteFenced s k.half (coreMid k level) va); throw .wait
  let ok := match x.kind with | .read | .fetch => rd | .write => wr | .atomic => rd && wr
  let (st, ep) := nodeState s k.half x.cap.node
  if st ≠ 1 || (routeTo s k.half x.cap.node).isNone then memFault 7 x.origin 2 va
  if ep ≠ x.cap.epoch then memFault 1 x.origin 0 va
  if !ok then
    set (noteRefusal s k.half (coreMid k level) va false (some k.num)); memFault 7 x.origin 0 va

/-- Checks an access of n bytes at effective address `ea` through a capability, by R38 in order, and gives its parts: one per
64-byte line, or one in all for a capability-width or ATOMIC access (R138). `stored` = the capability that a capability store
writes. An access to another node goes there as one request: its home splits it again and checks both parts before it performs either
(R139; log entry 138). -/
def resolve (k : CoreId) (cap : TCap) (ea : Int) (n : Nat) (kind : AccKind) (capWidth : Bool) (origin : Nat)
    (stored : TCap := TCap.null) : Exec (List Part) := do
  let va := unsignedOf 55 ea
  let x : AccReq := ⟨cap, ea, n, kind, origin, stored⟩
  let level := (← getCore k).level
  if !cap.tag then memFault 1 origin 0 va
  if cap.otype ≠ 0 then memFault 4 origin 0 va
  if !permOk cap kind || !storeOk cap stored then memFault 3 origin 0 va
  let single := capWidth || kind == .atomic
  if single && !x.inBounds 0 n then memFault 2 origin 0 va
  if (capWidth && va % 16 ≠ 0) || (kind == .atomic && !naturallyAligned va n) then memFault 8 origin 0 va
  let ps := if single then [(va, n)] else partsOf va n
  if 1 < ps.length then modCore k fun c => { c with perf := c.perf.set! 9 (c.perf[9]! + 1) }
  if cap.node = 511 then ps.mapM (resolvePart k level x)
  else
    let _ ← ps.mapM (resolveRemote k level x)
    return [⟨va, n, va, false, true, false, none, true, true, origin⟩]

-- accessed and dirty bits (R156)

/-- Notes the leaves that the running instruction marks when it retires. -/
def noteMarks (k : CoreId) (ps : List Part) : Exec Unit :=
  modCore k fun c => { c with marks := c.marks ++ ps.filterMap fun p => p.leaf.map fun l => (p.va, l.1, l.2) }

/-- A slot without its A and D. -/
def TlbSlot.bare (x : TlbSlot) : TlbSlot := { x with a := false, d := false }

/-- A TLB whose slot has had its bits set. -/
def markSlots (ts : List TlbSlot) (x : TlbSlot) (d : Bool) : List TlbSlot :=
  ts.map fun y => if y.bare = x.bare then { y with a := true, d := y.d || d } else y

/-- A leaf read again for the bits it is to have: the leaf and the state, where it still agrees with its slot; none where the slot is
stale. -/
def reread (s : State) (h : HalfId) (mid : Nat) (x : TlbSlot) (va : Nat) : Option Nat × State :=
  let r := walkRead s h mid (leafAddr x va)
  (r.1.filter (leafAgrees x va), r.2)

/-- Re-reads a leaf at the retirement of its access: the slot is dropped and the instruction executed again where the leaf no longer agrees;
where the read is held, the instruction waits (R191). -/
def rereadLeaf (k : CoreId) (m : Nat × TlbSlot × Bool) : Exec Nat := do
  let s ← get
  let r := reread s k.half (0x33 + k.grove.val) m.2.1 m.1
  set r.2
  match r.1 with
  | some e => return e
  | none => if (r.2.half k.half).bnd.holds = (s.half k.half).bnd.holds then throw (.stale m.2.1) else throw .wait

/-- Marks one leaf accessed, and dirty where the access writes. Where the boundary table refuses the write, it is dropped and the
instruction retires (log entry 137); where a group holds it, the instruction waits (R191). -/
def markLeaf (k : CoreId) (m : Nat × TlbSlot × Bool) : Exec Unit := do
  let e ← rereadLeaf k m
  let s ← get
  let t := unitWrite s k.half (0x33 + k.grove.val) (leafAddr m.2.1 m.1) (leBytes 8 (e ||| (if m.2.2 then 0x180 else 0x80)))
  set t
  if (t.half k.half).bnd.holds ≠ (s.half k.half).bnd.holds then throw .wait
  modCore k fun c => { c with tlb := markSlots c.tlb m.2.1 m.2.2 }

/-- Marks the leaves of a retiring instruction's accesses. -/
def flushMarks (k : CoreId) : Exec Unit := do
  for m in (← getCore k).marks do markLeaf k m
  modCore k fun c => { c with marks := [] }

/-- A core without a slot that was found stale. -/
def dropSlot (k : CoreId) (x : TlbSlot) (s : State) : State :=
  s.setCore k { s.core k with tlb := (s.core k).tlb.filter fun y => y.bare != x.bare }

end Sys2Proof.Machine
end

