-- ==== Sys2Proof/Machine/BoomOps.lean ====
section
/-! DEFINITION. Boom's links and packets: CRC-32C and flits (R330), credits and arbitration (R331), packet bytes (R333)
and sending a packet on its route (R335, R344). -/

namespace Sys2Proof.Machine

/-- `n` bit steps of reflected CRC-32C. -/
def crc32cBits : Nat → BitVec 32 → BitVec 32
  | 0, c => c
  | n + 1, c => crc32cBits n (if c.getLsbD 0 then (c >>> 1) ^^^ 0x82F63B78#32 else c >>> 1)

/-- CRC-32C over bytes: reflected, initial value and final XOR 0xFFFF_FFFF (R330). -/
def crc32c (bs : List Byte) : BitVec 32 :=
  (bs.foldl (fun c b => crc32cBits 8 (c ^^^ b.setWidth 32)) 0xFFFFFFFF#32) ^^^ 0xFFFFFFFF#32

/-- A packet's bytes: the 32-byte header of Table 16.3, then its payload. -/
def Packet.toBytes (p : Packet) : List Byte :=
  leBytes 8 (p.dst.toNat * 2 ^ 55 + p.src.toNat * 2 ^ 46 + p.depoch.toNat * 2 ^ 42 + p.sepoch.toNat * 2 ^ 38 +
    p.vc.toNat * 2 ^ 35 + p.type.toNat * 2 ^ 30 + p.payload.length * 2 ^ 17 + p.hops.toNat * 2 ^ 12 + p.info.toNat) ++
  leBytes 8 (p.seq.toNat * 2 ^ 32 + p.pos.toNat * 2 ^ 28 + p.txn.toNat * 2 ^ 17 + p.thread.toNat) ++
  leBytes 8 p.addr.toNat ++ leBytes 8 p.tags.toNat ++ p.payload

/-- LEN of a packet that starts with these bytes. -/
def packetLen (bs : List Byte) : Nat := nbits (fieldLE bs 0 8) 29 17

/-- The packet that bytes hold, arriving on a port. -/
def Packet.ofBytes (bs : List Byte) (port : Nat) : Packet :=
  let r := fieldLE bs 0 8
  let i := fieldLE bs 8 8
  { dst := BitVec.ofNat 9 (nbits r 63 55), src := BitVec.ofNat 9 (nbits r 54 46), depoch := BitVec.ofNat 4 (nbits r 45 42),
    sepoch := BitVec.ofNat 4 (nbits r 41 38), vc := BitVec.ofNat 3 (nbits r 37 35), type := BitVec.ofNat 5 (nbits r 34 30),
    hops := BitVec.ofNat 5 (nbits r 16 12), info := BitVec.ofNat 8 (nbits r 7 0), seq := BitVec.ofNat 32 (nbits i 63 32),
    pos := BitVec.ofNat 4 (nbits i 31 28), txn := BitVec.ofNat 11 (nbits i 27 17), thread := BitVec.ofNat 17 (nbits i 16 0),
    addr := BitVec.ofNat 64 (fieldLE bs 16 8), tags := BitVec.ofNat 64 (fieldLE bs 24 8),
    payload := sliceB bs 32 (nbits r 29 17), port }

/-- Flits a packet of `len` payload bytes occupies (R333). -/
def flitCount (len : Nat) : Nat := 1 + (len - 32 + 63) / 64

/-- A packet's flit bodies in order, each 64 bytes. -/
def packetBodies (p : Packet) : List (List Byte) :=
  (List.range (flitCount p.payload.length)).map fun i => sliceB p.toBytes (64 * i) 64

/-- The virtual channel of a packet type (Table 16.2). -/
def channelOf (type : Nat) : Nat :=
  if type = 6 ∨ type = 8 ∨ type = 10 then 1
  else if type = 9 then 3
  else if type = 7 then 4
  else if type = 11 then 5
  else if type = 12 then 6
  else if type = 13 then 7
  else 0

/-- One flit with its LCTL and CRC (Table 16.1). -/
def flitBytes (ftype seq ack cvc ccnt : Nat) (body : List Byte) : List Byte :=
  let bs := leBytes 4 (ftype * 2 ^ 28 + seq % 1024 * 2 ^ 18 + ack % 1024 * 2 ^ 8 + cvc * 2 ^ 5 + ccnt) ++ sliceB body 0 64
  bs ++ leBytes 4 (crc32c bs).toNat

/-- Takes up to 31 credits that the link owes, of the first channel that has any, for the next flit (R331). -/
def Link.returnCredits (l : Link) : Nat × Nat × Link :=
  match (List.range 8).find? fun v => l.owed.getD v 0 != 0 with
  | some v => (v, min 31 (l.owed.getD v 0), { l with owed := l.owed.setIfInBounds v (l.owed.getD v 0 - min 31 (l.owed.getD v 0)) })
  | none => (0, 0, l)

/-- The last SEQ received good, which every flit acknowledges. -/
def Link.ack (l : Link) : Nat := (l.rxNext + 1023) % 1024

/-- The channels in the order of R331: 7, 6, then 0–5 in rotation after the one served last. -/
def channelOrder (turn : Nat) : List Nat := [7, 6] ++ (List.range 6).map fun i => (turn + 1 + i) % 6

/-- The first channel of a list with a flit to send and a credit. -/
def Link.pickFrom (l : Link) : List Nat → Option TxFlit
  | [] => none
  | v :: vs =>
    match l.txq.find? (·.vc == v) with
    | none => l.pickFrom vs
    | some x => if l.credits.getD v 0 ≠ 0 then some x else l.pickFrom vs

/-- The next waiting flit to send: channel 7 first, then 6, then 0–5 in rotation, each with a credit (R331). -/
def Link.pick (l : Link) : Option TxFlit := l.pickFrom (channelOrder l.turn)

/-- Sends waiting flits while a credit and room in the 512-flit retry buffer allow (R331, R332). -/
def Link.pump : Nat → Link → Link × List (List Byte)
  | 0, l => (l, [])
  | n + 1, l =>
    if 512 ≤ l.retry.length then (l, []) else
    match l.pick with
    | none => (l, [])
    | some x =>
      let (v, c, l) := l.returnCredits
      let seq := l.txSeq
      let f := flitBytes x.ftype seq l.ack v c x.body
      let l := { l with
        txq := l.txq.erase x, txSeq := (seq + 1) % 1024, retry := l.retry ++ [⟨seq, x.id, f⟩]
        credits := l.credits.setIfInBounds x.vc (l.credits.getD x.vc 0 - 1), turn := if x.vc < 6 then x.vc else l.turn }
      let r := Link.pump n l
      (r.1, f :: r.2)

/-- Whether the links of a half run: the mode lets them (R329) and Boom is enabled (R353). -/
def linksRun (s : State) (h : HalfId) : Bool :=
  s.flag h Reg.BOM_CTRL_EN && (match (s.half h).mode with | .boot | .run | .watch | .safe => true | .reset | .service => false)

/-- A Cruise message leaves a half, where its links run. -/
def sendCruise (s : State) (h : HalfId) (dst : Nat) (msg : CruMsg) : State := if linksRun s h then s.emit (.cruise h dst msg) else s

/-- Changes a link of a half. -/
def updLink (s : State) (h : HalfId) (l : Nat) (f : Link → Link) : State :=
  s.upd h fun x => { x with bom := { x.bom with
    links := x.bom.links.setIfInBounds l (f (x.bom.links.getD l Link.reset)) } }

/-- Every link of a half goes off, with no membership left: Service (R329), or BOM_CTRL.EN cleared (R353). -/
def linksOff (s : State) (h : HalfId) : State :=
  let s := (List.range 4).foldl (fun s l =>
    ((updLink s h l fun _ => Link.reset).clearBit h Reg.BOM_LINK_TRAINED l).clearBit h Reg.BOM_LINK_UP l) s
  s.setFld h Reg.BOM_ID_CSTATE 0

/-- The link numbered l. -/
def linkOf (s : State) (h : HalfId) (l : Nat) : Link := (s.half h).bom.links.getD l Link.reset

/-- Sends what a link may send now. -/
def pumpLink (s : State) (h : HalfId) (l : Nat) : State :=
  let k := linkOf s h l
  let r := k.pump k.txq.length
  r.2.foldl (fun s f => s.emit (.flit h l f)) (updLink s h l fun _ => r.1)

/-- Sends an idle flit that carries the acknowledgement and credits; its repetition while nothing changes is left out (log entry 144). -/
def sendIdle (s : State) (h : HalfId) (l : Nat) : State :=
  let (v, c, k) := (linkOf s h l).returnCredits
  (updLink s h l fun _ => k).emit (.flit h l (flitBytes 0 0 k.ack v c []))

/-- The flits of the retry buffer go again, counted (R332). -/
def replayLink (s : State) (h : HalfId) (l : Nat) : State :=
  let s := updLink s h l fun k => { k with replays := k.replays + 1 }
  let s := (linkOf s h l).retry.foldl (fun s f => s.emit (.flit h l f.bytes)) s
  pumpLink (s.incFld h Reg.BOM_CNT0_RETRY) h l

/-- Queues a packet's flits on a link and sends what may go; nothing goes where the links do not run. -/
def putOnLink (s : State) (h : HalfId) (port : Nat) (p : Packet) : State :=
  if !linksRun s h then s else
  let bs := packetBodies p
  let fl (id : Nat) : List TxFlit := (List.range bs.length).map fun i => ⟨if i = 0 then 1 else 2, p.vc.toNat, bs.getD i [], id⟩
  pumpLink (updLink s h port fun l => { l with txq := l.txq ++ fl l.ids, pkts := l.pkts ++ [(l.ids, p)], ids := l.ids + 1 }) h port

/-- A packet of this half toward a node, with the node epochs as its tables hold them. -/
def newPacket (s : State) (h : HalfId) (dst type info : Nat) (payload : List Byte) : Packet :=
  { dst := BitVec.ofNat 9 dst, src := BitVec.ofNat 9 (ownNode s h), depoch := BitVec.ofNat 4 (nodeState s h dst).2,
    sepoch := BitVec.ofNat 4 (ownEpoch s h), vc := BitVec.ofNat 3 (channelOf type), type := BitVec.ofNat 5 type, hops := 16,
    info := BitVec.ofNat 8 info, seq := 0, pos := 0, txn := 0, thread := 0, addr := 0, tags := 0, payload, port := 5 }

/-- A response to a request. -/
def answerTo (s : State) (h : HalfId) (req : Packet) (type status : Nat) (payload : List Byte) : Packet :=
  { newPacket s h req.src.toNat type status payload with
    depoch := req.sepoch, txn := req.txn, thread := req.thread, seq := req.seq, addr := req.addr, pos := req.pos }

/-- The NODE_UNREACHABLE answer to a request that is answered (R335, R344). -/
def unreachable (s : State) (h : HalfId) (p : Packet) : Option Packet :=
  let t := p.type.toNat
  if t = 7 then some (answerTo s h p 8 0x20 [])
  else if 1 ≤ t ∧ t ≤ 5 then some (answerTo s h p 6 0x20 [])
  else none

/-- Whether a half acts as a member: joined, or the type is one that any half may send (R338); an excluded half sends Cruise
alone (R339). -/
def maySend (s : State) (h : HalfId) (type : Nat) : Bool :=
  let c := s.fld h Reg.BOM_ID_CSTATE
  c == 2 || type == 12 || ((type == 11 || type == 13) && c != 3)

/-- A packet reaches a half's router (R335, R344): it is taken for the half, dropped, or forwarded with one hop less. Traffic of
a source that the half's table holds as DEAD goes no further, and is answered with EXCLUDED (R339). -/
def arrivePacket : Nat → State → HalfId → Packet → State
  | 0, s, _, _ => s
  | f + 1, s, h, p =>
    let refuse (s : State) : State :=
      match unreachable s h p with
      | some q => arrivePacket f s h { q with hops := 16, port := 5 }
      | none => s
    if p.hops = 0 then refuse (s.incFld h Reg.BOM_CNT1_HOPS_DROP)
    else if p.dst.toNat = ownNode s h ∨ p.dst = 511 then
      s.upd h fun x => { x with bom := { x.bom with rxq := x.bom.rxq ++ [p] } }
    else if !maySend s h p.type.toNat then s
    else if (nodeState s h p.src.toNat).1 = 2 then
      sendCruise (s.incFld h Reg.BOM_CNT1_STALE_DROP) h p.src.toNat .excluded
    else match routeTo s h p.dst.toNat with
      | none => refuse s
      | some port =>
        let q := { p with hops := p.hops - 1 }
        if port < 4 then putOnLink s h port q else arrivePacket f s h.other { q with port := 4 }

/-- Puts a packet of this half on a port: a link's, or the seam port, which hands it to the other half's router (R344). -/
def putOnPort (s : State) (h : HalfId) (port : Nat) (p : Packet) : State :=
  if port < 4 then putOnLink s h port p else arrivePacket 20 s h.other { p with port := 4 }

/-- Sends a packet from this half (R335, R344): `false` where its node has no usable route. A packet for this half goes
to its own queue. -/
def sendPacket (s : State) (h : HalfId) (p : Packet) : Bool × State :=
  let p := { p with hops := 16, vc := BitVec.ofNat 3 (channelOf p.type.toNat) }
  if p.dst.toNat = ownNode s h ∨ p.dst.toNat = 511 then
    (true, s.upd h fun x => { x with bom := { x.bom with rxq := x.bom.rxq ++ [{ p with port := 5 }] } })
  else if !maySend s h p.type.toNat then (false, s)
  else match routeTo s h p.dst.toNat with
    | none => (false, s)
    | some port => (true, putOnPort s h port p)

/-- The first transaction number from `n` on that no outstanding request has. -/
def freeTxn (os : List Outstanding) : Nat → Nat → Nat
  | 0, n => n
  | f + 1, n => if os.any (·.txn == n) then freeTxn os f ((n + 1) % 2048) else n

/-- Takes a transaction number for a request (Table 16.3): the next that is not outstanding. -/
def takeTxn (s : State) (h : HalfId) : Nat × State :=
  let n := freeTxn (s.half h).bom.outstanding 2048 (s.half h).bom.nextTxn
  (n, s.upd h fun x => { x with bom := { x.bom with nextTxn := (n + 1) % 2048 } })

/-- Sends a response to a request, along the request's way back. -/
def respond (s : State) (h : HalfId) (req : Packet) (type status : Nat) (payload : List Byte) : State :=
  (sendPacket s h (answerTo s h req type status payload)).2

-- committed effects (R348, R349; log entry 140)

/-- The node a queued effect goes to. A queued BOM_XSIG store has kind `setup`, its node in `addr` and its thread in
`thread`. -/
def Effect.node (e : Effect) : Nat := if e.kind = .setup then e.addr else e.auth.node

/-- The packet of a queued effect. A capability store goes as WR, the one type that carries a tag (log entry 26), and so does each further
run of bytes that merged into an effect (log entry 24). -/
def Effect.packet (s : State) (h : HalfId) (e : Effect) : Packet :=
  if e.kind = .setup then { newPacket s h e.node 5 0 [] with addr := BitVec.ofNat 64 e.thread }
  else
    let base (type info : Nat) (data : List Byte) : Packet :=
      { newPacket s h e.node type info (e.auth.bytes ++ data) with
        depoch := BitVec.ofNat 4 e.auth.epoch, seq := BitVec.ofNat 32 e.stepseq, pos := BitVec.ofNat 4 e.pos
        thread := BitVec.ofNat 17 e.thread, addr := BitVec.ofNat 64 e.addr }
    match e.datum with
    | some c => { base 2 (16 + 32) (leaveHalf s h c).bytes with tags := if (leaveHalf s h c).tag then 1 else 0, eff := some e.sub }
    | none =>
      if e.sub = 0 then base 4 0 (e.bytes.map (·.getD 0))
      else { base 2 0 (e.bytes.map (·.getD 0)) with eff := some e.sub }

/-- Whether a committed effect to a node is on its way and not answered. -/
def effectInFlight (s : State) (h : HalfId) (node : Nat) : Bool :=
  (s.half h).bom.outstanding.any fun o => o.core.isNone && o.pkt.dst.toNat == node && (o.pkt.type == 4 || o.pkt.type == 2 || o.pkt.type == 5)

/-- Whether a thread has a remote store that its home has not acknowledged (R180). -/
def remoteUnacked (s : State) (h : HalfId) (thread : Nat) : Bool :=
  (s.half h).bom.effects.any fun e => e.kind == .remote && e.thread == thread

/-- Whether one of them, queued or in a list, overlaps bytes at a node: the younger access waits for it (R180 item 2). -/
def remoteOverlap (es : List Effect) (thread node va n : Nat) : Bool :=
  es.any fun e => e.kind == .remote && e.thread == thread && e.auth.node == node && e.addr < va + n && va < e.addr + e.bytes.length

/-- Whether a queued effect is held back: its store carried RELEASE and an older remote store of its thread is not acknowledged
(R180 item 3). -/
def releaseWaits (q : List Effect) (e : Effect) : Bool :=
  e.release && (q.takeWhile (· != e)).any fun f => f.kind == .remote && f.thread == e.thread

/-- A committed store that was refused: its thread takes the fault when it next executes (R50, log entry 93). -/
def noteRefusedEffect (s : State) (h : HalfId) (thread vec origin detail va : Nat) : State :=
  s.upd h fun x => { x with fmn := { x.fmn with refused := x.fmn.refused ++ [⟨thread, vec, origin, detail, va⟩] } }

/-- Sends the next effect of each node that has none on its way; it leaves the queue when its response comes. -/
def pumpEffects : Nat → State → HalfId → State
  | 0, s, _ => s
  | n + 1, s, h =>
    let q := (s.half h).bom.effects
    match q.find? fun e => !effectInFlight s h e.node && (q.find? fun f => f.node == e.node) == some e && !releaseWaits q e with
    | none => s
    | some e =>
      let p := e.packet s h
      let (txn, s) := takeTxn s h
      let p := { p with txn := BitVec.ofNat 11 txn }
      match sendPacket s h p with
      | (true, s) =>
        pumpEffects n (s.upd h fun x => { x with bom := { x.bom with
          outstanding := x.bom.outstanding ++ [⟨txn, p, none, none⟩] } }) h
      | (false, s) =>
        let s := s.upd h fun x => { x with bom := { x.bom with effects := x.bom.effects.erase e } }
        pumpEffects n (if e.kind = .setup then s else noteRefusedEffect s h e.thread 7 5 2 e.addr) h

/-- Queues a committed effect for its node and sends what may be sent. -/
def queueEffect (s : State) (h : HalfId) (e : Effect) : State :=
  let s := s.upd h fun x => { x with bom := { x.bom with effects := x.bom.effects ++ [e] } }
  pumpEffects (s.half h).bom.effects.length s h

end Sys2Proof.Machine
end

