-- ==== Sys2Proof/Machine/Flags.lean ====
section
/-! DEFINITION. The status word of a core: its flags (Table 3.2), who reads and writes them while long operations of a
BULK thread are incomplete (R134, R135), and the flag computations that instructions share (R76, R77, Table 4.3). -/

namespace Sys2Proof.Machine

-- bit numbers of SW (Table 3.2)

abbrev fC : Nat := 0
abbrev fV : Nat := 1
abbrev fZ : Nat := 2
abbrev fN : Nat := 3
abbrev fH : Nat := 4
abbrev fD : Nat := 5

def Core.swBit (c : Core) (i : Nat) : Bool := c.sw.toNat.testBit i

/-- Sets or clears one bit of a word. -/
def setWordBit (w : Word) (i : Nat) (b : Bool) : Word :=
  if b then w ||| BitVec.ofNat 64 (2 ^ i) else w &&& ~~~(BitVec.ofNat 64 (2 ^ i))

/-- Sets SW bits by number. -/
def swWith (sw : Word) (fs : List (Nat × Bool)) : Word := fs.foldl (fun w f => setWordBit w f.1 f.2) sw

/-- Incomplete long operations no longer write these flags. -/
def Core.unflag (c : Core) (fs : List (Nat × Bool)) : Core :=
  { c with longOps := c.longOps.map fun o => { o with flags := o.flags.filter fun g => !(fs.any fun f => f.1 == g.1) } }

/-- Sets flags: an older incomplete long operation no longer writes the flags a younger instruction has set. -/
def Core.setFlags (c : Core) (fs : List (Nat × Bool)) : Core :=
  { c.unflag fs with sw := swWith c.sw fs }

/-- Condition codes (Table 4.3) on SW. -/
def condHolds (sw : Word) (cc : Nat) : Bool :=
  let b (i : Nat) : Bool := sw.toNat.testBit i
  match cc with
  | 0 => b fZ
  | 1 => !b fZ
  | 2 => b fC
  | 3 => !b fC
  | 4 => b fN
  | 5 => !b fN
  | 6 => b fV
  | 7 => !b fV
  | 8 => !b fC && !b fZ
  | 9 => b fC || b fZ
  | 10 => b fN == b fV
  | 11 => b fN != b fV
  | 12 => !b fZ && (b fN == b fV)
  | 13 => b fZ || (b fN != b fV)
  | 14 => true
  | _ => false

/-- N and Z of a w-bit result (R76). -/
def flagsNZ (w r : Nat) : List (Nat × Bool) := [(fN, r.testBit (w - 1)), (fZ, r % 2 ^ w == 0)]

/-- N, Z, and V and C as given: what moves, multiplies and divisions set. -/
def flagsNZVC (w r : Nat) (v c : Bool) : List (Nat × Bool) := flagsNZ w r ++ [(fV, v), (fC, c)]

/-- N, Z and V := 0, the flags of moves and logic (Table 4.1). -/
def flagsLogic (w r : Nat) : List (Nat × Bool) := flagsNZ w r ++ [(fV, false)]

/-- A w-bit result and the flags it sets. -/
abbrev Res := Nat × List (Nat × Bool)

/-- Sum of two w-bit values and an incoming carry, with N, Z, V, C, H and D := 0 (R76, R77, Table 4.2). -/
def addRes (w a b cin : Nat) : Res :=
  let a := a % 2 ^ w
  let b := b % 2 ^ w
  let t := a + b + cin
  let r := t % 2 ^ w
  let v := decide (signedOf w a + signedOf w b + cin ≠ signedOf w r)
  (r, flagsNZ w r ++ [(fV, v), (fC, decide (2 ^ w ≤ t)), (fH, decide (16 ≤ a % 16 + b % 16 + cin)), (fD, false)])

/-- Difference of two w-bit values and an incoming borrow, with N, Z, V, C, H and D := 1 (R76, R77, Table 4.2). -/
def subRes (w a b bin : Nat) : Res :=
  let a := a % 2 ^ w
  let b := b % 2 ^ w
  let r := (a + 2 ^ w + 2 ^ w - b - bin) % 2 ^ w
  let v := decide (signedOf w a - signedOf w b - bin ≠ signedOf w r)
  (r, flagsNZ w r ++ [(fV, v), (fC, decide (a < b + bin)), (fH, decide (a % 16 < b % 16 + bin)), (fD, true)])

/-- A result's flags without one of them. -/
def Res.without (r : Res) (i : Nat) : Res := (r.1, r.2.filter fun f => f.1 != i)

/-- Flags of a comparison (Table 4.8): less, equal, greater, or unordered. -/
def flagsCompare (o : Option Ordering) : List (Nat × Bool) :=
  match o with
  | some .lt => [(fN, true), (fZ, false), (fV, false), (fC, true)]
  | some .eq => [(fN, false), (fZ, true), (fV, false), (fC, false)]
  | some .gt => [(fN, false), (fZ, false), (fV, false), (fC, false)]
  | none => [(fN, false), (fZ, false), (fV, true), (fC, true)]

end Sys2Proof.Machine
end

