-- ==== Sys2Proof/Machine/RingOps.lean ====
section
/-! DEFINITION. Descriptor rings: contexts and indices (R310–R313), reservation and completion (R318–R320), group parts
(R326) and deduplication (R327). -/

namespace Sys2Proof.Machine

/-- What a ring number reads as that nothing created. -/
def ringDefault : Nat → Option Ring := fun _ => none

/-- The ring named, where it is created. -/
def ringOf (s : State) (h : HalfId) (n : Nat) : Option Ring := SMap.get ringDefault (s.half h).hif.rings n

def setRing (s : State) (h : HalfId) (n : Nat) (r : Option Ring) : State :=
  s.upd h fun x => { x with hif := { x.hif with rings := SMap.set ringDefault x.hif.rings n r } }

/-- A read of a ring's context from its store: whether it comes poisoned (R169; log entry 98). -/
def readRing (s : State) (h : HalfId) (n : Nat) : Bool × State :=
  if (s.half h).sram.isEmpty then (false, s) else readUnit s h 5 (64 * n) 64

/-- Entries a ring holds between two indices (R310). -/
def ringHolds (prod cons : Nat) : Nat := (prod + 0x10000 - cons % 0x10000) % 0x10000

/-- The reply area of a ring: log2 size, base, producer, consumer, and the records written since creation. For ring 0 it
is the second area; for a reply ring the ring itself. -/
structure ReplyArea where
  base : Nat
  log2 : Nat
  prod : Nat
  cons : Nat
  written : Nat

def Ring.area (r : Ring) : ReplyArea :=
  if r.isCmd then ⟨r.rbase, r.rlog2, r.rprod, r.rcons, r.written⟩ else ⟨r.base, r.log2, r.prod, r.cons, r.written⟩

/-- Whether a ring takes reply records: ring 0 and every reply ring. -/
def Ring.takesReplies (r : Ring) : Bool := r.isReply

/-- Free slots of a reply area. -/
def Ring.freeSlots (r : Ring) : Nat := 2 ^ r.area.log2 - 1 - ringHolds r.area.prod r.area.cons

/-- Counts one more record written. -/
def Ring.advance (r : Ring) : Ring :=
  let r := { r with written := r.written + 1 }
  if r.isCmd then { r with rprod := (r.rprod + 1) % 0x10000 } else { r with prod := (r.prod + 1) % 0x10000 }

/-- The reply ring of a command ring: ring 0 replies into its own reply area (R313). -/
def replyRingOf (n : Nat) (r : Ring) : Nat := if n = 0 then 0 else r.reply

/-- The in-flight entry of a tag. -/
def inFlight (s : State) (h : HalfId) (tag : Nat) : Option InFlight := (s.half h).hif.inflight.find? (·.tag == tag)

def setInFlight (s : State) (h : HalfId) (tag : Nat) (f : InFlight → InFlight) : State :=
  s.upd h fun x => { x with hif := { x.hif with inflight := x.hif.inflight.map fun e => if e.tag = tag then f e else e } }

-- descriptor fields (Table 15.4)

def dCmdid (d : List Byte) : Nat := fieldLE d 0 8
def dOp (d : List Byte) : Nat := fieldLE d 0x0A 1
def dFlags (d : List Byte) : Nat := fieldLE d 0x0B 1
def dFormat (d : List Byte) : Nat := fieldLE d 0x0E 2
def dTarget (d : List Byte) : Nat := fieldLE d 0x10 4
def dLen (d : List Byte) : Nat := fieldLE d 0x14 4
def dPaddr (d : List Byte) : Nat := fieldLE d 0x18 8
def dSilent (d : List Byte) : Bool := (dFlags d).testBit 6

/-- Queues a record for a reply ring; where the ring does not exist it is discarded and counted (R308). Notices for ring 0
wait for its creation (R405). -/
def queueRecord (s : State) (h : HalfId) (r : WaitRec) : State :=
  match ringOf s h r.ring with
  | some x => if x.takesReplies then
      s.upd h fun y => { y with hif := { y.hif with waiting := y.hif.waiting ++ [r] } }
    else hifCount s h Reg.HIF_CNT_NORING
  | none => hifCount s h Reg.HIF_CNT_NORING

/-- Whether a reply ring takes another record that reserved no slot: its free slots are not all owed to waiting ones (R16, R220). -/
def ringRoom (s : State) (h : HalfId) (n : Nat) : Bool :=
  match ringOf s h n with
  | some r => !r.takesReplies ||
      decide (((s.half h).hif.waiting.filter fun w => w.ring == n && w.tag.isNone).length + r.reserved < r.freeSlots)
  | none => true

/-- A completion record (Table 15.8, RKIND 1); consumer index, PHASE and ATTN are set when it is written. -/
def completionBytes (cmdid part result status ring : Nat) : List Byte :=
  leBytes 8 cmdid ++ leBytes 8 part ++ leBytes 4 result ++ leBytes 4 0 ++ leBytes 4 (ring % 0x20000) ++
  leBytes 2 status ++ [0x41, 0]

/-- A session status record (Table 15.8, RKIND 2). -/
def sessionRecord (time rebinds code session status : Nat) : List Byte :=
  leBytes 8 0 ++ leBytes 8 time ++ leBytes 4 rebinds ++ leBytes 4 code ++ leBytes 4 session ++ leBytes 2 status ++ [0x42, 0]

/-- The deduplication entry of a command or of a part of another node's command (R327). -/
def dedupFind (s : State) (h : HalfId) (cmdid : Nat) (origin : Option (Nat × Nat)) : Option Dedup :=
  (s.half h).hif.dedup.find? fun d => d.cmdid.toNat == cmdid && d.origin == origin

def dedupUpd (s : State) (h : HalfId) (cmdid : Nat) (origin : Option (Nat × Nat)) (f : Dedup → Dedup) : State :=
  s.upd h fun x => { x with hif := { x.hif with
    dedup := x.hif.dedup.map fun d => if d.cmdid.toNat = cmdid ∧ d.origin = origin then f d else d } }

/-- Takes a descriptor out of flight: its record is written, or none is. Until then a command with its CMDID finds it in flight (R327). -/
def dropInFlight (s : State) (h : HalfId) (tag : Nat) : State :=
  let s := match inFlight s h tag with
    | some e => if e.owns then dedupUpd s h (dCmdid e.desc) none fun d => { d with busy := false, doneAt := some s.elapsed } else s
    | none => s
  s.upd h fun x => { x with hif := { x.hif with inflight := x.hif.inflight.filter (·.tag != tag) } }

/-- Completes an in-flight descriptor (R318) with a status word and a completion record. A command that succeeds with
SILENT = 1 releases its reservation without a record. A tag that is not in flight any more (R308) is discarded and counted.
`part` = what a GROUP's deduplication entry takes. -/
def completeRecord (s : State) (h : HalfId) (tag status part : Nat) (bytes : List Byte) : State :=
  match inFlight s h tag with
  | none => hifCount s h Reg.HIF_CNT_NORING
  | some e =>
    let s := if !e.owns then s
      else dedupUpd s h (dCmdid e.desc) none fun d =>
        { d with mask := if dOp e.desc = 0x13 then d.mask ||| part else if status < 0x100 then d.mask ||| 1 else d.mask }
    match ringOf s h e.ring with
    | none => hifCount (dropInFlight s h tag) h Reg.HIF_CNT_NORING
    | some r =>
      let rr := replyRingOf e.ring r
      if dSilent e.desc && status < 0x100 then
        match ringOf s h rr with
        | some x => dropInFlight (setRing s h rr (some { x with reserved := x.reserved - 1 })) h tag
        | none => dropInFlight s h tag
      else queueRecord s h ⟨rr, bytes, some tag, none, false⟩

/-- Completes with a status word, an 8-byte part field and a 4-byte result. -/
def completeWith (s : State) (h : HalfId) (tag status part result : Nat) : State :=
  match inFlight s h tag with
  | none => hifCount s h Reg.HIF_CNT_NORING
  | some e => completeRecord s h tag status part (completionBytes (dCmdid e.desc) part result status e.ring)

/-- Completes with a status word alone. -/
def complete (s : State) (h : HalfId) (tag status : Nat) : State := completeWith s h tag status 0 0

/-- Words of a part's ends: bit k set where part k succeeded (R326). -/
def partMask (ps : List (Option Nat)) : Nat :=
  (List.range ps.length).foldl (fun a k => match ps.getD k none with | some st => if st < 0x100 then a + 2 ^ k else a | none => a) 0

/-- A group's part ends: its status goes into the part list in host memory, and when every part has ended the group
completes, OK or PARTIAL (R326). -/
def partEnd (s : State) (h : HalfId) (tag k status : Nat) : State :=
  match inFlight s h tag with
  | none => hifCount s h Reg.HIF_CNT_NORING
  | some e =>
    match e.parts[k]? with
    | some none =>
      let parts := e.parts.set k (some status)
      let s := hostWrite s (dPaddr e.desc + 32 * k + 0x0E) (leBytes 2 status)
      let s := setInFlight s h tag fun x => { x with parts }
      if parts.all Option.isSome then
        let run := partMask parts
        let all := parts.all fun p => match p with | some st => st < 0x100 | none => false
        completeWith s h tag (if all then 0 else statusOf 2 0x10) run 0
      else s
    | _ => s

/-- The end of a frame request, told to where it came from (R315, R321, R326). -/
def endRequest (s : State) (h : HalfId) (src : ReqFrom) (status : Nat) : State :=
  match src with
  | .command tag none => complete s h tag status
  | .command tag (some k) => partEnd s h tag k status
  | .post _ cmdid ring silent =>
    if silent && status < 0x100 then s
    else queueRecord s h ⟨ring, completionBytes cmdid.toNat 0 0 status 0, none, none, true⟩
  | .remote node cmdid part =>
    let s := dedupUpd s h cmdid.toNat (some (node, part)) fun d =>
      { d with busy := false, doneAt := some s.elapsed, mask := status }
    (sendPacket s h { newPacket s h node 8 0 (leBytes 2 status) with addr := cmdid, seq := BitVec.ofNat 32 part }).2

/-- Word k of the MSI-X table, without its mask bit: address in word 2v, data below the vector control in word 2v + 1. -/
def msixWord (s : State) (h : HalfId) (k : Nat) : Word := SMap.get (fun _ => 0) (s.half h).hif.msixTable k

/-- The MSI-X write of a vector: the table's data to the table's address. -/
def sendMsix (s : State) (h : HalfId) (vec : Nat) : State :=
  s.emit (.msix h vec (msixWord s h (2 * vec)) ((msixWord s h (2 * vec + 1)).toNat % 2 ^ 32))

/-- Signals a ring's vector (R325): MSI-X write, or its pending bit while it is masked. -/
def signalVector (s : State) (h : HalfId) (vec : Nat) : State :=
  if (s.half h).hif.msixOn.contains vec then sendMsix s h vec
  else s.upd h fun x => { x with hif := { x.hif with msixPend := x.hif.msixPend.add vec } }

/-- Counts a record toward the ring's moderation and signals when it is due (R325). -/
def moderate (s : State) (h : HalfId) (n : Nat) : State :=
  match ringOf s h n with
  | none => s
  | some r =>
    let r := { r with unsignalled := r.unsignalled + 1, firstAt := some (r.firstAt.getD s.elapsed) }
    if r.vecOn && (r.modCount ≤ r.unsignalled || r.modUs = 0) then
      signalVector (setRing s h n (some { r with unsignalled := 0, firstAt := none })) h r.vec
    else setRing s h n (some r)

/-- Writes one record into the next slot of a ring's reply area: PHASE and ATTN are set here (R312, R319, R322). A notice
keeps the ATTN of its cause (Table 15.8), which is 15 in Safe (R322). -/
def writeRecord (s : State) (h : HalfId) (n : Nat) (bytes : List Byte) : State :=
  match ringOf s h n with
  | none => s
  | some r =>
    let a := r.area
    let ctl := (fieldLE bytes 0x1E 1).testBit 6
    let b1e := fieldLE bytes 0x1E 1 % 128 + phaseOf a.log2 a.written * 128
    let bytes := patchB bytes 0x1E [BitVec.ofNat 8 b1e]
    let attn := if fieldLE bytes 0x1E 1 % 128 = 0x43 ∧ (s.half h).mode ≠ .safe then fieldLE bytes 0x1D 1 / 16 else attnValue s h
    let bytes := if ctl then patchB bytes 0x1D [BitVec.ofNat 8 (fieldLE bytes 0x1D 1 % 16 + attn * 16)]
                 else patchB bytes 0x1C [BitVec.ofNat 8 (fieldLE bytes 0x1C 1 % 16 + attnValue s h * 16)]
    let s := hostWrite s (a.base + 32 * (a.prod % 2 ^ a.log2)) bytes
    moderate (setRing s h n (some r.advance)) h n

/-- The first waiting record of a ring that may be written now: one with a reserved slot, or one that finds a free slot
not reserved (R318). Records that wait for free slots go in the order they came (R19). -/
def nextRecord (s : State) (h : HalfId) (n : Nat) (r : Ring) : Option WaitRec :=
  (s.half h).hif.waiting.find? fun w => w.ring == n && (w.tag.isSome || r.reserved < r.freeSlots)

/-- Writes the next waiting record of a ring (R312, R318, R319): nothing happens where none may be written, or where the ring's context
comes poisoned (log entry 98). -/
def writeNext (s : State) (h : HalfId) (n : Nat) : State :=
  let q := readRing s h n
  let s := q.2
  match (if q.1 then none else ringOf s h n) with
  | none => s
  | some r =>
    match nextRecord s h n r with
    | none => s
    | some w =>
      let s := s.upd h fun x => { x with hif := { x.hif with waiting := x.hif.waiting.erase w } }
      match w.tag with
      | none => writeRecord s h n w.bytes
      | some tag =>
        let s := setRing s h n (some { r with reserved := r.reserved - 1 })
        let cons := match inFlight s h tag with
          | some e => (match ringOf s h e.ring with | some c => c.cons | none => 0)
          | none => 0
        writeRecord (dropInFlight s h tag) h n (patchB w.bytes 0x16 (leBytes 2 cons))

end Sys2Proof.Machine
end

