-- ==== Sys2Proof/Machine/Threads.lean ====
section
/-! DEFINITION. The Foreman's thread operations: what it reads of a record (R196), starting, aborting and freeing a
thread (R212, R213), and who may take a READY thread (R201). -/

namespace Sys2Proof.Machine

-- SCHED fields (Table 10.2)

def Thread.prio (x : Thread) : Nat := nbits x.sched.toNat 60 57
def Thread.ctl (x : Thread) : Bool := x.sched.toNat.testBit 56
def Thread.quiet (x : Thread) : Bool := x.sched.toNat.testBit 55
def Thread.nr (x : Thread) : Bool := x.sched.toNat.testBit 54
def Thread.pin (x : Thread) : Bool := x.sched.toNat.testBit 53
def Thread.coreNo (x : Thread) : Nat := nbits x.sched.toNat 52 50
def Thread.gmask (x : Thread) : Nat := nbits x.sched.toNat 49 34
def Thread.comp (x : Thread) : Nat := nbits x.sched.toNat 16 0

/-- Reads a thread's SCHED fields and MASK from its record, as the Foreman does at START and at each commit point (R196). -/
def refreshThread (s : State) (h : HalfId) (t : Nat) : State :=
  let r := unitRead s h 0x45 (recordAddr s h t + 0xF0) 16
  let s := r.2
  let x := s.thread h t
  s.upd h fun y => { y with fmn := { y.fmn with
    threads := SMap.set threadDefault y.fmn.threads t
      { x with sched := BitVec.ofNat 64 (fieldLE r.1.bytes 0 8), mask := BitVec.ofNat 16 (fieldLE r.1.bytes 10 2) } } }

/-- Whether a DELIVER is in flight for thread t: delivered to it or accepted for it, with no completion record waiting. -/
def deliversTo (s : State) (h : HalfId) (t : Nat) (e : InFlight) : Bool :=
  dOp e.desc == 0x11 && (e.thread == some t || (e.thread.isNone && dTarget e.desc == t)) &&
    !((s.half h).hif.waiting.any fun w => w.tag == some e.tag)

/-- Completes a thread's in-flight DELIVER commands with a status (R213, R320, R365). -/
def endDelivers (s : State) (h : HalfId) (t status : Nat) : State :=
  ((s.half h).hif.inflight.filter (deliversTo s h t)).foldl (fun s e => complete s h e.tag status) s

/-- Tells the other members of a compartment that one was aborted, through FAULT (Table 10.4, log entry 17). -/
def tellCompartment (s : State) (h : HalfId) (t : Nat) : State :=
  let c := (s.thread h t).comp
  ((s.half h).fmn.threads.filter fun p =>
    p.1 != t && p.2.comp == c && p.2.state != .free && p.2.state != .aborted).foldl (fun s p => fmnEvent s h p.1 6) s

/-- A thread becomes ABORTED: it leaves the ready order, its PEND is cleared and its timer cancelled (R213). -/
def becomeAborted (s : State) (h : HalfId) (t status : Nat) : State :=
  let x := s.thread h t
  let s := s.setThread h t { x with
    state := .aborted, pend := 0, timer := none, abortAtCommit := false, restart := false, rolled := false }
  tellCompartment (endDelivers s h t status) h t

/-- START (R198, R213). While the read of its record is held for a disabled group, the command waits (R191, R196). -/
def startThread (s : State) (h : HalfId) (t : Nat) : State :=
  if (s.thread h t).state = .free then
    let r := refreshThread s h t
    if (r.half h).bnd.holds = (s.half h).bnd.holds then
      let x := r.thread h t
      let r := r.upd h fun y => { y with fmn := { y.fmn with refused := y.fmn.refused.filter (·.thread != t) } }
      makeReady r h t { x with pend := x.pend ||| 0x80, restart := false, rolled := false }
    else (unitCmd h (fun s => refreshThread s h t) s).upd h fun y => { y with fmn := { y.fmn with cmds := y.fmn.cmds ++ [(1, t)] } }
  else s.incFld h Reg.FMN_CNT_CMD_IGN

/-- ABORT of one thread, where it applies (R212, R213). -/
def abortOne (s : State) (h : HalfId) (t : Nat) : State :=
  let x := s.thread h t
  match x.state with
  | .waiting | .ready => becomeAborted s h t (statusOf 7 1)
  | .running => s.upd h fun y => { y with fmn := { y.fmn with
      threads := SMap.set threadDefault y.fmn.threads t { x with abortAtCommit := true } } }
  | .free | .aborted => s

/-- ABORT thread, ignored and counted for a FREE or ABORTED one (R213). -/
def abortThreadCmd (s : State) (h : HalfId) (t : Nat) : State :=
  if (s.thread h t).state = .free ∨ (s.thread h t).state = .aborted then s.incFld h Reg.FMN_CNT_CMD_IGN
  else abortOne s h t

/-- ABORT compartment (R213). -/
def abortCompartmentCmd (s : State) (h : HalfId) (c : Nat) : State :=
  ((s.half h).fmn.threads.filter fun p => p.2.comp == c).foldl (fun s p => abortOne s h p.1) s

/-- FREE (R213). -/
def freeThread (s : State) (h : HalfId) (t : Nat) : State :=
  let x := s.thread h t
  if x.state = .aborted then s.setThread h t { x with state := .free } else s.incFld h Reg.FMN_CNT_CMD_IGN

/-- FMN_CMD (Table 10.12): the operation by its number. -/
def fmnCommand (s : State) (h : HalfId) (op arg : Nat) : State :=
  match op with
  | 1 => startThread s h arg
  | 2 => abortThreadCmd s h arg
  | 3 => abortCompartmentCmd s h arg
  | 4 => freeThread s h arg
  | _ => s

/-- Makes the Foreman's accesses again that were held: the writes owed to records, then the commands that wait (R191). -/
def retryForeman (h : HalfId) (s : State) : State :=
  let s := writeOwed h s
  let cs := (s.half h).fmn.cmds
  cs.foldl (fun s c => fmnCommand s h c.1 c.2) (s.upd h fun y => { y with fmn := { y.fmn with cmds := [] } })

/-- The logical grove a physical grove stands for (R201): itself, or for the spare the one FMN_GROVE.SPARE_AS names;
during a self-test window the spare carries each logical grove of the group under test. -/
def logicalGroves (s : State) (h : HalfId) (g : Nat) : List Nat :=
  if g < 16 then [g]
  else if s.fld h Reg.FMN_GROVE_SPARE_AS < 16 then [s.fld h Reg.FMN_GROVE_SPARE_AS]
  else if (s.half h).flt.phase = .drain ∨ (s.half h).flt.phase = .test then (s.half h).flt.testing
  else []

/-- State of a physical grove: 0 active, 1 testing, 2 spare, 3 fenced (FLT_GSTAT). -/
def groveState (s : State) (h : HalfId) (g : Nat) : Nat := nbits (s.fld h Reg.FLT_GSTAT_STATE) (2 * g + 1) (2 * g)

def setGroveState (s : State) (h : HalfId) (g v : Nat) : State :=
  s.setFld h { Reg.FLT_GSTAT_STATE with hi := 2 * g + 1, lo := 2 * g } v

/-- Whether a grove's own self-test window has it drained or tested (R362): until the return phase it takes no thread. -/
def inOwnTest (s : State) (h : HalfId) (g : Nat) : Bool :=
  let x := (s.half h).flt
  (x.phase == .drain || x.phase == .test) && x.testing.contains g

/-- Whether a grove takes threads (R201, R144): not draining, ready when paced, not fenced, not in its own test. -/
def groveTakes (s : State) (h : HalfId) (g : Nat) : Bool :=
  !(s.fld h Reg.FMN_GROVE_DRAIN).testBit g &&
  (!s.flag h (Reg.GRV_MODE_PACED.grove g) || s.flag h (Reg.GRV_PSTAT_READY.grove g)) &&
  groveState s h g != 3 && groveState s h g != 1 && !(s.fld h Reg.BND_FENCE_FENCE).testBit g &&
  !inOwnTest s h g

/-- Whether a core may take a READY thread (R201, R363): a thread that may not be placed on the spare during a window is
kept from it. -/
def coreMayTake (s : State) (k : CoreId) (x : Thread) : Bool :=
  x.state == .ready && (logicalGroves s k.half k.grove.val).any (fun g => x.gmask.testBit g) &&
  (!x.pin || x.coreNo == k.core.val) &&
  !(x.nr && k.grove.val == 16 && s.fld k.half Reg.FMN_GROVE_SPARE_AS == 31)

/-- The READY thread a free core takes: the most urgent, and among equals the first to become READY (R201). -/
def pickThread (s : State) (k : CoreId) : Option Nat :=
  let ts := (s.half k.half).fmn.threads.filter fun p => coreMayTake s k p.2
  (ts.foldl (fun (best : Option (Nat × Thread)) p =>
    match best with
    | none => some p
    | some b => if p.2.prio < b.2.prio ∨ (p.2.prio = b.2.prio ∧ p.2.order < b.2.order) then some p else best) none).map (·.1)

end Sys2Proof.Machine
end

