-- ==== Sys2Proof/Machine/FaultOps.lean ====
section
/-! DEFINITION. Fault-manager operations that other units call: trace entries (R434), the charge latch (R369), pins and modes
(R402, R415), Safe entry (R374), heartbeats (R340), the guarantee's conditions (R356) and zeroisation (R260). -/

namespace Sys2Proof.Machine

/-- One entry of the trace buffer (R434): the timebase and the target cursor of a taken transfer or trap entry of the traced
core. -/
def traceEntry (k : CoreId) (target : Nat) (s : State) : State :=
  let h := k.half
  if !s.flag h Reg.DBG_TRACE_CTRL_EN ∨ s.fld h Reg.DBG_TRACE_CTRL_CORE ≠ k.num then s else
  let p := s.fld h Reg.DBG_TRACE_PTR_PTR
  let s := unitPost s h 0x4D (s.fld h Reg.DBG_TRACE_BASE_BASE * 0x100000 + p) (leBytes 8 s.timebase.toNat ++ leBytes 8 (target % 2 ^ 55))
  let s := s.setFld h Reg.DBG_TRACE_PTR_PTR ((p + 16) % 0x100000)
  if 0x100000 ≤ p + 16 then s.incFld h Reg.DBG_TRACE_PTR_WRAPS else s

/-- Whether this half's Warden holds the charge latch. -/
def holdsLatch (s : State) (h : HalfId) : Bool := s.latch == some h

/-- A latch-protected write by a master that is not the Warden with the latch: dropped, counted and recorded (R369). -/
def latchDrop (s : State) (h : HalfId) (mid addr : Nat) : State :=
  let r := midRegion h mid
  record (s.incFld h Reg.FLT_CNT1_LATCH_DROP) h { code := 0x41, region := r.1, index := r.2, mid, address := addr }

/-- FAULT_N and SAFE_OUT as Table 19.4 drives them: both halves in Run or Watch, or else the Safe levels. -/
def refreshPins (s : State) : State :=
  let ok (m : Mode) : Bool := m == .run || m == .watch
  let up := ok s.east.mode && ok s.west.mode
  { s with faultN := up, safeOut := !up }

/-- A half's eviction key, drawn from its DRBG when Boot ends, where the DRBG serves (R251, R259). -/
def drawEvictKey (s : State) (h : HalfId) : State :=
  if (s.half h).kln.drbg && !s.flag h Reg.KLN_STAT_ENT_FAIL then
    { s with freeCount := s.freeCount + 1 }.upd h fun x => { x with
      kln := { x.kln with
        evictKey := some ((List.range 32).map (Config.random s.freeCount)), drbgRequests := x.kln.drbgRequests + 1 } }
  else s

/-- Puts a half in a mode, with PWR_STAT.MODE as Table 19.6 codes it. -/
def setMode (s : State) (h : HalfId) (m : Mode) : State :=
  let s := if (s.half h).mode = .boot ∧ m ≠ .boot ∧ m ≠ .reset then drawEvictKey s h else s
  let code := match m with | .reset => 1 | .boot => 1 | .run => 2 | .watch => 3 | .safe => 4 | .service => 5
  refreshPins ((s.upd h fun x => { x with mode := m }).setFld h Reg.PWR_STAT_MODE code)

/-- The device's mode: that of the half whose Warden holds the latch, East's where none does (R402, log entry 18). -/
def deviceMode (s : State) : Mode :=
  match s.latch with
  | some h => (s.half h).mode
  | none => s.east.mode

/-- Whether the time base stands still (R374). -/
def timeNow (s : State) : Nat := s.timebase.toNat

/-- Sends one HB to a node (R340): sequence, last sequence received from the buddy, FGEN, flags. -/
def sendHb (s : State) (h : HalfId) (dst : Nat) (toBuddy : Bool) (flags : Nat) : State :=
  let seq := (SMap.get (fun _ => 0) (s.half h).bom.hbSeq dst + 1) % 2 ^ 32
  let s := s.upd h fun x => { x with bom := { x.bom with hbSeq := SMap.set (fun _ => 0) x.bom.hbSeq dst seq } }
  let pl := leBytes 4 seq ++ leBytes 4 (if toBuddy then (s.half h).bom.buddySeen else 0) ++
    leBytes 2 (s.fld h Reg.BOM_ID_FGEN) ++ [BitVec.ofNat 8 flags] ++ zerosB 5
  (sendPacket s h (newPacket s h dst 13 0 pl)).2

/-- The HBs by which a half announces that it enters Safe or Reset: to the root and to its buddy (R339, R340, R352). -/
def announceSafe (s : State) (h : HalfId) : State :=
  if s.fld h Reg.BOM_ID_CSTATE ≠ 2 then s else
  let s := sendHb s h (s.fld h Reg.BOM_ID_ROOT) false 2
  if s.flag h Reg.BOM_CFG_BV then sendHb s h (s.fld h Reg.BOM_CFG_BUDDY) true 2 else s

/-- Halts every core of a half that is not held already. -/
def haltCores (s : State) (h : HalfId) : State :=
  s.upd h fun x => { x with cores := SMap.change coreDefault (fun _ c => { c with run := .held }) x.cores }

/-- A half enters Safe (R374): its cores halt, it announces Safe, the pins show it and SAFE_ENTRY is recorded. Safe, Service
and Reset are not left so (Table 19.1). -/
def enterSafe (s : State) (h : HalfId) (region index outcome : Nat) : State :=
  if (s.half h).mode = .safe ∨ (s.half h).mode = .service ∨ (s.half h).mode = .reset then s else
  let s := announceSafe (haltCores (setMode (s.upd h fun x => { x with safeDue := none }) h .safe) h) h
  record s h { code := 0x61, region, index, outcome }

/-- The device enters Safe: both halves do (R374). -/
def enterSafeDevice (s : State) (region index : Nat) : State :=
  enterSafe (enterSafe s .east region index 4) .west region index 4

/-- Whether a fault of a half can lead to Safe: it is in Run, or on its way there. -/
def towardRun (s : State) (h : HalfId) : Bool := s.inMode h .run || s.inMode h .watch || s.inMode h .boot

/-- OUTCOME of a record whose fault leads to Safe (R438): 5 where the half's mode has no way there. -/
def safeOutcome (s : State) (h : HalfId) (o : Nat) : Nat := if towardRun s h then o else 5

/-- Safe entry on the grounds of R374. Table 19.1 has it from Run alone; a fault in Watch or Boot brings it as soon as Run is reached
(R403; log entry 36). -/
def faultSafe (s : State) (h : HalfId) (region index outcome : Nat) : State :=
  if s.inMode h .run then enterSafe s h region index outcome
  else if towardRun s h && (s.half h).safeDue.isNone then
    s.upd h fun x => { x with safeDue := some (region, index, outcome) }
  else s

/-- A Safe entry that was due before Run was reached (R403). -/
def safeNow (s : State) (h : HalfId) : State :=
  match (s.half h).safeDue with
  | none => s
  | some (region, index, outcome) => enterSafe s h region index outcome

/-- The device enters Safe on the grounds of R374. -/
def faultSafeDevice (s : State) (region index : Nat) : State :=
  faultSafe (faultSafe s .east region index 4) .west region index 4

/-- Groves of the rotation groups (Table 17.2); window 6 tests the spare, window 7 the postponed groves. -/
def windowGroves (s : State) (h : HalfId) (w : Nat) : List Nat :=
  match w with
  | 0 => [0, 6, 12]
  | 1 => [1, 7, 13]
  | 2 => [2, 8, 14]
  | 3 => [3, 9, 15]
  | 4 => [4, 10]
  | 5 => [5, 11]
  | 6 => [16]
  | _ => (List.range 16).filter fun g => (s.fld h Reg.FLT_ROT_POSTPONED).testBit g

/-- Paced code and data areas of a grove, KiB. -/
def pacedKib (s : State) (h : HalfId) (g : Nat) : Nat :=
  if s.flag h (Reg.GRV_MODE_PACED.grove g) then
    s.fld h (Reg.GRV_PCODE_CODE_KIB.grove g) + s.fld h (Reg.GRV_PDATA_DATA_KIB.grove g) else 0

/-- Whether the rotation groups meet R362. -/
def groupsOk (s : State) (h : HalfId) : Bool :=
  (List.range 6).all fun w =>
    let gs := windowGroves s h w
    let paced := gs.map fun g => s.flag h (Reg.GRV_MODE_PACED.grove g)
    (paced.all id || paced.all (!·)) && (gs.map (pacedKib s h)).sum ≤ 1984

/-- The six conditions of R356, SPARE_OK in bit 0 to GROUP_OK in bit 5. The standby Warden's lockstep self-check counts as passed, and its
mirrored state as current, while neither Warden is held and both halves are out of Reset (log entry 145). -/
def guarBits (s : State) (h : HalfId) : Nat :=
  let spare := s.fld h Reg.FMN_GROVE_SPARE_AS == 31 && groveState s h 16 != 3 && !(s.half h).flt.testBad.contains 16 &&
    SMap.get (fun _ => 0) (s.half h).flt.tested 16 != 0
  let mv := s.fld h Reg.PWR_STAT_VDD_MV
  let tj := signedOf 16 (s.fld h Reg.PWR_STAT_TJ)
  let order := s.fld .east Reg.IDV_DEVICE_ORDER
  let cond := 720 ≤ mv && mv ≤ 880 &&
    (if order = 2 then decide (0 ≤ tj) && decide (tj ≤ 380) else decide (-160 ≤ tj) && decide (tj ≤ 420))
  let limit := if s.fld h Reg.FLT_ROT_WINDOW = 15 then 48375000 else 4375000
  let rot := s.flag h Reg.FLT_ROT_EN && (List.range 17).all fun g =>
    groveState s h g == 3 ||
      (let t := SMap.get (fun _ => 0) (s.half h).flt.tested g
       t != 0 && s.elapsed ≤ t - 1 + limit && !(s.half h).flt.testBad.contains g)
  let scrub := s.fld h ⟨2, 0x58, 2, 0⟩ == 0
  let latch := s.latch.isSome && !s.east.wardenHeld && !s.west.wardenHeld && s.seamUp && !s.inMode .east .reset && !s.inMode .west .reset
  b2n spare + 2 * b2n cond + 4 * b2n rot + 8 * b2n scrub + 16 * b2n latch + 32 * b2n (groupsOk s h)

/-- Brings FLT_GUAR up to date, writing a COND_LOST record for each bit that falls (R356); AUX names the bit. -/
def updateGuar (s : State) (h : HalfId) : State :=
  let old := s.fld h ⟨2, 0, 7, 0⟩
  let six := guarBits s h
  let degr := b2n (six / 2 == 31)
  let guar := b2n (six == 63)
  let new := six + 64 * guar + 128 * degr
  let s := s.setFld h ⟨2, 0, 7, 0⟩ new
  (List.range 8).foldl (fun s i =>
    if old.testBit i && !new.testBit i then record s h { code := 0x60, aux := i } else s) s

/-- Whether a grove's MIDs are fenced already. -/
def fenced (s : State) (h : HalfId) (g : Nat) : Bool := (s.fld h Reg.BND_FENCE_FENCE).testBit g

/-- Fences a grove (R192, R368): its identities take class FENCED, its epoch advances modulo 4, at a further write of 1 as well,
its state is fenced and FLT_GFAIL remembers it. -/
def fenceGrove (s : State) (h : HalfId) (g : Nat) : State :=
  let s := s.setBit h Reg.BND_FENCE_FENCE g
  let f : Fld := { Reg.BND_GEPOCH_EPOCH with hi := 2 * g + 1, lo := 2 * g }
  let s := s.setFld h f ((s.fld h f + 1) % 4)
  (setGroveState s h g 3).setBit h Reg.FLT_GFAIL_FAILED g

/-- Zeroisation (R260): aborted primitives and frame requests complete with TAMPER_ABORT, inbound records are discarded
and every secret is gone, in one half. -/
def zeroiseHalf (s : State) (h : HalfId) : State :=
  let k := (s.half h).kln
  let jobs := k.txq ++ (s.half h).mil.jobs.filterMap fun j => match j with | .build j => some j | .parse _ => none
  let s := s.upd h fun x => { x with
    kln := { x.kln with keys := [], rxq := [], txq := [], slots := [], vault := [], drbg := false, evictKey := none, pairTx := none, pairRx := none }
    mil := { x.mil with jobs := x.mil.jobs.filter fun j => match j with | .build _ => false | .parse _ => true } }
  let s := jobs.foldl (fun s j => endRequest s h j.src (statusOf 4 0x0D)) s
  let s := s.setReg h 8 0x40 0
  let s := s.setFld h Reg.KLN_STAT_SLOTS 0
  s.setFld h Reg.KLN_STAT_ZEROED 1

/-- Zeroisation of the package, with TMP_ALARM.ZEROED (Table 18.12). -/
def zeroise (s : State) : State := (zeroiseHalf (zeroiseHalf s .east) .west).setFld .east Reg.TMP_ALARM_ZEROED 1

end Sys2Proof.Machine
end

