-- ==== Sys2Proof/Machine/Eth.lean ====
section
/-! DEFINITION. The Ethernet port of a half: modes and links (R216, R217, R439), the MAC's checks (R218), flow control
(R219), the landing buffer (R220), the classifier (R221) and transmission with its timestamps (R237). -/

namespace Sys2Proof.Machine

/-- Changes a half's Ethernet port. -/
def updEth (s : State) (h : HalfId) (f : Eth → Eth) : State := s.upd h fun x => { x with eth := f x.eth }

/-- Links or sub-ports of the current mode (Table 11.1). -/
def ethSubs (s : State) (h : HalfId) : Nat :=
  let m := s.fld h Reg.ETH_MODE_MODE
  if m = 0 then 0 else if m = 5 ∨ m = 6 then 4 else 1

/-- Whether a link or sub-port is up. -/
def ethUp (s : State) (h : HalfId) (sub : Nat) : Bool := (s.fld h Reg.ETH_STAT_LINK).testBit sub

/-- Rate of a link in Gb/s (Table 11.1). -/
def ethRate (s : State) (h : HalfId) : Nat :=
  let m := s.fld h Reg.ETH_MODE_MODE
  if m = 5 then 25 else if m = 6 then 10 else 100

/-- Elapsed ns that n pause quanta of 512 bit times take (R219). -/
def quantaNs (s : State) (h : HalfId) (n : Nat) : Nat := (n * 512 + ethRate s h - 1) / ethRate s h

-- counters (R216)

/-- Adds to a counter of the port and to the sub-port's own, each saturating at the field's width. -/
def ethCount (s : State) (h : HalfId) (f : Fld) (kind sub n : Nat) : State :=
  let k := 4 * sub + kind
  updEth (s.addFld h f n) h fun e =>
    { e with cnt := SMap.set (fun _ => 0) e.cnt k (min (2 ^ (f.hi + 1 - f.lo) - 1) (SMap.get (fun _ => 0) e.cnt k + n)) }

/-- A frame with a bad FCS. -/
def countFcs (s : State) (h : HalfId) (sub : Nat) : State := ethCount s h Reg.ETH_CNT_FCS 0 sub 1
/-- A frame of a length or to an address that the MAC drops. -/
def countLen (s : State) (h : HalfId) (sub : Nat) : State := ethCount s h Reg.ETH_CNT_LEN 1 sub 1
/-- Frames discarded for a sub-port that is down. -/
def countTxDrop (s : State) (h : HalfId) (sub n : Nat) : State := ethCount s h Reg.ETH_TXDROP_TXDROP 2 sub n

-- the frame check sequence

/-- `n` bit steps of the reflected CRC-32 of IEEE 802.3. -/
def crc32Bits : Nat → BitVec 32 → BitVec 32
  | 0, c => c
  | n + 1, c => crc32Bits n (if c.getLsbD 0 then (c >>> 1) ^^^ 0xEDB88320#32 else c >>> 1)

/-- The FCS of a frame, in the order its bytes go on the wire. -/
def fcsOf (bs : List Byte) : List Byte :=
  leBytes 4 ((bs.foldl (fun c b => crc32Bits 8 (c ^^^ b.setWidth 32)) 0xFFFFFFFF#32) ^^^ 0xFFFFFFFF#32).toNat

-- headers

/-- The Ethernet header: tag and VID (R218), Ethertype and the place where the payload begins; `multi` = two tags or TPID
0x88A8. -/
structure EthHdr where
  tagged : Bool
  vid : Nat
  pcp : Nat
  type : Nat
  l3 : Nat
  multi : Bool

/-- Reads the header of a frame. -/
def ethHdr (f : List Byte) : EthHdr :=
  let t := fieldBE f 12 2
  if t = 0x8100 then
    let i := fieldBE f 16 2
    ⟨true, fieldBE f 14 2 % 4096, fieldBE f 14 1 / 32, i, 18, i == 0x8100 || i == 0x88A8⟩
  else ⟨false, 0, 0, t, 14, t == 0x88A8⟩

/-- The ones'-complement sum of 16-bit words (IP, TCP and UDP checksums). -/
def onesSum : List Byte → Nat
  | [] => 0
  | [a] => a.toNat * 256
  | a :: b :: r =>
    let x := a.toNat * 256 + b.toNat + onesSum r
    x % 65536 + x / 65536

/-- What an IP packet's headers say. Addresses are 16 bytes, IPv4 as ::ffff:a.b.c.d; `fragOff` is in bytes; `body` is what
follows the headers, as long as the IP length says; `bad` = a fault of R223 in the header or the length. -/
structure IpInfo where
  v6 : Bool
  src : List Byte
  dst : List Byte
  unicast : Bool
  options : Bool
  badExt : Bool
  proto : Nat
  frag : Bool
  fragOff : Nat
  more : Bool
  fragId : List Byte
  head : List Byte
  body : List Byte
  bad : Bool

/-- An IPv4 address as 16 bytes. -/
def mapped4 (a : List Byte) : List Byte := zerosB 10 ++ [0xFF, 0xFF] ++ a

/-- The IPv4 packet at `o`. -/
def ipv4Info (f : List Byte) (o : Nat) : IpInfo :=
  let b0 := fieldBE f o 1
  let ihl := b0 % 16 * 4
  let total := fieldBE f (o + 2) 2
  let fr := fieldBE f (o + 6) 2
  let dst := sliceB f (o + 16) 4
  let d0 := fieldBE dst 0 1
  { v6 := false, src := mapped4 (sliceB f (o + 12) 4), dst := mapped4 dst
    unicast := !(224 ≤ d0 && d0 < 240) && fieldBE dst 0 4 != 0xFFFFFFFF
    options := 5 < b0 % 16, badExt := false, proto := fieldBE f (o + 9) 1
    frag := fr % 0x2000 != 0 || fr.testBit 13, fragOff := fr % 0x2000 * 8, more := fr.testBit 13
    fragId := sliceB f (o + 12) 8 ++ sliceB f (o + 9) 1 ++ sliceB f (o + 4) 2
    head := sliceB f o ihl, body := sliceB f (o + ihl) (total - ihl)
    bad := b0 / 16 != 4 || ihl < 20 || total < ihl || f.length < o + total || onesSum (sliceB f o ihl) != 0xFFFF }

/-- What a walk of IPv6 extension headers finds. -/
structure ExtWalk where
  proto : Nat
  off : Nat
  count : Nat
  bad : Bool
  frag : Option (Nat × Nat × Bool × List Byte)

/-- Walks the extension headers from `off` on: the upper-layer protocol, headers passed, and the Fragment header with the
place where it stands. `bad` = one was of a kind that reason 4 names: Routing, Authentication (whose length counts 4-byte units),
Mobility, HIP or Shim6. `n` bounds the headers by the bytes of the frame. -/
def extWalk (f : List Byte) : Nat → Nat → Nat → Nat → Bool → Option (Nat × Nat × Bool × List Byte) → ExtWalk
  | 0, nh, off, c, _, fr => ⟨nh, off, c, true, fr⟩
  | n + 1, nh, off, c, bad, fr =>
    if nh = 44 then
      let w := fieldBE f (off + 2) 2
      let fr := some (off, w / 8 * 8, w.testBit 0, sliceB f (off + 4) 4)
      if w / 8 = 0 then extWalk f n (fieldBE f off 1) (off + 8) (c + 1) bad fr
      else ⟨fieldBE f off 1, off + 8, c + 1, bad, fr⟩
    else if nh = 51 then extWalk f n (fieldBE f off 1) (off + 8 + 4 * fieldBE f (off + 1) 1) (c + 1) true fr
    else if nh = 0 ∨ nh = 60 ∨ nh = 43 ∨ nh = 135 ∨ nh = 139 ∨ nh = 140 then
      extWalk f n (fieldBE f off 1) (off + 8 + 8 * fieldBE f (off + 1) 1) (c + 1) (bad || !(nh == 0 || nh == 60)) fr
    else ⟨nh, off, c, bad, fr⟩

/-- The IPv6 packet at `o`. -/
def ipv6Info (f : List Byte) (o : Nat) : IpInfo :=
  let w := extWalk f (f.length / 8 + 1) (fieldBE f (o + 6) 1) (o + 40) 0 false none
  let stop := o + 40 + fieldBE f (o + 4) 2
  let isFrag := match w.frag with | some (_, x, m, _) => x != 0 || m | none => false
  let fragAt := (w.frag.map (·.1)).getD w.off
  let bodyAt := if isFrag then fragAt + 8 else w.off
  { v6 := true, src := sliceB f (o + 8) 16, dst := sliceB f (o + 24) 16, unicast := fieldBE f (o + 24) 1 != 0xFF
    options := false, badExt := w.bad || 2 < w.count, proto := w.proto, frag := isFrag
    fragOff := (w.frag.map (·.2.1)).getD 0, more := (w.frag.map (·.2.2.1)).getD false
    fragId := sliceB f (o + 8) 32 ++ (w.frag.map (·.2.2.2)).getD []
    head := sliceB f o (fragAt - o), body := sliceB f bodyAt (stop - bodyAt)
    bad := fieldBE f o 1 / 16 != 6 || f.length < stop || stop < bodyAt }

/-- The Ethertype and payload place behind every VLAN tag (TPID 0x8100 or 0x88A8) of a frame. -/
def innerType (f : List Byte) : Nat → Nat → Nat × Nat
  | 0, o => (fieldBE f o 2, o + 2)
  | n + 1, o =>
    let t := fieldBE f o 2
    if t = 0x8100 ∨ t = 0x88A8 then innerType f n (o + 4) else (t, o + 2)

/-- The IP packet of a frame behind all its tags, for the reasons of Table 11.2. -/
def innerIp (f : List Byte) : Option IpInfo :=
  let t := innerType f (f.length / 4) 12
  if t.1 = 0x0800 then some (ipv4Info f t.2) else if t.1 = 0x86DD then some (ipv6Info f t.2) else none

/-- The IP packet of a frame, where its Ethertype says there is one. -/
def ipInfo (f : List Byte) : Option IpInfo :=
  let e := ethHdr f
  if e.multi then none
  else if e.type = 0x0800 then some (ipv4Info f e.l3)
  else if e.type = 0x86DD then some (ipv6Info f e.l3)
  else none

/-- Whether a frame is a PTP message (R221 rule 1), behind all its tags. -/
def isPtp (f : List Byte) : Bool :=
  (innerType f (f.length / 4) 12).1 == 0x88F7 ||
  (match innerIp f with
   | some p => p.proto == 17 && !p.frag && (fieldBE p.body 2 2 == 319 || fieldBE p.body 2 2 == 320)
   | none => false)

/-- The PTP message of a frame that is one. -/
def ptpBody (f : List Byte) : List Byte :=
  match innerIp f with
  | some p => p.body.drop 8
  | none => f.drop (innerType f (f.length / 4) 12).2

-- classification (R221)

/-- What the classifier decides. -/
inductive Class where
  | drop
  | slow (reason : Nat)
  | listener (n : Nat)
  | flume
  deriving DecidableEq, Repr

/-- Whether rule 3 sends a frame to Flume. -/
def forFlume (f : List Byte) : Bool :=
  match ipInfo f with
  | some p => p.unicast && !p.options && !p.badExt && (p.proto == 6 || p.proto == 17 || (p.v6 && p.frag && p.proto == 60))
  | none => false

/-- The slow-path reason of rule 4: the lowest of Table 11.2 that applies, looked for behind the tags of a frame with two tags
or TPID 0x88A8 too. -/
def slowReason (f : List Byte) : Nat :=
  match innerIp f with
  | none => 1
  | some p =>
    if p.proto = (if p.v6 then 58 else 1) then 2
    else if p.options then 3
    else if p.badExt then 4
    else if !p.unicast || (ethHdr f).multi then 5
    else 10

/-- The value and mask of a wildcard entry as 64 bytes each. -/
def wildcardBytes (s : State) (h : HalfId) (n off : Nat) : List Byte :=
  ((List.range 8).map fun k => leBytes 8 (s.reg h 7 (0x1000 + 0x100 * n + off + 8 * k)).toNat).flatten

/-- Whether wildcard entry n matches a frame on a sub-port: 64 bytes from frame offset 12. -/
def wildcardMatches (s : State) (h : HalfId) (n sub : Nat) (f : List Byte) : Bool :=
  let d := 0x100 * n
  s.flag h (Reg.ETH_WC_ACT_V.at d) && (s.fld h (Reg.ETH_WC_ACT_SUBPORTS.at d)).testBit sub &&
    (List.zip (sliceB f 12 64) (List.zip (wildcardBytes s h n 0) (wildcardBytes s h n 0x40))).all
      fun x => x.1 &&& x.2.2 == x.2.1 &&& x.2.2

/-- R221: the first rule that matches. -/
def classify (s : State) (h : HalfId) (sub : Nat) (f : List Byte) : Class :=
  if isPtp f then .slow 8
  else match (List.range 64).find? fun n => wildcardMatches s h n sub f with
  | some n =>
    match s.fld h (Reg.ETH_WC_ACT_ACT.at (0x100 * n)) with
    | 0 => .drop
    | 1 => .slow 9
    | _ => if forFlume f then .listener (s.fld h (Reg.ETH_WC_ACT_LISTENER.at (0x100 * n))) else .slow (slowReason f)
  | none => if forFlume f then .flume else .slow (slowReason f)

-- transmission

/-- Hands a frame (destination address to payload, without FCS) to a link or sub-port: queued, or discarded and counted
where the link is down (R439). -/
def ethSend (s : State) (h : HalfId) (x : TxFrame) : State :=
  if ethUp s h x.sub then updEth s h fun e => { e with txq := e.txq ++ [x] }
  else countTxDrop s h x.sub 1

/-- Takes links down: LINK and AN_FAIL clear, queued frames are discarded and counted, bring-up starts (R439). -/
def ethDown (s : State) (h : HalfId) (subs : List Nat) : State :=
  let q := (s.half h).eth.txq
  let s := subs.foldl (fun s n => countTxDrop s h n (q.filter (·.sub == n)).length) s
  let s := updEth s h fun e => { e with
    txq := e.txq.filter fun x => !subs.contains x.sub
    paused := e.paused.filter fun p => !subs.contains p.1
    anDone := e.anDone.filter fun n => !subs.contains n }
  subs.foldl (fun s n => s.clearBit h Reg.ETH_STAT_LINK n) s

/-- A write that changed MODE, FEC or AN: every link goes down and retrains, and AN_FAIL clears (R216, R439). -/
def ethRestart (s : State) (h : HalfId) : State := (ethDown s h [0, 1, 2, 3]).setFld h Reg.ETH_STAT_AN_FAIL 0

-- flow control (R219)

/-- Landing-buffer space that frames take, by priority and bytes: those in it, and fragments whose payload waits (R220). -/
def landSpace (s : State) (h : HalfId) : List (Nat × Nat) :=
  ((s.half h).eth.landing.map fun f => (f.prio, f.held) :: f.also).flatten ++ ((s.half h).flm.reasm.map (·.space)).flatten

/-- Landing-buffer bytes taken by frames of a priority, or by all. -/
def occupancy (s : State) (h : HalfId) (prio : Option Nat) : Nat :=
  (((landSpace s h).filter fun f => match prio with | some p => f.1 == p | none => true).map (·.2)).sum

/-- The priorities that send-side flow control watches: none, the total of all (as priority 0), or each enabled one. -/
def watchedPrios (s : State) (h : HalfId) : List Nat :=
  match s.fld h Reg.ETH_PFC_FLOW with
  | 1 => [0]
  | 2 => (List.range 8).filter fun p => (s.fld h Reg.ETH_PFC_EN).testBit p
  | _ => []

/-- Occupancy that decides for a watched priority. -/
def watchedOcc (s : State) (h : HalfId) (p : Nat) : Nat :=
  occupancy s h (if s.fld h Reg.ETH_PFC_FLOW = 2 then some p else none)

/-- Sends a pause frame for a priority on a sub-port. In Safe no frame leaves (R24). -/
def sendPause (s : State) (h : HalfId) (sub p quanta : Nat) : State :=
  if s.inMode h .safe then s else s.emit (.ethPause h sub (s.fld h Reg.ETH_PFC_FLOW == 2) p quanta)

/-- One priority's thresholds: at XOFF_KIB, where the priority is watched, pause frames go out on every link that is up, below
XON_KIB one with quanta 0; with QUANTA = 0 none goes out. A link that comes up meanwhile joins with the repeats. -/
def flowPrio (h : HalfId) (s : State) (p : Nat) : State :=
  let occ := watchedOcc s h p
  let on := (s.half h).eth.xoff.filter (·.2.1 == p)
  if on.isEmpty then
    if (watchedPrios s h).contains p ∧ s.fld h Reg.ETH_PFC_XOFF_KIB * 1024 ≤ occ ∧ s.fld h Reg.ETH_PFC_QUANTA ≠ 0 then
      (List.range 4).foldl (fun s n =>
        updEth (if ethUp s h n then sendPause s h n p (s.fld h Reg.ETH_PFC_QUANTA) else s) h fun e =>
          { e with xoff := e.xoff ++ [(n, p, s.elapsed)] }) s
    else s
  else if occ < s.fld h Reg.ETH_PFC_XON_KIB * 1024 then
    (if s.fld h Reg.ETH_PFC_QUANTA = 0 then [] else (List.range 4).filter (ethUp s h ·)).foldl (fun s n => sendPause s h n p 0)
      (updEth s h fun e => { e with xoff := e.xoff.filter (·.2.1 != p) })
  else s

/-- The thresholds after the landing buffer's occupancy or ETH_PFC changed: of every priority, so that one paused before its EN
bit was cleared still gets its quanta 0. -/
def flowCheck (s : State) (h : HalfId) : State := (List.range 8).foldl (flowPrio h) s

/-- A write of ETH_PFC: under another FLOW no pause frame of the old kind goes on, and the new thresholds are judged at once (log
entry 112). -/
def pfcWritten (s : State) (h : HalfId) (flowChanged : Bool) : State :=
  flowCheck (if flowChanged then updEth s h fun e => { e with xoff := [] } else s) h

/-- Removes a frame from the landing buffer. -/
def dropLanding (s : State) (h : HalfId) (f : LandFrame) : State :=
  flowCheck (updEth s h fun e => { e with landing := e.landing.erase f }) h

/-- PAUSE or PFC times taken by a link: zero ends a pause (R219). -/
def takePause (s : State) (h : HalfId) (sub : Nat) (times : List (Nat × Nat)) : State :=
  times.foldl (fun s (p : Nat × Nat) =>
    updEth s h fun e =>
      let rest := e.paused.filter fun x => !(x.1 == sub && x.2.1 == p.1)
      { e with paused := if p.2 = 0 then rest else rest ++ [(sub, p.1, s.elapsed + quantaNs s h p.2)] }) s

/-- A PAUSE frame: it stops all transmission on its link while FLOW = 1, and is consumed without effect otherwise. -/
def pauseRx (s : State) (h : HalfId) (sub quanta : Nat) : State :=
  if s.fld h Reg.ETH_PFC_FLOW = 1 then takePause s h sub ((List.range 8).map fun p => (p, quanta)) else s

/-- A PFC frame: it stops the priorities it names while FLOW = 2. -/
def pfcRx (s : State) (h : HalfId) (sub enable : Nat) (times : List Nat) : State :=
  if s.fld h Reg.ETH_PFC_FLOW = 2 then
    takePause s h sub (((List.range 8).filter fun p => enable.testBit p).map fun p => (p, times.getD p 0))
  else s

-- reception (R218, R220)

/-- Whether a destination is a unicast address other than the station's. -/
def foreignMac (s : State) (h : HalfId) (f : List Byte) : Bool :=
  !(fieldBE f 0 1).testBit 0 && fieldBE f 0 6 != s.fld h Reg.ETH_MAC_MAC

/-- A MAC control frame. -/
def macControl (s : State) (h : HalfId) (sub : Nat) (f : List Byte) : State :=
  match fieldBE f 14 2 with
  | 0x0001 => pauseRx s h sub (fieldBE f 16 2)
  | 0x0101 => pfcRx s h sub (fieldBE f 16 2) ((List.range 8).map fun p => fieldBE f (18 + 2 * p) 2)
  | _ => s

/-- The priority of a frame: its tag's PCP, or that of untagged frames (R218). -/
def framePrio (s : State) (h : HalfId) (f : List Byte) : Nat :=
  let e := ethHdr f
  if e.tagged && !e.multi then e.pcp else s.fld h Reg.ETH_PFC_UNTAG_PRIO

/-- Granules of the landing buffer that a frame is written to. -/
def landGranules (f : List Byte) : Nat := (f.length + 15) / 16

/-- A read of a frame in the landing buffer: whether it comes poisoned (R169, R171). -/
def readLanding (s : State) (h : HalfId) (f : LandFrame) : Bool × State :=
  if (s.half h).sram.isEmpty then (false, s) else readUnit s h 0 (f.place * 16) (16 * landGranules f.bytes)

/-- Puts a good frame into the landing buffer, where there is room for it in the 8 MiB. -/
def landFrame (s : State) (h : HalfId) (sub : Nat) (f : List Byte) : State :=
  let prio := framePrio s h f
  if 0x800000 < occupancy s h none + f.length then s.incFld h (Reg.ETH_DROP_DROP.at (8 * prio))
  else match classify s h sub f with
  | .drop => s
  | c =>
    let x : LandFrame :=
      { sub, bytes := f, prio, time := s.timebase, slow := match c with | .slow r => some r | _ => none
        listener := match c with | .listener n => some n | _ => none, held := f.length, also := [], place := (s.half h).eth.landNext }
    let s := writeUnit s h 0x46 0 (x.place * 16) (16 * landGranules f)
    flowCheck (updEth s h fun y => { y with landing := y.landing ++ [x], landNext := (x.place + landGranules f) % 0x80000 }) h

/-- FRAME_RECEIVE: a frame, FCS and all, arrives on a link that is up. -/
def execFrameReceive (h : HalfId) (sub : Fin 4) (frame : List Byte) (s : State) : Host.Outcome State Fault Refusal :=
  let f := frame.take (frame.length - 4)
  if !ethUp s h sub.val then .next s
  else if frame.length < 64 ∨ 9216 < frame.length then .next (countLen s h sub.val)
  else if frame.drop (frame.length - 4) ≠ fcsOf f then .next (countFcs s h sub.val)
  else if foreignMac s h f then .next (countLen s h sub.val)
  else if fieldBE f 12 2 = 0x8808 then .next (macControl s h sub.val f)
  else .next (landFrame s h sub.val f)

/-- PFC_REPEAT: a pause frame of a priority that is watched goes out again once the repeat time has passed and occupancy is still
above XON_KIB. -/
def execPfcRepeat (h : HalfId) (sub : Fin 4) (prio : Fin 8) (s : State) : Host.Outcome State Fault Refusal :=
  match (s.half h).eth.xoff.find? fun x => x.1 == sub.val && x.2.1 == prio.val with
  | none => .next s
  | some x =>
    if ethUp s h sub.val ∧ (watchedPrios s h).contains prio.val ∧ s.fld h Reg.ETH_PFC_QUANTA ≠ 0 ∧ s.fld h Reg.ETH_PFC_XON_KIB * 1024 < watchedOcc s h prio.val ∧
        x.2.2 + quantaNs s h (max 1 (s.fld h Reg.ETH_PFC_QUANTA / 2)) ≤ s.elapsed then
      .next (updEth (sendPause s h sub.val prio.val (s.fld h Reg.ETH_PFC_QUANTA)) h fun e =>
        { e with xoff := e.xoff.map fun y => if y = x then (x.1, x.2.1, s.elapsed) else y })
    else .next s

/-- PAUSE_FRAME. -/
def execPauseFrame (h : HalfId) (sub : Fin 4) (quanta : BitVec 16) (s : State) : Host.Outcome State Fault Refusal :=
  .next (if ethUp s h sub.val then pauseRx s h sub.val quanta.toNat else s)

/-- PFC_FRAME. -/
def execPfcFrame (h : HalfId) (sub : Fin 4) (enable : Byte) (times : List (BitVec 16)) (s : State) :
    Host.Outcome State Fault Refusal :=
  .next (if ethUp s h sub.val then pfcRx s h sub.val enable.toNat (times.map BitVec.toNat) else s)

/-- PAUSE_TIME_EXPIRY: a pause whose time has passed ends. -/
def execPauseTimeExpiry (h : HalfId) (sub : Fin 4) (prio : Fin 8) (s : State) : Host.Outcome State Fault Refusal :=
  .next (updEth s h fun e => { e with
    paused := e.paused.filter fun x => !(x.1 == sub.val && x.2.1 == prio.val && x.2.2 ≤ s.elapsed) })

/-- Whether a half's mode lets its Ethernet transmitters work (Table 1.6). -/
def ethMode (s : State) (h : HalfId) : Bool :=
  match (s.half h).mode with
  | .run | .watch | .safe => true
  | .reset | .boot | .service => false

/-- AUTO_NEGOTIATION_COMPLETE (R439): AN_FAIL set with no ability in common, cleared by success. -/
def execAutoNegotiationComplete (h : HalfId) (sub : Fin 4) (common : Bool) (s : State) : Host.Outcome State Fault Refusal :=
  if sub.val < ethSubs s h ∧ s.flag h Reg.ETH_MODE_AN ∧ !ethUp s h sub.val ∧ ethMode s h then
    if common then
      .next (updEth (s.clearBit h Reg.ETH_STAT_AN_FAIL sub.val) h fun e =>
        { e with anDone := sub.val :: e.anDone.filter (· != sub.val) })
    else .next (updEth (s.setBit h Reg.ETH_STAT_AN_FAIL sub.val) h fun e => { e with anDone := e.anDone.filter (· != sub.val) })
  else .next s

/-- LINK_UP (R439): the PCS reports lock; with auto-negotiation only after it succeeded (R217). -/
def execLinkUp (h : HalfId) (sub : Fin 4) (s : State) : Host.Outcome State Fault Refusal :=
  if sub.val < ethSubs s h ∧ ethMode s h ∧ (!s.flag h Reg.ETH_MODE_AN || (s.half h).eth.anDone.contains sub.val) then
    .next (s.setBit h Reg.ETH_STAT_LINK sub.val)
  else .next s

/-- LINK_LOSS (R439). -/
def execLinkLoss (h : HalfId) (sub : Fin 4) (s : State) : Host.Outcome State Fault Refusal :=
  .next (if ethUp s h sub.val then ethDown s h [sub.val] else s)

/-- The timestamp entry of a transmitted frame (R237, Table 11.10). -/
def stampEntry (s : State) (x : TxFrame) : Word × Word :=
  let p := ptpBody x.bytes
  let w := if isPtp x.bytes then 2 ^ 63 + 2 ^ 24 + fieldBE p 0 1 % 16 * 2 ^ 20 + x.sub * 2 ^ 16 + fieldBE p 30 2
           else 2 ^ 63 + x.sub * 2 ^ 16
  (s.timebase, BitVec.ofNat 64 w)

/-- Queues a transmit timestamp, or counts it lost where 64 wait. -/
def pushStamp (s : State) (h : HalfId) (x : TxFrame) : State :=
  if 64 ≤ (s.half h).txts.length then s.incFld h Reg.TMB_STAT_TXTS_LOST
  else s.upd h fun y => { y with txts := y.txts ++ [stampEntry s x] }

/-- FRAME_TRANSMIT: the first frame queued for a link, of a priority that no pause stops, goes out, padded to the 60 bytes
that the least frame has before its FCS. In Safe no frame leaves (R374). -/
def execFrameTransmit (h : HalfId) (sub : Fin 4) (s : State) : Host.Outcome State Fault Refusal :=
  if !ethUp s h sub.val ∨ s.inMode h .safe then .next s else
  match (s.half h).eth.txq.find? fun x =>
      x.sub == sub.val && !(s.half h).eth.paused.any fun p => p.1 == sub.val && p.2.1 == x.prio with
  | none => .next s
  | some x =>
    let b := x.bytes ++ zerosB (60 - x.bytes.length)
    let s := updEth s h fun e => { e with txq := e.txq.erase x }
    let s := s.emit (.ethFrame h sub.val (b ++ fcsOf b))
    .next (if x.stamp then pushStamp s h x else s)

-- the timebase and the PPS pins (R238, R240, R244)

/-- A signed step of the timebase (R240): no edge of PPS_OUT comes of it; a failed timebase keeps its value (R374). -/
def stepTimebase (s : State) (v : Word) : State := if s.timeFailed then s else { s with timebase := s.timebase + v }

/-- PPS_IN: a rising edge latches the timebase and counts, in both halves' registers (R238, R240). -/
def execPpsIn (s : State) : Host.Outcome State Fault Refusal :=
  .next ([HalfId.east, HalfId.west].foldl (fun s h =>
    (s.setReg h 0x0B 0x20 s.timebase).setFld h Reg.TMB_PPSSEQ_SEQ ((s.fld h Reg.TMB_PPSSEQ_SEQ + 1) % 2 ^ 32)) s)

/-- Whether a timebase value is one at which PPS_OUT rises (R238): East's TMB_PPS drives the pin, but for Reset, Boot and Service,
when it is low (R415). -/
def ppsValue (s : State) (t : Word) : Bool :=
  (s.inMode .east .run || s.inMode .east .watch || s.inMode .east .safe) && s.flag .east Reg.TMB_PPS_EN &&
    ((t.toNat : Int) - (s.fld .east Reg.TMB_PPS_OFFSET_NS : Int)) % 1000000000 == 0

/-- PPS_OUT: the edge that the last tick brought about. The pin rises, to stay high for WIDTH_US of elapsed time. -/
def execPpsOut (s : State) : Host.Outcome State Fault Refusal :=
  .next (if s.ppsEdge then
    { s with ppsEdge := false, ppsOut := true, ppsFall := s.elapsed + 1000 * s.fld .east Reg.TMB_PPS_WIDTH_US }
  else s)

/-- PPS_OUT_FALL. -/
def execPpsOutFall (s : State) : Host.Outcome State Fault Refusal :=
  .next (if s.ppsOut && s.ppsFall ≤ s.elapsed then { s with ppsOut := false } else s)

end Sys2Proof.Machine
end

