-- ==== Sys2Proof/Machine/Image.lean ====
section
/-! DEFINITION. The bytes of a session's Flume state, parse context and key record where they leave the session store (R232, R251,
R351), and AEAD protection over them. The manual names the contents and gives no layout: the fields stand behind a mask that no proof
can see, and what they leave of the bytes is free (log entries 12, 156, 157). -/

namespace Sys2Proof

/-- What the image of a session holds beside its fields. -/
opaque Config.sessionImage : Machine.Session → List Byte

/-- A session that an image's bytes hold, for what its fields do not say: data on the way and times. -/
opaque Config.sessionOf : List Byte → Machine.Session

/-- Bytes 0x280–0x2FF of a mirror slot: the parse context. -/
opaque Config.parseImage : Machine.ParseCtx → List Byte

/-- The parse context that a mirror slot's bytes hold. -/
opaque Config.parseOf : List Byte → Machine.ParseCtx

/-- What the image of a key record holds beside its fields. -/
opaque Config.keyImage : Machine.SessKeys → List Byte

/-- A key record that an image's bytes hold, for what its fields do not say: the replay windows. -/
opaque Config.keysOf : List Byte → Machine.SessKeys

/-- The Flume state and the parse context of a cold session, as the second half of its 512 bytes holds them (R232). -/
opaque Config.coldImage : Machine.Session → Machine.ParseCtx → List Byte

/-- The mask of an image's bytes (log entry 157): the manual gives no layout. -/
opaque Config.imageMask : (kind : Nat) → (i : Nat) → Byte

/-- Key stream of an AEAD (RFC 5116; AES-GCM and ChaCha20-Poly1305): suite, key and nonce, byte by byte (log entry 156). -/
opaque Config.keyStream : (suite : Nat) → (key nonce : List Byte) → Nat → Byte

/-- Authentication tag of an AEAD: suite, key, additional data, nonce and ciphertext. -/
opaque Config.aeadTag : (suite : Nat) → (key aad nonce cipher : List Byte) → List Byte

namespace Machine

/-- Bytes combined with a stream by exclusive or. -/
def maskBytes (f : Nat → Byte) (bs : List Byte) : List Byte := bs.mapIdx fun i b => b ^^^ f i

/-- The 16-byte tag of a ciphertext. -/
def aeadTag (suite : Nat) (key aad nonce cipher : List Byte) : List Byte := sliceB (Config.aeadTag suite key aad nonce cipher) 0 16

/-- AEAD protection (R245, R251, R350): the plaintext under the key stream, then the tag (log entry 156). -/
def aeadSeal (suite : Nat) (key aad nonce plain : List Byte) : List Byte :=
  let c := maskBytes (Config.keyStream suite key nonce) plain
  c ++ aeadTag suite key aad nonce c

/-- AEAD removal: the plaintext, or none where authentication fails (R246, R247). -/
def aeadOpen (suite : Nat) (key aad nonce cipher : List Byte) : Option (List Byte) :=
  let n := cipher.length - 16
  if 16 ≤ cipher.length ∧ cipher.drop n = aeadTag suite key aad nonce (cipher.take n) then
    some (maskBytes (Config.keyStream suite key nonce) (cipher.take n))
  else none

/-- Fields of given widths in bytes, one after the other, little-endian. -/
def packFields (fs : List (Nat × Nat)) : List Byte := (fs.map fun f => leBytes f.1 f.2).flatten

/-- The values of fields of given widths that bytes hold. -/
def unpackFields : List Nat → List Byte → List Nat
  | [], _ => []
  | w :: ws, b => leNat (b.take w) :: unpackFields ws (b.drop w)

/-- An image of n bytes: the fields, then what else there is. -/
def imageOf (kind n : Nat) (fs : List (Nat × Nat)) (rest : List Byte) : List Byte :=
  maskBytes (Config.imageMask kind) (sliceB (packFields fs ++ rest) 0 n)

/-- The values of an image's fields. -/
def imageFields (kind : Nat) (ws : List Nat) (b : List Byte) : List Nat := unpackFields ws (maskBytes (Config.imageMask kind) b)

/-- Truth values as the bits of a number. -/
def flagBits (bs : List Bool) : Nat := bs.foldr (fun b n => b.toNat + 2 * n) 0

/-- The fields of a control block that an image carries (R226–R230). -/
def tcbFields (t : Tcb) : List (Nat × Nat) :=
  [(4, t.sndUna), (4, t.sndNxt), (4, t.sndWnd), (4, t.rcvNxt), (2, t.peerMss), (1, t.peerShift),
   (1, flagBits [t.wsOk, t.tsOk, t.sackOk, t.finSent, t.finRcvd, t.passive]), (4, t.tsRecent), (4, t.cwnd), (4, t.ssthresh),
   (8, t.srtt), (8, t.rttvar), (8, t.rto), (4, t.wl1), (4, t.wl2), (4, t.lastAck)]

/-- A control block with the values of its fields. -/
def tcbFrom (o : Tcb) (v : Nat → Nat) : Tcb :=
  let f := v 6
  { o with
    sndUna := v 0, sndNxt := v 1, sndWnd := v 2, rcvNxt := v 3, peerMss := v 4, peerShift := v 5, wsOk := f.testBit 0, tsOk := f.testBit 1
    sackOk := f.testBit 2, finSent := f.testBit 3, finRcvd := f.testBit 4, passive := f.testBit 5, tsRecent := v 7, cwnd := v 8
    ssthresh := v 9, srtt := v 10, rttvar := v 11, rto := v 12, wl1 := v 13, wl2 := v 14, lastAck := v 15 }

/-- The fields of a session that an image carries, its state and its place in the store apart. -/
def sessionFields (x : Session) : List (Nat × Nat) :=
  [(2, x.listener), (16, leNat x.laddr), (2, x.lport), (1, x.proto),
   (2, flagBits [x.dtls, x.tagged, x.path, x.thread.isSome, x.tcb.isSome, x.pin, x.in5, x.inCid]), (2, x.vid), (1, x.cidLen),
   (16, leNat x.raddr), (2, x.rport), (1, x.cid.length), (16, leNat x.cid), (1, x.pcp), (4, x.thread.getD 0), (4, x.ring), (2, x.kaS),
   (1, x.kaProbes), (4, x.rebinds), (1, x.sub), (6, leNat x.nhMac)] ++
  tcbFields (x.tcb.getD default)

/-- A session with the values of its fields. -/
def sessionFrom (o : Session) (v : Nat → Nat) : Session :=
  let f := v 4
  { o with
    listener := v 0, laddr := leBytes 16 (v 1), lport := v 2, proto := v 3, dtls := f.testBit 0, tagged := f.testBit 1, path := f.testBit 2
    pin := f.testBit 5, in5 := f.testBit 6, inCid := f.testBit 7, vid := v 5, cidLen := v 6, raddr := leBytes 16 (v 7), rport := v 8
    cid := (leBytes 16 (v 10)).take (v 9), pcp := v 11, thread := if f.testBit 3 then some (v 12) else none, ring := v 13, kaS := v 14
    kaProbes := v 15, rebinds := v 16, sub := v 17, nhMac := leBytes 6 (v 18)
    tcb := if f.testBit 4 then some (tcbFrom (o.tcb.getD default) fun i => v (19 + i)) else none }

/-- The image of a session's Flume state (R351). -/
def sessionImage (n : Nat) (x : Session) : List Byte := imageOf 0 n (sessionFields x) (Config.sessionImage x)

/-- The session that an image holds. -/
def sessionOf (b : List Byte) : Session :=
  let v := imageFields 0 ((sessionFields default).map (·.1)) b
  sessionFrom (Config.sessionOf b) fun i => v.getD i 0

/-- The fields of one direction's key that an image carries. -/
def dirFields (k : DirKey) : List (Nat × Nat) :=
  [(1, k.secret.length), (48, leNat k.secret), (2, k.suite), (4, k.epoch), (8, k.seq), (1, flagBits [k.dtls, k.soft, k.exhausted])]

/-- A direction's key with the values of its fields. -/
def dirFrom (o : DirKey) (v : Nat → Nat) : DirKey :=
  { o with
    secret := (leBytes 48 (v 1)).take (v 0), suite := v 2, epoch := v 3, seq := v 4, dtls := (v 5).testBit 0, soft := (v 5).testBit 1
    exhausted := (v 5).testBit 2 }

/-- The fields of a key record that an image carries: its keys and their numbers; the replay windows follow. -/
def keyFields (k : SessKeys) : List (Nat × Nat) :=
  [(2, flagBits [k.suite.isSome, k.rx.isSome, k.rxNext.isSome, k.tx.isSome, k.rxTop.isSome, k.txTop.isSome, k.rxFailed, k.txFailed]),
   (2, k.suite.getD 0), (4, k.rxTop.getD 0), (4, k.txTop.getD 0), (6, k.plainSeq), (1, k.peerCid.length), (16, leNat k.peerCid)] ++
  dirFields (k.tx.getD default) ++ dirFields (k.rx.getD default) ++ dirFields (k.rxNext.getD default)

/-- A key record with the values of its fields. -/
def keysFrom (o : SessKeys) (v : Nat → Nat) : SessKeys :=
  let f := v 0
  let opt (i : Nat) {α : Type} (x : α) : Option α := if f.testBit i then some x else none
  { o with
    suite := opt 0 (v 1), rxTop := opt 4 (v 2), txTop := opt 5 (v 3), plainSeq := v 4, peerCid := (leBytes 16 (v 6)).take (v 5)
    rxFailed := f.testBit 6, txFailed := f.testBit 7
    tx := opt 3 (dirFrom (o.tx.getD default) fun i => v (7 + i))
    rx := opt 1 (dirFrom (o.rx.getD default) fun i => v (13 + i))
    rxNext := opt 2 (dirFrom (o.rxNext.getD default) fun i => v (19 + i)) }

/-- The image of a session's key record in 240 bytes. -/
def keyImage (k : SessKeys) : List Byte := imageOf 1 0xF0 (keyFields k) (Config.keyImage k)

/-- The key record that opened bytes hold. -/
def keysOf (b : List Byte) : SessKeys :=
  let v := imageFields 1 ((keyFields default).map (·.1)) b
  keysFrom (Config.keysOf b) fun i => v.getD i 0

/-- COUNT, EXP, NEG and DOT of a field register in 11 bits (R268). -/
def fieldMarks (f : MField) : Nat := f.count + 16 * (f.exp + 16).toNat + 512 * f.neg.toNat + 1024 * f.dot.toNat

/-- The fields of a parse context that an image carries (R265): state, table, field registers and session variables. -/
def parseFields (c : ParseCtx) : List (Nat × Nat) :=
  [(1, flagBits [c.ready, c.parked, c.noteMalf, c.slot.isSome]), (2, c.state), (1, c.slot.getD 0), (4, c.skip)] ++
  ((List.range 8).map fun i => (8, (c.f.getD i default).value.toNat)) ++ ((List.range 8).map fun i => (2, fieldMarks (c.f.getD i default))) ++
  ((List.range 8).map fun i => (4, (c.v.getD i 0).toNat))

/-- A parse context with the values of its fields. -/
def parseFrom (o : ParseCtx) (v : Nat → Nat) : ParseCtx :=
  let f := v 0
  { o with
    ready := f.testBit 0, parked := f.testBit 1, noteMalf := f.testBit 2, state := v 1, slot := if f.testBit 3 then some (v 2) else none, skip := v 3
    f := (List.range 8).map fun i =>
      let m := v (12 + i)
      ⟨BitVec.ofNat 64 (v (4 + i)), m % 16, (m / 16 % 32 : Nat) - (16 : Int), m.testBit 9, m.testBit 10⟩
    v := (List.range 8).map fun i => BitVec.ofNat 32 (v (20 + i)) }

/-- The image of a parse context in 128 bytes. -/
def parseImage (c : ParseCtx) : List Byte := imageOf 2 0x80 (parseFields c) (Config.parseImage c)

/-- The parse context that an image holds. -/
def parseOf (b : List Byte) : ParseCtx :=
  let v := imageFields 2 ((parseFields default).map (·.1)) b
  parseFrom (Config.parseOf b) fun i => v.getD i 0

end Machine

end Sys2Proof
end

