-- ==== Sys2Proof/Machine/Mirror.lean ====
section
/-! DEFINITION. Buddy mirroring on the sending side (R350, R351): which sessions are mirrored, what an update carries and
when a mirrored session's frame may leave. -/

namespace Sys2Proof

namespace Machine

def updFlm (s : State) (h : HalfId) (f : Flume → Flume) : State := s.upd h fun x => { x with flm := f x.flm }
def updKln (s : State) (h : HalfId) (f : Kiln → Kiln) : State := s.upd h fun x => { x with kln := f x.kln }
def updMil (s : State) (h : HalfId) (f : Mill → Mill) : State := s.upd h fun x => { x with mil := f x.mil }
def updScl (s : State) (h : HalfId) (f : Scaler → Scaler) : State := s.upd h fun x => { x with scl := f x.scl }
def updHif (s : State) (h : HalfId) (f : Hif → Hif) : State := s.upd h fun x => { x with hif := f x.hif }
def updBom (s : State) (h : HalfId) (f : Boom → Boom) : State := s.upd h fun x => { x with bom := f x.bom }

/-- A session of a half. -/
def session (s : State) (h : HalfId) (n : Nat) : Session := SMap.get sessionDefault (s.half h).flm.sessions n

def setSession (s : State) (h : HalfId) (n : Nat) (x : Session) : State :=
  updFlm s h fun y => { y with sessions := SMap.set sessionDefault y.sessions n x }

/-- Key state of a session. -/
def sessKeys (s : State) (h : HalfId) (n : Nat) : SessKeys := SMap.get keysDefault (s.half h).kln.keys n

def setKeys (s : State) (h : HalfId) (n : Nat) (x : SessKeys) : State :=
  updKln s h fun y => { y with keys := SMap.set keysDefault y.keys n x }

/-- Parse context of a session. -/
def parseCtx (s : State) (h : HalfId) (n : Nat) : ParseCtx := SMap.get parseDefault (s.half h).mil.ctxs n

def setParseCtx (s : State) (h : HalfId) (n : Nat) (x : ParseCtx) : State :=
  updMil s h fun y => { y with ctxs := SMap.set parseDefault y.ctxs n x }

/-- Reads the buddy binding of a session (Table 16.8): none where its V is 0 or the read fails. -/
def readMirror (s : State) (h : HalfId) (n : Nat) : Option (List Byte) × State :=
  let b := unitRead s h 0x4C (s.fld h Reg.BOM_MBASE_BASE * 0x100000 + 16 * n) 16
  (if (fieldLE b.1.bytes 0 2).testBit 15 && !b.1.refused && !b.1.poison then some b.1.bytes else none, b.2)

/-- The buddy binding that a session has; no access of its own. -/
def mirrorBinding (s : State) (h : HalfId) (n : Nat) : Option (List Byte) := (readMirror s h n).1

/-- Whether a session is mirrored: it is bound and its half names a buddy. -/
def mirrored (s : State) (h : HalfId) (n : Nat) : Bool := s.flag h Reg.BOM_CFG_BV && (mirrorBinding s h n).isSome

/-- Whether a session is silenced (R352). -/
def silenced (s : State) (h : HalfId) (n : Nat) : Bool := (s.half h).bom.silenced && mirrored s h n

/-- Reads the stream record of a point, from Scaler's store, else from memory: none where it comes poisoned or is refused. -/
def readRecord (s : State) (h : HalfId) (p : Nat) : Option (List Byte) × State :=
  match (s.half h).scl.points.find? (·.1 == p) with
  | some x => let r := if (s.half h).sram.isEmpty then (false, s) else readUnit s h 4 (256 * p) 256; (if r.1 then none else some x.2, r.2)
  | none =>
    let r := unitRead s h 0x49 (s.fld h Reg.SCL_PBASE_BASE * 0x100000000 + 256 * p) 256
    (if r.1.refused || r.1.poison then none else some r.1.bytes, r.2)

/-- The stream record of a point that can be read; no access of its own. -/
def pointRecord (s : State) (h : HalfId) (p : Nat) : List Byte := (readRecord s h p).1.getD (zerosB 256)

/-- Reads the records of points: those that can be read, by number. -/
def readRecords (s : State) (h : HalfId) (ps : List Nat) : List (Nat × List Byte) × State :=
  ps.foldl (fun (a : List (Nat × List Byte) × State) p =>
    let r := readRecord a.2 h p
    (a.1 ++ (r.1.map fun b => (p, b)).toList, r.2)) ([], s)

/-- Points whose record may be set up: those in Scaler's store and those with a nonzero byte in memory. -/
def knownPoints (s : State) (h : HalfId) : NatSet :=
  let base := s.fld h Reg.SCL_PBASE_BASE * 0x100000000
  let mem := (s.half h).mem.cells.filterMap fun c =>
    if base ≤ c.1 ∧ c.1 < base + 0x100000000 then some ((c.1 - base) / 256) else none
  ((s.half h).scl.points.map (·.1) ++ mem).foldl NatSet.add []

/-- The points that a session feeds (R351): V = 1 and SESSION = n. -/
def sessionPoints (s : State) (h : HalfId) (n : Nat) : List Nat :=
  (knownPoints s h).filter fun p =>
    let r := pointRecord s h p
    fieldLE r 0 2 == n && (fieldLE r 2 1).testBit 7

/-- A session as its buddy is to install it: ring, thread and listener as its binding `b` names them (Table 16.8). -/
def mirrorSession (s : State) (h : HalfId) (n : Nat) (b : List Byte) : Session :=
  let t := fieldLE b 8 4
  let thread := if t.testBit 31 then none else some (t % 2 ^ 17)
  { session s h n with
    ring := fieldLE b 4 4 % 2 ^ 17, thread, listener := fieldLE b 0x0C 2, path := thread.isSome && (session s h n).path }

/-- A session's key record in the 256 bytes that hold it: the last 16 stay free for the tag of a seal (R251, R351). -/
def keyRecord (k : SessKeys) : List Byte := keyImage k ++ zerosB 0x10

/-- The nonce of a seal under the eviction key (R251): session number and eviction counter. -/
def evictNonce (n c : Nat) : List Byte := beBytes 4 n ++ beBytes 8 c

/-- A key record sealed with AES-256-GCM under a half's eviction key; zeros where there is no key. -/
def evictSeal (s : State) (h : HalfId) (n c : Nat) (record : List Byte) : List Byte :=
  match (s.half h).kln.evictKey with
  | some k => aeadSeal 0x1302 k [] (evictNonce n c) (record.take 0xF0)
  | none => zerosB 0x100

/-- The session part of a mirror update (Table 16.11), and its points, each with bytes 0x22–0xFF of its record. -/
def mirrorPlain (s : State) (h : HalfId) (n mseq : Nat) (b : List Byte) (points : List (Nat × List Byte)) : List Byte :=
  leBytes 4 (ownNode s h + n * 2 ^ 9 + ownEpoch s h * 2 ^ 25) ++ leBytes 4 points.length ++ leBytes 8 mseq ++
  zerosB 8 ++ zerosB 0x68 ++ sessionImage 0x200 (mirrorSession s h n b) ++
  parseImage (parseCtx s h n) ++ keyRecord (sessKeys s h n) ++
  (points.map fun p => leBytes 4 p.1 ++ p.2.drop 0x22).flatten

/-- Lists of at most 14 points, as many as one packet of 4,224 bytes carries beside the session part. -/
def pointGroups : Nat → List Nat → List (List Nat)
  | 0, _ => []
  | f + 1, ps => if ps.length ≤ 14 then [ps] else ps.take 14 :: pointGroups f (ps.drop 14)

/-- The last mirror sequence used for a session. -/
def mirrorSeqOf (s : State) (h : HalfId) (n : Nat) : Nat := SMap.get (fun _ => 0) (s.half h).bom.mirrorSeq n

/-- The header bytes that a MIRR authenticates: as its sender made it, LEN 0 (log entry 32). -/
def mirrHeader (p : Packet) : List Byte := { p with payload := [], hops := 16 }.toBytes.take 32

/-- Whether a half's mode has no session traffic on the fabric (Table 1.6). -/
def noSessions (s : State) (h : HalfId) : Bool := s.inMode h .boot || s.inMode h .safe

/-- Sends one MIRR with a group of points (R350): encrypted under the pair key, its header authenticated. -/
def sendMirr (s : State) (h : HalfId) (n : Nat) (b : List Byte) (points : List Nat) : State :=
  match (if noSessions s h then none else (s.half h).kln.pairTx) with
  | none => s
  | some (key, ctr) =>
    let mseq := mirrorSeqOf s h n + 1
    let bsess := fieldLE b 2 2
    let q := readRecords s h points
    let s := q.2
    let plain := mirrorPlain s h n mseq b q.1
    let p := { newPacket s h (s.fld h Reg.BOM_CFG_BUDDY) 9 0 [] with
      addr := BitVec.ofNat 64 bsess, seq := BitVec.ofNat 32 mseq }
    let p := { p with payload := aeadSeal 0x1302 key (mirrHeader p) (beBytes 12 ctr) plain }
    let s := updKln s h fun k => { k with pairTx := some (key, ctr + 1) }
    let s := updBom s h fun b => { b with mirrorSeq := SMap.set (fun _ => 0) b.mirrorSeq n mseq }
    (sendPacket s h p).2

/-- Sends a mirrored session's state to its buddy (R351). -/
def mirrorUpdate (s : State) (h : HalfId) (n : Nat) : State :=
  if !s.flag h Reg.BOM_CFG_BV then s else
  match readMirror s h n with
  | (none, s) => s
  | (some b, s) =>
    let ps := sessionPoints s h n
    (pointGroups (ps.length + 1) ps).foldl (fun s g => sendMirr s h n b g) s

/-- Hands a frame of a session to its sub-port: at once, or for a mirrored session when the update that covers it is
acknowledged (R351). A silenced session sends none (R352), and no half in Safe (R230). -/
def flumeFrame (s : State) (h : HalfId) (n : Nat) (x : TxFrame) : State :=
  if s.inMode h .safe ∨ silenced s h n then s
  else if mirrored s h n then updBom s h fun b => { b with awaiting := b.awaiting ++ [(n, mirrorSeqOf s h n + 1, x)] }
  else ethSend s h x

end Machine

end Sys2Proof
end

