-- ==== Sys2Proof/Machine/MillTable.lean ====
section
/-! DEFINITION. Mill tables (R274–R276): the places of an image's sections, the validation of a LOAD, the table store, and the
bindings of sessions with the context that an OPEN resets (R264, R265). -/

namespace Sys2Proof.Machine

/-- The header of a table image (Table 13.7) with the offsets of its sections. -/
structure MTab where
  img : List Byte
  kind : Nat
  nstates : Nat
  nact : Nat
  nmaps : Nat
  ncrc : Nat
  start : Nat
  nentry : Nat
  maps : Nat
  smap : Nat
  states : Nat
  entries : Nat
  crcs : Nat
  acts : Nat
  size : Nat

/-- A length padded to 4 bytes. -/
def pad4 (n : Nat) : Nat := (n + 3) / 4 * 4

/-- Reads a header and lays the sections out (R274). -/
def tabOf (img : List Byte) : MTab :=
  let nstates := fieldLE img 6 2
  let nact := fieldLE img 8 2
  let nmaps := fieldLE img 0x0A 1
  let ncrc := fieldLE img 0x0B 1
  let nentry := fieldLE img 0x0E 2
  let smap := 64 + 256 * nmaps
  let states := smap + pad4 nstates
  let entries := states + 64 * nstates
  let crcs := entries + pad4 (2 * nentry)
  let acts := crcs + 16 * ncrc
  ⟨img, fieldLE img 5 1, nstates, nact, nmaps, ncrc, fieldLE img 0x0C 2, nentry, 64, smap, states, entries, crcs, acts,
    acts + 4 * nact⟩

/-- Action word i. -/
def MTab.act (t : MTab) (i : Nat) : Nat := fieldLE t.img (t.acts + 4 * i) 4

/-- OP of an action word. -/
def actOp (w : Nat) : Nat := nbits w 31 27

/-- LAST of an action word. -/
def actLast (w : Nat) : Bool := w.testBit 26

/-- Transition word of a state for a class. -/
def MTab.trans (t : MTab) (state cls : Nat) : Nat := fieldLE t.img (t.states + 64 * state + 4 * cls) 4

/-- Class of a byte in a state. -/
def MTab.cls (t : MTab) (state b : Nat) : Nat := fieldLE t.img (t.maps + 256 * fieldLE t.img (t.smap + state) 1 + b) 1

/-- CRC descriptor i. -/
def MTab.crc (t : MTab) (i : Nat) : CrcDesc :=
  let o := t.crcs + 16 * i
  ⟨fieldLE t.img o 4, fieldLE t.img (o + 4) 4, fieldLE t.img (o + 8) 4, fieldLE t.img (o + 12) 1,
    (fieldLE t.img (o + 13) 1).testBit 0, (fieldLE t.img (o + 13) 1).testBit 1, fieldLE t.img (o + 14) 2⟩

-- validation (Table 13.8)

/-- A refusal: reason and the offset of the offending byte. -/
abbrev LoadErr := Nat × Nat

/-- Operand bits that an operation uses (Table 13.3). -/
def opMask (op : Nat) : Nat :=
  let f (hi lo : Nat) : Nat := 2 ^ (hi + 1) - 2 ^ lo
  match op with
  | 0x01 => f 25 22
  | 0x02 | 0x03 => f 25 23
  | 0x04 | 0x05 => f 25 0
  | 0x06 => f 25 20
  | 0x07 => f 25 23 + f 4 0
  | 0x08 | 0x09 => f 25 23 + f 2 0
  | 0x0A => f 25 23 + f 11 0
  | 0x0B => f 25 20 + f 11 0
  | 0x0C => f 25 21 + f 15 0
  | 0x0D => f 25 24 + f 15 0
  | 0x0E => f 25 24 + f 11 0
  | 0x0F => f 25 24
  | 0x10 => f 25 25 + f 2 0
  | 0x11 | 0x12 => f 25 25
  | 0x13 => f 25 0
  | 0x14 | 0x15 | 0x17 => f 7 0
  | 0x18 => f 25 22 + f 3 0
  | 0x19 => f 25 18 + f 11 0
  | 0x1A => f 25 23 + f 11 0
  | 0x1B => f 25 24 + f 3 0
  | 0x1C => f 25 24 + f 22 22 + f 15 0
  | _ => 0

/-- Whether an operation may stand in a table of a kind: 1 parse, 2 build. -/
def opAllowed (kind op : Nat) : Bool :=
  if op ≤ 0x12 then
    (if kind = 1 then true else op == 0 || (4 ≤ op && op ≤ 9) || (0x10 ≤ op && op ≤ 0x12))
  else if op = 0x15 then true
  else if op ≤ 0x16 then kind == 1
  else op ≤ 0x1C && kind == 2

/-- Operands of an action word that Table 13.3 bounds. -/
def operandsOk (t : MTab) (w : Nat) : Bool :=
  let width (n hi : Nat) : Bool := 1 ≤ n && n ≤ hi
  match actOp w with
  | 0x0A | 0x0B => decide (nbits w 11 0 < t.nstates)
  | 0x0E => decide (nbits w 11 0 < t.nact) && nbits w 11 0 != 0
  | 0x10 => decide (nbits w 2 0 < t.ncrc)
  | 0x15 => t.kind == 2 || decide (16 ≤ nbits w 7 0)
  | 0x18 => width (nbits w 3 0) 8
  | 0x19 => width (nbits w 21 18) 8
  | 0x1B => width (nbits w 3 0) 4
  | _ => true

/-- The byte of a word that holds the lowest set bit of `m`: the offending byte of a field is the one where it begins (log entry
115). -/
def lowByte (m : Nat) : Nat := ((List.range 4).find? fun k => nbits m (8 * k + 7) (8 * k) != 0).getD 0

/-- Checks one action word at its offset. -/
def checkAct (t : MTab) (i : Nat) : Option LoadErr :=
  let w := t.act i
  let o := t.acts + 4 * i
  let unused := nbits w 25 0 &&& (2 ^ 26 - 1 - opMask (actOp w))
  if !opAllowed t.kind (actOp w) then some (6, o + 3)
  else if actOp w = 0x13 ∧ !(1 ≤ nbits w 25 22 ∧ nbits w 25 22 ≤ 8) then some (6, o + 2)
  else if !operandsOk t w then some (5, o + (if actOp w = 0x19 then 2 else 0))
  else if unused ≠ 0 then some (8, o + lowByte unused)
  else none

/-- The words of the list at i by number, up to `f`; where no LAST comes in time, the last word that could have had it. -/
def listWords (t : MTab) : Nat → Nat → Except Nat (List Nat)
  | 0, i => .error (i - 1)
  | f + 1, i =>
    if t.nact ≤ i then .error (i - 1)
    else if actLast (t.act i) then .ok [i]
    else (listWords t f (i + 1)).map (i :: ·)

/-- Words that a list of a table may have (R268). -/
def MTab.limit (t : MTab) : Nat := if t.kind = 1 then 8 else 4096

/-- Checks the list that starts at i: its length (reason 7) and, for an armed list, that it takes no input byte. -/
def checkList (t : MTab) (armed : Bool) (i : Nat) : Option LoadErr :=
  match listWords t t.limit i with
  | .error k => some (7, t.acts + 4 * k + 3)
  | .ok ws =>
    if armed then (ws.find? fun k => 1 ≤ actOp (t.act k) && actOp (t.act k) ≤ 3).map fun k => (6, t.acts + 4 * k + 3) else none

/-- The first refusal among checks of indices below n. -/
def firstErr (n : Nat) (f : Nat → Option LoadErr) : Option LoadErr := (List.range n).findSome? f

/-- Checks a transition word. -/
def checkTrans (t : MTab) (k : Nat) : Option LoadErr :=
  let w := fieldLE t.img (t.states + 4 * k) 4
  let o := t.states + 4 * k
  if t.nstates ≤ nbits w 31 20 then some (5, o + 2)
  else if t.nact ≤ nbits w 19 8 then some (5, o + 1)
  else if nbits w 7 0 ≠ 0 then some (8, o)
  else if nbits w 19 8 = 0 then none
  else checkList t false (nbits w 19 8)

/-- Checks a build entry. -/
def checkEntry (t : MTab) (k : Nat) : Option LoadErr :=
  let a := fieldLE t.img (t.entries + 2 * k) 2
  if a = 0 ∨ t.nact ≤ a then some (5, t.entries + 2 * k) else checkList t false a

/-- Checks a CRC descriptor. -/
def checkCrc (t : MTab) (k : Nat) : Option LoadErr :=
  let o := t.crcs + 16 * k
  let c := t.crc k
  if !(c.width == 8 || c.width == 16 || c.width == 32) then some (2, o + 12)
  else if fieldLE t.img (o + 13) 1 ≥ 4 then some (8, o + 13)
  else if 4096 < c.block then some (2, o + 14)
  else none

/-- Checks the list an ARM names. -/
def checkArm (t : MTab) (i : Nat) : Option LoadErr :=
  if actOp (t.act i) = 0x0E then checkList t true (nbits (t.act i) 11 0) else none

/-- Checks of the header alone (reasons 1, 2, 3 and 8). -/
def checkHeader (t : MTab) : Option LoadErr :=
  let parse := t.kind == 1
  let bad (c : Bool) (r o : Nat) : Option LoadErr := if c then some (r, o) else none
  [bad (fieldLE t.img 0 4 != 0x4C42544D) 1 0, bad (fieldLE t.img 4 1 != 1) 1 4, bad (t.kind != 1 && t.kind != 2) 1 5,
   bad (if parse then t.nstates < 2 || 4096 < t.nstates else t.nstates != 0) 2 6,
   bad (t.nact < 1 || 4096 < t.nact) 2 8,
   bad (if parse then t.nmaps < 1 || 16 < t.nmaps else t.nmaps != 0) 2 0x0A,
   bad (8 < t.ncrc) 2 0x0B,
   bad (if parse then t.start < 1 || t.nstates ≤ t.start else t.start != 0) 2 0x0C,
   bad (if parse then t.nentry != 0 else t.nentry < 1 || 64 < t.nentry) 2 0x0E,
   bad (fieldLE t.img 0x14 4 != t.size) 3 0x14,
   (List.range 28).findSome? fun i => bad (fieldLE t.img (0x20 + i) 1 != 0) 8 (0x20 + i)].findSome? id

/-- Checks of a whole image whose header is good (reasons 4 to 8). -/
def checkImage (t : MTab) : Option LoadErr :=
  if (crc32c (patchB t.img 0x3C [0, 0, 0, 0])).toNat ≠ fieldLE t.img 0x3C 4 then some (4, 0x3C)
  else
    [firstErr (256 * t.nmaps) fun i => if 15 < fieldLE t.img (t.maps + i) 1 then some (5, t.maps + i) else none,
     firstErr t.nstates fun i => if t.nmaps ≤ fieldLE t.img (t.smap + i) 1 then some (5, t.smap + i) else none,
     firstErr t.ncrc (checkCrc t),
     firstErr t.nact (checkAct t),
     firstErr (16 * t.nstates) (checkTrans t),
     firstErr t.nentry (checkEntry t),
     firstErr t.nact (checkArm t)].findSome? id

-- the table store

def mMill : Nat := 0x48

/-- A resident table. -/
def millTable (s : State) (h : HalfId) (n : Nat) : Option MTable := SMap.get (fun _ => none) (s.half h).mil.tables n

def setMillTable (s : State) (h : HalfId) (n : Nat) (x : Option MTable) : State :=
  updMil s h fun m => { m with tables := SMap.set (fun _ => none) m.tables n x }

/-- Frees the retiring slots that no message in progress uses (R276). -/
def freeRetired (s : State) (h : HalfId) : State :=
  updMil s h fun m => { m with
    tables := m.tables.filter fun p => !((p.2.map (·.retiring)).getD false && !m.ctxs.any fun c => c.2.slot == some p.1) }

/-- A table that new messages and builds may use. -/
def usable (s : State) (h : HalfId) (slot kind : Nat) : Option MTab :=
  match millTable s h slot with
  | some x => if x.retiring ∨ (tabOf x.image).kind ≠ kind then none else some (tabOf x.image)
  | none => none

/-- Reads the binding of a session (Table 13.1): none where its read is refused or poisoned. -/
def readBinding (s : State) (h : HalfId) (n : Nat) : Option (List Byte) × State :=
  let r := unitRead s h mMill (s.fld h Reg.MIL_SBASE_BASE * 0x100000 + 16 * n) 16
  (if r.1.refused || r.1.poison then none else some r.1.bytes, r.2)

/-- Granule of Mill's table store that holds offset `o` of a table's image (R169, log entry 98). -/
def tableGranule (x : MTable) (o : Nat) : Nat := 3 * 2 ^ 40 + x.pages.getD (o / 4096) 0 * 256 + o % 4096 / 16

/-- Reads bytes of a table's image from the store: whether an uncorrectable error stood in one of their granules. -/
def tableRead (s : State) (h : HalfId) (x : MTable) (os : List Nat) : Bool × State :=
  if (s.half h).sram.isEmpty then (false, s)
  else os.foldl (fun (a : Bool × State) o => let r := touchUnit a.2 h (tableGranule x o); (a.1 || r.1, r.2)) (false, s)

-- contexts (R265)

/-- A unit that covers nothing. -/
def CrcUnit.idle : CrcUnit := ⟨default, 0, 0, [], false, false⟩

def MField.zero : MField := ⟨0, 0, 0, false, false⟩

/-- The parse context reset under a binding (R265): F, L and the CRC units clear, V7 is VINIT, the state is START of the bound
table. -/
def freshCtx (b : Option (List Byte)) (start : Nat) : ParseCtx :=
  { parseDefault 0 with
    ready := true, state := start, f := List.replicate 8 MField.zero, len := List.replicate 4 (0, none)
    crc := List.replicate 2 CrcUnit.idle
    v := List.replicate 7 0 ++ [BitVec.ofNat 32 (((b.map fun x => fieldLE x 8 4)).getD 0)] }

/-- A session opens: its binding is read and its parse context reset; a slot that only the old context kept is freed (R276). -/
def openContext (s : State) (h : HalfId) (n : Nat) : State :=
  let b := readBinding s h n
  let p := (b.1.map fun x => fieldLE x 0 2).getD 0
  let start := ((if p.testBit 15 then usable b.2 h (p % 256) 1 else none).map (·.start)).getD 0
  freeRetired (setParseCtx b.2 h n (freshCtx b.1 start)) h

end Sys2Proof.Machine
end

