-- ==== Sys2Proof/Machine/Tcp.lean ====
section
/-! DEFINITION. TCP as Flume runs it (R226–R229): segments and options (RFC 9293, RFC 7323), the send side with RFC 5681 and
RFC 6582 congestion control and RFC 6298 timing, and the receive side, over one control block. -/

namespace Sys2Proof.Machine

-- sequence numbers modulo 2^32

/-- a − b modulo 2^32. -/
def sqSub (a b : Nat) : Nat := (a + 2 ^ 32 - b % 2 ^ 32) % 2 ^ 32
def sqAdd (a n : Nat) : Nat := (a + n) % 2 ^ 32
def sqLt (a b : Nat) : Bool := 0 < sqSub b a && sqSub b a < 2 ^ 31
def sqLe (a b : Nat) : Bool := sqSub b a < 2 ^ 31

/-- Whether a deadline has passed at the last wheel tick (R240). -/
def wheelDue (s : State) (t : Nat) : Bool := t ≤ s.elapsed / 1000 * 1000

-- segments

/-- A received segment with the options of R226 that it carries. -/
structure TcpSeg where
  sport : Nat
  dport : Nat
  seq : Nat
  ack : Nat
  fin : Bool
  syn : Bool
  rst : Bool
  ackf : Bool
  urg : Bool
  wnd : Nat
  mss : Option Nat
  ws : Option Nat
  sackOk : Bool
  sacks : List (Nat × Nat)
  ts : Option (Nat × Nat)
  data : List Byte
  deriving DecidableEq, Repr

/-- Sequence numbers a segment takes. -/
def TcpSeg.len (g : TcpSeg) : Nat := g.data.length + b2n g.syn + b2n g.fin

/-- Reads the options; `f` bounds their number. -/
def tcpOptions : Nat → List Byte → TcpSeg → TcpSeg
  | 0, _, g => g
  | f + 1, bs, g =>
    match bs with
    | [] => g
    | k :: _ =>
      if k = 0 then g
      else if k = 1 then tcpOptions f (bs.drop 1) g
      else
        let n := fieldBE bs 1 1
        if n < 2 ∨ bs.length < n then g else
        let v := sliceB bs 2 (n - 2)
        let g := match k.toNat, n with
          | 2, 4 => { g with mss := some (beNat v) }
          | 3, 3 => { g with ws := some (min 14 (beNat v)) }
          | 4, 2 => { g with sackOk := true }
          | 5, _ => { g with sacks := (List.range ((n - 2) / 8)).map fun i => (fieldBE v (8 * i) 4, fieldBE v (8 * i + 4) 4) }
          | 8, 10 => { g with ts := some (fieldBE v 0 4, fieldBE v 4 4) }
          | _, _ => g
        tcpOptions f (bs.drop n) g

/-- The segment that IP payload bytes hold; none where its header runs past them. -/
def tcpParse (b : List Byte) : Option TcpSeg :=
  let off := fieldBE b 12 1 / 16 * 4
  if b.length < 20 ∨ off < 20 ∨ b.length < off then none else
  let fl := fieldBE b 13 1
  some (tcpOptions 40 (sliceB b 20 (off - 20))
    { sport := fieldBE b 0 2, dport := fieldBE b 2 2, seq := fieldBE b 4 4, ack := fieldBE b 8 4
      fin := fl.testBit 0, syn := fl.testBit 1, rst := fl.testBit 2, ackf := fl.testBit 4, urg := fl.testBit 5
      wnd := fieldBE b 14 2, mss := none, ws := none, sackOk := false, sacks := [], ts := none, data := b.drop off })

/-- A segment to send; the acknowledgement, window and timestamps are filled in when its frame is formed. -/
structure OutSeg where
  seq : Nat
  syn : Bool
  fin : Bool
  rst : Bool
  ackf : Bool
  psh : Bool
  data : List Byte
  deriving DecidableEq, Repr

/-- A bare acknowledgement. -/
def ackSeg (t : Tcb) : OutSeg := ⟨t.sndNxt, false, false, false, true, false, []⟩

-- the send side

/-- What of the registers TCP takes: MSS, least RTO in ns, retries. -/
structure TcpCfg where
  mss : Nat
  rtoMin : Nat
  retries : Nat
  synRetries : Nat
  delack : Nat

/-- FLM_TCP's fields. -/
def tcpCfg (s : State) (h : HalfId) : TcpCfg :=
  ⟨s.fld h Reg.FLM_TCP_MSS, s.fld h Reg.FLM_TCP_RTO_MIN_MS * 1000000, s.fld h Reg.FLM_TCP_RETRIES,
    s.fld h Reg.FLM_TCP_SYN_RETRIES, s.fld h Reg.FLM_TCP_DELACK_MS * 1000000⟩

/-- Data bytes of a full segment: the peer's MSS less the timestamp option where it is used. -/
def Tcb.smss (t : Tcb) : Nat := min t.peerMss 9134 - (if t.tsOk then 12 else 0)

/-- Sequence numbers a sent segment takes. -/
def Seg.len (g : Seg) : Nat := g.data.length + b2n g.syn + b2n g.fin

/-- Sequence numbers in flight: those sent and not acknowledged, without the ones that the timer took for lost. -/
def Tcb.flight (t : Tcb) : Nat := sqSub t.sndNxt t.sndUna - ((t.outq.filter (·.due)).map Seg.len).sum

/-- The wire form of a queued segment. -/
def Seg.out (g : Seg) (t : Tcb) (last : Bool) : OutSeg :=
  ⟨g.seq, g.syn, g.fin, false, !g.syn || t.passive, last && !g.data.isEmpty, g.data⟩

/-- Bytes of the send area in use (R228). -/
def Tcb.sendUsed (t : Tcb) : Nat := (t.outq.map fun g => g.data.length).sum + t.unsent.length

/-- A control block that has sent a SYN: initial RTO 1 s (R229). -/
def Tcb.opened (iss now : Nat) (passive : Bool) (rcvNxt : Nat) : Tcb :=
  { sndUna := iss, sndNxt := sqAdd iss 1, sndWnd := 0, rcvNxt, peerMss := 536, peerShift := 0, wsOk := false, tsOk := false, tsRecent := 0
    sackOk := false, sacked := [], cwnd := 0, ssthresh := 2 ^ 30, dupAcks := 0, recover := none, recoverPt := none, srtt := 0, rttvar := 0
    rto := 1000000000, rtoAt := some (now + 1000000000), ackAt := none, unacked := 0
    outq := [⟨iss, [], true, false, 1, now, false⟩], unsent := [], ooo := [], rcv := [], finSent := false, finRcvd := false
    passive, kaSent := 0, kaAt := none, wl1 := 0, wl2 := 0, lastAck := rcvNxt, probes := 0 }

/-- Takes the options of the peer's SYN (R226): without an MSS option, the default of its IP version; the windows scale only where
it offered it (RFC 7323). -/
def Tcb.peerSyn (t : Tcb) (g : TcpSeg) (v6 : Bool) : Tcb :=
  { t with
    peerMss := g.mss.getD (if v6 then 1220 else 536), peerShift := g.ws.getD 0, wsOk := g.ws.isSome, tsOk := g.ts.isSome
    tsRecent := (g.ts.map (·.1)).getD 0, sackOk := g.sackOk, rcvNxt := sqAdd g.seq 1, sndWnd := g.wnd, wl1 := g.seq, wl2 := g.ack }

/-- The initial congestion window (RFC 5681). -/
def Tcb.startWindow (t : Tcb) : Tcb :=
  let m := t.smss
  { t with cwnd := if 2190 < m then 2 * m else if 1095 < m then 3 * m else 4 * m }

/-- Sends a segment again. -/
def Tcb.resend (now : Nat) (t : Tcb) (g : Seg) : Tcb × List OutSeg :=
  ({ t with outq := t.outq.map fun x => if x.seq = g.seq then { x with sends := x.sends + 1, sentAt := now, due := false } else x },
    [g.out t true])

/-- The windows once the handshake is done: after a SYN that the timer sent again, one segment and an RTO of 3 s (RFC 5681,
RFC 6298 rule 5.7). -/
def Tcb.established (sends : Nat) (t : Tcb) : Tcb :=
  if sends ≤ 1 then t.startWindow else { t with cwnd := t.smss, rto := 3000000000 }

/-- Sends what the windows allow, what the timer took for lost first, then each request as soon as they do (R226): `fin` = a FIN
follows the last byte. -/
def Tcb.pump (now : Nat) (fin : Bool) : Nat → Tcb → Tcb × List OutSeg
  | 0, t => (t, [])
  | f + 1, t =>
    match t.outq.find? (·.due) with
    | some g =>
      if t.cwnd < t.flight + g.len ∧ t.flight ≠ 0 then (t, [])
      else
        let x := t.resend now g
        let r := Tcb.pump now fin f x.1
        (r.1, x.2 ++ r.2)
    | none =>
      let room := min (t.cwnd - t.flight) (t.sndWnd - t.flight)
      if t.unsent.isEmpty then
        if fin && !t.finSent then
          let g : Seg := ⟨t.sndNxt, [], false, true, 1, now, false⟩
          ({ t with sndNxt := sqAdd t.sndNxt 1, finSent := true, outq := t.outq ++ [g]
                    rtoAt := some (t.rtoAt.getD (now + t.rto)) }, [g.out t true])
        else (t, [])
      else if room = 0 ∨ t.smss = 0 then (t, [])
      else
        let d := t.unsent.take (min t.smss room)
        let rest := t.unsent.drop d.length
        let g : Seg := ⟨t.sndNxt, d, false, false, 1, now, false⟩
        let r := Tcb.pump now fin f { t with
          sndNxt := sqAdd t.sndNxt d.length, unsent := rest, outq := t.outq ++ [g]
          rtoAt := some (t.rtoAt.getD (now + t.rto)) }
        (r.1, g.out t rest.isEmpty :: r.2)

/-- Pumps all that may go. -/
def Tcb.send (now : Nat) (fin : Bool) (t : Tcb) : Tcb × List OutSeg := t.pump now fin (t.outq.length + t.unsent.length + 2)

/-- The first segment in flight that the SACK blocks do not cover: the one to retransmit (R226). -/
def Tcb.lost (t : Tcb) : Option Seg :=
  (t.outq.find? fun g => !t.sacked.any fun b => sqLe b.1 g.seq && sqLe (sqAdd g.seq g.len) b.2).orElse fun _ => t.outq.head?

/-- The retransmission timing after a round-trip sample (RFC 6298), in ns, with the wheel's 1 µs as clock granularity. -/
def Tcb.sample (c : TcpCfg) (t : Tcb) (r : Nat) : Tcb :=
  let (srtt, var) :=
    if t.srtt = 0 then (r, r / 2)
    else ((7 * t.srtt + r) / 8, (3 * t.rttvar + (max t.srtt r - min t.srtt r)) / 4)
  { t with srtt, rttvar := var, rto := min 60000000000 (max c.rtoMin (srtt + max 1000 (4 * var))) }

/-- Removes what an acknowledgement covers from the segments in flight. -/
def ackTrim (una : Nat) (q : List Seg) : List Seg :=
  q.filterMap fun g =>
    if sqLe (sqAdd g.seq g.len) una then none
    else if sqLt g.seq una then
      some { g with seq := una, data := g.data.drop (sqSub una g.seq - b2n g.syn), syn := false }
    else some g

/-- An acknowledgement of new data (RFC 5681, RFC 6582, RFC 6298). -/
def Tcb.newAck (c : TcpCfg) (now ack : Nat) (t : Tcb) : Tcb × List OutSeg :=
  let n := sqSub ack t.sndUna
  let done := t.outq.filter fun g => sqLe (sqAdd g.seq g.len) ack
  let t := match (done.filter (·.sends == 1)).getLast? with
    | some g => t.sample c (now - g.sentAt)
    | none => t
  let q := ackTrim ack t.outq
  let t := { t with
    sndUna := ack, outq := q, sacked := t.sacked.filter fun b => sqLt ack b.2
    rtoAt := if q.isEmpty then none else some (now + t.rto) }
  let m := t.smss
  match t.recover with
  | some r =>
    if sqLe r ack then
      ({ t with recover := none, dupAcks := 0, cwnd := min t.ssthresh (max t.flight m + m) }, [])
    else
      let t := { t with cwnd := t.cwnd - n + (if m ≤ n then m else 0) }
      match t.lost with
      | some g => t.resend now g
      | none => (t, [])
  | none =>
    let grow := if t.cwnd < t.ssthresh then min n m else max 1 (m * m / max 1 t.cwnd)
    ({ t with dupAcks := 0, cwnd := t.cwnd + grow }, [])

/-- A duplicate acknowledgement: the third starts fast retransmit and recovery where it covers more than the last recovery or
time-out did (RFC 6582), later ones inflate the window. -/
def Tcb.dupAck (now : Nat) (t : Tcb) : Tcb × List OutSeg :=
  let m := t.smss
  let t := { t with dupAcks := t.dupAcks + 1 }
  if t.recover.isSome then ({ t with cwnd := t.cwnd + m }, [])
  else if t.dupAcks = 3 ∧ (t.recoverPt.all fun r => sqLt r t.sndUna) then
    let half := max (t.flight / 2) (2 * m)
    let t := { t with ssthresh := half, cwnd := half + 3 * m, recover := some t.sndNxt, recoverPt := some t.sndNxt }
    match t.lost with
    | some g => t.resend now g
    | none => (t, [])
  else (t, [])

/-- The retransmission timer's expiry while the peer's window is closed: the oldest segment probes it again, without a change of the
congestion window (RFC 9293, section 3.8.6.1). -/
def Tcb.probe (now : Nat) (t : Tcb) : Tcb × List OutSeg :=
  match t.outq with
  | [] => (t, [])
  | g :: _ =>
    let rto := min 60000000000 (2 * t.rto)
    let r := { t with rto, rtoAt := some (now + rto), probes := t.probes + 1 }.resend now g
    ({ r.1 with outq := r.1.outq.map fun x => if x.seq = g.seq then { x with sends := 2 } else x }, r.2)

/-- A segment that the timer takes for lost. -/
def Seg.lost (g : Seg) : Seg := { g with due := true }

/-- The retransmission timer's expiry on a block with segments in flight (RFC 6298): the oldest is sent again, the others fall due,
and slow start sends them as acknowledgements come (RFC 5681). -/
def Tcb.timeout (now : Nat) (t : Tcb) : Tcb × List OutSeg :=
  match t.outq with
  | [] => (t, [])
  | g :: _ =>
    let m := t.smss
    let rto := min 60000000000 (2 * t.rto)
    let t := { t with
      ssthresh := if g.sends = 1 then max (t.flight / 2) (2 * m) else t.ssthresh, cwnd := m, dupAcks := 0, sacked := []
      recover := none, recoverPt := if g.syn then none else some t.sndNxt, rto, rtoAt := some (now + rto)
      outq := t.outq.map Seg.lost }
    t.resend now g

-- the receive side

/-- Bytes the receive area holds in the block: in order and out of order. -/
def Tcb.held (t : Tcb) : Nat := t.rcv.length + (t.ooo.map fun x => x.2.length).sum

/-- Moves out-of-order data that now continues the stream into it. -/
def Tcb.drain : Nat → Tcb → Tcb
  | 0, t => t
  | f + 1, t =>
    match t.ooo.find? fun x => sqLe x.1 t.rcvNxt with
    | none => t
    | some x =>
      let d := x.2.drop (sqSub t.rcvNxt x.1)
      Tcb.drain f { t with ooo := t.ooo.erase x, rcv := t.rcv ++ d, rcvNxt := sqAdd t.rcvNxt d.length }

/-- The part of a segment's data that is new and within a window of `wnd` bytes, with its first sequence number. -/
def Tcb.fresh {β : Type} (wnd seq : Nat) (data : List β) (t : Tcb) : Nat × List β :=
  let skip := if sqLt seq t.rcvNxt then sqSub t.rcvNxt seq else 0
  let at_ := if sqLt seq t.rcvNxt then t.rcvNxt else seq
  (at_, (data.drop skip).take (wnd - sqSub at_ t.rcvNxt))

/-- Takes a segment's data within a window of `wnd` bytes; `true` where it came in order. -/
def Tcb.accept (wnd seq : Nat) (data : List (Byte × Word)) (t : Tcb) : Tcb × Bool :=
  let at_ := (t.fresh wnd seq data).1
  let d := (t.fresh wnd seq data).2
  if d.isEmpty then (t, false)
  else if at_ = t.rcvNxt then
    ({ t with rcv := t.rcv ++ d, rcvNxt := sqAdd t.rcvNxt d.length }.drain (t.ooo.length + 1), true)
  else ({ t with ooo := t.ooo ++ [(at_, d)] }, false)

/-- Whether a segment is acceptable under a window (RFC 9293). -/
def Tcb.acceptable (wnd : Nat) (t : Tcb) (g : TcpSeg) : Bool :=
  let inw (x : Nat) : Bool := sqSub x t.rcvNxt < wnd
  if g.len = 0 then (if wnd = 0 then g.seq == t.rcvNxt else inw g.seq)
  else wnd != 0 && (inw g.seq || inw (sqAdd g.seq (g.len - 1)))

/-- Whether a segment fails PAWS (RFC 7323). -/
def Tcb.pawsFails (t : Tcb) (g : TcpSeg) : Bool :=
  t.tsOk && !g.rst && (match g.ts with | some x => sqLt x.1 t.tsRecent | none => true)

/-- Takes the window of a segment that is not older than the one that gave the window last (RFC 9293, section 3.10.7.4). -/
def Tcb.takeWindow (g : TcpSeg) (wnd : Nat) (t : Tcb) : Tcb :=
  if sqLt t.wl1 g.seq || (t.wl1 == g.seq && sqLe t.wl2 g.ack) then { t with sndWnd := wnd, wl1 := g.seq, wl2 := g.ack } else t

/-- Takes the acknowledgement, SACK blocks and window of an acceptable segment. -/
def Tcb.takeAck (c : TcpCfg) (now : Nat) (g : TcpSeg) (t : Tcb) : Tcb × List OutSeg :=
  let wnd := g.wnd * 2 ^ (if g.syn then 0 else t.peerShift)
  let t := { t with sacked := if t.sackOk then t.sacked ++ g.sacks.filter (fun b => sqLt t.sndUna b.2) else t.sacked }
  if sqLt t.sndUna g.ack && sqLe g.ack t.sndNxt then
    let r := t.newAck c now g.ack
    ({ r.1.takeWindow g wnd with probes := 0 }, r.2)
  else if g.ack = t.sndUna && t.sndWnd != 0 && !t.outq.isEmpty && g.data.isEmpty && !g.syn && !g.fin && wnd = t.sndWnd then t.dupAck now
  else if g.ack = t.sndUna then ({ t.takeWindow g wnd with probes := 0 }, [])
  else (t, [])

/-- Notes that data or a FIN waits for an acknowledgement: at once for every second full segment, out-of-order data or a
FIN; otherwise within DELACK_MS (R229). `true` where it goes now. -/
def Tcb.dueAck (c : TcpCfg) (now : Nat) (g : TcpSeg) (inOrder : Bool) (t : Tcb) : Tcb × Bool :=
  let t := { t with unacked := t.unacked + (if c.mss - (if t.tsOk then 12 else 0) ≤ g.data.length then 1 else 0) }
  if g.fin || !inOrder || 2 ≤ t.unacked || !t.ooo.isEmpty then (t, true)
  else ({ t with ackAt := some (t.ackAt.getD (now + c.delack)) }, false)

end Sys2Proof.Machine
end

