-- ==== Sys2Proof/Machine/Flume.lean ====
section
/-! DEFINITION. Flume: listeners and session lookup (R222), IP (R223, R224), the slow path (R225), sessions and their life
(R228–R236, R441), hot and cold (R232), and what FLM_SCMD does (R236, R243). -/

namespace Sys2Proof.Machine

-- listeners (Table 11.3)

/-- A listener entry. -/
structure Listener where
  num : Nat
  laddr : List Byte
  lport : Nat
  proto : Nat
  cidLen : Nat
  accept : Bool
  dtls : Bool
  tagged : Bool
  path : Bool
  vid : Nat
  thread : Nat
  ring : Nat
  deriving DecidableEq, Repr

/-- Address of listener n. -/
def listenerAddr (s : State) (h : HalfId) (n : Nat) : Nat := s.fld h Reg.FLM_LBASE_BASE * 0x20000 + 32 * n

/-- The listener that an entry's 32 bytes hold, whatever its V. -/
def listenerOf (n : Nat) (b : List Byte) : Listener :=
  let fl := fieldLE b 0x13 1
  { num := n, laddr := sliceB b 0 16, lport := fieldLE b 0x10 2, proto := fieldLE b 0x12 1, cidLen := fieldLE b 0x14 1
    accept := fl.testBit 6, dtls := fl.testBit 5, tagged := fl.testBit 4, path := fl.testBit 3
    vid := fieldLE b 0x16 2 % 4096, thread := fieldLE b 0x18 4 % 0x20000, ring := fieldLE b 0x1C 4 % 0x20000 }

/-- Whether an entry's PROTO or CIDLEN makes it count as V = 0. -/
def Listener.bad (l : Listener) : Bool :=
  !(l.proto == 6 || l.proto == 17) || !(l.cidLen == 0 || (l.dtls && 4 ≤ l.cidLen && l.cidLen ≤ 16))

/-- Reads a listener: none where V = 0, where it counts as V = 0 (counted), or where the read fails. -/
def readListener (s : State) (h : HalfId) (n : Nat) : Option Listener × State :=
  let r := unitRead s h 0x46 (listenerAddr s h n) 32
  if r.1.refused ∨ r.1.poison ∨ !(fieldLE r.1.bytes 0x13 1).testBit 7 then (none, r.2)
  else if (listenerOf n r.1.bytes).bad then (none, r.2.incFld h Reg.FLM_CNT1_BAD_ENTRY)
  else (some (listenerOf n r.1.bytes), r.2)

/-- Entries whose FLAGS byte has V set, as memory lists them. -/
def listenersSet (s : State) (h : HalfId) : List Nat :=
  (s.half h).mem.cells.filterMap fun c =>
    if listenerAddr s h 0 ≤ c.1 ∧ c.1 < listenerAddr s h 4096 ∧ (c.1 - listenerAddr s h 0) % 32 = 0x13 ∧
        c.2.toNat.testBit 7 then some ((c.1 - listenerAddr s h 0) / 32) else none

/-- Whether an entry names a packet's VLAN, local address and port. -/
def Listener.names (l : Listener) (e : EthHdr) (dst : List Byte) (port : Nat) : Bool :=
  l.laddr == dst && l.lport == port && (if l.tagged then e.tagged && e.vid == l.vid else !e.tagged || e.vid == 0)

/-- The listener of a packet (R222 step 1); of several, the lowest-numbered. -/
def findListener (s : State) (h : HalfId) (e : EthHdr) (dst : List Byte) (port proto : Nat) (named : Option Nat) :
    Option Listener × State :=
  match named with
  | some n =>
    let r := readListener s h n
    (r.1.filter (·.proto == proto), r.2)
  | none =>
    (listenersSet s h).foldl (fun (acc : Option Listener × State) n =>
      match acc.1 with
      | some _ => acc
      | none =>
        let r := unitRead acc.2 h 0x46 (listenerAddr s h n) 32
        let raw := listenerOf n r.1.bytes
        if raw.names e dst port && (raw.proto == proto || raw.bad) then readListener acc.2 h n else (none, r.2)) (none, s)

-- sessions and status (R233–R235)

/-- State code of Table 11.4. -/
def SState.code : SState → Nat
  | .free => 0
  | .opening => 1
  | .opened => 2
  | .closing => 3
  | .closed => 4

/-- Writes a session's status entry under a master, raises SESSION for its thread and, on the direct path, posts the status
word in its reply ring (R235). -/
def sessionStatus (s : State) (h : HalfId) (mid n status : Nat) : State :=
  let x := session s h n
  let s := unitWrite s h mid (s.fld h Reg.FLM_SSBASE_BASE * 0x100000 + 16 * n)
    (leBytes 2 status ++ [BitVec.ofNat 8 x.state.code, 0] ++ leBytes 4 x.rebinds ++ leBytes 8 s.timebase.toNat)
  let s := match x.thread with | some t => fmnEvent s h t 2 | none => s
  if x.path then s
  else queueRecord s h ⟨x.ring, sessionRecord s.timebase.toNat x.rebinds x.state.code n status, none, some n, false⟩

/-- Class 3 words of Table 11.5. -/
def sesWord (detail : Nat) : Nat := statusOf 3 detail

/-- Whether a session has work between steps 3 and 8 (R232). -/
def hasWork (s : State) (h : HalfId) (n : Nat) : Bool :=
  let y := s.half h
  y.kln.rxq.any (·.session == n) || y.mil.jobs.any (·.session == n) || y.scl.jobs.any (·.session == n) ||
    y.scl.outq.any (·.session == n) || y.hif.waiting.any (·.session == some n) || y.kln.txq.any (·.session == n) ||
    y.flm.out.any (·.session == n)

/-- Address of a session's cold state (R232). -/
def coldAddr (s : State) (h : HalfId) (n : Nat) : Nat :=
  s.fld h Reg.FLM_DBASE_BASE * 0x100000000 + 0x100000000 + 512 * n

/-- A session's key record is not what it was: both directions are FAILED, with KEY_INTEGRITY and a record of the fault manager (R251). -/
def keysLost (s : State) (h : HalfId) (n : Nat) : State :=
  let s := setKeys s h n { sessKeys s h n with rx := none, rxNext := none, tx := none, rxFailed := true, txFailed := true }
  let s := sessionStatus s h 0x47 n (statusOf 4 0x06)
  record s h { code := 0x51, region := 5, index := 0, mid := 0x47, status := statusOf 4 0x06, address := coldAddr s h n }

/-- Granules of the session store that hold session n (R169, log entry 98): one 32,768th of 24 MiB. -/
def storeAddr (n : Nat) : Nat := 768 * n

/-- A read of a hot session in the session store: what comes poisoned leaves both directions FAILED, and the state is written anew (log
entry 98). -/
def readStore (s : State) (h : HalfId) (n : Nat) : State :=
  if (s.half h).sram.isEmpty then s else
  let r := readUnit s h 1 (storeAddr n) 768
  if r.1 then writeUnit (keysLost r.2 h n) h 0x46 1 (storeAddr n) 768 else r.2

/-- Marks a session used now: it is read from the store. -/
def touchSession (s : State) (h : HalfId) (n : Nat) : State :=
  let s := readStore s h n
  let c := (s.half h).flm.useCount + 1
  setSession (updFlm s h fun y => { y with useCount := c }) h n { session s h n with used := c }

/-- What the cold state of a session holds beside its key record: all but what the resident index keeps. -/
def coldImage (s : State) (h : HalfId) (n : Nat) : List Byte :=
  sliceB (Config.coldImage { session s h n with in5 := false, inCid := false, hot := false, sealCtr := none, used := 0 }
    (parseCtx s h n)) 0 0x100

/-- The 512 bytes of a session's cold state: its key record sealed under counter c (R251), then its Flume state and parse
context (log entry 113). -/
def coldBytes (s : State) (h : HalfId) (n c : Nat) : List Byte :=
  evictSeal s h n c (keyRecord (sessKeys s h n)) ++ coldImage s h n

/-- A session goes cold: its state is written to DDR under the next eviction counter. -/
def putCold (s : State) (h : HalfId) (n : Nat) : State :=
  let s := readStore s h n
  let c := (s.half h).kln.sealCount
  let s := unitWrite s h 0x46 (coldAddr s h n) (coldBytes s h n c)
  let s := updKln s h fun k => { k with sealCount := (c + 1) % 2 ^ 64 }
  setSession s h n { session s h n with hot := false, sealCtr := some c }

/-- Evicts the least recently used unpinned hot session that has no work (R232, R251): none where there is none. -/
def evictOne (s : State) (h : HalfId) : Option State :=
  let cs := (s.half h).flm.sessions.filter fun p => p.2.hot && !p.2.pin && !hasWork s h p.1
  (cs.foldl (fun (b : Option (Nat × Session)) p =>
      match b with | none => some p | some q => if p.2.used < q.2.used then some p else b) none).map fun p => putCold s h p.1

/-- Makes room for one more hot session. -/
def roomForHot (s : State) (h : HalfId) : Option State := if hotCount s h < 32768 then some s else evictOne s h

/-- Whether the sealed key record that was read opens: it is what Kiln sealed under the counter that the resident index keeps, and
the eviction key is still there (R251, R260). -/
def sealOpens (s : State) (h : HalfId) (n : Nat) (r : UnitRead) : Bool :=
  match (session s h n).sealCtr with
  | none => true
  | some c => !r.refused && !r.poison && (s.half h).kln.evictKey.isSome &&
      r.bytes.take 0x100 == evictSeal s h n c (keyRecord (sessKeys s h n))

/-- The Flume state and parse context that cold bytes hold: the ones put there, or where they were changed since, what they spell;
the resident index is not read from there. -/
def coldRestore (s : State) (h : HalfId) (n : Nat) (b : List Byte) : State :=
  if b = coldImage s h n then s else
  let x := session s h n
  setParseCtx (setSession s h n { sessionOf b with in5 := x.in5, inCid := x.inCid, hot := x.hot, sealCtr := x.sealCtr, used := x.used })
    h n (parseOf b)

/-- Brings a cold session into the store (R232, R251), none where no room can be made: a sealed record that does not open leaves
both directions FAILED with KEY_INTEGRITY and a record of the fault manager, and so does poison in the rest (log entry 98). -/
def fetchCold (s : State) (h : HalfId) (n : Nat) : Option State :=
  match roomForHot s h with
  | none => none
  | some s =>
    let r := unitRead s h 0x46 (coldAddr s h n) 512
    let ok := sealOpens r.2 h n r.1
    let s := coldRestore r.2 h n (r.1.bytes.drop 0x100)
    let s := writeUnit s h 0x46 1 (storeAddr n) 768
    let s := touchSession (setSession s h n { session s h n with hot := true, sealCtr := none }) h n
    some (if ok then s else keysLost s h n)

/-- Work for a session, which first comes into the store where it is cold; none where it waits for room there (R232). -/
def withHot (s : State) (h : HalfId) (n : Nat) (f : State → State) : Option State :=
  if (session s h n).hot then some (f (readStore s h n)) else (fetchCold s h n).map f

/-- Ends frame requests of a session that wait for its send area. -/
def dropWaiting (s : State) (h : HalfId) (n : Nat) : State :=
  let js := (s.half h).flm.out.filter (·.session == n)
  js.foldl (fun s j => endRequest s h j.src (statusOf 1 0x04)) (updFlm s h fun y => { y with out := y.out.filter (·.session != n) })

/-- What a connection that ended leaves of its control block: received bytes that make up whole records, which still go to Kiln
(R233). -/
def Tcb.leftover (t : Tcb) : Option Tcb :=
  if t.rcv.length < 5 ∨ t.rcv.length < 5 + fieldBE (t.rcv.map (·.1)) 3 2 then none
  else some { t with outq := [], unsent := [], ooo := [], rtoAt := none, ackAt := none, kaAt := none }

/-- A session enters CLOSED (R233): it is unpinned, a UDP session leaves the indices, and its status is told. `own` = closed by
its own FIN; `keep` = its control block stays, to end the connection or to answer retransmitted FINs. -/
def closeSession (s : State) (h : HalfId) (n detail : Nat) (own keep : Bool) : State :=
  let x := session s h n
  let s := setSession s h n { x with
    state := .closed, pin := false, closedAt := s.elapsed, ownFin := own, in5 := keep, inCid := false
    tcb := if keep then x.tcb else x.tcb.bind Tcb.leftover }
  sessionStatus (dropWaiting s h n) h 0x46 n (sesWord detail)

-- frames of a session (R223, R441)

/-- Whether a 16-byte address is an IPv4 one. -/
def isMapped (a : List Byte) : Bool := a.take 12 == zerosB 10 ++ [0xFF, 0xFF]

/-- Checksum field of upper-layer bytes whose own field is 0. -/
def l4Checksum (src dst : List Byte) (proto : Nat) (b : List Byte) : Nat :=
  let pseudo :=
    if isMapped src && isMapped dst then src.drop 12 ++ dst.drop 12 ++ [0, BitVec.ofNat 8 proto] ++ beBytes 2 b.length
    else src ++ dst ++ beBytes 4 b.length ++ [0, 0, 0, BitVec.ofNat 8 proto]
  0xFFFF - onesSum (pseudo ++ b)

/-- The IP packet around upper-layer bytes, with the fixed header values of R223. -/
def ipPacket (src dst : List Byte) (proto : Nat) (b : List Byte) : List Byte :=
  if isMapped src && isMapped dst then
    let hd := [0x45, 0] ++ beBytes 2 (20 + b.length) ++ [0, 0, 0x40, 0, 64, BitVec.ofNat 8 proto, 0, 0] ++ src.drop 12 ++ dst.drop 12
    patchB hd 10 (beBytes 2 (0xFFFF - onesSum hd)) ++ b
  else [0x60, 0, 0, 0] ++ beBytes 2 b.length ++ [BitVec.ofNat 8 proto, 64] ++ src ++ dst ++ b

/-- An Ethernet frame without FCS: source ETH_MAC, the VLAN tag where there is one. -/
def ethFrame (s : State) (h : HalfId) (dst : List Byte) (tag : Option (Nat × Nat)) (v4 : Bool) (ip : List Byte) : List Byte :=
  dst ++ beBytes 6 (s.fld h Reg.ETH_MAC_MAC) ++
    (match tag with | some (vid, pcp) => [0x81, 0x00] ++ beBytes 2 (pcp * 0x2000 + vid) | none => []) ++
    (if v4 then [0x08, 0x00] else [0x86, 0xDD]) ++ ip

/-- Sends upper-layer bytes (checksum field at `co` zero) as a frame of a session (R441). -/
def sendL4 (s : State) (h : HalfId) (n proto co : Nat) (b : List Byte) : State :=
  let x := session s h n
  let c := l4Checksum x.laddr x.raddr proto b
  let b := patchB b co (beBytes 2 (if proto = 17 ∧ c = 0 then 0xFFFF else c))
  let v4 := isMapped x.laddr && isMapped x.raddr
  let f := ethFrame s h x.nhMac (if x.tagged then some (x.vid, x.pcp) else none) v4 (ipPacket x.laddr x.raddr proto b)
  flumeFrame s h n ⟨x.sub, f, if x.tagged then x.pcp else s.fld h Reg.ETH_PFC_UNTAG_PRIO, false⟩

/-- Sends a datagram of a UDP session. -/
def sendUdp (s : State) (h : HalfId) (n : Nat) (d : List Byte) : State :=
  let x := session s h n
  sendL4 s h n 17 6 (beBytes 2 x.lport ++ beBytes 2 x.rport ++ beBytes 2 (8 + d.length) ++ [0, 0] ++ d)

/-- The window a session advertises: the free part of its 32 KiB receive area (R228). -/
def rcvWindow (t : Tcb) : Nat := 32768 - t.held

/-- Address of a session's receive area; its send area follows it (R228). -/
def areaAddr (s : State) (h : HalfId) (n : Nat) : Nat := s.fld h Reg.FLM_DBASE_BASE * 0x100000000 + 65536 * n

/-- Writes bytes of a stream from a sequence number on into a 32 KiB area, each at its number modulo the size (log entry 114). -/
def areaWrite (s : State) (h : HalfId) (a seq : Nat) (bs : List Byte) : State :=
  let o := seq % 32768
  let s := if bs.isEmpty then s else unitWrite s h 0x46 (a + o) (bs.take (32768 - o))
  if (bs.drop (32768 - o)).isEmpty then s else unitWrite s h 0x46 a (bs.drop (32768 - o))

/-- TCP options of a segment (R226): MSS, SACK-permitted, timestamps and window scale on a SYN, in a SYN-ACK only what the peer
offered; timestamps on the others where agreed. -/
def segOptions (s : State) (h : HalfId) (t : Tcb) (o : OutSeg) : List Byte :=
  let ts := beBytes 4 (Config.tcpClock s.elapsed).toNat ++ beBytes 4 (if o.ackf then t.tsRecent else 0)
  if o.syn then
    let all := !o.ackf
    [2, 4] ++ beBytes 2 (s.fld h Reg.FLM_TCP_MSS) ++
      (if all || t.sackOk then [4, 2] else [1, 1]) ++
      (if all || t.tsOk then [8, 10] ++ ts else []) ++
      (if all || t.wsOk then [1, 3, 3, 0] else [1, 1, 1, 1]) ++ (if all || t.tsOk then [] else [1, 1])
  else if t.tsOk && !o.rst then [1, 1, 8, 10] ++ ts else []

/-- The bytes of a segment with its checksum field zero. -/
def segBytes (sport dport : Nat) (o : OutSeg) (ack wnd : Nat) (opts : List Byte) : List Byte :=
  let fl := b2n o.fin + 2 * b2n o.syn + 4 * b2n o.rst + 8 * b2n o.psh + 16 * b2n o.ackf
  beBytes 2 sport ++ beBytes 2 dport ++ beBytes 4 o.seq ++ beBytes 4 (if o.ackf then ack else 0) ++
    [BitVec.ofNat 8 ((20 + opts.length) / 4 * 16), BitVec.ofNat 8 fl] ++ beBytes 2 wnd ++ [0, 0, 0, 0] ++ opts ++ o.data

/-- Sends segments of a session, their data kept in the send area (R228); any of them that acknowledges ends the wait to
acknowledge. -/
def sendSegs (s : State) (h : HalfId) (n : Nat) (os : List OutSeg) : State :=
  match (session s h n).tcb with
  | none => s
  | some t =>
    let x := session s h n
    let s := if os.any (·.ackf) then setSession s h n { x with tcb := some { t with unacked := 0, ackAt := none, lastAck := t.rcvNxt } } else s
    os.foldl (fun s o =>
      sendL4 (areaWrite s h (areaAddr s h n + 32768) o.seq o.data) h n 6 16
        (segBytes x.lport x.rport o t.rcvNxt (min 0xFFFF (rcvWindow t)) (segOptions s h t o))) s

/-- Stores a session's control block. -/
def setTcb (s : State) (h : HalfId) (n : Nat) (t : Tcb) : State := setSession s h n { session s h n with tcb := some t }

/-- Keeps the retransmission timer running while data waits for a window that is closed. -/
def armPersist (now : Nat) (t : Tcb) : Tcb :=
  if t.outq.isEmpty && !t.unsent.isEmpty && t.rtoAt.isNone then { t with rtoAt := some (now + t.rto) } else t

/-- Moves waiting records of a session into its send area where they fit, ending their requests (Table 15.5). -/
def fillSend : Nat → State → HalfId → Nat → State
  | 0, s, _, _ => s
  | f + 1, s, h, n =>
    match (s.half h).flm.out.find? (·.session == n), (session s h n).tcb with
    | some j, some t =>
      if t.sendUsed + j.data.length ≤ 32768 then
        let s := updFlm s h fun y => { y with out := y.out.erase j }
        let s := setTcb s h n { t with unsent := t.unsent ++ j.data }
        fillSend f (endRequest s h j.src 0) h n
      else s
    | _, _ => s

/-- Sends what a TCP session now may. -/
def tcpPush (s : State) (h : HalfId) (n : Nat) : State :=
  let s := fillSend ((s.half h).flm.out.length + 1) s h n
  let x := session s h n
  match x.tcb with
  | none => s
  | some t =>
    if x.state = .opening then s
    else
      let r := t.send s.elapsed (x.state == .closing || (x.state == .closed && t.finRcvd))
      sendSegs (setTcb s h n (armPersist s.elapsed r.1)) h n r.2

/-- The whole TLS records at the head of received bytes, as many as `f`, and the rest (R228). -/
def tlsRecords : Nat → List Byte → List (List Byte) × List Byte
  | 0, bs => ([], bs)
  | f + 1, bs =>
    let n := 5 + fieldBE bs 3 2
    if bs.length < 5 ∨ bs.length < n then ([], bs)
    else
      let r := tlsRecords f (bs.drop n)
      (bs.take n :: r.1, r.2)

/-- Whether the handshake ring is full (R246). -/
def hringFull (s : State) (h : HalfId) : Bool :=
  ringHolds (s.fld h Reg.KLN_HRING_PROD) (s.fld h Reg.KLN_HRING_CONS) == 2 ^ s.fld h Reg.KLN_HRING_LOG2 - 1

/-- Whether outputs of a session wait for room in its reply ring or inbox: its work stops there, and takes no place from other sessions'
(R220). -/
def outHeld (s : State) (h : HalfId) (n : Nat) : Bool := (s.half h).scl.outq.any (·.session == n)

/-- Whether a session's next stage holds its records back: its outputs wait, or one of its records waits for the full handshake ring. -/
def ownHeld (s : State) (h : HalfId) (n : Nat) : Bool :=
  outHeld s h n || (hringFull s h && (s.half h).kln.rxq.any (·.session == n))

/-- Records in Kiln of the sessions that no stage holds back. -/
def kilnLoad (s : State) (h : HalfId) : Nat := ((s.half h).kln.rxq.filter (!ownHeld s h ·.session)).length

/-- Passes whole records to Kiln while it takes them (R220, R249), on the path of the frame that completed them (R18, R228). -/
def passRecords (s : State) (h : HalfId) (n : Nat) : State :=
  match (session s h n).tcb with
  | none => s
  | some t =>
    let r := tlsRecords (if ownHeld s h n then 0 else 12 - kilnLoad s h) (t.rcv.map (·.1))
    let d := t.rcv.take (t.rcv.length - r.2.length)
    let p := (session s h n).path
    if r.1.isEmpty then s else
    updKln (setTcb s h n { t with rcv := t.rcv.drop d.length }) h fun k =>
      { k with rxq := k.rxq ++ (r.1.foldl (fun (a : List RxRecord × List Word) b =>
          (a.1 ++ [⟨n, b, a.2.take b.length, p, none⟩], a.2.drop b.length)) ([], d.map (·.2))).1 }

/-- Kiln has room again: sessions whose whole records wait in their receive areas pass them. -/
def passWaiting (s : State) (h : HalfId) : State :=
  (s.half h).flm.sessions.foldl (fun s p => if (p.2.tcb.map (·.rcv.isEmpty)).getD true then s else passRecords s h p.1) s

/-- The session reaches OPEN: its keepalive time starts, and SESSION_OPENED is told. -/
def enterOpen (s : State) (h : HalfId) (n : Nat) : State :=
  let x := session s h n
  let ka := if x.kaS = 0 then none else some (s.elapsed + x.kaS * 1000000000)
  let s := setSession s h n { x with
    state := if x.state = .closing then .closing else .opened, lastRx := s.elapsed
    tcb := x.tcb.map fun t => { t with kaAt := ka, kaSent := 0 } }
  if x.state = .closing then s else sessionStatus s h 0x46 n (sesWord 0x10)

/-- A segment for an active open that waits for its SYN's answer. -/
def synSent (s : State) (h : HalfId) (n : Nat) (x : Session) (t : Tcb) (g : TcpSeg) : State :=
  let ackOk := g.ackf && sqLt t.sndUna g.ack && sqLe g.ack t.sndNxt
  if g.ackf && !ackOk then
    if g.rst then s else sendSegs s h n [⟨g.ack, false, false, true, false, false, []⟩]
  else if g.rst then (if ackOk then closeSession s h n 0x02 false false else s)
  else if !g.syn then s
  else
    let t : Tcb := t.peerSyn g (!isMapped x.raddr)
    if ackOk then
      let first : Nat := (t.outq.head?.map (·.sends)).getD 1
      let t : Tcb := (Tcb.newAck (tcpCfg s h) s.elapsed g.ack { t with cwnd := t.smss }).1
      let t : Tcb := t.established first
      tcpPush (sendSegs (enterOpen (setTcb s h n t) h n) h n [ackSeg t]) h n
    else
      let t : Tcb := { t with passive := true }
      sendSegs (setTcb s h n t) h n (t.outq.head?.map fun q => q.out t true).toList

/-- Restarts a session's keepalive time: a segment came (R230). -/
def keepAliveRestart (s : State) (x : Session) (t : Tcb) : Tcb :=
  if x.kaS = 0 ∨ t.kaAt.isNone then t else { t with kaAt := some (s.elapsed + x.kaS * 1000000000), kaSent := 0 }

/-- What follows once a segment's acknowledgement, data and FIN are taken: state changes (Table 11.4), records to Kiln and
frames out. -/
def tcpSettle (s : State) (h : HalfId) (n : Nat) (ackNow : Bool) : State :=
  let s := passRecords s h n
  let x := session s h n
  match x.tcb with
  | none => s
  | some t =>
    let finAcked := t.finSent && t.outq.isEmpty
    let s := if ackNow then sendSegs s h n [ackSeg t] else s
    match x.state with
    | .opened => if t.finRcvd then tcpPush (closeSession s h n 0x01 false true) h n else tcpPush s h n
    | .closing => if finAcked && t.finRcvd then closeSession s h n 0x05 true true else tcpPush s h n
    | .closed =>
      if finAcked && !x.ownFin then setSession s h n { session s h n with tcb := none, in5 := false } else tcpPush s h n
    | .opening | .free => s

/-- A segment for a session past its SYN (RFC 9293, section 3.10.7.4). -/
def tcpSegment (s : State) (h : HalfId) (n : Nat) (x : Session) (t : Tcb) (g : TcpSeg) (time : Word) : State :=
  let wnd := rcvWindow t
  let answer (s : State) : State := if g.rst then s else sendSegs s h n [ackSeg t]
  if t.pawsFails g then answer s
  else if !t.acceptable wnd g then answer s
  else if g.rst then
    if g.seq = t.rcvNxt then
      (if x.state = .closed then setSession s h n { x with tcb := none, in5 := false } else closeSession s h n 0x02 false false)
    else sendSegs s h n [ackSeg t]
  else if g.syn then answer s
  else if !g.ackf then s
  else
    let opening := x.state == .opening || (x.state == .closing && (t.outq.head?.map (·.syn)).getD false)
    let fits := sqLt t.sndUna g.ack && sqLe g.ack t.sndNxt
    if opening && !fits then sendSegs s h n [⟨g.ack, false, false, true, false, false, []⟩]
    else if sqLt t.sndNxt g.ack then answer s
    else
      let t := match g.ts with
        | some v => if t.tsOk && sqLe g.seq t.lastAck then { t with tsRecent := v.1 } else t
        | none => t
      let first : Nat := (t.outq.head?.map (·.sends)).getD 1
      let r := t.takeAck (tcpCfg s h) s.elapsed g
      let t := if opening then r.1.established first else r.1
      let s := if opening then enterOpen (setTcb s h n t) h n else setTcb s h n t
      let s := sendSegs s h n r.2
      let t := ((session s h n).tcb).getD t
      let live := x.state != .closed
      let new := t.fresh wnd g.seq g.data
      let s := if live then areaWrite s h (areaAddr s h n) new.1 new.2 else s
      let d := if live then t.accept wnd g.seq (g.data.map fun b => (b, time)) else (t, true)
      let t := d.1
      let t := if g.fin && sqAdd g.seq g.data.length == t.rcvNxt && !t.finRcvd then
        { t with rcvNxt := sqAdd t.rcvNxt 1, finRcvd := true } else t
      let a := if g.data.isEmpty && !g.fin then (t, false) else t.dueAck (tcpCfg s h) s.elapsed g d.2
      tcpSettle (setTcb s h n a.1) h n a.2

/-- An inbound segment of a session (R226, R227). -/
def tcpInput (s : State) (h : HalfId) (n : Nat) (g : TcpSeg) (time : Word) : State :=
  let s := if g.urg then s.incFld h Reg.FLM_CNT1_URG else s
  let x := session s h n
  match x.tcb with
  | none => s
  | some t =>
    let t := keepAliveRestart s x t
    let s := setTcb s h n t
    let x := session s h n
    if (x.state = .opening ∨ x.state = .closing) ∧ !t.passive ∧ (t.outq.head?.map (·.syn)).getD false then synSent s h n x t g
    else tcpSegment s h n x t g time

/-- RST in answer to a segment that belongs to no session, back the way it came, counted (R222). -/
def answerRst (s : State) (h : HalfId) (f : LandFrame) (ip : IpInfo) (g : TcpSeg) : State :=
  if g.rst then s else
  let e := ethHdr f.bytes
  let o : OutSeg := ⟨if g.ackf then g.ack else 0, false, false, true, !g.ackf, false, []⟩
  let b := segBytes g.dport g.sport o (sqAdd g.seq g.len) 0 []
  let b := patchB b 16 (beBytes 2 (l4Checksum ip.dst ip.src 6 b))
  let fr := ethFrame s h (sliceB f.bytes 6 6) (if e.tagged then some (e.vid, e.pcp) else none) (!ip.v6) (ipPacket ip.dst ip.src 6 b)
  ethSend (s.incFld h Reg.FLM_CNT1_RST_SENT) h ⟨f.sub, fr, f.prio, false⟩

-- the slow path (R225)

/-- Puts a frame into the slow-path ring, or drops and counts it where the ring is full. -/
def slowPath (s : State) (h : HalfId) (f : LandFrame) (reason : Nat) : State :=
  let prod := s.fld h Reg.FLM_SLOW_PROD
  let size := 2 ^ s.fld h Reg.FLM_SLOW_LOG2
  if ringHolds prod (s.fld h Reg.FLM_SLOW_CONS) = size - 1 then s.incFld h Reg.FLM_CNT1_SP_DROP
  else
    let hd := leBytes 8 f.time.toNat ++ leBytes 2 f.bytes.length ++ [BitVec.ofNat 8 f.sub, BitVec.ofNat 8 reason] ++
      leBytes 4 0xFFFFFFFF ++ zerosB 0x30
    let s := unitWrite s h 0x46 (s.fld h Reg.FLM_SPBASE_BASE * 0x1000 + 10240 * (prod % size)) (hd ++ f.bytes)
    let s := s.setFld h Reg.FLM_SLOW_PROD ((prod + 1) % 0x10000)
    fmnEvent s h (s.fld h Reg.FLM_SLOW_THREAD) 2

-- fragments (R224)

/-- Bytes a datagram has with so much payload. -/
def datagramLen (c : Reasm) (n : Nat) : Nat := (if c.header.isEmpty then (if c.v6 then 40 else 20) else c.header.length) + n

/-- Puts a fragment at its place among others in rising order. -/
def insertFrag (x : Nat × List Byte) : List (Nat × List Byte) → List (Nat × List Byte)
  | [] => [x]
  | y :: ys => if x.1 ≤ y.1 then x :: y :: ys else y :: insertFrag x ys

/-- Fragments in rising order. -/
def sortFrags (xs : List (Nat × List Byte)) : List (Nat × List Byte) := xs.foldr insertFrag []

/-- The reassembled frame: the first fragment's headers, no fragment header, lengths and checksum set right. -/
def reassembled (c : Reasm) : LandFrame :=
  let e := ethHdr c.first.bytes
  let body := ((sortFrags c.frags).map (·.2)).flatten
  let hd :=
    if c.v6 then patchB c.header 4 (beBytes 2 (c.header.length - 40 + body.length))
    else
      let x := patchB (patchB (patchB c.header 2 (beBytes 2 (c.header.length + body.length))) 6 [0, 0]) 10 [0, 0]
      patchB x 10 (beBytes 2 (0xFFFF - onesSum x))
  { c.first with bytes := c.first.bytes.take e.l3 ++ hd ++ body, slow := none, listener := none, held := 0, also := c.space }

/-- Puts a reassembly in another's place. -/
def setReasm (s : State) (h : HalfId) (c c' : Reasm) : State :=
  updFlm s h fun y => { y with reasm := y.reasm.map fun z => if z = c then c' else z }

/-- Discards a datagram and counts it: the context stays until its time runs out, and takes the fragments that still come. -/
def dropReasm (s : State) (h : HalfId) (c : Reasm) : State :=
  (setReasm s h c { c with frags := [], dead := true, space := [] }).incFld h Reg.FLM_CNT0_REASM_DROP

/-- Takes a fragment; the datagram's frame where it completes one. -/
def takeFragment (s : State) (h : HalfId) (f : LandFrame) (ip : IpInfo) : Option LandFrame × State :=
  let key := (if ip.v6 then [1] else [0]) ++ ip.fragId
  let l3 := (ethHdr f.bytes).l3
  let old := (s.half h).flm.reasm.find? (·.key == key)
  if old.isNone && 16384 ≤ (s.half h).flm.reasm.length then (none, s.incFld h Reg.FLM_CNT0_REASM_DROP)
  else
    let c := old.getD ⟨key, ip.v6, [], none, [], f, s.elapsed, false, []⟩
    let s := updFlm s h fun y => { y with reasm := (if old.isSome then y.reasm else y.reasm ++ [c]) }
    let n := ip.body.length
    let hd := if ip.v6 then patchB ip.head (if ip.head.length = 40 then 6 else 40) (sliceB f.bytes (l3 + ip.head.length) 1) else ip.head
    let overlap := c.frags.any fun x => x.1 < ip.fragOff + n && ip.fragOff < x.1 + x.2.length
    let total := if ip.more then c.total else some (ip.fragOff + n)
    let past := (match total with | some t => decide (t < ip.fragOff + n) || c.frags.any fun x => t < x.1 + x.2.length | none => false) ||
      (!ip.more && c.total.isSome)
    let c' := { c with
      frags := c.frags ++ [(ip.fragOff, ip.body)], total
      header := if ip.fragOff = 0 then hd else c.header, first := if ip.fragOff = 0 then f else c.first
      space := c.space ++ [(f.prio, n)] }
    let stop := (c'.frags.map fun x => x.1 + x.2.length).foldl max 0
    if c.dead then (none, s)
    else if overlap || past || 9216 < datagramLen c' stop then (none, dropReasm s h c)
    else if total = some ((c'.frags.map fun x => x.2.length).sum) then
      (some (reassembled c'), updFlm s h fun y => { y with reasm := y.reasm.erase c })
    else (none, setReasm s h c c')

/-- REASSEMBLY_TIMEOUT: the i-th datagram, not complete within TIMEOUT_S, is discarded (R224). -/
def execReassemblyTimeout (h : HalfId) (i : Nat) (s : State) : Host.Outcome State Fault Refusal :=
  match (s.half h).flm.reasm[i]? with
  | none => .next s
  | some c =>
    .next (if wheelDue s (c.since + s.fld h Reg.FLM_REASM_TIMEOUT_S * 1000000000) then
      let s := updFlm s h fun y => { y with reasm := y.reasm.erase c }
      if c.dead then s else s.incFld h Reg.FLM_CNT0_REASM_DROP
    else s)

-- lookup (R222)

/-- What a packet is found to be for. -/
inductive Target where
  | drop
  | slow (reason : Nat)
  | rst
  | session (n : Nat) (provisional : Bool)
  | opens (l : Listener)
  deriving DecidableEq, Repr

/-- Whether the upper layer's checksum or length is bad (R223). -/
def l4Bad (ip : IpInfo) : Bool :=
  let sum (b : List Byte) : Bool := l4Checksum ip.src ip.dst ip.proto b != 0
  if ip.proto = 6 then (tcpParse ip.body).isNone || sum ip.body
  else
    let n := fieldBE ip.body 4 2
    ip.body.length < 8 || n < 8 || ip.body.length < n ||
      (if fieldBE ip.body 6 2 = 0 then ip.v6 else sum (ip.body.take n))

/-- UDP payload. -/
def udpData (ip : IpInfo) : List Byte := (ip.body.take (fieldBE ip.body 4 2)).drop 8

/-- The session of a 5-tuple (Table 11.4: those in the index). -/
def find5 (s : State) (h : HalfId) (laddr : List Byte) (lport proto : Nat) (raddr : List Byte) (rport : Nat) : Option Nat :=
  ((s.half h).flm.sessions.find? fun p => p.2.in5 && p.2.laddr == laddr && p.2.lport == lport && p.2.proto == proto &&
    p.2.raddr == raddr && p.2.rport == rport).map (·.1)

/-- The session of a connection ID on a listener. -/
def findCid (s : State) (h : HalfId) (l : Listener) (cid : List Byte) : Option Nat :=
  ((s.half h).flm.sessions.find? fun p => p.2.inCid && p.2.cid == cid && p.2.cidLen == l.cidLen).map (·.1)

/-- R222 for one whole packet. -/
def lookup (s : State) (h : HalfId) (f : LandFrame) (ip : IpInfo) : Target × State :=
  if l4Bad ip then (.drop, s) else
  let tcp := ip.proto == 6
  let sport := fieldBE ip.body 0 2
  let r := findListener s h (ethHdr f.bytes) ip.dst (fieldBE ip.body 2 2) ip.proto f.listener
  match r.1 with
  | none => (if tcp then .rst else .slow 6, r.2)
  | some l =>
    match find5 s h l.laddr l.lport l.proto ip.src sport with
    | some n => (.session n false, r.2)
    | none =>
      let d := udpData ip
      let b0 := fieldBE d 0 1
      let cid := if !tcp && l.cidLen != 0 && b0 / 32 == 1 && b0.testBit 4 then findCid s h l (sliceB d 1 l.cidLen) else none
      match cid with
      | some n => (.session n true, r.2)
      | none =>
        if tcp then
          match tcpParse ip.body with
          | some g => (if g.syn && !g.ackf && !g.rst && l.accept then .opens l else .rst, r.2)
          | none => (.drop, r.2)
        else (.slow 7, r.2)

/-- Whether Scaler accepts another job: one for each of its 16 engines (R220, R440, log entry 116). -/
def scalerAccepts (s : State) (h : HalfId) : Bool :=
  s.flag h Reg.SCL_CTRL_EN && ((s.half h).scl.jobs.filter (!outHeld s h ·.session)).length < 16

/-- Whether Mill accepts another parse job: one for each of its 32 engines (R220, R263, R440, log entry 116). -/
def millAccepts (s : State) (h : HalfId) : Bool :=
  s.flag h Reg.MIL_CTRL_EN &&
    ((s.half h).mil.jobs.filter fun j => match j with | .parse j => !outHeld s h j.session | .build _ => false).length < 32

/-- Whether a session's frames wait in the landing buffer (R220, R232, R440): its state is cold, Kiln accepts no record or has its twelve,
or a stage behind it holds the session's work. -/
def sessionBlocked (s : State) (h : HalfId) (n : Nat) : Bool :=
  !(session s h n).hot || !s.flag h Reg.KLN_CTRL_EN || 12 ≤ kilnLoad s h || ownHeld s h n

/-- The lowest FREE session number from PBASE on (R228); `f` bounds the search by the sessions that are not free. -/
def freeFrom (s : State) (h : HalfId) : Nat → Nat → Option Nat
  | 0, _ => none
  | f + 1, k => if 0x10000 ≤ k then none else if (session s h k).state = .free then some k else freeFrom s h f (k + 1)

/-- A passive open (R222 step 4, R228, R441): a SYN on an accepting listener. -/
def passiveOpen (s : State) (h : HalfId) (l : Listener) (f : LandFrame) (ip : IpInfo) (g : TcpSeg) : State :=
  match freeFrom s h ((s.half h).flm.sessions.length + 1) (s.fld h Reg.FLM_CTRL_PBASE) with
  | none => answerRst (updFlm s h fun y => { y with noSlot := y.noSlot + 1 }) h f ip g
  | some n =>
    let iss := s.takeFree.1.toNat % 2 ^ 32
    let s := s.takeFree.2
    let t := (Tcb.opened iss s.elapsed true (sqAdd g.seq 1)).peerSyn g ip.v6
    let s := setSession s h n { sessionDefault n with
      state := .opening, listener := l.num, laddr := l.laddr, lport := l.lport, proto := 6, dtls := l.dtls, tagged := l.tagged
      vid := l.vid, cidLen := l.cidLen, raddr := ip.src, rport := g.sport, in5 := true, path := l.path
      thread := some l.thread, ring := l.ring, sub := f.sub, nhMac := sliceB f.bytes 6 6, hot := true, tcb := some t }
    let s := openContext (touchSession (setKeys s h n (keysDefault n)) h n) h n
    let s := sessionStatus s h 0x46 n 0
    mirrorUpdate (sendSegs s h n [(t.outq.head?.map fun q => q.out t true).getD (ackSeg t)]) h n

/-- Takes a frame for a session from its current peer: the way back follows it (R441). -/
def learnPeer (s : State) (h : HalfId) (n : Nat) (f : LandFrame) : State :=
  touchSession (setSession s h n { session s h n with nhMac := sliceB f.bytes 6 6, sub := f.sub }) h n

/-- A packet Flume accepts for a session (step 3): a segment, or a datagram whose records go to Kiln, provisional where the
CID index gave the session and the address is not its current peer's (R231). -/
def sessionInput (s : State) (h : HalfId) (n : Nat) (prov : Bool) (f : LandFrame) (ip : IpInfo) : State :=
  if silenced s h n then s
  else if ip.proto = 6 then
    match tcpParse ip.body with
    | some g => mirrorUpdate (tcpInput (learnPeer s h n f) h n g f.time) h n
    | none => s
  else
    let x := session s h n
    let prov := prov && !(x.raddr == ip.src && x.rport == fieldBE ip.body 0 2)
    let s := if prov then touchSession s h n else mirrorUpdate (learnPeer s h n f) h n
    let p := if prov then some (ip.src, fieldBE ip.body 0 2, f.sub, sliceB f.bytes 6 6) else none
    updKln s h fun k => { k with rxq := k.rxq ++ [⟨n, udpData ip, (udpData ip).map fun _ => f.time, x.path, p⟩] }

/-- Deals with a whole packet: none where its session's next stage is blocked. -/
def flumePacket (s : State) (h : HalfId) (f : LandFrame) (ip : IpInfo) : Option State :=
  let r := lookup s h f ip
  match r.1 with
  | .drop => some (r.2.incFld h Reg.FLM_CNT0_CSUM_DROP)
  | .slow reason => some (slowPath r.2 h f reason)
  | .rst => some (match tcpParse ip.body with | some g => answerRst r.2 h f ip g | none => r.2)
  | .session n prov => if sessionBlocked r.2 h n then none else some (sessionInput r.2 h n prov f ip)
  | .opens l =>
    match roomForHot r.2 h, tcpParse ip.body with
    | some s, some g => some (passiveOpen s h l f ip g)
    | _, _ => none

/-- A keepalive probe for a hot open session (R230): the sequence number before the one awaited, at most one byte. -/
def keepAliveProbe (s : State) (h : HalfId) (f : LandFrame) : Bool :=
  match ipInfo f.bytes with
  | none => false
  | some ip =>
    if f.slow.isSome || ip.bad || ip.frag || ip.proto != 6 then false
    else match (lookup s h f ip).1, tcpParse ip.body with
      | .session n _, some g =>
        let x := session s h n
        x.hot && (match x.tcb with
          | some t => (x.state == .opened || x.state == .closing) && g.ackf && !g.syn && !g.fin && !g.rst && sqAdd g.seq 1 == t.rcvNxt && g.data.length ≤ 1
          | none => false)
      | _, _ => false

/-- Puts a frame right behind another in the landing buffer: a reassembled datagram takes the place of the fragment that completed
it. -/
def insertAfter (f g : LandFrame) : List LandFrame → List LandFrame
  | [] => [g]
  | x :: xs => if x = f then x :: g :: xs else x :: insertAfter f g xs

/-- A frame after classification: the slow path, or Flume's IP checks, reassembly and lookup. -/
def flumeTake (s : State) (h : HalfId) (f : LandFrame) : Option State :=
  match f.slow, ipInfo f.bytes with
  | some r, _ => some (slowPath s h f r)
  | none, none => some (slowPath s h f 1)
  | none, some ip =>
    if ip.bad then some (s.incFld h Reg.FLM_CNT0_CSUM_DROP)
    else if ip.frag then
      match takeFragment s h f ip with
      | (none, s) => some s
      | (some g, s) =>
        let keep (g : LandFrame) : State := updEth s h fun e => { e with landing := insertAfter f g e.landing }
        match classify s h g.sub g.bytes with
        | .drop => some s
        | .slow r => some (slowPath s h g r)
        | .listener n => some (keep { g with listener := some n })
        | .flume => some (keep g)
    else flumePacket s h f ip

/-- The first frame of the landing buffer that Flume can deal with now, and the state after it. -/
def firstTaken (s : State) (h : HalfId) : List LandFrame → Option (LandFrame × State)
  | [] => none
  | f :: fs =>
    match flumeTake s h f with
    | some t => some (f, t)
    | none => firstTaken s h fs

/-- FLUME_SESSION_LOOKUP: Flume takes the next frame that is not held back. In Safe it discards it; while FLM_CTRL.EN = 0 it is
discarded and counted (R440); in Watch it takes only keepalive probes of hot sessions (R230). -/
def execFlumeSessionLookup (h : HalfId) (s : State) : Host.Outcome State Fault Refusal :=
  let land := (s.half h).eth.landing
  if s.inMode h .safe then
    .next (match land with | f :: _ => dropLanding s h f | [] => s)
  else if !s.flag h Reg.FLM_CTRL_EN then
    .next (match land with | f :: _ => (dropLanding s h f).incFld h Reg.FLM_CNT2_DIS_DROP | [] => s)
  else .next (unitCmd h (fun s =>
    let watch := s.inMode h .watch || s.waking
    match firstTaken s h (if watch then land.filter (keepAliveProbe s h ·) else land) with
    | some (f, t) =>
      let r := readLanding s h f
      dropLanding (if r.1 then r.2 else if (s.half h).sram.isEmpty then t else (flumeTake r.2 h f).getD t) h f
    | none => s) s)

-- timers (R229, R230)

/-- Whether a half's session timers stand: in Safe it sends no frame, in Watch and while it wakes it answers keepalives only (R24,
R230). -/
def timersStill (s : State) (h : HalfId) : Bool := s.inMode h .safe || s.inMode h .watch || s.waking

/-- An expiry applied to a session, which first comes into the store where it is cold (R232). -/
def sessionTimer (s : State) (h : HalfId) (n : Nat) (f : State → State) : Host.Outcome State Fault Refusal :=
  .next (unitCmd h (fun s => (withHot s h n f).getD s) s)

/-- The retransmission timer's expiry on a session: its oldest segment goes again, a byte probes a closed window, or the session
closes after its retries. -/
def retransmit (h : HalfId) (n : Nat) (s : State) : State :=
  let x := session s h n
  match x.tcb with
  | none => s
  | some t =>
    match t.outq with
    | [] =>
      match t.unsent with
      | [] => setTcb s h n { t with rtoAt := none }
      | b :: r =>
        let g : Seg := ⟨t.sndNxt, [b], false, false, 1, s.elapsed, false⟩
        let t := { t with sndNxt := sqAdd t.sndNxt 1, unsent := r, outq := [g], rtoAt := some (s.elapsed + t.rto), probes := 1 }
        mirrorUpdate (sendSegs (setTcb s h n t) h n [g.out t true]) h n
    | g :: _ =>
      if g.syn && s.fld h Reg.FLM_TCP_SYN_RETRIES + 1 ≤ g.sends then mirrorUpdate (closeSession s h n 0x07 false false) h n
      else if !g.syn && s.fld h Reg.FLM_TCP_RETRIES + 1 ≤ (if t.sndWnd = 0 then t.probes else g.sends) then
        mirrorUpdate (if x.state = .closed then setSession s h n { x with tcb := none, in5 := false }
          else closeSession s h n 0x03 false false) h n
      else
        let r := if !g.syn && t.sndWnd = 0 then t.probe s.elapsed else t.timeout s.elapsed
        mirrorUpdate (sendSegs (setTcb s h n r.1) h n r.2) h n

/-- RETRANSMISSION_TIMEOUT. -/
def execRetransmissionTimeout (h : HalfId) (session : BitVec 16) (s : State) : Host.Outcome State Fault Refusal :=
  match (Machine.session s h session.toNat).tcb with
  | none => .next s
  | some t =>
    if timersStill s h ∨ !(t.rtoAt.map (wheelDue s ·)).getD false then .next s
    else sessionTimer s h session.toNat (retransmit h session.toNat)

/-- An acknowledgement that waited goes out. -/
def delayedAck (h : HalfId) (n : Nat) (s : State) : State :=
  match (session s h n).tcb with
  | none => s
  | some t => mirrorUpdate (sendSegs s h n [ackSeg t]) h n

/-- DELAYED_ACK_TIMEOUT. -/
def execDelayedAckTimeout (h : HalfId) (session : BitVec 16) (s : State) : Host.Outcome State Fault Refusal :=
  match (Machine.session s h session.toNat).tcb with
  | none => .next s
  | some t =>
    if timersStill s h ∨ !(t.ackAt.map (wheelDue s ·)).getD false then .next s
    else sessionTimer s h session.toNat (delayedAck h session.toNat)

/-- The keepalive time passed without a segment: a probe, or the close after KA_PROBES of them (R230). -/
def keepAlive (h : HalfId) (n : Nat) (s : State) : State :=
  let x := session s h n
  match x.tcb with
  | none => s
  | some t =>
    if x.kaProbes ≤ t.kaSent then mirrorUpdate (closeSession s h n 0x04 false false) h n
    else
      let t := { t with kaSent := t.kaSent + 1, kaAt := some (s.elapsed + s.fld h Reg.FLM_TCP_KA_INTVL_S * 1000000000) }
      mirrorUpdate (sendSegs (setTcb s h n t) h n [{ ackSeg t with seq := sqSub t.sndNxt 1 }]) h n

/-- KEEPALIVE_TIMEOUT. -/
def execKeepaliveTimeout (h : HalfId) (session : BitVec 16) (s : State) : Host.Outcome State Fault Refusal :=
  let x := Machine.session s h session.toNat
  match x.tcb with
  | none => .next s
  | some t =>
    if timersStill s h ∨ !(t.kaAt.map (wheelDue s ·)).getD false ∨ !(x.state == .opened || x.state == .closing) then .next s
    else sessionTimer s h session.toNat (keepAlive h session.toNat)

/-- UDP_IDLE_TIMEOUT. -/
def execUdpIdleTimeout (h : HalfId) (session : BitVec 16) (s : State) : Host.Outcome State Fault Refusal :=
  let n := session.toNat
  let x := Machine.session s h n
  if s.inMode h .watch ∨ s.waking ∨ x.state ≠ .opened ∨ x.proto ≠ 17 ∨ x.kaS = 0 ∨
      !wheelDue s (x.lastRx + x.kaS * (x.kaProbes + 1) * 1000000000) then .next s
  else sessionTimer s h n fun s => mirrorUpdate (closeSession s h n 0x04 false false) h n

-- outbound (Table 1.5 step 8)

/-- A record for a session reaches Flume: a UDP datagram leaves with the peer address as it stands; TCP bytes go out as the
window allows, once the send area holds them. The request ends there (Table 15.5). -/
def flumeSubmit (s : State) (h : HalfId) (j : SendJob) : State :=
  let x := session s h j.session
  if !s.flag h Reg.FLM_CTRL_EN then endRequest s h j.src (statusOf 8 0x03)
  else if x.state ≠ .opened then endRequest s h j.src (statusOf 1 0x04)
  else if x.proto = 17 then mirrorUpdate (endRequest (sendUdp s h j.session j.data) h j.src 0) h j.session
  else mirrorUpdate (tcpPush (updFlm s h fun y => { y with out := y.out ++ [j] }) h j.session) h j.session

-- FLM_SCMD (R233, R236, R243)

/-- Whether a next-hop address may be used (R441): not zero, broadcast or multicast. -/
def macOk (m : List Byte) : Bool := beNat m != 0 && !(fieldBE m 0 1).testBit 0

/-- Whether a session descriptor's reserved bits are 0 and its fields agree with its listener (Table 11.6). -/
def descOk (s : State) (h : HalfId) (l : Listener) (b : List Byte) : Bool :=
  let fl := fieldLE b 0x24 1
  macOk (sliceB b 0x30 6) && fieldLE b 0x36 1 < ethSubs s h && leNat (sliceB b 0x37 9) == 0 && nbits fl 4 3 == 0 &&
    fieldLE b 0x2C 4 < 0x20000 && nbits (fieldLE b 0x28 4) 30 17 == 0 &&
    leNat (sliceB b (0x10 + l.cidLen) (16 - l.cidLen)) == 0 &&
    (l.proto != 6 || fl.testBit 7) && isMapped (sliceB b 0 16) == isMapped l.laddr

/-- The session an OPEN would make. -/
def descSession (l : Listener) (b : List Byte) : Session :=
  let fl := fieldLE b 0x24 1
  let th := fieldLE b 0x28 4
  { sessionDefault 0 with
    listener := l.num, laddr := l.laddr, lport := l.lport, proto := l.proto, dtls := l.dtls, tagged := l.tagged, vid := l.vid
    cidLen := l.cidLen, raddr := sliceB b 0 16, rport := fieldLE b 0x20 2, cid := sliceB b 0x10 l.cidLen, in5 := true
    inCid := l.cidLen != 0, path := fl.testBit 6, pin := fl.testBit 5, pcp := fl % 8
    thread := if th.testBit 31 then none else some (th % 0x20000), ring := fieldLE b 0x2C 4 % 0x20000
    kaS := fieldLE b 0x26 2, kaProbes := fieldLE b 0x25 1, sub := fieldLE b 0x36 1, nhMac := sliceB b 0x30 6, hot := true }

/-- OPEN (R236): the status word it leaves, and the state; none where it waits for room among the hot sessions (R232). -/
def flmOpen (s : State) (h : HalfId) (addr n : Nat) : Option (Nat × State) :=
  if (session s h n).state ≠ .free then some (sesWord 0x22, s) else
  let r := unitRead s h 0x46 addr 64
  let b := r.1.bytes
  if r.1.refused then some (sesWord 0x23, r.2)
  else if r.1.poison then some (statusOf 6 0x02, r.2)
  else
    let q := if fieldLE b 0x22 2 < 4096 then readListener r.2 h (fieldLE b 0x22 2) else (none, r.2)
    let s := q.2
    match q.1 with
    | none => some (sesWord 0x23, s)
    | some l =>
      let x := descSession l b
      if !descOk s h l b || (x.pin && 16384 ≤ pinCount s h) then some (sesWord 0x23, s)
      else if (find5 s h x.laddr x.lport x.proto x.raddr x.rport).isSome || (x.inCid && (findCid s h l x.cid).isSome) then
        some (sesWord 0x22, s)
      else (roomForHot s h).map fun s =>
        let s := openContext (setKeys s h n (keysDefault n)) h n
        if l.proto = 17 then
          let s := touchSession (setSession s h n { x with state := .opened, lastRx := s.elapsed }) h n
          (sesWord 0x10, mirrorUpdate (sessionStatus s h 0x46 n (sesWord 0x10)) h n)
        else
          let iss := s.takeFree.1.toNat % 2 ^ 32
          let s := s.takeFree.2
          let t := Tcb.opened iss s.elapsed false 0
          let s := touchSession (setSession s h n { x with state := .opening, tcb := some t }) h n
          let s := sessionStatus s h 0x46 n 0
          (0, mirrorUpdate (sendSegs s h n [⟨iss, true, false, false, false, false, []⟩]) h n)

/-- CLOSE (R233). -/
def flmClose (s : State) (h : HalfId) (n : Nat) : Nat × State :=
  let x := session s h n
  if x.proto = 17 then (sesWord 0x05, closeSession s h n 0x05 false false)
  else if x.state = .closing then (0, s)
  else
    let s := setSession s h n { x with state := .closing }
    let s := sessionStatus s h 0x46 n 0
    match x.tcb with
    | some t => if x.state = .opening && !t.passive then (0, closeSession s h n 0x05 false false) else (0, tcpPush s h n)
    | none => (0, s)

/-- ABORT (R233): on a TCP session RST is sent. -/
def flmAbort (s : State) (h : HalfId) (n : Nat) : Nat × State :=
  let s := match (session s h n).tcb with
    | some t => sendSegs s h n [⟨t.sndNxt, false, false, true, true, false, []⟩]
    | none => s
  (sesWord 0x06, closeSession s h n 0x06 false false)

/-- RELEASE (R233): the session becomes FREE, its keys and key record zeroised. -/
def flmRelease (s : State) (h : HalfId) (n : Nat) : Nat × State :=
  let x := session s h n
  match x.state with
  | .free => (sesWord 0x21, s)
  | .opening | .opened | .closing => (sesWord 0x22, s)
  | .closed =>
    if x.ownFin && !(wheelDue s (x.closedAt + s.fld h Reg.FLM_TCP_TW_S * 1000000000)) then (sesWord 0x22, s)
    else
      let s := setKeys s h n (keysDefault n)
      let s := setSession s h n { x with state := .free }
      let s := sessionStatus s h 0x46 n 0
      (0, setSession s h n (sessionDefault n))

/-- CLOSE, ABORT and the PATH commands of a live session in the store. -/
def flmLive (s : State) (h : HalfId) (op n : Nat) : Nat × State :=
  let s := touchSession s h n
  let r := if op = 2 then flmClose s h n
    else if op = 3 then flmAbort s h n
    else (0, setSession s h n { session s h n with path := op == 5 })
  (r.1, mirrorUpdate r.2 h n)

/-- A command's meaning on a session that first comes into the store where it is cold; none where it waits for room (R232). -/
def onHot (s : State) (h : HalfId) (n : Nat) (f : State → Nat × State) : Option (Nat × State) :=
  if (session s h n).hot then some (f s) else (fetchCold s h n).map f

/-- The six commands by OP. -/
def flmOp (s : State) (h : HalfId) (op addr n : Nat) : Option (Nat × State) :=
  let live := match (session s h n).state with | .opening | .opened | .closing => true | .free | .closed => false
  if op = 1 then flmOpen s h addr n
  else if op = 6 then (if (session s h n).state = .free then some (flmRelease s h n) else onHot s h n fun s => flmRelease s h n)
  else if !live then some (sesWord 0x21, s)
  else onHot s h n fun s => flmLive s h op n

/-- Runs the FLM_SCMD command that a word spells. Where an access of it is held for a disabled group, or no room can be made for its
session, BUSY stays 1: the command goes on when the group is enabled (R191) or the session's state comes in (R232). -/
def flmCommand (s : State) (h : HalfId) (w : Word) : State :=
  let s := s.setReg h 6 0x40 w
  if !s.flag h Reg.FLM_CTRL_EN then s.setReg h 6 0x48 (BitVec.ofNat 64 (statusOf 8 0x03)) else
  let run (s : State) : State :=
    match flmOp s h (nbits w.toNat 63 61) (nbits w.toNat 55 16 * 64) (nbits w.toNat 15 0) with
    | some r => r.2.setReg h 6 0x48 (BitVec.ofNat 64 r.1)
    | none => s.setFld h Reg.FLM_SRES_BUSY 1
  let t := unitCmd h run s
  if (t.half h).bnd.holds = (s.half h).bnd.holds then t else t.setFld h Reg.FLM_SRES_BUSY 1

/-- Whether the FLM_SCMD command in progress waits for session n to come into the store. -/
def commandWaits (s : State) (h : HalfId) (n : Nat) : Bool :=
  s.flag h Reg.FLM_SRES_BUSY && nbits (s.reg h 6 0x40).toNat 15 0 == n &&
    !(s.half h).bnd.held.any fun x => x.mid == 0x46 && !x.expired

/-- COLD_SESSION_FETCH: the state of a cold session comes in where a hot session may be evicted or the store has room, and the
command that waited for it goes on (R232). -/
def execColdSessionFetch (h : HalfId) (session : BitVec 16) (s : State) : Host.Outcome State Fault Refusal :=
  let n := session.toNat
  let x := Machine.session s h n
  let t := if x.state = .free ∨ x.hot then s else unitCmd h (fun s => (fetchCold s h n).getD s) s
  .next (if commandWaits t h n then flmCommand t h (t.reg h 6 0x40) else t)

end Sys2Proof.Machine
end

