-- ==== Sys2Proof/Machine/Kiln.lean ====
section
/-! DEFINITION. Kiln (chapter 12): removing and applying record protection (R246–R248, R256–R258, R442, R443), the primitive
ring (R252–R254), the vault (R255) and entropy (R259). -/

namespace Sys2Proof.Machine

/-- Class 4 words of Table 12.6. -/
def secWord (detail : Nat) : Nat := statusOf 4 detail

def mKiln : Nat := 0x47

/-- Byte-wise exclusive or. -/
def xorB (a b : List Byte) : List Byte := List.zipWith (· ^^^ ·) a b

/-- Hash of a suite (Table 12.1): 0 SHA-256, 1 SHA-384. -/
def suiteHash (suite : Nat) : Nat := if suite = 0x1302 then 1 else 0

/-- Bytes of a hash. -/
def hashLen (param : Nat) : Nat := if param = 1 then 48 else 32

/-- Bytes of a suite's key (Table 12.1). -/
def suiteKeyLen (suite : Nat) : Nat := if suite = 0x1301 then 16 else 32

/-- HKDF-Expand-Label with no context (RFC 8446 section 7.1; RFC 9147 section 5.9 for DTLS). -/
def expandLabel (k : DirKey) (label : String) (n : Nat) : List Byte :=
  let l := ((if k.dtls then "dtls13" else "tls13 ") ++ label).toUTF8.toList.map fun c => (BitVec.ofNat 8 c.toNat : Byte)
  sliceB (Config.hkdfExpand (suiteHash k.suite) k.secret (beBytes 2 n ++ [BitVec.ofNat 8 l.length] ++ l ++ [0]) n) 0 n

/-- Record key, record IV and record number key of a traffic secret (R245, R248, RFC 8446 section 7.3). -/
def recordKey (k : DirKey) : List Byte := expandLabel k "key" (suiteKeyLen k.suite)
def recordIv (k : DirKey) : List Byte := expandLabel k "iv" 12
def snKey (k : DirKey) : List Byte := expandLabel k "sn" (suiteKeyLen k.suite)

/-- The nonce of a record: the key's IV exclusive-or its sequence number (RFC 8446). -/
def recordNonce (k : DirKey) (seq : Nat) : List Byte := xorB (recordIv k) (beBytes 12 seq)

/-- The next traffic secret, by label "traffic upd" (R257, R258). -/
def nextSecret (k : DirKey) : List Byte := expandLabel k "traffic upd" (hashLen (suiteHash k.suite))

/-- A key of a direction and epoch that no record has used. -/
def freshKey (secret : List Byte) (suite : Nat) (dtls : Bool) (epoch : Nat) : DirKey :=
  ⟨secret, suite, dtls, epoch, 0, none, [], false, false⟩

/-- The key of the next epoch. -/
def updatedKey (k : DirKey) : DirKey := freshKey (nextSecret k) k.suite k.dtls (if k.dtls then k.epoch + 1 else k.epoch)

/-- The first sequence number that no record may use (R256). -/
def seqLimit : Nat := 2 ^ 48 - 1

-- inbound

/-- Splits an inner plaintext: content, content type, and bytes with padding but without the type (R246). -/
def innerSplit (p : List Byte) : List Byte × Nat × Nat :=
  match p.reverse.dropWhile (· == 0) with
  | [] => ([], 0, p.length)
  | t :: r => (r.reverse, t.toNat, p.length - 1)

/-- Where a record's plaintext goes (R246). -/
inductive RecDest where
  | mill
  | ring
  | badType
  deriving DecidableEq, Repr

/-- Destination by content type. -/
def recDest (dtls : Bool) (type : Nat) : RecDest :=
  if type = 23 then .mill else if type = 22 ∨ type = 21 ∨ (dtls ∧ type = 26) then .ring else .badType

/-- What Kiln makes of a record: kept in its queue, discarded with the state given, or delivered. -/
inductive RecOut where
  | discard (s : State)
  | deliver (s : State) (type seq : Nat) (plain : List Byte)

/-- A discard counted in a KLN_CNT field. -/
def countOut (s : State) (h : HalfId) (f : Fld) : RecOut := .discard (s.incFld h f)

/-- The receive direction fails: its word goes into the status entry (R247). -/
def rxFail (s : State) (h : HalfId) (n word : Nat) : State :=
  sessionStatus (setKeys s h n { sessKeys s h n with rxFailed := true }) h mKiln n word

/-- Notes a record accepted under a receive key: the soft limit is told once (R256). -/
def rxAccepted (s : State) (h : HalfId) (n seq : Nat) (k : DirKey) : DirKey × State :=
  if !k.soft && 2 ^ s.fld h Reg.KLN_CTRL_SOFT_LOG2 ≤ seq then
    ({ k with soft := true }, sessionStatus s h mKiln n (secWord 0x04))
  else (k, s)

/-- A TLS record (R246, R247, R256, R258). -/
def tlsRecord (s : State) (h : HalfId) (n : Nat) (b : List Byte) : RecOut :=
  let ks := sessKeys s h n
  let type := fieldBE b 0 1
  if ks.rxFailed then .discard s
  else match ks.rx with
  | none => let r := s.takeFree; .deliver r.2 type r.1.toNat (b.drop 5)
  | some k =>
    if type ≠ 23 then (if type = 20 then countOut s h Reg.KLN_CNT_BAD_TYPE else .discard (rxFail s h n (secWord 0x01)))
    else if seqLimit ≤ k.seq then
      .discard (if k.exhausted then s
        else sessionStatus (setKeys s h n { ks with rx := some { k with exhausted := true } }) h mKiln n (secWord 0x05))
    else match aeadOpen k.suite (recordKey k) (b.take 5) (recordNonce k k.seq) (b.drop 5) with
    | none => .discard (rxFail s h n (secWord 0x01))
    | some p =>
      let (plain, type, padded) := innerSplit p
      if 16384 < padded then .discard (rxFail s h n (secWord 0x02))
      else
        let r := rxAccepted s h n k.seq k
        let k' := { r.1 with seq := k.seq + 1 }
        let k' := if type = 22 ∧ fieldBE plain 0 1 = 24 then updatedKey k' else k'
        .deliver (setKeys r.2 h n { sessKeys r.2 h n with rx := some k' }) type k.seq plain

/-- The header of a protected DTLS record (RFC 9147): its length, the connection ID's, the sequence bytes, the epoch bits and
the ciphertext's length; none where it is malformed (R247). -/
structure UniHdr where
  len : Nat
  seqAt : Nat
  seqLen : Nat
  ee : Nat
  body : Nat

/-- Reads a unified header; `cidLen` is the length of the session's connection ID. -/
def uniHdr (b : List Byte) (cidLen : Nat) : Option UniHdr :=
  let b0 := fieldBE b 0 1
  let cid := if b0.testBit 4 then cidLen else 0
  let sl := if b0.testBit 3 then 2 else 1
  let hl := 1 + cid + sl + (if b0.testBit 2 then 2 else 0)
  if b.length < hl then none else
  let body := if b0.testBit 2 then fieldBE b (1 + cid + sl) 2 else b.length - hl
  if b.length < hl + body ∨ body < 16 then none else some ⟨hl, 1 + cid, sl, b0 % 4, body⟩

/-- The full record number nearest to one above the highest accepted in the epoch (RFC 9147, section 4.2.2). -/
def seqNear (high : Option Nat) (bits v : Nat) : Nat :=
  let next := match high with | some x => x + 1 | none => 0
  let m := 2 ^ bits
  let c := next / m * m + v
  let dist (x : Nat) : Nat := max x next - min x next
  let cs := [c] ++ (if m ≤ c then [c - m] else []) ++ [c + m]
  (cs.foldl (fun best x => if dist x < dist best then x else best) c) % 2 ^ 48

/-- Whether a record number is a duplicate or older than the 64-record window (R248). -/
def replayed (k : DirKey) (seq : Nat) : Bool :=
  match k.high with
  | none => false
  | some hi => seq == hi || seq + 64 < hi || k.seen.contains seq

/-- Notes a record number accepted. -/
def acceptSeq (k : DirKey) (seq : Nat) : DirKey :=
  let hi := match k.high with | some x => max x seq | none => seq
  { k with high := some hi, seen := ((seq :: k.seen).filter fun x => hi ≤ x + 64), seq := k.seq + 1 }

/-- The receive keys once a record verified under one of them (R248, R442): a record of the next epoch makes it current, and
from epoch 3 on the epoch after is derived. -/
def rxCurrent (ks : SessKeys) (k : DirKey) (isNext : Bool) : SessKeys :=
  let next := if isNext then none else ks.rxNext
  { ks with
    rx := some k, rxTop := some (max (if next.isNone ∧ 3 ≤ k.epoch then k.epoch + 1 else k.epoch) (ks.rxTop.getD 0))
    rxNext := match next with
      | some x => some x
      | none => if 3 ≤ k.epoch then some (updatedKey k) else none }

/-- A rebinding (R231) of a session that is still open: it takes the address a verified record came from, unless that is its own by now or
one it left before; another session that stands there in the 5-tuple index leaves it. -/
def rebind (s : State) (h : HalfId) (n : Nat) (p : List Byte × Nat × Nat × List Byte) : State :=
  let x := session s h n
  if x.state ≠ .opened ∨ (x.raddr = p.1 ∧ x.rport = p.2.1) ∨ x.oldPeers.contains (p.1, p.2.1) then s else
  let s := match find5 s h x.laddr x.lport x.proto p.1 p.2.1 with
    | some m => if m = n then s else setSession s h m { session s h m with in5 := false }
    | none => s
  let s := setSession s h n { session s h n with
    raddr := p.1, rport := p.2.1, sub := p.2.2.1, nhMac := p.2.2.2, in5 := true, rebinds := (x.rebinds + 1) % 2 ^ 32
    oldPeers := x.oldPeers ++ [(x.raddr, x.rport)] }
  mirrorUpdate (sessionStatus s h 0x46 n (sesWord 0x11)) h n

/-- Whether record number (epoch, seq) exceeds the highest accepted on the session. -/
def exceeds (high : Option (Nat × Nat)) (e seq : Nat) : Bool :=
  match high with
  | none => true
  | some (he, hs) => he < e || (he == e && hs < seq)

/-- A protected DTLS record under the key its epoch bits name. -/
def dtlsUnder (s : State) (h : HalfId) (n : Nat) (r : RxRecord) (b : List Byte) (u : UniHdr) (k : DirKey) (isNext : Bool) : RecOut :=
  let ks := sessKeys s h n
  let cipher := sliceB b u.len u.body
  let mask := beBytes 2 (Config.snMask k.suite (snKey k) (cipher.take 16)).toNat
  let enc := sliceB b u.seqAt u.seqLen
  let clear := xorB enc mask
  let seq := seqNear k.high (8 * u.seqLen) (beNat clear)
  if replayed k seq then countOut s h Reg.KLN_CNT_REPLAY
  else if seqLimit ≤ seq then
    .discard (if k.exhausted then s
      else
        let k' := { k with exhausted := true }
        sessionStatus (setKeys s h n (if isNext then { ks with rxNext := some k' } else { ks with rx := some k' })) h mKiln n (secWord 0x05))
  else match aeadOpen k.suite (recordKey k) (patchB (b.take u.len) u.seqAt clear) (recordNonce k seq) cipher with
  | none => countOut s h Reg.KLN_CNT_AUTH_FAIL
  | some p =>
    let (plain, type, padded) := innerSplit p
    if 16384 < padded then countOut s h Reg.KLN_CNT_AUTH_FAIL
    else
      let a := rxAccepted s h n seq (acceptSeq k seq)
      let up := exceeds ks.high k.epoch seq
      let ks' := rxCurrent { sessKeys a.2 h n with high := if up then some (k.epoch, seq) else ks.high } a.1 isNext
      let s := setKeys a.2 h n ks'
      let s := match r.provisional with | some p => if up then rebind s h n p else s | none => s
      .deliver s type (k.epoch * 2 ^ 48 + seq) plain

/-- The next record of a DTLS datagram, and the rest of the datagram (R246–R248). -/
def dtlsRecord (s : State) (h : HalfId) (n : Nat) (r : RxRecord) : RecOut × List Byte :=
  let b := r.bytes
  let ks := sessKeys s h n
  let malformed : RecOut × List Byte := (countOut s h Reg.KLN_CNT_AUTH_FAIL, [])
  if ks.rxFailed then (.discard s, [])
  else if fieldBE b 0 1 / 32 = 1 then
    match uniHdr b (session s h n).cidLen with
    | none => malformed
    | some u =>
      let rest := b.drop (u.len + u.body)
      match ks.rx with
      | none => (countOut s h Reg.KLN_CNT_AUTH_FAIL, rest)
      | some k =>
        if u.ee = k.epoch % 4 then (dtlsUnder s h n r b u k false, rest)
        else match ks.rxNext.filter fun x => x.epoch % 4 == u.ee with
        | some k' => (dtlsUnder s h n r b u k' true, rest)
        | none =>
          if u.ee = (k.epoch + 3) % 4 then (countOut s h Reg.KLN_CNT_REPLAY, rest)
          else (countOut s h Reg.KLN_CNT_AUTH_FAIL, rest)
  else
    let n13 := fieldBE b 11 2
    if b.length < 13 ∨ b.length < 13 + n13 then malformed else
    let rest := b.drop (13 + n13)
    let type := fieldBE b 0 1
    let num := fieldBE b 3 8
    if ks.rx.isNone then (.deliver s type num (sliceB b 13 n13), rest)
    else if fieldBE b 3 2 = 0 ∧ (type = 22 ∨ type = 21 ∨ type = 26) then (.deliver s type num (sliceB b 13 n13), rest)
    else (countOut s h Reg.KLN_CNT_AUTH_FAIL, rest)

/-- Writes a handshake-ring slot (Table 12.2) and raises SESSION. -/
def hringPut (s : State) (h : HalfId) (n type seq : Nat) (plain : List Byte) : State :=
  let prod := s.fld h Reg.KLN_HRING_PROD
  let size := 2 ^ s.fld h Reg.KLN_HRING_LOG2
  let hd := leBytes 8 s.timebase.toNat ++ leBytes 2 plain.length ++ [BitVec.ofNat 8 type, 0] ++ leBytes 4 n ++
    leBytes 8 seq ++ zerosB 0x28
  let s := unitWrite s h mKiln (s.fld h Reg.KLN_HBASE_BASE * 0x1000 + 17408 * (prod % size)) (hd ++ plain)
  let s := s.setFld h Reg.KLN_HRING_PROD ((prod + 1) % 0x10000)
  fmnEvent s h ((session s h n).thread.getD (s.fld h Reg.KLN_HRING_THREAD)) 2

/-- Notes that Kiln kept a record of a datagram: for R230 the datagram counts as received. -/
def notDiscarded (s : State) (h : HalfId) (n : Nat) : State :=
  setSession s h n { session s h n with lastRx := s.elapsed }

/-- Whether a session's records are those of DTLS: a UDP session's are. -/
def isDtls (s : State) (h : HalfId) (n : Nat) : Bool := (session s h n).proto == 17

/-- Takes the first record of a session off Kiln's queue, leaving the rest of its datagram; records that waited for the room come
in. -/
def takeRecord (s : State) (h : HalfId) (r : RxRecord) (rest : List Byte) : State :=
  passWaiting (updKln s h fun k => { k with
    rxq := if rest.isEmpty then k.rxq.erase r else k.rxq.map fun x =>
      if x = r then { x with bytes := rest, times := x.times.drop (r.bytes.length - rest.length) } else x }) h

/-- Plaintext bytes with the receive timestamps of the ciphertext bytes they come from. -/
def plainTimes (dtls : Bool) (r : RxRecord) (plain : List Byte) : List (Byte × Word) :=
  (List.range plain.length).map fun i => (plain.getD i 0, r.times.getD (if dtls then 0 else 5 + i) 0)

/-- RECORD_UNPROTECT: the session's next record (R246). It stays in the queue while Kiln is disabled, the handshake ring is full
or Mill does not accept its plaintext (R220, R440). After zeroisation it is discarded (R260). -/
def execRecordUnprotect (h : HalfId) (session : BitVec 16) (s : State) : Host.Outcome State Fault Refusal :=
  let n := session.toNat
  match (s.half h).kln.rxq.find? (·.session == n) with
  | none => .next s
  | some r =>
    if s.flag h Reg.KLN_STAT_ZEROED then .next (takeRecord s h r [])
    else if !s.flag h Reg.KLN_CTRL_EN then .next s
    else .next (unitCmd h (fun s =>
      let s := readStore s h n
      let o : RecOut × List Byte := if isDtls s h n then dtlsRecord s h n r else (tlsRecord s h n r.bytes, [])
      match o.1 with
      | .discard t => takeRecord t h r o.2
      | .deliver t type seq plain =>
        match recDest (isDtls s h n) type with
        | .badType => takeRecord (t.incFld h Reg.KLN_CNT_BAD_TYPE) h r o.2
        | .ring => if hringFull s h then s else takeRecord (notDiscarded (hringPut t h n type seq plain) h n) h r o.2
        | .mill =>
          if !millAccepts s h || outHeld s h n then s
          else takeRecord (notDiscarded (updMil t h fun m =>
            { m with jobs := m.jobs ++ [.parse ⟨n, plainTimes (isDtls s h n) r plain, r.path⟩] }) h n) h r o.2) s)

-- outbound

/-- A protected TLS record. -/
def tlsSeal (k : DirKey) (type : Nat) (plain : List Byte) : List Byte :=
  let hd := [23, 3, 3] ++ beBytes 2 (plain.length + 17)
  hd ++ aeadSeal k.suite (recordKey k) hd (recordNonce k k.seq) (plain ++ [BitVec.ofNat 8 type])

/-- A protected DTLS record with its unified header (R443). -/
def dtlsSeal (k : DirKey) (cid : List Byte) (type : Nat) (plain : List Byte) : List Byte :=
  let b0 := 0x2C + (if cid.isEmpty then 0 else 0x10) + k.epoch % 4
  let seq := beBytes 2 k.seq
  let hd := [BitVec.ofNat 8 b0] ++ cid ++ seq ++ beBytes 2 (plain.length + 17)
  let cipher := aeadSeal k.suite (recordKey k) hd (recordNonce k k.seq) (plain ++ [BitVec.ofNat 8 type])
  let mask := beBytes 2 (Config.snMask k.suite (snKey k) (cipher.take 16)).toNat
  patchB hd (1 + cid.length) (xorB seq mask) ++ cipher

/-- Protects one record of a session under a key: the bytes to send, with the key's limits (R256) and update (R257) applied;
none at the hard limit. -/
def protect (s : State) (h : HalfId) (n : Nat) (k : DirKey) (kupd : Bool) (plain : List Byte) : Option (List Byte) × State :=
  if seqLimit ≤ k.seq then (none, s)
  else
    let ks := sessKeys s h n
    let type := if kupd then 22 else 23
    let b := if k.dtls then dtlsSeal k ks.peerCid type plain else tlsSeal k type plain
    let due := !k.soft && k.seq == 2 ^ s.fld h Reg.KLN_CTRL_SOFT_LOG2
    let k' := { k with seq := k.seq + 1, soft := k.soft || due }
    let k' := if kupd then updatedKey k' else k'
    let s := setKeys s h n { ks with tx := some k', txTop := some (max k'.epoch (ks.txTop.getD 0)) }
    (some b, if due then sessionStatus s h mKiln n (secWord 0x04) else s)

/-- An unprotected outbound DTLS record of epoch 0 (R442, R443): its content type is a free value (log entry 12). -/
def plainRecord (s : State) (h : HalfId) (n : Nat) (plain : List Byte) : List Byte × State :=
  let ks := sessKeys s h n
  let r := s.takeFree
  ([r.1.setWidth 8, 0xFE, 0xFD, 0, 0] ++ beBytes 6 ks.plainSeq ++ beBytes 2 plain.length ++ plain,
    setKeys r.2 h n { ks with plainSeq := ks.plainSeq + 1 })

/-- RECORD_PROTECT: the session's next outbound record (R256, R257, R443) goes to Flume, or its request ends with a status. -/
def execRecordProtect (h : HalfId) (session : BitVec 16) (s : State) : Host.Outcome State Fault Refusal :=
  let n := session.toNat
  match (s.half h).kln.txq.find? (·.session == n) with
  | none => .next s
  | some j =>
    let finish (s : State) (st : Nat) : State :=
      endRequest (updKln s h fun k => { k with txq := k.txq.erase j }) h j.src st
    let pass (s : State) (b : List Byte) : State :=
      flumeSubmit (updKln s h fun k => { k with txq := k.txq.erase j }) h { j with data := b }
    if s.flag h Reg.KLN_STAT_ZEROED then .next (finish s (secWord 0x0D))
    else if !s.flag h Reg.KLN_CTRL_EN then .next (finish s (statusOf 8 0x03))
    else if silenced s h n then .next s
    else .next (unitCmd h (fun s =>
      let ks := sessKeys s h n
      if ks.txFailed then finish s (secWord 0x03)
      else match ks.tx with
      | some k =>
        match protect s h n k j.kupd j.data with
        | (some b, t) => pass t b
        | (none, t) => finish t (secWord 0x05)
      | none =>
        if isDtls s h n then let r := plainRecord s h n j.data; pass r.2 r.1
        else finish s (secWord 0x03)) s)

-- handshake primitives (R252–R254)

/-- A primitive descriptor (Table 12.4). -/
structure Prim where
  op : Nat
  flags : Nat
  param : Nat
  thread : Nat
  slotA : Nat
  slotB : Nat
  slotOut : Nat
  session : Nat
  inLen : Nat
  outLen : Nat
  inAddr : Nat
  outAddr : Nat
  deriving DecidableEq, Repr

def primOf (b : List Byte) : Prim :=
  ⟨fieldLE b 0 1, fieldLE b 1 1, fieldLE b 2 2, fieldLE b 4 4, fieldLE b 8 2, fieldLE b 10 2, fieldLE b 12 2, fieldLE b 14 2,
    fieldLE b 0x18 4, fieldLE b 0x1C 4, fieldLE b 0x20 8, fieldLE b 0x28 8⟩

/-- A slot number no primitive may name (R252). -/
def badSlot (n : Nat) : Bool := (0x1000 ≤ n && n < 0x8000) || (0x8040 ≤ n && n < 0xFFFF)

/-- What a slot number holds. -/
inductive SlotVal where
  | none
  | empty
  | secret (x : Slot)
  | vault (x : VaultKey)

def slotDefault : Nat → Option Slot := fun _ => none
def vaultDefault : Nat → Option VaultKey := fun _ => none

/-- The content of a slot; a zeroised or empty one is empty. -/
def slotVal (s : State) (h : HalfId) (n : Nat) : SlotVal :=
  if n = 0xFFFF then .none
  else if n < 0x1000 then
    match SMap.get slotDefault (s.half h).kln.slots n with | some x => .secret x | none => .empty
  else match SMap.get vaultDefault (s.half h).kln.vault (n - 0x8000) with | some x => .vault x | none => .empty

/-- The bytes of a secret slot of a type, or the status word of the refusal (R252). -/
def operand (s : State) (h : HalfId) (n : Nat) (t : SlotType) : Except Nat Slot :=
  if badSlot n then .error (secWord 0x07)
  else match slotVal s h n with
  | .none => .error (secWord 0x07)
  | .empty => .error (secWord 0x0A)
  | .secret x => if x.type = t then .ok x else .error (secWord 0x0B)
  | .vault _ => .error (secWord 0x0B)

/-- A private key: of a PRIV slot, or of a vault slot whose use mask has the bit. -/
def privOperand (s : State) (h : HalfId) (n useBit : Nat) : Except Nat (Nat × List Byte) :=
  if badSlot n then .error (secWord 0x07)
  else match slotVal s h n with
  | .none => .error (secWord 0x07)
  | .empty => .error (secWord 0x0A)
  | .secret x => if x.type = .priv then .ok (x.param, x.bytes) else .error (secWord 0x0B)
  | .vault x => if x.use.testBit useBit then .ok (x.type, x.bytes) else .error (secWord 0x0B)

/-- Whether a result may go into a slot: an EMPTY secret slot (R252). -/
def resultSlot (s : State) (h : HalfId) (n : Nat) : Except Nat Unit :=
  if badSlot n ∨ n = 0xFFFF then .error (secWord 0x07)
  else if 0x8000 ≤ n then .error (secWord 0x0B)
  else match slotVal s h n with
  | .empty => .ok ()
  | _ => .error (secWord 0x09)

/-- Puts a result into a slot. -/
def setSlot (s : State) (h : HalfId) (n : Nat) (x : Option Slot) : State :=
  writeUnit (updKln s h fun k => { k with slots := SMap.set slotDefault k.slots n x }) h mKiln 2 (64 * n) 64

/-- Reads the input buffer: refused parts give BAD_INPUT, poisoned data POISON_CONSUMED (R253). -/
def primIn (s : State) (h : HalfId) (p : Prim) : Except Nat (List Byte) × State :=
  if 65536 < p.inLen then (.error (secWord 0x07), s) else
  let r := unitRead s h mKiln p.inAddr p.inLen
  (if r.1.refused then .error (secWord 0x07) else if r.1.poison then .error (statusOf 6 0x02) else .ok r.1.bytes, r.2)

/-- A unit's write that tells whether a part of it was refused. -/
def unitWriteTell (s : State) (h : HalfId) (mid a : Nat) (bs : List Byte) : Bool × State :=
  (partsOf a bs.length).foldl (fun (acc : Bool × State) p =>
    let r := unitWritePart acc.2 h mid p.1 (sliceB bs (p.1 - a) p.2)
    (acc.1 || r.1, r.2)) (false, s)

/-- Writes an output, OUT_LEN bytes of it at most, then the result slot where the buffer took it all (R253). -/
def primOut (s : State) (h : HalfId) (p : Prim) (out : List Byte) (slot : Option Slot) : Nat × State :=
  let w := unitWriteTell s h mKiln p.outAddr (out.take p.outLen)
  if w.1 then (secWord 0x07, w.2)
  else (0, match slot with | some x => setSlot w.2 h p.slotOut (some x) | none => w.2)

/-- Curves of KEYGEN (Table 12.5) and the length of their private keys. -/
def curveLen (c : Nat) : Option Nat := if c = 4 then some 48 else if 1 ≤ c ∧ c ≤ 3 then some 32 else none

/-- Random bytes of the DRBG, and one more request (R259). -/
def drbgBytes (s : State) (h : HalfId) (n : Nat) : List Byte × State :=
  ((List.range n).map (Config.random s.freeCount),
    updKln { s with freeCount := s.freeCount + 1 } h fun k => { k with drbgRequests := k.drbgRequests + 1 })

/-- Whether the DRBG serves (R259). -/
def drbgUp (s : State) (h : HalfId) : Bool := (s.half h).kln.drbg && !s.flag h Reg.KLN_STAT_ENT_FAIL

/-- RAND. -/
def primRand (s : State) (h : HalfId) (p : Prim) : Nat × State :=
  if 65536 < p.outLen then (secWord 0x07, s)
  else if !drbgUp s h then (secWord 0x0C, s)
  else let r := drbgBytes s h p.outLen; primOut r.2 h p r.1 none

/-- KEYGEN. -/
def primKeygen (s : State) (h : HalfId) (p : Prim) : Nat × State :=
  match curveLen p.param, resultSlot s h p.slotOut with
  | none, _ => (secWord 0x0E, s)
  | _, .error e => (e, s)
  | some n, .ok _ =>
    if !drbgUp s h then (secWord 0x0C, s)
    else
      let r := drbgBytes s h n
      primOut r.2 h p (Config.publicKey p.param r.1) (some ⟨.priv, p.param, r.1⟩)

/-- ECDH. -/
def primEcdh (s : State) (h : HalfId) (p : Prim) : Nat × State :=
  match privOperand s h p.slotA 1, resultSlot s h p.slotOut with
  | .error e, _ => (e, s)
  | _, .error e => (e, s)
  | .ok (c, k), .ok _ =>
    match primIn s h p with
    | (.error e, s) => (e, s)
    | (.ok b, s) =>
      match Config.ecdh c k b with
      | none => (secWord 0x07, s)
      | some z => (0, setSlot s h p.slotOut (some ⟨.secret, 0, z⟩))

/-- HASH. -/
def primHash (s : State) (h : HalfId) (p : Prim) : Nat × State :=
  if 1 < p.param then (secWord 0x0E, s)
  else match primIn s h p with
  | (.error e, s) => (e, s)
  | (.ok b, s) => primOut s h p (sliceB (Config.hash p.param b) 0 (hashLen p.param)) none

/-- A SECRET operand of EXTRACT, where 0xFFFF stands for zero bytes of the hash length. -/
def extractOperand (s : State) (h : HalfId) (n param : Nat) : Except Nat (List Byte) :=
  if n = 0xFFFF then .ok (zerosB (hashLen param)) else (operand s h n .secret).map (·.bytes)

/-- EXTRACT. -/
def primExtract (s : State) (h : HalfId) (p : Prim) : Nat × State :=
  if 1 < p.param then (secWord 0x0E, s)
  else match extractOperand s h p.slotA p.param, extractOperand s h p.slotB p.param, resultSlot s h p.slotOut with
  | .error e, _, _ => (e, s)
  | _, .error e, _ => (e, s)
  | _, _, .error e => (e, s)
  | .ok salt, .ok ikm, .ok _ =>
    (0, setSlot s h p.slotOut (some ⟨.secret, p.param, sliceB (Config.hkdfExtract p.param salt ikm) 0 (hashLen p.param)⟩))

/-- The label of the well-formed HkdfLabel that the first bytes form (RFC 8446, section 7.1; R253). -/
def hkdfLabel (b : List Byte) : Option (List Byte) :=
  let n := fieldBE b 2 1
  let c := fieldBE b (3 + n) 1
  if 7 ≤ n ∧ 4 + n + c ≤ b.length then some (sliceB b 3 n) else none

/-- The text of a string as bytes. -/
def textBytes (t : String) : List Byte := t.toUTF8.toList.map fun c => BitVec.ofNat 8 c.toNat

/-- EXPAND. -/
def primExpand (s : State) (h : HalfId) (p : Prim) : Nat × State :=
  if 1 < p.param then (secWord 0x0E, s)
  else if 64 < p.outLen then (secWord 0x07, s)
  else match operand s h p.slotA .secret, resultSlot s h p.slotOut with
  | .error e, _ => (e, s)
  | _, .error e => (e, s)
  | .ok k, .ok _ =>
    match primIn s h p with
    | (.error e, s) => (e, s)
    | (.ok b, s) =>
      match hkdfLabel b with
      | none => (secWord 0x07, s)
      | some l =>
        let t := if l = textBytes "tls13 finished" ∨ l = textBytes "dtls13finished" then SlotType.finished else .secret
        (0, setSlot s h p.slotOut (some ⟨t, p.param, sliceB (Config.hkdfExpand p.param k.bytes b p.outLen) 0 p.outLen⟩))

/-- HMAC, under the hash its FINISHED key was made with. -/
def primHmac (s : State) (h : HalfId) (p : Prim) : Nat × State :=
  match operand s h p.slotA .finished with
  | .error e => (e, s)
  | .ok k =>
    match primIn s h p with
    | (.error e, s) => (e, s)
    | (.ok b, s) => primOut s h p (sliceB (Config.hmac k.param k.bytes b) 0 (hashLen k.param)) none

/-- SIGN: ECDSA needs the DRBG (R259); an X25519 key signs nothing. -/
def primSign (s : State) (h : HalfId) (p : Prim) : Nat × State :=
  match privOperand s h p.slotA 0 with
  | .error e => (e, s)
  | .ok (c, k) =>
    if !(c == 2 || c == 3 || c == 4) then (secWord 0x0B, s)
    else if c ≠ 3 && !drbgUp s h then (secWord 0x0C, s)
    else match primIn s h p with
    | (.error e, s) => (e, s)
    | (.ok b, s) =>
      let r := if c = 3 then (([] : List Byte), s) else drbgBytes s h 0
      primOut r.2 h p (Config.sign c k b s.freeCount) none

/-- VERIFY. -/
def primVerify (s : State) (h : HalfId) (p : Prim) : Nat × State :=
  if !(p.param == 2 || p.param == 3 || p.param == 4) then (secWord 0x0E, s)
  else match primIn s h p with
  | (.error e, s) => (e, s)
  | (.ok b, s) => (if Config.verify p.param b then 0 else secWord 0x08, s)

/-- The epoch an INSTALL takes (R442): none where EARLY is not allowed. -/
def installEpoch (top : Option Nat) (dtls early : Bool) : Option Nat :=
  if early && (!dtls || top.isSome) then none
  else if !dtls then some 0
  else match top with
  | none => some (if early then 1 else 2)
  | some e => some (e + 1)

/-- The receive keys after an INSTALL (R254, R442). -/
def installRx (ks : SessKeys) (k : DirKey) : SessKeys :=
  let ks := { ks with rxFailed := false }
  if !k.dtls then { ks with rx := some k, rxNext := none }
  else match ks.rx with
  | none => rxCurrent { ks with rxTop := some k.epoch } k true
  | some _ => { ks with rxNext := some k, rxTop := some k.epoch }

/-- Whether an INSTALL's session is cold: its state comes into the store first (R232). -/
def installCold (s : State) (h : HalfId) (p : Prim) : Bool :=
  (session s h p.session).state != .free && !(session s h p.session).hot

/-- INSTALL (R254, R442, R443). Another suite than that of the session's keys is no PARAM for it (R245, log entry 118). -/
def primInstall (s : State) (h : HalfId) (p : Prim) : Nat × State :=
  let s := if installCold s h p then (fetchCold s h p.session).getD s else s
  let tx := p.flags.testBit 0
  let dtls := p.flags.testBit 1
  let ks := sessKeys s h p.session
  if p.flags ≥ 8 ∨ !(p.param == 0x1301 || p.param == 0x1302 || p.param == 0x1303) ∨ ks.suite.any (· != p.param) then (secWord 0x0E, s)
  else match installEpoch (if tx then ks.txTop else ks.rxTop) dtls (p.flags.testBit 2) with
  | none => (secWord 0x0E, s)
  | some e =>
    match operand s h p.slotA .secret with
    | .error w => (w, s)
    | .ok x =>
      let k := freshKey x.bytes p.param dtls e
      let ks := { ks with suite := some p.param }
      if !tx then (0, setKeys s h p.session (installRx ks k))
      else if !dtls then (0, setKeys s h p.session { ks with tx := some k, txFailed := false })
      else if 16 < p.inLen then (secWord 0x07, s)
      else match primIn s h p with
      | (.error w, s) => (w, s)
      | (.ok b, s) =>
        (0, setKeys s h p.session { ks with tx := some k, txTop := some e, txFailed := false, peerCid := b })

/-- FREE. -/
def primFree (s : State) (h : HalfId) (p : Prim) : Nat × State :=
  if badSlot p.slotA ∨ p.slotA = 0xFFFF then (secWord 0x07, s)
  else if 0x8000 ≤ p.slotA then (secWord 0x0B, s)
  else (0, setSlot s h p.slotA none)

/-- Address of primitive entry i. -/
def primAddr (s : State) (h : HalfId) (i : Nat) : Nat :=
  s.fld h Reg.KLN_PRING_BASE * 0x1000 + 64 * (i % 2 ^ s.fld h Reg.KLN_PIDX_LOG2)

/-- The next posted primitive, where Kiln may start it (R440). -/
def nextPrim (s : State) (h : HalfId) : Option Prim :=
  if s.flag h Reg.KLN_CTRL_EN && s.fld h Reg.KLN_PIDX_CONS != s.fld h Reg.KLN_PIDX_PROD then
    some (primOf (unitRead s h mKiln (primAddr s h (s.fld h Reg.KLN_PIDX_CONS)) 64).1.bytes)
  else none

/-- The secret slots that a primitive reads (Table 12.5). -/
def primSlots (p : Prim) : List Nat :=
  (if [3, 5, 6, 7, 8, 10].contains p.op then [p.slotA] else []) ++ (if p.op = 5 then [p.slotB] else [])

/-- Whether a slot that a primitive reads comes poisoned from Kiln's store (R169, log entry 98), and the state after the reads. -/
def readSlots (s : State) (h : HalfId) (p : Prim) : Bool × State :=
  if (s.half h).sram.isEmpty then (false, s) else
  (primSlots p).foldl (fun (a : Bool × State) n => let r := readUnit a.2 h 2 (64 * n) 64; (a.1 || r.1, r.2)) (false, s)

/-- SIGNAL: the event of a unit, behind the writes to set-up space that it has made (R179). -/
def signal (s : State) (h : HalfId) (t src : Nat) : State :=
  if (s.half h).bnd.posted.isEmpty then fmnEvent s h t src
  else s.upd h fun x => { x with bnd := { x.bnd with signals := x.bnd.signals ++ [(t, src)] } }

/-- Runs the next primitive with the meaning of its OP: TAMPER_ABORT after zeroisation (R260); COMPLETION is written last,
SIGNAL raised, and CONS passes it (R253). -/
def runPrim (s : State) (h : HalfId) (p : Prim) (f : State → HalfId → Prim → Nat × State) : State :=
  let cons := s.fld h Reg.KLN_PIDX_CONS
  let r := unitRead s h mKiln (primAddr s h cons) 64
  let o := if s.flag h Reg.KLN_STAT_ZEROED then (secWord 0x0D, s)
    else if r.1.poison then (statusOf 6 0x02, r.2)
    else
      let q := readSlots r.2 h p
      if q.1 then (statusOf 6 0x02, q.2) else f q.2 h p
  let s := unitWrite o.2 h mKiln (primAddr s h cons + 0x3C) (leBytes 4 (0x80000000 + o.1))
  let s := if p.thread.testBit 31 then s else signal s h (p.thread % 0x20000) 4
  s.setFld h Reg.KLN_PIDX_CONS ((cons + 1) % 0x10000)

/-- Completes with BAD_OP the posted primitives at the head whose OP Table 12.5 does not define. -/
def skipBadOps : Nat → State → HalfId → State
  | 0, s, _ => s
  | n + 1, s, h =>
    match nextPrim s h with
    | some p => if p.op = 0 ∨ 11 < p.op then skipBadOps n (runPrim s h p fun s _ _ => (secWord 0x0E, s)) h else s
    | none => s

/-- Entries posted and not yet passed. -/
def primPosted (s : State) (h : HalfId) : Nat := ringHolds (s.fld h Reg.KLN_PIDX_PROD) (s.fld h Reg.KLN_PIDX_CONS)

/-- FLAGS are defined for INSTALL only (Table 12.4), PARAM for the primitives that take one (Table 12.5, log entry 40). -/
def primUndefined (p : Prim) : Bool := (p.op != 10 && p.flags != 0) || ((p.op == 1 || p.op == 7 || p.op == 11) && p.param != 0)

/-- A primitive command: the next posted primitive, where its OP is this one. -/
def primCommand (h : HalfId) (op : Nat) (f : State → HalfId → Prim → Nat × State) (s : State) : Host.Outcome State Fault Refusal :=
  .next (unitCmd h (fun s =>
    match nextPrim s h with
    | some p =>
      if p.op ≠ op then s
      else skipBadOps (primPosted s h) (runPrim s h p (if primUndefined p then fun s _ _ => (secWord 0x0E, s) else f)) h
    | none => s) s)

/-- RAND. -/
def execRand (h : HalfId) (s : State) : Host.Outcome State Fault Refusal := primCommand h 1 primRand s
/-- KEYGEN. -/
def execKeygen (h : HalfId) (s : State) : Host.Outcome State Fault Refusal := primCommand h 2 primKeygen s
/-- ECDH. -/
def execEcdh (h : HalfId) (s : State) : Host.Outcome State Fault Refusal := primCommand h 3 primEcdh s
/-- HASH. -/
def execHash (h : HalfId) (s : State) : Host.Outcome State Fault Refusal := primCommand h 4 primHash s
/-- EXTRACT. -/
def execExtract (h : HalfId) (s : State) : Host.Outcome State Fault Refusal := primCommand h 5 primExtract s
/-- EXPAND. -/
def execExpand (h : HalfId) (s : State) : Host.Outcome State Fault Refusal := primCommand h 6 primExpand s
/-- HMAC. -/
def execHmac (h : HalfId) (s : State) : Host.Outcome State Fault Refusal := primCommand h 7 primHmac s
/-- SIGN. -/
def execSign (h : HalfId) (s : State) : Host.Outcome State Fault Refusal := primCommand h 8 primSign s
/-- VERIFY. -/
def execVerify (h : HalfId) (s : State) : Host.Outcome State Fault Refusal := primCommand h 9 primVerify s
/-- Whether the next primitive is an INSTALL for a cold session that finds no room in the store (R232). -/
def installWaits (s : State) (h : HalfId) : Bool :=
  match nextPrim s h with
  | some p => p.op == 10 && installCold s h p && (roomForHot s h).isNone
  | none => false

/-- INSTALL; it waits where its session's state cannot come into the store. -/
def execInstall (h : HalfId) (s : State) : Host.Outcome State Fault Refusal :=
  if installWaits s h then .next s else primCommand h 10 primInstall s
/-- FREE of a secret slot. -/
def execKilnFree (h : HalfId) (s : State) : Host.Outcome State Fault Refusal := primCommand h 11 primFree s

-- the vault (R255)

/-- Sets a vault slot and its bit in KLN_VSTAT. -/
def setVault (s : State) (h : HalfId) (n : Nat) (x : Option VaultKey) : State :=
  let s := updKln s h fun k => { k with vault := SMap.set vaultDefault k.vault n x }
  if x.isSome then s.setBit h Reg.KLN_VSTAT_VALID n else s.clearBit h Reg.KLN_VSTAT_VALID n

/-- Whether the vault is unwrapped at all (Table 18.4 stage 4): in SHIPPED and OWNED, with no alarm set and no debug grant. -/
def vaultOpens (s : State) : Bool :=
  (lcState s == 2 || lcState s == 3) && s.fld .east Reg.TMP_ALARM_CAUSE == 0 && !(64 ≤ s.otp.tamper.length) && s.dbgGrant == 0

/-- UNWRAP: a blob that fails the KW check leaves its slot empty, with a VAULT_BLOB_BAD record; with the KEK-kill row programmed no blob
opens. -/
def vaultUnwrap (s : State) (h : HalfId) (n addr : Nat) : State :=
  if !vaultOpens s then s else
  let r := unitRead s h mKiln addr 128
  match (if s.otp.kekKill ≠ 0 ∨ r.1.refused ∨ r.1.poison then none else Config.kwUnwrap h.num r.1.bytes) with
  | some (t, u, k) => setVault r.2 h n (some ⟨t, u, k⟩)
  | none => record (setVault r.2 h n none) h { code := 0x53, region := 5, index := n, mid := mKiln, address := addr }

/-- What a KLN_VCMD write by the latch-holding Warden does. -/
def klnVault (s : State) (h : HalfId) (w : Word) : State :=
  let n := nbits w.toNat 61 56
  match nbits w.toNat 63 62 with
  | 1 => unitCmd h (fun s => vaultUnwrap s h n (nbits w.toNat 51 6)) s
  | 2 => setVault s h n none
  | 3 => s.setFld h Reg.KLN_STAT_VAULT_READY 1
  | _ => s

-- entropy (R259)

/-- ENTROPY_FAIL: the DRBG is uninstantiated, ENT_FAIL set, a record written and attention 5 raised (R259, R324). -/
def execEntropyFail (h : HalfId) (s : State) : Host.Outcome State Fault Refusal :=
  let s := (updKln s h fun k => { k with drbg := false }).setFld h Reg.KLN_STAT_ENT_FAIL 1
  .next (raiseAttn (record s h { code := 0x52, region := 5, index := 0, mid := mKiln, status := secWord 0x0C }) h 5)

/-- DRBG_RESEED: due after 2^20 requests or 1 s, while the DRBG is instantiated. -/
def execDrbgReseed (h : HalfId) (s : State) : Host.Outcome State Fault Refusal :=
  let k := (s.half h).kln
  .next (if k.drbg && (2 ^ 20 ≤ k.drbgRequests || k.drbgSince + 1000000000 ≤ s.elapsed) then
    updKln s h fun k => { k with drbgRequests := 0, drbgSince := s.elapsed } else s)

end Sys2Proof.Machine
end

