-- ==== Sys2Proof/Machine/Trust.lean ====
section
/-! DEFINITION. Trust (chapter 18) as it does not depend on a core: life-cycle rows and transitions (R389–R393), monotonic
counters (R386), images (R383, R384, R387, R388), boot stages (R385) and tamper alarms (R394–R397). -/

namespace Sys2Proof

/-- SHA-384 of the Tiolano test key that signs the first transitions (Table 18.6); the manual does not give it. -/
opaque Config.testKeyDigest : List Byte

/-- The digest that TEST→SHIPPED fuses as TKEY_DIG (Table 18.6); the manual does not give it. -/
opaque Config.tkeyDigest : List Byte

/-- Whether a signature over a message verifies under the key that a digest names (R398, log entry 8). -/
opaque Config.debugSigned : (digest signature msg : List Byte) → Bool

namespace Machine

-- life-cycle rows (R392, R393)

/-- Whether step k (1–4) of a row is fully programmed. -/
def stepFull (row k : Nat) : Bool := nbits row (16 * k - 1) (16 * k - 16) == 0xFFFF

/-- value(row): the steps fully programmed in order. -/
def rowValue (row : Nat) : Nat := ((List.range 4).takeWhile fun k => stepFull row (k + 1)).length

/-- gap(row): a step above the next one has a fuse programmed. -/
def rowGap (row : Nat) : Bool := row >>> (16 * (rowValue row + 1)) != 0

/-- Whether the step after the row's value is programmed in part. -/
def rowPart (row : Nat) : Bool := (row >>> (16 * rowValue row)) % 65536 != 0

/-- What stage 1 decodes: the state, and whether the rows are undecodable or a transition is pending (R393). -/
def lcDecode (o : Otp) : Nat × Bool × Bool :=
  let i := o.intent.toNat
  let c := o.commit.toNat
  if rowGap i || rowGap c || rowValue i < rowValue c then (7, true, false)
  else if rowValue i = rowValue c then (rowValue c, false, false)
  else (max (rowValue i) (rowValue c), false, true)

/-- LCS_STATE as the rows give it, TAMPER_CNT apart. -/
def lcsWord (o : Otp) : Nat :=
  let d := lcDecode o
  rowValue o.commit.toNat * 2 ^ 12 + rowValue o.intent.toNat * 2 ^ 8 +
    b2n (rowPart o.intent.toNat || rowPart o.commit.toNat) * 64 + b2n d.2.1 * 32 + b2n d.2.2 * 16 + d.1

/-- Loads LCS_STATE from OTP. -/
def loadLcs (s : State) : State := s.setReg .east 0x0F 0 (BitVec.ofNat 64 (lcsWord s.otp))

-- transitions (R390–R392, R397)

/-- A row with its first n fuses programmed, besides those that are. -/
def fuseRow (row : Word) (n : Nat) : Word := row ||| BitVec.ofNat 64 (2 ^ n - 1)

/-- The fuses of a transition besides the two rows (Table 18.6). -/
def fuseOther (o : Otp) (x : Transition) : Otp :=
  match x.target with
  | 2 => { o with tkey := Config.tkeyDigest, serial := x.serial }
  | 3 => { o with okey := x.okey, odbg := x.odbg }
  | 4 => { o with kekKill := BitVec.ofNat 64 (2 ^ 64 - 1) }
  | _ => o

/-- Steps of a transition's programming: the intent row's fuses, the others as one, the commit row's fuses. -/
def Transition.steps (x : Transition) : Nat := 32 * x.target + 1

/-- OTP after the first n steps of a transition (R392). -/
def programOtp (o : Otp) (x : Transition) (n : Nat) : Otp :=
  let k := 16 * x.target
  let o := { o with intent := fuseRow o.intent (min n k) }
  let o := if k < n then fuseOther o x else o
  if k + 1 < n then { o with commit := fuseRow o.commit (min (n - k - 1) k) } else o

/-- A transition stops with its programming left as it stands (R392, R397): how far it came is free. -/
def stopTransition (s : State) : State :=
  match s.xfer with
  | none => s
  | some x =>
    let f := s.takeFree
    { f.2 with otp := programOtp s.otp x (f.1.toNat % x.steps), xfer := none }.setFld .east Reg.LCS_XRES_BUSY 0

/-- The digest of the key that signs a transition from a state (Table 18.6). -/
def transitionKey (s : State) : Nat → List Byte
  | 0 | 1 => Config.testKeyDigest
  | 3 => s.otp.okey
  | _ => s.otp.tkey

/-- A transition authorization's checks (R391). A pending transition is authorised again by the same bytes (R393). -/
def authorised (s : State) (b : List Byte) : Option Transition :=
  let f := fieldLE b 4 1
  let t := fieldLE b 5 1
  let key := sliceB b 0x70 97
  let pending := s.flag .east Reg.LCS_STATE_PENDING && f == s.fld .east Reg.LCS_STATE_COMMIT && t == s.fld .east Reg.LCS_STATE_INTENT
  let allowed := (f < 4 && t == f + 1) || (f == 7 && t == 4)
  let zero (l : List Byte) : Bool := l.all (· == 0)
  if fieldLE b 0 4 = 0x54434C58 && (f == lcState s || pending) && allowed && (f < 2 || fieldLE b 8 8 == s.otp.serial.toNat) &&
      zero (sliceB b 6 2) && zero (sliceB b 0xD1 15) && (t == 3 || zero (sliceB b 0x10 0x60)) &&
      Config.hash 1 key == transitionKey s f && Config.ecdsaP384 key (sliceB b 0xE0 0x60) (sliceB b 0 0xE0) then
    some ⟨t, BitVec.ofNat 64 (fieldLE b 8 8), sliceB b 0x10 48, sliceB b 0x40 48⟩
  else none

/-- LC_REQUEST or a write of LCS_XREQ (R390): a result code of Table 18.2, and the transition begun. -/
def lcRequestAt (s : State) (h : HalfId) (addr : Nat) : Nat × State :=
  if s.flag .east Reg.LCS_XRES_BUSY then (4, s.setFld .east Reg.LCS_XRES_RESULT 2)
  else
    let r := unitRead s h 0x44 addr 320
    match (if r.1.refused || r.1.poison then none else authorised r.2 r.1.bytes) with
    | none => (1, r.2.setFld .east Reg.LCS_XRES_RESULT 1)
    | some x => (0, { r.2 with xfer := some x }.setFld .east Reg.LCS_XRES_BUSY 1)

/-- LIFE_CYCLE_TRANSITION_COMPLETE: the fuses are programmed, or one failed after 8 retries. TEST→SHIPPED also makes the
identity key, in vault slot 0; its type is not stated (log entry 12). -/
def execLifeCycleTransitionComplete (ok : Bool) (s : State) : Host.Outcome State Fault Refusal :=
  match s.xfer with
  | none => .next s
  | some x =>
    if !ok then .next ((stopTransition s).setFld .east Reg.LCS_XRES_RESULT 3)
    else
      let s := { s with otp := programOtp s.otp x x.steps, xfer := none }
      let s := (s.setFld .east Reg.LCS_XRES_BUSY 0).setFld .east Reg.LCS_XRES_RESULT 0
      if x.target ≠ 2 then .next s
      else .next ([HalfId.east, .west].foldl (fun s h =>
        let r := drbgBytes s h 48
        let f := r.2.takeFree
        setVault f.2 h 0 (some ⟨f.1.toNat % 256, 1, r.1⟩)) s)

-- counters (R386, R387)

/-- Programs steps of a counter until its value is the target. -/
def advanceCounter (s : State) (c target : Nat) : State :=
  if target ≤ counterOf s c then s
  else { s with otp := { s.otp with counters := s.otp.counters.setIfInBounds c (min target 255) } }

-- images (R383, R384)

/-- Code-store offset of a directory slot. -/
def dirAddr (slot : Nat) : Nat := 0x0FF00000 + 512 * slot

/-- The header that a slot of a die holds. -/
def headerOf (s : State) (die : HalfId) (slot : Nat) : List Byte := readCells (s.half die).code (dirAddr slot) 512

def imgKind (b : List Byte) : Nat := fieldLE b 4 1
def imgSvn (b : List Byte) : Nat := fieldLE b 6 1
def imgV (b : List Byte) : Bool := (fieldLE b 7 1).testBit 0
def imgActive (b : List Byte) : Bool := (fieldLE b 7 1).testBit 1

/-- The body that a header names on a die. -/
def bodyOf (s : State) (die : HalfId) (b : List Byte) : List Byte := readCells (s.half die).code (fieldLE b 8 4) (fieldLE b 12 4)

/-- MAGIC and the reserved bytes of a header. -/
def headerForm (b : List Byte) : Bool :=
  fieldLE b 0 4 == 0x474D4958 && fieldLE b 7 1 < 4 && (sliceB b 0xA9 7).all (· == 0) && (sliceB b 0x110 0xF0).all (· == 0)

/-- Whether an image of KIND 1–3 is valid (R384). -/
def imageValid (s : State) (b body : List Byte) : Bool :=
  let k := imgKind b
  let key := sliceB b 0x48 97
  headerForm b && 1 ≤ k && k ≤ 3 && fieldLE b 5 1 == (if k = 3 then 1 else 0) &&
    counterOf s (fieldLE b 5 1) ≤ imgSvn b && Config.hash 1 key == (if k = 3 then s.otp.okey else s.otp.tkey) &&
    Config.ecdsaP384 key (sliceB b 0xB0 0x60) (sliceB b 0 0xB0) && Config.hash 1 body == sliceB b 0x18 48

/-- The slot of a die that boot takes for a KIND (R388): ACTIVE slots first, then the others; the highest SVN, then the lowest
slot number; the first that passes R384. -/
def bootSlot (s : State) (die : HalfId) (kind : Nat) : Option Nat :=
  let ok := (List.range 64).filter fun n =>
    let b := headerOf s die n
    imgV b && imgKind b == kind && imageValid s b (bodyOf s die b)
  ok.foldl (fun best n =>
    match best with
    | none => some n
    | some m =>
      let a := headerOf s die m
      let b := headerOf s die n
      if (imgActive b && !imgActive a) || (imgActive a == imgActive b && imgSvn a < imgSvn b) then some n else some m) none

/-- Writes bytes into a die's code store; lines written hold no bit error any more (R361). -/
def codeWrite (s : State) (die : HalfId) (a : Nat) (bs : List Byte) : State :=
  s.upd die fun x => { x with
    code := writeCells x.code a bs
    codeErrs := x.codeErrs.filter fun p => !(a < 64 * p.1 + 64 && 64 * p.1 < a + bs.length) }

/-- Writes bytes into both dies, own die first. -/
def codeWriteBoth (s : State) (h : HalfId) (a : Nat) (bs : List Byte) : State := codeWrite (codeWrite s h a bs) h.other a bs

/-- Whether a range of the code store lies over the body of an ACTIVE image of a die. -/
def overActive (s : State) (die : HalfId) (a n : Nat) : Bool :=
  (List.range 64).any fun k =>
    let b := headerOf s die k
    imgV b && imgActive b && a < fieldLE b 8 4 + fieldLE b 12 4 && fieldLE b 8 4 < a + n

/-- Whether a slot holds an ACTIVE image on either die. -/
def slotActive (s : State) (slot : Nat) : Bool :=
  [HalfId.east, .west].any fun die => imgV (headerOf s die slot) && imgActive (headerOf s die slot)

/-- UPDATE (R387): a result code, and the staged image written on both dies; what boot took from the slot is there no more. The staged
image is its header with its body behind it (log entry 34). -/
def updateImage (s : State) (h : HalfId) (addr slot : Nat) : Nat × State :=
  if 64 ≤ slot then (5, s)
  else if s.activating.isSome ∨ slotActive s slot then (4, s)
  else
    let r := unitRead s h 0x44 addr 512
    let b := r.1.bytes
    let q := unitRead r.2 h 0x44 (addr + 512) (if headerForm b then fieldLE b 12 4 else 0)
    let bad := r.1.refused || r.1.poison || q.1.refused || q.1.poison
    let good := if imgKind b = 4 then headerForm b && Config.hash 1 q.1.bytes == sliceB b 0x18 48 else imageValid q.2 b q.1.bytes
    if bad || !good then (3, q.2)
    else if [HalfId.east, .west].any (overActive q.2 · (fieldLE b 8 4) q.1.bytes.length) then (4, q.2)
    else
      let s := codeWriteBoth { q.2 with booted := q.2.booted.filter (· != slot) } h (dirAddr slot) (patchB b 7 [1])
      (0, raiseAttnBoth (codeWriteBoth s h (fieldLE b 8 4) q.1.bytes) 6)

/-- Sets or clears ACTIVE of a slot on a die. -/
def setActive (s : State) (die : HalfId) (slot : Nat) (on : Bool) : State :=
  let f := fieldLE (headerOf s die slot) 7 1
  codeWrite s die (dirAddr slot + 7) [BitVec.ofNat 8 (f % 2 + 2 * b2n on)]

/-- ACTIVATE on one die (R388): the slot, then every other of its KIND. -/
def activateOn (slot kind : Nat) (s : State) (die : HalfId) : State :=
  let s := setActive s die slot true
  (List.range 64).foldl (fun s n =>
    let b := headerOf s die n
    if n ≠ slot ∧ imgKind b = kind ∧ imgActive b then setActive s die n false else s) s

/-- Whether ACTIVATE refuses a slot (R388). -/
def activateBad (s : State) (h : HalfId) (slot : Nat) : Bool :=
  let b := headerOf s h slot
  64 ≤ slot || !imgV b || (imgKind b != 4 && !imageValid s b (bodyOf s h b))

/-- The steps of ACTIVATE on a half's own die (R388): power may be lost before those on the other. -/
def activateOwn (s : State) (h : HalfId) (slot : Nat) : State :=
  { activateOn slot (imgKind (headerOf s h slot)) s h with activating := some (h, slot) }

/-- The steps of ACTIVATE on the other die, which end it. -/
def activateRest (s : State) (h : HalfId) (slot : Nat) : State :=
  raiseAttnBoth { activateOn slot (imgKind (headerOf s h slot)) s h.other with activating := none } 6

-- tamper (R394–R397)

/-- Whether a sensor is on (R401): in BLANK, TEST and RETURNED as TMP_CFG says, else only MESH_EN counts. -/
def sensorOn (s : State) (c : Nat) : Bool :=
  if c ≤ 4 then s.flag .east Reg.TMP_CFG_MESH_EN
  else if !lcOpen s ∨ c = 14 then true
  else if c ≤ 8 then s.flag .east Reg.TMP_CFG_VOLT_EN
  else if c = 9 then s.flag .east Reg.TMP_CFG_GLITCH_EN
  else if c ≤ 11 then s.flag .east Reg.TMP_CFG_TEMP_EN
  else s.flag .east Reg.TMP_CFG_LIGHT_EN

/-- The mode number of a cause entry (R395). -/
def tamperMode (s : State) : Nat :=
  match deviceMode s with
  | .reset => 0
  | .boot => if 4 ≤ s.bootStage then 2 else 1
  | .run => 3
  | .watch => 4
  | .safe => 5
  | .service => 6

/-- What a mesh loop's alarm shows in TMP_MESH: whether the loop is open or shorted is not stated and is free (log entry 12). -/
def noteMesh (s : State) (n : Nat) : State :=
  let f := s.takeFree
  let put (s : State) (d : Fld) (on : Bool) : State := if on then s.setBit .east d n else s.clearBit .east d n
  put (put f.2 Reg.TMP_MESH_OPEN (f.1.toNat.testBit 0)) Reg.TMP_MESH_SHORT (f.1.toNat.testBit 1)

/-- What an alarm records (R395): its bit, one step of the OTP counter with its cause entry, and attention 5. -/
def noteTamper (s : State) (c : Nat) : State :=
  let entry : Byte := BitVec.ofNat 8 (tamperMode s * 32 + c)
  let s := if c ≤ 4 then noteMesh s (c - 1) else s
  let s := s.setBit .east Reg.TMP_ALARM_CAUSE (c - 1)
  let s := if s.otp.tamper.length < 64 then { s with otp := { s.otp with tamper := s.otp.tamper ++ [entry] } }
           else s.setFld .east Reg.TMP_ALARM_CNT_FULL 1
  [HalfId.east, .west].foldl (fun s h => if s.flag h Reg.HIF_STAT_LINK then raiseAttn s h 5 else s) s

/-- The response of Table 18.9. -/
def tamperResponse (s : State) : State :=
  match deviceMode s with
  | .reset => s
  | .boot => enterSafeDevice (if 4 ≤ s.bootStage then zeroise s else s) 10 0
  | .run => enterSafeDevice (zeroise s) 10 0
  | .watch => { enterSafeDevice (zeroise s) 10 0 with waking := false }
  | .safe => if s.flag .east Reg.TMP_ALARM_ZEROED then s else zeroise s
  | .service => { zeroise s with dbgGrant := 0 }.setFld .east Reg.LCS_DBG_SCOPE 0

/-- A tamper alarm of a cause of Table 18.8. -/
def tamper (s : State) (c : Nat) : State :=
  if !sensorOn s c then s else tamperResponse (stopTransition (noteTamper s c))

/-- TAMPER_ALARM. -/
def execTamperAlarm (cause : Fin 14) (s : State) : Host.Outcome State Fault Refusal := .next (tamper s (cause.val + 1))

-- boot stages (R385)

/-- Entry to Service: the transmitters go off (R329, Table 19.4), and a Safe entry that was due is none any more. -/
def enterService (s : State) : State :=
  [HalfId.east, .west].foldl (fun s h =>
    linksOff ((ethDown (setMode s h .service) h [0, 1, 2, 3]).upd h fun x => { x with safeDue := none }) h) s

/-- A stage that completes. -/
def stageDone (s : State) (n : Nat) : State := { s with bootStage := n }.setFld .east Reg.LCS_BOOT_STAGE n

/-- A stage that fails into Safe. -/
def bootFail (s : State) (code : Nat) : State := enterSafeDevice (s.setFld .east Reg.LCS_BOOT_FAIL code) 0xFF 0xFF

/-- Notes a directory slot that boot took. -/
def tookSlot (s : State) (n : Option Nat) : State := { s with booted := s.booted ++ n.toList }

/-- CTL of a region entry that covers (mant + 1) × 2^exp bytes from a base on, valid and locked (Table 9.2). -/
def lockedEntry (base mant exp : Nat) : Nat := 2 ^ 63 + 2 ^ 62 + mant * 2 ^ 52 + exp * 2 ^ 46 + base

/-- A region entry as stage 5 writes it: classes of the mask may read and write. -/
def bootEntry (s : State) (h : HalfId) (n ctl mask : Nat) : State :=
  let o := 0x1000 + 0x20 * n
  ((s.setReg h 3 o (BitVec.ofNat 64 ctl)).setReg h 3 (o + 8) (BitVec.ofNat 64 mask)).setReg h 3 (o + 16) (BitVec.ofNat 64 mask)

/-- Stage 5 on one half (Table 18.4, R404): entry 0 grants block WMB to classes 0 and 1 alone (R381), entries 1 and 2 grant blocks 0x02–0x0E
to class 2 as well (R382; their numbers are a choice, log entry 149), entries 0–31 lock and so do BND_PRIV, BND_MCLASS, the GRV blocks
and FLT_ROT; the groves of FLT_GFAIL are fenced (R368), and BOM_CTRL.EN is set. What the firmware writes into the other entries and
registers before, it writes by commands of its own. -/
def bootLock (s : State) (h : HalfId) : State :=
  let s := bootEntry s h 0 (lockedEntry 0x80010000 0 16) 3
  let s := bootEntry (bootEntry s h 1 (lockedEntry 0x80020000 5 17) 7) h 2 (lockedEntry 0x800E0000 0 16) 7
  let s := (List.range 32).foldl (fun s n => s.setFld h { Reg.BND_ENT_CTL_LOCK with off := 0x1000 + 0x20 * n } 1) s
  let s := ([2, 3] ++ (List.range 17).map (0x20 + ·)).foldl (fun s b => s.setFld h ⟨b, 0xFFF0, 1, 1⟩ 1) s
  let s := ((List.range 17).filter (s.fld h Reg.FLT_GFAIL_FAILED).testBit).foldl (fun s g => fenceGrove s h g) s
  s.setFld h Reg.BOM_CTRL_EN 1

/-- The work of a boot stage 1–6 at the latch holder's half h (Table 18.4). -/
def bootStageWork (s : State) (h : HalfId) (stage : Nat) (ok : Bool) : State :=
  match stage with
  | 1 =>
    let s := loadLcs s
    if s.fld .east Reg.TMP_ALARM_CAUSE ≠ 0 ∨ 64 ≤ s.otp.tamper.length then enterSafeDevice s 10 0
    else if lcState s = 7 then enterService (stageDone s 1)
    else stageDone s 1
  | 2 =>
    let find (k : Nat) : Option Nat := (bootSlot s h k).orElse fun _ => bootSlot s h.other k
    if ok ∨ ((find 1).isSome ∧ (find 2).isSome) then tookSlot (tookSlot (stageDone s 2) (find 1)) (find 2) else bootFail s 1
  | 6 =>
    if lcState s ≠ 3 ∨ s.dbgGrant ≠ 0 then enterService s
    else match bootSlot s h 3 with
      | some n => tookSlot (stageDone s 6) (some n)
      | none => bootFail s 3
  | 5 => bootLock (bootLock (stageDone s 5) .east) .west
  | n => stageDone s n

/-- BOOT_STAGE_COMPLETE: the stages run in order, at the half whose Warden holds the latch. -/
def execBootStageComplete (stage : Fin 6) (ok : Bool) (s : State) : Host.Outcome State Fault Refusal :=
  match s.latch with
  | some h =>
    if deviceMode s = .boot ∧ s.bootStage = stage.val then .next (bootStageWork s h (stage.val + 1) ok) else .next s
  | none => .next s

end Machine

end Sys2Proof
end

