-- ==== Sys2Proof/Machine/FaultDetect.lean ====
section
/-! DEFINITION. Detection of faults and the charge latch (R357–R360, R365, R369–R373), fault injection (R357) and retests
(R368), as they do not depend on a core's step. -/

namespace Sys2Proof.Machine

/-- AUX bit 63 of the record of an injected fault (R357). -/
def injAux (inj : Bool) : Nat := if inj then 2 ^ 63 else 0

/-- REGION number of a containment region (R438). -/
def regionNum : Region → Nat
  | .grove => 0
  | .wardenPair => 1
  | .canopyBank => 2
  | .ddrChannel => 3
  | .codeStoreDie => 4
  | .sessionPipeline => 5
  | .hostInterface => 6
  | .boomLink => 7
  | .seamLink => 8
  | .timebase => 9
  | .alwaysOn => 10

def updFlt (s : State) (h : HalfId) (f : Flt → Flt) : State := s.upd h fun x => { x with flt := f x.flt }

/-- Whether a grove's recovery is in progress (R373). -/
def recoveringGrove (s : State) (h : HalfId) (g : Nat) : Bool := (s.half h).flt.recovering.contains (.grove, g)

def endRecovery (s : State) (h : HalfId) (r : Region) (g : Nat) : State :=
  updFlt s h fun x => { x with recovering := x.recovering.filter (· != (r, g)) }

/-- Holds every core of a grove. -/
def holdGrove (s : State) (h : HalfId) (g : Nat) : State :=
  s.upd h fun x => { x with
    cores := SMap.change coreDefault (fun n c => if n / 8 = g then { c with run := .held } else c) x.cores }

/-- Aborts every thread of a grove (R373); their DELIVER commands complete with FENCED (R365). What its cores have committed stays to be
released (R211, R214). -/
def abortGrove (s : State) (h : HalfId) (g : Nat) : State :=
  (groveThreads s h g).foldl (fun s p =>
    let s := becomeAborted s h p.2 (statusOf 7 2)
    s.setCoreN h p.1 { s.coreN h p.1 with thread := none, journal := [], effects := [] }) s

/-- Whether the spare replaces a grove, or is about to, or is itself fenced. -/
def spareTaken (s : State) (h : HalfId) (g : Nat) : Bool :=
  s.fld h Reg.FMN_GROVE_SPARE_AS != 31 || fenced s h 16 ||
    (s.half h).flt.recovering.any fun r => r.1 == .grove && r.2 != g

/-- The grove that suspension mode takes first (R364): in suspension mode already, the one that is next; else the lowest of the window in
progress, or of the window that is next where none is; the lowest of all where that window has no group of its own (log entry 147). -/
def firstSuspended (s : State) (h : HalfId) : Nat :=
  let x := (s.half h).flt
  if s.fld h Reg.FLT_ROT_WINDOW = 15 then x.next
  else
    let w := if x.phase = .off then x.next else s.fld h Reg.FLT_ROT_WINDOW
    if w < 6 then w else 0

/-- The rotation runs in suspension mode (R364). -/
def suspendRotation (s : State) (h : HalfId) : State :=
  (updFlt s h fun x => { x with next := firstSuspended s h }).setFld h Reg.FLT_ROT_WINDOW 15

/-- A grove is abandoned (R373): its threads are aborted, those that a takeover in progress has taken from it too. -/
def abandonGrove (s : State) (h : HalfId) (g syndrome : Nat) (inj : Bool) : State :=
  let s := endRecovery (abortGrove s h g) h .grove g
  let s := if (s.half h).flt.takeover ≠ some g then s
    else updFlt ((s.half h).flt.taken.foldl (fun s t => becomeAborted s h t (statusOf 7 2)) s) h fun x =>
      { x with takeover := none, taken := [] }
  record s h { code := 0x32, region := 0, index := g, outcome := 2, syndrome, aux := injAux inj }

/-- The groves that the spare is about to replace. -/
def recoveringGroves (s : State) (h : HalfId) : List Nat :=
  (s.half h).flt.recovering.filterMap fun r => if r.1 = .grove ∧ r.2 ≠ 16 then some r.2 else none

/-- A fault of a grove with its record code: it is fenced and its cores stop; a takeover is due (R365) unless the spare is
taken, when its threads are aborted; a second fault in its recovery abandons it, and a fault of the spare the grove that it was about to
replace (R373). -/
def groveFault (s : State) (h : HalfId) (g code syndrome : Nat) (inj : Bool) : State :=
  if recoveringGrove s h g then abandonGrove s h g syndrome inj
  else if fenced s h g then s
  else
    let lone := spareTaken s h g
    let left := if g = 16 then recoveringGroves s h else []
    let s := holdGrove (fenceGrove s h g) h g
    let s := record s h { code, region := 0, index := g, outcome := if lone then 2 else 1, syndrome, aux := injAux inj }
    let s := left.foldl (fun s g => abandonGrove s h g syndrome inj) s
    let s := if lone then abortGrove s h g else updFlt s h fun x => { x with recovering := x.recovering ++ [(.grove, g)] }
    updateGuar (if g = 16 ∨ lone then suspendRotation s h else s) h

-- the Warden pair and the charge latch (R369–R371)

/-- A failed Warden: held in reset, the latch free; with the other one held as well the device enters Safe (R371, R373). -/
def wardenFault (s : State) (h : HalfId) (code syndrome : Nat) (inj : Bool) : State :=
  if (s.half h).wardenHeld then s else
  let both := (s.half h.other).wardenHeld
  let s := record s h { code, region := 1, index := h.num, outcome := if both then safeOutcome s h 4 else 1, syndrome, aux := injAux inj }
  let s := s.upd h fun x => { x with wardenHeld := true, wardenActive := false }
  let s := if s.latch = some h then
             { updFlt s h fun x => { x with recovering := x.recovering ++ [(.wardenPair, h.num)] } with latch := none }
           else s
  let s := updateGuar (updateGuar s .east) .west
  if both then faultSafeDevice s 1 h.num else s

/-- Restarts at a half the count of every member's heartbeats (R339, R340), as it takes up the root's duties. -/
def restartCounts (s : State) (h : HalfId) : State :=
  let ns := (List.range 510).filter fun n => (nodeState s h n).1 == 1
  s.upd h fun x => { x with bom := { x.bom with lastHb := ns.foldl (fun m n => SMap.set (fun _ => 0) m n s.elapsed) [] } }

/-- The joined halves of the root's device name the root node (R336). -/
def nameRoot (s : State) (n : Nat) : State :=
  [HalfId.east, .west].foldl (fun s x => if s.fld x Reg.BOM_ID_CSTATE = 2 then s.setFld x Reg.BOM_ID_ROOT n else s) s

/-- With the charge latch a joined half of the root device takes up the root's duties (R336): it is the root node from now on. -/
def assumeRoot (s : State) (h : HalfId) : State :=
  if s.fld h Reg.BOM_ID_CSTATE ≠ 2 ∨ s.fld h Reg.BOM_ID_ROOT / 2 ≠ ownNode s h / 2 then s else
  restartCounts (nameRoot s (ownNode s h)) h

/-- Elapsed ns of a lease. -/
def leaseNs : Nat := 1000000

/-- Charge is taken: a new lease, and the end of a switchover where one was due (Table 17.4): after a fault that was detected, or where the
other Warden held charge until its lease expired and has not found out yet (R371). -/
def takeCharge (s : State) (h : HalfId) : State :=
  let s := { s with latch := some h, leaseEnd := s.elapsed + leaseNs }
  let s := s.upd h fun x => { x with wardenActive := true }
  let s := if (s.half h.other).flt.recovering.contains (.wardenPair, h.other.num) ∨ (s.half h.other).wardenActive then
             record (endRecovery s h.other .wardenPair h.other.num) h { code := 0x40, region := 1, index := h.num, outcome := 1 }
           else s
  updateGuar (updateGuar (assumeRoot s h) .east) .west

/-- CLAIM (R369): accepted while the cell is free; on frozen copies only East's end takes one (R372). -/
def claimLatch (s : State) (h : HalfId) : State :=
  if s.latch.isSome ∨ (s.half h).wardenHeld ∨ (s.half h).mode = .reset ∨ (s.frozen ∧ h ≠ .east) then s else takeCharge s h

/-- A Warden that believes itself active finds that it is not the holder: it demotes itself (R370). -/
def demote (s : State) (h : HalfId) : State :=
  if !(s.half h).wardenActive ∨ s.latch = some h then s
  else record (s.upd h fun x => { x with wardenActive := false }) h { code := 0x42, region := 1, index := h.num }

/-- RENEW: a new lease for the holder; a Warden that only believes itself active finds out (R370). -/
def renewLatch (s : State) (h : HalfId) : State :=
  if (s.half h).wardenHeld ∨ (s.half h).mode = .reset then s
  else if s.latch = some h then { s with leaseEnd := s.elapsed + leaseNs }
  else demote s h

/-- A Warden that believes itself active reads HOLDER at every idle tick; the other Warden's name there demotes it (R370, log entry 151). -/
def holderRead (h : HalfId) (s : State) : State := if s.latch = some h.other then demote s h else s

/-- The cell becomes free, unless its copies are frozen. -/
def freeLatch (s : State) : State :=
  if s.frozen then s else updateGuar (updateGuar { s with latch := none } .east) .west

/-- RELEASE by the holder. -/
def releaseLatch (s : State) (h : HalfId) : State :=
  if s.latch = some h ∧ !s.frozen then freeLatch (s.upd h fun x => { x with wardenActive := false }) else s

-- other regions

/-- Failure of the reference oscillator: the timebase stands still (R374). -/
def oscFailure (s : State) (inj : Bool) : State :=
  if s.timeFailed then s else
  let s := { record s .east { code := 0x22, region := 9, index := 0, outcome := safeOutcome s .east 4, aux := injAux inj } with timeFailed := true }
  faultSafeDevice s 9 0

/-- A codeword violation or a stall in a containment region (R359, R360; Tables 1.2 and 17.1), counted. -/
def regionFault (s : State) (h : HalfId) (r : Region) (index code syndrome : Nat) (inj : Bool) : State :=
  let s := s.incFld h (if code = 1 then Reg.FLT_CNT0_CODEWORD else Reg.FLT_CNT1_STALL)
  let note (outcome i : Nat) : State :=
    record s h { code, region := regionNum r, index := i, outcome, syndrome, aux := injAux inj }
  match r with
  | .grove => if index < 17 then groveFault s h index code syndrome inj else s
  | .wardenPair => wardenFault s h code syndrome inj
  | .sessionPipeline | .hostInterface => faultSafe (note (safeOutcome s h 3) 0) h (regionNum r) 0 3
  | .timebase | .alwaysOn =>
    let s := note (safeOutcome s h 4) 0
    faultSafeDevice (if r = .timebase then { s with timeFailed := true } else s) (regionNum r) 0
  | .canopyBank | .ddrChannel | .boomLink => note 0 index
  | .codeStoreDie | .seamLink => note 0 0

-- injection (R357) and retest (R368)

/-- Whether the life cycle, or a debug grant, permits fault injection (Table 18.10). -/
def mayInject (s : State) : Bool :=
  lcOpen s || ((lcState s == 2 || lcState s == 3) && s.dbgGrant.testBit 3)

/-- Puts an error into a granule of a Canopy bank, or into a line of a DDR channel as one device gives it; which granule or line is not
stated: a free value. -/
def injectGranule (s : State) (h : HalfId) (ddr : Bool) (target : Nat) (hard : Bool) : State :=
  let r := s.takeFree
  let line := if ddr then 0x40000000 + (r.1.toNat % 0x10000 * 16 + 4 * target) + r.1.toNat / 0x10000 % 4
              else 0x1000000 + r.1.toNat % 0x8000 * 32 + target
  let g := 4 * line + r.1.toNat / 0x1000000 % 4
  r.2.upd h fun x => { x with
    mem :=
      if ddr then { x.mem with lineCe := x.mem.lineCe.add line }
      else if hard then { x.mem with ue := x.mem.ue.add g }
      else { x.mem with ce := x.mem.ce.add g }
    flt := { x.flt with injected := x.flt.injected.add g } }

/-- Whether FLT_INJ names a class and a target there is (Table 17.7). -/
def injectable (cls target : Nat) : Bool :=
  match cls with
  | 1 | 2 | 3 => target < 17
  | 4 | 9 | 10 => true
  | 5 | 6 => target < 32
  | 7 | 8 => target < 4
  | _ => false

/-- The injected fault, handled as a real one. -/
def inject (s : State) (h : HalfId) (cls target : Nat) : State :=
  match cls with
  | 1 => regionFault s h .grove target 1 0 true
  | 2 => regionFault s h .grove target 2 0 true
  | 3 => groveFault (s.incFld h Reg.FLT_CNT1_TEST_FAIL) h target 3 0 true
  | 4 => wardenFault s h 5 0 true
  | 5 => injectGranule s h false target false
  | 6 => injectGranule s h false target true
  | 7 => injectGranule s h true target false
  | 8 => if (linkOf s h target).up then replayLink s h target else s
  | 9 => s.incFld h Reg.SEM_STAT_RETRY
  | 10 => oscFailure s true
  | _ => s

/-- A retest starts. -/
def startRetest (s : State) (h : HalfId) (g : Nat) : State :=
  ((s.setFld h Reg.FLT_RETEST_GROVE g).setFld h Reg.FLT_RETEST_BUSY 1).setFld h Reg.FLT_RETEST_RESULT 0

end Sys2Proof.Machine
end

