-- ==== Sys2Proof/Machine/Lio.lean ====
section
/-! DEFINITION. The UARTs, the GPIO pins and the SPI master as their registers use them (R433). The block is decoded on
East (R31). -/

namespace Sys2Proof.Machine

/-- Whether SMB_ALERT_N is pulled low: either half is in Safe or holds attention cause 3 or 5 (Table 20.4). -/
def smbAlertLow (s : State) : Bool :=
  [HalfId.east, .west].any fun h => s.inMode h .safe || (s.fld h Reg.HIF_ATTN_PEND).testBit 3 || (s.fld h Reg.HIF_ATTN_PEND).testBit 5

/-- Queues a byte for transmission; with 16 queued it is dropped and ERR_WR set (Table 20.12). -/
def uartQueue (s : State) (n : Nat) (b : Byte) : State :=
  let q := s.uartTx.getD n []
  if 16 ≤ q.length then s.errWr .east 0x13 else { s with uartTx := s.uartTx.setIfInBounds n (q ++ [b]) }

/-- Bytes [0, n) of the SPI buffer. -/
def spiBuffer (s : State) (n : Nat) : List Byte :=
  ((List.range ((n + 7) / 8)).flatMap fun i => leBytes 8 (s.reg .east 0x13 (0x1000 + 8 * i)).toNat).take n

/-- Puts bytes at the start of the SPI buffer. -/
def spiFill (s : State) (bs : List Byte) : State :=
  (List.range ((bs.length + 7) / 8)).foldl (fun s i =>
    let old := leBytes 8 (s.reg .east 0x13 (0x1000 + 8 * i)).toNat
    let new := (bs.drop (8 * i)).take 8
    s.setReg .east 0x13 (0x1000 + 8 * i) (BitVec.ofNat 64 (leNat (new ++ old.drop new.length)))) s

/-- GO: opcode, address and, for a write, the bytes of the buffer leave on the pins. -/
def spiStart (s : State) (w : Word) : State :=
  let n := nbits w.toNat 31 16
  let s := s.emit (.spi (nbits w.toNat 63 56) (nbits w.toNat 55 32) (if w.toNat.testBit 1 then spiBuffer s n else []))
  { s with spi := some w }.setFld .east Reg.LIO_SPISTAT_BUSY 1

/-- SPI_TRANSFER_COMPLETE: what a read brought goes into the buffer. -/
def execSpiTransferComplete (rx : List Byte) (s : State) : Host.Outcome State Fault Refusal :=
  match s.spi with
  | none => .next s
  | some w =>
    let s := if w.toNat.testBit 1 then s else spiFill s (sliceB rx 0 (nbits w.toNat 31 16))
    .next ({ s with spi := none }.setFld .east Reg.LIO_SPISTAT_BUSY 0)

/-- UART_RECEIVE: a byte that finds 16 waiting is lost (log entry 35). -/
def execUartReceive (n : Fin 2) (b : Byte) (s : State) : Host.Outcome State Fault Refusal :=
  let q := s.uartRx.getD n.val []
  if s.flag .east (Reg.LIO_UART_EN.at (8 * n.val)) ∧ q.length < 16 then
    .next { s with uartRx := s.uartRx.setIfInBounds n.val (q ++ [b]) }
  else .next s

/-- UART_TRANSMIT: the oldest queued byte has gone out. -/
def execUartTransmit (n : Fin 2) (s : State) : Host.Outcome State Fault Refusal :=
  match s.uartTx.getD n.val [] with
  | b :: q =>
    if s.flag .east (Reg.LIO_UART_EN.at (8 * n.val)) then
      .next ({ s with uartTx := s.uartTx.setIfInBounds n.val q }.emit (.uartByte n.val b))
    else .next s
  | [] => .next s

end Sys2Proof.Machine
end

