-- ==== Sys2Proof/Machine/IntResults.lean ====
section
/-! DEFINITION. Results and flags of the integer instructions as functions of their operands (R79–R92). -/

namespace Sys2Proof.Machine

/-- Bytes of a w-bit value in reverse order (SWAPB, Table 4.1). -/
def swapRes (w s : Nat) : Nat := leNat (leBytes (w / 8) s).reverse

/-- SHL (Table 4.4). -/
def shlRes (w s n : Nat) : Res :=
  let s := s % 2 ^ w
  if n = 0 then (s, flagsLogic w s)
  else if n < w then
    let r := s * 2 ^ n % 2 ^ w
    (r, flagsNZVC w r (decide (signedOf w s * 2 ^ n ≠ signedOf w r)) (s.testBit (w - n)))
  else (0, flagsNZVC w 0 (decide (s ≠ 0)) (n == w && s.testBit 0))

/-- SHR (Table 4.4). -/
def shrRes (w s n : Nat) : Res :=
  let s := s % 2 ^ w
  if n = 0 then (s, flagsLogic w s)
  else if n < w then (s / 2 ^ n, flagsNZVC w (s / 2 ^ n) false (s.testBit (n - 1)))
  else (0, flagsNZVC w 0 false (n == w && s.testBit (w - 1)))

/-- SAR (Table 4.4). -/
def sarRes (w s n : Nat) : Res :=
  let s := s % 2 ^ w
  if n = 0 then (s, flagsLogic w s)
  else if n < w then
    let r := unsignedOf w (signedOf w s / 2 ^ n)
    (r, flagsNZVC w r false (s.testBit (n - 1)))
  else
    let sg := s.testBit (w - 1)
    let r := if sg then 2 ^ w - 1 else 0
    (r, flagsNZVC w r false sg)

/-- ROL (Table 4.4). -/
def rolRes (w s n : Nat) : Res :=
  let s := s % 2 ^ w
  let k := n % w
  if k = 0 then (s, flagsLogic w s)
  else
    let r := (s * 2 ^ k % 2 ^ w) ||| (s / 2 ^ (w - k))
    (r, flagsNZVC w r false (r.testBit 0))

/-- ROR (Table 4.4). -/
def rorRes (w s n : Nat) : Res :=
  let s := s % 2 ^ w
  let k := n % w
  if k = 0 then (s, flagsLogic w s)
  else
    let r := (s / 2 ^ k) ||| (s * 2 ^ (w - k) % 2 ^ w)
    (r, flagsNZVC w r false (r.testBit (w - 1)))

/-- MUL (R85). -/
def mulRes (w a b : Nat) : Res :=
  let a := a % 2 ^ w
  let b := b % 2 ^ w
  let r := a * b % 2 ^ w
  (r, flagsNZVC w r (decide (signedOf w a * signedOf w b ≠ signedOf w r)) (decide (2 ^ w ≤ a * b)))

/-- MULU.H (R85). -/
def muluHRes (w a b : Nat) : Res :=
  let r := (a % 2 ^ w) * (b % 2 ^ w) / 2 ^ w
  (r, flagsNZVC w r false false)

/-- MULS.H (R85). -/
def mulsHRes (w a b : Nat) : Res :=
  let r := unsignedOf w ((signedOf w a * signedOf w b) / 2 ^ w)
  (r, flagsNZVC w r false false)

/-- DIV (R87, Table 4.5) with DZE = 0. -/
def divRes (w a b : Nat) : Res :=
  let x := signedOf w a
  let y := signedOf w b
  if y = 0 then (0, flagsNZVC w 0 true true)
  else
    let r := unsignedOf w (x.tdiv y)
    (r, flagsNZVC w r (decide (x = -(2 ^ (w - 1)) ∧ y = -1)) false)

/-- REM (R87, Table 4.5) with DZE = 0. -/
def remRes (w a b : Nat) : Res :=
  let x := signedOf w a
  let y := signedOf w b
  if y = 0 then (a % 2 ^ w, flagsNZVC w (a % 2 ^ w) true true)
  else
    let r := unsignedOf w (x.tmod y)
    (r, flagsNZVC w r (decide (x = -(2 ^ (w - 1)) ∧ y = -1)) false)

/-- DIVU (R87, Table 4.5) with DZE = 0. -/
def divuRes (w a b : Nat) : Res :=
  let a := a % 2 ^ w
  let b := b % 2 ^ w
  if b = 0 then (0, flagsNZVC w 0 true true) else (a / b, flagsNZVC w (a / b) false false)

/-- REMU (R87, Table 4.5) with DZE = 0. -/
def remuRes (w a b : Nat) : Res :=
  let a := a % 2 ^ w
  let b := b % 2 ^ w
  if b = 0 then (a, flagsNZVC w a true true) else (a % b, flagsNZVC w (a % b) false false)

/-- DAA on a byte and the C, H and D flags (R92). -/
def daaRes (s : Nat) (c h d : Bool) : Res :=
  let s := s % 256
  let (v, co) :=
    if !d then
      let v := if h || 9 < s % 16 then s + 0x06 else s
      if c || 0x99 < s then (v + 0x60, true) else (v, c)
    else
      let v := if h then s + 256 - 0x06 else s
      (if c then v + 256 - 0x60 else v, c)
  let r := v % 256
  (r, flagsNZVC 8 r false co)

-- packed decimal (R93–R96)

/-- The decimal digits of packed bytes, most significant first: every nibble but the last. -/
def packedDigits (bs : List Byte) : List Nat := (bs.flatMap fun b => [b.toNat / 16, b.toNat % 16]).dropLast

/-- The sign nibble. -/
def packedSign (bs : List Byte) : Nat := (bs.getLast?.getD 0).toNat % 16

/-- Whether every nibble of a packed source is one of those R93 allows (R94). -/
def packedOk (bs : List Byte) : Bool := (packedDigits bs).all (· ≤ 9) && 10 ≤ packedSign bs

/-- The value of a packed source (R93). -/
def packedValue (bs : List Byte) : Int :=
  let m : Int := (((packedDigits bs).foldl (fun a d => a * 10 + d) 0 : Nat) : Int)
  if packedSign bs = 0xB ∨ packedSign bs = 0xD then -m else m

/-- `n` nibbles of a number's decimal digits, most significant first. -/
def decNibbles : Nat → Nat → List Nat
  | 0, _ => []
  | n + 1, v => decNibbles n (v / 10) ++ [v % 10]

/-- Pairs of nibbles as bytes. -/
def nibblePairs : List Nat → List Byte
  | a :: b :: r => BitVec.ofNat 8 (a * 16 + b) :: nibblePairs r
  | _ => []

/-- A packed operand of L bytes: the low 2L − 1 digits and the sign; zero is 0xC (R93). -/
def packedBytes (len : Nat) (v : Int) : List Byte :=
  let m := v.natAbs % 10 ^ (2 * len - 1)
  nibblePairs (decNibbles (2 * len - 1) m ++ [if v < 0 ∧ m ≠ 0 then 0xD else 0xC])

/-- Whether a value needs more than 2L − 1 digits. -/
def packedOver (len : Nat) (v : Int) : Bool := decide (10 ^ (2 * len - 1) ≤ v.natAbs)

/-- Flags of ADDP and SUBP (R95): N and Z from the decimal result before its digits are cut to the destination. DEDUCED:
R95 says the decimal result, where R96 says the value written (log entry 22). -/
def packedFlags (len : Nat) (v : Int) : List (Nat × Bool) :=
  [(fN, decide (v < 0)), (fZ, decide (v = 0)), (fV, packedOver len v), (fC, false)]

/-- Flags of CVTBP (R96): N and Z from the value written. -/
def cvtbpFlags (len : Nat) (v : Int) : List (Nat × Bool) :=
  let m := v.natAbs % 10 ^ (2 * len - 1)
  [(fN, decide (v < 0 ∧ m ≠ 0)), (fZ, m == 0), (fV, packedOver len v), (fC, false)]

/-- CVTPB: the low w bits and the flags (R96). -/
def cvtpbRes (w : Nat) (v : Int) : Res :=
  let r := unsignedOf w v
  (r, flagsNZVC w r (decide (signedOf w r ≠ v)) false)

end Sys2Proof.Machine
end

