-- ==== Sys2Proof/Machine/Decimal.lean ====
section
/-! DEFINITION. Decimal floating point in BID encoding (R98–R100, R102) and binary64 (R101): formats, one rounding
function for both radices, and the operations of Table 4.7 as functions of values. -/

namespace Sys2Proof.Machine

/-- A floating-point value: finite with coefficient and exponent, infinity, or NaN with payload. -/
inductive FVal where
  | fin (neg : Bool) (coef : Nat) (exp : Int)
  | inf (neg : Bool)
  | nan (neg signalling : Bool) (payload : Nat)
  deriving DecidableEq, Repr

/-- A format: radix, precision in digits, least and greatest exponent of the coefficient's last digit, and whether
tininess is judged after rounding. -/
structure FFmt where
  base : Nat
  p : Nat
  qmin : Int
  qmax : Int
  tinyAfter : Bool
  deriving DecidableEq, Repr

/-- Table 4.6. -/
def dec64 : FFmt := ⟨10, 16, -398, 369, false⟩
def dec128 : FFmt := ⟨10, 34, -6176, 6111, false⟩
def decFmt (wide : Bool) : FFmt := if wide then dec128 else dec64

/-- binary64. -/
def bin64 : FFmt := ⟨2, 53, -1074, 971, Config.tinyAfterRounding⟩

-- exception bits, in the order of DSR.FL (Table 3.4)

abbrev xInexact : Nat := 1
abbrev xUnderflow : Nat := 2
abbrev xOverflow : Nat := 4
abbrev xDivZero : Nat := 8
abbrev xInvalid : Nat := 16

/-- A result and the exceptions raised. -/
abbrev FRes := FVal × Nat

-- encodings (Table 4.6)

/-- The value that 64 bits of BID hold; a non-canonical significand is zero (R98). -/
def ofBid64 (v : Nat) : FVal :=
  let neg := v.testBit 63
  if nbits v 62 58 = 0x1F then
    let pl := nbits v 49 0
    .nan neg (v.testBit 57) (if pl < 10 ^ 15 then pl else 0)
  else if nbits v 62 58 = 0x1E then .inf neg
  else if nbits v 62 61 = 3 then
    let c := 2 ^ 53 + nbits v 50 0
    .fin neg (if c < 10 ^ 16 then c else 0) ((nbits v 60 51 : Int) - 398)
  else .fin neg (nbits v 52 0) ((nbits v 62 53 : Int) - 398)

/-- The value that 128 bits of BID hold (R98). -/
def ofBid128 (v : Nat) : FVal :=
  let neg := v.testBit 127
  if nbits v 126 122 = 0x1F then
    let pl := nbits v 109 0
    .nan neg (v.testBit 121) (if pl < 10 ^ 33 then pl else 0)
  else if nbits v 126 122 = 0x1E then .inf neg
  else if nbits v 126 125 = 3 then .fin neg 0 ((nbits v 124 111 : Int) - 6176)
  else
    let c := nbits v 112 0
    .fin neg (if c < 10 ^ 34 then c else 0) ((nbits v 126 113 : Int) - 6176)

def ofBid (wide : Bool) (v : Nat) : FVal := if wide then ofBid128 v else ofBid64 v

/-- The canonical encoding of a value (R98). -/
def toBid64 (x : FVal) : Nat :=
  match x with
  | .fin n c e =>
    let e := (e + 398).toNat
    b2n n * 2 ^ 63 + (if c < 2 ^ 53 then e * 2 ^ 53 + c else 3 * 2 ^ 61 + e * 2 ^ 51 + (c - 2 ^ 53))
  | .inf n => b2n n * 2 ^ 63 + 0x1E * 2 ^ 58
  | .nan n s pl => b2n n * 2 ^ 63 + 0x1F * 2 ^ 58 + b2n s * 2 ^ 57 + pl

def toBid128 (x : FVal) : Nat :=
  match x with
  | .fin n c e => b2n n * 2 ^ 127 + (e + 6176).toNat * 2 ^ 113 + c
  | .inf n => b2n n * 2 ^ 127 + 0x1E * 2 ^ 122
  | .nan n s pl => b2n n * 2 ^ 127 + 0x1F * 2 ^ 122 + b2n s * 2 ^ 121 + pl

def toBid (wide : Bool) (x : FVal) : Nat := if wide then toBid128 x else toBid64 x

/-- The value that binary64 bits hold. -/
def ofBin64 (v : Nat) : FVal :=
  let neg := v.testBit 63
  let e := nbits v 62 52
  let f := nbits v 51 0
  if e = 0x7FF then (if f = 0 then .inf neg else .nan neg (!f.testBit 51) (nbits f 50 0))
  else if e = 0 then .fin neg f (-1074)
  else .fin neg (f + 2 ^ 52) ((e : Int) - 1075)

/-- The binary64 bits of a value whose coefficient has 53 bits or whose exponent is the least. -/
def toBin64 (x : FVal) : Nat :=
  match x with
  | .fin n c e =>
    b2n n * 2 ^ 63 + (if c < 2 ^ 52 then c else (e + 1075).toNat * 2 ^ 52 + (c - 2 ^ 52))
  | .inf n => b2n n * 2 ^ 63 + 0x7FF * 2 ^ 52
  | .nan n s pl => b2n n * 2 ^ 63 + 0x7FF * 2 ^ 52 + b2n (!s) * 2 ^ 51 + pl

-- rounding

/-- Number of decimal digits. -/
def decLen (n : Nat) : Nat :=
  if n = 0 then 0
  else
    let d := Nat.log2 n * 1233 / 4096
    if n < 10 ^ (d + 1) then d + 1 else d + 2

/-- Number of digits in a format's radix. -/
def FFmt.len (f : FFmt) (n : Nat) : Nat := if f.base = 10 then decLen n else if n = 0 then 0 else Nat.log2 n + 1

/-- Whether rounding adds one in the last place: mode, sign, quotient, remainder, divisor (Table 3.4). -/
def roundsUp (rm : Nat) (neg : Bool) (quot rem den : Nat) : Bool :=
  match rm with
  | 0 => decide (den < 2 * rem) || (decide (2 * rem = den) && quot % 2 == 1)
  | 1 => decide (den ≤ 2 * rem)
  | 2 => false
  | 3 => rem != 0 && !neg
  | _ => rem != 0 && neg

/-- n/m × base^q0 counted in units of base^q: quotient, remainder, divisor. -/
def FFmt.scale (f : FFmt) (n m : Nat) (q0 q : Int) : Nat × Nat × Nat :=
  if q0 ≤ q then
    let d := m * f.base ^ (q - q0).toNat
    (n / d, n % d, d)
  else
    let a := n * f.base ^ (q0 - q).toNat
    (a / m, a % m, m)

/-- Raises the exponent of an exact result toward the preferred one, while its last digit is zero. -/
def stripZeros (base : Nat) (qp : Int) : Nat → Nat → Int → Nat × Int
  | 0, c, q => (c, q)
  | k + 1, c, q => if q < qp ∧ c % base = 0 then stripZeros base qp k (c / base) (q + 1) else (c, q)

/-- The largest finite value of a format. -/
def FFmt.largest (f : FFmt) (neg : Bool) : FVal := .fin neg (f.base ^ f.p - 1) f.qmax

/-- Overflow's result under a rounding mode. -/
def FFmt.overflowed (f : FFmt) (rm : Nat) (neg : Bool) : FRes :=
  let toInf := match rm with
    | 0 | 1 => true
    | 2 => false
    | 3 => !neg
    | _ => neg
  (if toInf then .inf neg else f.largest neg, xOverflow + xInexact)

/-- Rounds ±n/m × base^q0 once to a format; `qp` is the preferred exponent of an exact result and `utrap` whether the
underflow trap is enabled (R99, R102). -/
def FFmt.round (f : FFmt) (rm : Nat) (utrap neg : Bool) (n m : Nat) (q0 qp : Int) : FRes :=
  if n = 0 then (.fin neg 0 (max f.qmin (min qp f.qmax)), 0)
  else
    let k := f.p + f.len m + 1
    let n' := n * f.base ^ k
    let q' := q0 - k
    let free : Int := q' + (f.len (n' / m) : Int) - f.p
    let q := max f.qmin free
    let (c, r, d) := f.scale n' m q' q
    let tiny :=
      if f.tinyAfter then
        let (c0, r0, d0) := f.scale n' m q' free
        let c1 := if roundsUp rm neg c0 r0 d0 then c0 + 1 else c0
        decide (free < f.qmin) && !(decide (free + 1 = f.qmin) && c1 == f.base ^ f.p)
      else decide (free < f.qmin)
    if r = 0 then
      if f.qmax < q then f.overflowed rm neg
      else
        let (c, q) := if f.base = 10 then stripZeros 10 (min qp f.qmax) f.p c q else (c, q)
        (.fin neg c q, if tiny && utrap then xUnderflow else 0)
    else
      let c1 := if roundsUp rm neg c r d then c + 1 else c
      let (c2, q2) := if c1 = f.base ^ f.p then (f.base ^ (f.p - 1), q + 1) else (c1, q)
      if f.qmax < q2 then f.overflowed rm neg
      else (.fin neg c2 q2, xInexact + (if tiny then xUnderflow else 0))

-- NaNs

/-- The default result of an invalid operation (R99). -/
def invalidRes : FRes := (.nan Config.defaultNanSign false 0, xInvalid)

def FVal.isNan : FVal → Bool
  | .nan _ _ _ => true
  | _ => false

def FVal.isSnan : FVal → Bool
  | .nan _ s _ => s
  | _ => false

def FVal.neg : FVal → Bool
  | .fin n _ _ => n
  | .inf n => n
  | .nan n _ _ => n

/-- The result of an operation on NaN operands: the first NaN quieted; invalid where any signals (R99). That it keeps that NaN's sign, and
in binary64 also its payload, is the model's choice (log entry 13). -/
def nanRes (xs : List FVal) : Option FRes :=
  match xs.find? FVal.isNan with
  | some (.nan n _ pl) => some (.nan n false pl, if xs.any FVal.isSnan then xInvalid else 0)
  | _ => none

-- operations

/-- Rounding mode and underflow trap of DSR (Table 3.4). -/
structure FMode where
  rm : Nat
  utrap : Bool
  deriving DecidableEq, Repr

def fAdd (f : FFmt) (m : FMode) (x y : FVal) : FRes :=
  match nanRes [x, y] with
  | some r => r
  | none =>
    match x, y with
    | .inf a, .inf b => if a = b then (.inf a, 0) else invalidRes
    | .inf a, _ => (.inf a, 0)
    | _, .inf b => (.inf b, 0)
    | .fin a c e, .fin b d g =>
      let q := min e g
      let v : Int := (if a then -1 else 1) * (c * f.base ^ (e - q).toNat : Nat) +
        (if b then -1 else 1) * (d * f.base ^ (g - q).toNat : Nat)
      let neg := if v = 0 then (if a = b then a else m.rm == 4) else decide (v < 0)
      f.round m.rm m.utrap neg v.natAbs 1 q q
    | _, _ => invalidRes

/-- Subtraction: addition of the negated second operand; a NaN keeps its sign. -/
def fSub (f : FFmt) (m : FMode) (x y : FVal) : FRes :=
  match y with
  | .fin b d g => fAdd f m x (.fin (!b) d g)
  | .inf b => fAdd f m x (.inf (!b))
  | .nan _ _ _ => fAdd f m x y

def fMul (f : FFmt) (m : FMode) (x y : FVal) : FRes :=
  match nanRes [x, y] with
  | some r => r
  | none =>
    match x, y with
    | .fin a c e, .fin b d g => f.round m.rm m.utrap (a != b) (c * d) 1 (e + g) (e + g)
    | .inf a, .inf b => (.inf (a != b), 0)
    | .inf a, .fin b d _ => if d = 0 then invalidRes else (.inf (a != b), 0)
    | .fin a c _, .inf b => if c = 0 then invalidRes else (.inf (a != b), 0)
    | _, _ => invalidRes

def fDiv (f : FFmt) (m : FMode) (x y : FVal) : FRes :=
  match nanRes [x, y] with
  | some r => r
  | none =>
    match x, y with
    | .fin a c e, .fin b d g =>
      if d = 0 then (if c = 0 then invalidRes else (.inf (a != b), xDivZero))
      else f.round m.rm m.utrap (a != b) c d (e - g) (e - g)
    | .inf _, .inf _ => invalidRes
    | .inf a, .fin b _ _ => (.inf (a != b), 0)
    | .fin a _ _, .inf b => (.fin (a != b) 0 f.qmin, 0)
    | _, _ => invalidRes

/-- Comparison (R100): the relation, and invalid for a signalling NaN only. -/
def fCompare (base : Nat) (x y : FVal) : Option Ordering × Nat :=
  if x.isNan || y.isNan then (none, if x.isSnan || y.isSnan then xInvalid else 0)
  else
    let key (v : FVal) (q : Int) : Int :=
      match v with
      | .fin n c e => (if n then -1 else 1) * (c * base ^ (e - q).toNat : Nat)
      | _ => 0
    let side (v : FVal) : Int := match v with | .inf n => if n then -1 else 1 | _ => 0
    if side x ≠ 0 ∨ side y ≠ 0 then (some (compare (side x) (side y)), 0)
    else
      let ex (v : FVal) : Int := match v with | .fin _ _ e => e | _ => 0
      let q := min (ex x) (ex y)
      (some (compare (key x q) (key y q)), 0)

/-- quantize (DQUANT). -/
def fQuantize (f : FFmt) (m : FMode) (x y : FVal) : FRes :=
  match nanRes [x, y] with
  | some r => r
  | none =>
    match x, y with
    | .inf a, .inf _ => (.inf a, 0)
    | .fin a c e, .fin _ _ g =>
      let (v, r, d) := f.scale c 1 e g
      let v' := if roundsUp m.rm a v r d then v + 1 else v
      if f.base ^ f.p ≤ v' then invalidRes else (.fin a v' g, if r = 0 then 0 else xInexact)
    | _, _ => invalidRes

/-- roundToIntegralExact (DRND). -/
def fIntegral (f : FFmt) (m : FMode) (x : FVal) : FRes :=
  match nanRes [x] with
  | some r => r
  | none =>
    match x with
    | .fin a c e =>
      if 0 ≤ e then (x, 0)
      else
        let (v, r, d) := f.scale c 1 e 0
        (.fin a (if roundsUp m.rm a v r d then v + 1 else v) 0, if r = 0 then 0 else xInexact)
    | _ => (x, 0)

/-- The integer a finite value rounds to, and whether that is inexact (DCVTI, CVTDP); none for NaN and infinity. -/
def fToInt (base : Nat) (rm : Nat) (x : FVal) : Option (Int × Bool) :=
  match x with
  | .fin a c e =>
    let (v, r, d) := (⟨base, 0, 0, 0, false⟩ : FFmt).scale c 1 e 0
    let v' := if roundsUp rm a v r d then v + 1 else v
    some ((if a then -1 else 1) * (v' : Int), r != 0)
  | _ => none

/-- A whole number in a decimal format, preferred exponent 0 (DCVTF, CVTPD). -/
def fOfInt (f : FFmt) (m : FMode) (i : Int) : FRes := f.round m.rm m.utrap (decide (i < 0)) i.natAbs 1 0 0

/-- Payload of a NaN taken into another format: carried where it fits, else not stated (log entry 12). -/
def nanPayload (limit pl : Nat) : Nat := if pl < limit then pl else (Config.undefinedResult 0xCB pl limit).toNat % limit

/-- Conversion between decimal formats (DCVTW). -/
def fDecToDec (f : FFmt) (m : FMode) (x : FVal) : FRes :=
  match x with
  | .fin a c e => f.round m.rm m.utrap a c 1 e e
  | .inf a => (.inf a, 0)
  | .nan a s pl => (.nan a false (nanPayload (10 ^ (f.p - 1)) pl), if s then xInvalid else 0)

/-- binary64 to a decimal format (FCVTD): an exact result has the exponent nearest 0. -/
def fBinToDec (f : FFmt) (m : FMode) (x : FVal) : FRes :=
  match x with
  | .fin a c e => if 0 ≤ e then f.round m.rm m.utrap a (c * 2 ^ e.toNat) 1 0 0
                  else f.round m.rm m.utrap a c (2 ^ (-e).toNat) 0 0
  | .inf a => (.inf a, 0)
  | .nan a s pl => (.nan a false (nanPayload (10 ^ (f.p - 1)) pl), if s then xInvalid else 0)

/-- Decimal to binary64 (FCVTB). -/
def fDecToBin (m : FMode) (x : FVal) : FRes :=
  match x with
  | .fin a c e => if 0 ≤ e then bin64.round m.rm m.utrap a (c * 10 ^ e.toNat) 1 0 bin64.qmin
                  else bin64.round m.rm m.utrap a c (10 ^ (-e).toNat) 0 bin64.qmin
  | .inf a => (.inf a, 0)
  | .nan a s pl => (.nan a false (nanPayload (2 ^ 51) pl), if s then xInvalid else 0)

/-- A binary64 operation on one lane. -/
def binLane (op : FFmt → FMode → FVal → FVal → FRes) (m : FMode) (x y : Nat) : Nat × Nat :=
  let r := op bin64 m (ofBin64 x) (ofBin64 y)
  (toBin64 r.1, r.2)

/-- A binary64 operation on both lanes, exceptions ORed (R101). -/
def binPair (op : FFmt → FMode → FVal → FVal → FRes) (m : FMode) (x y : Nat) : Nat × Nat :=
  let lo := binLane op m (x % 2 ^ 64) (y % 2 ^ 64)
  let hi := binLane op m (x / 2 ^ 64) (y / 2 ^ 64)
  (lo.1 + hi.1 * 2 ^ 64, lo.2 ||| hi.2)

end Sys2Proof.Machine
end

