-- ==== Sys2Proof/Machine/Mill.lean ====
section
/-! DEFINITION. Mill (chapter 13): the parse machine (R265–R272), frame builds (R273) and the table store (R275, R276). -/

namespace Sys2Proof.Machine

-- CRC units (R269)

/-- `n` bit steps of a CRC register of `w` bits, most significant bit first. -/
def crcSteps (w poly : Nat) : Nat → Nat → Nat
  | 0, r => r
  | n + 1, r =>
    let x := r * 2 % 2 ^ w
    crcSteps w poly n (if r.testBit (w - 1) then x ^^^ poly else x)

/-- The low `n` bits of a number in reverse order. -/
def revBits : Nat → Nat → Nat
  | 0, _ => 0
  | n + 1, v => b2n (v.testBit 0) * 2 ^ n + revBits n (v / 2)

/-- One byte through a CRC register. -/
def crcByte (d : CrcDesc) (r b : Nat) : Nat :=
  crcSteps d.width (d.poly % 2 ^ d.width) 8 (r ^^^ ((if d.refl then revBits 8 b else b) * 2 ^ (d.width - 8)))

/-- The check bytes of a register, in the order they stand on the wire. -/
def crcBytes (d : CrcDesc) (r : Nat) : List Byte :=
  let v := (if d.refl then revBits d.width r else r) ^^^ (d.xorout % 2 ^ d.width)
  if d.le then leBytes (d.width / 8) v else beBytes (d.width / 8) v

/-- A unit started from INIT under a descriptor (CRCON, and after each check). -/
def CrcUnit.restart (d : CrcDesc) : CrcUnit := ⟨d, d.init % 2 ^ d.width, 0, [], true, false⟩

/-- A unit covers a byte; in block mode a check falls due after every BLOCK bytes. -/
def CrcUnit.cover (b : Byte) (u : CrcUnit) : CrcUnit :=
  if !u.on then u else
  let d := u.desc
  let u := { u with reg := crcByte d u.reg b.toNat, covered := u.covered + 1 }
  if d.block ≠ 0 ∧ u.covered = d.block then { u with due := crcBytes d u.reg } else u

/-- CRCOFF: in block mode a partial block's check falls due; the unit stops. A unit that is not on stays as it is. -/
def CrcUnit.off (u : CrcUnit) : CrcUnit :=
  let d := u.desc
  let partBlock := u.on && d.block != 0 && u.covered != 0 && u.due.isEmpty
  { u with on := false, due := if partBlock then crcBytes d u.reg else u.due }

/-- CRCEND: the check of a unit that is on falls due. -/
def CrcUnit.stop (u : CrcUnit) : CrcUnit := if u.on then { u with due := crcBytes u.desc u.reg } else u

/-- A byte of a check that is due, judged at its last byte: whether the check failed, and the unit after it, which restarts
where it is still on. -/
def CrcUnit.check (b : Byte) (u : CrcUnit) : Bool × CrcUnit :=
  match u.due with
  | [] => (false, u)
  | e :: rest =>
    let bad := u.bad || b != e
    if !rest.isEmpty then (false, { u with due := rest, bad })
    else (bad, if u.on then CrcUnit.restart u.desc else CrcUnit.idle)

/-- The unit whose check takes the next byte. -/
def dueUnit (us : List CrcUnit) : Option Nat := (List.range 2).find? fun u => !(us.getD u CrcUnit.idle).due.isEmpty

-- field registers (R268)

/-- A signed field of an action word. -/
def actSigned (w bits : Nat) : Int := signedOf bits (nbits w (bits - 1) 0)

/-- ACC. -/
def MField.acc (f : MField) (le : Bool) (b : Byte) : Option MField :=
  if 8 ≤ f.count then none
  else some { f with
    value := if le then f.value ||| (b.setWidth 64 <<< (8 * f.count)) else (f.value <<< 8) ||| b.setWidth 64
    count := f.count + 1 }

/-- ACCV. -/
def MField.accv (f : MField) (b : Byte) : Option MField :=
  if 8 ≤ f.count then none
  else some { f with value := f.value ||| ((b &&& 0x7F).setWidth 64 <<< (7 * f.count)), count := f.count + 1 }

/-- ACCD. -/
def MField.accd (f : MField) (b : Byte) : Option MField :=
  let x := b.toNat
  if 0x30 ≤ x ∧ x ≤ 0x39 then
    let v := f.value.toNat * 10 + (x - 0x30)
    if 2 ^ 63 ≤ v ∨ (f.dot ∧ f.exp = -16) then none
    else some { f with value := BitVec.ofNat 64 v, count := f.count + 1, exp := if f.dot then f.exp - 1 else f.exp }
  else if x = 0x2E ∧ !f.dot then some { f with dot := true, count := f.count + 1 }
  else if x = 0x2D ∧ f.count = 0 then some { f with neg := true, count := f.count + 1 }
  else none

/-- The integer of INT and of a decimal significand (R270). -/
def MField.int (f : MField) : Int :=
  let v := if f.count = 0 ∨ 8 ≤ f.count then f.value.toInt else signedOf (8 * f.count) f.value.toNat
  if f.neg then -v else v

/-- binary32 widened exactly to binary64 bits. -/
def widen32 (v : Nat) : Nat :=
  let s := b2n (v.testBit 31) * 2 ^ 63
  let e := nbits v 30 23
  let m := nbits v 22 0
  if e = 255 then s + 0x7FF * 2 ^ 52 + m * 2 ^ 29
  else if e ≠ 0 then s + (e + 896) * 2 ^ 52 + m * 2 ^ 29
  else if m = 0 then s
  else
    let k := Nat.log2 m
    s + (k + 874) * 2 ^ 52 + (m * 2 ^ (52 - k)) % 2 ^ 52

/-- The VTYPE and VALUE that EMIT forms (R270): none for a BIN64 of another COUNT. -/
def emitValue (vt : Nat) (f : MField) : Option (Nat × Nat) :=
  let dec (wide : Bool) : Nat := toBid wide (.fin (decide (f.int < 0)) f.int.natAbs f.exp)
  match vt with
  | 1 => some (1, f.value.toNat % 2)
  | 2 => some (2, unsignedOf 64 f.int)
  | 4 => if f.int.natAbs < 10 ^ 16 then some (4, dec false) else some (5, dec true)
  | 5 => some (5, dec true)
  | 6 => if f.count = 4 then some (6, widen32 (f.value.toNat % 2 ^ 32)) else if f.count = 8 then some (6, f.value.toNat) else none
  | 7 => some (7, f.value.toNat % 4)
  | v => some (v, f.value.toNat)

-- record times (R271)

/-- Days from 1970 to the first of a month of 2000 + y, y below 100. -/
def daysTo (y m : Nat) : Nat :=
  let lens := [31, if y % 4 = 0 then 29 else 28, 31, 30, 31, 30, 31, 31, 30, 31, 30, 31]
  10957 + 365 * y + (y + 3) / 4 + (lens.take (m - 1)).sum

/-- Days of a month of 2000 + y. -/
def daysIn (y m : Nat) : Nat := ([31, if y % 4 = 0 then 29 else 28, 31, 30, 31, 30, 31, 31, 30, 31, 30, 31]).getD (m - 1) 0

/-- A 7-byte CP56Time2a as nanoseconds since 1970: none with IV = 1 or a field out of range. -/
def cp56 (v : Nat) : Option Nat :=
  let ms := nbits v 15 0
  let mi := nbits v 21 16
  let hr := nbits v 28 24
  let dd := nbits v 36 32
  let mo := nbits v 43 40
  let yr := nbits v 54 48
  if v.testBit 23 ∨ 60000 ≤ ms ∨ 60 ≤ mi ∨ 24 ≤ hr ∨ mo < 1 ∨ 12 < mo ∨ 100 ≤ yr ∨ dd < 1 ∨ daysIn yr mo < dd then none
  else some ((((daysTo yr mo + dd - 1) * 86400 + hr * 3600 + mi * 60) * 1000 + ms) * 1000000)

/-- The time of a record and its TINFO. -/
def recordTime (tsrc : Nat) (f7 arrival : Word) : Word × Nat :=
  match tsrc with
  | 0 => (arrival, 0)
  | 1 => (f7 * 1000000, 1)
  | 2 => match cp56 f7.toNat with
    | some t => (BitVec.ofNat 64 t, 2)
    | none => (arrival, 4)
  | _ => (f7, 3)

-- the parse machine

/-- What an action list works on: the context, whether END ran and the records it released, the state of the last IF taken, and the
counters armed on this byte. -/
structure PRun where
  c : ParseCtx
  ended : Bool
  released : List Rec
  goto : Option Nat
  armed : List Nat

def PRun.f (r : PRun) (n : Nat) : MField := r.c.f.getD n MField.zero
def PRun.setF (r : PRun) (n : Nat) (x : MField) : PRun := { r with c := { r.c with f := r.c.f.set n x } }
def PRun.setL (r : PRun) (n : Nat) (x : Nat × Option Nat) : PRun := { r with c := { r.c with len := r.c.len.set n x } }
def PRun.lenOf (r : PRun) (n : Nat) : Nat × Option Nat := r.c.len.getD n (0, none)
def PRun.setU (r : PRun) (n : Nat) (x : CrcUnit) : PRun := { r with c := { r.c with crc := r.c.crc.set n x } }
def PRun.unit (r : PRun) (n : Nat) : CrcUnit := r.c.crc.getD n CrcUnit.idle

/-- Adds a pending record; the 257th is reason 5. -/
def PRun.addRec (r : PRun) (x : Rec) : Except Nat PRun :=
  if 256 ≤ r.c.recs.length then .error 5 else .ok { r with c := { r.c with recs := r.c.recs ++ [x] } }

/-- EMIT (R270, R271). -/
def PRun.emit (r : PRun) (w : Nat) : Except Nat PRun :=
  match emitValue (nbits w 25 22) (r.f (nbits w 21 19)) with
  | none => .error 2
  | some (vt, v) =>
    let t := recordTime (nbits w 12 11) (r.f 7).value r.c.arrival
    r.addRec { time := t.1, value := BitVec.ofNat 128 v
               point := BitVec.ofNat 32 ((r.c.pointBase + (r.f (nbits w 18 16)).value.toNat + nbits w 10 0) % 2 ^ 24)
               vtype := BitVec.ofNat 8 vt, qual := (r.f (nbits w 15 13)).value.setWidth 8, kind := 0
               tinfo := BitVec.ofNat 8 t.2 }

/-- NOTE (R272). -/
def PRun.note (r : PRun) (code : Nat) : Except Nat PRun :=
  r.addRec { time := r.c.arrival, value := (r.f 1).value ++ (r.f 0).value, point := BitVec.ofNat 32 code
             vtype := 0, qual := 0, kind := 2, tinfo := 0 }

/-- END: the pending records are released and VST values applied at once. -/
def PRun.finish (r : PRun) : PRun :=
  { r with ended := true, released := r.released ++ r.c.recs
           c := { r.c with recs := [], vst := [], v := r.c.vst.foldl (fun v x => v.set x.1 x.2) r.c.v } }

/-- SETK's value, and other register operations that parse and build share; none for another OP (Table 13.3). -/
def fieldOp (w : Nat) (f : Nat → MField) (v : Nat → BitVec 32) : Option (Nat × MField) :=
  let n := nbits w 25 23
  match actOp w with
  | 0x04 => some (n, ⟨BitVec.ofInt 64 (actSigned w 23), 0, 0, false, false⟩)
  | 0x05 => some (n, { f n with value := (f n).value + BitVec.ofInt 64 (actSigned w 23) })
  | 0x06 => some (n, f (nbits w 22 20))
  | 0x07 => some (n, { f n with exp := actSigned w 5 })
  | 0x08 => some (n, { f n with value := (v (nbits w 2 0)).setWidth 64, count := 4 })
  | _ => none

/-- An operation whose result is a field register, or reason 2. -/
def orField (r : PRun) (n : Nat) (x : Option MField) : Except Nat PRun :=
  match x with
  | some y => .ok (r.setF n y)
  | none => .error 2

/-- One action word of a parse list (Table 13.3); the flag says whether the rest of the list is skipped. -/
def parseAct (t : MTab) (b : Byte) (w : Nat) (r : PRun) : Except Nat (PRun × Bool) :=
  let n := nbits w 25 23
  let c := nbits w 25 24
  let u := nbits w 25 25
  let go (x : PRun) : Except Nat (PRun × Bool) := .ok (x, false)
  match fieldOp w r.f (fun i => r.c.v.getD i 0) with
  | some (d, x) => go (r.setF d x)
  | none =>
    match actOp w with
    | 0x01 => (orField r n ((r.f n).acc (w.testBit 22) b)).map (·, false)
    | 0x02 => (orField r n ((r.f n).accv b)).map (·, false)
    | 0x03 => (orField r n ((r.f n).accd b)).map (·, false)
    | 0x09 => go { r with c := { r.c with vst := r.c.vst ++ [(nbits w 2 0, (r.f n).value.setWidth 32)] } }
    | 0x0A => if (r.f n).value = 0 then .ok ({ r with goto := some (nbits w 11 0) }, true) else go r
    | 0x0B => if (r.f n).value = (r.f (nbits w 22 20)).value then .ok ({ r with goto := some (nbits w 11 0) }, true) else go r
    | 0x0C =>
      let v := ((r.f (nbits w 23 21)).value.toNat : Int) + actSigned w 16
      if v < 0 ∨ 65535 < v then .error 3 else go (r.setL c (v.toNat, (r.lenOf c).2))
    | 0x0D => go (r.setL c (nbits w 15 0, (r.lenOf c).2))
    | 0x0E => go { r.setL c ((r.lenOf c).1, some (nbits w 11 0)) with armed := c :: r.armed }
    | 0x0F => go (r.setL c ((r.lenOf c).1, none))
    | 0x10 => go (r.setU u ((CrcUnit.restart (t.crc (nbits w 2 0))).cover b))
    | 0x11 => go (r.setU u (r.unit u).off)
    | 0x12 => go (r.setU u (r.unit u).stop)
    | 0x13 => (r.emit w).map (·, false)
    | 0x14 => (r.note (nbits w 7 0)).map (·, false)
    | 0x15 => .error (nbits w 7 0)
    | 0x16 => go r.finish
    | _ => go r

/-- Runs the list at i: at most 8 words. An error comes with what the words before it left. -/
def parseList (t : MTab) (b : Byte) : Nat → Nat → PRun → Except (Nat × PRun) PRun
  | 0, _, r => .ok r
  | f + 1, i, r =>
    match parseAct t b (t.act i) r with
    | .error e => .error (e, r)
    | .ok (r, skip) => if skip || actLast (t.act i) then .ok r else parseList t b f (i + 1) r

/-- Decrements the counters armed before the byte; the ones that reach 0, with their lists. -/
def countDown (before : List Nat) (r : PRun) : PRun × List Nat :=
  before.foldl (fun (a : PRun × List Nat) c =>
    match a.1.lenOf c with
    | (n, some l) =>
      if a.1.armed.contains c ∨ n = 0 then a
      else if n = 1 then (a.1.setL c (0, none), a.2 ++ [l])
      else (a.1.setL c (n - 1, some l), a.2)
    | _ => a) (r, [])

/-- A malformed byte: the reason, the bytes that L0 still leaves of the message after it, and what an END before the error on the
same byte had released and stored. -/
structure Malf where
  reason : Nat
  left : Option Nat
  released : List Rec
  v : Option (List (BitVec 32))

/-- A malformed byte on which no END ran. -/
def Malf.of (reason : Nat) (left : Option Nat) : Malf := ⟨reason, left, [], none⟩

/-- L0's rest where it is armed; `d` = 1 where the byte at hand has still to be counted. -/
def l0Left (c : ParseCtx) (d : Nat) : Option Nat :=
  match c.len.getD 0 (0, none) with
  | (n, some _) => some (n - d)
  | _ => none

/-- The malformed byte that a run of its lists came to. -/
def PRun.malf (r : PRun) (reason d : Nat) : Malf := ⟨reason, l0Left r.c d, r.released, if r.ended then some r.c.v else none⟩

/-- Steps 1 to 6 of R266 for one byte: what its lists left. A check is judged at its last byte, and a unit covers the byte whose
actions start, end or stop it (log entry 39). -/
def parseByte (t : MTab) (b : Byte) (c : ParseCtx) : Except Malf PRun :=
  match dueUnit c.crc with
  | some u =>
    let x := (c.crc.getD u CrcUnit.idle).check b
    if x.1 then .error (.of 4 (l0Left c 0)) else .ok ⟨{ c with crc := c.crc.set u x.2 }, false, [], none, []⟩
  | none =>
    let before := (List.range 4).filter fun i => (c.len.getD i (0, none)).2.isSome
    let w := t.trans c.state (t.cls c.state b.toNat)
    let r : PRun := ⟨{ c with crc := c.crc.map (CrcUnit.cover b) }, false, [], none, []⟩
    let step3 := if nbits w 19 8 = 0 then .ok r else parseList t b 8 (nbits w 19 8) r
    match step3 with
    | .error (e, r) => .error (r.malf e (if r.armed.contains 0 then 0 else 1))
    | .ok r =>
      let d := countDown before r
      match d.2.foldlM (fun r l => parseList t b 8 l r) d.1 with
      | .error (e, r) => .error (r.malf e 0)
      | .ok r =>
        if r.ended then .ok { r with c := { r.c with state := t.start } }
        else
          let next := r.goto.getD (nbits w 31 20)
          if next = 0 then .error (r.malf 1 0) else .ok { r with c := { r.c with state := next } }

/-- Image offsets of the words of the list at i. -/
def MTab.listAt (t : MTab) (i : Nat) : List Nat :=
  match listWords t t.limit i with
  | .ok ks => ks.map fun k => t.acts + 4 * k
  | .error _ => []

/-- Image offsets that the engine reads for a byte: state map, class map, transition word, its list and the lists of the counters
that the byte brings to 0. -/
def byteReads (t : MTab) (b : Byte) (c : ParseCtx) : List Nat :=
  let cls := t.cls c.state b.toNat
  let act := nbits (t.trans c.state cls) 19 8
  [t.smap + c.state, t.maps + 256 * fieldLE t.img (t.smap + c.state) 1 + b.toNat, t.states + 64 * c.state + 4 * cls] ++
    (if act = 0 then [] else t.listAt act) ++
    (c.len.map fun x => match x with | (1, some l) => t.listAt l | _ => []).flatten

/-- What a parse job works on: the machine, the context, jobs released to Scaler, malformed and NO_TABLE counts, and whether the rest
of the record is skipped. -/
structure PAcc where
  s : State
  c : ParseCtx
  out : List (Word × List Rec)
  malformed : Nat
  noTable : Nat
  skipAll : Bool

/-- The binding as a message takes it: the parse slot where it may be used, its START, and what else the record says. -/
structure Bind where
  slot : Option (Nat × Nat)
  pointBase : Nat
  noteMalf : Bool

/-- The binding that a read gave. -/
def bindOf (s : State) (h : HalfId) (b : Option (List Byte)) : Bind :=
  match b with
  | none => ⟨none, 0, false⟩
  | some b =>
    let p := fieldLE b 0 2
    ⟨if p.testBit 15 then (usable s h (p % 256) 1).map fun t => (p % 256, t.start) else none,
      fieldLE b 4 4 % 2 ^ 24, (fieldLE b 12 4).testBit 0⟩

/-- Records released by a message as a job, where there are any. -/
def PAcc.release (a : PAcc) (rs : List Rec) : PAcc := if rs.isEmpty then a else { a with out := a.out ++ [(a.c.arrival, rs)] }

/-- R272 for a message: pending records and VST values go, F, the CRC units and the counters are cleared; the rest of the
message is skipped. -/
def malformed (a : PAcc) (m : Malf) : PAcc :=
  let a := a.release m.released
  let c := a.c
  let rec_ : Rec := { time := c.arrival, value := BitVec.ofNat 128 (c.offset % 2 ^ 32 + c.state * 2 ^ 32)
                      point := BitVec.ofNat 32 m.reason, vtype := 0, qual := 0, kind := 3, tinfo := 0 }
  { a with
    c := { c with state := 0, f := List.replicate 8 MField.zero, len := List.replicate 4 (0, none), crc := List.replicate 2 CrcUnit.idle
                  v := m.v.getD c.v, vst := [], recs := [], slot := none, offset := 0, skip := m.left.getD 0, parked := false }
    out := if c.noteMalf then a.out ++ [(c.arrival, [rec_])] else a.out
    malformed := a.malformed + 1, noTable := a.noTable + (if m.reason = 9 then 1 else 0), skipAll := m.left.isNone }

/-- A message of session n starts (R264): its binding is read and takes effect, the arrival time is that of its first byte. -/
def startMessage (h : HalfId) (n : Nat) (arrival : Word) (a : PAcc) : PAcc :=
  let r := readBinding a.s h n
  let bd := bindOf r.2 h r.1
  let c := { a.c with noteMalf := bd.noteMalf, pointBase := bd.pointBase, arrival, offset := 0 }
  match bd.slot with
  | some (k, start) => { a with s := r.2, c := { c with slot := some k, state := start } }
  | none => malformed { a with s := r.2, c } (.of 9 (l0Left c 1))

/-- A byte of a check that fell due at the end of a message: no message starts with it (R266, log entry 90). -/
def checkBetween (u : Nat) (b : Byte) (a : PAcc) : PAcc :=
  let x := (a.c.crc.getD u CrcUnit.idle).check b
  if x.1 then malformed a (.of 4 (l0Left a.c 0)) else { a with c := { a.c with crc := a.c.crc.set u x.2 } }

/-- A byte of a message in progress, under the table in its slot: an uncorrectable read of the store is reason 9 (Table 13.6). -/
def messageByte (h : HalfId) (x : MTable) (b : Byte) (a : PAcc) : PAcc :=
  let t := tabOf x.image
  let r := if (dueUnit a.c.crc).isSome then (false, a.s) else tableRead a.s h x (byteReads t b a.c)
  let a := { a with s := r.2 }
  if r.1 then malformed a (.of 9 (l0Left a.c 1))
  else match parseByte t b a.c with
  | .error m => malformed a m
  | .ok r =>
    let a := { a with c := { r.c with offset := r.c.offset + 1 } }
    if r.ended then
      let a := a.release (r.released ++ r.c.recs)
      { a with c := { a.c with recs := [], slot := none, offset := 0 } }
    else a

/-- A byte of a message, in progress or about to start: with no table in its slot, reason 9 (Table 13.6). -/
def nextByte (h : HalfId) (n : Nat) (b : Byte) (arrival : Word) (a : PAcc) : PAcc :=
  let a' := if a.c.slot.isNone then startMessage h n arrival a else a
  match a'.c.slot with
  | none => a'
  | some k =>
    match millTable a'.s h k with
    | none => malformed a' (.of 9 (l0Left a'.c 1))
    | some x => messageByte h x b a'

/-- The bytes of a session's record in turn. -/
def parseBytes (h : HalfId) (n : Nat) : List (Byte × Word) → PAcc → PAcc
  | [], a => a
  | (b, arrival) :: bs, a =>
    if a.skipAll then a
    else if 0 < a.c.skip then parseBytes h n bs { a with c := { a.c with skip := a.c.skip - 1 } }
    else match (if a.c.slot.isNone then dueUnit a.c.crc else none) with
    | some u => parseBytes h n bs (checkBetween u b a)
    | none => parseBytes h n bs (nextByte h n b arrival a)

-- jobs

/-- The context of a session: a number that nothing has opened has none, and starts from a reset one without a binding. -/
def readyCtx (c : ParseCtx) : ParseCtx := if c.ready then c else freshCtx none 0

/-- The 32 bytes of a record (Table 13.5). -/
def Rec.bytes (r : Rec) : List Byte :=
  leBytes 8 r.time.toNat ++ leBytes 16 r.value.toNat ++ leBytes 4 r.point.toNat ++ [r.vtype, r.qual, r.kind, r.tinfo]

/-- The record that 32 bytes hold. -/
def Rec.ofBytes (b : List Byte) : Rec :=
  { time := BitVec.ofNat 64 (fieldLE b 0 8), value := BitVec.ofNat 128 (fieldLE b 8 16), point := BitVec.ofNat 32 (fieldLE b 0x18 4)
    vtype := BitVec.ofNat 8 (fieldLE b 0x1C 1), qual := BitVec.ofNat 8 (fieldLE b 0x1D 1)
    kind := BitVec.ofNat 8 (fieldLE b 0x1E 1), tinfo := BitVec.ofNat 8 (fieldLE b 0x1F 1) }

/-- Address of a session's spill area (R265). -/
def spillAddr (s : State) (h : HalfId) (n : Nat) : Nat := s.fld h Reg.MIL_PBASE_BASE * 0x20000000 + 8192 * n

/-- Resumes a parked message: its pending records come back from the spill area, or reason 8. -/
def resume (h : HalfId) (n : Nat) (a : PAcc) : PAcc :=
  if !a.c.parked then a
  else if a.c.recs.isEmpty then { a with c := { a.c with parked := false } }
  else
    let r := unitRead a.s h mMill (spillAddr a.s h n) (32 * a.c.recs.length)
    let a := { a with s := r.2 }
    if r.1.refused || r.1.poison then malformed a (.of 8 (l0Left a.c 0))
    else
      { a with c := { a.c with parked := false
                               recs := (List.range a.c.recs.length).map fun i => Rec.ofBytes (sliceB r.1.bytes (32 * i) 32) } }

/-- Parks a message that its record leaves unfinished, or for UDP gives it up with reason 7 (R265, Table 13.6). -/
def park (h : HalfId) (n : Nat) (a : PAcc) : PAcc :=
  let udp := isDtls a.s h n
  if a.c.slot.isNone then { a with c := { a.c with skip := if udp then 0 else a.c.skip } }
  else if udp then
    let x := malformed a (.of 7 none)
    { x with c := { x.c with skip := 0 } }
  else
    let w := unitWriteTell a.s h mMill (spillAddr a.s h n) (a.c.recs.map Rec.bytes).flatten
    if w.1 then malformed { a with s := w.2 } (.of 8 (l0Left a.c 0))
    else { a with s := w.2.incFld h Reg.MIL_CNT1_SPILLS, c := { a.c with parked := true } }

/-- Receive timestamps of a job's first and last bytes. -/
def ParseJob.first (j : ParseJob) : Nat := (j.data.head?.map fun x => x.2.toNat).getD 0
def ParseJob.last (j : ParseJob) : Nat := (j.data.getLast?.map fun x => x.2.toNat).getD 0

/-- One parse job: a Kiln record of a session (R266). -/
def parseJob (s : State) (h : HalfId) (j : ParseJob) : State :=
  let n := j.session
  let s := readStore s h n
  let c := readyCtx (parseCtx s h n)
  let a : PAcc := ⟨s, c, [], 0, 0, false⟩
  let stale := c.slot.isSome && decide (s.fld h Reg.MIL_CTRL_PART_MS * 1000000 < j.first - c.lastByte)
  let a := if stale then { malformed a (.of 6 none) with skipAll := false } else a
  let a := resume h n a
  let a := park h n (parseBytes h n j.data { a with c := { a.c with lastByte := if j.data.isEmpty then a.c.lastByte else j.last } })
  let s := setParseCtx a.s h n a.c
  let s := (s.addFld h Reg.MIL_CNT0_MALFORMED a.malformed).addFld h Reg.MIL_CNT0_NO_TABLE a.noTable
  let s := updScl s h fun x => { x with jobs := x.jobs ++ a.out.map fun rs => ⟨n, rs.2, rs.1, j.path⟩ }
  freeRetired (updMil s h fun m => { m with jobs := m.jobs.erase (.parse j) }) h

/-- The first job of a session that waits in Mill: a session's jobs run in the order they reached it (R263). -/
def millNext (s : State) (h : HalfId) (n : Nat) : Option MillJob := (s.half h).mil.jobs.find? (·.session == n)

/-- MILL_PARSE_JOB: the session's next job, where it is a parse, while Mill is enabled and, behind it, Scaler accepts work (R220,
R440). -/
def execMillParseJob (h : HalfId) (session : BitVec 16) (s : State) : Host.Outcome State Fault Refusal :=
  match millNext s h session.toNat with
  | some (.parse j) =>
    .next (if s.flag h Reg.MIL_CTRL_EN && scalerAccepts s h && !outHeld s h session.toNat then unitCmd h (fun s => parseJob s h j) s else s)
  | some (.build _) | none => .next s

-- frame builds (R273)

/-- A CRC unit of a build: its descriptor and the output positions covered since its start, the latest first. -/
abbrev BCrc := Option (Nat × List Nat)

/-- What a build works on: fields, CRC units, marks (the places of the reserved bytes), VST values, output, and the
CRCs to fill in: position, descriptor and the positions they cover. -/
structure BRun where
  f : List MField
  crc : List BCrc
  marks : List (Option (List Nat))
  vst : List (Nat × BitVec 32)
  out : List Byte
  fills : List (Nat × Nat × List Nat)

/-- Makes room for the CRC of a unit and restarts it; the check bytes are covered by no unit (R269). -/
def BRun.place (t : MTab) (u : Nat) (r : BRun) : BRun :=
  match r.crc.getD u none with
  | none => r
  | some (d, ps) =>
    { r with out := r.out ++ zerosB ((t.crc d).width / 8), crc := r.crc.set u (some (d, []))
             fills := r.fills ++ [(r.out.length, d, ps.reverse)] }

/-- In block mode a block that is full gets its CRC. -/
def BRun.block (t : MTab) (u : Nat) (r : BRun) : BRun :=
  match r.crc.getD u none with
  | some (d, ps) => if (t.crc d).block ≠ 0 ∧ ps.length = (t.crc d).block then r.place t u else r
  | none => r

/-- Writes one byte: the units cover it, and block CRCs that fall due are placed. -/
def BRun.put (t : MTab) (r : BRun) (b : Byte) : BRun :=
  let n := r.out.length
  BRun.block t 1 (BRun.block t 0 { r with out := r.out ++ [b], crc := r.crc.map (Option.map fun x => (x.1, n :: x.2)) })

def BRun.puts (t : MTab) (r : BRun) (bs : List Byte) : BRun := bs.foldl (BRun.put t) r

/-- LENMARK: reserves k bytes as mark m, each where it comes to stand; a CRC that falls due among or behind them stands outside. -/
def BRun.reserve (t : MTab) (m k : Nat) (r : BRun) : BRun :=
  let x := (List.range k).foldl (fun (a : BRun × List Nat) _ => (a.1.put t 0, a.2 ++ [a.1.out.length])) (r, [])
  { x.1 with marks := x.1.marks.set m (some x.2) }

/-- CRCOFF: in block mode the CRC of a partial block is written; the unit stops. -/
def BRun.crcOff (t : MTab) (u : Nat) (r : BRun) : BRun :=
  let r := match r.crc.getD u none with
    | some (d, ps) => if (t.crc d).block ≠ 0 ∧ ps ≠ [] then r.place t u else r
    | none => r
  { r with crc := r.crc.set u none }

/-- The output with its CRCs filled in, each over the bytes as they are sent (log entry 90). -/
def BRun.final (t : MTab) (r : BRun) : List Byte :=
  r.fills.foldl (fun out x =>
    let d := t.crc x.2.1
    patchB out x.1 (crcBytes d (x.2.2.foldl (fun c i => crcByte d c (r.out.getD i 0).toNat) (d.init % 2 ^ d.width)))) r.out

/-- The low w bytes of a value in an order. -/
def orderBytes (le : Bool) (w v : Nat) : List Byte := if le then leBytes w v else beBytes w v

/-- One action word of a build list, or the detail of its failure. -/
def buildAct (t : MTab) (params : List Byte) (v : Nat → BitVec 32) (w : Nat) (r : BRun) : Except Nat BRun :=
  let n := nbits w 25 23
  let u := nbits w 25 25
  let m := nbits w 25 24
  let f (i : Nat) : MField := r.f.getD i MField.zero
  match fieldOp w f v with
  | some (d, x) => .ok { r with f := r.f.set d x }
  | none =>
    match actOp w with
    | 0x09 => .ok { r with vst := r.vst ++ [(nbits w 2 0, (f n).value.setWidth 32)] }
    | 0x10 => .ok { r with crc := r.crc.set u (some (nbits w 2 0, [])) }
    | 0x11 => .ok (r.crcOff t u)
    | 0x12 => .ok (r.place t u)
    | 0x15 => .error 0x43
    | 0x17 => .ok (r.put t (BitVec.ofNat 8 (nbits w 7 0)))
    | 0x18 => .ok (r.puts t (orderBytes (w.testBit 22) (nbits w 3 0) (f n).value.toNat))
    | 0x19 =>
      let k := nbits w 21 18
      let off := nbits w 11 0
      if params.length < off + k then .error 0x41
      else
        let x := if w.testBit 22 then fieldLE params off k else fieldBE params off k
        .ok { r with f := r.f.set n ⟨BitVec.ofNat 64 x, k, 0, false, false⟩ }
    | 0x1A =>
      let k := (f n).value.toNat
      let off := nbits w 11 0
      if k ≠ 0 ∧ params.length < off + k then .error 0x41 else .ok (r.puts t (sliceB params off k))
    | 0x1B =>
      .ok (r.reserve t m (nbits w 3 0))
    | 0x1C =>
      match r.marks.getD m none with
      | none => .error 0x41
      | some ps =>
        let x := ((r.out.length - (ps.getLast?.map (· + 1)).getD 0 : Nat) : Int) + actSigned w 16
        if x < 0 ∨ (2 ^ (8 * ps.length) : Int) ≤ x then .error 0x41
        else .ok { r with out := ((ps.zip (orderBytes (w.testBit 22) ps.length x.toNat)).foldl (fun o p => o.set p.1 p.2) r.out) }
    | _ => .ok r

/-- Runs the build list at i. -/
def buildList (t : MTab) (params : List Byte) (v : Nat → BitVec 32) : Nat → Nat → BRun → Except Nat BRun
  | 0, _, r => .ok r
  | k + 1, i, r =>
    match buildAct t params v (t.act i) r with
    | .error e => .error e
    | .ok r =>
      if 16384 < r.out.length then .error 0x42
      else if actLast (t.act i) then .ok r
      else buildList t params v k (i + 1) r

/-- The format table that a build's binding names, where it may be used. -/
def buildTable (s : State) (h : HalfId) (b : Option (List Byte)) : Option MTable :=
  let slot := (b.map fun x => fieldLE x 2 2).getD 0
  if slot.testBit 15 && (usable s h (slot % 256) 2).isSome then millTable s h (slot % 256) else none

/-- A build: the plaintext and the session variables it sets, or the detail of its failure; an uncorrectable read of the store
counts as a format that is not there (log entry 117). -/
def buildFrame (s : State) (h : HalfId) (b : Option (List Byte)) (c : ParseCtx) (j : SendJob) :
    Except Nat (List Byte × List (BitVec 32)) × State :=
  match buildTable s h b with
  | none => (.error 0x40, s)
  | some x =>
    let t := tabOf x.image
    if t.nentry ≤ j.format then (.error 0x40, s)
    else
      let first := fieldLE t.img (t.entries + 2 * j.format) 2
      let q := tableRead s h x ((t.entries + 2 * j.format) :: t.listAt first)
      if q.1 then (.error 0x40, q.2)
      else
        let r : BRun := ⟨List.replicate 8 MField.zero, List.replicate 2 none, List.replicate 4 none, [], [], []⟩
        match buildList t j.data (fun i => c.v.getD i 0) 4096 first r with
        | .error e => (.error e, q.2)
        | .ok r => (.ok (r.final t, r.vst.foldl (fun v x => v.set x.1 x.2) c.v), q.2)

/-- A frame request leaves Mill. -/
def dropBuild (s : State) (h : HalfId) (j : SendJob) : State := updMil s h fun m => { m with jobs := m.jobs.erase (.build j) }

/-- One build job (R273) of a session in the store: its frame goes to Kiln, or its request ends with the detail of the failure. -/
def buildJob (h : HalfId) (j : SendJob) (s : State) : State :=
  let n := j.session
  let b := readBinding s h n
  let c := readyCtx (parseCtx b.2 h n)
  match buildFrame b.2 h b.1 c j with
  | (.error e, s) => endRequest (dropBuild (s.incFld h Reg.MIL_CNT1_BUILD_FAIL) h j) h j.src (statusOf 1 e)
  | (.ok (out, v), s) =>
    updKln (dropBuild (setParseCtx s h n { c with v }) h j) h fun k => { k with txq := k.txq ++ [{ j with data := out }] }

/-- The first frame request of a session that waits in Mill. -/
def firstBuild (s : State) (h : HalfId) (n : Nat) : Option SendJob :=
  (s.half h).mil.jobs.findSome? fun j => match j with | .build j => if j.session = n then some j else none | .parse _ => none

/-- FRAME_BUILD: the session's next job, where it is a frame request (R263, R273), handed to Kiln where its build succeeds; a cold
session's state comes in first (R232). A unit that is disabled ends it with UNIT_DISABLED (R440), zeroisation with TAMPER_ABORT
(R260), a session that is not open with BAD_TARGET. What ends it does so behind a parse that is held, too. -/
def execFrameBuild (h : HalfId) (session : BitVec 16) (s : State) : Host.Outcome State Fault Refusal :=
  let n := session.toNat
  match firstBuild s h n with
  | none => .next s
  | some j =>
    let finish (s : State) (st : Nat) : State := endRequest (dropBuild s h j) h j.src st
    if s.flag h Reg.KLN_STAT_ZEROED then .next (finish s (secWord 0x0D))
    else if !s.flag h Reg.MIL_CTRL_EN ∨ !s.flag h Reg.KLN_CTRL_EN ∨ !s.flag h Reg.FLM_CTRL_EN then .next (finish s (statusOf 8 0x03))
    else if (Machine.session s h n).state ≠ .opened then .next (finish s (statusOf 1 0x04))
    else if silenced s h n ∨ millNext s h n ≠ some (.build j) then .next s
    else .next (unitCmd h (fun s => (withHot s h n (buildJob h j)).getD s) s)

-- the table store (R275, R276)

/-- The pages of the store that no table holds, in rising order; a LOAD takes the first of them (log entry 117). -/
def freePageList (s : State) (h : HalfId) : List Nat :=
  let used := ((s.half h).mil.tables.filterMap (·.2)).flatMap (·.pages)
  (List.range 1024).filter fun p => !used.contains p

/-- Pages that a LOAD writes in full hold no error any more (Table 8.2). -/
def wipePages (s : State) (h : HalfId) (ps : List Nat) : State :=
  s.upd h fun x => { x with sram := x.sram.filter fun e => !(e.1 / 2 ^ 40 == 3 && ps.contains (e.1 % 2 ^ 40 / 256)) }

/-- LOAD: the reason and offset of its refusal, if any, and the state (R275). -/
def millLoad (s : State) (h : HalfId) (n addr : Nat) : LoadErr × State :=
  if (millTable s h n).isSome then ((9, 0), s) else
  let r := unitRead s h mMill addr 64
  if r.1.refused || r.1.poison then ((11, 0), r.2) else
  let t := tabOf r.1.bytes
  match checkHeader t with
  | some e => (e, r.2)
  | none =>
    let q := unitRead r.2 h mMill addr t.size
    if q.1.refused || q.1.poison then ((11, 0), q.2)
    else match checkImage (tabOf q.1.bytes) with
    | some e => (e, q.2)
    | none =>
      let need := (q.1.bytes.length + 4095) / 4096
      if freePages q.2 h < need then ((10, 0), q.2)
      else
        let x : MTable := ⟨q.1.bytes, (freePageList q.2 h).take need, false⟩
        ((0, 0), setMillTable (wipePages q.2 h x.pages) h n (some x))

/-- UNLOAD (R276). -/
def millUnload (s : State) (h : HalfId) (n : Nat) : State :=
  match millTable s h n with
  | some t => freeRetired (setMillTable s h n (some { t with retiring := true })) h
  | none => s

/-- Runs the MIL_TCMD command that a word spells, whatever EN holds; BUSY stays 1 while its read is held (R191). -/
def millCommand (s : State) (h : HalfId) (w : Word) : State :=
  let s := s.setReg h 9 0x18 w
  let n := nbits w.toNat 61 54
  let run (s : State) : State :=
    if nbits w.toNat 63 62 = 1 then
      let r := millLoad s h n (nbits w.toNat 45 6 * 64)
      r.2.setReg h 9 0x20 (BitVec.ofNat 64 (r.1.1 * 2 ^ 32 + r.1.2))
    else (millUnload s h n).setReg h 9 0x20 0
  let t := unitCmd h run s
  if (t.half h).bnd.holds = (s.half h).bnd.holds then t else t.setFld h Reg.MIL_TRES_BUSY 1

end Sys2Proof.Machine
end

