-- ==== Sys2Proof/Machine/Scaler.lean ====
section
/-! DEFINITION. Scaler (chapter 14): stream records and slots (R281–R283), curves (R285–R287), formula programs (R288,
R289), quantization (R290, R291), compression (R292–R294), periods and aggregates (R296–R300) and output (R301, R302). -/

namespace Sys2Proof.Machine

def mScaler : Nat := 0x49

-- exact rationals

/-- A rational number n/d with d above 0. -/
structure Rat' where
  n : Int
  d : Nat

def Rat'.add (a b : Rat') : Rat' := ⟨a.n * b.d + b.n * a.d, a.d * b.d⟩
def Rat'.neg (a : Rat') : Rat' := ⟨-a.n, a.d⟩
def Rat'.sub (a b : Rat') : Rat' := a.add b.neg
def Rat'.mul (a b : Rat') : Rat' := ⟨a.n * b.n, a.d * b.d⟩
def Rat'.div (a b : Rat') : Rat' := ⟨a.n * b.d * b.n.sign, a.d * b.n.natAbs⟩
def Rat'.lt (a b : Rat') : Bool := a.n * b.d < b.n * a.d
def Rat'.le (a b : Rat') : Bool := a.n * b.d ≤ b.n * a.d
def Rat'.ofInt (i : Int) : Rat' := ⟨i, 1⟩

/-- c × 10^e. -/
def Rat'.dec (c e : Int) : Rat' := if 0 ≤ e then ⟨c * 10 ^ e.toNat, 1⟩ else ⟨c, 10 ^ (-e).toNat⟩

/-- A rational in units of 10^e, rounded once under a mode; `true` where that is inexact (R290, R299). -/
def Rat'.units (rm : Nat) (e : Int) (a : Rat') : Int × Bool :=
  let x := a.mul (Rat'.dec 1 (-e))
  let q := x.n.natAbs / x.d
  let r := x.n.natAbs % x.d
  let q := if roundsUp rm (decide (x.n < 0)) q r x.d then q + 1 else q
  ((if x.n < 0 then -(q : Int) else q), r != 0)

-- the stream record (Table 14.1)

/-- Writes an n-byte little-endian field of a record. -/
def putF (r : List Byte) (off n v : Nat) : List Byte := patchB r off (leBytes n v)

/-- A signed 64-bit field. -/
def fieldS (r : List Byte) (off : Nat) : Int := signedOf 64 (fieldLE r off 8)
def putS (r : List Byte) (off : Nat) (v : Int) : List Byte := putF r off 8 (unsignedOf 64 v)

def spV (r : List Byte) : Bool := (fieldLE r 0x02 1).testBit 7
def spRaw (r : List Byte) : Bool := (fieldLE r 0x02 1).testBit 6
def spEmptyOut (r : List Byte) : Bool := (fieldLE r 0x02 1).testBit 5
def spSession (r : List Byte) : Nat := fieldLE r 0 2
def spCmp (r : List Byte) : Nat := fieldLE r 0x03 1
def spRm (r : List Byte) : Nat := fieldLE r 0x04 1 % 8
def spOutExp (r : List Byte) : Int := signedOf 8 (fieldLE r 0x05 1)
def spAggExp (r : List Byte) : Int := signedOf 8 (fieldLE r 0x06 1)
def spPer (r : List Byte) : Bool := (fieldLE r 0x07 1).testBit 7
def spClass (r : List Byte) : Nat := fieldLE r 0x07 1 % 16
def spSlot (r : List Byte) (off : Nat) : Option Nat :=
  if (fieldLE r off 4).testBit 31 then some (fieldLE r off 4 % 65536) else none
def spCurve (r : List Byte) : Option Nat := spSlot r 0x08
def spFormula (r : List Byte) : Option Nat := spSlot r 0x0C
def spE (r : List Byte) : Nat := fieldLE r 0x10 8
def spTq (r : List Byte) : Nat := if fieldLE r 0x18 4 = 0 then 1 else fieldLE r 0x18 4 * 1000
def spGap (r : List Byte) : Nat := fieldLE r 0x1C 4
def spAggMask (r : List Byte) : Nat := fieldLE r 0x20 2
def spKeptQ (r : List Byte) : Nat := fieldLE r 0x24 1

/-- Bits of STATE. -/
def sLIV : Nat := 0
def sLOV : Nat := 1
def sBV : Nat := 2
def sKEPT : Nat := 3
def sPEND : Nat := 4
def spBit (r : List Byte) (i : Nat) : Bool := (fieldLE r 0x23 1).testBit i
def putBit (r : List Byte) (i : Nat) (b : Bool) : List Byte :=
  let x := fieldLE r 0x23 1
  putF r 0x23 1 (if b then x ||| 2 ^ i else if x.testBit i then x - 2 ^ i else x)

-- the stores (R281)

/-- Address of a point's stream record. -/
def pointAddr (s : State) (h : HalfId) (p : Nat) : Nat := s.fld h Reg.SCL_PBASE_BASE * 0x100000000 + 256 * p

/-- Where Scaler's store holds a record, and a slot (log entry 98). -/
def pointPlace (p : Nat) : Nat := 256 * p
def slotPlace (key : Nat) : Nat := 0x100000000 + 2048 * key

/-- Marks a record of the store as the one used last. -/
def usePoint (s : State) (h : HalfId) (p : Nat) (r : List Byte) : State :=
  updScl s h fun x => { x with points := x.points.filter (·.1 != p) ++ [(p, r)] }

/-- Writes a record into the store, as the one used last. -/
def putPoint (s : State) (h : HalfId) (p : Nat) (r : List Byte) : State :=
  writeUnit (usePoint s h p r) h mScaler 4 (pointPlace p) 256

/-- A read of Scaler's store: whether it comes poisoned. -/
def readScaler (s : State) (h : HalfId) (place n : Nat) : Bool × State :=
  if (s.half h).sram.isEmpty then (false, s) else readUnit s h 4 place n

/-- A point's record, from the store or else from memory; none where its read is refused or poisoned. -/
def fetchPoint (s : State) (h : HalfId) (p : Nat) : Option (List Byte) × State :=
  match (s.half h).scl.points.find? (·.1 == p) with
  | some x =>
    let r := readScaler s h (pointPlace p) 256
    (if r.1 then none else some x.2, usePoint r.2 h p x.2)
  | none =>
    let r := unitRead s h mScaler (pointAddr s h p) 256
    if r.1.refused || r.1.poison then (none, r.2) else (some r.1.bytes, putPoint r.2 h p r.1.bytes)

/-- A curve slot's or program slot's bytes (`key` = kind × 65,536 + slot), from the cache or else from memory. -/
def fetchSlot (s : State) (h : HalfId) (key : Nat) : Option (List Byte) × State :=
  let put (s : State) (b : List Byte) : State :=
    updScl s h fun x => { x with slots := x.slots.filter (·.1 != key) ++ [(key, b)] }
  match (s.half h).scl.slots.find? (·.1 == key) with
  | some x =>
    let r := readScaler s h (slotPlace key) x.2.length
    (if r.1 then none else some x.2, put r.2 x.2)
  | none =>
    let r := if key < 65536 then unitRead s h mScaler (s.fld h Reg.SCL_CBASE_BASE * 0x8000000 + 2048 * key) 2048
             else unitRead s h mScaler (s.fld h Reg.SCL_FBASE_BASE * 0x1000000 + 256 * (key - 65536)) 256
    if r.1.refused || r.1.poison then (none, r.2)
    else (some r.1.bytes, writeUnit (put r.2 r.1.bytes) h mScaler 4 (slotPlace key) r.1.bytes.length)

/-- Writes a record of the store back to memory; a poisoned one stays poisoned there (R171, R173). -/
def evictPoint (h : HalfId) (s : State) (p : Nat × List Byte) : State :=
  let r := readScaler s h (pointPlace p.1) 256
  let s := unitWrite r.2 h mScaler (pointAddr s h p.1) p.2
  if r.1 then poisonAt s h (pointAddr s h p.1) 256 else s

/-- Evicts what is over capacity, least recently used first: 28,672 records, written back, and 1 MiB of slots. -/
def trimStores (s : State) (h : HalfId) : State :=
  let pts := (s.half h).scl.points
  let out := pts.take (pts.length - 28672)
  let s := out.foldl (evictPoint h) s
  let size (l : List (Nat × List Byte)) : Nat := (l.map (·.2.length)).sum
  let rec cut : List (Nat × List Byte) → List (Nat × List Byte)
    | [] => []
    | x :: l => if size (x :: l) ≤ 1048576 then x :: l else cut l
  updScl s h fun x => { x with points := x.points.drop out.length, slots := cut x.slots }

-- curves (R285–R287)

/-- A curve slot as R286 reads it. -/
structure Curve where
  kind : Nat
  n : Nat
  extend : Bool
  x : Nat → Rat'
  y : Nat → Rat'
  m : Nat → Rat'

def curveOf (b : List Byte) : Curve :=
  let ex (o : Nat) : Int := signedOf 8 (fieldLE b o 1)
  ⟨fieldLE b 0 1, fieldLE b 2 2, fieldLE b 4 1 != 0, fun i => Rat'.dec (fieldS b (0x20 + 24 * i)) (ex 5),
    fun i => Rat'.dec (fieldS b (0x28 + 24 * i)) (ex 6), fun i => Rat'.dec (fieldS b (0x30 + 24 * i)) (ex 7)⟩

/-- Whether an interval meets R287's monotone condition. -/
def Curve.monotone (c : Curve) (i : Nat) : Bool :=
  let d := ((c.y (i + 1)).sub (c.y i)).div ((c.x (i + 1)).sub (c.x i))
  if d.n = 0 then (c.m i).n == 0 && (c.m (i + 1)).n == 0
  else
    let a := (c.m i).div d
    let b := (c.m (i + 1)).div d
    (Rat'.ofInt 0).le a && (Rat'.ofInt 0).le b && ((a.mul a).add (b.mul b)).le (Rat'.ofInt 9)

/-- Whether a slot is valid (R287). -/
def curveValid (b : List Byte) : Bool :=
  let c := curveOf b
  (c.kind == 1 || c.kind == 2) && 2 ≤ c.n && c.n ≤ 64 &&
  ((List.range (c.n - 1)).all fun i => (c.x i).lt (c.x (i + 1))) &&
  fieldLE b 1 1 == 0 && (sliceB b 0x08 0x18).all (· == 0) &&
  (c.kind != 2 || (List.range (c.n - 1)).all c.monotone)

/-- The curve's value at x, and whether it raises OVERFLOW (R286). -/
def Curve.at (c : Curve) (x : Rat') : Rat' × Bool :=
  let last := c.n - 1
  if x.lt (c.x 0) || (c.x last).lt x then
    let e := if x.lt (c.x 0) then 0 else last
    if !c.extend then (c.y e, true)
    else if c.kind = 1 then
      let g := if e = 0 then 0 else c.n - 2
      ((c.y e).add (((x.sub (c.x e)).mul ((c.y (g + 1)).sub (c.y g))).div ((c.x (g + 1)).sub (c.x g))), false)
    else ((c.y e).add ((x.sub (c.x e)).mul (c.m e)), false)
  else
    let i := (((List.range (c.n - 1)).filter fun i => (c.x i).le x).getLast?).getD 0
    let d := (c.x (i + 1)).sub (c.x i)
    let t := (x.sub (c.x i)).div d
    if c.kind = 1 then ((c.y i).add (t.mul ((c.y (i + 1)).sub (c.y i))), false)
    else
      let t2 := t.mul t
      let t3 := t2.mul t
      let k (a : Int) (v : Rat') : Rat' := (Rat'.ofInt a).mul v
      let h0 := ((k 2 t3).sub (k 3 t2)).add (Rat'.ofInt 1)
      let h1 := (t3.sub (k 2 t2)).add t
      let h2 := (k (-2) t3).add (k 3 t2)
      let h3 := t3.sub t2
      ((((h0.mul (c.y i)).add ((h1.mul d).mul (c.m i))).add (h2.mul (c.y (i + 1)))).add ((h3.mul d).mul (c.m (i + 1))), false)

-- formula programs (R288, R289)

/-- What PUSHV, PUSHL and PUSHP push. -/
structure ProgIn where
  rm : Nat
  v : FVal
  l : FVal
  p : Int → FVal

/-- The quiet NaN that Scaler pushes and emits; R99 leaves its sign open. -/
def quietNan : FVal := .nan Config.defaultNanSign false 0

/-- The smaller (`max` = false) or larger of two values; NaN where either is. -/
def pickOf (mx : Bool) (a b : FVal) : FVal :=
  match nanRes [a, b] with
  | some r => r.1
  | none =>
    match (fCompare 10 a b).1 with
    | some .gt => if mx then a else b
    | some .lt => if mx then b else a
    | _ => a

/-- QUANT: a value at exponent e. -/
def quantTo (m : FMode) (e : Int) (a : FVal) : FVal :=
  match a with
  | .nan _ _ _ => a
  | _ => if e < dec128.qmin ∨ dec128.qmax < e then quietNan else (fQuantize dec128 m a (.fin false 1 e)).1

def FVal.setNeg (a : FVal) (f : Bool → Bool) : FVal :=
  match a with
  | .fin n c e => .fin (f n) c e
  | .inf n => .inf (f n)
  | .nan n s p => .nan (f n) s p

/-- Runs the words from i on with the stack's top first; none where the run is invalid (R289). -/
def runProgram (b : List Byte) (q : ProgIn) : Nat → Nat → List FVal → Option FVal
  | 0, _, _ => none
  | f + 1, i, st =>
    let w := fieldLE b (4 * i) 4
    let m : FMode := ⟨q.rm, false⟩
    let push (v : FVal) : Option FVal := if 8 ≤ st.length then none else runProgram b q f (i + 1) (v :: st)
    let un (g : FVal → FVal) : Option FVal :=
      match st with
      | a :: t => runProgram b q f (i + 1) (g a :: t)
      | _ => none
    let bin (g : FVal → FVal → FVal) : Option FVal :=
      match st with
      | y :: x :: t => runProgram b q f (i + 1) (g x y :: t)
      | _ => none
    match nbits w 31 26 with
    | 0x00 => match st with | [a] => some a | _ => none
    | 0x01 => push q.v
    | 0x02 => push (ofBid64 (fieldLE b (0x80 + 8 * nbits w 3 0) 8))
    | 0x03 => push (q.p (signedOf 12 (nbits w 11 0)))
    | 0x04 => push q.l
    | 0x05 => bin fun x y => (fAdd dec128 m x y).1
    | 0x06 => bin fun x y => (fSub dec128 m x y).1
    | 0x07 => bin fun x y => (fMul dec128 m x y).1
    | 0x08 => bin fun x y => (fDiv dec128 m x y).1
    | 0x09 => bin (pickOf false)
    | 0x0A => bin (pickOf true)
    | 0x0B => un fun x => x.setNeg (!·)
    | 0x0C => un fun x => x.setNeg fun _ => false
    | 0x0D => un (quantTo m (signedOf 14 (nbits w 13 0)))
    | 0x0E => match st with | a :: _ => push a | _ => none
    | 0x0F => match st with | y :: x :: t => runProgram b q f (i + 1) (x :: y :: t) | _ => none
    | _ => none

-- periods (R296)

/-- A period class; times in ns. -/
structure PClass where
  v : Bool
  len : Nat
  origin : Nat
  grace : Nat

/-- A class from its two words. -/
def pclassOf (w0 w1 : Nat) : PClass :=
  ⟨w1.testBit 63, nbits w0 31 0 * 1000000000, nbits w1 31 0 * 1000000000, nbits w0 63 32 * 1000000⟩

/-- The two words of a class as its registers hold them: word 1 × 2^64 + word 0. -/
def pclassWords (s : State) (h : HalfId) (n : Nat) : Nat :=
  (s.reg h 0x0A (0x108 + 16 * n)).toNat * 2 ^ 64 + (s.reg h 0x0A (0x100 + 16 * n)).toNat

/-- The class in effect: a class rewritten while valid applies from the close that follows (R304). -/
def pclass (s : State) (h : HalfId) (n : Nat) : PClass :=
  let w := SMap.get (fun _ => 0) (s.half h).scl.classes n
  pclassOf (w % 2 ^ 64) (w / 2 ^ 64)

/-- Puts the pair in the registers into effect (R304). -/
def takeClass (s : State) (h : HalfId) (n : Nat) : State :=
  updScl s h fun x => { x with classes := SMap.set (fun _ => 0) x.classes n (pclassWords s h n) }

def PClass.period (c : PClass) (t : Int) : Int := (t - c.origin) / c.len
def PClass.start (c : PClass) (p : Int) : Int := c.origin + p * c.len
def PClass.stop (c : PClass) (p : Int) : Int := c.start (p + 1)

/-- When the period ended that a class which takes effect at `now` sweeps none before: the period before the current one is still swept
while its grace runs (R297, R298). -/
def PClass.firstSwept (c : PClass) (now : Int) : Int :=
  let p := c.period now - 1
  if now < c.stop p + c.grace then c.start p else c.stop p

/-- A write to a class's registers: a class that is not in effect takes it at once, and its sweeps count from now (R304). -/
def classWritten (s : State) (h : HalfId) (n : Nat) : State :=
  if (pclass s h n).v then s else
  let s := takeClass s h n
  if (pclass s h n).v then
    updScl s h fun x => { x with swept := SMap.set (fun _ => 0) x.swept n ((pclass s h n).firstSwept s.timebase.toNat) }
  else s

/-- Place of the slot for period p in the record. -/
def slotOff (p : Int) : Nat := if p % 2 = 0 then 0x80 else 0xC0

/-- Whether the slot at `off` is open. -/
def slotOpen (r : List Byte) (off : Nat) : Bool := (fieldLE r (off + 0x0C) 2).testBit 0

/-- The period index of a slot, which holds it modulo 2^32: the one nearest to `now`. -/
def slotPeriod (r : List Byte) (off : Nat) (now : Int) : Int :=
  now + ((fieldLE r (off + 8) 4 - now + 2147483648) % 4294967296 - 2147483648)

-- values and records

/-- VTYPE codes (R270). -/
def plainType (vt : Nat) : Bool := !(vt == 2 || vt == 3 || vt == 4 || vt == 5 || vt == 8)

/-- The exact decimal that a record of the decimal path holds. -/
def inputDec (r : Rec) : FVal :=
  let v := r.value.toNat
  match r.vtype.toNat with
  | 2 => let i := signedOf 64 v; .fin (decide (i < 0)) i.natAbs 0
  | 4 => ofBid64 (v % 2 ^ 64)
  | 5 => ofBid128 v
  | _ => .fin false (v % 2 ^ 64) 0

/-- A value of i units of 10^e as decimal128. -/
def unitsBid (i e : Int) : Word128 := BitVec.ofNat 128 (toBid128 (.fin (decide (i < 0)) i.natAbs e))

/-- A value that the manual does not state (log entry 12). -/
def freeValue (s : State) : Word128 × State :=
  let a := s.takeFree
  let b := a.2.takeFree
  (a.1 ++ b.1, b.2)

/-- What the records of one job work on: the state, the point's record and the outputs in order. -/
structure SRun where
  s : State
  r : List Byte
  out : List Rec

def SRun.emit (x : SRun) (o : Rec) : SRun := { x with out := x.out ++ [o] }

/-- TINFO of an output: COUNTER, TFALL and TSRC (Table 14.7). -/
def outInfo (vt : Nat) (tinfo : Byte) : Nat := (if vt = 8 then 0x80 else 0) + tinfo.toNat % 8

/-- Emits the pending record as kept (R294): it becomes the kept one. Its TFALL and TSRC are those the record came with, which
the stream record's layout leaves out (log entry 38). -/
def SRun.flushPend (x : SRun) (h : HalfId) (p : Nat) : SRun :=
  if !spBit x.r sPEND then x else
  let v := fieldS x.r 0x50
  let t := fieldLE x.r 0x58 8
  let o : Rec := { time := BitVec.ofNat 64 t, value := unitsBid v (spOutExp x.r), point := BitVec.ofNat 32 p, vtype := 5
                   qual := BitVec.ofNat 8 (spKeptQ x.r), kind := 0
                   tinfo := BitVec.ofNat 8 (SMap.get (fun _ => 0) (x.s.half h).scl.pendInfo p) }
  let r := putBit (putF (putS x.r 0x40 v) 0x48 8 t) sPEND false
  { x with r, out := x.out ++ [o] }

-- aggregates (R299)

/-- The sum of a slot. -/
def slotSum (r : List Byte) (off : Nat) : Int := signedOf 128 (fieldLE r (off + 0x10) 16)

/-- The value of function f before output rounding, for a slot with COUNT above 0 (Table 14.6). -/
def aggExact (r : List Byte) (off f : Nat) : Rat' :=
  let u (i : Int) : Rat' := Rat'.dec i (spOutExp r)
  let last := fieldS r (off + 0x38)
  match f with
  | 2 => u (slotSum r off)
  | 3 => (u (slotSum r off)).div (Rat'.ofInt (fieldLE r off 4))
  | 4 => u (fieldS r (off + 0x20))
  | 5 => u (fieldS r (off + 0x28))
  | 6 => u (fieldS r (off + 0x30))
  | 7 => u last
  | _ => u (last - (if spBit r sBV then fieldS r 0x38 else fieldS r (off + 0x30)))

/-- The bits of AGGMASK that make a record for a VTYPE; a point that had no record yet is taken as neither a counter nor
BOOL, DBPT or BIN64. -/
def aggFuncs (r : List Byte) (vt : Option Nat) : List Nat :=
  (List.range 9).filter fun f => (spAggMask r).testBit f &&
    (match vt with
     | some v => if plainType v then f < 2 else f < 8 || v == 8
     | none => f < 8)

/-- Whether a function's value, rounded to AGG_EXP, has more digits than decimal128: no rule states its VALUE then. -/
def aggOpen (r : List Byte) (off f : Nat) : Bool :=
  2 ≤ f && fieldLE r off 4 != 0 && decide (10 ^ 34 ≤ ((aggExact r off f).units (spRm r) (spAggExp r)).1.natAbs)

/-- The KIND 4 record of function f over the slot at `off` of period start `start`; `fv` is the VALUE that no rule states. -/
def aggRecord (r : List Byte) (p off : Nat) (start : Int) (vt : Option Nat) (extra : Nat) (fv : Word128) (f : Nat) : Rec :=
  let count := fieldLE r off 4
  let flags := fieldLE r (off + 0x0C) 2
  let satur := flags.testBit 1 && (f == 0 || f == 2 || f == 3)
  let x := (aggExact r off f).units (spRm r) (spAggExp r)
  let (v, inexact) :=
    if f = 0 then (unitsBid count 0, false)
    else if f = 1 then (unitsBid (fieldLE r (off + 4) 4) 0, false)
    else if count = 0 then (BitVec.ofNat 128 (toBid128 quietNan), false)
    else if aggOpen r off f then (fv, x.2)
    else (unitsBid x.1 (spAggExp r), x.2)
  let q := (flags / 256) % 128
  let q := if f = 8 ∧ count ≠ 0 ∧ (aggExact r off f).n < 0 then q ||| 4 else q
  { time := BitVec.ofInt 64 start, value := v, point := BitVec.ofNat 32 (p + f * 2 ^ 24), vtype := 5
    qual := BitVec.ofNat 8 (if count = 0 then q + 128 else q), kind := 4
    tinfo := BitVec.ofNat 8 ((if vt = some 8 then 0x80 else 0) + (if inexact || satur then 0x40 else 0) + extra) }

/-- Emits the record of one function over a slot. -/
def SRun.aggOne (r : List Byte) (p off : Nat) (start : Int) (vt : Option Nat) (extra : Nat) (x : SRun) (f : Nat) : SRun :=
  let v := if aggOpen r off f then freeValue x.s else (0, x.s)
  { x with s := v.2, out := x.out ++ [aggRecord r p off start vt extra v.1 f] }

/-- Emits the aggregates of a slot; DELTA moves BASE. -/
def SRun.aggregates (x : SRun) (p off : Nat) (start : Int) (vt : Option Nat) (extra : Nat) : SRun :=
  let fs := aggFuncs x.r vt
  let r := if fs.contains 8 ∧ fieldLE x.r off 4 ≠ 0 then putBit (putS x.r 0x38 (fieldS x.r (off + 0x38))) sBV true else x.r
  { fs.foldl (SRun.aggOne x.r p off start vt extra) x with r }

/-- The VTYPE of a point's latest record. -/
def pointType (s : State) (h : HalfId) (p : Nat) : Option Nat :=
  let v := SMap.get (fun _ => 0) (s.half h).scl.vtypes p
  if v = 0 then none else some (v - 1)

/-- Closes the slot at `off`, period k (R298, R299): a pending record inside the period goes out first (R294). -/
def SRun.close (x : SRun) (h : HalfId) (p : Nat) (c : PClass) (off : Nat) (k : Int) (cut : Bool) : SRun :=
  let pt : Int := fieldLE x.r 0x58 8
  let x := if spBit x.r sPEND ∧ c.start k ≤ pt ∧ pt < c.stop k then x.flushPend h p else x
  let x := x.aggregates p off (c.start k) (pointType x.s h p) (if cut then 0x10 else 0)
  { x with r := putF x.r (off + 0x0C) 2 (fieldLE x.r (off + 0x0C) 2 / 2 * 2) }

/-- Whether a period has, or had, a slot that records went into: one closed lazily still shows its PERIOD and counts. -/
def hasSlot (r : List Byte) (k : Int) : Bool :=
  let off := slotOff k
  fieldLE r (off + 8) 4 == unsignedOf 32 k && (slotOpen r off || fieldLE r off 4 != 0 || fieldLE r (off + 4) 4 != 0)

/-- The open slots with their periods, in ascending order of period. -/
def openSlots (r : List Byte) (now : Int) : List (Nat × Int) :=
  let l := ([0x80, 0xC0].filter (slotOpen r)).map fun o => (o, slotPeriod r o now)
  match l with
  | [a, b] => if b.2 < a.2 then [b, a] else [a, b]
  | l => l

/-- Scaler reads a class's two words at each close (R304). -/
def SRun.rereadClass (x : SRun) (h : HalfId) (cls : Nat) (closed : Bool) : SRun :=
  if closed then { x with s := takeClass x.s h cls } else x

/-- Step 1 of R284: closes the open slots that arrival time a has passed. -/
def SRun.lazyClose (x : SRun) (h : HalfId) (p : Nat) (a : Nat) : SRun :=
  let c := pclass x.s h (spClass x.r)
  if !spPer x.r ∨ !c.v then x else
  let due := (openSlots x.r (c.period a)).filter fun o => c.stop o.2 + c.grace ≤ a
  (due.foldl (fun x o => x.close h p c o.1 o.2 false) x).rereadClass h (spClass x.r) !due.isEmpty

/-- Folds one record into the slot of period j, opened where it is closed (R297, Table 14.5). -/
def foldSlot (r : List Byte) (j : Int) (q : Option Int) (qual : Nat) : List Byte :=
  let off := slotOff j
  let r := if slotOpen r off then r
    else putF (putF (patchB r off (zerosB 64)) (off + 8) 4 (unsignedOf 32 j)) (off + 0x0C) 2 1
  let inexact (r : List Byte) : List Byte := putF r (off + 0x0C) 2 (fieldLE r (off + 0x0C) 2 ||| 2)
  if qual.testBit 7 then putF r (off + 4) 4 (min (fieldLE r (off + 4) 4 + 1) 0xFFFFFFFF)
  else
    let n := fieldLE r off 4
    let r := if n = 0xFFFFFFFF then inexact r else putF r off 4 (n + 1)
    let r := putF r (off + 0x0C) 2 (fieldLE r (off + 0x0C) 2 ||| (qual % 256) * 256)
    match q with
    | none => r
    | some v =>
      let lim : Int := 10 ^ 34 - 1
      let sum := slotSum r off + v
      let r := if sum ≤ -lim ∨ lim ≤ sum then inexact r else r
      let r := putF r (off + 0x10) 16 (unsignedOf 128 (max (-lim) (min sum lim)))
      let r := if n = 0 then putS (putS (putS r (off + 0x20) v) (off + 0x28) v) (off + 0x30) v
        else putS (putS r (off + 0x20) (min v (fieldS r (off + 0x20)))) (off + 0x28) (max v (fieldS r (off + 0x28)))
      putS r (off + 0x38) v

-- one record (R284)

/-- A record's computed value: units where |q| is below 2^61, what VALUE holds where it can be written, and QUAL bits
raised. -/
structure Computed where
  q : Option Int
  out : Option Word128
  qual : Nat
  x : FVal

/-- A pushed value of this point or another: LASTOUT at its OUT_EXP, or a quiet NaN (Table 14.3). -/
def lastOut (own : Nat) (r : List Byte) : FVal :=
  if !spV r ∨ spSession r ≠ own ∨ !spBit r sLOV then quietNan
  else .fin (decide (fieldS r 0x30 < 0)) (fieldS r 0x30).natAbs (spOutExp r)

/-- The rational a finite value is. -/
def FVal.rat (v : FVal) : Rat' :=
  match v with
  | .fin n c e => Rat'.dec (if n then -(c : Int) else c) e
  | _ => Rat'.ofInt 0

/-- Quantizes an exact value to OUT_EXP (R290): |q| must stay below 2^61. -/
def quantized (r : List Byte) (v : Rat') (qual : Nat) (x : FVal) : Computed :=
  let q := (v.units (spRm r) (spOutExp r)).1
  let out := if q.natAbs < 10 ^ 34 then unitsBid q (spOutExp r) else BitVec.ofNat 128 (toBid128 quietNan)
  if q.natAbs < 2 ^ 61 then ⟨some q, some out, qual, x⟩ else ⟨none, some out, qual ||| 0x90, x⟩

/-- The points that a program's PUSHP words name, with what each word adds to the record's own. -/
def pushedPoints (b : List Byte) (p : Nat) : List (Int × Nat) :=
  ((List.range 32).filterMap fun i =>
    let w := fieldLE b (4 * i) 4
    let d := signedOf 12 (nbits w 11 0)
    if nbits w 31 26 = 3 ∧ 0 ≤ (p : Int) + d ∧ (p : Int) + d < 2 ^ 24 then some (d, ((p : Int) + d).toNat) else none).eraseDups

/-- The record of another point that a job fetched; none where it could not be read (R281). -/
def jobPoint (s : State) (h : HalfId) (p : Nat) : Option (List Byte) :=
  (((s.half h).scl.points.find? (·.1 == p)).map (·.2)).filter fun _ =>
    !(granulesOf (pointPlace p) 256).any fun g => unitMark s h (4 * 2 ^ 40 + g) == 3

/-- Steps 3 to 6 of R284 on the decimal path. -/
def computeValue (x : SRun) (h : HalfId) (p : Nat) (i : Rec) : Computed × SRun :=
  let v := inputDec i
  let bad (f : Fld) (s : State) : Computed × SRun := (⟨none, none, 0x80, v⟩, { x with s := s.incFld h f })
  let cv := if i.vtype = 8 then none else spCurve x.r
  let c : Option (Option (Rat' × Bool)) × State :=
    match cv with
    | none => (some none, x.s)
    | some n =>
      let b := fetchSlot x.s h n
      match b.1 with
      | some b' => (if curveValid b' then some (some ((curveOf b').at v.rat)) else none, b.2)
      | none => (none, b.2)
  match c.1 with
  | none => bad Reg.SCL_CNT1_BADTAB c.2
  | some y =>
    let outside := (y.map fun t => t.2).getD false
    let qual := if outside then 0x10 else 0
    let yr := (y.map fun t => t.1).getD v.rat
    match spFormula x.r with
    | none => (quantized x.r yr qual v, { x with s := c.2 })
    | some n =>
      let b := fetchSlot c.2 h (65536 + n)
      match b.1 with
      | none => bad Reg.SCL_CNT1_BADTAB b.2
      | some prog =>
        let ps := pushedPoints prog p
        let rm := spRm x.r
        let pv := if y.isSome then (dec128.round rm false (decide (yr.n < 0)) yr.n.natAbs yr.d 0 (spOutExp x.r)).1 else v
        let pl : FVal :=
          if spBit x.r sLIV then .fin (decide (fieldS x.r 0x28 < 0)) (fieldS x.r 0x28).natAbs (signedOf 8 (fieldLE x.r 0x22 1))
          else quietNan
        let pin : ProgIn := ⟨rm, pv, pl, fun d =>
          if d = 0 then lastOut (spSession x.r) x.r
          else match (ps.find? (·.1 == d)).bind fun y => jobPoint b.2 h y.2 with
            | some y => lastOut (spSession x.r) y
            | none => quietNan⟩
        match runProgram prog pin 32 0 [] with
        | some (.fin g c e) => (quantized x.r (FVal.fin g c e).rat qual v, { x with s := b.2 })
        | o => (⟨none, o.map fun a => BitVec.ofNat 128 (toBid128 (quantTo ⟨rm, false⟩ (spOutExp x.r) a)), qual ||| 0x80, v⟩,
            { x with s := b.2.incFld h Reg.SCL_CNT1_FORMULA })

/-- Step 7 of R284: LASTIN, and LASTOUT for a record that is valid. -/
def setLast (r : List Byte) (c : Computed) (qual : Nat) : List Byte :=
  let r := match c.x with
    | .fin n m e =>
      if m < 2 ^ 63 then putBit (putF (putS r 0x28 (if n then -(m : Int) else m)) 0x22 1 (unsignedOf 8 e)) sLIV true
      else putBit r sLIV false
    | _ => putBit r sLIV false
  match c.q with
  | some q => if qual.testBit 7 then r else putBit (putS r 0x30 q) sLOV true
  | none => r

/-- What R292 to R294 work on: the record as it would be emitted, and its value in units or raw bits. -/
structure Cand where
  o : Rec
  q : Option Int
  t : Nat

/-- Emits a record as kept, after the pending one (R292). KEPT_V of a record with no value is not stated (log entry 12). -/
def SRun.keep (x : SRun) (h : HalfId) (p : Nat) (c : Cand) : SRun :=
  let x := x.flushPend h p
  let f := x.s.takeFree
  let v : Int × State := match c.q with | some q => (q, x.s) | none => (f.1.toInt, f.2)
  let r := putF (putF (putS x.r 0x40 v.1) 0x48 8 c.t) 0x24 1 c.o.qual.toNat
  { s := v.2, r := putBit r sKEPT true, out := x.out ++ [c.o] }

/-- Makes a record the pending one. -/
def makePending (r : List Byte) (q : Int) (t : Nat) : List Byte := putBit (putF (putS r 0x50 q) 0x58 8 t) sPEND true

/-- The doors of a first pending record (R294). -/
def setDoors (r : List Byte) (q : Int) (t : Nat) : List Byte :=
  let kv := fieldS r 0x40
  let d := t - fieldLE r 0x48 8
  putF (putS (putF (putS r 0x60 (q + spE r - kv)) 0x68 8 d) 0x70 (q - spE r - kv)) 0x78 8 d

/-- door_take (R294). -/
def SRun.door (x : SRun) (h : HalfId) (p : Nat) (q : Int) (t : Nat) (info : Byte) : SRun :=
  let note (x : SRun) : SRun := { x with s := updScl x.s h fun y =>
    { y with pendInfo := SMap.set (fun _ => 0) y.pendInfo p info.toNat } }
  let first (x : SRun) : SRun := note { x with r := setDoors (makePending x.r q t) q t }
  if !spBit x.r sPEND then first x else
  let r := x.r
  let kv := fieldS r 0x40
  let d : Int := (t - fieldLE r 0x48 8 : Nat)
  let upN := fieldS r 0x60
  let upD : Int := fieldLE r 0x68 8
  let loN := fieldS r 0x70
  let loD : Int := fieldLE r 0x78 8
  let e : Int := spE r
  if (q - kv) * upD ≤ upN * d ∧ loN * d ≤ (q - kv) * loD then
    let r := makePending r q t
    let r := if (q + e - kv) * upD < upN * d then putF (putS r 0x60 (q + e - kv)) 0x68 8 d.toNat else r
    let r := if loN * d < (q - e - kv) * loD then putF (putS r 0x70 (q - e - kv)) 0x78 8 d.toNat else r
    note { x with r }
  else first (x.flushPend h p)

/-- R292: forced keep, or the point's method. -/
def SRun.compress (x : SRun) (h : HalfId) (p vt : Nat) (c : Cand) : SRun :=
  let r := x.r
  let kt := fieldLE r 0x48 8
  let forced := !spBit r sKEPT || c.t ≤ kt || (spBit r sPEND && c.t ≤ fieldLE r 0x58 8) || c.o.qual.toNat != spKeptQ r ||
    (spGap r != 0 && spGap r * 1000000000 ≤ c.t - kt) || c.o.qual.toNat.testBit 7
  if forced ∨ vt = 8 then x.keep h p c
  else if plainType vt then (if c.q = some (fieldS r 0x40) then x else x.keep h p c)
  else match c.q with
    | none => x.keep h p c
    | some q =>
      if spCmp r = 1 then (if spE r < (q - fieldS r 0x40).natAbs then x.keep h p c else x)
      else if spCmp r = 2 then x.door h p q c.t c.o.tinfo
      else x.keep h p c

/-- Step 8 of R284 (R297): folds the record in, or emits it as LATE or FUTURE. -/
def SRun.aggregate (x : SRun) (h : HalfId) (a t : Nat) (q : Option Int) (o : Rec) : SRun :=
  let c := pclass x.s h (spClass x.r)
  if !spPer x.r ∨ !c.v then x else
  let cur := c.period a
  let j := c.period t
  if j = cur ∨ (j = cur - 1 ∧ (a : Int) < c.stop (cur - 1) + c.grace) then { x with r := foldSlot x.r j q o.qual.toNat }
  else if cur < j then
    let x := x.emit { o with kind := 6 }
    { x with s := x.s.incFld h Reg.SCL_CNT0_FUTURE }
  else
    let x := x.emit { o with kind := 5 }
    { x with s := x.s.incFld h Reg.SCL_CNT0_LATE }

/-- A KIND 0 record of a point with V = 1 (R284). -/
def SRun.point (x : SRun) (h : HalfId) (p a : Nat) (i : Rec) : SRun :=
  let vt := i.vtype.toNat
  let x := x.lazyClose h p a
  let x := { x with s := updScl x.s h fun y => { y with vtypes := SMap.set (fun _ => 0) y.vtypes p (vt + 1) } }
  let t := i.time.toNat / spTq x.r * spTq x.r
  let base : Rec := { i with time := BitVec.ofNat 64 t, point := BitVec.ofNat 32 p, tinfo := BitVec.ofNat 8 (outInfo vt i.tinfo) }
  let done (x : SRun) (o : Rec) (qa qc : Option Int) : SRun :=
    let x := if spPer x.r then x.aggregate h a t qa o else x
    let x := if spRaw x.r then x.emit { o with kind := 1 } else x
    x.compress h p vt ⟨o, qc, t⟩
  if plainType vt then done x base none (some (signedOf 64 i.value.toNat))
  else
    let c := computeValue x h p i
    let qual := i.qual.toNat ||| c.1.qual
    let x := { c.2 with r := setLast c.2.r c.1 qual }
    let v : Word128 × State := match c.1.out with | some v => (v, x.s) | none => freeValue x.s
    done { x with s := v.2 } { base with vtype := 5, value := v.1, qual := BitVec.ofNat 8 qual } c.1.q c.1.q

-- output (R302)

/-- Address of a session's inbox. -/
def inboxAddr (s : State) (h : HalfId) (n : Nat) : Nat :=
  let sp := s.fld h Reg.SCL_ISPLIT_ISPLIT
  if n < sp then s.fld h Reg.SCL_IBASE0_BASE * 512 + 512 * n else s.fld h Reg.SCL_IBASE1_BASE * 512 + 512 * (n - sp)

/-- Whether a thread has reply posts among its effects that are not released yet (R207), or may yet make some: it has not waited since
it took its inbox (log entry 154). -/
def threadPosts (s : State) (h : HalfId) (t : Nat) : Bool :=
  (s.half h).cores.any (fun p =>
    (p.2.thread == some t && p.2.effects.any (·.kind == .replyPost)) || p.2.handed.any fun e => e.thread == t && e.kind == .replyPost) ||
  (s.thread h t).state == .running || (s.thread h t).state == .ready

/-- Whether records of a session's compartment path are not written yet (R19): its inbox holds entries its thread has not
taken, or a reply post to its ring, or one of its thread's, waits. -/
def inboxBusy (s : State) (h : HalfId) (n : Nat) : Bool × State :=
  if !(s.half h).scl.boxed.contains n then (false, s) else
  let ix := unitRead s h mScaler (inboxAddr s h n) 32
  ((!ix.1.refused && !ix.1.poison && fieldLE ix.1.bytes 0 4 != fieldLE ix.1.bytes 0x10 4) ||
    ((session s h n).thread.map (threadPosts s h)).getD false ||
    (s.half h).hif.posts.any fun p => !p.frame && fieldLE p.bytes 0x20 4 % 2 ^ 17 == (session s h n).ring, ix.2)

/-- Delivers outputs of a session in order until its inbox or its reply ring is full, or records of its older path must go first;
`true` where a job's first record went into the inbox. -/
def deliverOuts (h : HalfId) (n : Nat) : List ScalerOut → Bool → State → Bool × State
  | [], told, s => (told, s)
  | o :: rest, told, s =>
    let drop (s : State) : State := updScl s h fun x => { x with outq := x.outq.erase o }
    if o.path then
      let a := inboxAddr s h n
      let ix := unitRead s h mScaler a 32
      let prod := fieldLE ix.1.bytes 0 4
      let cons := fieldLE ix.1.bytes 0x10 4
      if ix.1.refused ∨ ix.1.poison then deliverOuts h n rest told (drop ix.2)
      else if (prod + 2 ^ 32 - cons) % 2 ^ 32 = 15 then (told, ix.2)
      else
        let s := unitWrite ix.2 h mScaler (a + 0x20 + 32 * (prod % 15)) o.rec_.bytes
        let s := unitWrite s h mScaler a (leBytes 4 ((prod + 1) % 2 ^ 32))
        deliverOuts h n rest (told || o.first) (updScl (drop s) h fun x => { x with boxed := x.boxed.add n })
    else
      let busy := inboxBusy s h n
      let s := busy.2
      if busy.1 || !ringRoom s h (session s h n).ring then (told, s) else
      let s := updScl s h fun x => { x with boxed := x.boxed.del n }
      let s := queueRecord s h ⟨(session s h n).ring, o.rec_.bytes, none, some n, false⟩
      deliverOuts h n rest told (drop s)

/-- Delivers what waits of a session, and raises INBOX for its thread once per job: when the first of its records is in the inbox (log
entry 155). -/
def deliver (s : State) (h : HalfId) (n : Nat) : State :=
  let r := deliverOuts h n ((s.half h).scl.outq.filter (·.session == n)) false s
  if r.1 then (match (session r.2 h n).thread with | some t => fmnEvent r.2 h t 1 | none => r.2) else r.2

/-- Queues a job's outputs of a session and delivers what may go. -/
def putOuts (s : State) (h : HalfId) (n : Nat) (path : Bool) (arrival : Option Word) (out : List Rec) : State :=
  deliver (updScl s h fun x => { x with
    outq := x.outq ++ (out.take 1).map (fun o => ⟨n, path, o, true, arrival⟩) ++ (out.drop 1).map fun o => ⟨n, path, o, false, arrival⟩ }) h n

-- jobs

/-- Fetches records or slots, each once: those that cannot be read, each counted (R281). -/
def fetchEach (h : HalfId) (f : State → HalfId → Nat → Option (List Byte) × State) (ns : List Nat) (s : State) : List Nat × State :=
  ns.eraseDups.foldl (fun (a : List Nat × State) n =>
    let r := f a.2 h n
    if r.1.isNone then (a.1 ++ [n], r.2.incFld h Reg.SCL_CNT1_BADTAB) else (a.1, r.2)) ([], s)

/-- The slots that a job's records of a point use: its curve and its program. -/
def jobSlots (s : State) (h : HalfId) (recs : List Rec) (p : Nat) : List Nat :=
  match jobPoint s h p with
  | none => []
  | some r =>
    let mine := recs.filter fun i => i.kind == 0 && i.point.toNat % 2 ^ 24 == p && !plainType i.vtype.toNat
    if !spV r then [] else
    (if mine.any (·.vtype != 8) then ((spCurve r).map fun n => [n]).getD [] else []) ++
      (if mine.isEmpty then [] else ((spFormula r).map fun n => [65536 + n]).getD [])

/-- The points that the programs among a point's slots push. -/
def jobPushes (s : State) (h : HalfId) (recs : List Rec) (p : Nat) : List Nat :=
  ((jobSlots s h recs p).filter (65536 ≤ ·)).flatMap fun k =>
    match (s.half h).scl.slots.find? (·.1 == k) with
    | some x => (pushedPoints x.2 p).map (·.2)
    | none => []

/-- All fetches of a job, each made once: the points whose record or slots cannot be read (R281). -/
def fetchJob (s : State) (h : HalfId) (recs : List Rec) : List Nat × State :=
  let ps := ((recs.filter (·.kind == 0)).map fun r => r.point.toNat % 2 ^ 24).eraseDups
  let a := fetchEach h fetchPoint ps s
  let good := ps.filter fun p => !a.1.contains p
  let b := fetchEach h fetchSlot (good.flatMap (jobSlots a.2 h recs)) a.2
  let c := fetchEach h fetchPoint ((good.flatMap (jobPushes b.2 h recs)).filter (!ps.contains ·)) b.2
  (ps.filter fun p => a.1.contains p || (jobSlots a.2 h recs p).any b.1.contains, c.2)

/-- One record of a job (R284, R301). -/
def jobRecord (h : HalfId) (a : Nat) (bad : List Nat) (acc : State × List Rec) (i : Rec) : State × List Rec :=
  let p := i.point.toNat % 2 ^ 24
  if i.kind ≠ 0 then (acc.1, acc.2 ++ [i])
  else if bad.contains p then (acc.1, acc.2 ++ [{ i with kind := 7, qual := i.qual ||| 0x80 }])
  else
    let f := fetchPoint acc.1 h p
    match f.1 with
    | none => (f.2, acc.2 ++ [{ i with kind := 7, qual := i.qual ||| 0x80 }])
    | some r =>
      if !spV r then (f.2.incFld h Reg.SCL_CNT1_NOPOINT, acc.2 ++ [{ i with kind := 7 }])
      else
        let x := SRun.point ⟨f.2, r, acc.2⟩ h p a i
        (putPoint x.s h p x.r, x.out)

/-- One Scaler job: the records of one Mill message. A mirrored session's buddy gets an update at its end (R351). -/
def scalerJob (s : State) (h : HalfId) (j : ScalerJob) : State :=
  let f := fetchJob s h j.recs
  let r := j.recs.foldl (jobRecord h j.arrival.toNat f.1) (f.2, [])
  let s := updScl (trimStores r.1 h) h fun x => { x with jobs := x.jobs.erase j }
  mirrorUpdate (putOuts s h j.session j.path (some j.arrival) r.2) h j.session

/-- SCALER_JOB: what waits of a session's outputs is delivered; when none does, its next job runs (R284, R302). Nothing runs
while Scaler is disabled (R440). -/
def execScalerJob (h : HalfId) (session : BitVec 16) (s : State) : Host.Outcome State Fault Refusal :=
  let n := session.toNat
  .next (unitCmd h (fun s =>
    let s := deliver s h n
    if (s.half h).scl.outq.any (·.session == n) then s
    else match (s.half h).scl.jobs.find? (·.session == n) with
      | none => s
      | some j => if s.flag h Reg.SCL_CTRL_EN then scalerJob s h j else s) s)

/-- One sweep visit of a point for period k that ends at `stop` (R298, R300): a job (R281), so it ends with a mirror update. -/
def sweepPoint (h : HalfId) (cls : Nat) (c : PClass) (k : Int) (s : State) (p : Nat) : State :=
  let f := fetchPoint s h p
  match f.1 with
  | none => f.2.incFld h Reg.SCL_CNT1_BADTAB
  | some r =>
    if !spV r ∨ !spPer r ∨ spClass r ≠ cls then f.2 else
    let due := (openSlots r (c.period s.timebase.toNat)).filter fun o => o.2 ≤ k
    let x : SRun := ⟨f.2, r, []⟩
    let x := due.foldl (fun x o => x.close h p c o.1 o.2 false) x
    let x :=
      if !spEmptyOut r ∨ hasSlot r k ∨ c.stop k ≤ SMap.get (fun _ => 0) (s.half h).scl.setAt p then x
      else
        let pt : Int := fieldLE x.r 0x58 8
        let x := if spBit x.r sPEND ∧ c.start k ≤ pt ∧ pt < c.stop k then x.flushPend h p else x
        let empty := patchB x.r (slotOff k) (zerosB 64)
        let vt := pointType x.s h p
        (aggFuncs x.r vt).foldl (SRun.aggOne empty p (slotOff k) (c.start k) vt 0x20) x
    let n := spSession r
    let s := putOuts (putPoint x.s h p x.r) h n (session x.s h n).path none x.out
    if due.isEmpty && !spEmptyOut r then s else mirrorUpdate s h n

/-- Whether a sweep visit of a point for period k closes a slot, or finds that period k's was closed before it. -/
def sweepCloses (s : State) (h : HalfId) (cls : Nat) (c : PClass) (k : Int) (p : Nat) : Bool :=
  match (fetchPoint s h p).1 with
  | some r => spV r && spPer r && spClass r == cls && ((openSlots r (c.period s.timebase.toNat)).any (·.2 ≤ k) || hasSlot r k)
  | none => false

/-- SWEEP_CLOSE: the class's next period whose end plus grace the watermark has reached is swept in ascending point order
(R298). -/
def execSweepClose (h : HalfId) (cls : Fin 16) (s : State) : Host.Outcome State Fault Refusal :=
  let c := pclass s h cls.val
  let k := c.period (SMap.get (fun _ => 0) (s.half h).scl.swept cls.val)
  if !c.v ∨ (watermark s h : Int) < c.stop k + c.grace then .next s
  else .next (unitCmd h (fun s =>
    let closes := (knownPoints s h).any (sweepCloses s h cls.val c k)
    let s := (knownPoints s h).foldl (sweepPoint h cls.val c k) s
    let s := updScl s h fun x => { x with swept := SMap.set (fun _ => 0) x.swept cls.val (c.stop k) }
    trimStores (if closes then takeClass s h cls.val else s) h) s)

-- commands (R283)

/-- Whether SET refuses an image (R283). -/
def imageBad (s : State) (h : HalfId) (b : List Byte) : Bool :=
  5 ≤ fieldLE b 4 1 || 2 < fieldLE b 3 1 || 2 ^ 61 ≤ fieldLE b 0x10 8 || fieldLE b 2 1 % 32 != 0 ||
  nbits (fieldLE b 7 1) 6 4 != 0 || nbits (fieldLE b 8 4) 30 16 != 0 || nbits (fieldLE b 0x0C 4) 30 16 != 0 ||
  ((fieldLE b 7 1).testBit 7 && !(s.reg h 0x0A (0x108 + 16 * (fieldLE b 7 1 % 16))).toNat.testBit 63)

/-- Emits what a run of a command produced, to the point's session. -/
def finishCmd (x : SRun) (h : HalfId) (p n : Nat) : State :=
  putOuts (putPoint x.s h p x.r) h n (session x.s h n).path none x.out

/-- SET of a point with a good image: FLUSH, the open slots closed with CUT, then the image's bytes. -/
def setPoint (s : State) (h : HalfId) (p : Nat) (r b : List Byte) : State :=
  let x := (SRun.mk s r []).flushPend h p
  let c := pclass s h (spClass r)
  let due := openSlots x.r (c.period s.timebase.toNat)
  let x := (due.foldl (fun x o => x.close h p c o.1 o.2 true) x).rereadClass h (spClass r) !due.isEmpty
  let s := finishCmd x h p (spSession r)
  let new := patchB (patchB (patchB x.r 0 (sliceB b 0 0x22)) 0x23 [0]) 0x80 (zerosB 128)
  updScl (putPoint s h p new) h fun y => { y with setAt := SMap.set (fun _ => 0) y.setAt p s.timebase.toNat }

/-- The effect of a command word: REASON and the state. -/
def pointCommand (s : State) (h : HalfId) (w : Nat) : Nat × State :=
  let p := nbits w 23 0
  let slot := nbits w 39 24
  let addr := s.fld h Reg.SCL_PADDR_ADDR * 64
  let drop (key : Nat) : Nat × State := (0, updScl s h fun x => { x with slots := x.slots.filter (·.1 != key) })
  match nbits w 63 61 with
  | 1 =>
    let b := unitRead s h mScaler addr 64
    if b.1.refused || b.1.poison then (2, b.2)
    else if imageBad b.2 h b.1.bytes then (1, b.2)
    else
      let r := fetchPoint b.2 h p
      match r.1 with
      | none => (2, r.2.incFld h Reg.SCL_CNT1_BADTAB)
      | some r' => (0, trimStores (setPoint r.2 h p r' b.1.bytes) h)
  | 2 =>
    let r := fetchPoint s h p
    match r.1 with
    | none => (2, r.2.incFld h Reg.SCL_CNT1_BADTAB)
    | some r' => (0, trimStores (unitWrite r.2 h mScaler addr (sliceB r' 0 64)) h)
  | 3 =>
    let r := fetchPoint s h p
    match r.1 with
    | none => (2, r.2.incFld h Reg.SCL_CNT1_BADTAB)
    | some r' => (0, trimStores (finishCmd ((SRun.mk r.2 r' []).flushPend h p) h p (spSession r')) h)
  | 4 => drop slot
  | 5 => drop (65536 + slot)
  | _ => (0, s)

/-- Runs the SCL_PCMD command that a word spells, whatever EN holds (R304); BUSY stays 1 while an access of it is held. -/
def sclCommand (s : State) (h : HalfId) (w : Word) : State :=
  let s := s.setReg h 0x0A 0x40 w
  let run (s : State) : State :=
    let r := pointCommand s h w.toNat
    r.2.setReg h 0x0A 0x48 (BitVec.ofNat 64 r.1)
  let t := unitCmd h run s
  if (t.half h).bnd.holds = (s.half h).bnd.holds then t else t.setFld h Reg.SCL_PRES_BUSY 1

end Sys2Proof.Machine
end

