-- ==== Sys2Proof/Machine/Power.lean ====
section
/-! DEFINITION. Modes, resets, start-up, Watch and core voltage (chapter 19), and DDR training and initialisation (R175, R176). -/

namespace Sys2Proof

/-- First byte and length of the memory that the runtime is granted in C0 (R382); the manual lays out no field for it. -/
opaque Config.runtimeRange : (half : Nat) → Nat × Nat

/-- What the machine stub writes into VBA; the manual does not give it. -/
opaque Config.stubVector : (half : Nat) → Word

namespace Machine

-- resets (R403, R406, R407)

/-- The bits of a register that a warm reset keeps: its ROS fields (Table 19.3). -/
def rosMask (addr : Nat) : Word :=
  match regAt (addr / 0x10000) (addr % 0x10000) with
  | none => 0
  | some d => BitVec.ofNat 64 (d.maskOf (· == .ros))

/-- The registers of a half after a warm reset. -/
def keptRegs (h : HalfId) (m : SMap Word) : SMap Word :=
  (m.map fun p => (p.1, (p.2 &&& rosMask p.1) ||| (regReset h p.1 &&& ~~~rosMask p.1))).filter fun p => p.2 != regReset h p.1

/-- A half after a reset: the code store's contents and the level of PERST_N stay. -/
def resetHalf (s : State) (h : HalfId) (warm : Bool) : Half :=
  let x := s.half h
  { Half.reset with
    regs := if warm then keptRegs h x.regs else []
    code := x.code
    codeErrs := x.codeErrs
    perst := x.perst }

/-- The package after a reset (Table 19.3): a warm reset brings a debug grant into effect (R398); OTP and host memory stay, and what the model counts for itself. -/
def resetPackage (s : State) (warm : Bool) : State :=
  let s := stopTransition s
  loadLcs { State.reset with
    east := resetHalf s .east warm
    west := resetHalf s .west warm
    otp := s.otp
    host := s.host
    out := s.out
    freeCount := s.freeCount
    pending := s.pending
    porst := s.porst
    wrst := s.wrst
    dbgGrant := if warm then s.fld .east Reg.LCS_DBG_SCOPE else 0 }

/-- A warm reset; halves that have joined announce it first (R340). -/
def warmResetPackage (s : State) : State := resetPackage (announceSafe (announceSafe s .east) .west) true

/-- POWER_ON_RESET: PORST_N goes low. -/
def execPowerOnReset (s : State) : Host.Outcome State Fault Refusal := .next { resetPackage s false with porst := false }

/-- WARM_RESET: WRST_N goes low; PORST_N overrides it (R407). -/
def execWarmReset (s : State) : Host.Outcome State Fault Refusal :=
  .next (if s.porst then { warmResetPackage s with wrst := false } else { s with wrst := false })

/-- RESET_RELEASE: both reset pins are high, and Boot starts with the life cycle as OTP holds it. -/
def execResetRelease (s : State) : Host.Outcome State Fault Refusal :=
  let s := { s with porst := true, wrst := true }
  .next (if s.east.mode = .reset then { setMode (setMode (loadLcs s) .east .boot) .west .boot with bootStage := 0 } else s)

-- DDR (R175, R176)

/-- DIMMs of a channel as the slots say. -/
def dimmsIn (slots ch : Nat) : Nat := (slots >>> (2 * ch)) % 2 + (slots >>> (2 * ch + 1)) % 2

/-- Whether a population is one of Table 8.3. -/
def ddrSupported (p : DdrPopulation) : Bool :=
  let n := p.dimmsPerChannel.toNat
  p.rdimmX4Ecc && p.equalChannels && p.spdListsRate && (List.range 4).all (fun c => dimmsIn p.slots.toNat c == n) &&
    (match n with
     | 1 => [16, 32, 64].contains p.capGib.toNat
     | 2 => [32, 64].contains p.capGib.toNat
     | _ => false)

/-- DDR_TRAINING_COMPLETE. -/
def execDdrTrainingComplete (h : HalfId) (p : DdrPopulation) (s : State) : Host.Outcome State Fault Refusal :=
  if (s.half h).mode = .reset ∨ s.flag h Reg.DDR_STAT_TRAINED ∨ s.flag h Reg.DDR_STAT_CFG_ERR then .next s else
  let n := p.dimmsPerChannel.toNat
  let s := (s.setFld h Reg.DDR_STAT_DIMMS p.slots.toNat).setFld h Reg.DDR_STAT_CAP_GIB p.capGib.toNat
  let s := s.setFld h Reg.DDR_STAT_RATE (if n = 1 then 64 else if n = 2 then 56 else 0)
  if ddrSupported p then
    .next ((s.setFld h Reg.DDR_STAT_TRAINED 1).upd h fun x => { x with ddrGib := 4 * p.capGib.toNat })
  else
    let s := s.setFld h Reg.DDR_STAT_CFG_ERR 1
    .next (if (s.half h).mode = .boot then enterSafeDevice s 0xFF 0xFF else s)

/-- First address of own DDR (Table 1.7). -/
def ddrBase : Nat := 0x1000000000

/-- DDR_INIT_COMPLETE: every installed line holds zero data, tag 0 and poison 0. -/
def execDdrInitComplete (h : HalfId) (s : State) : Host.Outcome State Fault Refusal :=
  if !s.flag h Reg.DDR_STAT_TRAINED ∨ s.flag h Reg.DDR_STAT_INIT_DONE then .next s else
  let below (m : NatSet) : NatSet := m.filter fun g => !isDdrGranule g
  .next ((s.upd h fun x => { x with
    mem := { cells := x.mem.cells.filter fun c => c.1 < ddrBase, tags := below x.mem.tags, poison := below x.mem.poison
             ce := below x.mem.ce, ue := below x.mem.ue, held := [], lineP := [], lineCe := [], lineUe := [] }
    flt := { x.flt with injected := below x.flt.injected } }).setFld h Reg.DDR_STAT_INIT_DONE 1)

-- entry to Run (R385 stage 7)

/-- C0 of the original grants (R382): the runtime's memory. Its range, which the directory entry is said to set and no field of the entry
holds, is a free value (log entry 150). -/
def grantMemory (h : HalfId) : TCap :=
  mkCap (permMask [permLD, permST, permLC, permSC, permSL, permGL]) (Config.runtimeRange h.num).1 (Config.runtimeRange h.num).2

/-- C1: blocks 0x02–0x0E. -/
def grantSetup : TCap := mkCap (permMask [permLD, permST]) 0x80020000 0xD0000

/-- C2: the code window of the grove's GRV_SWIN. -/
def grantCode (s : State) (h : HalfId) (g : Nat) : TCap :=
  let b := s.fld h (Reg.GRV_SWIN_BASE_4K.grove g) * 4096
  mkCap (permMask [permLD, permEX]) b (s.fld h (Reg.GRV_SWIN_TOP_4K.grove g) * 4096 - b)

/-- C3: authority over types 0x001–0xFFE. -/
def grantTypes : TCap := mkCap (permMask [permSE, permUS]) 1 0xFFE

/-- A BTR that maps the block of 2^size bytes around an address to itself, readable and writable, of a memory type (Table 7.4). -/
def identityBtr (a size mt : Nat) (te : Bool) : Word128 :=
  let b := a / 2 ^ size * 2 ^ size
  BitVec.ofNat 128 (2 ^ 127 + mt * 2 ^ 116 + b2n te * 2 ^ 115 + 3 * 2 ^ 112 + b / 65536 * 2 ^ 80 + size * 2 ^ 64 + b)

/-- The least size from 16 on of an aligned block that holds [b, b + l). -/
def coverSize (b l : Nat) : Nat := ((List.range 31).map (16 + ·)).find? (fun k => b / 2 ^ k == (b + l - 1) / 2 ^ k) |>.getD 46

/-- A core as the machine stub leaves it before it enters the runtime (R382, Table 18.4 stage 7): VBA, the original grants, BTR0 for C0's range,
BTR1 for C1's, and C4–C13 with tag 0. The value of VBA is free (log entry 150). The entry itself is an instruction of the stub. -/
def stubDone (s : State) (h : HalfId) (n : Nat) (c : Core) : Core :=
  let r := Config.runtimeRange h.num
  { c with
    run := .running
    vba := Config.stubVector h.num
    caps := Vector.ofFn fun i => match i.val with
      | 0 => grantMemory h
      | 1 => grantSetup
      | 2 => grantCode s h (n / 8)
      | 3 => grantTypes
      | i => if i < 14 then TCap.null else c.caps.getD i TCap.null
    btr := (c.btr.setIfInBounds 0 (identityBtr r.1 (coverSize r.1 r.2) 0 true)).setIfInBounds 1 (identityBtr 0x80000000 20 2 false) }

/-- Releases the cores of a half whose groves are not fenced to the stub, at level M. -/
def releaseCores (s : State) (h : HalfId) : State :=
  (List.range 136).foldl (fun s n => if fenced s h (n / 8) then s else s.setCoreN h n (stubDone s h n (s.coreN h n))) s

/-- CORE_RELEASE: stage 7, once stage 6 is done and DDR of both halves is initialised (R404). -/
def execCoreRelease (s : State) : Host.Outcome State Fault Refusal :=
  if deviceMode s = .boot ∧ s.bootStage = 6 ∧ s.latch.isSome ∧ s.flag .east Reg.DDR_STAT_INIT_DONE ∧
      s.flag .west Reg.DDR_STAT_INIT_DONE then
    let s := releaseCores (releaseCores (stageDone s 7) .east) .west
    let s := setMode (setMode s .east .run) .west .run
    .next (safeNow (safeNow s .east) .west)
  else .next s

-- rails (R411, R412)

/-- RAIL_OUT_OF_RANGE: the tamper cause of the rail's sensor where it has one (Table 18.8), else Reset; a power-on reset for
VDD_AON (R403). -/
def execRailOutOfRange (rail : Rail) (s : State) : Host.Outcome State Fault Refusal :=
  if !s.porst then .next s else
  match rail with
  | .vddCoreE => .next (tamper s 5)
  | .vddCoreW => .next (tamper s 6)
  | .vddAon => .next (resetPackage (tamper s 7) false)
  | .vddSram => .next (tamper s 8)
  | .vddIo | .vddFl | .vddSer | .vddhSer | .vddqDdr => .next (warmResetPackage s)

-- Watch (R408–R410)

/-- The next sweep of a half's classes that is due by a timebase value. -/
def sweepDue (s : State) (h : HalfId) (t : Nat) : Bool :=
  (List.range 16).any fun n =>
    let c := pclass s h n
    c.v && c.stop (c.period (SMap.get (fun _ => 0) (s.half h).scl.swept n)) + c.grace ≤ t

/-- Whether a thread's wait timer has expired, or will have, at an elapsed count. -/
def timerDue (s : State) (h : HalfId) (t : Nat) : Bool :=
  (s.half h).fmn.threads.any fun p => match p.2.timer with | some e => decide (e ≤ t) | none => false

/-- Whether a command ring holds entries that the device has not accepted. -/
def ringWork (s : State) (h : HalfId) : Bool :=
  (s.half h).hif.rings.any fun p => match p.2 with | some r => r.isCmd && r.prod != r.cons | none => false

/-- Whether Flume holds work for a session: bytes to send or to have acknowledged, and received bytes that are not passed on. -/
def flumeWork (x : Session) : Bool := x.tcb.any fun t => !t.outq.isEmpty || !t.unsent.isEmpty || !t.ooo.isEmpty || !t.rcv.isEmpty

/-- Whether a half is idle as R408 lists, so far as a moment shows it. -/
def idleHalf (s : State) (h : HalfId) : Bool :=
  let x := s.half h
  let ms := 2000000 * s.fld h Reg.PWR_WATCH_IDLE_MS
  x.fmn.threads.all (fun p => p.2.state != .ready && p.2.state != .running) && x.hif.inflight.isEmpty && !ringWork s h &&
    postsWaiting s h == 0 && x.eth.landing.all (keepAliveProbe s h) && x.flm.out.isEmpty && x.flm.reasm.all (·.dead) &&
    x.flm.sessions.all (fun p => !flumeWork p.2) && x.hif.waiting.isEmpty &&
    x.kln.rxq.isEmpty && x.kln.txq.isEmpty && s.fld h Reg.KLN_PIDX_PROD == s.fld h Reg.KLN_PIDX_CONS &&
    x.mil.jobs.isEmpty && x.scl.jobs.isEmpty && x.scl.outq.isEmpty &&
    s.fld h Reg.FLM_SLOW_PROD == s.fld h Reg.FLM_SLOW_CONS && s.fld h Reg.KLN_HRING_PROD == s.fld h Reg.KLN_HRING_CONS &&
    !timerDue s h (s.elapsed + ms) && !sweepDue s h (s.timebase.toNat + ms)

/-- A half's core voltage set point. -/
def setVolts (s : State) (h : HalfId) (mv : Nat) : State := s.upd h fun x => { x with vset := mv }

/-- Entry of one half to Watch, with VDD_CORE at 0.62 V. -/
def watchHalf (s : State) (h : HalfId) : State :=
  setVolts (setMode (s.upd h fun x => { x with vrun := x.vset }) h .watch) h 620

/-- Whether the idle conditions have held for IDLE_MS of the latch holder's half (R408). -/
def idleLong (s : State) (l : HalfId) : Bool :=
  s.idleAt != 0 && decide (s.idleAt - 1 + 1000000 * s.fld l Reg.PWR_WATCH_IDLE_MS ≤ s.elapsed)

/-- WATCH_ENTRY. -/
def execWatchEntry (s : State) : Host.Outcome State Fault Refusal :=
  match s.latch with
  | some l =>
    if s.east.mode = .run ∧ s.west.mode = .run ∧ s.flag l Reg.PWR_WATCH_EN ∧ idleHalf s .east ∧ idleHalf s .west ∧
        idleLong s l then
      .next (watchHalf (watchHalf s .east) .west)
    else .next s
  | none => .next s

/-- Whether a wake source is there on a half (R410). -/
def wakeThere (s : State) (src : WakeSource) (h : HalfId) : Bool :=
  match src with
  | .frame => (s.half h).eth.landing.any fun f => !keepAliveProbe s h f
  | .doorbell => ringWork s h
  | .timer => timerDue s h s.elapsed || sweepDue s h s.timebase.toNat
  | .boomPacket => (s.half h).bom.rxq.any fun p => p.type.toNat != 12 && p.type.toNat != 13
  | .smbus => true

/-- Code of a wake source. -/
def wakeCode : WakeSource → Nat
  | .frame => 1
  | .doorbell => 2
  | .timer => 3
  | .boomPacket => 4
  | .smbus => 5

/-- The return to Run begins, with the source in PWR_STAT.WAKE of both halves. -/
def beginWake (s : State) (src : WakeSource) : State :=
  { [HalfId.east, .west].foldl (fun s h =>
      (s.setFld h Reg.PWR_STAT_WAKE (wakeCode src)).incFld h Reg.PWR_CNT_WAKES) s with waking := true }

/-- A wake source that is there starts the return to Run. -/
def startWake (s : State) (src : WakeSource) : State :=
  if deviceMode s ≠ .watch ∨ s.waking then s
  else if wakeThere s src .east ∨ wakeThere s src .west then beginWake s src else s

/-- WAKE. -/
def execWake (src : WakeSource) (s : State) : Host.Outcome State Fault Refusal := .next (startWake s src)

/-- WAKE_COMPLETE: Run, and then what came due meanwhile. -/
def execWakeComplete (s : State) : Host.Outcome State Fault Refusal :=
  if !s.waking then .next s else
  let s : State := { [HalfId.east, .west].foldl (fun s h =>
      if (s.half h).mode = .watch then setMode (setVolts s h (s.half h).vrun) h .run else s) s with waking := false }
  .next (safeNow (safeNow s .east) .west)

-- adaptive core voltage (R413, R414)

/-- Whether a policy asks for a move of the set point from `v` to `mv`. -/
def policyMove (s : State) (h : HalfId) (v mv : Nat) : Bool :=
  let vmin := s.fld h Reg.PWR_AVS_VMIN_MV
  let vmax := s.fld h Reg.PWR_AVS_VMAX_MV
  let set := s.fld h Reg.PWR_AVS_VSET_MV
  let step := s.fld h Reg.PWR_STAT_STEP_PS
  let policy := s.fld h Reg.PWR_AVS_POLICY
  let target := if policy = 1 then 500 else 680
  if policy = 0 then (v < mv && mv ≤ set) || (mv < v && set ≤ mv)
  else (v < mv && mv ≤ vmax && (decide (target < step) || v < vmin)) || (mv < v && vmin ≤ mv && (decide (step ≤ target) || vmax < v))

/-- Whether the controller may make a step of VDD_CORE. -/
def stepAllowed (s : State) (h : HalfId) (mv : Nat) : Bool :=
  let x := s.half h
  let lim : Nat × Nat := if x.mode = .service then (620, 920) else (720, 880)
  x.mode != .reset && x.mode != .watch && lim.1 ≤ mv && mv ≤ lim.2 && mv ≤ x.vset + 5 && x.vset ≤ mv + 5 &&
    (x.vsetAt == 0 || x.vsetAt + 9999 ≤ s.elapsed) && x.pmbFails < 3 && policyMove s h x.vset mv

/-- VOLTAGE_STEP. -/
def execVoltageStep (h : HalfId) (mv : BitVec 16) (s : State) : Host.Outcome State Fault Refusal :=
  if stepAllowed s h mv.toNat then
    .next ((setVolts s h mv.toNat).upd h fun x => { x with vsetAt := s.elapsed + 1 })
  else .next s

/-- PMBUS_POLL: a reading of VOUT, temperature and issue step, or a failed transaction. -/
def execPmbusPoll (h : HalfId) (ok : Bool) (vout tj stepPs : BitVec 16) (s : State) : Host.Outcome State Fault Refusal :=
  if (s.half h).mode = .reset then .next s
  else if ok then
    let s := s.upd h fun x => { x with pmbFails := 0 }
    let s := (s.setFld h Reg.PWR_STAT_VDD_MV vout.toNat).setFld h Reg.PWR_STAT_TJ tj.toNat
    .next (updateGuar (s.setFld h Reg.PWR_STAT_STEP_PS stepPs.toNat) h)
  else
    let n := (s.half h).pmbFails + 1
    let s := s.upd h fun x => { x with pmbFails := min n 3 }
    .next (if n = 3 then (s.setFld h Reg.PWR_STAT_PMB_ERR 1).incFld h Reg.PWR_CNT_PMBERR else s)

end Machine

end Sys2Proof
end

