-- ==== Sys2Proof/Machine/Rings.lean ====
section
/-! DEFINITION. The host interface and ring engine (chapter 15): doorbells (R311), fetch and acceptance (R317, R318), the
operations (R315, R316, R320, R322, R326), posts (R321), MSI-X (R325), the deduplication window (R327) and resets (R308). -/

namespace Sys2Proof.Machine

def mRing : Nat := 0x4A

/-- Whether the half's PCIe link is up. -/
def pcieUp (s : State) (h : HalfId) : Bool := s.flag h Reg.HIF_STAT_LINK

/-- Whether the ring engine is on. -/
def ringEngineOn (s : State) (h : HalfId) : Bool := s.flag h Reg.HIF_CTRL_EN

-- doorbells (R311)

/-- A new command producer: none where it would overfill the ring or move back past accepted entries. -/
def bellCmd (r : Ring) (v : Nat) : Option Ring :=
  let n := ringHolds v r.cons
  if 2 ^ r.log2 ≤ n then none else some { r with prod := v, fetched := r.fetched.take n }

/-- A new reply consumer: none where it moves back, or past what was written. -/
def bellReply (r : Ring) (v : Nat) : Option Ring :=
  if ringHolds r.area.prod r.area.cons < ringHolds v r.area.cons then none
  else some (if r.isCmd then { r with rcons := v } else { r with cons := v })

/-- A doorbell write's effect on a ring; none where it is ignored and counted. -/
def bell (n : Nat) (r : Ring) (v : Nat) : Option Ring :=
  if n = 0 then
    if 2 ^ 32 ≤ v then none else (bellCmd r (v % 65536)).bind fun r => bellReply r (v / 65536)
  else if 2 ^ 16 ≤ v then none
  else if r.isCmd then bellCmd r v else bellReply r v

/-- A doorbell in Watch starts a wake (R311). -/
def doorbellWake (s : State) : State := if deviceMode s = .watch ∧ !s.waking then beginWake s .doorbell else s

/-- DOORBELL: the host's aligned 8-byte write to a ring's doorbell. -/
def execDoorbell (h : HalfId) (ring : BitVec 17) (v : Word) (s : State) : Host.Outcome State Fault Refusal :=
  if !pcieUp s h then .next s else
  match (ringOf s h ring.toNat).bind fun r => bell ring.toNat r v.toNat with
  | some r => .next (doorbellWake (setRing s h ring.toNat (some r)))
  | none => .next (hifCount s h Reg.HIF_CNT_DB_BAD)

-- fetch (R317)

/-- Entries of a command ring that wait to be read. -/
def unfetched (r : Ring) : Nat := if r.isCmd then ringHolds r.prod r.cons - r.fetched.length else 0

/-- The next ring with new entries in the rotation after ring `turn`. -/
def nextRing (s : State) (h : HalfId) : Option Nat :=
  let ns := (s.half h).hif.rings.filterMap fun p => match p.2 with | some r => if unfetched r = 0 then none else some p.1 | none => none
  match ns.find? ((s.half h).hif.turn < ·) with
  | some n => some n
  | none => ns.head?

/-- Reads the descriptors i, i + 1, … of a ring; one whose read failed comes as an empty list. -/
def readDescs (h : HalfId) (r : Ring) : Nat → Nat → State → List (List Byte) × State
  | 0, _, s => ([], s)
  | n + 1, i, s =>
    let d := hostRead s h (r.base + 64 * (i % 2 ^ r.log2)) 64
    let x := readDescs h r n (i + 1) d.2.2
    ((if d.2.1 then [] else d.1) :: x.1, x.2)

/-- DESCRIPTOR_FETCH: up to 64 descriptors of the next ring in rotation; fetching needs Run or Safe (R311, R323). -/
def execDescriptorFetch (h : HalfId) (s : State) : Host.Outcome State Fault Refusal :=
  if !pcieUp s h ∨ !ringEngineOn s h ∨ !(s.inMode h .run || s.inMode h .safe) then .next s else
  match nextRing s h with
  | none => .next s
  | some n =>
    let q := readRing s h n
    let s := q.2
    match (if q.1 then none else ringOf s h n) with
    | none => .next s
    | some r =>
      let x := readDescs h r (min 64 (unfetched r)) (r.cons + r.fetched.length) s
      .next ((setRing x.2 h n (some { r with fetched := r.fetched ++ x.1 })).upd h fun y => { y with hif := { y.hif with turn := n } })

-- acceptance (R314, R315, R317, R318, R327)

/-- Address of a thread's command mailbox (R320). -/
def mailboxAddr (s : State) (h : HalfId) (t : Nat) : Nat := s.fld h Reg.HIF_MBASE_BASE * 0x8000000 + 1024 * t

/-- Whether the index words of a thread's mailbox read poisoned (R173). -/
def mailboxPoison (s : State) (h : HalfId) (t : Nat) : Bool := (unitRead s h mRing (mailboxAddr s h t) 32).1.poison

/-- Entries a thread's mailbox holds. -/
def mailboxHolds (s : State) (h : HalfId) (t : Nat) : Nat × State :=
  let b := unitRead s h mRing (mailboxAddr s h t) 32
  ((fieldLE b.1.bytes 0 4 + 2 ^ 32 - fieldLE b.1.bytes 0x10 4) % 2 ^ 32, b.2)

/-- Whether an operation may come on a ring (Table 15.5). -/
def ringOp (ring op : Nat) : Bool := op == 5 || (if ring = 0 then 1 ≤ op && op ≤ 4 else 0x10 ≤ op && op ≤ 0x13)

/-- FLAGS bits an operation may set, IND and SILENT apart. -/
def flagsOk (op flags : Nat) : Bool :=
  (op == 0x10 || !flags.testBit 5) && (op == 0x12 || !flags.testBit 4) && flags % 16 == 0

/-- What is wrong with a descriptor's form: BAD_OP, BAD_FIELD or nothing (R314, R315). -/
def descForm (ring : Nat) (d : List Byte) : Nat :=
  let op := dOp d
  let ind := (dFlags d).testBit 7
  if !ringOp ring op then statusOf 1 1
  else if fieldLE d 0x08 2 ≠ 0 ∨ fieldLE d 0x0C 2 ≠ 0 ∨ !flagsOk op (dFlags d) ∨ (op ≠ 0x10 ∧ dFormat d ≠ 0) ∨ 2 ^ 17 ≤ dTarget d then
    statusOf 1 2
  else if op = 0x13 then (if dLen d < 1 ∨ 64 < dLen d ∨ dPaddr d % 32 ≠ 0 then statusOf 1 2 else 0)
  else if 4096 < dLen d ∨ (!ind ∧ 32 < dLen d) then statusOf 1 2
  else if !ind && ((sliceB d 0x20 32).drop (dLen d)).any (· != 0) then statusOf 1 2
  else 0

/-- Whether Flume can take outbound work for a session (R220): nothing waits for room in its send area. -/
def flumeTakes (s : State) (h : HalfId) (n : Nat) : Bool :=
  !s.flag h Reg.FLM_CTRL_EN || !(s.half h).flm.out.any (·.session == n)

/-- The first local part of a part list. -/
def firstLocal (parts : List Byte) : Option (List Byte) :=
  ((List.range (parts.length / 32)).map fun i => sliceB parts (32 * i) 32).find? fun p => fieldLE p 0 2 % 512 == 511

/-- The first unused tag from `n` on. -/
def freeTag (s : State) (h : HalfId) : Nat → Nat → Nat
  | 0, n => n
  | f + 1, n => if (inFlight s h n).isSome then freeTag s h f ((n + 1) % 32768) else n

/-- Reads what a descriptor needs from host memory before it runs: a parameter block or a part list; none where that
failed. -/
def readParams (s : State) (h : HalfId) (d : List Byte) : Option (List Byte × List Byte) × State :=
  let op := dOp d
  if op = 0x13 then
    let r := hostRead s h (dPaddr d) (32 * dLen d)
    (if r.2.1 then none else some ([], r.1), r.2.2)
  else if op = 0x11 then (some ([], []), s)
  else if (dFlags d).testBit 7 then
    let r := hostRead s h (dPaddr d) (dLen d)
    (if r.2.1 then none else some (r.1, []), r.2.2)
  else (some (sliceB d 0x20 (dLen d), []), s)

/-- Table 15.7, apart from the first two rows and the last. -/
def targetTakes (s : State) (h : HalfId) (d : List Byte) : Bool × State :=
  match dOp d with
  | 0x10 => (flumeTakes s h (dTarget d), s)
  | 0x11 =>
    let t := dTarget d
    let m := mailboxHolds s h t
    let ahead := ((s.half h).hif.inflight.filter fun e => dOp e.desc == 0x11 && dTarget e.desc == t && e.begun == 0).length
    (decide (m.1 + ahead < 15), m.2)
  | 0x13 =>
    let r := hostRead s h (dPaddr d) (32 * min (dLen d) 64)
    (match firstLocal r.1 with
     | some p => fieldLE p 2 1 != 0x10 || flumeTakes s h (fieldLE p 4 4)
     | none => true, s)
  | _ => (true, s)

/-- What the deduplication window says of a command (R327): a status that ends it, or the mask of parts to skip. -/
def windowSays (s : State) (h : HalfId) (d : List Byte) : Except (Nat × Nat) Nat :=
  if dCmdid d = 0 then .ok 0 else
  match dedupFind s h (dCmdid d) none with
  | some e =>
    if e.busy then .error (statusOf 1 6, 0)
    else if e.op.toNat ≠ dOp d ∨ e.target ≠ dTarget d ∨ e.len ≠ dLen d then .error (statusOf 1 7, 0)
    else
      let all := if dOp d = 0x13 then 2 ^ dLen d - 1 else 1
      if e.mask % (all + 1) = all then .error (1, e.mask) else .ok e.mask
  | none => if 4096 ≤ (s.half h).hif.dedup.length then .error (statusOf 8 2, 0) else .ok 0

/-- Makes or reopens a command's window entry. -/
def openWindow (s : State) (h : HalfId) (d : List Byte) : State :=
  if dCmdid d = 0 then s
  else if (dedupFind s h (dCmdid d) none).isSome then dedupUpd s h (dCmdid d) none fun e => { e with busy := true, doneAt := none }
  else s.upd h fun x => { x with hif := { x.hif with
    dedup := x.hif.dedup ++ [⟨BitVec.ofNat 64 (dCmdid d), BitVec.ofNat 8 (dOp d), dTarget d, dLen d, 0, true, none, none⟩] } }

/-- Accepts the head descriptor of a ring: it is in flight with a reserved reply slot, and runs unless its form, the
window, Safe or its parameters end it at once. -/
def acceptDesc (s : State) (h : HalfId) (n rr : Nat) (r x : Ring) (d : List Byte) : State :=
  let s := setRing s h n (some { r with cons := (r.cons + 1) % 65536, fetched := r.fetched.drop 1 })
  let s := match ringOf s h rr with
    | some y => setRing s h rr (some { y with reserved := x.reserved + 1 })
    | none => s
  let tag := freeTag s h 32768 (s.half h).hif.nextTag
  let put (s : State) (e : InFlight) : State := s.upd h fun y => { y with hif := { y.hif with
    inflight := y.hif.inflight ++ [e], nextTag := (tag + 1) % 32768 } }
  let e : InFlight := ⟨tag, n, d, [], none, [], [], 0, 0, 0, false, []⟩
  let fail (s : State) (st part : Nat) : State := completeWith (put s e) h tag st part 0
  if d.isEmpty then fail s (statusOf 1 5) 0
  else if s.inMode h .safe ∧ ¬(dOp d = 3 ∨ dOp d = 4 ∨ dOp d = 5) then fail s (statusOf 8 1) 0
  else if descForm n d ≠ 0 then fail s (descForm n d) 0
  else match windowSays s h d with
  | .error (st, part) => fail s st part
  | .ok skip =>
    let e := { e with owns := dCmdid d != 0, skip }
    match readParams (openWindow s h d) h d with
    | (none, s) => completeWith (put s e) h tag (statusOf 1 5) 0 0
    | (some (params, list), s) =>
      let parts := if dOp d = 0x13 then (List.range (dLen d)).map fun k => if skip.testBit k then some 0 else none else []
      put s { e with params, partList := list, parts }

/-- ACCEPTANCE: the head descriptor of a ring, once the conditions of Table 15.7 hold. -/
def execAcceptance (h : HalfId) (ring : BitVec 17) (s : State) : Host.Outcome State Fault Refusal :=
  let n := ring.toNat
  let q := readRing s h n
  let s := q.2
  match (if q.1 then none else ringOf s h n) with
  | none => .next s
  | some r =>
    let rr := replyRingOf n r
    match r.fetched, ringOf s h rr with
    | d :: _, some x =>
      if 32768 ≤ (s.half h).hif.inflight.length ∨ x.freeSlots ≤ x.reserved ∨ !(s.inMode h .run || s.inMode h .safe) then .next s
      else
        .next (unitCmd h (fun s =>
          let t := targetTakes s h d
          if t.1 then acceptDesc t.2 h n rr r x d else t.2) s)
    | _, _ => .next s

-- operations

/-- Runs an accepted descriptor of an operation that has not started. -/
def runOp (h : HalfId) (tag op : Nat) (f : State → InFlight → State) (s : State) : Host.Outcome State Fault Refusal :=
  match inFlight s h tag with
  | none => .next s
  | some e =>
    if dOp e.desc ≠ op ∨ e.begun ≠ 0 ∨ (s.half h).hif.waiting.any (·.tag == some tag) then .next s
    else .next (unitCmd h (fun s => f (setInFlight s h tag fun x => { x with begun := 1 }) e) s)

/-- What CREATE_RING's parameters are refused with, if anything (R316). -/
def createForm (s : State) (h : HalfId) (d : List Byte) : Nat :=
  let n := fieldLE d 0x28 4
  let log2 := fieldLE d 0x2C 1
  let kind := fieldLE d 0x2D 1
  let vec := fieldLE d 0x2E 2
  let reply := fieldLE d 0x30 4
  if fieldLE d 0x20 8 % 4096 ≠ 0 ∨ log2 < 4 ∨ 16 < log2 ∨ kind < 1 ∨ 2 < kind ∨ 2 ^ 17 ≤ n ∨ 2 ^ 17 ≤ reply ∨
      nbits vec 14 10 ≠ 0 ∨ fieldLE d 0x38 8 ≠ 0 ∨ (kind = 2 ∧ fieldLE d 0x34 2 = 0) then statusOf 1 2
  else if n = 0 ∨ (ringOf s h n).isSome then statusOf 1 3
  else if kind = 1 ∧ (reply = 0 ∨ !((ringOf s h reply).map (·.isReply)).getD false) then statusOf 1 3
  else 0

/-- The ring that CREATE_RING's parameters describe, all indices 0. -/
def newRing (d : List Byte) : Ring :=
  let cmd := fieldLE d 0x2D 1 == 1
  let vec := fieldLE d 0x2E 2
  ⟨cmd, !cmd, fieldLE d 0x20 8, fieldLE d 0x2C 1, 0, 0, 0, 4, 0, 0, 0, fieldLE d 0x30 4, !cmd && vec.testBit 15, vec % 1024,
    fieldLE d 0x34 2, fieldLE d 0x36 2, 0, 0, none, []⟩

/-- A ring's context is written whole. -/
def putRing (s : State) (h : HalfId) (n : Nat) (r : Ring) : State :=
  writeUnit ((setRing s h n (some r)).upd h fun x => { x with hif := { x.hif with goneRings := x.hif.goneRings.del n } }) h mRing 5 (64 * n) 64

/-- CREATE_RING (R316). -/
def execCreateRing (h : HalfId) (tag : BitVec 15) (s : State) : Host.Outcome State Fault Refusal :=
  runOp h tag.toNat 1 (fun s e =>
    let st := createForm s h e.desc
    if st ≠ 0 then complete s h tag.toNat st
    else complete (putRing s h (fieldLE e.desc 0x28 4) (newRing e.desc)) h tag.toNat 0) s

/-- Whether a valid listener names a ring, and the state after the reads of the entries. -/
def listenerNames (s : State) (h : HalfId) (n : Nat) : Bool × State :=
  (listenersSet s h).foldl (fun (a : Bool × State) l =>
    let r := readListener a.2 h l
    (a.1 || r.1.any (·.ring == n), r.2)) (false, s)

/-- Whether DESTROY_RING finds a ring busy (R316). -/
def ringBusy (s : State) (h : HalfId) (n : Nat) (r : Ring) : Bool × State :=
  if r.isCmd then ((s.half h).hif.inflight.any (·.ring == n), s)
  else if (s.half h).hif.rings.any (fun p => match p.2 with | some c => c.isCmd && p.1 != 0 && c.reply == n | none => false) ||
      (s.half h).flm.sessions.any (fun p => p.2.state != .free && p.2.ring == n) then (true, s)
  else listenerNames s h n

/-- DESTROY_RING (R316): records that still wait for the ring are discarded and counted. -/
def execDestroyRing (h : HalfId) (tag : BitVec 15) (s : State) : Host.Outcome State Fault Refusal :=
  runOp h tag.toNat 2 (fun s e =>
    let n := fieldLE e.desc 0x20 4
    match (if n = 0 then none else ringOf s h n) with
    | none => complete s h tag.toNat (statusOf 1 3)
    | some r =>
      let q := ringBusy s h n r
      let s := q.2
      if q.1 then complete s h tag.toNat (statusOf 1 8)
      else
        let lost := (s.half h).hif.waiting.filter (·.ring == n)
        let s := (setRing s h n none).upd h fun x => { x with hif := { x.hif with waiting := x.hif.waiting.filter (·.ring != n) } }
        complete (lost.foldl (fun s _ => hifCount s h Reg.HIF_CNT_NORING) s) h tag.toNat 0) s

/-- ACK_ATTN (R322): clears the causes of the mask, but for those raised again since it was accepted. -/
def execAckAttn (h : HalfId) (tag : BitVec 15) (s : State) : Host.Outcome State Fault Refusal :=
  runOp h tag.toNat 3 (fun s e =>
    let m := fieldLE e.desc 0x20 2
    let s := (List.range 15).foldl (fun s v =>
      if m.testBit v && !e.again.testBit v then s.clearBit h Reg.HIF_ATTN_PEND v else s) s
    complete s h tag.toNat 0) s

/-- QUERY_RING (Table 15.5). -/
def execQueryRing (h : HalfId) (tag : BitVec 15) (s : State) : Host.Outcome State Fault Refusal :=
  runOp h tag.toNat 4 (fun s e =>
    match ringOf s h (fieldLE e.desc 0x20 4) with
    | none => complete s h tag.toNat (statusOf 1 3)
    | some r => completeWith s h tag.toNat 0 (r.prod * 2 ^ 48 + r.cons * 2 ^ 32 + r.reserved % 65536 * 2 ^ 16) 0) s

/-- NOP. -/
def execNopCommand (h : HalfId) (tag : BitVec 15) (s : State) : Host.Outcome State Fault Refusal :=
  runOp h tag.toNat 5 (fun s _ => complete s h tag.toNat 0) s

/-- SEND's work: a frame request for Mill, where Flume runs and the session is open (R21, R440). -/
def sendFrame (s : State) (h : HalfId) (src : ReqFrom) (n format : Nat) (kupd : Bool) (params : List Byte) : State :=
  if !s.flag h Reg.FLM_CTRL_EN then endRequest s h src (statusOf 8 3)
  else if 65536 ≤ n ∨ (session s h n).state ≠ .opened then endRequest s h src (statusOf 1 4)
  else updMil s h fun m => { m with jobs := m.jobs ++ [.build ⟨n, src, format, kupd, params⟩] }

/-- RAW's work: the whole frame is queued to a sub-port. -/
def sendRaw (s : State) (h : HalfId) (src : ReqFrom) (sub : Nat) (stamp : Bool) (frame : List Byte) : State :=
  if 4 ≤ sub then endRequest s h src (statusOf 1 4)
  else
    let s := ethSend s h ⟨sub, frame, framePrio s h frame, stamp⟩
    endRequest s h src 0

/-- Copies a descriptor into a thread's mailbox, advances PROD and raises DOORBELL (R320). -/
def putMailbox (s : State) (h : HalfId) (t : Nat) (d : List Byte) : State :=
  let a := mailboxAddr s h t
  let b := unitRead s h mRing a 4
  let prod := fieldLE b.1.bytes 0 4
  let s := unitWrite b.2 h mRing (a + 0x40 + 64 * (prod % 15)) d
  fmnEvent (unitWrite s h mRing a (leBytes 4 ((prod + 1) % 2 ^ 32))) h t 0

/-- Whether a thread can take a DELIVER. -/
def threadTakes (s : State) (h : HalfId) (t : Nat) : Bool := (s.thread h t).state != .free && (s.thread h t).state != .aborted

/-- Whether an in-flight descriptor has still to bring a frame request for a session to Flume. -/
def sendsTo (s : State) (h : HalfId) (n : Nat) (e : InFlight) : Bool :=
  !(s.half h).hif.waiting.any (·.tag == some e.tag) &&
    match dOp e.desc with
    | 0x10 => e.begun == 0 && dTarget e.desc == n
    | 0x13 => (List.range e.parts.length).any fun k =>
        let p := sliceB e.partList (32 * k) 32
        !e.begun.testBit k && (e.parts.getD k none).isNone && fieldLE p 2 1 == 0x10 && fieldLE p 0 2 % 512 == 511 && fieldLE p 4 4 == n
    | _ => false

/-- Whether every earlier command of the descriptor's ring that names the session has reached Flume (R315). -/
def inTurn (s : State) (h : HalfId) (tag ring n : Nat) : Bool :=
  ((s.half h).hif.inflight.takeWhile (·.tag != tag)).all fun f => f.ring != ring || !sendsTo s h n f

/-- The same of a SEND. -/
def sendTurn (s : State) (h : HalfId) (tag : Nat) : Bool :=
  match inFlight s h tag with
  | some e => inTurn s h tag e.ring (dTarget e.desc)
  | none => true

/-- SEND, when its turn among the commands of its ring for the session has come (R315). -/
def execSend (h : HalfId) (tag : BitVec 15) (s : State) : Host.Outcome State Fault Refusal :=
  if !sendTurn s h tag.toNat then .next s else
  runOp h tag.toNat 0x10 (fun s e =>
    sendFrame s h (.command tag.toNat none) (dTarget e.desc) (dFormat e.desc) ((dFlags e.desc).testBit 5) e.params) s

/-- DELIVER (R320); a mailbox whose index reads poisoned ends it (R173, R324). -/
def execDeliver (h : HalfId) (tag : BitVec 15) (s : State) : Host.Outcome State Fault Refusal :=
  runOp h tag.toNat 0x11 (fun s e =>
    let t := dTarget e.desc
    if !threadTakes s h t then complete s h tag.toNat (statusOf 2 1)
    else if mailboxPoison s h t then complete (mailboxHolds s h t).2 h tag.toNat (statusOf 6 2)
    else putMailbox (setInFlight s h tag.toNat fun x => { x with thread := some t }) h t (patchB e.desc 8 (leBytes 2 tag.toNat))) s

/-- RAW. -/
def execRaw (h : HalfId) (tag : BitVec 15) (s : State) : Host.Outcome State Fault Refusal :=
  runOp h tag.toNat 0x12 (fun s e =>
    sendRaw s h (.command tag.toNat none) (dTarget e.desc) ((dFlags e.desc).testBit 4) e.params) s

-- group parts (R326)

/-- What is wrong with a part's form (Table 15.10). -/
def partForm (p : List Byte) : Nat :=
  let op := fieldLE p 2 1
  let fl := fieldLE p 3 1
  if !(op == 0x10 || op == 0x11 || op == 0x12) then statusOf 1 1
  else if 512 ≤ fieldLE p 0 2 ∨ 2 ^ 17 ≤ fieldLE p 4 4 ∨ (op ≠ 0x10 ∧ fieldLE p 8 4 ≠ 0) ∨ 65536 ≤ fieldLE p 8 4 ∨
      fieldLE p 0x0C 2 ≠ 0 ∨ fieldLE p 0x10 4 ≠ 0 ∨ 4096 < fieldLE p 0x14 4 ∨ 64 ≤ fl ∨ !flagsOk op fl then statusOf 1 2
  else 0

/-- The descriptor that a DELIVER part puts into a mailbox: no TAG; parameters inline where they are at hand and fit. -/
def partDesc (cmdid : Nat) (p : List Byte) (params : Option (List Byte)) : List Byte :=
  let len := fieldLE p 0x14 4
  let inl := match params with | some b => if b.length ≤ 32 then some b else none | none => none
  leBytes 8 cmdid ++ leBytes 2 0 ++ [0x11, if inl.isSome || len = 0 then 0 else 0x80] ++ zerosB 4 ++ leBytes 4 (fieldLE p 4 4) ++
  leBytes 4 len ++ leBytes 8 (if inl.isSome || len = 0 then 0 else fieldLE p 0x18 8) ++ sliceB (inl.getD []) 0 32

/-- Runs one part on this half; `inl` = its parameters came with it. None where it must wait for its mailbox. -/
def runPart (s : State) (h : HalfId) (src : ReqFrom) (cmdid : Nat) (p params : List Byte) (inl : Bool) : Option State :=
  let t := fieldLE p 4 4
  let fl := fieldLE p 3 1
  if partForm p ≠ 0 then some (endRequest s h src (partForm p))
  else if s.inMode h .safe then some (endRequest s h src (statusOf 8 1))
  else match fieldLE p 2 1 with
  | 0x10 => some (sendFrame s h src t (fieldLE p 8 4) (fl.testBit 5) params)
  | 0x12 => some (sendRaw s h src t (fl.testBit 4) params)
  | _ =>
    if !threadTakes s h t then some (endRequest s h src (statusOf 2 1))
    else
      let m := mailboxHolds s h t
      if mailboxPoison s h t then some (endRequest m.2 h src (statusOf 6 2))
      else if 15 ≤ m.1 then none
      else some (endRequest (putMailbox m.2 h t (partDesc cmdid p (if inl then some params else none))) h src 0)

/-- Sends a part to another node's ring engine with its parameters. -/
def sendPart (s : State) (h : HalfId) (tag k cmdid : Nat) (p params : List Byte) : State :=
  let n := fieldLE p 0 2 % 512
  if n ≠ ownNode s h ∧ (nodeState s h n).1 ≠ 1 then partEnd s h tag k (statusOf 5 1)
  else
    let x := takeTxn s h
    let pkt := { newPacket x.2 h n 7 0 (p ++ params) with
      addr := BitVec.ofNat 64 cmdid, seq := BitVec.ofNat 32 k, txn := BitVec.ofNat 11 x.1 }
    let r := sendPacket x.2 h pkt
    if r.1 then r.2 else partEnd r.2 h tag k (statusOf 5 1)

/-- Starts part k of a group that has not begun; a SEND's when its turn has come (R315). -/
def startPart (h : HalfId) (tag : Nat) (s : State) (k : Nat) : State :=
  match inFlight s h tag with
  | none => s
  | some e =>
    if e.begun.testBit k ∨ (e.parts.getD k none).isSome then s else
    let p := sliceB e.partList (32 * k) 32
    if fieldLE p 2 1 = 0x10 ∧ fieldLE p 0 2 % 512 = 511 ∧ !inTurn s h tag e.ring (fieldLE p 4 4) then s else
    let mark (s : State) : State := setInFlight s h tag fun x => { x with
      begun := x.begun ||| 2 ^ k, sentAt := SMap.set (fun _ => 0) x.sentAt k s.elapsed }
    if partForm p ≠ 0 then partEnd (mark s) h tag k (partForm p)
    else
      let local_ := fieldLE p 0 2 % 512 = 511
      let deliver := fieldLE p 2 1 = 0x11
      let r : List Byte × Bool × State :=
        if fieldLE p 0x14 4 = 0 ∨ (local_ ∧ deliver) then ([], false, s) else hostRead s h (fieldLE p 0x18 8) (fieldLE p 0x14 4)
      if r.2.1 then partEnd (mark r.2.2) h tag k (statusOf 1 5)
      else if local_ then
        (runPart (mark r.2.2) h (.command tag (some k)) (dCmdid e.desc) p r.1 false).getD s
      else sendPart (mark r.2.2) h tag k (dCmdid e.desc) p r.1

/-- GROUP: starts the parts in index order; sent again, it starts those that had to wait. -/
def execGroup (h : HalfId) (tag : BitVec 15) (s : State) : Host.Outcome State Fault Refusal :=
  match inFlight s h tag.toNat with
  | none => .next s
  | some e =>
    if dOp e.desc ≠ 0x13 then .next s
    else .next (unitCmd h (fun s => (List.range e.parts.length).foldl (startPart h tag.toNat) s) s)

/-- PART_TIMEOUT: a remote part that began 10 ms ago and has no result. -/
def execPartTimeout (h : HalfId) (tag : BitVec 15) (part : Fin 64) (s : State) : Host.Outcome State Fault Refusal :=
  match inFlight s h tag.toNat with
  | none => .next s
  | some e =>
    if dOp e.desc = 0x13 ∧ e.begun.testBit part.val ∧ fieldLE e.partList (32 * part.val) 2 % 512 ≠ 511 ∧
        SMap.get (fun _ => 0) e.sentAt part.val + 10000000 ≤ s.elapsed then .next (partEnd s h tag.toNat part.val (statusOf 5 3))
    else .next s

-- reply records and posts (R319, R321)

/-- REPLY_RECORD_WRITE. -/
def execReplyRecordWrite (h : HalfId) (ring : BitVec 17) (s : State) : Host.Outcome State Fault Refusal :=
  if pcieUp s h ∧ ringEngineOn s h then .next (writeNext s h ring.toNat) else .next s

/-- A tag that a reset removed has had its reply. -/
def forgetTag (s : State) (h : HalfId) (tag : Nat) : State := updHif s h fun x => { x with gone := x.gone.filter (·.1 != tag) }

/-- A reply post's handling (R321); one for a tag or a ring that a reset removed is discarded and counted as R308 says. -/
def replyPost (s : State) (h : HalfId) (p : Post) : State :=
  let rec_ := p.bytes.take 32
  let rw := fieldLE p.bytes 0x20 4
  let tag := fieldLE p.bytes 0x24 2
  let kind := fieldLE rec_ 0x1E 1
  let bad := hifCount s h Reg.HIF_CNT_POST_BAD
  if kind.testBit 6 ∧ kind % 64 ≠ 1 then bad
  else if rw.testBit 31 then
    match inFlight s h tag with
    | none => if (s.half h).hif.gone.contains (tag, p.thread) then hifCount (forgetTag s h tag) h Reg.HIF_CNT_NORING else bad
    | some e =>
      if e.thread ≠ some p.thread ∨ dOp e.desc ≠ 0x11 ∨ !kind.testBit 6 ∨ (s.half h).hif.waiting.any (·.tag == some tag) then bad
      else completeRecord s h tag (fieldLE rec_ 0x1C 2 % 4096) 1
        (patchB (patchB rec_ 0 (leBytes 8 (dCmdid e.desc))) 0x18 (leBytes 4 e.ring))
  else
    let n := rw % 2 ^ 17
    match ringOf s h n with
    | some r => if r.takesReplies then
        s.upd h fun x => { x with hif := { x.hif with waiting := x.hif.waiting ++ [⟨n, rec_, none, none, true⟩] } } else bad
    | none => if (s.half h).hif.goneRings.contains n then hifCount s h Reg.HIF_CNT_NORING else bad

/-- Takes the first post of a kind off the queue. -/
def takePost (s : State) (h : HalfId) (frame : Bool) : Option (Post × State) :=
  ((s.half h).hif.posts.find? (·.frame == frame)).map fun p =>
    (p, s.upd h fun x => { x with hif := { x.hif with posts := x.hif.posts.erase p } })

/-- REPLY_POST. -/
def execReplyPost (h : HalfId) (s : State) : Host.Outcome State Fault Refusal :=
  match takePost s h false with
  | some (p, s) => .next (replyPost s h p)
  | none => .next s

/-- A frame post's handling (R321): a Table 15.4 descriptor with OP SEND or RAW, IND = 0 and LEN ≤ 32. A RAW post names no
session, so no reply ring: it makes no record. The failure of a SEND for a session that is FREE, or is none, has no reply ring
either: it is discarded and counted as R308 counts them. -/
def framePost (s : State) (h : HalfId) (p : Post) : State :=
  let d := p.bytes
  let n := dTarget d
  let x := session s h n
  let src : ReqFrom := .post p.thread (BitVec.ofNat 64 (dCmdid d)) x.ring (dSilent d)
  let form := descForm 1 d
  if dOp d = 0x12 then
    if form ≠ 0 ∨ (dFlags d).testBit 7 ∨ 4 ≤ n then s
    else
      let f := sliceB d 0x20 (dLen d)
      ethSend s h ⟨n, f, framePrio s h f, (dFlags d).testBit 4⟩
  else if 65536 ≤ n ∨ x.state = .free then hifCount s h Reg.HIF_CNT_NORING
  else if dOp d ≠ 0x10 then endRequest s h src (statusOf 1 1)
  else if form ≠ 0 then endRequest s h src form
  else if (dFlags d).testBit 7 then endRequest s h src (statusOf 1 2)
  else if x.thread ≠ some p.thread then endRequest s h src (statusOf 2 2)
  else sendFrame s h src n (dFormat d) ((dFlags d).testBit 5) (sliceB d 0x20 (dLen d))

/-- FRAME_POST. -/
def execFramePost (h : HalfId) (s : State) : Host.Outcome State Fault Refusal :=
  match takePost s h true with
  | some (p, s) => .next (framePost s h p)
  | none => .next s

-- MSI-X (R325)

/-- MSIX_MODERATION_TIMEOUT: MOD_US have passed since a ring's first unsignalled record. -/
def execMsixModerationTimeout (h : HalfId) (ring : BitVec 17) (s : State) : Host.Outcome State Fault Refusal :=
  match ringOf s h ring.toNat with
  | none => .next s
  | some r =>
    match r.firstAt with
    | none => .next s
    | some t =>
      if r.vecOn ∧ t + 1000 * r.modUs ≤ s.elapsed then
        .next (signalVector (setRing s h ring.toNat (some { r with unsignalled := 0, firstAt := none })) h r.vec)
      else .next s

/-- A vector's mask falls: a signal that was pending for it is sent. -/
def unmask (s : State) (h : HalfId) (v : Nat) : State :=
  let pend := (s.half h).hif.msixPend.contains v
  let s := s.upd h fun x => { x with hif := { x.hif with msixOn := x.hif.msixOn.add v, msixPend := x.hif.msixPend.del v } }
  if pend then sendMsix s h v else s

/-- MSIX_VECTOR_UNMASK: a signal that was pending for the vector is sent. -/
def execMsixVectorUnmask (h : HalfId) (vector : BitVec 10) (s : State) : Host.Outcome State Fault Refusal :=
  let v := vector.toNat
  if !pcieUp s h then .next s else
  .next (unmask s h v)

/-- A host write to the MSI-X table (Table 15.2): an aligned one of 4 or 8 bytes; bit 0 of an entry's vector control is the vector's mask,
whose other bits are reserved. -/
def msixWrite (s : State) (h : HalfId) (off : Nat) (bs : List Byte) : State :=
  if !(bs.length == 4 || bs.length == 8) ∨ off % bs.length ≠ 0 ∨ !pcieUp s h then s else
  let k := off / 8
  let old := leBytes 8 (msixWord s h k).toNat
  let new := leNat (patchB old (off % 8) bs)
  let s := updHif s h fun x => { x with
    msixTable := SMap.set (fun _ => 0) x.msixTable k (BitVec.ofNat 64 (if k % 2 = 1 then new % 2 ^ 32 else new)) }
  if k % 2 = 0 ∨ off % 8 + bs.length ≤ 4 then s
  else if new.testBit 32 then updHif s h fun x => { x with msixOn := x.msixOn.del (k / 2) }
  else unmask s h (k / 2)

-- enabling, resets and the PCIe function (R305–R308, R313)

/-- Every ring returns to not created; the in-flight set and the window are emptied; waiting records but notices are
discarded and counted (R308). -/
def destroyRings (s : State) (h : HalfId) : State :=
  let lost := (s.half h).hif.waiting.filter fun w => w.ring != 0 || w.tag.isSome
  let s := s.upd h fun x => { x with hif := { x.hif with
    gone := x.hif.gone ++ x.hif.inflight.filterMap fun e => e.thread.map fun t => (e.tag, t)
    goneRings := (x.hif.rings.map (·.1)).foldl NatSet.add x.hif.goneRings
    rings := [], inflight := [], dedup := [], waiting := x.hif.waiting.filter fun w => w.ring == 0 && w.tag.isNone } }
  lost.foldl (fun s _ => hifCount s h Reg.HIF_CNT_NORING) s

/-- HIF_CTRL.EN goes to 1: ring 0 is created from the HIF registers (R313). -/
def createRing0 (s : State) (h : HalfId) : State :=
  let f := s.fld h
  putRing s h 0 ⟨true, true, f Reg.HIF_MCMD_BASE * 4096, f Reg.HIF_MCMD_LOG2, 0, 0, f Reg.HIF_MRPL_BASE * 4096,
    f Reg.HIF_MRPL_LOG2, 0, 0, 0, 0, f Reg.HIF_MMOD_IRQ == 1, f Reg.HIF_MMOD_VEC, f Reg.HIF_MMOD_MOD_COUNT,
    f Reg.HIF_MMOD_MOD_US, 0, 0, none, []⟩

/-- HOST_INTERFACE_RESET (R308): LOCK and ERR_WR go with the block's other registers (R9). HIF_STAT.LINK, which shows the link
itself, stays. -/
def execHostInterfaceReset (h : HalfId) (s : State) : Host.Outcome State Fault Refusal :=
  let link := s.fld h Reg.HIF_STAT_LINK
  let s := s.upd h fun x => { x with
    regs := x.regs.filter fun r => r.1 / 0x10000 != 5
    hif := { x.hif with msixOn := [], msixPend := [], msixTable := [], poisoned := [], aer := [] } }
  .next ((destroyRings s h).setFld h Reg.HIF_STAT_LINK link)

/-- What the host reads of PAIR in BAR4 (R307, Table 15.3): the two captured function numbers and the half. -/
def pairWord (s : State) (h : HalfId) : Nat :=
  let own := match (s.half h).hif.ownBdf with | some b => b.toNat | none => 0
  let bit := if h = .west then 2 ^ 48 else 0
  match (s.half h).hif.peerBdf with
  | some b => own + b.toNat * 0x10000 + bit + 2 ^ 49
  | none => own + bit

/-- What a host read of 8 bytes of BAR4 gives (Table 15.2): the copy of IDV_DEVICE (R3), PKG_SERIAL, PAIR, and 0 elsewhere (R306). -/
def bar4Word (s : State) (h : HalfId) (off : Nat) : Nat :=
  match off with
  | 0x000 => regWord s h 0 0
  | 0x008 => s.otp.serial.toNat
  | 0x010 => pairWord s h
  | _ => 0

/-- Eight pending bits of the MSI-X array from vector v on. -/
def pendingBits (s : State) (h : HalfId) (v n : Nat) : Nat :=
  (List.range n).foldl (fun a i => a + (if (s.half h).hif.msixPend.contains (v + i) then 2 ^ i else 0)) 0

/-- What a host read of 8 bytes of BAR0 gives (Table 15.2, R306): block 0x05, where the post windows read as 0, the MSI-X table with the mask
bits, and its pending-bit array. -/
def bar0Word (s : State) (h : HalfId) (off : Nat) : Nat :=
  if off < 0x10000 then (if postWindow 5 off then 0 else regWord s h 5 off)
  else if 0x100000 ≤ off ∧ off < 0x104000 then
    let k := (off - 0x100000) / 8
    (msixWord s h k).toNat + (if k % 2 = 1 ∧ !(s.half h).hif.msixOn.contains (k / 2) then 2 ^ 32 else 0)
  else if 0x180000 ≤ off ∧ off < 0x180080 then pendingBits s h ((off - 0x180000) / 8 * 64) 64
  else 0

/-- DDR_STAT as the host link and the SMBus read it in every mode but Reset (R175): no row of Tables 15.2 and 20.11 gives its place there (log
entry 163). -/
def ddrStatRead (s : State) (h : HalfId) : Option Nat := if s.inMode h .reset then none else some (regWord s h 0x0D 0)

/-- What the configuration space of either function shows of its kind (Table 15.1): Device ID and class code. -/
def pcieDeviceId : Nat := 0x7160
def pcieClassCode : Nat := 0x0B4000

/-- PCIE_LINK_UP (R405): with PORST_N and the half's PERST_N high the link is up; no function number is captured yet. In Reset
the function is absent (Table 1.6). -/
def execPcieLinkUp (h : HalfId) (s : State) : Host.Outcome State Fault Refusal :=
  if !s.porst ∨ !s.wrst ∨ s.inMode h .reset then .next s else
  let s := s.upd h fun x => { x with perst := true, hif := { x.hif with ownBdf := none } }
  let s := s.upd h.other fun x => { x with hif := { x.hif with peerBdf := none } }
  .next (s.setFld h Reg.HIF_STAT_LINK 1)

/-- BDF_CAPTURE (R307): the first configuration write after link-up; the other half is told through the seam link. -/
def execBdfCapture (h : HalfId) (bdf : BitVec 16) (s : State) : Host.Outcome State Fault Refusal :=
  if !pcieUp s h ∨ (s.half h).hif.ownBdf.isSome then .next s else
  let s := s.upd h fun x => { x with hif := { x.hif with ownBdf := some bdf } }
  if !s.seamUp then .next s
  else .next (s.upd h.other fun x => { x with hif := { x.hif with peerBdf := some bdf } })

/-- COMPLETION_TIMEOUT (R309): the read of a host line fails, so its data come poisoned, and AER reports the time-out (R305). -/
def execCompletionTimeout (h : HalfId) (line : Word) (s : State) : Host.Outcome State Fault Refusal :=
  .next (s.upd h fun x => { x with hif := { x.hif with aer := x.hif.aer.add 14, poisoned := (x.hif.poisoned.filter (· != line.toNat / 64)) ++ [line.toNat / 64] } })

/-- DEDUP_EXPIRY (R327): entries of the CMDID whose latest completion is 60 s old. -/
def execDedupExpiry (h : HalfId) (cmdid : Word) (s : State) : Host.Outcome State Fault Refusal :=
  .next (s.upd h fun x => { x with hif := { x.hif with dedup := x.hif.dedup.filter fun d =>
    !(d.cmdid == cmdid && !d.busy && (match d.doneAt with | some t => t + 60000000000 ≤ s.elapsed | none => false)) } })

end Sys2Proof.Machine
end

