-- ==== Sys2Proof/Machine/RegSpace.lean ====
section
/-! DEFINITION. Writes to the set-up space: who may write (R369, R378, R380, R417), access codes (R9–R11), the limits that
refuse a write (R436 and the register maps), and what a write does besides storing. -/

namespace Sys2Proof.Machine

-- who may write

/-- What a rule makes of a master's write before its value is looked at. -/
inductive Gate where
  | pass | dropped | latchDropped
  deriving DecidableEq, Repr

/-- A latch-protected register (R369): the Warden with the latch writes, the other's write is dropped and logged; another
master's is dropped, and logged too where the register's own rule says so. -/
def latchGate (s : State) (h : HalfId) (mid : Nat) (logAll : Bool) : Gate :=
  if mid = 0x44 ∧ holdsLatch s h then .pass else if mid = 0x44 ∨ logAll then .latchDropped else .dropped

/-- Whether a write to a region entry's CTL would set LOCK. -/
def setsLock (off raw : Nat) : Bool := 0x1000 ≤ off && off < 0x1400 && off % 0x20 == 0 && raw.testBit 62

/-- The gate of a register, 8-byte offset, for a write of `raw`. -/
def gateOf (s : State) (h : HalfId) (mid blk off raw : Nat) : Gate :=
  match blk with
  | 0x02 =>
    if mid = 0x44 ∨ off = 0x38 then .pass
    else if off = 0x60 ∧ mid = 0x4D ∧ (s.dbgGrant.testBit 3 ∨ lcOpen s) then .pass
    else .dropped
  | 0x03 => if off = 0x28 ∨ setsLock off raw then latchGate s h mid false else .pass
  | 0x08 => if off = 0x38 then latchGate s h mid true else .pass
  | 0x0C => if off = 0x08 ∨ (0x100 ≤ off ∧ off < 0x140) then latchGate s h mid false else .pass
  | 0x0F => if off = 0x08 ∨ off = 0xA0 then latchGate s h mid false else .pass
  | 0x11 => latchGate s h mid true
  | _ => .pass

-- access codes

/-- The register's word after a write of the lanes of `raw` by Table 0.4. -/
def mergeWrite (d : RegDesc) (locked : Bool) (old raw lanes : Nat) : Nat :=
  d.fields.foldl (fun w f =>
    let m := (2 ^ (f.hi + 1) - 2 ^ f.lo) &&& lanes
    let put := w - (w &&& m) + (raw &&& m)
    match f.acc with
    | .rw | .wo => put
    | .rwl => if locked then w else put
    | .w1c => w - (w &&& (raw &&& m))
    | .w1s => w ||| (raw &&& m)
    | .ro | .ros => w) old

/-- Whether a life-cycle state allows the write of TMP_CFG that leaves `new` (R401, R436): all of it in BLANK, TEST and RETURNED; in
SHIPPED and OWNED only one in which the other sensors keep the 1 that they read; elsewhere none. -/
def tmpCfgOk (s : State) (new : Nat) : Bool := lcOpen s || ((lcState s == 2 || lcState s == 3) && nbits new 4 1 == 0xF)

-- limits (R436)

def between (lo v hi : Nat) : Bool := lo ≤ v && v ≤ hi

/-- Whether an address is one of local Canopy or of own DDR (Table 1.7). -/
def ownMemory (a : Nat) : Bool := between 0x40000000 a 0x43FFFFFF || between 0x1000000000 a 0x1FFFFFFFFFFF

/-- FLT limits (Table 17.7, R377, R357, R368). -/
def fltOk (s : State) (h : HalfId) (off old new : Nat) : Bool :=
  match off with
  | 0x28 => s.inMode h .service && nbits new 4 0 ≤ 16
  | 0x30 => s.locked h 2 || (between 6 (nbits new 3 0) 15 && ownMemory (nbits new 45 12 * 0x1000))
  | 0x38 => (s.fld h Reg.FLT_LIDX_PROD + 0x10000 - nbits new 15 0) % 0x10000 < 2 ^ s.fld h Reg.FLT_LOG_LOG2
  | 0x40 => between 6 (nbits new 3 0) 15 && (!old.testBit 4 || (nbits new 63 12 == nbits old 63 12 && nbits new 3 0 == nbits old 3 0))
  | 0x60 => mayInject s && injectable (nbits new 63 60) (nbits new 4 0)
  | _ => true

/-- Whether a write to entry n's CTL keeps the shape of R185. -/
def entryShape (new : Nat) : Bool :=
  let e := nbits new 51 46
  let base := nbits new 45 12 * 0x1000
  between 12 e 46 && base % 2 ^ e == 0 && base + (nbits new 55 52 + 1) * 2 ^ e ≤ 2 ^ 46

/-- BND limits (R185, R186, Tables 9.7, 9.10). -/
def bndOk (s : State) (h : HalfId) (off old new raw : Nat) : Bool :=
  if off = 0x10 then between 1 (nbits new 9 0) 1000
  else if 0x100 ≤ off ∧ off < 0x180 then (List.range 8).all fun j => nbits new (8 * j + 5) (8 * j) != 63
  else if 0x1000 ≤ off ∧ off < 0x3000 then
    let n := (off - 0x1000) / 0x20
    let e := entryOf s h n
    let v := e.ctl.toNat.testBit 63
    let open_ := !e.lock && (!v || (s.fld h Reg.BND_GDIS_GDIS).testBit e.grp)
    if off % 0x20 = 0 then
      open_ && entryShape new && (!v || nbits new 59 56 == nbits old 59 56) && (n < 32 || !raw.testBit 62)
    else open_
  else true

/-- HIF limits (Table 15.11). -/
def hifOk (s : State) (h : HalfId) (off new : Nat) : Bool :=
  match off with
  | 0x10 | 0x18 => !s.flag h Reg.HIF_CTRL_EN && between 4 (nbits new 4 0) 16
  | 0x20 => nbits new 47 32 != 0
  | 0x28 => s.locked h 5 || ownMemory (nbits new 45 27 * 0x8000000)
  | _ => true

/-- FLM limits (R243, Table 11.9). -/
def flmOk (s : State) (h : HalfId) (off new : Nat) : Bool :=
  match off with
  | 0x28 => between 6 (nbits new 20 17) 14
  | 0x30 => between 10 (nbits new 63 54) 1000 && between 1 (nbits new 53 50) 15 && between 1 (nbits new 49 47) 7 &&
      between 1 (nbits new 46 40) 100 && between 1 (nbits new 39 32) 255 && between 536 (nbits new 13 0) 9134
  | 0x38 => between 1 (nbits new 7 0) 60
  | 0x40 => !s.flag h Reg.FLM_SRES_BUSY && between 1 (nbits new 63 61) 6
  | _ => true

/-- ETH limits (Table 11.8). -/
def ethOk (off new : Nat) : Bool :=
  if off = 0 then nbits new 3 0 ≤ 6 && nbits new 11 10 != 3 && !(nbits new 3 0 == 6 && nbits new 11 10 == 0)
  else if off = 8 then nbits new 41 40 != 3
  else if 0x1000 ≤ off ∧ off % 0x100 = 0x80 then nbits new 62 60 ≤ 2
  else true

/-- KLN limits (R253, Table 12.7). -/
def klnOk (s : State) (h : HalfId) (off new : Nat) : Bool :=
  match off with
  | 0x00 => between 20 (nbits new 13 8) 47
  | 0x10 => between 4 (nbits new 3 0) 12 && ringHolds (nbits new 63 48) (s.fld h Reg.KLN_PIDX_CONS) ≤ 2 ^ nbits new 3 0
  | 0x18 => between 6 (nbits new 20 17) 12
  | 0x38 => nbits new 63 62 != 0
  | _ => true

/-- MIL limits (R280, Table 13.10). -/
def milOk (s : State) (h : HalfId) (off new : Nat) : Bool :=
  match off with
  | 0x00 => between 1 (nbits new 31 16) 60000
  | 0x18 => !s.flag h Reg.MIL_TRES_BUSY && between 1 (nbits new 63 62) 2
  | _ => true

/-- SCL limits (R304, Table 14.8); `off` names one word of a class, the other stands as it is. -/
def sclOk (s : State) (h : HalfId) (off new : Nat) : Bool :=
  if off = 0x30 then nbits new 16 0 ≤ 65536
  else if off = 0x40 then !s.flag h Reg.SCL_PRES_BUSY && between 1 (nbits new 63 61) 5
  else if 0x100 ≤ off ∧ off < 0x200 then
    let w0 := if off % 16 = 0 then new else (s.reg h 0x0A (off - 8)).toNat
    let w1 := if off % 16 = 0 then (s.reg h 0x0A (off + 8)).toNat else new
    let plen := nbits w0 31 0
    !w1.testBit 63 || (1 ≤ plen && nbits w0 63 32 < plen * 1000 && nbits w1 31 0 < plen)
  else true

/-- TMB limits (R240, Table 11.10). -/
def tmbOk (off new : Nat) : Bool :=
  match off with
  | 0x10 => (signedOf 32 (nbits new 31 0)).natAbs ≤ 2147484
  | 0x18 => between 1 (nbits new 50 32) 500000 && nbits new 29 0 ≤ 999999999
  | _ => true

/-- PWR limits (R417). -/
def pwrOk (s : State) (h : HalfId) (off new : Nat) : Bool :=
  match off with
  | 0x08 =>
    let r : Nat × Nat := if s.inMode h .service then (620, 920) else (720, 880)
    nbits new 63 62 != 3 && between r.1 (nbits new 47 32) r.2 && between r.1 (nbits new 31 16) r.2 &&
      between r.1 (nbits new 15 0) r.2 && nbits new 31 16 ≤ nbits new 47 32
  | 0x10 => nbits new 15 0 != 0
  | _ => true

/-- LIO limits (Table 20.12). -/
def lioOk (s : State) (off new : Nat) : Bool :=
  match off with
  | 0x18 | 0x20 => nbits new 19 16 ≤ 2 && 8 ≤ nbits new 15 0
  | 0x40 => between 1 (nbits new 31 16) 4096 && !(new.testBit 0 && s.flag .east Reg.LIO_SPISTAT_BUSY)
  | _ => true

/-- GRV limits (Tables 6.7, 6.9, 6.10). -/
def grvOk (s : State) (h : HalfId) (blk off old new : Nat) : Bool :=
  match off with
  | 0x00 => 8 ≤ nbits new 63 48 && (new.testBit 0 == old.testBit 0 || (groveThreads s h (blk - 0x20)).isEmpty)
  | 0x10 => nbits new 10 0 + nbits (s.reg h blk 0x18).toNat 10 0 ≤ 1984
  | 0x18 => nbits new 10 0 + nbits (s.reg h blk 0x10).toNat 10 0 ≤ 1984
  | _ => true

/-- Whether a write keeps every limit that a register map or a rule states; `new` is the word it would leave. -/
def limitsOk (s : State) (h : HalfId) (blk off old new raw : Nat) : Bool :=
  match blk with
  | 0x02 => fltOk s h off old new
  | 0x03 => bndOk s h off old new raw
  | 0x04 => if off = 0x20 then between 1 (nbits new 63 61) 4 else true
  | 0x05 => hifOk s h off new
  | 0x06 => flmOk s h off new
  | 0x07 => ethOk off new
  | 0x08 => klnOk s h off new
  | 0x09 => milOk s h off new
  | 0x0A => sclOk s h off new
  | 0x0B => tmbOk off new
  | 0x0C => if off = 0x08 then nbits new 63 55 ≤ 509 else if off = 0x138 then nbits new 63 62 == 0 else true
  | 0x0E => nbits new 5 4 ≤ 2 && nbits new 1 0 ≤ 2
  | 0x10 => off != 0 || s.locked h blk || tmpCfgOk s new
  | 0x11 => pwrOk s h off new
  | 0x12 => (lcOpen s || s.dbgGrant.testBit 1) && (off != 0 || nbits new 39 32 ≤ 135)
  | 0x13 => lioOk s off new
  | b => if 0x20 ≤ b ∧ b ≤ 0x30 then grvOk s h b off old new else true

-- groups (R191)

/-- Runs again what the Foreman had held (R196) and the unit commands whose access was held: their BUSY stayed 1. -/
def retryHeld (h : HalfId) (s : State) (x : Held) : State :=
  if x.mid = 0x45 then retryForeman h s
  else if x.mid = 0x46 ∧ s.flag h Reg.FLM_SRES_BUSY then flmCommand s h (s.reg h 6 0x40)
  else if x.mid = 0x48 ∧ s.flag h Reg.MIL_TRES_BUSY then millCommand s h (s.reg h 9 0x18)
  else if x.mid = 0x49 ∧ s.flag h Reg.SCL_PRES_BUSY then sclCommand s h (s.reg h 0x0A 0x40)
  else s

/-- A group is disabled: the ranges of its valid, unlocked entries are captured and DRAINED falls. -/
def disableGroup (h : HalfId) (s : State) (g : Nat) : State :=
  let caps := ((validEntries s h).filter fun e => e.grp == g && !e.lock).map fun e => (⟨g, e.lo, e.hi⟩ : Capture)
  (s.upd h fun x => { x with bnd := { x.bnd with captures := x.bnd.captures ++ caps } }).clearBit h Reg.BND_GSTAT_DRAINED g

/-- A group is enabled: its captures are dropped and what it held is checked again in arrival order. An access past its limit stays
refused. -/
def enableGroup (h : HalfId) (s : State) (g : Nat) : State :=
  let mine := (s.half h).bnd.held.filter fun x => x.group == g && !x.expired
  let s := s.upd h fun x => { x with bnd := { x.bnd with
    captures := x.bnd.captures.filter (·.group != g), held := x.bnd.held.filter fun y => y.group != g || y.expired } }
  mine.foldl (retryHeld h) (s.clearBit h Reg.BND_GSTAT_HELD g)

/-- A write of BND_GDIS from `old` to `new`. -/
def setGroups (s : State) (h : HalfId) (old new : Nat) : State :=
  let s := ((List.range 16).filter fun g => new.testBit g && !old.testBit g).foldl (disableGroup h) s
  ((List.range 16).filter fun g => old.testBit g && !new.testBit g).foldl (enableGroup h) s

-- what a write does

/-- CLAIM, RENEW and RELEASE of FLT_LATCH, by this half's Warden. -/
def latchWrite (s : State) (h : HalfId) (raw : Nat) : State :=
  let s := if raw.testBit 3 then claimLatch s h else s
  let s := if raw.testBit 4 then renewLatch s h else s
  if raw.testBit 5 then releaseLatch s h else s

/-- HIF_CTRL.EN: 0 to 1 creates ring 0; 0 destroys every ring (R313). -/
def hifEnable (s : State) (h : HalfId) (old new : Nat) : State :=
  if new.testBit 0 && !old.testBit 0 then createRing0 s h
  else if old.testBit 0 && !new.testBit 0 then destroyRings s h
  else s

/-- A store to BOM_XSIG (R349): to this half where it names node 511 or this half. -/
def crossSignal (s : State) (h : HalfId) (new : Nat) : State :=
  let node := nbits new 63 55
  let t := nbits new 16 0
  if node = 511 ∨ node = s.fld h Reg.BOM_ID_NODE then fmnEvent s h t 5
  else queueEffect s h { kind := .setup, addr := node, bytes := [], va := 0, mid := 0, auth := TCap.null, datum := none
                         pos := 0, thread := t, stepseq := 0, release := false, sub := 0, origin := 0 }

/-- BOM_FINV: the home TLB and walk cache are dropped. -/
def dropHomeTlb (s : State) (h : HalfId) : State :=
  s.upd h fun x => { x with bom := { x.bom with tlb := [], walk := [] } }

/-- PACED: 0 to 1 starts the copy of the range that GRV_PCODE names then, 1 to 0 ends paced operation (R144). -/
def pacedWrite (s : State) (h : HalfId) (blk old new : Nat) : State :=
  let g := blk - 0x20
  if new.testBit 0 && !old.testBit 0 then
    ((s.setFld h (Reg.GRV_PSTAT_LOADING.grove g) 1).setFld h (Reg.GRV_PSTAT_READY.grove g) 0).upd h fun x =>
      { x with
        paceBase := SMap.set (fun _ => 0) x.paceBase g (s.fld h (Reg.GRV_PCODE_CODE_BASE.grove g) * 65536)
        paceLen := SMap.set (fun _ => 0) x.paceLen g (s.fld h (Reg.GRV_PCODE_CODE_KIB.grove g) * 1024) }
  else if old.testBit 0 && !new.testBit 0 then
    ((s.setFld h (Reg.GRV_PSTAT_LOADING.grove g) 0).setFld h (Reg.GRV_PSTAT_READY.grove g) 0).upd h fun x =>
      { x with
        paceCode := SMap.set (fun _ => []) x.paceCode g [], paceBase := SMap.set (fun _ => 0) x.paceBase g 0
        paceLen := SMap.set (fun _ => 0) x.paceLen g 0 }
  else s

/-- The fences that a write of BND_FENCE sets. -/
def fenceMask (s : State) (h : HalfId) (mask : Nat) : State :=
  ((List.range 17).filter mask.testBit).foldl (fun s g => updateGuar (fenceGrove s h g) h) s

/-- What a write has done besides storing its word: register by register, from the word before to the one after. -/
def writeEffect (s : State) (h : HalfId) (blk off old new raw : Nat) : State :=
  let w : Word := BitVec.ofNat 64 new
  match blk, off with
  | 0x02, 0x08 => latchWrite s h raw
  | 0x02, 0x10 => updateGuar s h
  | 0x02, 0x28 => startRetest s h (nbits new 4 0)
  | 0x02, 0x40 => if new.testBit 4 && !old.testBit 4 then updFlt s h fun x => { x with hostIndex := 0 } else s
  | 0x02, 0x58 => updateGuar s h
  | 0x02, 0x60 => inject s h (nbits new 63 60) (nbits new 4 0)
  | 0x03, 0x18 => setGroups s h old new
  | 0x03, 0x28 => fenceMask s h raw
  | 0x04, 0x18 => fmnEvent s h (nbits new 16 0) 4
  | 0x04, 0x20 => fmnCommand s h (nbits new 63 61) (nbits new 16 0)
  | 0x05, 0x00 => hifEnable s h old new
  | 0x05, 0x38 => if raw.testBit 0 then raiseAttn s h 1 else s
  | 0x06, 0x40 => flmCommand s h w
  | 0x07, 0x00 => if new = old then s else ethRestart s h
  | 0x07, 0x08 => if new = old then s else pfcWritten s h (nbits new 41 40 != nbits old 41 40)
  | 0x08, 0x00 => skipBadOps (primPosted s h) s h
  | 0x08, 0x10 => skipBadOps (primPosted s h) s h
  | 0x08, 0x38 => klnVault s h w
  | 0x09, 0x18 => millCommand s h w
  | 0x0A, 0x40 => sclCommand s h w
  | 0x0B, 0x08 => stepTimebase s w
  | 0x0B, 0x10 => s.setReg h.other 0x0B 0x10 w
  | 0x0C, 0x00 => if old.testBit 0 && !new.testBit 0 then linksOff s h else s
  | 0x0C, 0x08 => if new.testBit 54 then s.upd h fun x => { x with bom := { x.bom with buddyTrip := s.elapsed } } else s
  | 0x0C, 0x30 => if raw.testBit 0 then dropHomeTlb s h else s
  | 0x0C, 0x50 => crossSignal s h new
  | 0x0F, 0x08 => (lcRequestAt s h (nbits new 45 5 * 32)).2
  | 0x0F, 0xA0 => advanceCounter s (nbits new 11 8) (nbits new 7 0)
  | 0x11, 0x18 => if raw.testBit 0 then warmResetPackage s else s
  | 0x13, 0x40 => if raw.testBit 0 then spiStart s w else s
  | b, o =>
    if b = 0x0A ∧ 0x100 ≤ o ∧ o < 0x200 then classWritten s h ((o - 0x100) / 16)
    else if 0x20 ≤ b ∧ b ≤ 0x30 ∧ o = 0 then updateGuar (pacedWrite s h b old new) h
    else if 0x20 ≤ b ∧ b ≤ 0x30 then updateGuar s h
    else s

/-- The W1S bits that the register keeps; the others act at the write and read 0. -/
def keepSet (blk off : Nat) (d : RegDesc) (w : Nat) : Nat :=
  if blk = 3 ∧ off % 0x20 = 0 ∧ 0x1000 ≤ off then w else w - (w &&& d.maskOf (· == .w1s))

/-- A write of the lanes of `raw` to a register that is there. -/
def regWrite (s : State) (h : HalfId) (d : RegDesc) (blk off raw lanes : Nat) : State :=
  let old := (s.reg h blk off).toNat
  let new := mergeWrite d (s.locked h blk) old raw lanes
  if raw &&& (2 ^ 64 - 1 - d.defined) ≠ 0 then s.errWr h blk
  else if !limitsOk s h blk off old new raw then s.errWr h blk
  else
    let kept := if blk = 3 ∧ off = 0x28 then old else keepSet blk off d new
    writeEffect (s.setReg h blk off (BitVec.ofNat 64 kept)) h blk off old new raw

/-- BLKSTAT: ERR_WR clears by 1, LOCK sets by 1 (R11). -/
def blkstatWrite (s : State) (h : HalfId) (blk raw : Nat) : State :=
  if raw / 4 ≠ 0 then s.errWr h blk else
  let s := if raw.testBit 0 then s.setFld h ⟨blk, 0xFFF0, 0, 0⟩ 0 else s
  if raw.testBit 1 then s.setFld h ⟨blk, 0xFFF0, 1, 1⟩ 1 else s

/-- A master's write to set-up space that the boundary table has let through: `addr` is its physical address for the record
of a dropped one. The post windows take only a core's stores, which accumulate there (R321). -/
def busWrite (s : State) (h : HalfId) (mid blk off : Nat) (bs : List Byte) (_core : Option Nat) : State :=
  if !setupSizeOk blk off bs.length then s.errWr h blk
  else if postWindow blk off then s
  else
    let base := off / 8 * 8
    let sh := 2 ^ (8 * (off % 8))
    let raw := leNat bs * sh
    let lanes := (2 ^ (8 * bs.length) - 1) * sh
    match gateOf s h mid blk base raw with
    | .dropped => s
    | .latchDropped => latchDrop s h mid (0x80000000 + blk * 0x10000 + off)
    | .pass =>
      if base = 0xFFF0 ∧ errBlk blk = blk then blkstatWrite s h blk raw
      else if blk = 0x13 ∧ (base = 0x28 ∨ base = 0x30) ∧ raw / 256 % 2 ^ 54 = 0 then
        (if lanes % 256 = 0 then s else uartQueue s ((base - 0x28) / 8) (BitVec.ofNat 8 raw))
      else
        match regAt blk base with
        | none => if raw = 0 then s else s.errWr h blk
        | some d => regWrite s h d blk base raw lanes

end Sys2Proof.Machine
end

