-- ==== Sys2Proof/Machine/CoreRegs.lean ====
section
/-! DEFINITION. A core's registers as instructions read and write them: narrow results (R54), the fast bank (R59, R124),
the decimal context (R127), and the waits and vector 18 reports that incomplete long operations bring (R134–R137). -/

namespace Sys2Proof.Machine

/-- The long operation, by its place, that a condition on its destination picks. -/
def Core.longWhere (c : Core) (p : LongDest → Bool) : Option Nat := c.longOps.findIdx? fun o => p o.dest

/-- Stops for a long operation that must complete first, or with vector 18 where a pending imprecise fault left such a
destination unwritten (R134, R136 item 1). -/
def awaitDest (k : CoreId) (p : LongDest → Bool) : Exec Unit := do
  let c ← getCore k
  match c.longWhere p with
  | some i => throw (.need i)
  | none => if c.imprecise.any fun f => p f.dest then throw (.trap 18 0)

/-- Stops for a long operation that must complete before a younger write of part of its destination (R134). A write reads nothing
of it, so a pending imprecise fault is not reported (R136). -/
def awaitWrite (k : CoreId) (p : LongDest → Bool) : Exec Unit := do
  match (← getCore k).longWhere p with
  | some i => throw (.need i)
  | none => return

/-- A younger instruction that overwrites a destination whole leaves nothing for the older result to write. -/
def Core.overwritten (c : Core) (p : LongDest → Bool) : Core :=
  { c with
    longOps := c.longOps.map fun o => if p o.dest then { o with dest := .none } else o
    imprecise := c.imprecise.map fun f => if p f.dest then { f with dest := .none } else f }

def isX (n : Nat) : LongDest → Bool
  | .x m _ => m.val == n
  | _ => false

/-- A destination in the low w bits of Xn. -/
def isXIn (n w : Nat) : LongDest → Bool
  | .x m v => m.val == n && v ≤ w
  | _ => false

def isD (n : Nat) : LongDest → Bool
  | .d m => m.val == n
  | _ => false

/-- Xn as named now (R59). -/
def Core.xReg (c : Core) (n : Nat) : Word :=
  if c.bankOn ∧ n < 4 then c.bankX.toList.getD n 0 else c.xs.toList.getD n 0

def Core.setXReg (c : Core) (n : Nat) (v : Word) : Core :=
  if c.bankOn ∧ n < 4 then { c with bankX := c.bankX.setIfInBounds n v } else { c with xs := c.xs.setIfInBounds n v }

/-- Cn as named now (R59). -/
def Core.cReg (c : Core) (n : Nat) : TCap :=
  if c.bankOn ∧ n < 8 then c.bankC.toList.getD n TCap.null else c.caps.toList.getD n TCap.null

def Core.setCReg (c : Core) (n : Nat) (v : TCap) : Core :=
  if c.bankOn ∧ n < 8 then { c with bankC := c.bankC.setIfInBounds n v } else { c with caps := c.caps.setIfInBounds n v }

def Core.dReg (c : Core) (n : Nat) : Word128 := c.ds.toList.getD n 0

/-- The low w bits of a result replace those of a register (R54). -/
def narrow (old : Word) (w v : Nat) : Word :=
  if 64 ≤ w then BitVec.ofNat 64 v else BitVec.ofNat 64 (old.toNat / 2 ^ w * 2 ^ w + v % 2 ^ w)

/-- Reads Xn. -/
def readX (k : CoreId) (n : Nat) : Exec Nat := do
  awaitDest k (isX n)
  return ((← getCore k).xReg n).toNat

/-- Writes the low w bits of Xn. -/
def writeX (k : CoreId) (n w v : Nat) : Exec Unit := do
  if w < 64 then awaitWrite k (isX n)
  modCore k fun c => (c.overwritten (isXIn n w)).setXReg n (narrow (c.xReg n) w v)

def readC (k : CoreId) (n : Nat) : Exec TCap := do return (← getCore k).cReg n

def writeC (k : CoreId) (n : Nat) (v : TCap) : Exec Unit := modCore k fun c => c.setCReg n v

def readD (k : CoreId) (n : Nat) : Exec Nat := do
  awaitDest k (isD n)
  return ((← getCore k).dReg n).toNat

/-- Whether the running thread owns the decimal context (R127). -/
def Core.ownsDec (c : Core) : Bool := c.thread.isSome && c.thread == c.decOwner

/-- The running thread has written the decimal context: as its owner, it is to be written back (R128). -/
def Core.touchDec (c : Core) : Core := { c with decDirty := c.decDirty || c.ownsDec }

/-- Writes Dn whole. -/
def writeD (k : CoreId) (n v : Nat) : Exec Unit :=
  modCore k fun c => { (c.overwritten (isD n)) with ds := c.ds.setIfInBounds n (BitVec.ofNat 128 v) }.touchDec

/-- Reads a flag, which waits for a long operation that sets it. -/
def readFlag (k : CoreId) (i : Nat) : Exec Bool := do
  let c ← getCore k
  match c.longOps.findIdx? fun o => o.flags.any fun f => f.1 == i with
  | some j => throw (.need j)
  | none => return c.swBit i

/-- Reads SW whole, for an instruction that uses every flag. -/
def readSW (k : CoreId) : Exec Word := do
  let c ← getCore k
  match c.longOps.findIdx? fun o => !o.flags.isEmpty with
  | some j => throw (.need j)
  | none => return c.sw

def setFlags (k : CoreId) (fs : List (Nat × Bool)) : Exec Unit := modCore k fun c => c.setFlags fs

/-- Reads DSR, which waits for every long operation that may raise a flag in it. -/
def readDsr (k : CoreId) : Exec Nat := do
  let c ← getCore k
  match c.longOps.findIdx? fun o => o.raised != 0 with
  | some j => throw (.need j)
  | none => return c.dsr.toNat

/-- DSR with exceptions recorded in FL (R102). -/
def Core.raised (c : Core) (fl : Nat) : Core :=
  if fl % 32 = 0 then c else { c with dsr := c.dsr ||| BitVec.ofNat 32 (fl % 32) }.touchDec

/-- Raises DSR.FL bits. -/
def raiseFL (k : CoreId) (fl : Nat) : Exec Unit := modCore k fun c => c.raised fl

/-- Whether long operations of this core complete later than they issue: a BULK thread on a cached grove (R135, R145). -/
def isBulk (s : State) (k : CoreId) : Bool :=
  let c := s.core k
  c.thread.isSome && !c.control && !isPaced s k

end Sys2Proof.Machine
end

