-- ==== Sys2Proof/Machine/CoreMem.lean ====
section
/-! DEFINITION. Loads and stores of a core: memory and device reads (R173, R174, R309), the step
journal (R208), the commit buffer (R207, R209), remote accesses (R50, R334) and posts (R321). -/

namespace Sys2Proof.Machine

/-- Whether a code-store address lies in the range that a grove copied when it became paced (R144). -/
def inCopiedRange (s : State) (h : HalfId) (phys g : Nat) : Bool :=
  let b := SMap.get (fun _ => 0) (s.half h).paceBase g
  b ≤ phys && phys < b + SMap.get (fun _ => 0) (s.half h).paceLen g

/-- Whether a physical address lies in a grove's data area (R144). -/
def inDataArea (s : State) (h : HalfId) (phys g : Nat) : Bool :=
  let b := 0x40000000 + s.fld h (Reg.GRV_PDATA_DATA_BASE.grove g) * 65536
  b ≤ phys && phys < b + s.fld h (Reg.GRV_PDATA_DATA_KIB.grove g) * 1024

/-- Whether a physical address lies in a grove's code or data area (R144). -/
def inAreas (s : State) (h : HalfId) (phys g : Nat) : Bool := inCopiedRange s h phys g || inDataArea s h phys g

/-- The groves whose areas a core's scratchpad holds: its own, and on the spare those it stands in for in a window (R362). -/
def areaGroves (s : State) (k : CoreId) : List Nat :=
  let g := k.grove.val
  g :: (if g = 16 then (s.half k.half).flt.testing else [])

/-- Whether a physical address lies in the scratchpad of a paced grove (R144, R145). -/
def inScratchpad (s : State) (k : CoreId) (phys : Nat) : Bool := (areaGroves s k).any (inAreas s k.half phys)

/-- The grove whose code area serves a core's read of a code-store address (R144); none where the code store does. -/
def codeCopy (s : State) (k : CoreId) (phys : Nat) : Option Nat :=
  if isPaced s k && s.flag k.half (Reg.GRV_PSTAT_READY.grove k.grove.val) then
    (areaGroves s k).find? (inCopiedRange s k.half phys)
  else none

-- the length of a paced slot

/-- Ticks per clock of a forerunner instruction on a paced grove (R147). -/
def frTicks (s : State) (k : CoreId) : Nat := s.fld k.half (Reg.GRV_MODE_FR_TICKS.grove k.grove.val)

/-- Vector 17 (Table 5.6). -/
def holdCause (c : Core) (reason : Nat) : Word := BitVec.ofNat 64 (nbits c.sw.toNat 31 24 * 256 + reason)

/-- Lengthens the slot of an instruction on a paced grove. One that would run past tick 256 of a HOLD region is at that tick the
first unretired instruction (R126, R145). -/
def paceTicks (k : CoreId) (n : Nat) : Exec Unit := do
  let s ← get
  if isPaced s k then
    let c := s.core k
    if c.swBit 23 && 256 < c.pacedTicks + n then throw (.trap 17 (holdCause c 1))
    modCore k fun c => { c with pacedTicks := c.pacedTicks + n }

/-- The ticks that an operand's parts add to a slot: in native mode by where each lies (R145), in forerunner mode by its words
(R147). -/
def partTicks (s : State) (k : CoreId) (ps : List Part) : Nat :=
  if (s.core k).pcc.mode then 4 * (((ps.map (·.n)).sum + 1) / 2) * frTicks s k
  else (ps.map fun p => if p.remote then 400 * (partsOf p.va p.n).length else if inScratchpad s k p.phys then 6 else 400).sum

/-- Adds an operand's access to the slot of an instruction on a paced grove. -/
def paceAccess (k : CoreId) (ps : List Part) : Exec Unit := do paceTicks k (partTicks (← get) k ps)

-- what a local physical address holds for a core

/-- Reads bytes for a core: bytes, the tag of the granule where `cap`, poison, state (R46, R49); `cached` = a DDR line comes into the grove's
L2 (Table 7.3). -/
def physRead (s : State) (k : CoreId) (mid phys n : Nat) (cap cached : Bool) : List Byte × Bool × Bool × State :=
  let h := k.half
  let mem (own : Bool) (a : Nat) : List Byte × Bool × Bool × State :=
    let r := homeBytes s h own a n cached
    (r.1, cap && r.2.1, r.2.2.1, r.2.2.2)
  match placeOf s h phys with
  | .canopy own a => mem own a
  | .ddr a => mem true a
  | .code own off =>
    match codeCopy s k phys with
    | some g => (readCells (SMap.get (fun _ => []) (s.half h).paceCode g) phys n, false, false, s)
    | none => let r := codeRead s (if own then h else h.other) off n; (r.1, false, r.2.1.isSome, r.2.2)
  | .host off => let r := hostRead s h (hostAddr s h off) n; (r.1, false, r.2.1, r.2.2)
  | .setup blk off => let r := busRead s h mid blk off n (some k.num); (r.1, false, false, r.2)
  | .hole => (zerosB n, false, false, s)

/-- Writes bytes for a core (R46, R49, R172). -/
def physWrite (s : State) (k : CoreId) (mid phys : Nat) (bs : List Byte) (tag cached : Bool) : State :=
  let h := k.half
  match placeOf s h phys with
  | .canopy true a | .ddr a => memPutCap s h mid a bs tag cached
  | .canopy false a =>
    let s := seamMerge s h.other a bs.length
    if tag then
      let c := crossSeam s h (capOf bs tag)
      memPutCap s h.other mid a c.bytes c.tag cached
    else memWrite s h.other mid a bs cached
  | .host off => hostWrite s (hostAddr s h off) bs
  | .setup blk off => busWrite s h mid blk off bs (some k.num)
  | .code _ _ | .hole => s

/-- The home half and address there of a tagged-memory address, where it is one. -/
def homeOf (s : State) (h : HalfId) (phys : Nat) : Option (HalfId × Nat) :=
  match placeOf s h phys with
  | .canopy true a => some (h, a)
  | .canopy false a => some (h.other, a)
  | .ddr a => some (h, a)
  | _ => none

-- long operations and the bytes they will write

/-- Where bytes lie, for telling whether two accesses meet: a node and a cursor, a half and an address of its memory, or another
physical address. -/
def spotOf (s : State) (h : HalfId) (remote : Bool) (node va phys : Nat) : Nat × Nat :=
  if remote then (node, va)
  else match homeOf s h phys with
    | some (hm, a) => (600 + hm.num, a)
    | none => (602, phys)

/-- Where a part of an access lies, and where a part of a long operation's destination does. -/
def Part.spot (s : State) (h : HalfId) (cap : TCap) (p : Part) : Nat × Nat := spotOf s h p.remote cap.node p.va p.phys

def LongPart.spot (s : State) (h : HalfId) (q : LongPart) : Nat × Nat := spotOf s h q.remote q.cap.node q.va q.phys

/-- Whether n bytes at one spot and m at another meet. -/
def spotsMeet (x : Nat × Nat) (n : Nat) (y : Nat × Nat) (m : Nat) : Bool := x.1 == y.1 && x.2 < y.2 + m && y.2 < x.2 + n

/-- Whether a long operation's destination overlaps n bytes at a spot. -/
def overlaps (s : State) (h : HalfId) (x : Nat × Nat) (n : Nat) : LongDest → Bool
  | .mem ps => ps.any fun q => spotsMeet x n (q.spot s h) q.n
  | _ => false

/-- What is left of a destination's part where a younger write covers n bytes at a spot. -/
def LongPart.uncovered (s : State) (h : HalfId) (x : Nat × Nat) (n : Nat) (q : LongPart) : List LongPart :=
  let y := q.spot s h
  if !spotsMeet x n y q.n then [q] else
  let lo := x.2 - y.2
  let hi := x.2 + n - y.2
  (if lo = 0 then [] else [{ q with n := lo }]) ++
    (if q.n ≤ hi then [] else [{ q with va := q.va + hi, phys := q.phys + hi, n := q.n - hi }])

/-- Bytes that a younger instruction writes are no longer bytes that a faulted operation left unwritten (R136). -/
def Core.coverBytes (c : Core) (s : State) (h : HalfId) (x : Nat × Nat) (n : Nat) : Core :=
  { c with imprecise := c.imprecise.map fun f =>
      match f.dest with
      | .mem ps => { f with dest := .mem (ps.flatMap (LongPart.uncovered s h x n)) }
      | _ => f }

-- remote accesses

/-- Whether a request was made for the same access as another. -/
def sameRequest (p q : Packet) : Bool :=
  p.dst == q.dst && p.type == q.type && p.info == q.info && p.addr == q.addr && p.payload == q.payload &&
    p.thread == q.thread && p.tags == q.tags

/-- Makes a remote request and answers its response; until the response has come the instruction waits (R334). A refusal
of the home is the fault of Table 2.4 with ORIGIN 5, and with the DETAIL that the home found (log entry 96). -/
def remoteCall (k : CoreId) (p : Packet) (va : Nat) : Exec Packet := do
  let c ← getCore k
  match c.remote.find? fun r => sameRequest r.req p with
  | some r =>
    let st := r.rsp.info.toNat
    if st = 0 then return r.rsp
    else if 1 ≤ st ∧ st ≤ 8 then memFault st 5 r.rsp.detail va
    else if st = 0x10 then
      modify fun s => record s k.half { code := 0x13, mid := coreMid k c.level, thread := c.thread, address := va }
      memFault 16 5 0 va
    else if st = 0x21 then memFault 1 5 0 va
    else memFault 7 5 2 va
  | none =>
    let s ← get
    if (s.half k.half).bom.outstanding.any fun o => o.core == some k.num && sameRequest o.pkt p then throw .wait
    else
      let (txn, s) := takeTxn s k.half
      let p := { p with txn := BitVec.ofNat 11 txn }
      match sendPacket s k.half p with
      | (false, s) => set s; memFault 7 5 2 va
      | (true, s) =>
        set (s.upd k.half fun x => { x with bom := { x.bom with
          outstanding := x.bom.outstanding ++ [⟨txn, p, some k.num, none⟩] } })
        throw .wait

/-- A request packet of a core's thread through a capability (Tables 16.3 and 16.4). -/
def remotePacket (s : State) (k : CoreId) (cap : TCap) (type info cursor : Nat) (data : List Byte) (tag : Bool) : Packet :=
  { newPacket s k.half cap.node type info (cap.bytes ++ data) with
    depoch := BitVec.ofNat 4 cap.epoch
    addr := BitVec.ofNat 64 cursor, tags := if tag then 1 else 0
    thread := BitVec.ofNat 17 ((s.core k).thread.getD 0) }

/-- The thread number under which a core's accesses go. -/
def Core.who (c : Core) : Nat := c.thread.getD 0

/-- A remote access waits for the acknowledgement of an older remote store of its thread to the same bytes (R180 item 2). -/
def awaitOverlap (k : CoreId) (node va n : Nat) : Exec Unit := do
  let s ← get
  let c := s.core k
  if remoteOverlap ((s.half k.half).bom.effects ++ c.handed) c.who node va n then throw .wait

/-- Whether an effect of a core's thread is committed and not handed over, or a remote store of it not acknowledged (R180). -/
def unperformed (s : State) (k : CoreId) : Bool :=
  let c := s.core k
  c.thread.isSome && (remoteUnacked s k.half c.who || c.handed.any fun e => e.thread == c.who)

def isMemDest : LongDest → Bool
  | .mem _ => true
  | _ => false

def isSideDest : LongDest → Bool
  | .mem ps => ps.any (·.side)
  | _ => false

/-- A side-effect access of a thread follows its older ones (R154): the write that a long operation is still to make among them. -/
def awaitSide (k : CoreId) (side : Bool) : Exec Unit := if side then awaitWrite k isSideDest else pure ()

/-- Every older access of the thread is performed first: the memory write of a long operation, and the stores past their commit
point (R130, R135, R178, R180). What the commit buffer still holds joins the order at its release (R179). -/
def awaitOlder (k : CoreId) : Exec Unit := do
  awaitWrite k isMemDest
  if unperformed (← get) k then throw .wait

-- the commit buffer and the journal

/-- The bytes of an effect that a store wrote, by its position in the step and their address. -/
def Effect.held (e : Effect) : List (Nat × Nat) :=
  ((List.range e.bytes.length).filter fun i => (e.bytes.getD i none).isSome).map fun i => (e.pos, e.addr + i)

/-- Whether a store merges into the youngest effect (R207): both in one 256-byte block of host memory, or of one remote node. -/
def mergeable (e f : Effect) : Bool :=
  e.kind == f.kind && e.addr / 256 == f.addr / 256 && (f.addr + f.bytes.length - 1) / 256 == e.addr / 256 &&
  (e.kind == .hostMem || (e.kind == .remote && e.auth.node == f.auth.node))

/-- Whether a store that merges makes one run of bytes with an older one. An EFF carries one capability and one run of bytes (Table
16.4), so another run of a merged remote effect is sent for itself (log entry 24). -/
def oneRun (e f : Effect) : Bool :=
  e.kind == .hostMem || (e.auth.bounds == f.auth.bounds && e.auth.perms == f.auth.perms && e.auth.epoch == f.auth.epoch &&
    e.datum.isNone && f.datum.isNone && f.addr ≤ e.addr + e.bytes.length && e.addr ≤ f.addr + f.bytes.length)

/-- Bytes laid over others from an offset on; a byte not written leaves the one below. -/
def layBytes (below : List (Option Byte)) (off : Nat) (bs : List (Option Byte)) : List (Option Byte) :=
  (List.range below.length).map fun i =>
    if off ≤ i then (bs.getD (i - off) none).orElse fun _ => below.getD i none else below.getD i none

/-- Two effects as one: the younger's bytes lie over the older's. -/
def mergeEffects (e f : Effect) : Effect :=
  let a := min e.addr f.addr
  let n := max (e.addr + e.bytes.length) (f.addr + f.bytes.length) - a
  { e with
    addr := a, release := e.release || f.release
    bytes := layBytes (layBytes (List.replicate n none) (e.addr - a) e.bytes) (f.addr - a) f.bytes }

/-- Adds an effect to a commit buffer: into the youngest where it merges, else as one more (R207). -/
def addEffect (es : List Effect) (f : Effect) : List Effect :=
  match es.getLast? with
  | some e =>
    if !mergeable e f then es ++ [f]
    else if oneRun e f then es.dropLast ++ [mergeEffects e f]
    else es ++ [{ f with pos := e.pos, sub := e.sub + 1 }]
  | none => [f]

/-- Effects a commit buffer holds: the further runs of one that merged are no more effects. -/
def effectCount (es : List Effect) : Nat := (es.filter (·.sub == 0)).length

/-- Bytes a commit buffer holds. -/
def effectBytes (es : List Effect) : Nat := ((es.flatMap Effect.held).eraseDups).length

/-- A write that an instruction will make: a part, its bytes, the tag of a capability store, and whether it carries RELEASE. -/
structure PutPart where
  part : Part
  cap : TCap
  bytes : List Byte
  tag : Bool
  capWidth : Bool
  release : Bool

/-- Whether a set-up address lies in a post window (R321). -/
def inPostWindow : Place → Bool
  | .setup 5 off => 0x4000 ≤ off && off < 0x4800
  | _ => false

/-- The post buffer of a core after a store to a slot, and the post that the store closes (R321). -/
def postStore (posts : SMap (List (Option Byte))) (off : Nat) (bs : List Byte) :
    SMap (List (Option Byte)) × Option (List Byte) :=
  let slot := (off - 0x4000) / 64
  let d : Nat → List (Option Byte) := fun _ => List.replicate 64 none
  let old := SMap.get d posts slot
  let i := off % 64
  let new := old.take i ++ bs.map some ++ old.drop (i + bs.length)
  if 64 ≤ i + bs.length then (SMap.set d posts slot (List.replicate 64 none), some (new.map fun b => b.getD 0))
  else (SMap.set d posts slot new, none)

/-- The effect that a write makes in a restartable step, if it is one (R207): none for tagged memory, and none for a post
store that does not close its post. -/
def effectOf (s : State) (k : CoreId) (p : PutPart) : Option Effect :=
  let c := s.core k
  let mk (kind : EffectKind) (addr : Nat) (bytes : List Byte) : Effect :=
    { kind, addr, bytes := bytes.map some, va := p.part.va, mid := coreMid k c.level, auth := p.cap
      datum := if p.capWidth && kind != .hostMem then some (capOf p.bytes p.tag) else none
      pos := c.pos, thread := c.who, stepseq := 0, release := p.release, sub := 0, origin := p.part.origin }
  if p.part.remote then some (mk .remote p.part.va p.bytes)
  else
    let pl := placeOf s k.half p.part.phys
    match pl with
    | .host off => some (mk .hostMem (hostAddr s k.half off) p.bytes)
    | .setup _ off =>
      if inPostWindow pl then
        (postStore c.posts off p.bytes).2.map fun bs => mk (if off < 0x4400 then .replyPost else .framePost) 0 bs
      else some (mk .setup p.part.phys p.bytes)
    | _ => if p.part.side then some (mk .sideEffect p.part.phys p.bytes) else none

/-- The granules of tagged memory that a write touches, by home. -/
def putGranules (s : State) (k : CoreId) (p : PutPart) : List (HalfId × Nat) :=
  if p.part.remote then []
  else match homeOf s k.half p.part.phys with
    | some (h, a) => if p.part.side then [] else (granulesOf a p.bytes.length).map fun g => (h, g)
    | none => []

/-- A journal entry of a granule as it stands (R208). -/
def journalEntry (s : State) (g : HalfId × Nat) : JEntry :=
  let m := (s.half g.1).mem
  ⟨g.1, g.2, readCells m.cells (g.2 * 16) 16, m.tags.contains g.2,
    granulePoisoned m g.2 || if inSram m g.2 then m.ue.contains g.2 else m.lineUe.contains (g.2 / 4)⟩

/-- Adds the granules that a journal does not hold yet. -/
def addJournal (s : State) (j : List JEntry) (gs : List (HalfId × Nat)) : List JEntry :=
  gs.foldl (fun j g => if j.any fun e => e.half == g.1 && e.granule == g.2 then j else j ++ [journalEntry s g]) j

/-- Vector 19 (Table 10.8). -/
def journalFull {α : Type} (kind addr : Nat) : Exec α := throw (.trap 19 (BitVec.ofNat 64 (kind * 2 ^ 60 + addr % 2 ^ 55)))

/-- The write that an incomplete long operation makes to a part of its memory destination when it completes. -/
def LongOp.puts (o : LongOp) : List PutPart :=
  match o.dest with
  | .mem ps =>
    let va := ((ps.head?).map (·.va)).getD 0
    ps.map fun q =>
      { part := ⟨q.va, q.n, q.phys, q.side, true, false, none, q.remote, q.cached, q.origin⟩, cap := q.cap, bytes := sliceB o.bytes (q.va - va) q.n
        tag := false, capWidth := false, release := o.release }
  | _ => []

/-- The checks of R209 for an instruction's writes, part by part, before any is made. The effects that incomplete long operations
will make have their room already. -/
def checkRoom (k : CoreId) (ps : List PutPart) : Exec Unit := do
  let s ← get
  let c := s.core k
  if c.restartable then
    let mut es := c.effects ++ (c.longOps.flatMap LongOp.puts).filterMap (effectOf s k)
    let mut js := c.journal
    for p in ps do
      js := addJournal s js (putGranules s k p)
      if 512 < js.length then journalFull 1 p.part.va
      match effectOf s k p with
      | none => pure ()
      | some e =>
        es := addEffect es e
        if 16 < effectCount es || 4096 < effectBytes es then journalFull 2 p.part.va

/-- Gives a closed post to the ring engine's queue (R321). -/
def handPost (s : State) (h : HalfId) (frame : Bool) (thread stepseq pos : Nat) (bs : List Byte) : State :=
  s.upd h fun x => { x with hif := { x.hif with posts := x.hif.posts ++ [⟨frame, thread, stepseq, pos, bs⟩] } }

/-- Makes one write of a core (a post for which the ring engine has no place waits with the committed effects, R321): held as an effect or journalled in a restartable step, else performed (R207–R210); a remote store
of another step has been answered already. -/
def putOne (k : CoreId) (s : State) (p : PutPart) : State :=
  let c := s.core k
  let mid := coreMid k c.level
  let pl := placeOf s k.half p.part.phys
  if !p.part.remote && inPostWindow pl then
    match pl with
    | .setup _ off =>
      if c.level = levelM then s else
      let r := postStore c.posts off p.bytes
      let s' := s.setCore k { c with posts := r.1 }
      match r.2, effectOf s k p with
      | some bs, some e =>
        let d := { c with posts := r.1, pos := c.pos + 1 }
        if c.restartable then s.setCore k { d with effects := addEffect c.effects e }
        else if 4096 ≤ postsWaiting s k.half ∨ !c.handed.isEmpty then s.setCore k { d with handed := c.handed ++ [e] }
        else handPost (s.setCore k d) k.half (e.kind == .framePost) c.who c.seq c.pos bs
      | _, _ => s'
    | _ => s
  else if c.restartable then
    match effectOf s k p with
    | some e =>
      let es := addEffect c.effects e
      s.setCore k { c with effects := es, pos := if effectCount es = effectCount c.effects then c.pos else c.pos + 1 }
    | none => physWrite (s.setCore k { c with journal := addJournal s c.journal (putGranules s k p) }) k mid p.part.phys p.bytes p.tag p.part.cached
  else if p.part.remote then s
  else physWrite s k mid p.part.phys p.bytes p.tag p.part.cached

/-- The data that a remote store sends, and its tag (R48). -/
def PutPart.sent (s : State) (h : HalfId) (p : PutPart) : List Byte × Bool :=
  if p.capWidth then
    let c := leaveHalf s h (capOf p.bytes p.tag)
    (c.bytes, c.tag)
  else (p.bytes, false)

/-- Makes an instruction's memory writes: room first, then remote stores of a step that is not restartable (each answered
before anything else is written), then the leaves of all its accesses are marked, before its own stores can change them (R156), then the
rest. -/
def putUnpaced (k : CoreId) (ps : List PutPart) : Exec Unit := do
  checkRoom k ps
  for p in ps do
    awaitSide k p.part.side
    awaitWrite k (overlaps (← get) k.half (p.part.spot (← get) k.half p.cap) p.part.n)
  noteMarks k (ps.map (·.part))
  for m in (← getCore k).marks do
    let _ ← rereadLeaf k m
  for p in ps do
    let s ← get
    if p.part.remote && !(s.core k).restartable then
      awaitOverlap k p.cap.node p.part.va p.part.n
      let d := p.sent s k.half
      let info := p.bytes.length + (if p.capWidth then 32 else 0)
      let _ ← remoteCall k (remotePacket s k p.cap 2 info p.part.va d.1 d.2) p.part.va
  flushMarks k
  for p in ps do
    modify fun s => s.setCore k ((s.core k).coverBytes s k.half (p.part.spot s k.half p.cap) p.part.n)
    modify fun s => putOne k s p

/-- Makes an instruction's memory writes, which also lengthen its slot on a paced grove, operand by operand (R145, R147). -/
def putAll (k : CoreId) (pss : List (List PutPart)) : Exec Unit := do
  for ps in pss do paceAccess k (ps.map (·.part))
  putUnpaced k pss.flatten

-- completion of long operations (R135, R136)

/-- Performs one part of a long operation's memory write, whose checks were made at issue (R136). What its grove's fencing makes of
it is found now (R192); a remote part outside a restartable step goes as a committed effect (log entry 26). -/
def completePart (k : CoreId) (s : State) (p : PutPart) : State :=
  let c := s.core k
  if classOf s k.half (coreMid k c.level) = 63 then noteFenced s k.half (coreMid k c.level) p.part.phys
  else if p.part.remote && !c.restartable then
    match effectOf s k p with
    | some e => queueEffect (s.setCore k { c with pos := c.pos + 1 }) k.half { e with stepseq := c.seq }
    | none => s
  else putOne k s p

/-- Adds a pending fault among those of younger and older operations. -/
def addImprecise (f : Imprecise) : List Imprecise → List Imprecise
  | [] => [f]
  | g :: r => if f.age < g.age then f :: g :: r else g :: addImprecise f r

/-- Completes the i-th incomplete long operation (R135, R136): it writes its destination and flags, or its fault becomes
pending. -/
def completeLong (k : CoreId) (i : Nat) (s : State) : State :=
  let c := s.core k
  match c.longOps[i]? with
  | none => s
  | some o =>
    let c := { c with longOps := c.longOps.eraseIdx i }.raised o.raised.toNat
    match o.faultVec with
    | some v => s.setCore k { c with imprecise := addImprecise ⟨o.age, v, o.cursor, o.dest⟩ c.imprecise }
    | none =>
      let c := { c with sw := swWith c.sw o.flags }
      match o.dest with
      | .none => s.setCore k c
      | .x n w => s.setCore k (c.setXReg n.val (narrow (c.xReg n.val) w o.value.toNat))
      | .d n => s.setCore k { c with ds := c.ds.set n o.value }.touchDec
      | .mem _ => o.puts.foldl (completePart k) (s.setCore k c)

/-- Completes every incomplete long operation of a core, oldest first. -/
def completeAllLong (k : CoreId) (s : State) : State :=
  (List.range (s.core k).longOps.length).foldl (fun s _ => completeLong k 0 s) s

-- loads

/-- What a held remote store makes of a load's bytes and tag, as they stand at their home (R134, R207): the youngest store of a
byte gives it, and a data store clears the granule's tag. DESIGN CHOICE (log entry 135): a held CSTC gives the tag that it sends, whether
or not its page keeps tags. -/
def overlayEffect (s : State) (h : HalfId) (node a : Nat) (v : TCap × List Byte) (e : Effect) : TCap × List Byte :=
  if e.kind != .remote || e.auth.node != node || !(e.addr < a + v.2.length && a < e.addr + e.bytes.length) then v else
  let above : List (Option Byte) := match e.datum with
    | some c => (leaveHalf s h c).bytes.map some
    | none => e.bytes
  let bs := (List.range v.2.length).map fun i =>
    if e.addr ≤ a + i then (above.getD (a + i - e.addr) none).getD (v.2.getD i 0) else v.2.getD i 0
  (match e.datum with
    | some c => ⟨BitVec.ofNat 128 (leNat bs), (leaveHalf s h c).tag⟩
    | none => ⟨BitVec.ofNat 128 (leNat bs), false⟩, bs)

/-- Loads one part through another node: what its home answers, under what the thread's held stores make of it, as it arrives
(R48, R180). A half's own number counts as trusted, as its own stores to itself do (log entry 139). -/
def loadRemote (k : CoreId) (cap : TCap) (capWidth : Bool) (p : Part) : Exec (List Byte × Bool) := do
  awaitOverlap k cap.node p.va p.n
  let s ← get
  let r ← remoteCall k (remotePacket s k cap 1 (p.n + (if capWidth then 32 else 0)) p.va [] false) p.va
  let bs := sliceB r.payload 0 p.n
  let v := (s.core k).effects.foldl (overlayEffect s k.half cap.node p.va) (capOf bs (r.tags.toNat.testBit 0), bs)
  if capWidth then
    let trusted := cap.node == ownNode s k.half || (s.fld k.half (Reg.BOM_TRUST_TRUST.at (8 * (cap.node / 64)))).testBit (cap.node % 64)
    if v.1.tag && !trusted then modify fun s => s.incFld k.half Reg.BOM_CNT1_TAG_CLR
    let c := arriveHalf s k.half trusted v.1
    return (c.bytes, c.tag)
  else return (v.2, false)

/-- Loads one checked part: its bytes, and its tag for a capability load. A load that cannot be held back converts a
restartable step (R209); poison is consumed (R173); a side-effect load that was performed before its instruction had to wait is not
performed again (R154). -/
def loadPart (k : CoreId) (cap : TCap) (capWidth : Bool) (origin : Nat) (p : Part) : Exec (List Byte × Bool) := do
  let s ← get
  let c := s.core k
  awaitDest k (overlaps s k.half (p.spot s k.half cap) p.n)
  awaitSide k p.side
  if p.remote then loadRemote k cap capWidth p
  else if p.side && c.popped.any (fun r => r.1 == origin && r.2.1 == p.phys && r.2.2.1 == p.n) then
    return ((c.popped.find? fun r => r.1 == origin && r.2.1 == p.phys && r.2.2.1 == p.n).elim [] (·.2.2.2), false)
  else
    if p.side && c.restartable then journalFull 3 p.va
    let (bs, tag, poison, s) := physRead s k (coreMid k c.level) p.phys p.n capWidth p.cached
    if poison then
      let a := match homeOf s k.half p.phys with | some (_, a) => a | none => p.phys
      let (rg, ix) := match placeOf s k.half p.phys with
        | .canopy _ _ | .ddr _ => memRegion a
        | .code _ _ => (4, 0)
        | _ => (6, 0)
      set (record s k.half { code := 0x13, region := rg, index := ix, mid := coreMid k c.level, thread := c.thread, address := p.phys })
      memFault 16 origin 0 p.va
    set s
    if p.side then modCore k fun c => { c with popped := c.popped ++ [(origin, p.phys, p.n, bs)] }
    return (bs, tag)

/-- Loads through checked parts without lengthening a slot: all bytes, and the tag of a capability load with the page's TE and the key's TS. -/
def loadUnpaced (k : CoreId) (cap : TCap) (capWidth : Bool) (origin : Nat) (ps : List Part) : Exec (List Byte × Bool) := do
  let rs ← ps.mapM (loadPart k cap capWidth origin)
  noteMarks k ps
  return (rs.flatMap (·.1), match ps, rs with | [p], [r] => r.2 && p.te && !p.ts && cap.has permLC | _, _ => false)

/-- Loads through checked parts. -/
def loadParts (k : CoreId) (cap : TCap) (capWidth : Bool) (origin : Nat) (ps : List Part) : Exec (List Byte × Bool) := do
  paceAccess k ps
  loadUnpaced k cap capWidth origin ps

/-- The part of a read through PCC (modes C and D) or of a fetch (Table 7.1): checked by R38, not translated. -/
def resolveCode (k : CoreId) (cap : TCap) (ea : Int) (n : Nat) (kind : AccKind) (origin : Nat) : Exec (List Part) := do
  let va := unsignedOf 55 ea
  if !cap.tag then memFault 1 origin 0 va
  if cap.otype ≠ 0 then memFault 4 origin 0 va
  if !permOk cap kind then memFault 3 origin 0 va
  let ps := partsOf va n
  if 1 < ps.length && kind != .fetch then modCore k fun c => { c with perf := c.perf.set! 9 (c.perf[9]! + 1) }
  ps.mapM fun (a, m) => do
    if !(cap.base ≤ ea + (a - va : Nat) && ea + (a - va : Nat) + m ≤ cap.top) then memFault 2 origin 0 a
    if 0x20000000 ≤ a then memFault 5 origin 0 a
    let level := (← getCore k).level
    boundary k (coreMid k level) kind a m a origin
    return ⟨a, m, a, false, false, false, none, false, true, origin⟩

end Sys2Proof.Machine
end

