-- ==== Sys2Proof/Machine/BoomHome.lean ====
section
/-! DEFINITION. Boom's links as events drive them (R329–R332) and what a home does with the requests of other nodes: the
checks of R50 and R346, reads, writes, atomic operations, effects performed once (R348), signals (R349), group parts
(R326, R327) and the responses that come back (R334). -/

namespace Sys2Proof.Machine

/-- Master identity of Boom (Table 9.1). -/
def mBoom : Nat := 0x4C

-- links (R329–R332)

/-- The node table as Cruise distributes it: the entries of every number that is or was in use. -/
def nodeEntry (s : State) (h : HalfId) (n : Nat) : NodeEntry :=
  { node := BitVec.ofNat 9 n, serial := BitVec.ofNat 64 (s.fld h (Reg.BOM_NODE_SER_SERIAL.at (16 * n)))
    state := BitVec.ofNat 2 (nodeState s h n).1, epoch := BitVec.ofNat 4 (nodeState s h n).2
    floor := BitVec.ofNat 4 (s.fld h (Reg.BOM_NODE_ST_FLOOR.at (16 * n)))
    alt := BitVec.ofNat 4 (s.fld h (Reg.BOM_NODE_ST_ALT.at (16 * n))), pri := BitVec.ofNat 4 (s.fld h (Reg.BOM_NODE_ST_PRI.at (16 * n))) }

def nodeTable (s : State) (h : HalfId) : List NodeEntry :=
  ((List.range 510).map (nodeEntry s h)).filter fun e => e.state != 0 || e.serial != 0 || e.floor != 0

/-- The serial of the device, its election key (R336). -/
def deviceSerial (s : State) : Word := s.otp.serial

/-- The HELLO exchange of a link that trained (R338): a device that has not joined asks to join; a member tells of its set,
so that two sets that meet learn of each other (R342). -/
def sendHello (s : State) (h : HalfId) (dst : Nat) : State :=
  if s.fld h Reg.BOM_ID_CSTATE = 2 then
    let root := s.fld h Reg.BOM_ID_ROOT
    sendCruise s h dst (.merge (BitVec.ofNat 64 (s.fld h (Reg.BOM_NODE_SER_SERIAL.at (16 * root))))
      (BitVec.ofNat 16 (s.fld h Reg.BOM_ID_FGEN)) (nodeTable s h))
  else sendCruise s h dst (.hello (deviceSerial s) (BitVec.ofNat 8 (s.fld h Reg.BOM_CFG_PREF)))

/-- LINK_TRAINED: the link carries traffic, and the HELLOs are exchanged. -/
def execLinkTrained (h : HalfId) (l : Fin 4) (s : State) : Host.Outcome State Fault Refusal :=
  if !linksRun s h ∨ (linkOf s h l).trained then .next s else
  let s := updLink s h l fun _ => { Link.reset with trained := true, up := true, lastGood := s.elapsed }
  let s := (s.setBit h Reg.BOM_LINK_TRAINED l).setBit h Reg.BOM_LINK_UP l
  let s := if s.fld h Reg.BOM_ID_CSTATE = 0 then (s.setFld h Reg.BOM_ID_CSTATE 1).setFld h Reg.BOM_ID_NODE 511 else s
  .next (sendHello (sendIdle s h l) h 511)

/-- LINK_TRAIN_RETRY: 100 ms after the last attempt a link that is not trained tries again. -/
def execLinkTrainRetry (h : HalfId) (l : Fin 4) (s : State) : Host.Outcome State Fault Refusal :=
  let k := linkOf s h l
  if !linksRun s h ∨ k.trained then .next s
  else match k.failedAt with
  | some t => if t + 100000000 ≤ s.elapsed then .next (updLink s h l fun k => { k with failedAt := some s.elapsed }) else .next s
  | none => .next (updLink s h l fun k => { k with failedAt := some s.elapsed })

/-- Retires the flits that an ACK covers; packets with no flit left go with them. -/
def Link.retire (k : Link) (ack : Nat) : Link :=
  if k.retry.any (·.seq == ack) then
    let retry := (k.retry.dropWhile (·.seq != ack)).drop 1
    { k with retry, replays := 0
             pkts := k.pkts.filter fun p => retry.any (·.id == p.1) || k.txq.any (·.id == p.1) }
  else k

/-- Replays every flit after the one acknowledged (R332). -/
def replayFrom (s : State) (h : HalfId) (l ack : Nat) : State :=
  replayLink (updLink s h l fun k => k.retire ack) h l

/-- Takes one flit's body into the packets arriving on a link: the packet it completes, if any. A start names its channel by its packet's
type; a continuation is the next of the packets in progress in the sender's order of channels (log entry 31). -/
def Link.assemble (k : Link) (start : Bool) (body : List Byte) : Option (List Byte) × Link :=
  let chan : Option Nat :=
    if start then some (channelOf (nbits (fieldLE body 0 8) 34 30))
    else (channelOrder k.rxTurn).find? fun v => k.partials.any (·.1 == v)
  match chan with
  | none => (none, k)
  | some v =>
    let old := if start then [] else ((k.partials.find? (·.1 == v)).map (·.2)).getD []
    let b := old ++ body
    let rest := k.partials.filter (·.1 != v)
    let k := { k with owed := k.owed.setIfInBounds v (k.owed.getD v 0 + 1), rxTurn := if v < 6 then v else k.rxTurn }
    if 64 * flitCount (packetLen b) ≤ b.length then (some b, { k with partials := rest })
    else (none, { k with partials := rest ++ [(v, b)] })

/-- A flit with a good CRC (R330–R332). One that is not the next in sequence is discarded whole, its ACK and credits with it:
they come again when it is replayed. -/
def goodFlit (s : State) (h : HalfId) (l : Nat) (flit : List Byte) : State :=
  let w := fieldLE flit 0 4
  let ftype := nbits w 31 28
  let v := nbits w 7 5
  let s := updLink s h l fun k => { k with lastGood := s.elapsed }
  if (ftype = 1 ∨ ftype = 2) ∧ nbits w 27 18 ≠ (linkOf s h l).rxNext then pumpLink s h l else
  let s := updLink s h l fun k =>
    { k.retire (nbits w 17 8) with credits := k.credits.setIfInBounds v (min 64 (k.credits.getD v 0 + nbits w 4 0)) }
  if ftype = 3 then replayFrom s h l (nbits w 17 8)
  else if ftype = 1 ∨ ftype = 2 then
    let r := (linkOf s h l).assemble (ftype = 1) (sliceB flit 4 64)
    let s := updLink s h l fun _ => { r.2 with rxNext := (r.2.rxNext + 1) % 1024 }
    let s := match r.1 with
      | some b => arrivePacket 20 s h (Packet.ofBytes b l)
      | none => s
    let n := s.out.length
    let s := pumpLink s h l
    if s.out.length = n then sendIdle s h l else s
  else pumpLink s h l

/-- FLIT_RECEIVE: a flit with a bad CRC is discarded and answered with one NAK, and every later one is discarded until the expected SEQ
comes. -/
def execFlitReceive (h : HalfId) (l : Fin 4) (flit : List Byte) (s : State) : Host.Outcome State Fault Refusal :=
  let k := linkOf s h l
  if !linksRun s h ∨ !k.up then .next s
  else if flit.length = 72 ∧ fieldLE flit 0x44 4 = (crc32c (flit.take 0x44)).toNat then .next (goodFlit s h l flit)
  else .next (s.emit (.flit h l (flitBytes 3 0 k.ack 0 0 [])))

/-- NAK: the sender replays from the SEQ after the one named. -/
def execNak (h : HalfId) (l : Fin 4) (ack : BitVec 10) (s : State) : Host.Outcome State Fault Refusal :=
  if !linksRun s h ∨ !(linkOf s h l).up then .next s else .next (replayFrom s h l ack.toNat)

/-- Sends a packet that left on a link now down on the route that stands (R332, R344). -/
def reroute (s : State) (h : HalfId) (p : Packet) : State :=
  match routeTo s h p.dst.toNat with
  | some port => putOnPort s h port p
  | none => match unreachable s h p with
    | some q => arrivePacket 20 s h { q with hops := 16, port := 5 }
    | none => s

/-- A link goes down (R332): its packets that were not acknowledged are sent whole on the new route. -/
def takeLinkDown (s : State) (h : HalfId) (l : Nat) : State :=
  let k := linkOf s h l
  let s := updLink s h l fun _ => { Link.reset with failedAt := some s.elapsed }
  let s := ((s.clearBit h Reg.BOM_LINK_TRAINED l).clearBit h Reg.BOM_LINK_UP l).incFld h Reg.BOM_CNT0_LINKDOWN
  k.pkts.foldl (fun s p => reroute s h p.2) (if s.fld h Reg.BOM_ID_CSTATE = 3 ∧ s.fld h Reg.BOM_LINK_UP = 0 then s.setFld h Reg.BOM_ID_CSTATE 0 else s)

-- requests at their home

/-- The first waiting packet of a type, taken from its queue. -/
def takePacket (s : State) (h : HalfId) (type : Nat) : Option (Packet × State) :=
  match (s.half h).bom.rxq.find? (·.type.toNat == type) with
  | none => none
  | some p => some (p, s.upd h fun x => { x with bom := { x.bom with rxq := x.bom.rxq.erase p } })

/-- Whether a packet comes from this half itself. -/
def fromSelf (s : State) (h : HalfId) (p : Packet) : Bool := p.port == 5 && p.src.toNat == ownNode s h

/-- Drops traffic of a dead node, counted and answered with EXCLUDED (R339); `none` where the packet stands. -/
def dropDead (s : State) (h : HalfId) (p : Packet) : Option State :=
  if fromSelf s h p ∨ (nodeState s h p.src.toNat).1 ≠ 2 then none
  else some (sendCruise (s.incFld h Reg.BOM_CNT1_STALE_DROP) h p.src.toNat .excluded)

/-- What a request meets before its own checks (R339, R341): `none` where it is to be carried out. -/
def screen (s : State) (h : HalfId) (p : Packet) : Option State :=
  match dropDead s h p with
  | some s => some s
  | none =>
    if fromSelf s h p then none
    else if s.fld h Reg.BOM_ID_CSTATE ≠ 2 then some s
    else if (nodeState s h p.src.toNat).2 ≠ p.sepoch.toNat then some (s.incFld h Reg.BOM_CNT1_STALE_DROP)
    else if p.depoch.toNat ≠ ownEpoch s h then
      some (if p.type = 9 then s else respond s h p (if p.type = 7 then 8 else 6) 0x21 [])
    else none

/-- Whether a half is in Watch or waking, when Boom answers requests busy (Table 19.3). -/
def boomAsleep (s : State) (h : HalfId) : Bool := s.inMode h .watch || s.waking

/-- A request on a home's memory: the capability image, the bytes it names, what it asks for, and whether it stores a tag. -/
structure HomeReq where
  cap : TCap
  va : Nat
  n : Nat
  kind : AccKind
  capWidth : Bool
  tag : Bool := false

/-- A part of it that passed the checks. -/
structure HomePart where
  va : Nat
  n : Nat
  phys : Nat
  te : Bool
  ts : Bool
  leaf : Option (TlbSlot × Bool)

/-- The region that a home's refusal names: the link of arrival, or the seam link (R438). -/
def arrivalRegion (port : Nat) : Nat × Nat := if port < 4 then (7, port) else if port = 4 then (8, 0) else (7, 0)

/-- A boundary fault that a home finds, counted and recorded with the link of arrival. -/
def homeRefuse (s : State) (h : HalfId) (port phys detail : Nat) (overlap : Bool) : State :=
  let s := noteRefusalAt s h mBoom phys overlap (arrivalRegion port)
  match detail, placeOf s h phys with
  | 3, .setup blk _ => s.errWr h blk
  | _, _ => s

/-- The checks of one part at home (R346): translation in the fabric context, its key, tags for a tagged store (R45), side-effect alignment
(R138; in set-up space R8), and the boundary table under Boom's identity. The error is the fault vector, and DETAIL for a boundary
fault. -/
def homePart (s : State) (h : HalfId) (q : HomeReq) (port : Nat) (p : Nat × Nat) : Except (Nat × Nat) HomePart × State :=
  let b := (s.half h).bom
  let x := translateVia s h mBoom (s.fld h Reg.BOM_FXLAT_ROOT * 1024) (BitVec.ofNat 16 (s.fld h Reg.BOM_FXLAT_CTX))
    ⟨b.tlb, b.walk, 256, 32⟩ levelC p.1 q.kind
  let krr : Word := BitVec.ofNat 64 (s.fld h Reg.BOM_FKRR_KRR)
  let s := x.2.2.upd h fun y => { y with bom := { y.bom with tlb := x.2.1.slots, walk := x.2.1.walk } }
  match x.1 with
  | none => (.error (5, 0), s)
  | some x =>
    if !keyOk krr x.key q.kind then (.error (6, 0), s) else
    let pl := placeOf s h x.phys
    let tagged := x.te && tagPlace pl
    if q.tag && !tagged && pl != .hole then (.error (3, 0), s) else
    let crooked := (x.mt == 2 || sideEffectPlace pl) && !naturallyAligned q.va q.n
    if crooked && !(match pl with | .setup _ _ => true | _ => false) then (.error (8, 0), s) else
    match (if crooked then .refuse 3 false else check s h mBoom q.kind x.phys p.2) with
    | .allow => (.ok ⟨p.1, p.2, x.phys, tagged, keyTs krr x.key, x.leaf⟩, s)
    | .refuse d o => (.error (7, d), homeRefuse s h port x.phys d o)
    | .drop => (.error (7, 0), noteFenced s h mBoom x.phys)
    | .hold g => (.error (7, 0), noteHeld s h g mBoom x.phys none)

/-- The checks of part after part. -/
def homeParts (h : HalfId) (q : HomeReq) (port : Nat) : List (Nat × Nat) → State → Except (Nat × Nat) (List HomePart) × State
  | [], s => (.ok [], s)
  | p :: ps, s =>
    match homePart s h q port p with
    | (.error v, s) => (.error v, s)
    | (.ok x, s) =>
      match homeParts h q port ps s with
      | (.error v, s) => (.error v, s)
      | (.ok xs, s) => (.ok (x :: xs), s)

/-- The first part whose leaf no longer agrees with the slot it was checked through (R156). -/
def homeStale (s : State) (h : HalfId) (ps : List HomePart) : Option TlbSlot :=
  ps.findSome? fun p => p.leaf.bind fun l => if (reread s h mBoom l.1 p.va).1.isNone then some l.1 else none

/-- The checks of every part; a slot found stale is dropped, and the request translates again (R156). -/
def homeFresh (h : HalfId) (q : HomeReq) (port : Nat) (ps : List (Nat × Nat)) :
    Nat → State → Except (Nat × Nat) (List HomePart) × State
  | 0, s => (.error (5, 0), s)
  | f + 1, s =>
    match homeParts h q port ps s with
    | (.error v, s) => (.error v, s)
    | (.ok xs, t) =>
      match homeStale t h xs with
      | none => (.ok xs, t)
      | some x => homeFresh h q port ps f (s.upd h fun y => { y with bom := { y.bom with tlb := (t.half h).bom.tlb.filter fun z => z.bare != x.bare } })

/-- The checks of a request at home (Table 2.4), in the order of R38: the parts, or the fault vector it is refused with and DETAIL. -/
def homeCheck (s : State) (h : HalfId) (q : HomeReq) (port : Nat) : Except (Nat × Nat) (List HomePart) × State :=
  let va := (q.va : Int)
  if q.cap.otype ≠ 0 then (.error (4, 0), s)
  else if !permOk q.cap q.kind ∨ !q.cap.has permFB then (.error (3, 0), s)
  else if !(q.cap.base ≤ va ∧ va + q.n ≤ q.cap.top) then (.error (2, 0), s)
  else if (q.capWidth ∧ q.va % 16 ≠ 0) ∨ (q.kind = .atomic ∧ !naturallyAligned q.va q.n) then (.error (8, 0), s)
  else homeFresh h q port (if q.capWidth ∨ q.kind = .atomic then [(q.va, q.n)] else partsOf q.va q.n) 8 s

/-- Reads one part at home: bytes, tag, poison. -/
def homeRead (s : State) (h : HalfId) (cap : Bool) (p : HomePart) : List Byte × Bool × Bool × State :=
  match placeOf s h p.phys with
  | .canopy own a => let r := homeBytes s h own a p.n false; (r.1, cap && r.2.1, r.2.2.1, r.2.2.2)
  | .ddr a => let r := homeBytes s h true a p.n false; (r.1, cap && r.2.1, r.2.2.1, r.2.2.2)
  | .code own off => let r := codeRead s (if own then h else h.other) off p.n; (r.1, false, r.2.1.isSome, r.2.2)
  | .host off => let r := hostRead s h (hostAddr s h off) p.n; (r.1, false, r.2.1, r.2.2)
  | .setup blk off => let r := busRead s h mBoom blk off p.n none; (r.1, false, false, r.2)
  | .hole => (zerosB p.n, false, false, s)

/-- Writes one part at home. -/
def homeWrite (s : State) (h : HalfId) (p : HomePart) (bs : List Byte) (tag : Bool) : State :=
  match placeOf s h p.phys with
  | .canopy own a =>
    let hm := if own then h else h.other
    let c := if own then capOf bs tag else crossSeam s h (capOf bs tag)
    if tag then memPutCap s hm mBoom a c.bytes c.tag false else memWrite s hm mBoom a bs false
  | .ddr a => memPutCap s h mBoom a bs tag false
  | .host off => hostWrite s (hostAddr s h off) bs
  | .setup blk off => busWrite s h mBoom blk off bs none
  | .code _ _ | .hole => s

/-- Marks the leaves of a request accessed and dirty (R156), before its own stores can change them. -/
def homeMark (s : State) (h : HalfId) (ps : List HomePart) : State :=
  ps.foldl (fun s p =>
    match p.leaf with
    | none => s
    | some (x, d) =>
      match reread s h mBoom x p.va with
      | (none, s) => s
      | (some e, s) =>
        let s := unitWrite s h mBoom (leafAddr x p.va) (leBytes 8 (e ||| (if d then 0x180 else 0x80)))
        s.upd h fun y => { y with bom := { y.bom with tlb := markSlots y.bom.tlb x d } }) s

/-- What a home answers: STATUS, payload and the tag bit, with the DETAIL of a refusal (log entry 96). -/
structure HomeAns where
  status : Nat
  detail : Nat := 0
  payload : List Byte := []
  tag : Bool := false

/-- Reads every part: bytes, tag, and which parts were poisoned (R173). -/
def homeReadAll (s : State) (h : HalfId) (cap : Bool) (ps : List HomePart) : List Byte × Bool × List Bool × State :=
  ps.foldl (fun (a : List Byte × Bool × List Bool × State) p =>
    let r := homeRead a.2.2.2 h cap p
    (a.1 ++ r.1, a.2.1 || r.2.1, a.2.2.1 ++ [r.2.2.1], r.2.2.2)) ([], false, [], s)

/-- RD at home. -/
def homeRd (s : State) (h : HalfId) (q : HomeReq) (port : Nat) : HomeAns × State :=
  match homeCheck s h q port with
  | (.error v, s) => ({ status := v.1, detail := v.2 }, s)
  | (.ok ps, s) =>
    let r := homeReadAll s h q.capWidth ps
    if r.2.2.1.any id then ({ status := 0x10 }, r.2.2.2) else
    let s := homeMark r.2.2.2 h ps
    if q.capWidth then
      let c := leaveHalf s h (capOf r.1 (r.2.1 && ps.all fun p => p.te && !p.ts))
      ({ status := 0, payload := c.bytes, tag := c.tag }, s)
    else ({ status := 0, payload := r.1 }, s)

/-- A write at home, of data or of a capability with its tag. -/
def homeWr (s : State) (h : HalfId) (q : HomeReq) (port : Nat) (bs : List Byte) (tag : Bool) : HomeAns × State :=
  match homeCheck s h { q with tag } port with
  | (.error v, s) => ({ status := v.1, detail := v.2 }, s)
  | (.ok ps, s) =>
    ({ status := 0 }, ps.foldl (fun s p => homeWrite s h p (sliceB bs (p.va - q.va) p.n) tag) (homeMark s h ps))

/-- The value an ATOM stores, by its opcode (Chapter 4); none where nothing is stored. -/
def atomValue (op n old operand expected : Nat) : Option Nat :=
  let m := 2 ^ (8 * n)
  match op with
  | 0x20 => some ((old + operand) % m)
  | 0x22 => some ((old + m - operand % m) % m)
  | 0x28 => some (old &&& operand % m)
  | 0x29 => some (old ||| operand % m)
  | 0x2A => some (old ^^^ operand % m)
  | 0x25 => some ((old + 1) % m)
  | 0x26 => some ((old + m - 1) % m)
  | 0x14 => some (operand % m)
  | _ => if old = expected % m then some (operand % m) else none

/-- ATOM at home: it answers the old value. -/
def homeAtom (s : State) (h : HalfId) (q : HomeReq) (port : Nat) (payload : List Byte) : HomeAns × State :=
  match homeCheck s h q port with
  | (.error v, s) => ({ status := v.1, detail := v.2 }, s)
  | (.ok ps, s) =>
    let r := homeReadAll s h false ps
    if r.2.2.1.any id then ({ status := 0x10 }, r.2.2.2) else
    let old := leNat r.1
    let new := atomValue (fieldLE payload 16 1) q.n old (fieldLE payload 24 8) (fieldLE payload 32 8)
    let s := homeMark r.2.2.2 h ps
    let s := match new with
      | some v => ps.foldl (fun s p => homeWrite s h p (leBytes q.n v) false) s
      | none => s
    ({ status := 0, payload := leBytes 8 old }, s)

/-- The request that a packet makes. -/
def requestOf (p : Packet) (kind : AccKind) (n : Nat) (capWidth : Bool) : HomeReq :=
  { cap := capOf (p.payload.take 16) true, va := p.addr.toNat % 2 ^ 55, n, kind, capWidth }

/-- Sends a home's answer to a request. -/
def sendAnswer (s : State) (h : HalfId) (p : Packet) (a : HomeAns) : Packet × State :=
  let r := { answerTo s h p 6 a.status a.payload with tags := if a.tag then 1 else 0, detail := a.detail }
  (r, (sendPacket s h r).2)

/-- A request of a type that a home keeps its response to (R335): `f` performs it. A half in Watch answers busy. -/
def homeRequest (h : HalfId) (type : Nat) (f : State → Packet → HomeAns × State) (s : State) : State :=
  match takePacket s h type with
  | none => s
  | some (p, s) =>
    match screen s h p with
    | some s => s
    | none =>
      match (s.half h).bom.kept.find? fun k => k.src == p.src.toNat && k.txn == p.txn.toNat && s.elapsed < k.since + 64000 with
      | some k => (sendPacket s h k.rsp).2
      | none =>
        if boomAsleep s h then (sendAnswer s h p { status := 0x30 }).2 else
        let r := f s p
        let a := sendAnswer r.2 h p r.1
        a.2.upd h fun x => { x with bom := { x.bom with kept := x.bom.kept ++ [⟨p.src.toNat, p.txn.toNat, a.1, a.2.elapsed⟩] } }

/-- RD: a remote read. -/
def execRd (h : HalfId) (s : State) : Host.Outcome State Fault Refusal :=
  .next (unitCmd h (homeRequest h 1 fun s p =>
    homeRd s h (requestOf p .read (p.info.toNat % 32) (p.info.toNat.testBit 5)) p.port) s)

/-- The datum of a capability store as it arrives (R48, R347); a store that this half sent itself is trusted (log entry 139). -/
def arriveDatum (s : State) (h : HalfId) (p : Packet) : TCap × State :=
  let n := p.src.toNat
  let c := capOf (sliceB p.payload 16 16) (p.tags.toNat.testBit 0)
  let trusted := fromSelf s h p || (s.fld h (Reg.BOM_TRUST_TRUST.at (8 * (n / 64)))).testBit (n % 64)
  (arriveHalf s h trusted c, if c.tag && !trusted then s.incFld h Reg.BOM_CNT1_TAG_CLR else s)

/-- A store that a packet asks for, of data or of a capability. -/
def homeStore (s : State) (h : HalfId) (p : Packet) : HomeAns × State :=
  if p.type = 2 ∧ p.info.toNat.testBit 5 then
    let d := arriveDatum s h p
    homeWr d.2 h (requestOf p .write 16 true) p.port d.1.bytes d.1.tag
  else homeWr s h (requestOf p .write (p.payload.length - 16) false) p.port (p.payload.drop 16) false

-- the table of effects (R348)

/-- Whether (STEPSEQ, POS) is newer than an entry's under modulo-2^32 comparison. -/
def DupEntry.olderThan (e : DupEntry) (seq pos : Nat) : Bool :=
  let d := (seq + 2 ^ 32 - e.stepseq) % 2 ^ 32
  if d = 0 then e.pos < pos else d < 2 ^ 31

/-- The table with room for one more entry: the least recently used goes when the table is full and it is 1 s old. -/
def dupRoom (ds : List DupEntry) (now : Nat) : Option (List DupEntry) :=
  if ds.length < 32768 then some ds
  else match ds with
  | e :: rest => if e.at_ + 1000000000 ≤ now then some rest else none
  | [] => some []

/-- Performs an effect's store once under the table of (SRC, THREAD): `sub` = its place among the runs of bytes of its effect (log entry
24). -/
def storeOnce (s : State) (h : HalfId) (p : Packet) (sub : Nat) : HomeAns × State :=
  let mine (e : DupEntry) : Bool := e.src == p.src.toNat && e.thread == p.thread.toNat
  let ds := (s.half h).bom.dups
  let place := p.pos.toNat * 256 + sub
  let put (s : State) (ds : List DupEntry) (seq pos : Nat) : State := s.upd h fun x => { x with bom := { x.bom with
    dups := ds ++ [⟨p.src.toNat, p.thread.toNat, seq, pos, s.elapsed⟩] } }
  let perform (ds : List DupEntry) : HomeAns × State :=
    let r := homeStore s h p
    (r.1, if r.1.status = 0 then put r.2 ds p.seq.toNat place else r.2)
  match ds.find? mine with
  | some e =>
    let rest := ds.filter fun x => !mine x
    if e.olderThan p.seq.toNat place then perform rest
    else ({ status := 0 }, put (s.incFld h Reg.BOM_CNT2_DUP_DROP) rest e.stepseq e.pos)
  | none =>
    match dupRoom ds s.elapsed with
    | some ds => perform ds
    | none => ({ status := 0x30 }, s)

/-- WR: a remote store of data or of a capability. One that is a committed step's effect is performed once (log entry 26). -/
def execWr (h : HalfId) (s : State) : Host.Outcome State Fault Refusal :=
  .next (unitCmd h (homeRequest h 2 fun s p =>
    match p.eff with
    | some sub => storeOnce s h p sub
    | none => homeStore s h p) s)

/-- ATOM: a remote atomic operation. -/
def execAtom (h : HalfId) (s : State) : Host.Outcome State Fault Refusal :=
  .next (unitCmd h (homeRequest h 3 fun s p => homeAtom s h (requestOf p .atomic (p.info.toNat % 32) false) p.port p.payload) s)

-- effects and signals (R348, R349)

/-- EFF: performed once under the table of (SRC, THREAD). -/
def effRequest (h : HalfId) (s : State) : State :=
  match takePacket s h 4 with
  | none => s
  | some (p, s) =>
    match screen s h p with
    | some s => s
    | none =>
      if boomAsleep s h then (sendAnswer s h p { status := 0x30 }).2 else
      let r := storeOnce s h p 0
      (sendAnswer r.2 h p r.1).2

/-- EFF. -/
def execEff (h : HalfId) (s : State) : Host.Outcome State Fault Refusal := .next (unitCmd h (effRequest h) s)

/-- SIG: FABRIC for the thread named, and its response, for which the next effect to this node waits (R348; log entry 140); in Watch it waits
for the wake. -/
def sigRequest (h : HalfId) (s : State) : State :=
  if boomAsleep s h then s else
  match takePacket s h 5 with
  | none => s
  | some (p, s) =>
    match screen s h p with
    | some s => s
    | none => (sendAnswer (fmnEvent s h (p.addr.toNat % 2 ^ 17) 5) h p { status := 0 }).2

/-- SIG. -/
def execSig (h : HalfId) (s : State) : Host.Outcome State Fault Refusal := .next (unitCmd h (sigRequest h) s)

-- responses (R334)

/-- Takes a request's response: it goes to the core that waits, and an effect's makes room for the next (R348). A response
of 0x30 leaves the request standing until it is sent again. -/
def takeResponse (s : State) (h : HalfId) (o : Outstanding) (r : Packet) : State :=
  let put (s : State) (l : List Outstanding) : State := s.upd h fun x => { x with bom := { x.bom with outstanding := l } }
  let all := (s.half h).bom.outstanding
  if r.info = 0x30 then put s (all.map fun x => if x = o then { x with busyAt := some s.elapsed } else x)
  else
    let s := put s (all.erase o)
    match o.core with
    | some k => s.setCoreN h k { s.coreN h k with remote := (s.coreN h k).remote ++ [⟨o.pkt, r⟩] }
    | none =>
      let st := r.info.toNat
      let note (v d : Nat) : State := noteRefusedEffect s h o.pkt.thread.toNat v 5 d o.pkt.addr.toNat
      let s := if o.pkt.type = 5 then s
               else if 1 ≤ st ∧ st ≤ 8 then note st r.detail
               else if st = 0x10 then note 16 0
               else if st = 0x20 then note 7 2
               else if st = 0x21 then note 1 0
               else s
      let q := (s.half h).bom.effects
      let q := match q.find? fun e => e.node == o.pkt.dst.toNat with | some e => q.erase e | none => q
      pumpEffects (q.length + 1) (s.upd h fun x => { x with bom := { x.bom with effects := q } }) h

/-- RSP: a response reaches the origin. -/
def rspRequest (h : HalfId) (s : State) : State :=
  match takePacket s h 6 with
  | none => s
  | some (p, s) =>
    match dropDead s h p with
    | some s => s
    | none =>
      match (s.half h).bom.outstanding.find? fun o => o.txn == p.txn.toNat with
      | some o => takeResponse s h o p
      | none => s

/-- RSP. -/
def execRsp (h : HalfId) (s : State) : Host.Outcome State Fault Refusal := .next (unitCmd h (rspRequest h) s)

/-- BUSY_RESEND: a request answered busy 10 µs ago is sent again, without limit. -/
def execBusyResend (h : HalfId) (txn : BitVec 11) (s : State) : Host.Outcome State Fault Refusal :=
  match (s.half h).bom.outstanding.find? fun o => o.txn == txn.toNat with
  | none => .next s
  | some o =>
    match o.busyAt with
    | none => .next s
    | some t =>
      if s.elapsed < t + 10000 then .next s else
      let o' := { o with busyAt := none }
      let s := s.upd h fun x => { x with bom := { x.bom with outstanding := x.bom.outstanding.map fun y => if y = o then o' else y } }
      match sendPacket s h o.pkt with
      | (true, s) => .next s
      | (false, s) => .next (takeResponse s h o' { answerTo s h o.pkt 6 0x20 [] with src := o.pkt.dst })

/-- KEPT_RESPONSE_EXPIRY: a kept response is dropped at 64 µs (R335). -/
def execKeptResponseExpiry (h : HalfId) (src : BitVec 9) (txn : BitVec 11) (s : State) : Host.Outcome State Fault Refusal :=
  .next (s.upd h fun x => { x with bom := { x.bom with
    kept := x.bom.kept.filter fun k => !(k.src == src.toNat && k.txn == txn.toNat && k.since + 64000 ≤ s.elapsed) } })

-- group parts (R326, R327)

/-- Sends a part's status to its origin. -/
def sendPres (s : State) (h : HalfId) (p : Packet) (status : Nat) : State :=
  (sendPacket s h { newPacket s h p.src.toNat 8 0 (leBytes 2 status) with addr := p.addr, seq := p.seq, txn := p.txn }).2

/-- Runs a part that came from another node under the deduplication window of (node, part, CMDID): one that had succeeded is answered from
it, one that had failed runs again (R327); none where it must wait for its mailbox. -/
def partRequest (s : State) (h : HalfId) (p : Packet) : Option State :=
  let cmdid := p.addr.toNat
  let node := p.src.toNat
  let part := p.seq.toNat
  let run (s : State) : Option State :=
    runPart s h (.remote node p.addr part) cmdid (p.payload.take 32) (p.payload.drop 32) true
  if cmdid = 0 then run s else
  match dedupFind s h cmdid (some (node, part)) with
  | some e =>
    if e.busy then some s
    else if e.mask = 0 then some (sendPres s h p e.mask)
    else run (dedupUpd s h cmdid (some (node, part)) fun d => { d with busy := true, doneAt := none })
  | none =>
    if 4096 ≤ (s.half h).hif.dedup.length then some (sendPres s h p (statusOf 8 2))
    else run (s.upd h fun x => { x with hif := { x.hif with
      dedup := x.hif.dedup ++ [⟨p.addr, BitVec.ofNat 8 (fieldLE p.payload 2 1), fieldLE p.payload 4 4,
        fieldLE p.payload 0x14 4, 0, true, none, some (node, part)⟩] } })

/-- PART. -/
def execPart (h : HalfId) (s : State) : Host.Outcome State Fault Refusal :=
  .next (unitCmd h (fun s0 =>
    if boomAsleep s0 h then s0 else
    match takePacket s0 h 7 with
    | none => s0
    | some (p, s) =>
      match screen s h p with
      | some s => s
      | none => (partRequest s h p).getD s0) s)

/-- PRES: the result of a part at another node. -/
def presRequest (h : HalfId) (s : State) : State :=
  match takePacket s h 8 with
  | none => s
  | some (p, s) =>
    match dropDead s h p with
    | some s => s
    | none =>
      let k := p.seq.toNat
      let mine (e : InFlight) : Bool := dOp e.desc == 0x13 && dCmdid e.desc == p.addr.toNat && e.begun.testBit k &&
        (e.parts.getD k (some 0)).isNone && fieldLE e.partList (32 * k) 2 % 512 == p.src.toNat
      let status := if p.info = 0x20 then statusOf 5 1 else if p.info = 0x21 then statusOf 5 2 else fieldLE p.payload 0 2
      match (s.half h).hif.inflight.find? mine with
      | some e => partEnd s h e.tag k status
      | none => s

/-- PRES. -/
def execPres (h : HalfId) (s : State) : Host.Outcome State Fault Refusal := .next (unitCmd h (presRequest h) s)

end Sys2Proof.Machine
end

