-- ==== Sys2Proof/Machine/Trap.lean ====
section
/-! DEFINITION. The return stack (R108–R113), release of a step's effects and undoing of its journal (R203, R207–R212),
and the taking of traps and interrupts (R114–R119, R124, R136) with the return from them (R121, R122). -/

namespace Sys2Proof.Machine

-- release and undo

/-- The physical address that an effect stores to, where it is a store to this half. -/
def Effect.phys (e : Effect) : Nat := if e.kind = .hostMem then 0x200000000000 + e.addr % 2 ^ 45 else e.addr

/-- What the boundary table makes of an effect's store when it is released, part by part. -/
def effectVerdict (s : State) (k : CoreId) (e : Effect) : Verdict :=
  (((partsOf e.phys e.bytes.length).map fun p => check s k.half e.mid .write p.1 p.2 (some k.num)).find? (· != .allow)).getD .allow

/-- Performs an effect's store to host memory or to side-effect memory of this half. -/
def performEffect (s : State) (k : CoreId) (e : Effect) : State :=
  if e.kind = .hostMem then
    ((List.range e.bytes.length).zip e.bytes).foldl (fun s x => match x.2 with | some b => hostWrite s (e.addr + x.1) [b] | none => s) s
  else physWrite s k e.mid e.addr (e.bytes.map (·.getD 0)) (e.datum.any (·.tag)) false

/-- Hands one committed effect to its target; `false` where it must wait: the ring engine's queue is full (R321), its group is
disabled (R191), or it carries RELEASE and an older remote store is not acknowledged (R178). One that the table refuses now is a
fault of its thread (R189); one of a fenced grove is dropped (R192). -/
def handEffect (s : State) (k : CoreId) (e : Effect) : Bool × State :=
  let h := k.half
  if e.release && e.kind != .remote && remoteUnacked s h e.thread then (false, s) else
  match e.kind with
  | .remote => (true, queueEffect s h e)
  | .replyPost | .framePost =>
    if 4096 ≤ postsWaiting s h then (false, s)
    else (true, handPost s h (e.kind == .framePost) e.thread e.stepseq e.pos (e.bytes.map (·.getD 0)))
  | .hostMem | .setup | .sideEffect =>
    match effectVerdict s k e with
    | .allow => (true, performEffect s k e)
    | .hold g => (false, noteHeld s h g e.mid e.phys (some k.num))
    | .drop => (true, noteFenced s h e.mid e.phys)
    | .refuse d o => (true, noteRefusedEffect (noteRefusal s h e.mid e.phys o (some k.num)) h e.thread 7 e.origin d e.va)

/-- Hands over the effects past their commit point, in program order, until one must wait. -/
def drainHanded (k : CoreId) : Nat → State → State
  | 0, s => s
  | n + 1, s =>
    match (s.core k).handed with
    | [] => s
    | e :: es =>
      match handEffect (s.setCore k { s.core k with handed := es }) k e with
      | (false, t) => t.setCore k { t.core k with handed := e :: es }
      | (true, t) => drainHanded k n t

/-- Hands over what a core has committed, as far as it goes. -/
def drainCore (k : CoreId) (s : State) : State := drainHanded k (s.core k).handed.length s

/-- Moves the commit buffer past its commit point: every effect carries its thread and the STEPSEQ that its step began with (R207,
log entry 101). -/
def commitEffects (k : CoreId) (s : State) : State :=
  let c := s.core k
  s.setCore k { c with effects := [], handed := c.handed ++ c.effects.map fun e => { e with stepseq := c.seq } }

/-- Releases the commit buffer (R203 step 6, R209). -/
def releaseEffects (k : CoreId) (s : State) : State := drainCore k (commitEffects k s)

/-- Puts a granule back as its journal entry has it (R46, R211): a DDR line goes through the L2 for it. -/
def undoEntry (s : State) (e : JEntry) : State :=
  let s := if isDdrGranule e.granule then fillLines s e.half (e.granule * 16) 16 else s
  s.upd e.half fun x => { x with mem := { x.mem with
    cells := writeCells x.mem.cells (e.granule * 16) e.data
    tags := if e.tag then x.mem.tags.add e.granule else x.mem.tags.del e.granule
    poison := if e.poison then x.mem.poison.add e.granule else x.mem.poison.del e.granule
    ce := x.mem.ce.del e.granule, ue := x.mem.ue.del e.granule } }

/-- Applies a core's journal in reverse order and discards its commit buffer (R211 case 1, R212). -/
def undoStep (k : CoreId) (s : State) : State :=
  let c := s.core k
  let s := c.journal.reverse.foldl undoEntry s
  s.setCore k { s.core k with journal := [], effects := [], posts := [] }

-- the return stack

def kindCall : Nat := 1
def kindTrap : Nat := 2

/-- A stored SW image (Table 5.3). -/
def swImage (kind : Nat) (bank : Bool) (vec : Nat) (swlow : Nat) : Word :=
  BitVec.ofNat 64 (kind * 2 ^ 62 + b2n bank * 2 ^ 61 + vec * 2 ^ 48 + swlow % 2 ^ 32)

def RFrame.kind (f : RFrame) : Nat := nbits f.image.toNat 63 62
def RFrame.bank (f : RFrame) : Bool := f.image.toNat.testBit 61
def RFrame.vector (f : RFrame) : Nat := nbits f.image.toNat 55 48
def RFrame.swlow (f : RFrame) : Nat := nbits f.image.toNat 31 0
def RFrame.level (f : RFrame) : Nat := nbits f.image.toNat 22 21

/-- Adds the cost of a spill or fill to a paced slot: RSC in the data area or not (R145), in either mode (log entry 141). -/
def paceStack (k : CoreId) (ps : List Part) : Exec Unit := do
  let s ← get
  paceTicks k (if ps.all fun p => !p.remote && (areaGroves s k).any (inDataArea s k.half p.phys) then 12 else 400)

/-- Checks one granule of a spill against RSC (R110): SC whatever it holds, and what its tag asks, before translation. -/
def spillPart (k : CoreId) (ea : Int) (c : TCap) (origin : Nat) : Exec PutPart := do
  let rsc := (← getCore k).rsc
  if rsc.tag && rsc.otype == 0 && !rsc.has permSC then memFault 3 origin 0 (unsignedOf 55 ea)
  let ps ← resolve k rsc ea 16 .write true origin (stored := c)
  match ps with
  | [p] => return ⟨p, rsc, c.bytes, c.tag, true, false⟩
  | _ => memFault 8 origin 0 (unsignedOf 55 ea)

/-- Spills the oldest cached frame (R110). Where a check fails the push is abandoned with vector 14 (R112). -/
def spillOldest (k : CoreId) : Exec Unit := do
  let c ← getCore k
  match c.rstack.getLast? with
  | none => return
  | some f =>
    let ea : Int := (c.rsc.cursor : Int) - 32
    let ps ← tryCatch (do
        let a ← spillPart k ea f.rpcc 4
        let b ← spillPart k (ea + 16) ⟨BitVec.ofNat 128 (f.cause.toNat * 2 ^ 64 + f.image.toNat), false⟩ 4
        return [a, b])
      (fun e => match e with
        | .trap v _ => throw (.trap 14 (memCause 4 v (unsignedOf 55 ea)))
        | e => throw e)
    modCore k fun c => { c with rstack := c.rstack.dropLast, rsc := c.rsc.step (-32) }
    paceStack k (ps.map (·.part))
    putUnpaced k ps

/-- Pushes a frame at level S or C (R110, R112): a spill first where 32 entries are occupied and the reserve is free. A
push that finds all 36 occupied is a second overflow, told by vector 14 with cause 0 and taken at level M (R113). -/
def pushFrame (k : CoreId) (f : RFrame) : Exec Unit := do
  let c ← getCore k
  if 36 ≤ c.rstack.length then throw (.trap 14 0)
  if 32 ≤ c.rstack.length && !c.reserve then spillOldest k
  modCore k fun c => { c with rstack := f :: c.rstack }

/-- Underflow (Table 5.6, vector 15), with the RSC cursor before the instruction. -/
def underflow {α : Type} (cursor detail : Nat) : Exec α := throw (.trap 15 (memCause 4 detail cursor))

/-- The top frame, filled from RSC where the cache is empty (R110, R111). -/
def topFrame (k : CoreId) : Exec RFrame := do
  let c ← getCore k
  match c.rstack with
  | f :: _ => return f
  | [] =>
    if (c.rsc.cursor : Int) = c.rsc.top then underflow c.rsc.cursor 1
    let ea : Int := c.rsc.cursor
    let (a, b) ← tryCatch (do
        if c.rsc.tag && c.rsc.otype == 0 && !c.rsc.has permLC then memFault 3 4 0 c.rsc.cursor
        let pa ← resolve k c.rsc ea 16 .read true 4
        let pb ← resolve k c.rsc (ea + 16) 16 .read true 4
        paceStack k (pa ++ pb)
        let a ← loadUnpaced k c.rsc true 4 pa
        let b ← loadUnpaced k c.rsc true 4 pb
        return (capOf a.1 a.2, b.1))
      (fun e => match e with
        | .trap v x => if v = 19 ∨ v = 17 then throw (.trap v x) else underflow c.rsc.cursor (8 + v)
        | e => throw e)
    let f : RFrame := ⟨a, BitVec.ofNat 64 (fieldLE b 0 8), BitVec.ofNat 64 (fieldLE b 8 8)⟩
    modCore k fun c => { c with rstack := [f], rsc := c.rsc.step 32 }
    return f

/-- Removes the top frame; the reserve is released at 32 entries or fewer (R112). -/
def dropFrame (k : CoreId) : Exec Unit :=
  modCore k fun c =>
    let r := c.rstack.tail
    { c with rstack := r, reserve := c.reserve && 32 < r.length }

-- entry

/-- The supervisor code window of a grove (Table 6.8): base and length. -/
def superWindow (s : State) (k : CoreId) : Nat × Nat :=
  let b := s.fld k.half (Reg.GRV_SWIN_BASE_4K.grove k.grove.val)
  let t := s.fld k.half (Reg.GRV_SWIN_TOP_4K.grove k.grove.val)
  (b * 4096, (t - b) * 4096)

/-- The entry PCC of R115 for a vector taken at level M or S. -/
def entryPcc (s : State) (k : CoreId) (toM : Bool) (vec : Nat) : TCap :=
  let perms := permMask [permLD, permEX, permSY, permGL]
  if toM then (mkCap perms 0 16384).moveTo (32 * vec)
  else
    let w := superWindow s k
    (mkCap perms w.1 w.2).moveTo ((s.core k).vba.toNat + 32 * vec)

/-- SW[31:0] as an entry records it: HOLD and HCNT as 0 (R119, R126). -/
def Core.swFrame (c : Core) : Nat := nbits c.sw.toNat 31 0 % 2 ^ 23

/-- SW after entry: target level, IE, HOLD and HCNT 0 (R119). -/
def entrySw (sw : Word) (level : Nat) : Word :=
  putBits (putBits (putBits sw 31 23 0) 22 21 level) 20 20 0

/-- The core after vector 18 has told it of the oldest pending imprecise fault: the next one is reported when the reporting
instruction re-executes (R137). -/
def Core.reported (c : Core) : Core :=
  { c with
    imprecise := c.imprecise.tail, report := if c.imprecise.tail.isEmpty then none else some c.pcc.cursor
    perf := c.perf.set! 11 (c.perf[11]! + 1) }

/-- What every entry and chain does to a core besides its frame (R119, R124, R147). -/
def Core.enterAt (c : Core) (pcc : TCap) (level vec : Nat) : Core :=
  { (if vec = 18 then c.reported else c) with
    pcc, sw := entrySw c.sw level, bankOn := 64 ≤ vec && vec < 96, holdStart := none, queued := 0, pacedTicks := 0
    remote := [], popped := [], issued := false, drain := true }

/-- A core stops its thread because the machine return stack is full (R113, R212). -/
def stopThread (k : CoreId) (s : State) : State :=
  let c := s.core k
  let s := undoStep k s
  let s := record s k.half
    { code := 0x36, region := 0, index := k.grove.val, outcome := 2, mid := coreMid k c.level, thread := c.thread
      address := c.pcc.cursor }
  let s := match c.thread with
    | some t => becomeAborted s k.half t (statusOf 7 1)
    | none => s
  s.setCore k { s.core k with
    run := if c.thread.isSome then .idle else .held
    thread := none, nr := true, rstack := [], mstack := [], longOps := [], imprecise := [], converted := false }

/-- Entry to level M: the frame goes on the machine return stack (R113). -/
def enterM (k : CoreId) (vec : Nat) (cause : Word) (rpcc : TCap) (s : State) : State :=
  let c := s.core k
  if 8 ≤ c.mstack.length then stopThread k s
  else
    let f : RFrame := ⟨rpcc, swImage kindTrap c.bankOn vec c.swFrame, cause⟩
    s.setCore k ({ c with mstack := f :: c.mstack }.enterAt (entryPcc s k true vec) levelM vec)

/-- Converts the rest of the step (R209): its effects are released and its journal discarded. -/
def convertStep (k : CoreId) (s : State) : State :=
  let s := releaseEffects k s
  s.setCore k { s.core k with journal := [], converted := true }

/-- A second overflow: machine vector 14 (R113). Its cause has ORIGIN 4; the spec gives no more of it (log entry 12). -/
def overflowM (k : CoreId) (rpcc : TCap) (s : State) : State :=
  enterM k 14 (BitVec.ofNat 64 (4 * 2 ^ 60) ||| (s.takeFree.1 &&& 0x0FFFFFFFFFFFFFFF)) rpcc s.takeFree.2

/-- Vector 14 at level S: its frame goes into a reserve entry (R112), where one is left (R113). -/
def reserveEntry (k : CoreId) (cause : Word) (rpcc : TCap) (s : State) : State :=
  let c := s.core k
  if 36 ≤ c.rstack.length then overflowM k rpcc s else
  let f : RFrame := ⟨rpcc, swImage kindTrap c.bankOn 14 c.swFrame, cause⟩
  s.setCore k ({ c with rstack := f :: c.rstack, reserve := true }.enterAt (entryPcc s k false 14) levelS 14)

/-- Entry to level S: the frame is pushed under R110. A spill that fails a check is vector 14 in a reserve entry, a full
journal vector 19, a second overflow vector 14 at level M, each with the interrupted instruction as RPCC. While a spill is held
nothing is entered. For vector 19 the step is converted once the frame is pushed, so an entry that cannot be made leaves it as it was; a
spill for that frame is not journalled. A pace miss whose entry cannot be made is not raised again (log entry 142). -/
def enterS (k : CoreId) : Nat → Nat → Word → TCap → State → State
  | 0, _, _, _, s => s
  | n + 1, vec, cause, rpcc, s =>
    let c := s.core k
    let f : RFrame := ⟨rpcc, swImage kindTrap c.bankOn vec c.swFrame, cause⟩
    match (pushFrame k f).run (s.setCore k { c with sw := putBits c.sw 31 23 0, converted := c.converted || vec = 19 }) with
    | .ok _ s1 =>
      let s1 := if vec = 19 then convertStep k s1 else s1
      s1.setCore k ((s1.core k).enterAt (entryPcc s1 k false vec) levelS vec)
    | .error (.stale x) _ => enterS k n vec cause rpcc (dropSlot k x s)
    | .error (.trap 14 0) s1 => overflowM k c.pcc (s1.setCore k c)
    | .error (.trap 14 x) s1 => reserveEntry k x c.pcc (s1.setCore k c)
    | .error (.trap v x) s1 => enterS k n v x c.pcc (s1.setCore k c)
    | .error _ s1 => keepHolds k.half s s1

/-- The cause of vector 18 (Table 6.1) for the oldest pending imprecise fault. -/
def impreciseCause (c : Core) : Word :=
  match c.imprecise with
  | [] => 0
  | f :: r => BitVec.ofNat 64 (f.inner * 2 ^ 56 + b2n (!r.isEmpty) * 2 ^ 55 + f.cursor.toNat % 2 ^ 55)

/-- Enters a vector with a cause from where the core stands (R113–R115). -/
def enterVector (k : CoreId) (vec : Nat) (cause : Word) (rpcc : TCap) (s : State) : State :=
  if vec = 14 ∧ cause = 0 then overflowM k rpcc s
  else if (s.core k).level = levelM ∨ vec = 23 then
    enterM k vec cause rpcc (if vec = 19 ∧ (s.core k).mstack.length < 8 then convertStep k s else s)
  else if vec = 14 then reserveEntry k cause rpcc s
  else enterS k 8 vec cause rpcc s

/-- Takes a trap or interrupt at a core (R114, R119). Older long operations retire first; while an imprecise fault is
pending, vector 18 is taken instead, at the instruction that would have been interrupted (R136 item 4). -/
def takeTrap (k : CoreId) (vec : Nat) (cause : Word) (rpcc : TCap) (s : State) : State :=
  let s := completeAllLong k s
  let c := s.core k
  if c.imprecise.isEmpty then enterVector k vec cause rpcc s else enterVector k 18 (impreciseCause c) c.pcc s

-- interrupts

/-- Rank of an interrupt's class: fast, platform, Foreman (R117). -/
def irqRank (v : Nat) : Nat := if 64 ≤ v ∧ v < 96 then 0 else if 96 ≤ v then 1 else 2

/-- The interrupt that R117 takes first in a core's state, if R114 and R124 let any be taken. -/
def nextIrq (c : Core) : Option (Nat × Word) :=
  let ie := c.swBit 20
  let hold := c.swBit 23
  if !ie || hold || c.level = levelM then none
  else
    (c.irqs.filter fun i => !(c.bankOn && irqRank i.1 == 0)).foldl (fun (b : Option (Nat × Word)) i =>
      match b with
      | none => some i
      | some j => if irqRank i.1 < irqRank j.1 ∨ (irqRank i.1 = irqRank j.1 ∧ i.1 < j.1) then some i else some j) none

/-- Takes a pending interrupt at an instruction boundary. It stays pending where its entry could not be made: an overflow,
a full journal or a report of vector 18 came first (R112, R136). -/
def takeIrq (k : CoreId) (s : State) : State :=
  let c := s.core k
  match nextIrq c with
  | none => s
  | some i =>
    let t := takeTrap k i.1 i.2 c.pcc s
    match (t.core k).rstack with
    | f :: _ =>
      if f.vector = i.1 ∧ (t.core k).level = levelS then
        t.setCore k { t.core k with irqs := (t.core k).irqs.erase i } else t
    | [] => t

-- return

/-- SW after a return: the image's SWLOW with HOLD and HCNT 0 (R121 item 4). -/
def returnSw (sw : Word) (f : RFrame) : Word := putBits (putBits sw 31 0 f.swlow) 31 23 0

/-- Whether an image's level may not be returned to (R121 item 3). -/
def levelTooHigh (c : Core) (f : RFrame) : Bool := f.level == 2 || decide (levelRank c.level < levelRank f.level)

/-- The core as a frame returns it (R121 items 4 to 7). -/
def Core.returnTo (c : Core) (f : RFrame) : Core :=
  let own := f.vector = 12 && c.thread.isSome
  { c with
    sw := returnSw c.sw f, bankOn := f.bank, pcc := f.rpcc
    decOwner := if own then c.thread else c.decOwner, decDirty := if own then false else c.decDirty
    holdStart := none, queued := 0, drain := true }

end Sys2Proof.Machine
end

