-- ==== Sys2Proof/Machine/Operands.lean ====
section
/-! DEFINITION. Instruction encodings as the decoder checks them (R60–R74) and every operand form (R64–R70, R75). -/

namespace Sys2Proof.Machine

/-- Operand classes of Table 3.9; `xd` is the X-direct operand of CAS (Table 3.6). -/
inductive OpClass where
  | i | id | xd | f | fd | b | bd | c | cd | m | p
  deriving DecidableEq, Repr

/-- Operand sizes (R67): the instruction's width, a fixed number of bytes, the decimal format or the other one, a shift
count (R84), the packed lengths (R68), and the destination of MOVZ and MOVS (R80). -/
inductive OpSize where
  | w | n (bytes : Nat) | dec | decOther | count | packHi | packLo | extended
  deriving DecidableEq, Repr

/-- What an instruction does with an operand. -/
inductive Role where
  | src | dst | both
  deriving DecidableEq, Repr

/-- An operand of an instruction's row in Table 3.6. -/
structure OpDesc where
  cls : OpClass
  size : OpSize
  role : Role
  deriving DecidableEq, Repr

/-- Width leading bytes an opcode takes (Table 3.6): the F0–F3 it allows by bit, or F4 and F5. -/
inductive Widths where
  | none | int (allowed : List Byte) | dec
  deriving DecidableEq, Repr

/-- What follows the opcode before the specifiers (R60 item 3). -/
inductive Fixed where
  | none | disp (bytes : Nat) | sysInt (write : Bool) | sysCap | packed (loUsed hiUsed : Bool)
  deriving DecidableEq, Repr

/-- A row of Table 3.6 or 3.7. -/
structure OpInfo where
  opcode : Byte
  esc : Option Byte := none
  widths : Widths := .none
  fixed : Fixed := .none
  ops : List OpDesc := []
  fore : Bool := false
  atomic : Bool := false
  cas : Bool := false
  transfer : Bool := false
  cls : Nat := 1
  deriving DecidableEq, Repr

/-- A decoded instruction: width in bits, decimal128, leading bytes (`release` = F9), packed lengths, its length and its
operands. -/
structure Inst where
  info : OpInfo
  fore : Bool
  w : Nat
  wide : Bool
  atomic : Bool
  release : Bool
  hold : Option Byte
  fixed : Nat
  fixedOff : Nat
  packHi : Nat
  packLo : Nat
  len : Nat
  ops : List (Spec × OpDesc)
  deriving DecidableEq, Repr

/-- A failure of decoding: the offset and reason of vector 9, and how many bytes were examined (R72, R73). -/
structure DecErr where
  off : Nat
  reason : Nat
  seen : Nat
  deriving DecidableEq, Repr

abbrev Dec := Except DecErr

/-- The decoder needs bytes up to `e`: a 16th takes reason 7 (R72). -/
def needBytes (e : Nat) : Dec Unit := if 15 < e then throw ⟨15, 7, 15⟩ else return

def isWidthLead (b : Byte) : Bool := 0xF0 ≤ b.toNat && b.toNat ≤ 0xF5

/-- Leading bytes, each with its offset (R61): reserved, repeated or conflicting ones refused, and in forerunner mode all
but F0–F2 (R74). -/
def decodeLeads (fore : Bool) : List Lead → Nat → List (Lead × Nat) → Dec (List (Lead × Nat) × Nat)
  | [], off, seen => return (seen, off)
  | l :: ls, off, seen => do
    needBytes (off + 1)
    let b := l.byte.toNat
    if fore && 0xF2 < b then throw ⟨off, 8, off + 1⟩
    if 0xFB ≤ b then throw ⟨off, 1, off + 1⟩
    if seen.any fun p => p.1.byte == l.byte || (isWidthLead p.1.byte && isWidthLead l.byte) then throw ⟨off, 2, off + 1⟩
    let n := if b = 0xF6 then 2 else 1
    needBytes (off + n)
    decodeLeads fore ls (off + n) (seen ++ [(l, off)])

/-- Whether a class can name memory. -/
def OpClass.memoryClass : OpClass → Bool
  | .c | .cd | .xd => false
  | _ => true

def OpInfo.memSrc (x : OpInfo) : Bool := x.ops.any fun o => o.cls.memoryClass && o.role != .dst
def OpInfo.memDst (x : OpInfo) : Bool := x.ops.any fun o => o.cls.memoryClass && o.role != .src

/-- Whether Table 3.5 allows a leading byte on an opcode. -/
def leadAllowed (x : OpInfo) (b : Byte) : Bool :=
  match b.toNat with
  | 0xF0 | 0xF1 | 0xF2 | 0xF3 => match x.widths with | .int a => a.contains b | _ => false
  | 0xF4 | 0xF5 => x.widths == .dec
  | 0xF6 => true
  | 0xF7 => x.atomic
  | 0xF8 => x.memSrc
  | 0xF9 => x.memDst
  | 0xFA => x.memSrc || x.transfer
  | _ => false

/-- Extension bytes of a specifier mode (Table 3.8), before a scale byte. -/
def extBytes (mode size : Nat) : Nat :=
  match mode with
  | 3 => size
  | 5 => 1
  | 6 | 0xB | 0xC => 2
  | 7 | 0xD => 4
  | _ => 0

/-- Whether a class accepts a mode (Table 3.9). -/
def modeLegal (cls : OpClass) (mode size : Nat) (tagOps : Bool) : Bool :=
  let mem := 4 ≤ mode && mode ≤ 0xE
  let dmem := (4 ≤ mode && mode ≤ 0xB) || mode == 0xE
  match cls with
  | .i => mode == 0 || mode == 2 || mode == 3 || mem
  | .id => mode == 0 || dmem
  | .xd => mode == 0
  | .f => mode == 1 || mode == 2 || (mode == 3 && size == 8) || mem || (mode == 0 && size == 8)
  | .fd => mode == 1 || dmem || (mode == 0 && size == 8)
  | .b => mode == 1 || mem
  | .bd => mode == 1 || dmem
  | .c | .cd => mode == 0xF
  | .m | .p => (4 ≤ mode && mode ≤ 0xB) || (tagOps && mode == 0xE)

/-- Whether a mode's register field is in range (Table 3.8, R65, R75). -/
def regFieldOk (fore : Bool) (mode reg : Nat) : Bool :=
  match mode with
  | 0 | 1 => reg < 8
  | 3 | 0xC | 0xD | 0xE => reg == 0
  | 2 | 0xF => true
  | _ => !fore || reg < 8

/-- Decodes one specifier at an offset. Where its byte breaks two rules, the mode is looked at before the register field; the spec
gives no order of reasons within a byte (log entry 102). -/
def decodeSpec (fore tagOps : Bool) (sp : Spec) (cls : OpClass) (size off : Nat) : Dec Nat := do
  needBytes (off + 1)
  let m := sp.mode.toNat
  let r := sp.reg.toNat
  if fore && (m = 1 || m = 7 || m = 0xD || m = 0xF) then throw ⟨off, 8, off + 1⟩
  if !modeLegal cls m size tagOps then throw ⟨off, 5, off + 1⟩
  if !regFieldOk fore m r then throw ⟨off, 6, off + 1⟩
  let mut o := off + 1
  if m = 0xA || m = 0xB then
    needBytes (o + 1)
    if 8 ≤ sp.scale.toNat / 16 || 5 ≤ sp.scale.toNat % 16 then throw ⟨o, 6, o + 1⟩
    o := o + 1
  let e := o + extBytes m size
  needBytes e
  return e

/-- Bytes of an operand of a size. -/
def opBytes (fore wide : Bool) (w hi lo : Nat) (z : OpSize) : Nat :=
  match z with
  | .w => w / 8
  | .n b => b
  | .dec => if wide then 16 else 8
  | .decOther => if wide then 8 else 16
  | .count => if fore then 2 else 8
  | .packHi => hi
  | .packLo => lo
  | .extended => if fore then max 2 (w / 8) else 8

/-- Numbers of Table 3.3 that RDSR and WRSR take. -/
def sysIntOk (write : Bool) (n : Nat) : Bool :=
  n == 0 || n == 1 || n == 3 || (n == 4 && !write) || (0x10 ≤ n && n ≤ 0x1F)

/-- Whether an operand in a mode reads or writes memory. -/
def isMemMode (m : Nat) : Bool := 4 ≤ m && m ≤ 0xE

/-- Decodes an instruction of a row (R60–R74). A number that names no register of the instruction's kind, or a read-only one to
write, takes reason 6 at the number byte, which the spec leaves open (log entry 103). -/
def decodeEnc (fore : Bool) (x : OpInfo) (e : Enc) : Dec Inst := do
  let (leads, off) ← decodeLeads fore e.leads 0 []
  needBytes (off + 1)
  if fore && !x.fore then throw ⟨off, 8, off + 1⟩
  let opEnd := off + (if x.esc.isSome then 2 else 1)
  needBytes opEnd
  for l in leads do
    if !leadAllowed x l.1.byte then throw ⟨l.2, 3, opEnd⟩
  let has (b : Byte) : Bool := leads.any fun l => l.1.byte == b
  let offOf (b : Byte) : Nat := ((leads.find? fun l => l.1.byte == b).map (·.2)).getD 0
  let atomic := has 0xF7 || x.cas
  if has 0xF8 && has 0xF9 && !atomic then throw ⟨max (offOf 0xF8) (offOf 0xF9), 2, opEnd⟩
  let fx := e.fixed.toNat
  let fb := fx % 256
  let nFixed := match x.fixed with | .none => 0 | .disp n => n | _ => 1
  needBytes (opEnd + nFixed)
  let o := opEnd
  match x.fixed with
  | .sysInt wr => if !sysIntOk wr fb then throw ⟨o, 6, o + 1⟩
  | .sysCap => if fb ≠ 2 then throw ⟨o, 6, o + 1⟩
  | .packed lo hi => if (!lo && fb % 16 ≠ 0) || (!hi && fb / 16 ≠ 0) then throw ⟨o, 6, o + 1⟩
  | _ => pure ()
  let w : Nat := match x.widths with
    | .int _ =>
      if has 0xF0 then 8 else if has 0xF1 then 16 else if has 0xF2 then 32 else if has 0xF3 then 64
      else if fore then 16 else 64
    | _ => 64
  let wide := has 0xF5
  let sizeOf (z : OpSize) : Nat := opBytes fore wide w (fb / 16 + 1) (fb % 16 + 1) z
  let ds : List OpDesc :=
    if has 0xF7 && x.ops.length = 3 && !x.cas then [⟨.i, .w, .src⟩, ⟨.id, .w, .both⟩] else x.ops
  let tagOps := x.opcode == 0xAB || x.opcode == 0xAC
  let mut at_ := o + nFixed
  let mut offs : List Nat := []
  for d in ds.zip e.ops do
    offs := offs ++ [at_]
    at_ ← decodeSpec fore tagOps d.2 d.1.cls (sizeOf d.1.size) at_
  let ops := (e.ops.zip ds)
  let isMem (p : Spec × OpDesc) : Bool := p.2.cls.memoryClass && isMemMode p.1.mode.toNat
  if has 0xF7 && !x.cas then
    if x.ops.length = 3 then
      let ok := ops.any fun p => p.2.role == .both && 4 ≤ p.1.mode.toNat && p.1.mode.toNat ≤ 0xB
      if !ok then throw ⟨offs.getLast?.getD at_, 5, at_⟩
    else if !(ops.any fun p => isMem p && p.2.role == .both) then throw ⟨offOf 0xF7, 3, at_⟩
  if has 0xF8 && !(ops.any fun p => isMem p && p.2.role != .dst) then throw ⟨offOf 0xF8, 3, at_⟩
  if has 0xF9 && !(ops.any fun p => isMem p && p.2.role != .src) then throw ⟨offOf 0xF9, 3, at_⟩
  if has 0xFA && !x.transfer && !(ops.any fun p => isMem p && p.2.role != .dst) then throw ⟨offOf 0xFA, 3, at_⟩
  return { info := x, fore, w, wide, atomic, release := has 0xF9
           hold := (leads.find? fun l => l.1.byte == 0xF6).map (·.1.nn)
           fixed := fx, fixedOff := o, packHi := fb / 16 + 1, packLo := fb % 16 + 1, len := at_, ops }

/-- How many specifiers an encoding of a row has. -/
def OpInfo.arity (x : OpInfo) (e : Enc) : Nat :=
  if x.atomic && !x.cas && x.ops.length = 3 && (e.leads.any fun l => l.byte == 0xF7) then 2 else x.ops.length

/-- Whether an encoding spells an instruction of a row at all: its leading bytes are leading bytes, and it has as many
specifiers as the row. -/
def encodingOf (x : OpInfo) (e : Enc) : Bool :=
  (e.leads.all fun l => 0xF0 ≤ l.byte.toNat) && e.ops.length == x.arity e

-- operands

/-- An instruction being executed. -/
structure Ctx where
  k : CoreId
  inst : Inst
  next : TCap

/-- Size in bytes of an operand (R67). -/
def Inst.size (x : Inst) (z : OpSize) : Nat := opBytes x.fore x.wide x.w x.packHi x.packLo z

/-- The operand at a place. -/
def Ctx.op (x : Ctx) (i : Nat) : Spec × OpDesc := x.inst.ops.getD i (⟨2, 0, 0, 0⟩, ⟨.i, .w, .src⟩)

/-- Where a memory operand lies: the authority, the effective address, and whether it is read through PCC. -/
structure Loc where
  cap : TCap
  ea : Int
  code : Bool

/-- The index Xi·s of modes A and B, signed (R65). -/
def scaledIndex (k : CoreId) (sp : Spec) : Exec Int := do
  let v ← readX k (sp.scale.toNat / 16)
  return signedOf 64 v * 2 ^ (sp.scale.toNat % 16)

/-- Address of a memory operand in native mode, with the cursor updates of modes 8, 9 and E (R64, R69, R70). -/
def nativeLoc (x : Ctx) (sp : Spec) (n : Nat) (push : Bool) : Exec Loc := do
  let k := x.k
  let r := sp.reg.toNat
  let c ← readC k r
  let cur : Int := c.cursor
  match sp.mode.toNat with
  | 4 => return ⟨c, cur, false⟩
  | 5 | 6 | 7 => return ⟨c, cur + sp.ext.toInt, false⟩
  | 8 =>
    writeC k r (c.step n)
    return ⟨c, cur, false⟩
  | 9 =>
    let d := c.step (-(n : Int))
    writeC k r d
    return ⟨d, cur - n, false⟩
  | 0xA => return ⟨c, cur + (← scaledIndex k sp), false⟩
  | 0xB => return ⟨c, cur + (← scaledIndex k sp) + sp.ext.toInt, false⟩
  | 0xC | 0xD =>
    let p := (← getCore k).pcc
    return ⟨p, (p.cursor : Int) + sp.ext.toInt, true⟩
  | _ =>
    let d ← readC k 14
    let dc : Int := d.cursor
    if push then
      let d := d.step (-(n : Int))
      writeC k 14 d
      return ⟨d, dc - n, false⟩
    else
      writeC k 14 (d.step n)
      return ⟨d, dc, false⟩

/-- Address of a memory operand in forerunner mode (R75): 16-bit offsets in the window of C13, or of PCC for mode C. -/
def foreLoc (x : Ctx) (sp : Spec) (n : Nat) (push : Bool) : Exec Loc := do
  let k := x.k
  let r := sp.reg.toNat
  let win ← readC k 13
  let at_ (o : Int) : Loc := ⟨win, win.base + o % 65536, false⟩
  match sp.mode.toNat with
  | 4 => return at_ (← readX k r)
  | 5 | 6 => return at_ ((← readX k r) + sp.ext.toInt)
  | 8 =>
    let v ← readX k r
    writeX k r 16 (v + n)
    return at_ v
  | 9 =>
    let v ← readX k r
    let o := ((v : Int) - n) % 65536
    writeX k r 16 o.toNat
    return at_ o
  | 0xA => return at_ ((← readX k r) + (← scaledIndex k sp))
  | 0xB => return at_ ((← readX k r) + (← scaledIndex k sp) + sp.ext.toInt)
  | 0xC =>
    let p := (← getCore k).pcc
    return ⟨p, p.base + ((p.cursor : Int) - p.base + sp.ext.toInt) % 65536, true⟩
  | _ =>
    let v ← readX k 7
    if push then
      let o := ((v : Int) - n) % 65536
      writeX k 7 16 o.toNat
      return at_ o
    else
      writeX k 7 16 (v + n)
      return at_ v

/-- Address of the memory operand at a place. -/
def Ctx.loc (x : Ctx) (i : Nat) (push : Bool) : Exec Loc :=
  let (sp, d) := x.op i
  if x.inst.fore then foreLoc x sp (x.inst.size d.size) push else nativeLoc x sp (x.inst.size d.size) push

/-- Checks an access to a memory operand. -/
def Ctx.check (x : Ctx) (l : Loc) (n : Nat) (kind : AccKind) (capWidth : Bool) (origin : Nat) : Exec (List Part) :=
  if l.code then resolveCode x.k l.cap l.ea n .read origin else resolve x.k l.cap l.ea n kind capWidth origin

/-- Loads a memory source. -/
def Ctx.load (x : Ctx) (i : Nat) : Exec (List Byte) := do
  let n := x.inst.size (x.op i).2.size
  let l ← x.loc i false
  let ps ← x.check l n .read false i
  return (← loadParts x.k l.cap false i ps).1

/-- The value of a source operand (Table 3.9), as a number of its size; a short literal is its number. -/
def Ctx.src (x : Ctx) (i : Nat) : Exec Nat := do
  let (sp, d) := x.op i
  let n := x.inst.size d.size
  match sp.mode.toNat with
  | 0 => return (← readX x.k sp.reg.toNat) % 2 ^ (8 * n)
  | 1 => return (← readD x.k sp.reg.toNat) % 2 ^ (8 * n)
  | 2 => return sp.reg.toNat
  | 3 => return sp.ext.toNat % 2 ^ (8 * n)
  | _ => return leNat (← x.load i)

/-- The value of a decimal source: a short literal has exponent 0 (R66). -/
def Ctx.srcDec (x : Ctx) (i : Nat) : Exec FVal := do
  let (sp, d) := x.op i
  let wide := x.inst.size d.size = 16
  if sp.mode.toNat = 2 then return .fin false sp.reg.toNat 0
  else return ofBid wide (← x.src i)

/-- Where a result goes: a register, or checked parts of memory. -/
inductive Dest where
  | x (n : Nat)
  | d (n : Nat)
  | mem (cap : TCap) (ps : List Part)

/-- The destination at a place, checked for a write (R69). -/
def Ctx.dst (x : Ctx) (i : Nat) : Exec Dest := do
  let (sp, d) := x.op i
  match sp.mode.toNat with
  | 0 => return .x sp.reg.toNat
  | 1 => return .d sp.reg.toNat
  | _ =>
    let l ← x.loc i true
    return .mem l.cap (← resolve x.k l.cap l.ea (x.inst.size d.size) .write false i)

/-- Address of an operand that is read and written: on the data stack the read pops and the write pushes, so the top item
is changed in place (R70). -/
def Ctx.locBoth (x : Ctx) (i : Nat) : Exec Loc := do
  if (x.op i).1.mode.toNat = 0xE then
    if x.inst.fore then
      let win ← readC x.k 13
      return ⟨win, win.base + ((← readX x.k 7) : Int) % 65536, false⟩
    else
      let d ← readC x.k 14
      return ⟨d, d.cursor, false⟩
  else x.loc i false

/-- An operand that is read and then written, not under ATOMIC: its value and its destination. In native mode its parts lengthen a
slot once, with the write (R145); in forerunner mode its words count twice (R147). -/
def Ctx.both (x : Ctx) (i : Nat) : Exec (Nat × Dest) := do
  let (sp, d) := x.op i
  let n := x.inst.size d.size
  match sp.mode.toNat with
  | 0 => return ((← readX x.k sp.reg.toNat) % 2 ^ (8 * n), .x sp.reg.toNat)
  | _ =>
    let l ← x.locBoth i
    let r ← resolve x.k l.cap l.ea n .read false i
    if x.inst.fore then paceAccess x.k r
    let v ← loadUnpaced x.k l.cap false i r
    return (leNat v.1, .mem l.cap (← resolve x.k l.cap l.ea n .write false i))

/-- The writes that a value makes to checked parts. -/
def Ctx.putParts (x : Ctx) (cap : TCap) (ps : List Part) (bs : List Byte) : List PutPart :=
  let va := ((ps.head?).map (·.va)).getD 0
  ps.map fun p => ⟨p, cap, sliceB bs (p.va - va) p.n, false, false, x.inst.release⟩

/-- The memory writes of a result. -/
def Ctx.memPuts (x : Ctx) (r : Dest × Nat × Nat) : List PutPart :=
  match r.1 with
  | .mem cap ps => x.putParts cap ps (leBytes r.2.1 r.2.2)
  | _ => []

/-- Writes a result that goes to a register (R54). -/
def Ctx.writeReg (x : Ctx) (r : Dest × Nat × Nat) : Exec Unit :=
  match r.1 with
  | .x n => writeX x.k n (8 * r.2.1) r.2.2
  | .d n => writeD x.k n r.2.2
  | .mem _ _ => return

/-- Writes results (R54, R69): memory first, since only those writes can still be refused, then registers in order. A
D register takes a decimal64 with its high half 0. -/
def Ctx.write (x : Ctx) (rs : List (Dest × Nat × Nat)) : Exec Unit := do
  putAll x.k (rs.map x.memPuts)
  for r in rs do x.writeReg r

/-- Writes one result of an operand's size. -/
def Ctx.put (x : Ctx) (i : Nat) (d : Dest) (v : Nat) : Exec Unit := x.write [(d, x.inst.size (x.op i).2.size, v)]

-- atomics

/-- One indivisible read and write of a memory operand (R131): `f` gives the value to write, or none (CAS). Remotely it is
performed at the home, and a restartable step is converted first (R209). Answers the old value; `also` is what the instruction
writes to its other operand with it, so that memory is written only when every write may be made. -/
def Ctx.atomicRmw (x : Ctx) (i : Nat) (operand expected : Nat) (l : Loc) (f : Nat → Option Nat)
    (also : Nat → List (Dest × Nat × Nat) := fun _ => []) : Exec Nat := do
  let k := x.k
  let n := x.inst.size (x.op i).2.size
  let ps ← resolve k l.cap l.ea n .atomic false i
  match ps with
  | [p] =>
    paceAccess k ps
    awaitDest k (overlaps (← get) k.half (p.spot (← get) k.half l.cap) p.n)
    let old ← (if p.remote then do
        if ((← getCore k).restartable) then journalFull 3 p.va
        awaitOverlap k l.cap.node p.va p.n
        paceAccess k ps
        let s ← get
        let data := x.inst.info.opcode :: zerosB 7 ++ leBytes 8 operand ++ (if x.inst.info.cas then leBytes 8 expected else [])
        let r ← remoteCall k (remotePacket s k l.cap 3 n p.va data false) p.va
        return leNat (sliceB r.payload 0 n)
      else do return leNat (← loadUnpaced k l.cap false i ps).1)
    let own := if p.remote then [] else
      match f old with
      | some v => x.putParts l.cap ps (leBytes n v)
      | none => []
    if own.isEmpty && !p.remote then paceAccess k ps
    putAll k (own :: (also old).map x.memPuts)
    for r in also old do x.writeReg r
    return old
  | _ => memFault 8 i 0 (unsignedOf 55 l.ea)

end Sys2Proof.Machine
end

