-- ==== Sys2Proof/WellFormed.lean ====
section
/-! DEFINITION. Which commands a sender can form: the operands that an encoding, a bus or a link can carry. A command that
is not well-formed is no command of the device; what exec makes of one is outside every statement. -/

namespace Sys2Proof

/-- A leading byte is F0–FF, and only F6 has a count byte after it (R61, Table 3.5). -/
def Lead.wf (l : Lead) : Bool := 0xF0 ≤ l.byte.toNat && (l.byte == 0xF6 || l.nn == 0)

/-- `v` is a two's-complement number of `n` bits, sign-extended. -/
def signedFits (n : Nat) (v : Word) : Bool := decide (-(2 ^ (n - 1) : Int) ≤ v.toInt ∧ v.toInt < (2 ^ (n - 1) : Int))

/-- The extension value that a specifier's mode lets it carry: none, or a displacement of 1, 2 or 4 bytes; an immediate is
bounded by its operand's size (R64, Table 3.8). Only modes A and B have a scale byte (R65). -/
def Spec.wf (sp : Spec) : Bool :=
  (sp.mode == 0xA || sp.mode == 0xB || sp.scale == 0) &&
  (match sp.mode.toNat with
   | 3 => true
   | 5 => signedFits 8 sp.ext
   | 6 | 0xB | 0xC => signedFits 16 sp.ext
   | 7 | 0xD => signedFits 32 sp.ext
   | _ => sp.ext == 0)

/-- An instruction's encoding: leading bytes, then at most three specifiers (R60). -/
def Enc.wf (e : Enc) : Bool := e.leads.all Lead.wf && e.ops.all Spec.wf && e.ops.length ≤ 3

/-- No number twice. -/
def noRepeat : List (Fin 8) → Bool
  | [] => true
  | a :: l => !l.contains a && noRepeat l

/-- A node table lists a node once. -/
def nodesOnce : List NodeEntry → Bool
  | [] => true
  | a :: l => !(l.any fun b => b.node == a.node) && nodesOnce l

/-- A Cruise message's node table lists each node once (R337). -/
def CruMsg.wf : CruMsg → Bool
  | .table _ _ es => nodesOnce es
  | .merge _ _ es => nodesOnce es
  | .hello _ _ | .grant _ _ _ _ _ | .excluded => true

/-- Well-formed commands. -/
def Instr.wf : Instr → Bool
  -- Aboux/C instructions
  | .nop _ e => e.wf
  | .wait _ e => e.wf
  | .fence _ e => e.wf
  | .fenceE _ e => e.wf
  | .svc _ e => e.wf
  | .mcall _ e => e.wf
  | .ret _ e => e.wf
  | .reti _ e => e.wf
  | .bpt _ e => e.wf
  | .mov _ e => e.wf
  | .movz _ e => e.wf
  | .movs _ e => e.wf
  | .clr _ e => e.wf
  | .xchg _ e => e.wf
  | .swapb _ e => e.wf
  | .add _ e => e.wf
  | .adc _ e => e.wf
  | .sub _ e => e.wf
  | .sbc _ e => e.wf
  | .neg _ e => e.wf
  | .inc _ e => e.wf
  | .dec _ e => e.wf
  | .cmp _ e => e.wf
  | .and _ e => e.wf
  | .or _ e => e.wf
  | .xor _ e => e.wf
  | .not _ e => e.wf
  | .tst _ e => e.wf
  | .shl _ e => e.wf
  | .shr _ e => e.wf
  | .sar _ e => e.wf
  | .rol _ e => e.wf
  | .ror _ e => e.wf
  | .mul _ e => e.wf
  | .muluH _ e => e.wf
  | .mulsH _ e => e.wf
  | .div _ e => e.wf
  | .divu _ e => e.wf
  | .rem _ e => e.wf
  | .remu _ e => e.wf
  | .daa _ e => e.wf
  | .addp _ e => e.wf
  | .subp _ e => e.wf
  | .cmpp _ e => e.wf
  | .cvtpb _ e => e.wf
  | .cvtbp _ e => e.wf
  | .cvtpd _ e => e.wf
  | .cvtdp _ e => e.wf
  | .bcc _ _ _ e => e.wf
  | .brl _ e => e.wf
  | .jmp _ e => e.wf
  | .call _ e => e.wf
  | .jmpa _ e => e.wf
  | .calla _ e => e.wf
  | .callr _ e => e.wf
  | .callrl _ e => e.wf
  | .rdsr _ e => e.wf
  | .wrsr _ e => e.wf
  | .rdsc _ e => e.wf
  | .wrsc _ e => e.wf
  | .rdsw _ e => e.wf
  | .wrsw _ e => e.wf
  | .ei _ e => e.wf
  | .di _ e => e.wf
  | .cas _ e => e.wf
  | .ccopy _ e => e.wf
  | .cstep _ e => e.wf
  | .cplace _ e => e.wf
  | .cfit _ e => e.wf
  | .cfitx _ e => e.wf
  | .cdrop _ e => e.wf
  | .cmode _ e => e.wf
  | .cbrand _ e => e.wf
  | .cunbr _ e => e.wf
  | .csent _ e => e.wf
  | .cvoid _ e => e.wf
  | .cldc _ e => e.wf
  | .cstc _ e => e.wf
  | .crbase _ e => e.wf
  | .crtop _ e => e.wf
  | .crspan _ e => e.wf
  | .crperm _ e => e.wf
  | .crotype _ e => e.wf
  | .crtag _ e => e.wf
  | .crnode _ e => e.wf
  | .crepoch _ e => e.wf
  | .dadd _ e => e.wf
  | .dsub _ e => e.wf
  | .dmul _ e => e.wf
  | .ddiv _ e => e.wf
  | .dcmp _ e => e.wf
  | .dquant _ e => e.wf
  | .drnd _ e => e.wf
  | .dneg _ e => e.wf
  | .dabs _ e => e.wf
  | .dcvti _ e => e.wf
  | .dcvtf _ e => e.wf
  | .dcvtw _ e => e.wf
  | .fadd _ e => e.wf
  | .fsub _ e => e.wf
  | .fmul _ e => e.wf
  | .fdiv _ e => e.wf
  | .fcmp _ e => e.wf
  | .fcvtd _ e => e.wf
  | .fcvtb _ e => e.wf
  | .tlbi _ e => e.wf
  | .tlbia _ e => e.wf
  | .tlbik _ e => e.wf
  | .wci _ e => e.wf
  | .pmcrd _ e => e.wf
  -- a bus write carries one to eight bytes; R8 says what those of another size than 4 or 8 get
  | .registerWrite _ _ _ size _ => 1 ≤ size && size ≤ 8
  -- a core of the grove is named once
  | .groveTakeover _ _ unreadable => noRepeat unreadable
  -- a PFC frame has eight times (R219)
  | .pfcFrame _ _ _ times => times.length == 8
  -- a flit has 72 bytes (R330)
  | .flitReceive _ _ flit => flit.length == 72
  | .cru _ _ msg => msg.wf
  -- a P-384 signature has 96 bytes (R398)
  | .dbgAuth _ signature _ => signature.length == 96
  -- a flash transfer moves at most the 65,535 bytes its length field can say (R433)
  | .spiTransferComplete rx => rx.length < 65536
  | .longOperationComplete _ _ | .interruptEntry _ | .holdOverrun _ | .paceMiss _ _ | .pacedEnable _ _ _ _
  | .pacedCopyComplete _ _ | .start _ _ _ | .abortThread _ _ _ | .abortCompartment _ _ _ | .free _ _ _
  | .signal _ _ _ | .timer _ _ | .switchIn _ | .stepLimit _ | .boundaryEntryWrite _ _ _ _ _ | .groupDisable _ _ _
  | .groupDrained _ _ | .groupEnable _ _ _ | .boundaryHoldTimeout _ | .bndFence _ _ _ | .codewordViolation _ _ _
  | .pacedAreaCopyComplete _ _ _ | .stall _ _ _ _ | .rotationWindow _ | .drainEnd _ | .selfTestComplete _ _ _
  | .returnEnd _ | .suspensionWindow _ | .faultInject _ _ _ | .fltRetest _ _ _ | .retestComplete _ _ | .claim _ _
  | .renew _ | .latchRelease _ | .leaseExpiry | .lockstep _ _ | .seamLoss | .oscFail | .scrubRead _ _ _
  | .scrubLate _ _ | .codestorePatrolRead _ _ _ _ | .frameReceive _ _ _ | .pfcRepeat _ _ _ | .pauseFrame _ _ _
  | .pauseTimeExpiry _ _ _ | .ethModeWrite _ _ _ | .autoNegotiationComplete _ _ _ | .linkUp _ _ | .linkLoss _ _
  | .flumeSessionLookup _ | .reassemblyTimeout _ _ | .retransmissionTimeout _ _ | .delayedAckTimeout _ _
  | .keepaliveTimeout _ _ | .udpIdleTimeout _ _ | .coldSessionFetch _ _ | .openSession _ _ _ _ | .close _ _ _
  | .abort _ _ _ | .path0 _ _ _ | .path1 _ _ _ | .release _ _ _ | .frameTransmit _ _ | .tmbStep _ _ _
  | .tmbTxts0Read _ _ | .ppsIn | .ppsOut | .ppsOutFall | .recordUnprotect _ _ | .recordProtect _ _
  | .primitivePost _ _ _ | .rand _ | .keygen _ | .ecdh _ | .hash _ | .extract _ | .expand _ | .hmac _ | .sign _
  | .verify _ | .install _ | .kilnFree _ | .unwrap _ _ _ _ | .clear _ _ _ | .done _ _ | .entropyFail _
  | .drbgReseed _ | .millParseJob _ _ | .frameBuild _ _ | .load _ _ _ _ | .unload _ _ _ | .scalerJob _ _
  | .sweepClose _ _ | .set _ _ _ | .read _ _ _ | .flush _ _ _ | .dropCurve _ _ _ | .dropProgram _ _ _
  | .doorbell _ _ _ | .descriptorFetch _ | .acceptance _ _ | .createRing _ _ | .destroyRing _ _ | .ackAttn _ _
  | .queryRing _ _ | .nopCommand _ _ | .send _ _ | .deliver _ _ | .raw _ _ | .group _ _ | .replyRecordWrite _ _
  | .replyPost _ | .framePost _ | .msixModerationTimeout _ _ | .ringEngineEnable _ _ | .ringEngineDisable _ _
  | .hifNotice _ _ | .hostInterfaceReset _ | .bdfCapture _ _ | .completionTimeout _ _ | .dedupExpiry _ _
  | .partTimeout _ _ _ | .linkTrained _ _ | .linkTrainRetry _ _ | .nak _ _ _ | .linkDown _ _ _ | .rd _ | .wr _
  | .atom _ | .eff _ | .sig _ | .rsp _ | .part _ | .pres _ | .mirr _ | .mack _ | .keyx _ | .excluded _ | .hb _
  | .heartbeatSend _ | .busyResend _ _ | .nodeDead _ _ | .silence _ | .adoption _ | .bomFinv _ _ | .bomXsig _ _ _ _
  | .ctrRead _ | .ctrAdvance _ | .svnCommit _ | .update _ | .lcRequest _ | .safe _ | .activate _ | .lcsXreq _ _ _
  | .lcsCinc _ _ _ _ | .tamperAlarm _ | .powerOnReset | .warmReset | .warm _ _ | .resetRelease
  | .ddrTrainingComplete _ _ | .ddrInitComplete _ | .coreRelease | .railOutOfRange _ | .watchEntry | .wake _
  | .wakeComplete | .voltageStep _ _ | .pmbusPoll _ _ _ _ _ | .smbReadIdv | .smbReadPwrStat _ | .smbReadFltGuar
  | .smbReadTmpAlarm | .smbReadLcsState | .smbWake | .spiGo _ _ _ | .uartDataWrite _ _ _ _ | .uartDataRead _ _ _
  | .uartReceive _ _ | .uartTransmit _ | .tapReset | .bypass _ | .idcode _ | .samplePreload _ | .extest _ | .highz _
  | .clamp _ | .extestPulse _ | .extestTrain _ | .dbgAccessRead _ _ | .dbgAccessWrite _ _ _ | .bootStageComplete _ _
  | .lifeCycleTransitionComplete _ | .msixVectorUnmask _ _ | .keptResponseExpiry _ _ _ | .pcieLinkUp _ => true

end Sys2Proof
end

