-- ==== Sys2Proof/Machine/InstrBytes.lean ====
section
/-! DEFINITION. The bytes of an Aboux/C instruction as they lie in memory (R60–R68): an encoding written out byte by byte, and
read back from bytes for a row of Table 3.6 or 3.7. -/

namespace Sys2Proof.Machine

/-- A leading byte, and the count byte that F6 has after it (Table 3.5). -/
def leadBytes (l : Lead) : List Byte := if l.byte = 0xF6 then [l.byte, l.nn] else [l.byte]

/-- Whether a leading byte stands among those of an encoding. -/
def hasLead (ls : List Lead) (b : Byte) : Bool := ls.any fun l => l.byte == b

/-- Width in bits that the leading bytes give an integer instruction (R61, Table 3.5). -/
def widthOf (fore : Bool) (x : OpInfo) (ls : List Lead) : Nat :=
  match x.widths with
  | .int _ =>
    if hasLead ls 0xF0 then 8 else if hasLead ls 0xF1 then 16 else if hasLead ls 0xF2 then 32
    else if hasLead ls 0xF3 then 64 else if fore then 16 else 64
  | _ => 64

/-- Operands an encoding of a row has: under ATOMIC a three-operand row has two (R61). -/
def opRows (x : OpInfo) (ls : List Lead) : List OpDesc :=
  if hasLead ls 0xF7 && x.ops.length = 3 && !x.cas then [⟨.i, .w, .src⟩, ⟨.id, .w, .both⟩] else x.ops

/-- Operand sizes of an encoding, in order (R67, R68). -/
def opSizes (fore : Bool) (x : OpInfo) (ls : List Lead) (fixed : BitVec 32) : List Nat :=
  (opRows x ls).map fun d =>
    opBytes fore (hasLead ls 0xF5) (widthOf fore x ls) (fixed.toNat % 256 / 16 + 1) (fixed.toNat % 256 % 16 + 1) d.size

/-- How many fixed bytes follow the opcode (R60 item 3). -/
def Fixed.len : Fixed → Nat
  | .none => 0
  | .disp n => n
  | .sysInt _ | .sysCap | .packed _ _ => 1

/-- Whether a mode has a scale byte (Table 3.8). -/
def hasScale (mode : BitVec 4) : Bool := mode == 0xA || mode == 0xB

/-- A specifier and its extension bytes (R64, R65). -/
def specBytes (sp : Spec) (size : Nat) : List Byte :=
  BitVec.ofNat 8 (sp.mode.toNat * 16 + sp.reg.toNat) :: (if hasScale sp.mode then [sp.scale] else []) ++
    leBytes (extBytes sp.mode.toNat size) sp.ext.toNat

/-- Opcode bytes: the opcode, or the escape byte and its number (R60 item 2). -/
def opcodeBytes (x : OpInfo) : List Byte :=
  match x.esc with
  | none => [x.opcode]
  | some nn => [x.opcode, nn]

/-- The specifiers of an encoding, each followed at once by its extension bytes (R60 item 4). -/
def specsBytes : List Spec → List Nat → List Byte
  | sp :: sps, n :: ns => specBytes sp n ++ specsBytes sps ns
  | _, _ => []

/-- An instruction's bytes, in the order of R60. -/
def encBytes (fore : Bool) (x : OpInfo) (e : Enc) : List Byte :=
  e.leads.flatMap leadBytes ++ opcodeBytes x ++ leBytes x.fixed.len e.fixed.toNat ++
    specsBytes e.ops (opSizes fore x e.leads e.fixed)

-- and back

/-- Leading bytes up to the first byte below F0. -/
def readLeads : List Byte → List Lead × List Byte
  | [] => ([], [])
  | [b] => if 0xF0 ≤ b.toNat then ([⟨b, 0⟩], []) else ([], [b])
  | b :: c :: bs =>
    if b = 0xF6 then
      let r := readLeads bs
      (⟨b, c⟩ :: r.1, r.2)
    else if 0xF0 ≤ b.toNat then
      let r := readLeads (c :: bs)
      (⟨b, 0⟩ :: r.1, r.2)
    else ([], b :: c :: bs)

/-- `v` of n bytes as a signed displacement. -/
def displacement (n v : Nat) : Word := BitVec.ofInt 64 (signedOf (8 * n) v)

/-- The extension value that extension bytes spell: signed but for an immediate. -/
def extValue (mode n v : Nat) : Word :=
  if mode = 3 then BitVec.ofNat 64 v else if n = 0 then 0 else displacement n v

/-- A specifier with its extension bytes, and the bytes after it. -/
def readSpec (size : Nat) : List Byte → Option (Spec × List Byte)
  | [] => none
  | b :: bs =>
    let mode := BitVec.ofNat 4 (b.toNat / 16)
    let reg := BitVec.ofNat 4 (b.toNat % 16)
    let n := extBytes mode.toNat size
    let k := if hasScale mode then 1 else 0
    if bs.length < k + n then none
    else some (⟨mode, reg, if hasScale mode then bs.headD 0 else 0, extValue mode.toNat n (leNat ((bs.drop k).take n))⟩,
      bs.drop (k + n))

/-- The specifiers of operands of the sizes given. -/
def readSpecs : List Nat → List Byte → Option (List Spec × List Byte)
  | [], bs => some ([], bs)
  | n :: ns, bs => do
    let r ← readSpec n bs
    let q ← readSpecs ns r.2
    return (r.1 :: q.1, q.2)

/-- What the fixed bytes of a row hold: a displacement is signed. -/
def fixedValue (f : Fixed) (v : Nat) : BitVec 32 :=
  match f with
  | .disp n => BitVec.ofInt 32 (signedOf (8 * n) v)
  | _ => BitVec.ofNat 32 v

/-- Drops the opcode bytes of a row, or none where others stand there. -/
def dropOpcode (x : OpInfo) (bs : List Byte) : Option (List Byte) :=
  if (opcodeBytes x).isPrefixOf bs then some (bs.drop (opcodeBytes x).length) else none

/-- The encoding of a row that bytes begin with, and the bytes after it; none where they spell another row or end too
early. -/
def readEnc (fore : Bool) (x : OpInfo) (bs : List Byte) : Option (Enc × List Byte) := do
  let ls := readLeads bs
  let r ← dropOpcode x ls.2
  if r.length < x.fixed.len then none else
  let fixed := fixedValue x.fixed (leNat (r.take x.fixed.len))
  let q ← readSpecs (opSizes fore x ls.1 fixed) (r.drop x.fixed.len)
  return (⟨ls.1, fixed, q.1⟩, q.2)

-- bytes that spell no instruction (R62, R63, R74)

/-- Whether an opcode stands in Table 3.6; in forerunner mode, whether the L column marks it. -/
def listedOpcode (fore : Bool) (op : Nat) : Bool :=
  if fore then
    op == 0 || op == 4 || (6 ≤ op && op ≤ 8) || (0x10 ≤ op && op ≤ 0x15) || (0x20 ≤ op && op ≤ 0x2C) || (0x30 ≤ op && op ≤ 0x34) ||
      (0x40 ≤ op && op ≤ 0x46) || (0x50 ≤ op && op ≤ 0x55) || (0x60 ≤ op && op ≤ 0x7F) || (0x84 ≤ op && op ≤ 0x86) ||
      (0x94 ≤ op && op ≤ 0x97)
  else
    op ≤ 8 || (0x10 ≤ op && op ≤ 0x15) || (0x20 ≤ op && op ≤ 0x2C) || (0x30 ≤ op && op ≤ 0x34) || (0x40 ≤ op && op ≤ 0x46) ||
      (0x50 ≤ op && op ≤ 0x57) || (0x60 ≤ op && op ≤ 0x82) || (0x84 ≤ op && op ≤ 0x87) || (0x90 ≤ op && op ≤ 0x98) ||
      (0xA0 ≤ op && op ≤ 0xAC) || (0xB0 ≤ op && op ≤ 0xB7) || (0xC0 ≤ op && op ≤ 0xCB) || (0xD0 ≤ op && op ≤ 0xD6)

/-- Whether an escape number stands in Table 3.7. -/
def listedEscape (nn : Nat) : Bool := nn ≤ 3 || nn == 0x10

/-- How bytes are refused before any operand of theirs is looked at: by their prefixes (R61), by an unlisted opcode or escape number
(reason 4), or by an opcode that forerunner mode does not accept (reason 8). None where they name an instruction or end too early. -/
def opcodeRefused (fore : Bool) (bs : List Byte) : Option DecErr :=
  match decodeLeads fore (readLeads bs).1 0 [], (readLeads bs).2 with
  | .error d, _ => some d
  | .ok _, [] => none
  | .ok (_, off), op :: rest =>
    if 15 ≤ off then some ⟨15, 7, 15⟩
    else if op = 0xEF ∧ !fore then
      match rest with
      | [] => none
      | nn :: _ =>
        if 14 ≤ off then some ⟨15, 7, 15⟩ else if listedEscape nn.toNat then none else some ⟨off + 1, 4, off + 2⟩
    else if listedOpcode fore op.toNat then none
    else some ⟨off, if fore then 8 else 4, off + 1⟩

/-- Whether an encoding can be written in a row's bytes without loss: well-formed, a specifier per operand, immediates
within their operands' sizes and fixed bytes within theirs. -/
def encFits (fore : Bool) (x : OpInfo) (e : Enc) : Bool :=
  e.wf && e.ops.length == (opRows x e.leads).length && x.opcode.toNat < 0xF0 &&
  ((e.ops.zip (opSizes fore x e.leads e.fixed)).all fun p => p.1.mode != 3 || p.1.ext.toNat < 2 ^ (8 * p.2)) &&
  (match x.fixed with
   | .none => e.fixed == 0
   | .disp n => 1 ≤ n && n ≤ 4 && decide (-(2 ^ (8 * n - 1) : Int) ≤ e.fixed.toInt ∧ e.fixed.toInt < (2 ^ (8 * n - 1) : Int))
   | .sysInt _ | .sysCap | .packed _ _ => e.fixed.toNat < 256)

end Sys2Proof.Machine
end

