-- ==== Sys2Proof/Machine/Run.lean ====
section
/-! DEFINITION. How a core executes one instruction: fetch checks and decoding (R38, R72), HOLD (R125, R126), privilege and
decimal availability (R104, R116, R127), the instruction's own effect, and its retirement (R133, R145–R148). -/

namespace Sys2Proof.Machine

/-- Where an instruction leaves the core: at the next instruction, at another PCC (a taken transfer), in a trap whose frame
returns to the next instruction, or done by the body itself (`moved` = a transfer that has been taken). -/
inductive Flow where
  | seq
  | jump (pcc : TCap)
  | event (vec : Nat) (cause : Word) (rpcc : TCap)
  | done (moved : Bool)
  deriving DecidableEq, Repr

/-- Vector 9 (R73). -/
def illegalCause (off reason : Nat) : Word := BitVec.ofNat 64 (reason * 256 + off)

/-- Vector 10 (Table 5.6). -/
def privCause (level : Nat) (x : Inst) : Word :=
  let mid := match x.info.esc, x.info.fixed with
    | some nn, _ => nn.toNat
    | none, .sysInt _ | none, .sysCap => x.fixed % 256
    | none, _ => 0
  BitVec.ofNat 64 (level * 2 ^ 16 + mid * 256 + x.info.opcode.toNat)

/-- Vector 12 (Table 5.6). -/
def decimalCause (c : Core) (x : Inst) : Word :=
  BitVec.ofNat 64 ((c.decOwner.getD 0xFFFFFFFF) * 2 ^ 32 + x.info.opcode.toNat)

/-- A decimal instruction (R127). -/
def Inst.isDecimal (x : Inst) : Bool :=
  let o := x.info.opcode.toNat
  x.info.esc.isNone && (o == 0x56 || o == 0x57 || (0xC0 ≤ o && o ≤ 0xCB) || (0xD0 ≤ o && o ≤ 0xD6) ||
    ((o == 0x90 || o == 0x91) && x.fixed % 256 == 3)) || x.ops.any fun p => p.1.mode == 1

/-- Fetches the first n bytes of an instruction (R38, R72, Table 7.1): the checks of R38 and the lines of the code store. -/
def fetch (k : CoreId) (n : Nat) : Exec Unit := do
  let p := (← getCore k).pcc
  let rec bytes : Nat → Nat → Exec Unit
    | 0, _ => return
    | f + 1, i => do
      let _ ← resolveCode k p ((p.cursor : Int) + i) 1 .fetch 3
      bytes f (i + 1)
  bytes n 0
  let a := p.cursor
  let s ← get
  match placeOf s k.half a with
  | .code own off =>
    for (b, m) in partsOf a n do
      if (codeCopy s k b).isNone then
        let r := codeRead (← get) (if own then k.half else k.half.other) (b - (a - off)) m
        set r.2.2
        if r.2.1.isSome then memFault 16 3 0 b
    if !p.mode then paceTicks k (400 * ((partsOf a n).filter fun q => !inScratchpad s k q.1).length)
  | _ => pure ()

/-- The base cost of an instruction on a paced grove (Table 6.4). -/
def baseTicks (cls : Nat) (wide : Bool) : Nat :=
  match cls with
  | 1 => 4
  | 2 => 8
  | 3 | 4 | 6 => 12
  | 5 => 28
  | 7 | 14 => 16
  | 8 => if wide then 10 else 8
  | 9 => if wide then 16 else 10
  | 10 => if wide then 52 else 28
  | 11 | 13 => 6
  | 12 => if wide then 12 else 8
  | 15 => 8
  | 16 => 40
  | _ => 4

/-- Class clocks of a forerunner instruction (Table 6.6). -/
def foreClocks (x : Inst) (taken : Bool) : Nat :=
  let o := x.info.opcode.toNat
  let byW (a b c : Nat) : Nat := if x.w = 8 then a else if x.w = 16 then b else c
  let l := max x.packHi x.packLo
  if 0x60 ≤ o ∧ o ≤ 0x7F then (if taken then 8 else 4)
  else if o = 0x84 then 8
  else if o = 0x85 ∨ o = 0x86 then 14
  else if o = 0x06 ∨ o = 0x07 then 12
  else if 0x40 ≤ o ∧ o ≤ 0x42 then byW 14 22 38
  else if 0x43 ≤ o ∧ o ≤ 0x46 then byW 18 26 44
  else if 0x51 ≤ o ∧ o ≤ 0x53 then 6 + 2 * l
  else if o = 0x54 then 8 + 3 * x.packHi
  else if o = 0x55 then 8 + 3 * x.packLo
  else if o = 0x04 then 40
  else 3

/-- The class of an instruction for a slot: a taken branch is class 2 (Table 6.4). -/
def slotClass (x : Inst) (taken : Bool) : Nat := if taken && 0x60 ≤ x.info.opcode.toNat && x.info.opcode.toNat ≤ 0x7F then 2 else x.info.cls

/-- What retirement does beside the instruction's own effect: the accessed and dirty bits of its pages (R156), counters 0 and 2, HOLD
(R125), the slot of a paced grove (R145) and the prefetch queue of a forerunner (R147). -/
def retire (x : Ctx) (taken : Bool) : Exec Unit := do
  flushMarks x.k
  let s ← get
  let k := x.k
  let fr := frTicks s k
  let clocks := foreClocks x.inst taken
  paceTicks k (if x.inst.fore then (4 * ((x.inst.len - (s.core k).queued + 1) / 2) + clocks) * fr
    else baseTicks (slotClass x.inst taken) x.inst.wide)
  modCore k fun c =>
    let hc := nbits c.sw.toNat 31 24
    let sw := if c.swBit 23 then (if hc = 0 then putBits c.sw 31 23 0 else putBits c.sw 31 24 (hc - 1)) else c.sw
    let queued :=
      if !x.inst.fore || taken then 0 else min 8 ((c.queued - x.inst.len) + 2 * (clocks / 4))
    { c with
      sw, queued, remote := [], lastOpcode := x.inst.info.opcode
      lastClass := if x.inst.fore then 0 else slotClass x.inst taken
      holdStart := if sw.toNat.testBit 23 then c.holdStart else none
      popped := [], issued := false
      perf := (c.perf.set! 0 (c.perf[0]! + 1)).set! 2 (c.perf[2]! + 1) }

/-- Opens a HOLD region at issue (R125); an instruction that has waited since has opened it. -/
def openHold (x : Ctx) : Exec Unit := do
  let now := (← get).elapsed
  match x.inst.hold with
  | some nn =>
    modCore x.k fun c => if c.issued then c else
      { c with sw := putBits (putBits c.sw 23 23 1) 31 24 nn.toNat, holdStart := some now, issued := true }
  | none => return

/-- Outside a HOLD region a slot begins with no ticks of an older one (R125, R145). -/
def newSlot (k : CoreId) (opens : Bool) : Exec Unit :=
  modCore k fun c => if (opens && !c.issued) || !c.swBit 23 then { c with pacedTicks := 0 } else c

/-- What an instruction meets before it executes: a committed store of its thread that was refused (R50), an imprecise fault to be
reported where it re-executes (R137), and the older accesses that a level change (R119), or side-effect order in a step that holds
nothing back (R154, R209), has it wait for. -/
def beforeInstr (k : CoreId) : Exec Unit := do
  let s ← get
  let c := s.core k
  match (if c.level = levelM then none else (s.half k.half).fmn.refused.find? fun r => c.thread == some r.thread) with
  | some r =>
    set (s.upd k.half fun y => { y with fmn := { y.fmn with refused := y.fmn.refused.erase r } })
    memFault r.vec r.origin r.detail r.va
  | none =>
    if c.report == some c.pcc.cursor && !c.imprecise.isEmpty then throw (.trap 18 0)
    if (c.drain && unperformed s k) || (!c.restartable && c.handed.any fun e => e.thread == c.who) then throw .wait
    modCore k fun c => { c with drain := false }

/-- The next instruction's PCC (R106). -/
def nextPcc (p : TCap) (len : Nat) : TCap := p.step len

/-- Whether a HOLD region has used its 256 ticks: by the clock, on a paced grove by the sum of its slots (R125, R145). -/
def holdLimit (s : State) (k : CoreId) : Bool :=
  if isPaced s k then decide (256 ≤ (s.core k).pacedTicks) else (s.core k).holdStart.any fun t => 256 ≤ s.elapsed - t

/-- What a decoded instruction must pass to execute: HOLD (R125, R126), privilege (R116) and decimal availability (R127). -/
def issueChecks (k : CoreId) (i : Inst) (deny : State → Core → Inst → Bool) : Exec Unit := do
  let s ← get
  let c := s.core k
  if c.swBit 23 then
    if holdLimit s k then throw (.trap 17 (holdCause c 1))
    if i.hold.isSome && !c.issued then throw (.trap 17 (holdCause c 2))
  if deny s c i then throw (.trap 10 (privCause c.level i))
  if c.level = levelC && i.isDecimal && c.thread ≠ c.decOwner then throw (.trap 12 (decimalCause c i))

/-- RELEASE and ATOMIC wait for the older accesses (R130, R178). -/
def awaitPrefix (k : CoreId) (i : Inst) : Exec Unit := if i.release || i.atomic then awaitOlder k else pure ()

/-- What follows an instruction's own effect: its retirement, and the PCC it leaves. -/
def instrEnd (x : Ctx) (f : Flow) : Exec Flow := do
  match f with
  | .seq =>
    retire x false
    modCore x.k fun c => { c with pcc := x.next }
    return f
  | .jump p =>
    retire x true
    modCore x.k fun c => { c with pcc := p }
    return f
  | .event _ _ _ =>
    retire x true
    return f
  | .done _ => return f

/-- One instruction inside a core: decode, checks, body, retirement. -/
def instrBody (k : CoreId) (info : OpInfo) (e : Enc) (deny : State → Core → Inst → Bool) (body : Ctx → Exec Flow) :
    Exec Flow := do
  beforeInstr k
  let c ← getCore k
  match decodeEnc c.pcc.mode info e with
  | .error d =>
    fetch k d.seen
    throw (.trap 9 (illegalCause d.off d.reason))
  | .ok i =>
    newSlot k i.hold.isSome
    fetch k i.len
    issueChecks k i deny
    let x : Ctx := ⟨k, i, nextPcc (← getCore k).pcc i.len⟩
    openHold x
    awaitPrefix k i
    let f ← body x
    instrEnd x f

/-- Keeps what a stopped instruction leaves (R69): every register and the core's own state as before it, but the translations that
its checks found and the effects outside the core that they had. -/
def stopped (k : CoreId) (before : State) (after : State) : State :=
  after.setCore k { before.core k with tlb := (after.core k).tlb, walk := (after.core k).walk }

/-- Keeps what an instruction that waits leaves: beside that, the HOLD region that it opened at its issue (R125) and what its side-effect
loads have read (R154). -/
def waiting (k : CoreId) (before : State) (after : State) : State :=
  let b := before.core k
  let a := after.core k
  (stopped k before after).setCore k { b with
    tlb := a.tlb, walk := a.walk, popped := a.popped, issued := a.issued, holdStart := a.holdStart
    sw := if a.issued && !b.issued then putBits (putBits b.sw 23 23 1) 31 24 (nbits a.sw.toNat 31 24) else b.sw }

/-- The vector of the frame that an entry has just written. -/
def enteredVector (c : Core) : Option Nat := ((if c.level = levelM then c.mstack else c.rstack).head?).map RFrame.vector

/-- The trace entry of a transfer or trap entry that a core has just made (R434). -/
def traced (k : CoreId) (s : State) : State := traceEntry k (s.core k).pcc.cursor s

/-- What an instruction that a trap stops leaves: every register as before it but for the exceptions that vector 13 records in DSR.FL
(R102) and the long operation that it counted (R148), with its own PCC as the frame's (R69); an overrun of HOLD leaves nothing else
either (R126). -/
def stoppedBy (k : CoreId) (before : State) (vec : Nat) (cause : Word) (t : State) : State :=
  let u := if vec = 17 then before else stopped k before t
  let u := if vec = 11 ∨ vec = 13 then u.setCore k { u.core k with perf := (u.core k).perf.set! 10 ((t.core k).perf[10]!) } else u
  let u := if vec = 13 then u.setCore k ((u.core k).raised (nbits cause.toNat 4 0)) else u
  traced k (takeTrap k vec cause (u.core k).pcc u)

/-- Executes an instruction, completing first the long operations whose results it needs (R134), and again where a TLB slot was found
stale (R156). One that runs past tick 256 of a
HOLD region has not begun to take effect at that tick (R126). -/
def execFuel (k : CoreId) (info : OpInfo) (e : Enc) (deny : State → Core → Inst → Bool) (body : Ctx → Exec Flow) :
    Nat → State → State
  | 0, s => s
  | n + 1, s =>
    match (instrBody k info e deny body).run s with
    | .ok (.event v cause rpcc) t =>
      let u := takeTrap k v cause rpcc t
      traced k (if enteredVector (u.core k) = some v then u else takeTrap k v cause rpcc (stopped k s t))
    | .ok .seq t => t
    | .ok (.jump p) t => traceEntry k p.cursor t
    | .ok (.done moved) t => if moved then traced k t else t
    | .error (.trap v cause) t => stoppedBy k s v cause t
    | .error (.need i) _ => execFuel k info e deny body n (completeLong k i s)
    | .error (.stale x) _ => execFuel k info e deny body n (dropSlot k x s)
    | .error .wait t => waiting k s t

/-- Whether a core is executing instructions: not held or asleep, and not in Watch (R409). -/
def canExecute (s : State) (k : CoreId) : Bool := (s.core k).run == .running && !s.inMode k.half .watch

/-- The illegal instruction that bytes at the PCC are refused with (R62, R63, R72–R74): the bytes are fetched, and vector 9 taken. -/
def runIllegal (k : CoreId) (d : DecErr) (s : State) : State :=
  match (do beforeInstr k; fetch k d.seen; throw (.trap 9 (illegalCause d.off d.reason)) : Exec Unit).run s with
  | .ok _ t => t
  | .error (.trap v cause) t => stoppedBy k s v cause t
  | .error (.need i) _ => completeLong k i s
  | .error (.stale x) _ => dropSlot k x s
  | .error .wait t => stopped k s t

/-- The bytes of an encoding up to its opcode. Where a byte below F0 stands among the leading bytes, it is the opcode that the core
reads. -/
def headBytes (info : OpInfo) (e : Enc) : List Byte := e.leads.flatMap leadBytes ++ opcodeBytes info

/-- The meaning of an instruction's command: nothing where the core executes none (log entry 5). What the core has committed is
handed over first, as far as it goes. An encoding that spells no instruction of its row does nothing, unless its bytes begin with what
every core refuses as an illegal instruction. -/
def runInstr (k : CoreId) (info : OpInfo) (e : Enc) (deny : State → Core → Inst → Bool) (body : Ctx → Exec Flow)
    (s : State) : Host.Outcome State Fault Refusal :=
  if !canExecute s k then .next s
  else if encodingOf info e then .next (execFuel k info e deny body 32 (drainCore k s))
  else match opcodeRefused (s.core k).pcc.mode (headBytes info e) with
    | some d => .next (runIllegal k d (drainCore k s))
    | none => .next s

/-- No privilege is needed. -/
def anyLevel (_s : State) (_c : Core) (_i : Inst) : Bool := false

/-- Levels S and M only. -/
def notAtC (_s : State) (c : Core) (_i : Inst) : Bool := c.level == levelC

end Sys2Proof.Machine
end

