-- ==== Sys2Proof/Machine/Integer.lean ====
section
/-! DEFINITION. The integer instructions (opcodes 0x00–0x50 but the control ones): R76–R92. -/

namespace Sys2Proof.Machine

def iw : OpDesc := ⟨.i, .w, .src⟩
def idw : OpDesc := ⟨.id, .w, .dst⟩
def idBoth : OpDesc := ⟨.id, .w, .both⟩
def widthAll : Widths := .int [0xF0, 0xF1, 0xF2, 0xF3]

/-- Writes a result to operand i and sets flags. -/
def Ctx.result (x : Ctx) (i : Nat) (d : Dest) (r : Res) : Exec Flow := do
  x.put i d r.1
  setFlags x.k r.2
  return .seq

/-- d := f s with flags. -/
def unaryOp (f : Nat → Nat → Res) (x : Ctx) : Exec Flow := do
  let s ← x.src 0
  let d ← x.dst 1
  x.result 1 d (f x.inst.w s)

/-- d := f s1 s2 with flags; under ATOMIC d := f d s on memory (R61, R78). -/
def binaryOp (f : Nat → Nat → Nat → Res) (x : Ctx) : Exec Flow := do
  let w := x.inst.w
  if x.inst.atomic then
    let s ← x.src 0
    let l ← x.loc 1 false
    let old ← x.atomicRmw 1 s 0 l fun d => some (f w d s).1
    setFlags x.k (f w old s).2
    return .seq
  else
    let a ← x.src 0
    let b ← x.src 1
    let d ← x.dst 2
    x.result 2 d (f w a b)

/-- d := f d with flags, indivisibly under ATOMIC. -/
def stepOp (f : Nat → Nat → Res) (x : Ctx) : Exec Flow := do
  let w := x.inst.w
  if x.inst.atomic then
    let l ← x.locBoth 0
    let old ← x.atomicRmw 0 1 0 l fun d => some (f w d).1
    setFlags x.k (f w old).2
    return .seq
  else
    let (v, d) ← x.both 0
    x.result 0 d (f w v)

/-- Flags of f s1 s2; nothing is written. -/
def compareOp (f : Nat → Nat → Nat → Res) (x : Ctx) : Exec Flow := do
  let a ← x.src 0
  let b ← x.src 1
  setFlags x.k (f x.inst.w a b).2
  return .seq

/-- A logic result. -/
def logicRes (f : Nat → Nat → Nat) (w a b : Nat) : Res := (f a b % 2 ^ w, flagsLogic w (f a b % 2 ^ w))

-- long operations (R135, R136)

/-- A long operation's destination (R135). -/
def Dest.long (d : Option Dest) (n : Nat) : LongDest :=
  match d with
  | none => .none
  | some (.x m) => .x (Fin.ofNat 8 m) (8 * n)
  | some (.d m) => .d (Fin.ofNat 8 m)
  | some (.mem cap ps) => .mem (ps.map fun p => ⟨p.va, p.phys, p.n, p.side, p.remote, p.cached, p.origin, cap⟩)

/-- Whether a destination is memory of another node. -/
def Dest.isRemote : Dest → Bool
  | .mem _ ps => ps.any (·.remote)
  | _ => false

/-- Leaves a long operation incomplete in a BULK thread (R135): what it will write has its room and its journal entries, and it takes
over the flags and the register that it will write; one that will fault writes neither (R136). -/
def Ctx.issueLong (x : Ctx) (d : Option Dest) (n v : Nat) (fl : List (Nat × Bool)) (raised : Nat)
    (fault : Option Nat) : Exec Unit := do
  let k := x.k
  if 8 ≤ (← getCore k).longOps.length then throw (.need 0)
  match d with
  | some (.x m) => if n < 8 then awaitWrite k (isX m)
  | some (.mem cap ps) =>
    let puts := x.putParts cap ps (leBytes n v)
    checkRoom k puts
    for p in puts do awaitWrite k (overlaps (← get) k.half (p.part.spot (← get) k.half cap) p.part.n)
    if fault.isNone then
      noteMarks k ps
      let s ← get
      if (s.core k).restartable then
        modCore k fun c => { c with journal := puts.foldl (fun j p => addJournal s j (putGranules s k p)) c.journal }
  | _ => pure ()
  modCore k fun c =>
    let c := if fault.isSome then c else
      match d with
      | some (.x m) => if n = 8 then (c.unflag fl).overwritten (isX m) else c.unflag fl
      | some (.d m) => (c.unflag fl).overwritten (isD m)
      | _ => c.unflag fl
    { c with
      longs := c.longs + 1
      longOps := c.longOps ++ [{ age := c.longs, opcode := x.inst.info.opcode, cursor := BitVec.ofNat 64 c.pcc.cursor, dest := Dest.long d n
                                 value := BitVec.ofNat 128 v, bytes := leBytes n v, flags := if fault.isSome then [] else fl
                                 raised := BitVec.ofNat 5 raised, faultVec := fault, release := x.inst.release }] }

/-- Ends a long operation: result `v` of `n` bytes to destination `d`, flags, DSR flags raised, and the fault it takes if
any. In a BULK thread it is left incomplete (R135); elsewhere all of it happens now and the fault is precise (R136). A store to another
node that no step holds back is made now in a BULK thread too, since its home makes the checks of issue with it. -/
def Ctx.finishLong (x : Ctx) (d : Option Dest) (n v : Nat) (fl : List (Nat × Bool)) (raised : Nat)
    (fault : Option (Nat × Word)) : Exec Flow := do
  let k := x.k
  let bulk := isBulk (← get) k && !(fault.isNone && d.any Dest.isRemote && !(← getCore k).restartable)
  modCore k fun c => { c with perf := c.perf.set! 10 (c.perf[10]! + 1) }
  if bulk then
    x.issueLong d n v fl raised (fault.map (·.1))
    return .seq
  else
    match fault with
    | some (vec, cause) => throw (.trap vec cause)
    | none =>
      match d with
      | some d => x.write [(d, n, v)]
      | none => pure ()
      modCore k fun c => (c.setFlags fl).raised raised
      return .seq

/-- A division: DZE decides what a zero divisor does (R90). DESIGN CHOICE (log entry 158): in a BULK thread the REM after a DIV that
faults issues too, so that both faults become pending (R89, R136). -/
def divideOp (f : Nat → Nat → Nat → Res) (x : Ctx) : Exec Flow := do
  let w := x.inst.w
  let a ← x.src 0
  let b ← x.src 1
  let d ← x.dst 2
  let dze := (← getCore x.k).swBit 19
  let r := f w a b
  let fault := if b % 2 ^ w = 0 ∧ dze then some (11, BitVec.ofNat 64 x.inst.info.opcode.toNat) else none
  x.finishLong (some d) (w / 8) r.1 r.2 0 fault

-- moves and logic (Table 4.1)

/-- The row of Nop (Tables 3.6 and 3.7). -/
def nopRow : OpInfo := { opcode := 0x00, fore := true }

/-- NOP. -/
def execNop (k : CoreId) (e : Enc) (s : State) : Host.Outcome State Fault Refusal :=
  runInstr k nopRow e anyLevel (fun _ => return .seq) s

/-- The row of Mov (Tables 3.6 and 3.7). -/
def movRow : OpInfo := { opcode := 0x10, widths := widthAll, ops := [iw, idw], fore := true }

/-- MOV (Table 4.1). -/
def execMov (k : CoreId) (e : Enc) (s : State) : Host.Outcome State Fault Refusal :=
  runInstr k movRow e anyLevel
    (unaryOp fun w v => (v, flagsLogic w v)) s

/-- The row of Movz (Tables 3.6 and 3.7). -/
def movzRow : OpInfo := { opcode := 0x11, widths := .int [0xF0, 0xF1, 0xF2], ops := [iw, ⟨.id, .extended, .dst⟩], fore := true }

/-- MOVZ (R80). -/
def execMovz (k : CoreId) (e : Enc) (s : State) : Host.Outcome State Fault Refusal :=
  runInstr k movzRow e anyLevel
    (fun x => do
      let v ← x.src 0
      let d ← x.dst 1
      let w := 8 * x.inst.size .extended
      x.result 1 d (v, flagsLogic w v)) s

/-- The row of Movs (Tables 3.6 and 3.7). -/
def movsRow : OpInfo := { opcode := 0x12, widths := .int [0xF0, 0xF1, 0xF2], ops := [iw, ⟨.id, .extended, .dst⟩], fore := true }

/-- MOVS (R80). -/
def execMovs (k : CoreId) (e : Enc) (s : State) : Host.Outcome State Fault Refusal :=
  runInstr k movsRow e anyLevel
    (fun x => do
      let v ← x.src 0
      let d ← x.dst 1
      let w := 8 * x.inst.size .extended
      let r := unsignedOf w (signedOf x.inst.w v)
      x.result 1 d (r, flagsLogic w r)) s

/-- The row of Clr (Tables 3.6 and 3.7). -/
def clrRow : OpInfo := { opcode := 0x13, widths := widthAll, ops := [idw], fore := true }

/-- CLR (Table 4.1). -/
def execClr (k : CoreId) (e : Enc) (s : State) : Host.Outcome State Fault Refusal :=
  runInstr k clrRow e anyLevel
    (fun x => do
      let d ← x.dst 0
      x.result 0 d (0, flagsLogic x.inst.w 0)) s

/-- The row of Xchg (Tables 3.6 and 3.7). -/
def xchgRow : OpInfo := { opcode := 0x14, widths := widthAll, ops := [idBoth, idBoth], fore := true, atomic := true }

/-- XCHG (R81): both operands are read before either is written; under ATOMIC the memory operand, the second where both
are, is read and written indivisibly. DESIGN CHOICE (log entry 159): where two memory operands overlap in part, operand 0 is written
first and operand 1 over it. -/
def execXchg (k : CoreId) (e : Enc) (s : State) : Host.Outcome State Fault Refusal :=
  runInstr k xchgRow e anyLevel
    (fun x => do
      let n := x.inst.w / 8
      if x.inst.atomic then
        if isMemMode (x.op 1).1.mode.toNat then
          let (v, d) ← x.both 0
          let l ← x.locBoth 1
          let _ ← x.atomicRmw 1 v 0 l (fun _ => some v) fun old => [(d, n, old)]
        else
          let l ← x.locBoth 0
          let (v, d) ← x.both 1
          let _ ← x.atomicRmw 0 v 0 l (fun _ => some v) fun old => [(d, n, old)]
      else
        let a ← x.both 0
        let b ← x.both 1
        x.write [(a.2, n, b.1), (b.2, n, a.1)]
      return .seq) s

/-- The row of Swapb (Tables 3.6 and 3.7). -/
def swapbRow : OpInfo := { opcode := 0x15, widths := .int [0xF1, 0xF2, 0xF3], ops := [iw, idw], fore := true }

/-- SWAPB (Table 4.1). -/
def execSwapb (k : CoreId) (e : Enc) (s : State) : Host.Outcome State Fault Refusal :=
  runInstr k swapbRow e anyLevel
    (unaryOp fun w v => (swapRes w v, flagsLogic w (swapRes w v))) s

-- additive instructions (Table 4.2)

/-- The row of Add (Tables 3.6 and 3.7). -/
def addRow : OpInfo := { opcode := 0x20, widths := widthAll, ops := [iw, iw, idw], fore := true, atomic := true }

/-- ADD (Table 4.2). -/
def execAdd (k : CoreId) (e : Enc) (s : State) : Host.Outcome State Fault Refusal :=
  runInstr k addRow e anyLevel
    (binaryOp fun w a b => addRes w a b 0) s

/-- The row of Adc (Tables 3.6 and 3.7). -/
def adcRow : OpInfo := { opcode := 0x21, widths := widthAll, ops := [iw, iw, idw], fore := true }

/-- ADC (Table 4.2). -/
def execAdc (k : CoreId) (e : Enc) (s : State) : Host.Outcome State Fault Refusal :=
  runInstr k adcRow e anyLevel
    (fun x => do
      let c ← readFlag k fC
      binaryOp (fun w a b => addRes w a b (b2n c)) x) s

/-- The row of Sub (Tables 3.6 and 3.7). -/
def subRow : OpInfo := { opcode := 0x22, widths := widthAll, ops := [iw, iw, idw], fore := true, atomic := true }

/-- SUB (Table 4.2). -/
def execSub (k : CoreId) (e : Enc) (s : State) : Host.Outcome State Fault Refusal :=
  runInstr k subRow e anyLevel
    (binaryOp fun w a b => subRes w a b 0) s

/-- The row of Sbc (Tables 3.6 and 3.7). -/
def sbcRow : OpInfo := { opcode := 0x23, widths := widthAll, ops := [iw, iw, idw], fore := true }

/-- SBC (Table 4.2). -/
def execSbc (k : CoreId) (e : Enc) (s : State) : Host.Outcome State Fault Refusal :=
  runInstr k sbcRow e anyLevel
    (fun x => do
      let c ← readFlag k fC
      binaryOp (fun w a b => subRes w a b (b2n c)) x) s

/-- The row of Neg (Tables 3.6 and 3.7). -/
def negRow : OpInfo := { opcode := 0x24, widths := widthAll, ops := [iw, idw], fore := true }

/-- NEG (Table 4.2). -/
def execNeg (k : CoreId) (e : Enc) (s : State) : Host.Outcome State Fault Refusal :=
  runInstr k negRow e anyLevel
    (unaryOp fun w v => subRes w 0 v 0) s

/-- The row of Inc (Tables 3.6 and 3.7). -/
def incRow : OpInfo := { opcode := 0x25, widths := widthAll, ops := [idBoth], fore := true, atomic := true }

/-- INC (Table 4.2): C is unchanged. -/
def execInc (k : CoreId) (e : Enc) (s : State) : Host.Outcome State Fault Refusal :=
  runInstr k incRow e anyLevel
    (stepOp fun w v => (addRes w v 1 0).without fC) s

/-- The row of Dec (Tables 3.6 and 3.7). -/
def decRow : OpInfo := { opcode := 0x26, widths := widthAll, ops := [idBoth], fore := true, atomic := true }

/-- DEC (Table 4.2): C is unchanged. -/
def execDec (k : CoreId) (e : Enc) (s : State) : Host.Outcome State Fault Refusal :=
  runInstr k decRow e anyLevel
    (stepOp fun w v => (subRes w v 1 0).without fC) s

/-- The row of Cmp (Tables 3.6 and 3.7). -/
def cmpRow : OpInfo := { opcode := 0x27, widths := widthAll, ops := [iw, iw], fore := true }

/-- CMP (Table 4.2). -/
def execCmp (k : CoreId) (e : Enc) (s : State) : Host.Outcome State Fault Refusal :=
  runInstr k cmpRow e anyLevel
    (compareOp fun w a b => subRes w a b 0) s

/-- The row of And (Tables 3.6 and 3.7). -/
def andRow : OpInfo := { opcode := 0x28, widths := widthAll, ops := [iw, iw, idw], fore := true, atomic := true }

/-- AND (Table 4.1). -/
def execAnd (k : CoreId) (e : Enc) (s : State) : Host.Outcome State Fault Refusal :=
  runInstr k andRow e anyLevel
    (binaryOp (logicRes (· &&& ·))) s

/-- The row of Or (Tables 3.6 and 3.7). -/
def orRow : OpInfo := { opcode := 0x29, widths := widthAll, ops := [iw, iw, idw], fore := true, atomic := true }

/-- OR (Table 4.1). -/
def execOr (k : CoreId) (e : Enc) (s : State) : Host.Outcome State Fault Refusal :=
  runInstr k orRow e anyLevel
    (binaryOp (logicRes (· ||| ·))) s

/-- The row of Xor (Tables 3.6 and 3.7). -/
def xorRow : OpInfo := { opcode := 0x2A, widths := widthAll, ops := [iw, iw, idw], fore := true, atomic := true }

/-- XOR (Table 4.1). -/
def execXor (k : CoreId) (e : Enc) (s : State) : Host.Outcome State Fault Refusal :=
  runInstr k xorRow e anyLevel
    (binaryOp (logicRes (· ^^^ ·))) s

/-- The row of Not (Tables 3.6 and 3.7). -/
def notRow : OpInfo := { opcode := 0x2B, widths := widthAll, ops := [iw, idw], fore := true }

/-- NOT (Table 4.1). -/
def execNot (k : CoreId) (e : Enc) (s : State) : Host.Outcome State Fault Refusal :=
  runInstr k notRow e anyLevel
    (unaryOp fun w v => logicRes (fun a _ => 2 ^ w - 1 - a) w v 0) s

/-- The row of Tst (Tables 3.6 and 3.7). -/
def tstRow : OpInfo := { opcode := 0x2C, widths := widthAll, ops := [iw, iw], fore := true }

/-- TST (Table 4.1). -/
def execTst (k : CoreId) (e : Enc) (s : State) : Host.Outcome State Fault Refusal :=
  runInstr k tstRow e anyLevel
    (compareOp (logicRes (· &&& ·))) s

-- shifts and rotates (Table 4.4)

def shiftOps : List OpDesc := [iw, ⟨.i, .count, .src⟩, idw]

/-- The row of Shl (Tables 3.6 and 3.7). -/
def shlRow : OpInfo := { opcode := 0x30, widths := widthAll, ops := shiftOps, fore := true }

/-- SHL (Table 4.4). -/
def execShl (k : CoreId) (e : Enc) (s : State) : Host.Outcome State Fault Refusal :=
  runInstr k shlRow e anyLevel (binaryOp shlRes) s

/-- The row of Shr (Tables 3.6 and 3.7). -/
def shrRow : OpInfo := { opcode := 0x31, widths := widthAll, ops := shiftOps, fore := true }

/-- SHR (Table 4.4). -/
def execShr (k : CoreId) (e : Enc) (s : State) : Host.Outcome State Fault Refusal :=
  runInstr k shrRow e anyLevel (binaryOp shrRes) s

/-- The row of Sar (Tables 3.6 and 3.7). -/
def sarRow : OpInfo := { opcode := 0x32, widths := widthAll, ops := shiftOps, fore := true }

/-- SAR (Table 4.4). -/
def execSar (k : CoreId) (e : Enc) (s : State) : Host.Outcome State Fault Refusal :=
  runInstr k sarRow e anyLevel (binaryOp sarRes) s

/-- The row of Rol (Tables 3.6 and 3.7). -/
def rolRow : OpInfo := { opcode := 0x33, widths := widthAll, ops := shiftOps, fore := true }

/-- ROL (Table 4.4). -/
def execRol (k : CoreId) (e : Enc) (s : State) : Host.Outcome State Fault Refusal :=
  runInstr k rolRow e anyLevel (binaryOp rolRes) s

/-- The row of Ror (Tables 3.6 and 3.7). -/
def rorRow : OpInfo := { opcode := 0x34, widths := widthAll, ops := shiftOps, fore := true }

/-- ROR (Table 4.4). -/
def execRor (k : CoreId) (e : Enc) (s : State) : Host.Outcome State Fault Refusal :=
  runInstr k rorRow e anyLevel (binaryOp rorRes) s

-- multiply and divide (R85, R87)

/-- The row of Mul (Tables 3.6 and 3.7). -/
def mulRow : OpInfo := { opcode := 0x40, widths := widthAll, ops := [iw, iw, idw], fore := true, cls := 4 }

/-- MUL (R85). -/
def execMul (k : CoreId) (e : Enc) (s : State) : Host.Outcome State Fault Refusal :=
  runInstr k mulRow e anyLevel (binaryOp mulRes) s

/-- The row of MuluH (Tables 3.6 and 3.7). -/
def muluHRow : OpInfo := { opcode := 0x41, widths := widthAll, ops := [iw, iw, idw], fore := true, cls := 4 }

/-- MULU.H (R85). -/
def execMuluH (k : CoreId) (e : Enc) (s : State) : Host.Outcome State Fault Refusal :=
  runInstr k muluHRow e anyLevel (binaryOp muluHRes) s

/-- The row of MulsH (Tables 3.6 and 3.7). -/
def mulsHRow : OpInfo := { opcode := 0x42, widths := widthAll, ops := [iw, iw, idw], fore := true, cls := 4 }

/-- MULS.H (R85). -/
def execMulsH (k : CoreId) (e : Enc) (s : State) : Host.Outcome State Fault Refusal :=
  runInstr k mulsHRow e anyLevel (binaryOp mulsHRes) s

/-- The row of Div (Tables 3.6 and 3.7). -/
def divRow : OpInfo := { opcode := 0x43, widths := widthAll, ops := [iw, iw, idw], fore := true, cls := 5 }

/-- DIV (R87, R90, Table 4.5). -/
def execDiv (k : CoreId) (e : Enc) (s : State) : Host.Outcome State Fault Refusal :=
  runInstr k divRow e anyLevel (divideOp divRes) s

/-- The row of Divu (Tables 3.6 and 3.7). -/
def divuRow : OpInfo := { opcode := 0x44, widths := widthAll, ops := [iw, iw, idw], fore := true, cls := 5 }

/-- DIVU (R87, R90, Table 4.5). -/
def execDivu (k : CoreId) (e : Enc) (s : State) : Host.Outcome State Fault Refusal :=
  runInstr k divuRow e anyLevel (divideOp divuRes) s

/-- The row of Rem (Tables 3.6 and 3.7). -/
def remRow : OpInfo := { opcode := 0x45, widths := widthAll, ops := [iw, iw, idw], fore := true, cls := 5 }

/-- REM (R87, R90, Table 4.5). -/
def execRem (k : CoreId) (e : Enc) (s : State) : Host.Outcome State Fault Refusal :=
  runInstr k remRow e anyLevel (divideOp remRes) s

/-- The row of Remu (Tables 3.6 and 3.7). -/
def remuRow : OpInfo := { opcode := 0x46, widths := widthAll, ops := [iw, iw, idw], fore := true, cls := 5 }

/-- REMU (R87, R90, Table 4.5). -/
def execRemu (k : CoreId) (e : Enc) (s : State) : Host.Outcome State Fault Refusal :=
  runInstr k remuRow e anyLevel (divideOp remuRes) s

/-- Long operation number i of a core completes (R135, R136). -/
def execLongOperationComplete (k : CoreId) (i : Nat) (s : State) : Host.Outcome State Fault Refusal :=
  .next (completeLong k i s)

/-- The row of Daa (Tables 3.6 and 3.7). -/
def daaRow : OpInfo := { opcode := 0x50, widths := .int [0xF0], ops := [⟨.i, .n 1, .src⟩, ⟨.id, .n 1, .dst⟩], fore := true }

/-- DAA (R92): on bytes; H and D are unchanged. -/
def execDaa (k : CoreId) (e : Enc) (s : State) : Host.Outcome State Fault Refusal :=
  runInstr k daaRow e anyLevel
    (fun x => do
      let c ← readFlag k fC
      let h ← readFlag k fH
      let d ← readFlag k fD
      let v ← x.src 0
      let t ← x.dst 1
      x.result 1 t (daaRes v c h d)) s

end Sys2Proof.Machine
end

