-- ==== Sys2Proof/Machine/Floating.lean ====
section
/-! DEFINITION. Packed-decimal, decimal floating-point and binary64 instructions (opcodes 0x51–0x57 and 0xC0–0xD6):
R93–R104. -/

namespace Sys2Proof.Machine

/-- Cause of vector 13 (Table 4.9). -/
def decCause (opcode : Byte) (packed : Bool) (raised : Nat) : Word :=
  BitVec.ofNat 64 (opcode.toNat * 65536 + b2n packed * 256 + raised)

/-- Bytes of a packed source, checked digit by digit (R94): the fault has no enable and is precise. -/
def Ctx.packedBytesOk (x : Ctx) (bs : List Byte) : Exec Unit :=
  if packedOk bs then return else throw (.trap 13 (decCause x.inst.info.opcode true 0))

/-- Ends a packed instruction: a long operation where an operand is longer than 8 bytes (R97). -/
def Ctx.endPacked (x : Ctx) (long : Bool) (d : Option Dest) (n v : Nat) (fl : List (Nat × Bool)) : Exec Flow := do
  if long then x.finishLong d n v fl 0 none
  else
    match d with
    | some d => x.write [(d, n, v)]
    | none => pure ()
    setFlags x.k fl
    return .seq

def pHi : OpDesc := ⟨.p, .packHi, .src⟩

/-- d := d op s on packed operands (R95). -/
def packedArith (f : Int → Int → Int) (x : Ctx) : Exec Flow := do
  let a ← x.load 0
  let (vb, d) ← x.both 1
  let n := x.inst.packLo
  let b := leBytes n vb
  x.packedBytesOk a
  x.packedBytesOk b
  let r := f (packedValue b) (packedValue a)
  x.endPacked (8 < x.inst.packHi || 8 < n) (some d) n (leNat (packedBytes n r)) (packedFlags n r)

/-- The row of Addp (Tables 3.6 and 3.7). -/
def addpRow : OpInfo := { opcode := 0x51, fixed := .packed true true, ops := [pHi, ⟨.p, .packLo, .both⟩], fore := true, cls := 6 }

/-- ADDP (R95). -/
def execAddp (k : CoreId) (e : Enc) (s : State) : Host.Outcome State Fault Refusal :=
  runInstr k addpRow e
    anyLevel (packedArith (· + ·)) s

/-- The row of Subp (Tables 3.6 and 3.7). -/
def subpRow : OpInfo := { opcode := 0x52, fixed := .packed true true, ops := [pHi, ⟨.p, .packLo, .both⟩], fore := true, cls := 6 }

/-- SUBP (R95). -/
def execSubp (k : CoreId) (e : Enc) (s : State) : Host.Outcome State Fault Refusal :=
  runInstr k subpRow e
    anyLevel (packedArith (· - ·)) s

/-- The row of Cmpp (Tables 3.6 and 3.7). -/
def cmppRow : OpInfo := { opcode := 0x53, fixed := .packed true true, ops := [pHi, ⟨.p, .packLo, .src⟩], fore := true, cls := 6 }

/-- CMPP (R95). -/
def execCmpp (k : CoreId) (e : Enc) (s : State) : Host.Outcome State Fault Refusal :=
  runInstr k cmppRow e
    anyLevel (fun x => do
      let a ← x.load 0
      let b ← x.load 1
      x.packedBytesOk a
      x.packedBytesOk b
      let r := packedValue a - packedValue b
      x.endPacked (8 < x.inst.packHi || 8 < x.inst.packLo) none 0 0
        [(fN, decide (r < 0)), (fZ, decide (r = 0)), (fV, false), (fC, decide (r < 0))]) s

/-- The row of Cvtpb (Tables 3.6 and 3.7). -/
def cvtpbRow : OpInfo := { opcode := 0x54, widths := widthAll, fixed := .packed false true, ops := [pHi, idw], fore := true, cls := 7 }

/-- CVTPB (R96). -/
def execCvtpb (k : CoreId) (e : Enc) (s : State) : Host.Outcome State Fault Refusal :=
  runInstr k cvtpbRow e
    anyLevel (fun x => do
      let a ← x.load 0
      let d ← x.dst 1
      x.packedBytesOk a
      let r := cvtpbRes x.inst.w (packedValue a)
      x.endPacked (8 < x.inst.packHi) (some d) (x.inst.w / 8) r.1 r.2) s

/-- The row of Cvtbp (Tables 3.6 and 3.7). -/
def cvtbpRow : OpInfo := { opcode := 0x55, widths := widthAll, fixed := .packed true false, ops := [iw, ⟨.p, .packLo, .dst⟩], fore := true, cls := 7 }

/-- CVTBP (R96). -/
def execCvtbp (k : CoreId) (e : Enc) (s : State) : Host.Outcome State Fault Refusal :=
  runInstr k cvtbpRow e
    anyLevel (fun x => do
      let v := signedOf x.inst.w (← x.src 0)
      let d ← x.dst 1
      let n := x.inst.packLo
      x.endPacked (8 < n) (some d) n (leNat (packedBytes n v)) (cvtbpFlags n v)) s

-- decimal floating point

def fSrc : OpDesc := ⟨.f, .dec, .src⟩
def fDst : OpDesc := ⟨.fd, .dec, .dst⟩

/-- The operand format of a prefix. -/
def Ctx.fmt (x : Ctx) : FFmt := decFmt x.inst.wide

/-- Rounding mode and underflow trap of DSR. -/
def Ctx.fmode (x : Ctx) : Exec FMode := do
  let d := (← getCore x.k).dsr.toNat
  return ⟨nbits d 18 16, d.testBit 9⟩

/-- The fault of the exceptions raised, where one of them is enabled (R102). -/
def Ctx.decFault (x : Ctx) (raised : Nat) : Exec (Option (Nat × Word)) := do
  let en := nbits (← getCore x.k).dsr.toNat 12 8
  return if en &&& raised = 0 then none else some (13, decCause x.inst.info.opcode false raised)

/-- Ends a floating-point long operation. -/
def Ctx.endFloat (x : Ctx) (d : Dest) (n v raised : Nat) : Exec Flow := do
  x.finishLong (some d) n v [] raised (← x.decFault raised)

/-- d := f s1 s2 in the decimal format. -/
def decBinary (f : FFmt → FMode → FVal → FVal → FRes) (x : Ctx) : Exec Flow := do
  let a ← x.srcDec 0
  let b ← x.srcDec 1
  let d ← x.dst 2
  let r := f x.fmt (← x.fmode) a b
  x.endFloat d (x.inst.size .dec) (toBid x.inst.wide r.1) r.2

/-- The row of Dadd (Tables 3.6 and 3.7). -/
def daddRow : OpInfo := { opcode := 0xC0, widths := .dec, ops := [fSrc, fSrc, fDst], cls := 8 }

/-- DADD (Table 4.7). -/
def execDadd (k : CoreId) (e : Enc) (s : State) : Host.Outcome State Fault Refusal :=
  runInstr k daddRow e anyLevel (decBinary fAdd) s

/-- The row of Dsub (Tables 3.6 and 3.7). -/
def dsubRow : OpInfo := { opcode := 0xC1, widths := .dec, ops := [fSrc, fSrc, fDst], cls := 8 }

/-- DSUB (Table 4.7). -/
def execDsub (k : CoreId) (e : Enc) (s : State) : Host.Outcome State Fault Refusal :=
  runInstr k dsubRow e anyLevel (decBinary fSub) s

/-- The row of Dmul (Tables 3.6 and 3.7). -/
def dmulRow : OpInfo := { opcode := 0xC2, widths := .dec, ops := [fSrc, fSrc, fDst], cls := 9 }

/-- DMUL (Table 4.7). -/
def execDmul (k : CoreId) (e : Enc) (s : State) : Host.Outcome State Fault Refusal :=
  runInstr k dmulRow e anyLevel (decBinary fMul) s

/-- The row of Ddiv (Tables 3.6 and 3.7). -/
def ddivRow : OpInfo := { opcode := 0xC3, widths := .dec, ops := [fSrc, fSrc, fDst], cls := 10 }

/-- DDIV (Table 4.7). -/
def execDdiv (k : CoreId) (e : Enc) (s : State) : Host.Outcome State Fault Refusal :=
  runInstr k ddivRow e anyLevel (decBinary fDiv) s

/-- The row of Dcmp (Tables 3.6 and 3.7). -/
def dcmpRow : OpInfo := { opcode := 0xC4, widths := .dec, ops := [fSrc, fSrc], cls := 11 }

/-- DCMP (R100): invalid for a signalling NaN only. -/
def execDcmp (k : CoreId) (e : Enc) (s : State) : Host.Outcome State Fault Refusal :=
  runInstr k dcmpRow e anyLevel
    (fun x => do
      let a ← x.srcDec 0
      let b ← x.srcDec 1
      let r := fCompare 10 a b
      match ← x.decFault r.2 with
      | some f => throw (.trap f.1 f.2)
      | none =>
        modCore k fun c => (c.setFlags (flagsCompare r.1)).raised r.2
        return .seq) s

/-- The row of Dquant (Tables 3.6 and 3.7). -/
def dquantRow : OpInfo := { opcode := 0xC5, widths := .dec, ops := [fSrc, fSrc, fDst], cls := 8 }

/-- DQUANT (Table 4.7). -/
def execDquant (k : CoreId) (e : Enc) (s : State) : Host.Outcome State Fault Refusal :=
  runInstr k dquantRow e anyLevel (decBinary fQuantize) s

/-- The row of Drnd (Tables 3.6 and 3.7). -/
def drndRow : OpInfo := { opcode := 0xC6, widths := .dec, ops := [fSrc, fDst], cls := 8 }

/-- DRND (Table 4.7). -/
def execDrnd (k : CoreId) (e : Enc) (s : State) : Host.Outcome State Fault Refusal :=
  runInstr k drndRow e anyLevel
    (fun x => do
      let a ← x.srcDec 0
      let d ← x.dst 1
      let r := fIntegral x.fmt (← x.fmode) a
      x.endFloat d (x.inst.size .dec) (toBid x.inst.wide r.1) r.2) s

/-- A sign-bit operation: it signals nothing, and its result is canonical (R98, R99). -/
def decSign (f : Bool → Bool) (x : Ctx) : Exec Flow := do
  let a ← x.srcDec 0
  let d ← x.dst 1
  let r : FVal := match a with
    | .fin n c q => .fin (f n) c q
    | .inf n => .inf (f n)
    | .nan n sg pl => .nan (f n) sg pl
  x.put 1 d (toBid x.inst.wide r)
  return .seq

/-- The row of Dneg (Tables 3.6 and 3.7). -/
def dnegRow : OpInfo := { opcode := 0xC7, widths := .dec, ops := [fSrc, fDst] }

/-- DNEG (Table 4.7). -/
def execDneg (k : CoreId) (e : Enc) (s : State) : Host.Outcome State Fault Refusal :=
  runInstr k dnegRow e anyLevel (decSign fun n => !n) s

/-- The row of Dabs (Tables 3.6 and 3.7). -/
def dabsRow : OpInfo := { opcode := 0xC8, widths := .dec, ops := [fSrc, fDst] }

/-- DABS (Table 4.7). -/
def execDabs (k : CoreId) (e : Enc) (s : State) : Host.Outcome State Fault Refusal :=
  runInstr k dabsRow e anyLevel (decSign fun _ => false) s

/-- The row of Dcvti (Tables 3.6 and 3.7). -/
def dcvtiRow : OpInfo := { opcode := 0xC9, widths := .dec, ops := [fSrc, ⟨.id, .n 8, .dst⟩], cls := 12 }

/-- DCVTI (Table 4.7): an untrapped invalid writes the most negative integer. -/
def execDcvti (k : CoreId) (e : Enc) (s : State) : Host.Outcome State Fault Refusal :=
  runInstr k dcvtiRow e anyLevel
    (fun x => do
      let a ← x.srcDec 0
      let d ← x.dst 1
      let m ← x.fmode
      let (v, raised) : Nat × Nat := match fToInt 10 m.rm a with
        | some (i, inexact) =>
          if -(2 ^ 63) ≤ i ∧ i < 2 ^ 63 then (unsignedOf 64 i, if inexact then xInexact else 0)
          else (0x8000000000000000, xInvalid)
        | none => (0x8000000000000000, xInvalid)
      x.endFloat d 8 v raised) s

/-- The row of Dcvtf (Tables 3.6 and 3.7). -/
def dcvtfRow : OpInfo := { opcode := 0xCA, widths := .dec, ops := [⟨.i, .n 8, .src⟩, fDst], cls := 12 }

/-- DCVTF (Table 4.7). -/
def execDcvtf (k : CoreId) (e : Enc) (s : State) : Host.Outcome State Fault Refusal :=
  runInstr k dcvtfRow e anyLevel
    (fun x => do
      let a ← x.src 0
      let d ← x.dst 1
      let r := fOfInt x.fmt (← x.fmode) (signedOf 64 a)
      x.endFloat d (x.inst.size .dec) (toBid x.inst.wide r.1) r.2) s

/-- The row of Dcvtw (Tables 3.6 and 3.7). -/
def dcvtwRow : OpInfo := { opcode := 0xCB, widths := .dec, ops := [fSrc, ⟨.fd, .decOther, .dst⟩], cls := 11 }

/-- DCVTW (Table 4.7): F4 or none widens decimal64, F5 narrows decimal128. -/
def execDcvtw (k : CoreId) (e : Enc) (s : State) : Host.Outcome State Fault Refusal :=
  runInstr k dcvtwRow e anyLevel
    (fun x => do
      let a ← x.srcDec 0
      let d ← x.dst 1
      let r := fDecToDec (decFmt (!x.inst.wide)) (← x.fmode) a
      x.endFloat d (x.inst.size .decOther) (toBid (!x.inst.wide) r.1) r.2) s

/-- The row of Cvtpd (Tables 3.6 and 3.7). -/
def cvtpdRow : OpInfo := { opcode := 0x56, widths := .dec, fixed := .packed false true, ops := [pHi, fDst], cls := 12 }

/-- CVTPD (Table 4.7). -/
def execCvtpd (k : CoreId) (e : Enc) (s : State) : Host.Outcome State Fault Refusal :=
  runInstr k cvtpdRow e anyLevel
    (fun x => do
      let a ← x.load 0
      let d ← x.dst 1
      x.packedBytesOk a
      let r := fOfInt x.fmt (← x.fmode) (packedValue a)
      x.endFloat d (x.inst.size .dec) (toBid x.inst.wide r.1) r.2) s

/-- The row of Cvtdp (Tables 3.6 and 3.7). -/
def cvtdpRow : OpInfo := { opcode := 0x57, widths := .dec, fixed := .packed true false, ops := [fSrc, ⟨.p, .packLo, .dst⟩], cls := 12 }

/-- CVTDP's invalid: trapped, it leaves its destination unwritten (R136); untrapped, it has none and sets V (R99). -/
def Ctx.packedInvalid (x : Ctx) (d : Dest) (n : Nat) : Exec Flow := do
  let f ← x.decFault xInvalid
  x.finishLong (if f.isSome then some d else none) n 0 [(fV, true)] xInvalid f

/-- CVTDP (Table 4.7, R99): an untrapped invalid leaves the destination and sets V. -/
def execCvtdp (k : CoreId) (e : Enc) (s : State) : Host.Outcome State Fault Refusal :=
  runInstr k cvtdpRow e anyLevel
    (fun x => do
      let a ← x.srcDec 0
      let d ← x.dst 1
      let n := x.inst.packLo
      match fToInt 10 (← x.fmode).rm a with
      | some (i, inexact) =>
        if packedOver n i then x.packedInvalid d n
        else x.endFloat d n (leNat (packedBytes n i)) (if inexact then xInexact else 0)
      | none => x.packedInvalid d n) s

-- binary64 (R101)

def bSrc : OpDesc := ⟨.b, .n 16, .src⟩
def bDst : OpDesc := ⟨.bd, .n 16, .dst⟩

/-- Both lanes of a binary64 operation (R101). -/
def binBinary (f : FFmt → FMode → FVal → FVal → FRes) (x : Ctx) : Exec Flow := do
  let a ← x.src 0
  let b ← x.src 1
  let d ← x.dst 2
  let r := binPair f (← x.fmode) a b
  x.endFloat d 16 r.1 r.2

/-- The row of Fadd (Tables 3.6 and 3.7). -/
def faddRow : OpInfo := { opcode := 0xD0, ops := [bSrc, bSrc, bDst], cls := 13 }

/-- FADD (R101). -/
def execFadd (k : CoreId) (e : Enc) (s : State) : Host.Outcome State Fault Refusal :=
  runInstr k faddRow e anyLevel (binBinary fAdd) s

/-- The row of Fsub (Tables 3.6 and 3.7). -/
def fsubRow : OpInfo := { opcode := 0xD1, ops := [bSrc, bSrc, bDst], cls := 13 }

/-- FSUB (R101). -/
def execFsub (k : CoreId) (e : Enc) (s : State) : Host.Outcome State Fault Refusal :=
  runInstr k fsubRow e anyLevel (binBinary fSub) s

/-- The row of Fmul (Tables 3.6 and 3.7). -/
def fmulRow : OpInfo := { opcode := 0xD2, ops := [bSrc, bSrc, bDst], cls := 13 }

/-- FMUL (R101). -/
def execFmul (k : CoreId) (e : Enc) (s : State) : Host.Outcome State Fault Refusal :=
  runInstr k fmulRow e anyLevel (binBinary fMul) s

/-- The row of Fdiv (Tables 3.6 and 3.7). -/
def fdivRow : OpInfo := { opcode := 0xD3, ops := [bSrc, bSrc, bDst], cls := 14 }

/-- FDIV (R101). -/
def execFdiv (k : CoreId) (e : Enc) (s : State) : Host.Outcome State Fault Refusal :=
  runInstr k fdivRow e anyLevel (binBinary fDiv) s

/-- The row of Fcmp (Tables 3.6 and 3.7). -/
def fcmpRow : OpInfo := { opcode := 0xD4, ops := [bSrc, bSrc], cls := 13 }

/-- FCMP (R100, R101): lane 0 only. -/
def execFcmp (k : CoreId) (e : Enc) (s : State) : Host.Outcome State Fault Refusal :=
  runInstr k fcmpRow e anyLevel
    (fun x => do
      let a ← x.src 0
      let b ← x.src 1
      let r := fCompare 2 (ofBin64 (a % 2 ^ 64)) (ofBin64 (b % 2 ^ 64))
      x.finishLong none 0 0 (flagsCompare r.1) r.2 (← x.decFault r.2)) s

/-- The row of Fcvtd (Tables 3.6 and 3.7). -/
def fcvtdRow : OpInfo := { opcode := 0xD5, widths := .dec, ops := [bSrc, fDst], cls := 14 }

/-- FCVTD (R101): lane 0 to the decimal format. -/
def execFcvtd (k : CoreId) (e : Enc) (s : State) : Host.Outcome State Fault Refusal :=
  runInstr k fcvtdRow e anyLevel
    (fun x => do
      let a ← x.src 0
      let d ← x.dst 1
      let r := fBinToDec x.fmt (← x.fmode) (ofBin64 (a % 2 ^ 64))
      x.endFloat d (x.inst.size .dec) (toBid x.inst.wide r.1) r.2) s

/-- The row of Fcvtb (Tables 3.6 and 3.7). -/
def fcvtbRow : OpInfo := { opcode := 0xD6, widths := .dec, ops := [fSrc, bDst], cls := 14 }

/-- FCVTB (R101): a decimal to lane 0, lane 1 := +0. -/
def execFcvtb (k : CoreId) (e : Enc) (s : State) : Host.Outcome State Fault Refusal :=
  runInstr k fcvtbRow e anyLevel
    (fun x => do
      let a ← x.srcDec 0
      let d ← x.dst 1
      let r := fDecToBin (← x.fmode) a
      x.endFloat d 16 (toBin64 r.1) r.2) s

end Sys2Proof.Machine
end

