-- ==== Sys2Proof/Machine/Control.lean ====
section
/-! DEFINITION. Control transfers, traps and returns, barriers, system registers, CAS and the escape page (R55–R58, R83,
R106–R122, R130–R132, R148, R158, R162). -/

namespace Sys2Proof.Machine

-- transfers (Table 5.1)

/-- PCC moved to an address; in forerunner mode the offset is reduced in the code window (R75). -/
def Ctx.target (x : Ctx) (a : Int) : TCap :=
  if x.inst.fore then x.next.moveTo (x.next.base + (a - x.next.base) % 65536) else x.next.moveTo a

/-- Next + displacement (R71). -/
def Ctx.relative (x : Ctx) : TCap := x.target ((x.next.cursor : Int) + signedOf 32 x.inst.fixed)

/-- Pushes a call frame (R109). -/
def Ctx.pushCall (x : Ctx) : Exec Unit := do
  let sw ← readSW x.k
  let c ← getCore x.k
  pushFrame x.k ⟨x.next, swImage kindCall c.bankOn 0 (nbits sw.toNat 31 0), 0⟩

/-- The row of Bcc (Tables 3.6 and 3.7). -/
def bccRow (cc : BitVec 4) (wide : Bool) : OpInfo :=
  { opcode := (if wide then 0x70 else 0x60) + cc.setWidth 8, fixed := .disp (if wide then 2 else 1), fore := true
    transfer := true }

/-- Bcc (R83): `wide` = the r16 form. -/
def execBcc (k : CoreId) (cc : BitVec 4) (wide : Bool) (e : Enc) (s : State) : Host.Outcome State Fault Refusal :=
  runInstr k (bccRow cc wide) e
    anyLevel
    (fun x => do
      if cc = 14 then return .jump x.relative
      if cc = 15 then return .seq
      let sw ← readSW k
      return if condHolds sw cc.toNat then .jump x.relative else .seq) s

/-- The row of Brl (Tables 3.6 and 3.7). -/
def brlRow : OpInfo := { opcode := 0x80, fixed := .disp 4, transfer := true, cls := 2 }

/-- BRL (Table 5.1). -/
def execBrl (k : CoreId) (e : Enc) (s : State) : Host.Outcome State Fault Refusal :=
  runInstr k brlRow e anyLevel (fun x => return .jump x.relative) s

/-- The checks of JMP and CALL on their target (R107), and the PCC they install (R43, R107). They make no access; the spec does not
say what ADDRESS of their cause holds: the model gives the cursor of Cs (log entry 30). -/
def Ctx.targetCap (x : Ctx) : Exec TCap := do
  let c ← readC x.k (x.op 0).1.reg.toNat
  let a := c.cursor
  if !c.tag then memFault 1 0 0 a
  if c.otype ≠ 0 ∧ c.otype ≠ 0xFFF then memFault 4 0 0 a
  if !c.has permEX ∨ c.node ≠ 511 then memFault 3 0 0 a
  return c.put 115 104 0

def cSrc : OpDesc := ⟨.c, .n 16, .src⟩
def cDst : OpDesc := ⟨.cd, .n 16, .dst⟩

/-- The row of Jmp (Tables 3.6 and 3.7). -/
def jmpRow : OpInfo := { opcode := 0x81, ops := [cSrc], transfer := true, cls := 2 }

/-- JMP (R107). -/
def execJmp (k : CoreId) (e : Enc) (s : State) : Host.Outcome State Fault Refusal :=
  runInstr k jmpRow e anyLevel
    (fun x => do return .jump (← x.targetCap)) s

/-- The row of Call (Tables 3.6 and 3.7). -/
def callRow : OpInfo := { opcode := 0x82, ops := [cSrc], transfer := true, cls := 3 }

/-- CALL (R107, R109). -/
def execCall (k : CoreId) (e : Enc) (s : State) : Host.Outcome State Fault Refusal :=
  runInstr k callRow e anyLevel
    (fun x => do
      let c ← x.targetCap
      x.pushCall
      return .jump c) s

/-- The row of Jmpa (Tables 3.6 and 3.7). -/
def jmpaRow : OpInfo := { opcode := 0x84, widths := .int [0xF1, 0xF2, 0xF3], ops := [iw], fore := true, transfer := true, cls := 2 }

/-- JMPA (R71). -/
def execJmpa (k : CoreId) (e : Enc) (s : State) : Host.Outcome State Fault Refusal :=
  runInstr k jmpaRow e anyLevel
    (fun x => do
      let v ← x.src 0
      return .jump (x.target (x.next.base + v))) s

/-- The row of Calla (Tables 3.6 and 3.7). -/
def callaRow : OpInfo := { opcode := 0x85, widths := .int [0xF1, 0xF2, 0xF3], ops := [iw], fore := true, transfer := true, cls := 3 }

/-- CALLA (R71, R109). -/
def execCalla (k : CoreId) (e : Enc) (s : State) : Host.Outcome State Fault Refusal :=
  runInstr k callaRow e anyLevel
    (fun x => do
      let v ← x.src 0
      x.pushCall
      return .jump (x.target (x.next.base + v))) s

/-- The row of Callr (Tables 3.6 and 3.7). -/
def callrRow : OpInfo := { opcode := 0x86, fixed := .disp 2, fore := true, transfer := true, cls := 3 }

/-- CALLR (R109). -/
def execCallr (k : CoreId) (e : Enc) (s : State) : Host.Outcome State Fault Refusal :=
  runInstr k callrRow e anyLevel
    (fun x => do
      x.pushCall
      return .jump x.relative) s

/-- The row of Callrl (Tables 3.6 and 3.7). -/
def callrlRow : OpInfo := { opcode := 0x87, fixed := .disp 4, transfer := true, cls := 3 }

/-- CALLRL (R109). -/
def execCallrl (k : CoreId) (e : Enc) (s : State) : Host.Outcome State Fault Refusal :=
  runInstr k callrlRow e anyLevel
    (fun x => do
      x.pushCall
      return .jump x.relative) s

/-- The row of Ret (Tables 3.6 and 3.7). -/
def retRow : OpInfo := { opcode := 0x06, fore := true, cls := 3 }

/-- RET (R109, R111). -/
def execRet (k : CoreId) (e : Enc) (s : State) : Host.Outcome State Fault Refusal :=
  runInstr k retRow e anyLevel
    (fun _ => do
      let c ← getCore k
      let f ← topFrame k
      if f.kind ≠ kindCall ∨ f.level ≠ c.level then underflow c.rsc.cursor 2
      dropFrame k
      return .jump f.rpcc) s

/-- Chains a return into an interrupt that would be taken at once (R122): the frame keeps RPCC, BANK and SWLOW. -/
def chainInto (k : CoreId) (f : RFrame) (i : Nat × Word) : Exec Unit := do
  let s ← get
  modCore k fun c =>
    let g : RFrame := ⟨f.rpcc, swImage f.kind f.bank i.1 f.swlow, i.2⟩
    let r := c.returnTo f
    let d := { c with rstack := g :: c.rstack.tail, sw := r.sw, irqs := c.irqs.erase i }
    d.enterAt (entryPcc s k false i.1) levelS i.1

/-- The row of Reti (Tables 3.6 and 3.7). Table 6.4 names no class for it: DESIGN CHOICE class 3, as RET has (log entry 160). -/
def retiRow : OpInfo := { opcode := 0x07, fore := true, cls := 3 }

/-- RETI (R121, R122). At level M it pops the machine return stack and never chains, since a chained frame stays on the
return stack (log entry 27). -/
def execReti (k : CoreId) (e : Enc) (s : State) : Host.Outcome State Fault Refusal :=
  runInstr k retiRow e notAtC
    (fun x => do
      let c ← getCore k
      if !c.longOps.isEmpty then throw (.need 0)
      if c.level = levelM then
        match c.mstack with
        | [] => underflow c.rsc.cursor 1
        | f :: fs =>
          if levelTooHigh c f then throw (.trap 10 (privCause c.level x.inst))
          retire x true
          modCore k fun c => { c with mstack := fs }.returnTo f
          return .done true
      else
        let f ← topFrame k
        if f.kind ≠ kindTrap then underflow c.rsc.cursor 3
        if levelTooHigh c f then throw (.trap 10 (privCause c.level x.inst))
        retire x true
        let c ← getCore k
        match nextIrq (c.returnTo f) with
        | some i =>
          if !c.imprecise.isEmpty then throw (.trap 18 0)
          chainInto k f i
        | none =>
          dropFrame k
          modCore k fun c => c.returnTo f
        return .done true) s

-- traps

def iHalf : OpDesc := ⟨.i, .n 2, .src⟩

/-- The row of Svc (Tables 3.6 and 3.7). -/
-- class 1: log entry 160
def svcRow : OpInfo := { opcode := 0x04, ops := [iHalf], fore := true }

/-- SVC (R116): its operand is the cause; at level M, where it is not legal, privilege (log entry 28). -/
def execSvc (k : CoreId) (e : Enc) (s : State) : Host.Outcome State Fault Refusal :=
  runInstr k svcRow e (fun _ c _ => c.level == levelM)
    (fun x => do
      let v ← x.src 0
      return .event 22 (BitVec.ofNat 64 v) x.next) s

/-- The row of Mcall (Tables 3.6 and 3.7). -/
def mcallRow : OpInfo := { opcode := 0x05, ops := [iHalf] }

/-- MCALL (R116): legal at level S only. -/
def execMcall (k : CoreId) (e : Enc) (s : State) : Host.Outcome State Fault Refusal :=
  runInstr k mcallRow e (fun _ c _ => c.level != levelS)
    (fun x => do
      let v ← x.src 0
      return .event 23 (BitVec.ofNat 64 v) x.next) s

/-- The row of Bpt (Tables 3.6 and 3.7). -/
def bptRow : OpInfo := { opcode := 0x08, fore := true }

/-- BPT (Table 5.4). -/
def execBpt (k : CoreId) (e : Enc) (s : State) : Host.Outcome State Fault Refusal :=
  runInstr k bptRow e anyLevel (fun x => return .event 20 0 x.next) s

-- barriers (R130)

/-- The row of Fence (Tables 3.6 and 3.7). -/
def fenceRow : OpInfo := { opcode := 0x02, cls := 15 }

/-- FENCE (R130): it waits for every older access of the thread (R135, R180). -/
def execFence (k : CoreId) (e : Enc) (s : State) : Host.Outcome State Fault Refusal :=
  runInstr k fenceRow e anyLevel
    (fun _ => do
      awaitOlder k
      return .seq) s

/-- Waits for every older long operation and reports a pending imprecise fault (R129, R130). -/
def reportImprecise (k : CoreId) : Exec Unit := do
  let c ← getCore k
  if !c.longOps.isEmpty then throw (.need 0)
  if !c.imprecise.isEmpty then throw (.trap 18 0)

/-- The row of FenceE (Tables 3.6 and 3.7). -/
def fenceERow : OpInfo := { opcode := 0x03, cls := 15 }

/-- FENCE.E (R130). -/
def execFenceE (k : CoreId) (e : Enc) (s : State) : Host.Outcome State Fault Refusal :=
  runInstr k fenceERow e anyLevel
    (fun _ => do
      reportImprecise k
      awaitOlder k
      return .seq) s

-- status word and system registers

/-- The row of Rdsw (Tables 3.6 and 3.7). -/
def rdswRow : OpInfo := { opcode := 0x94, ops := [⟨.id, .n 8, .dst⟩], fore := true }

/-- RDSW (Table 3.6). -/
def execRdsw (k : CoreId) (e : Enc) (s : State) : Host.Outcome State Fault Refusal :=
  runInstr k rdswRow e anyLevel
    (fun x => do
      let sw ← readSW k
      let d ← x.dst 0
      x.put 0 d sw.toNat
      return .seq) s

/-- SW after WRSW at a level (R56). -/
def wrswValue (level : Nat) (sw : Word) (v : Nat) : Word :=
  let sw := putBits sw 5 0 (nbits v 5 0)
  if level = levelC then sw else putBits sw 20 19 (nbits v 20 19)

/-- The row of Wrsw (Tables 3.6 and 3.7). -/
def wrswRow : OpInfo := { opcode := 0x95, ops := [⟨.i, .n 8, .src⟩], fore := true }

/-- WRSW (R56). -/
def execWrsw (k : CoreId) (e : Enc) (s : State) : Host.Outcome State Fault Refusal :=
  runInstr k wrswRow e anyLevel
    (fun x => do
      let v ← x.src 0
      let six := (List.range 6).map fun i => (i, v.testBit i)
      modCore k fun c => { c.unflag six with sw := wrswValue c.level c.sw v }
      return .seq) s

/-- The row of Ei (Tables 3.6 and 3.7). -/
def eiRow : OpInfo := { opcode := 0x96, fore := true }

/-- EI (R116, R129). -/
def execEi (k : CoreId) (e : Enc) (s : State) : Host.Outcome State Fault Refusal :=
  runInstr k eiRow e notAtC
    (fun _ => do
      modCore k fun c => { c with sw := putBits c.sw 20 20 1 }
      return .seq) s

/-- The row of Di (Tables 3.6 and 3.7). -/
def diRow : OpInfo := { opcode := 0x97, fore := true }

/-- DI (R116, R129). -/
def execDi (k : CoreId) (e : Enc) (s : State) : Host.Outcome State Fault Refusal :=
  runInstr k diRow e notAtC
    (fun _ => do
      modCore k fun c => { c with sw := putBits c.sw 20 20 0 }
      return .seq) s

/-- Whether a system register is denied (R57): VBA, KRR, RSC and the BTRs need level S with SY in PCC, or level M. -/
def sysDenied (_s : State) (c : Core) (i : Inst) : Bool :=
  let n := i.fixed % 256
  if n = 3 ∨ n = 4 then false
  else c.level == levelC || (c.level == levelS && !c.pcc.has permSY)

/-- The value of a system register (Table 3.3). -/
def sysRead (k : CoreId) (n : Nat) : Exec Nat := do
  let s ← get
  let c := s.core k
  match n with
  | 0 => return c.vba.toNat
  | 1 => return c.krr.toNat
  | 3 => readDsr k
  | 4 => return s.timebase.toNat
  | _ =>
    let b := (c.btr.toList.getD ((n - 0x10) / 2) 0).toNat
    return if n % 2 = 0 then b % 2 ^ 64 else b / 2 ^ 64

/-- The row of Rdsr (Tables 3.6 and 3.7). -/
def rdsrRow : OpInfo := { opcode := 0x90, fixed := .sysInt false, ops := [⟨.id, .n 8, .dst⟩], cls := 15 }

/-- RDSR (R57). -/
def execRdsr (k : CoreId) (e : Enc) (s : State) : Host.Outcome State Fault Refusal :=
  runInstr k rdsrRow e sysDenied
    (fun x => do
      let v ← sysRead k (x.inst.fixed % 256)
      let d ← x.dst 0
      x.put 0 d v
      return .seq) s

/-- Whether a value may be written to KRR (R163). -/
def krrOk (v : Nat) : Bool := (List.range 16).all fun j => !v.testBit (4 * j + 3)

/-- Whether the low half of a BTR may take a value (R158). -/
def btrLowOk (old : Nat) (v : Nat) : Bool := !old.testBit 127 && nbits v 15 0 == 0 && nbits v 63 55 == 0

/-- Whether the high half of a BTR may take a value (R158). -/
def btrHighOk (old : Nat) (v : Nat) : Bool :=
  let size := nbits v 5 0
  nbits v 58 54 == 0 && nbits v 47 46 == 0 && nbits v 15 6 == 0 &&
    (!v.testBit 63 || (nbits v 53 52 != 3 && 16 ≤ size && size ≤ 46 &&
      (nbits old 54 16 * 65536) % 2 ^ size == 0 && (nbits v 45 16 * 65536) % 2 ^ size == 0))

/-- A value of VBA that R115 allows. -/
def vbaOk (s : State) (k : CoreId) (v : Nat) : Bool :=
  let w := superWindow s k
  v % 4096 == 0 && w.1 ≤ v && v + 4096 ≤ w.1 + w.2

/-- The core after a write of a system register, or none where the value is refused (R58, R115, R158, R163). -/
def sysWrite (s : State) (k : CoreId) (n v : Nat) : Option Core :=
  let c := s.core k
  match n with
  | 0 => if vbaOk s k v then some { c with vba := BitVec.ofNat 64 v } else none
  | 1 => if krrOk v then some { c with krr := BitVec.ofNat 64 v } else none
  | 3 =>
    if 5 ≤ nbits v 18 16 then none
    else some { c with dsr := BitVec.ofNat 32 (nbits v 18 16 * 2 ^ 16 + nbits v 12 8 * 2 ^ 8 + nbits v 4 0) }.touchDec
  | _ =>
    let j := (n - 0x10) / 2
    let old := (c.btr.toList.getD j 0).toNat
    if n % 2 = 0 then
      if btrLowOk old v then some { c with btr := c.btr.setIfInBounds j (BitVec.ofNat 128 (old / 2 ^ 64 * 2 ^ 64 + v)) } else none
    else
      if btrHighOk old v then some { c with btr := c.btr.setIfInBounds j (BitVec.ofNat 128 (v * 2 ^ 64 + old % 2 ^ 64)) } else none

/-- The row of Wrsr (Tables 3.6 and 3.7). -/
def wrsrRow : OpInfo := { opcode := 0x91, fixed := .sysInt true, ops := [⟨.i, .n 8, .src⟩], cls := 15 }

/-- WRSR (R57, R58). A value that is refused takes reason 9, told at the number byte: the spec does not say which byte is the
offending one (log entry 103). -/
def execWrsr (k : CoreId) (e : Enc) (s : State) : Host.Outcome State Fault Refusal :=
  runInstr k wrsrRow e sysDenied
    (fun x => do
      let n := x.inst.fixed % 256
      if n = 3 then let _ ← readDsr k
      let v ← x.src 0
      match sysWrite (← get) k n v with
      | some c =>
        modCore k fun _ => c
        return .seq
      | none => throw (.trap 9 (illegalCause x.inst.fixedOff 9))) s

/-- The row of Rdsc (Tables 3.6 and 3.7). -/
def rdscRow : OpInfo := { opcode := 0x92, fixed := .sysCap, ops := [cDst], cls := 15 }

/-- A sealed capability passes through neither RDSC nor WRSC (R42). -/
def needUnsealed (c : TCap) : Exec Unit := if c.sealed then memFault 4 0 0 c.cursor else return

/-- RDSC of RSC (R42, R57). -/
def execRdsc (k : CoreId) (e : Enc) (s : State) : Host.Outcome State Fault Refusal :=
  runInstr k rdscRow e sysDenied
    (fun x => do
      let c := (← getCore k).rsc
      needUnsealed c
      writeC k (x.op 0).1.reg.toNat c
      return .seq) s

/-- The row of Wrsc (Tables 3.6 and 3.7). -/
def wrscRow : OpInfo := { opcode := 0x93, fixed := .sysCap, ops := [cSrc], cls := 15 }

/-- WRSC to RSC (R42, R57, R110): the cached frames stay. -/
def execWrsc (k : CoreId) (e : Enc) (s : State) : Host.Outcome State Fault Refusal :=
  runInstr k wrscRow e sysDenied
    (fun x => do
      let c ← readC k (x.op 0).1.reg.toNat
      needUnsealed c
      modCore k fun d => { d with rsc := c }
      return .seq) s

/-- The row of Cas (Tables 3.6 and 3.7). -/
def casRow : OpInfo := { opcode := 0x98, widths := widthAll, ops := [⟨.m, .w, .both⟩, iw, ⟨.xd, .w, .both⟩], atomic := true, cas := true, cls := 15 }

/-- CAS (R131, R132). -/
def execCas (k : CoreId) (e : Enc) (s : State) : Host.Outcome State Fault Refusal :=
  runInstr k casRow e
    anyLevel
    (fun x => do
      let w := x.inst.w
      let l ← x.loc 0 false
      let new ← x.src 1
      let want := (← readX k (x.op 2).1.reg.toNat) % 2 ^ w
      let old ← x.atomicRmw 0 new want l fun v => if v = want then some new else none
      writeX k (x.op 2).1.reg.toNat w old
      setFlags k [(fZ, old == want)]
      return .seq) s

-- escape page (Table 3.7)

/-- Drops TLB slots by a test (R162). -/
def dropSlots (k : CoreId) (p : TlbSlot → Bool) : Exec Unit :=
  modCore k fun c => { c with tlb := c.tlb.filter fun t => !p t }

def iD : OpDesc := ⟨.i, .n 8, .src⟩

/-- The row of Tlbi (Tables 3.6 and 3.7). -/
def tlbiRow : OpInfo := { opcode := 0xEF, esc := some 0x00, ops := [iD], cls := 15 }

/-- TLBI (R162): an access whose translation was made before it is performed first (R166). DESIGN CHOICE (log entry 161): bits
[63:55] of the operand are not looked at. -/
def execTlbi (k : CoreId) (e : Enc) (s : State) : Host.Outcome State Fault Refusal :=
  runInstr k tlbiRow e notAtC
    (fun x => do
      let va := (← x.src 0) % 2 ^ 55
      awaitOlder k
      dropSlots k fun t => t.vbase ≤ va && va < t.vbase + t.size
      return .seq) s

/-- The row of Tlbia (Tables 3.6 and 3.7). -/
def tlbiaRow : OpInfo := { opcode := 0xEF, esc := some 0x01, cls := 15 }

/-- TLBIA (R162). -/
def execTlbia (k : CoreId) (e : Enc) (s : State) : Host.Outcome State Fault Refusal :=
  runInstr k tlbiaRow e notAtC
    (fun _ => do
      awaitOlder k
      dropSlots k fun _ => true
      return .seq) s

/-- The row of Tlbik (Tables 3.6 and 3.7). -/
def tlbikRow : OpInfo := { opcode := 0xEF, esc := some 0x02, ops := [iD], cls := 15 }

/-- TLBIK (R162): a key above 15 takes illegal instruction, reason 6, told at the escape byte (log entry 29). -/
def execTlbik (k : CoreId) (e : Enc) (s : State) : Host.Outcome State Fault Refusal :=
  runInstr k tlbikRow e notAtC
    (fun x => do
      let key ← x.src 0
      if 15 < key then throw (.trap 9 (illegalCause (x.inst.fixedOff - 1) 6))
      awaitOlder k
      dropSlots k fun t => t.key.toNat == key
      return .seq) s

/-- The row of Wci (Tables 3.6 and 3.7). -/
def wciRow : OpInfo := { opcode := 0xEF, esc := some 0x03, cls := 15 }

/-- WCI (R162). -/
def execWci (k : CoreId) (e : Enc) (s : State) : Host.Outcome State Fault Refusal :=
  runInstr k wciRow e notAtC
    (fun _ => do
      awaitOlder k
      modCore k fun c => { c with walk := [] }
      return .seq) s

/-- Counters of Table 6.12 whose counts depend on what the model has no state for: micro-ops, caches and prediction. They start at 0
and count modulo 2^64 as the others do; by how much one has advanced since it was last read, beyond one micro-op for each instruction that
retired, is a free value. A paced grove has no wrong path and predicts nothing (R141), so there 3, 4, 12 and 13 stand still. -/
def openCounter (paced : Bool) (i : Nat) : Bool :=
  i == 2 || (5 ≤ i && i ≤ 8) || (!paced && (i == 3 || i == 4 || i == 12 || i == 13))

/-- The row of Pmcrd (Tables 3.6 and 3.7). Table 3.7 names no width for its operands and no width prefix: the model takes 8 bytes each
and allows none (log entry 104). -/
def pmcrdRow : OpInfo := { opcode := 0xEF, esc := some 0x10, ops := [iD, ⟨.id, .n 8, .dst⟩], cls := 15 }

/-- PMCRD (R148): a counter above 15 takes illegal instruction, reason 6, told at the escape byte (log entry 29). The counters
that the model has no state for advance by free values (log entry 12). -/
def execPmcrd (k : CoreId) (e : Enc) (s : State) : Host.Outcome State Fault Refusal :=
  runInstr k pmcrdRow e
    (fun s c _ => c.level == levelC && !s.flag k.half (Reg.GRV_MODE_CEN.grove k.grove.val))
    (fun x => do
      let i ← x.src 0
      if 15 < i then throw (.trap 9 (illegalCause (x.inst.fixedOff - 1) 6))
      let d ← x.dst 1
      let s ← get
      if openCounter (isPaced s k) i then
        let v := (s.core k).perf.toList.getD i 0 + s.takeFree.1
        set s.takeFree.2
        x.put 1 d v.toNat
        modCore k fun c => { c with perf := c.perf.setIfInBounds i v }
      else x.put 1 d ((s.core k).perf.toList.getD i 0).toNat
      return .seq) s

end Sys2Proof.Machine
end

