-- ==== Sys2Proof/Machine/CapInstr.lean ====
section
/-! DEFINITION. The capability instructions (opcodes 0xA0–0xB7): R39–R46. -/

namespace Sys2Proof.Machine

def Ctx.cap (x : Ctx) (i : Nat) : Exec TCap := readC x.k (x.op i).1.reg.toNat

/-- Writes a capability destination. -/
def Ctx.putCap (x : Ctx) (i : Nat) (c : TCap) : Exec Flow := do
  writeC x.k (x.op i).1.reg.toNat c
  return .seq

/-- A derivation's fault (R39): its cause names the operand and the capability's cursor (log entry 30). -/
def capFault {α : Type} (vec operand : Nat) (c : TCap) : Exec α := memFault vec operand 0 c.cursor

/-- Tagged and unsealed, else tag or brand fault. -/
def needPlain (operand : Nat) (c : TCap) : Exec Unit := do
  if !c.tag then capFault 1 operand c
  if c.otype ≠ 0 then capFault 4 operand c

/-- The row of Ccopy (Tables 3.6 and 3.7). -/
def ccopyRow : OpInfo := { opcode := 0xA0, ops := [cSrc, cDst] }

/-- CCOPY (Table 2.3). -/
def execCcopy (k : CoreId) (e : Enc) (s : State) : Host.Outcome State Fault Refusal :=
  runInstr k ccopyRow e anyLevel (fun x => do x.putCap 1 (← x.cap 0)) s

/-- The row of Cstep (Tables 3.6 and 3.7). -/
def cstepRow : OpInfo := { opcode := 0xA1, ops := [cSrc, iD, cDst] }

/-- CSTEP (Table 2.3). -/
def execCstep (k : CoreId) (e : Enc) (s : State) : Host.Outcome State Fault Refusal :=
  runInstr k cstepRow e anyLevel
    (fun x => do
      let c ← x.cap 0
      let v ← x.src 1
      if c.sealed then capFault 4 0 c
      x.putCap 2 (c.step (signedOf 64 v))) s

/-- The row of Cplace (Tables 3.6 and 3.7). -/
def cplaceRow : OpInfo := { opcode := 0xA2, ops := [cSrc, iD, cDst] }

/-- CPLACE (Table 2.3). -/
def execCplace (k : CoreId) (e : Enc) (s : State) : Host.Outcome State Fault Refusal :=
  runInstr k cplaceRow e anyLevel
    (fun x => do
      let c ← x.cap 0
      let v ← x.src 1
      if c.sealed then capFault 4 0 c
      x.putCap 2 (c.moveTo v)) s

/-- CFIT and CFITX (R36, Table 2.3). -/
def fitCap (exact : Bool) (x : Ctx) : Exec Flow := do
  let c ← x.cap 0
  let l ← x.src 1
  needPlain 0 c
  match fitRange c.cursor l with
  | none => capFault 2 0 c
  | some f =>
    if !(c.base ≤ (f.base : Int) && (f.top : Int) ≤ c.top) then capFault 2 0 c
    if exact && !(f.base == c.cursor && f.top == c.cursor + l) then capFault 2 0 c
    x.putCap 2 (c.withFit f)

/-- The row of Cfit (Tables 3.6 and 3.7). -/
def cfitRow : OpInfo := { opcode := 0xA3, ops := [cSrc, iD, cDst] }

/-- CFIT (Table 2.3). -/
def execCfit (k : CoreId) (e : Enc) (s : State) : Host.Outcome State Fault Refusal :=
  runInstr k cfitRow e anyLevel (fitCap false) s

/-- The row of Cfitx (Tables 3.6 and 3.7). -/
def cfitxRow : OpInfo := { opcode := 0xA4, ops := [cSrc, iD, cDst] }

/-- CFITX (Table 2.3). -/
def execCfitx (k : CoreId) (e : Enc) (s : State) : Host.Outcome State Fault Refusal :=
  runInstr k cfitxRow e anyLevel (fitCap true) s

/-- The row of Cdrop (Tables 3.6 and 3.7). -/
def cdropRow : OpInfo := { opcode := 0xA5, ops := [cSrc, iD, cDst] }

/-- CDROP (Table 2.3): the mask's low twelve bits stand over PERMS. -/
def execCdrop (k : CoreId) (e : Enc) (s : State) : Host.Outcome State Fault Refusal :=
  runInstr k cdropRow e anyLevel
    (fun x => do
      let c ← x.cap 0
      let v ← x.src 1
      if c.sealed then capFault 4 0 c
      x.putCap 2 (c.put 127 116 (c.perms &&& v))) s

/-- The row of Cmode (Tables 3.6 and 3.7). -/
def cmodeRow : OpInfo := { opcode := 0xA6, ops := [cSrc, iD, cDst] }

/-- CMODE (Table 2.3): the low bit of the operand. -/
def execCmode (k : CoreId) (e : Enc) (s : State) : Host.Outcome State Fault Refusal :=
  runInstr k cmodeRow e anyLevel
    (fun x => do
      let c ← x.cap 0
      let v ← x.src 1
      needPlain 0 c
      if !c.has permEX then capFault 3 0 c
      x.putCap 2 (c.put 98 98 (v % 2))) s

/-- What CBRAND and CUNBR ask of their authority before its cursor (Table 2.3). Where several requirements fail, the spec does not say
which fault comes: the model takes the order of the table's row (log entry 105). -/
def needAuthority (a : TCap) (perm : Nat) : Exec Unit := do
  needPlain 1 a
  if !a.has perm then capFault 3 1 a
  if a.node ≠ 511 then capFault 3 1 a

/-- The row of Cbrand (Tables 3.6 and 3.7). -/
def cbrandRow : OpInfo := { opcode := 0xA7, ops := [cSrc, cSrc, cDst] }

/-- CBRAND (Table 2.3). -/
def execCbrand (k : CoreId) (e : Enc) (s : State) : Host.Outcome State Fault Refusal :=
  runInstr k cbrandRow e anyLevel
    (fun x => do
      let c ← x.cap 0
      let a ← x.cap 1
      needPlain 0 c
      needAuthority a permSE
      if !(a.base ≤ (a.cursor : Int) && (a.cursor : Int) < a.top) then capFault 2 1 a
      if a.cursor < 1 ∨ 0xFFE < a.cursor then capFault 3 1 a
      x.putCap 2 (c.put 115 104 a.cursor)) s

/-- The row of Cunbr (Tables 3.6 and 3.7). -/
def cunbrRow : OpInfo := { opcode := 0xA8, ops := [cSrc, cSrc, cDst] }

/-- CUNBR (Table 2.3, R43). A cursor of Ca other than Cs.OTYPE is a brand fault, also outside 0x001–0xFFE, where the row's words fit a
permission fault too (log entry 105). -/
def execCunbr (k : CoreId) (e : Enc) (s : State) : Host.Outcome State Fault Refusal :=
  runInstr k cunbrRow e anyLevel
    (fun x => do
      let c ← x.cap 0
      let a ← x.cap 1
      if !c.tag then capFault 1 0 c
      if c.otype < 1 ∨ 0xFFE < c.otype then capFault 4 0 c
      needAuthority a permUS
      if a.cursor ≠ c.otype then capFault 4 1 a
      if !(a.base ≤ (a.cursor : Int) && (a.cursor : Int) < a.top) then capFault 2 1 a
      x.putCap 2 ((c.put 115 104 0).put 121 121 (b2n (c.has permGL && a.has permGL)))) s

/-- The row of Csent (Tables 3.6 and 3.7). -/
def csentRow : OpInfo := { opcode := 0xA9, ops := [cSrc, cDst] }

/-- CSENT (Table 2.3). -/
def execCsent (k : CoreId) (e : Enc) (s : State) : Host.Outcome State Fault Refusal :=
  runInstr k csentRow e anyLevel
    (fun x => do
      let c ← x.cap 0
      needPlain 0 c
      if !c.has permEX then capFault 3 0 c
      x.putCap 1 (c.put 115 104 0xFFF)) s

/-- The row of Cvoid (Tables 3.6 and 3.7). -/
def cvoidRow : OpInfo := { opcode := 0xAA, ops := [cSrc, cDst] }

/-- CVOID (Table 2.3). -/
def execCvoid (k : CoreId) (e : Enc) (s : State) : Host.Outcome State Fault Refusal :=
  runInstr k cvoidRow e anyLevel (fun x => do x.putCap 1 (← x.cap 0).clearTag) s

def mCap (r : Role) : OpDesc := ⟨.m, .n 16, r⟩

/-- The row of Cldc (Tables 3.6 and 3.7). -/
def cldcRow : OpInfo := { opcode := 0xAB, ops := [mCap .src, cDst] }

/-- CLDC (Table 2.3, R45). -/
def execCldc (k : CoreId) (e : Enc) (s : State) : Host.Outcome State Fault Refusal :=
  runInstr k cldcRow e anyLevel
    (fun x => do
      let l ← x.loc 0 false
      let ps ← resolve k l.cap l.ea 16 .read true 0
      let (bs, tag) ← loadParts k l.cap true 0 ps
      x.putCap 1 (capOf bs tag)) s

/-- The row of Cstc (Tables 3.6 and 3.7). -/
def cstcRow : OpInfo := { opcode := 0xAC, ops := [cSrc, mCap .dst] }

/-- CSTC (Table 2.3, R41, R45, R48): what a tagged capability asks is checked with the permissions and the page. -/
def execCstc (k : CoreId) (e : Enc) (s : State) : Host.Outcome State Fault Refusal :=
  runInstr k cstcRow e anyLevel
    (fun x => do
      let c ← x.cap 0
      let l ← x.loc 1 true
      let ps ← resolve k l.cap l.ea 16 .write true 1 (stored := c)
      putAll k [ps.map fun p => ⟨p, l.cap, c.bytes, c.tag, true, x.inst.release⟩]
      return .seq) s

/-- A field read (Table 2.3, last row). -/
def capRead (f : TCap → Nat) (x : Ctx) : Exec Flow := do
  let c ← x.cap 0
  let d ← x.dst 1
  x.put 1 d (f c)
  return .seq

def crOps : List OpDesc := [cSrc, ⟨.id, .n 8, .dst⟩]

/-- The row of Crbase (Tables 3.6 and 3.7). -/
def crbaseRow : OpInfo := { opcode := 0xB0, ops := crOps }

/-- CRBASE (Table 2.3). -/
def execCrbase (k : CoreId) (e : Enc) (s : State) : Host.Outcome State Fault Refusal :=
  runInstr k crbaseRow e anyLevel (capRead fun c => unsignedOf 64 c.readBounds.1) s

/-- The row of Crtop (Tables 3.6 and 3.7). -/
def crtopRow : OpInfo := { opcode := 0xB1, ops := crOps }

/-- CRTOP (Table 2.3). -/
def execCrtop (k : CoreId) (e : Enc) (s : State) : Host.Outcome State Fault Refusal :=
  runInstr k crtopRow e anyLevel (capRead fun c => unsignedOf 64 c.readBounds.2) s

/-- The row of Crspan (Tables 3.6 and 3.7). -/
def crspanRow : OpInfo := { opcode := 0xB2, ops := crOps }

/-- CRSPAN (Table 2.3). -/
def execCrspan (k : CoreId) (e : Enc) (s : State) : Host.Outcome State Fault Refusal :=
  runInstr k crspanRow e anyLevel (capRead fun c => unsignedOf 64 (c.readBounds.2 - c.readBounds.1)) s

/-- The row of Crperm (Tables 3.6 and 3.7). -/
def crpermRow : OpInfo := { opcode := 0xB3, ops := crOps }

/-- CRPERM (Table 2.3). -/
def execCrperm (k : CoreId) (e : Enc) (s : State) : Host.Outcome State Fault Refusal :=
  runInstr k crpermRow e anyLevel (capRead TCap.perms) s

/-- The row of Crotype (Tables 3.6 and 3.7). -/
def crotypeRow : OpInfo := { opcode := 0xB4, ops := crOps }

/-- CROTYPE (Table 2.3). -/
def execCrotype (k : CoreId) (e : Enc) (s : State) : Host.Outcome State Fault Refusal :=
  runInstr k crotypeRow e anyLevel (capRead TCap.otype) s

/-- The row of Crtag (Tables 3.6 and 3.7). -/
def crtagRow : OpInfo := { opcode := 0xB5, ops := crOps }

/-- CRTAG (Table 2.3). -/
def execCrtag (k : CoreId) (e : Enc) (s : State) : Host.Outcome State Fault Refusal :=
  runInstr k crtagRow e anyLevel (capRead fun c => b2n c.tag) s

/-- The row of Crnode (Tables 3.6 and 3.7). -/
def crnodeRow : OpInfo := { opcode := 0xB6, ops := crOps }

/-- CRNODE (Table 2.3). -/
def execCrnode (k : CoreId) (e : Enc) (s : State) : Host.Outcome State Fault Refusal :=
  runInstr k crnodeRow e anyLevel (capRead TCap.node) s

/-- The row of Crepoch (Tables 3.6 and 3.7). -/
def crepochRow : OpInfo := { opcode := 0xB7, ops := crOps }

/-- CREPOCH (Table 2.3). -/
def execCrepoch (k : CoreId) (e : Enc) (s : State) : Host.Outcome State Fault Refusal :=
  runInstr k crepochRow e anyLevel (capRead TCap.epoch) s

end Sys2Proof.Machine
end

