-- ==== Sys2Proof/Machine/Cruise.lean ====
section
/-! DEFINITION. Cruise (R336–R344), heartbeats (R340), pair keys and mirror updates (R350, R351), silence and adoption
(R352). Routes that the root computes are free values: the topology is no part of the state (log entry 33). -/

namespace Sys2Proof

/-- Whether a KEYX message's signature and key share are good (R350, log entry 8). -/
opaque Config.keyxValid : List Byte → Bool

/-- The X25519 key share that a Kiln sends, signed with the identity key (R350, log entry 8). -/
opaque Config.keyxMessage : (identity : List Byte) → (node counter : Nat) → List Byte

/-- The node whose buddy a node is: the one that it reports the adoption of (R339, log entry 146). -/
opaque Config.buddyOf : (node : Nat) → Nat

/-- Whether links elsewhere in the fabric that failed cut a node off from this device at a time: Cruise finds it (R342, log entry 33). -/
opaque Config.cutOff : (elapsed node : Nat) → Bool

namespace Machine

-- the node table

/-- Sets a node's state, epoch and floor; its ports stay. -/
def setNode (s : State) (h : HalfId) (n state epoch floor : Nat) (serial : Word) : State :=
  let s := s.setFld h (Reg.BOM_NODE_SER_SERIAL.at (16 * n)) serial.toNat
  let s := s.setFld h (Reg.BOM_NODE_ST_STATE.at (16 * n)) state
  (s.setFld h (Reg.BOM_NODE_ST_EPOCH.at (16 * n)) epoch).setFld h (Reg.BOM_NODE_ST_FLOOR.at (16 * n)) floor

def nodeSerial (s : State) (h : HalfId) (n : Nat) : Word := BitVec.ofNat 64 (s.fld h (Reg.BOM_NODE_SER_SERIAL.at (16 * n)))
def nodeFloor (s : State) (h : HalfId) (n : Nat) : Nat := s.fld h (Reg.BOM_NODE_ST_FLOOR.at (16 * n))

/-- Whether a half performs root duties: it is joined, its device is the root's, and its Warden holds the charge latch (R336). -/
def isRoot (s : State) (h : HalfId) : Bool :=
  holdsLatch s h && s.fld h Reg.BOM_ID_CSTATE == 2 && s.fld h Reg.BOM_ID_ROOT / 2 == ownNode s h / 2

/-- Ports by which a half can send: its links that carry traffic, and the seam port. -/
def portsUp (s : State) (h : HalfId) : List Nat :=
  ((List.range 4).filter fun l => (linkOf s h l).up) ++ (if s.seamUp then [4] else [])

/-- Puts routes computed by the root into a half's table: the other half of the device by the seam port, every other member by
ports left free (log entry 33). -/
def newRoutes (s : State) (h : HalfId) : State :=
  (nodeTable s h).foldl (fun s e =>
    let n := e.node.toNat
    let own := ownNode s h
    let ps := portsUp s h
    let w := s.takeFree
    let r : Nat × Nat :=
      if n = own ∨ e.state ≠ 1 ∨ ps.isEmpty then (15, 15)
      else
        let pri := if n / 2 = own / 2 then 4 else ps.getD (w.1.toNat % ps.length) 15
        let alt := ps.getD (w.1.toNat / 16 % ps.length) 15
        (pri, if alt = pri then 15 else alt)
    (w.2.setFld h (Reg.BOM_NODE_ST_PRI.at (16 * n)) r.1).setFld h (Reg.BOM_NODE_ST_ALT.at (16 * n)) r.2) s

/-- What becomes of requests and parts that wait for a node that is no member any more: NODE_UNREACHABLE. -/
def failNode (s : State) (h : HalfId) (n : Nat) : State :=
  let os := (s.half h).bom.outstanding.filter fun o => o.pkt.dst.toNat == n
  let s := os.foldl (fun s o => takeResponse s h o { answerTo s h o.pkt 6 0x20 [] with src := o.pkt.dst }) s
  (s.half h).hif.inflight.foldl (fun s e =>
    if dOp e.desc ≠ 0x13 then s else
    (List.range e.parts.length).foldl (fun s k =>
      if e.begun.testBit k && fieldLE e.partList (32 * k) 2 % 512 == n then partEnd s h e.tag k (statusOf 5 1) else s) s) s

/-- Fails what waits for every node that is not JOINED. -/
def failLost (s : State) (h : HalfId) : State :=
  let dsts := (s.half h).bom.outstanding.map (·.pkt.dst.toNat)
  let parts := (s.half h).hif.inflight.flatMap fun e =>
    if dOp e.desc = 0x13 then (List.range e.parts.length).map fun k => fieldLE e.partList (32 * k) 2 % 512 else []
  (dsts ++ parts).foldl (fun s n => if n ≠ 511 ∧ n ≠ ownNode s h ∧ (nodeState s h n).1 ≠ 1 then failNode s h n else s) s

/-- Empties a half's node table. -/
def clearTable (s : State) (h : HalfId) : State := (nodeTable s h).foldl (fun s e => setNode s h e.node.toNat 0 0 0 0) s

/-- Copies the root half's table to the other half of its device, where that is joined. -/
def copyTable (s : State) (h : HalfId) : State :=
  if s.fld h.other Reg.BOM_ID_CSTATE ≠ 2 then s else
  let s := (nodeTable s h).foldl (fun s e =>
    setNode s h.other e.node.toNat e.state.toNat e.epoch.toNat e.floor.toNat e.serial) (clearTable s h.other)
  failLost (newRoutes s h.other) h.other

/-- The root distributes its table (R337): to its own two halves and to every other member, with routes of its computing. A
change of members raises attention 4 (Table 15.8); members elsewhere raise theirs when the table reaches them. -/
def publishAs (s : State) (h : HalfId) (rootNode : Nat) (changed : Bool) : State :=
  let s := nameRoot s rootNode
  let s := copyTable (failLost (newRoutes s h) h) h
  let root := BitVec.ofNat 9 rootNode
  let fgen := BitVec.ofNat 16 (s.fld h Reg.BOM_ID_FGEN)
  let members := (nodeTable s h).filter fun e => e.state == 1 && e.node.toNat / 2 != ownNode s h / 2
  let s := members.foldl (fun s m =>
    let w := s.takeFree
    let es := (nodeTable s h).map fun e =>
      let v := (Config.free (w.1.toNat + e.node.toNat)).toNat
      { e with pri := BitVec.ofNat 4 v, alt := BitVec.ofNat 4 (v / 16) }
    sendCruise w.2 h m.node.toNat (.table root fgen es)) s
  if changed then raiseAttnBoth s 4 else s

/-- The root distributes its table. -/
def publish (s : State) (h : HalfId) (changed : Bool) : State := publishAs s h (ownNode s h) changed

/-- The root declares a node dead (R339). -/
def declareDead (s : State) (h : HalfId) (n : Nat) : State :=
  if !isRoot s h ∨ (nodeState s h n).1 ≠ 1 ∨ n = ownNode s h then s else
  publish (setNode s h n 2 (nodeState s h n).2 (nodeFloor s h n) (nodeSerial s h n)) h true

-- joining (R338, R343)

/-- The identity key of a half's vault, in slot 0 (Table 18.6). -/
def identityKey (s : State) (h : HalfId) : Option (List Byte) := (SMap.get vaultDefault (s.half h).kln.vault 0).map (·.bytes)

/-- Sends the key agreement of a pair (R350); `reply` = it answers one received. A half without an identity key sends none. -/
def sendKeyx (s : State) (h : HalfId) (reply : Bool) : State :=
  match (if s.flag h Reg.BOM_CFG_BV then identityKey s h else none) with
  | none => s
  | some k =>
    let m := Config.keyxMessage k (ownNode s h) s.freeCount
    let s := updBom s.takeFree.2 h fun b => { b with keyx := m }
    (sendPacket s h (newPacket s h (s.fld h Reg.BOM_CFG_BUDDY) 11 (b2n reply) m)).2

/-- A half takes a number and an epoch (R338 step 3): the keys that it shared with its buddy are gone. -/
def takeNumber (s : State) (h : HalfId) (node epoch root fgen cstate : Nat) : State :=
  let s := s.setFld h Reg.BOM_ID_NODE node
  let s := (s.setFld h Reg.BOM_ID_EPOCH epoch).setFld h Reg.BOM_ID_FGEN fgen
  let s := (s.setFld h Reg.BOM_ID_ROOT root).setFld h Reg.BOM_ID_CSTATE cstate
  let s := updKln s h fun k => { k with pairTx := none, pairRx := none }
  updBom s h fun b => { b with buddyTrip := s.elapsed, buddyGone := false, buddyEcho := 0, lastHb := [], keyx := [] }

/-- A half of the root's own device joins at once: table and routes are its own. -/
def joinHalf (s : State) (h : HalfId) (node epoch root fgen : Nat) : State := sendKeyx (takeNumber s h node epoch root fgen 2) h false

/-- Whether a half that has a number still waits to be JOINED (R338): for the table that shows it (step 4), or for the keys that it and its
buddy, if that is a member, agree (step 5). -/
def joinWaits (s : State) (h : HalfId) : Bool :=
  nodeState s h (ownNode s h) != (1, ownEpoch s h) ||
    (s.flag h Reg.BOM_CFG_BV && (nodeState s h (s.fld h Reg.BOM_CFG_BUDDY)).1 == 1 && (identityKey s h).isSome && (s.half h).kln.pairTx.isNone)

/-- Step 6 of R338: the half acts as JOINED, and attention 4 is raised. -/
def joinDone (s : State) (h : HalfId) : State :=
  if s.fld h Reg.BOM_ID_CSTATE ≠ 1 ∨ s.fld h Reg.BOM_ID_NODE = 511 ∨ joinWaits s h then s
  else raiseAttnBoth ((s.setFld h Reg.BOM_ID_CSTATE 2).upd h fun x => { x with bom := { x.bom with buddyTrip := s.elapsed } }) 4

/-- The halves of this device that take part in Cruise. -/
def cruiseHalves (s : State) : List HalfId := [HalfId.east, .west].filter fun h => s.flag h Reg.BOM_CTRL_EN

/-- The device takes a number (R338): its halves that are not joined take theirs, and join at once where it is the root's. -/
def joinDevice (s : State) (device : Nat) (epochs : Nat × Nat) (root fgen : Nat) (own : Bool) : State :=
  (cruiseHalves s).foldl (fun s h =>
    let n := 2 * device + h.num
    let e := if h = .east then epochs.1 else epochs.2
    if s.fld h Reg.BOM_ID_CSTATE = 2 then s
    else if own then joinHalf s h n e root fgen
    else takeNumber s h n e root fgen 1) s

/-- Retires both nodes of a device number. -/
def retireDevice (s : State) (h : HalfId) (d : Nat) : State :=
  [2 * d, 2 * d + 1].foldl (fun s n => setNode s h n 3 (nodeState s h n).2 (nodeFloor s h n) (nodeSerial s h n)) s

/-- Whether both nodes of a device number are ABSENT. -/
def deviceAbsent (s : State) (h : HalfId) (d : Nat) : Bool := (nodeState s h (2 * d)).1 == 0 && (nodeState s h (2 * d + 1)).1 == 0

/-- Grants the nodes of a number that are not joined their floor + 1, or retires the number where one has none left (R343). -/
def grantDevice (s : State) (h : HalfId) (d : Nat) (serial : Word) : Bool × State :=
  let ns := [2 * d, 2 * d + 1].filter fun n => (nodeState s h n).1 != 1
  if ns.any fun n => nodeFloor s h n = 15 then (false, retireDevice s h d)
  else (true, ns.foldl (fun s n =>
    let f := nodeFloor s h n + 1
    let s := setNode s h n 1 f f serial
    updBom s h fun b => { b with lastHb := SMap.set (fun _ => 0) b.lastHb n s.elapsed }) s)

/-- The first of some device numbers that can be granted. -/
def grantFirst (h : HalfId) (serial : Word) : List Nat → State → Option Nat × State
  | [], s => (none, s)
  | d :: ds, s =>
    if !deviceAbsent s h d then grantFirst h serial ds s else
    match grantDevice s h d serial with
    | (true, s) => (some d, s)
    | (false, s) => grantFirst h serial ds s

/-- The number that the root gives a device (R338): its old one where the table holds its serial as DEAD, else its preferred one,
else the lowest ABSENT one; one that lost its number as sets met gets the lowest (R342). -/
def grantNumber (s : State) (h : HalfId) (serial : Word) (pref : Nat) : Option Nat × State :=
  let fresh (s : State) : Option Nat × State :=
    grantFirst h serial ((if pref < 255 ∧ !(s.half h).bom.lost.contains serial then [pref] else []) ++ List.range 255) s
  match (List.range 510).find? fun n => nodeSerial s h n == serial && (nodeState s h n).1 == 2 with
  | none =>
    if (List.range 510).any fun n => nodeSerial s h n == serial && (nodeState s h n).1 == 1 then (none, s)
    else
      match fresh s with
      | (none, s) => (none, s.incFld h Reg.BOM_STAT_REFUSED)
      | r => r
  | some n =>
    match grantDevice s h (n / 2) serial with
    | (true, s) => (some (n / 2), s)
    | (false, s) =>
      match fresh s with
      | (none, s) => (none, s.incFld h Reg.BOM_STAT_REFUSED)
      | r => r

/-- A new generation of the fabric, in the joined halves of the device (R336). -/
def setFgen (s : State) (g : Nat) : State :=
  [HalfId.east, .west].foldl (fun s x => if s.fld x Reg.BOM_ID_CSTATE = 2 then s.setFld x Reg.BOM_ID_FGEN (g % 65536) else s) s

/-- The root answers a device that asks to join: the grant, then the table to every member. A device of a lower serial is the root from
then on, in a new generation (R336); numbers that retired are told of in any case (R337). -/
def admitDevice (s : State) (h : HalfId) (serial : Word) (pref : Nat) : State :=
  match grantNumber s h serial pref with
  | (none, t) => if nodeTable t h = nodeTable s h then t else publish t h true
  | (some d, s) =>
    let s := updBom s h fun b => { b with lost := b.lost.filter (· != serial) }
    let e (n : Nat) : BitVec 4 := BitVec.ofNat 4 (nodeState s h n).2
    let lower := decide (serial.toNat < (deviceSerial s).toNat)
    let root := if lower then 2 * d else ownNode s h
    let s := if lower then setFgen s (s.fld h Reg.BOM_ID_FGEN + 1) else s
    let fgen := s.fld h Reg.BOM_ID_FGEN
    let s := if serial = deviceSerial s then joinDevice s d ((e (2 * d)).toNat, (e (2 * d + 1)).toNat) root fgen true
      else sendCruise s h 511 ((.grant (BitVec.ofNat 8 d) (e (2 * d)) (e (2 * d + 1)) (BitVec.ofNat 9 root) (BitVec.ofNat 16 fgen)))
    publishAs s h root true

/-- The root device forms the fabric from reset (R337): every number is ABSENT, the generation advances, and it takes a number
itself; the half whose Warden holds the latch has the root's duties. -/
def formFabric (s : State) (h : HalfId) : State :=
  let s := clearTable (clearTable s h) h.other
  let pref := s.fld h Reg.BOM_CFG_PREF
  let d := if pref < 255 then pref else 0
  let s := (grantDevice s h d (deviceSerial s)).2
  restartCounts (joinDevice s d (1, 1) (2 * d + h.num) ((s.fld h Reg.BOM_ID_FGEN + 1) % 65536) true) h

/-- The set of this device has lost its root (R342): with no route to it from either half, the device of the lowest serial among
those that it still reaches is the new root. Where that is this device, its half with the latch starts a new generation and
declares dead the nodes it has no route to. -/
def electRoot (s : State) (h : HalfId) : State :=
  let root := s.fld h Reg.BOM_ID_ROOT
  let reach (n : Nat) : Bool := !Config.cutOff s.elapsed n &&
    [HalfId.east, .west].any fun x => s.fld x Reg.BOM_ID_CSTATE == 2 && (routeTo s x n).isSome
  if s.fld h Reg.BOM_ID_CSTATE ≠ 2 ∨ root / 2 = ownNode s h / 2 ∨ reach root then s else
  match s.latch with
  | none => s
  | some r =>
    if s.fld r Reg.BOM_ID_CSTATE ≠ 2 then s else
    let others := (nodeTable s r).filter fun e => e.state == 1 && e.node.toNat / 2 != ownNode s r / 2
    if others.any fun e => reach e.node.toNat && decide (e.serial.toNat < (deviceSerial s).toNat) then s
    else
      let s := setFgen s (s.fld r Reg.BOM_ID_FGEN + 1)
      let s := (others.filter fun e => !reach e.node.toNat).foldl (fun s e =>
        setNode s r e.node.toNat 2 e.epoch.toNat e.floor.toNat e.serial) s
      publish (restartCounts s r) r true

/-- After a link went down the root computes its routes again (R344), or a set that lost its root elects one (R342). -/
def afterLinkDown (s : State) (h : HalfId) : State :=
  match s.latch with
  | some r => if isRoot s r then publish s r false else electRoot s h
  | none => s

-- Cruise messages

/-- Whether a half may form the fabric (R337): it runs Cruise, and no joined device is reachable, which would have given it a number or
excluded it. -/
def mayForm (s : State) (h : HalfId) : Bool :=
  s.flag h Reg.BOM_CTRL_EN && (s.fld h Reg.BOM_ID_CSTATE == 0 || (s.fld h Reg.BOM_ID_CSTATE == 1 && s.fld h Reg.BOM_ID_NODE == 511))

/-- HELLO of a device (R336, R338): the root admits it; another member passes it on; a device of the lower serial that has not
joined either forms the fabric first, and so does one that hears its own other half, alone in its set. -/
def takeHello (s : State) (h : HalfId) (serial : Word) (pref : Nat) : State :=
  match s.latch with
  | none => s
  | some r =>
    if isRoot s r then admitDevice s r serial pref
    else if mayForm s r ∧ deviceSerial s = serial then publish (formFabric s r) r true
    else if s.fld h Reg.BOM_ID_CSTATE = 2 then
      sendCruise s h (s.fld h Reg.BOM_ID_ROOT) (.hello serial (BitVec.ofNat 8 pref))
    else if mayForm s r ∧ (deviceSerial s).toNat < serial.toNat then
      admitDevice (formFabric s r) r serial pref
    else s

/-- Whether a generation is older than the half's own (R336). -/
def fgenOlder (s : State) (h : HalfId) (g : Nat) : Bool := 32768 ≤ (g + 65536 - s.fld h Reg.BOM_ID_FGEN) % 65536

/-- Whether a half has a number: it is joined, or on its way there (R338). -/
def numbered (s : State) (h : HalfId) : Bool :=
  s.fld h Reg.BOM_ID_CSTATE == 2 || (s.fld h Reg.BOM_ID_CSTATE == 1 && s.fld h Reg.BOM_ID_NODE != 511)

/-- What a table brings about at the half that took it: a half on its way to JOINED goes on (R338), and one whose device is the root by it
takes up the root's duties (R336). -/
def afterTable (s : State) (h : HalfId) (was : Nat) : State :=
  let s := if s.fld h Reg.BOM_ID_CSTATE = 1 then joinDone (sendKeyx s h false) h else s
  match s.latch with
  | some r => if was / 2 ≠ ownNode s h / 2 ∧ isRoot s r then publish (restartCounts s r) r false else s
  | none => s

/-- The node table of the root (R337). -/
def takeTable (s : State) (h : HalfId) (root fgen : Nat) (es : List NodeEntry) : State :=
  if !numbered s h then s else
  let was := s.fld h Reg.BOM_ID_ROOT
  let key (e : NodeEntry) : Nat × Word × Nat × Nat := (e.node.toNat, e.serial, e.state.toNat, e.epoch.toNat)
  let old := (nodeTable s h).map key
  let s := (s.setFld h Reg.BOM_ID_FGEN fgen).setFld h Reg.BOM_ID_ROOT root
  let s := clearTable s h
  let s := es.foldl (fun s e =>
    let n := e.node.toNat
    if 510 ≤ n then s else
    let s := setNode s h n e.state.toNat e.epoch.toNat e.floor.toNat e.serial
    (s.setFld h (Reg.BOM_NODE_ST_PRI.at (16 * n)) e.pri.toNat).setFld h (Reg.BOM_NODE_ST_ALT.at (16 * n)) e.alt.toNat) s
  let s := failLost s h
  let s := if (nodeTable s h).map key = old then s else raiseAttn s h 4
  afterTable s h (if s.fld h Reg.BOM_ID_CSTATE = 1 then 1022 else was)

/-- EXCLUDED (R339): the half stops all fabric traffic but Cruise and asks to join again. -/
def becomeExcluded (s : State) (h : HalfId) : State :=
  if s.fld h Reg.BOM_ID_CSTATE ≠ 2 then s else
  let s := s.setFld h Reg.BOM_ID_CSTATE 3
  let os := (s.half h).bom.outstanding
  let s := os.foldl (fun s o => takeResponse s h o { answerTo s h o.pkt 6 0x20 [] with src := o.pkt.dst }) s
  sendHello s h 511

/-- One entry of the other set's table taken at a merge (R342, R343): the higher floor stands, a number that is free here is held
for its device as DEAD or RETIRED, and a member whose number another device has here loses it. -/
def mergeEntry (r : HalfId) (s : State) (e : NodeEntry) : State :=
  let n := e.node.toNat
  if 510 ≤ n then s else
  let here := nodeState s r n
  let f := max (nodeFloor s r n) (max e.floor.toNat e.epoch.toNat)
  if here.1 = 0 then
    if e.state.toNat = 0 then setNode s r n 0 here.2 f (nodeSerial s r n)
    else setNode s r n (if e.state.toNat = 3 then 3 else 2) e.epoch.toNat f e.serial
  else
    let s := if e.state.toNat = 1 ∧ nodeSerial s r n ≠ e.serial then
      updBom s r fun b => { b with lost := b.lost.filter (· != e.serial) ++ [e.serial] } else s
    setNode s r n here.1 here.2 f (nodeSerial s r n)

/-- Two sets meet (R342, R343): the root of the lower serial keeps its table, takes the other's floors and numbers, begins a new
generation, and excludes the other's members; the other root takes the generation, so that its answer is not older, and sends its
table. -/
def takeMerge (s : State) (h : HalfId) (src : Nat) (serial : Word) (fgen : Nat) (es : List NodeEntry) : State :=
  match s.latch with
  | none => s
  | some r =>
    if isRoot s r then
      if (deviceSerial s).toNat < serial.toNat then
        let s := setFgen s (fgen + 1)
        let s := es.foldl (mergeEntry r) s
        let s := (es.filter (·.state == 1)).foldl (fun s e => sendCruise s r e.node.toNat .excluded) s
        publish s r false
      else if serial = deviceSerial s then s
      else sendHello (setFgen s fgen) r src
    else if s.fld h Reg.BOM_ID_CSTATE = 2 ∧ nodeSerial s h (s.fld h Reg.BOM_ID_ROOT) ≠ serial then
      sendCruise s h (s.fld h Reg.BOM_ID_ROOT) (.merge serial (BitVec.ofNat 16 fgen) es)
    else s

/-- The generation that a message carries (R336). -/
def cruFgen : CruMsg → Option Nat
  | .grant _ _ _ _ g | .table _ g _ | .merge _ g _ => some g.toNat
  | .hello _ _ | .excluded => none

/-- CRU: a Cruise message; one of an older generation is discarded (R336), and so is a grant of no device number (R32). -/
def execCru (h : HalfId) (src : BitVec 9) (msg : CruMsg) (s : State) : Host.Outcome State Fault Refusal :=
  if !linksRun s h ∨ ((cruFgen msg).map (fgenOlder s h ·)).getD false then .next s else
  match msg with
  | .hello serial pref => .next (takeHello s h serial pref.toNat)
  | .grant d e w root fgen =>
    if s.fld h Reg.BOM_ID_CSTATE = 2 ∨ d.toNat = 255 then .next s
    else .next (joinDevice s d.toNat (e.toNat, w.toNat) root.toNat fgen.toNat false)
  | .table root fgen es => .next (takeTable s h root.toNat fgen.toNat es)
  | .merge serial fgen es => .next (takeMerge s h src.toNat serial fgen.toNat es)
  | .excluded => .next (becomeExcluded s h)

/-- EXCLUDED. -/
def execExcluded (h : HalfId) (s : State) : Host.Outcome State Fault Refusal :=
  .next (if linksRun s h then becomeExcluded s h else s)

/-- NODE_DEAD: 25 ms without an HB from a node (R339). -/
def execNodeDead (h : HalfId) (node : BitVec 9) (s : State) : Host.Outcome State Fault Refusal :=
  if linksRun s h ∧ isRoot s h ∧ SMap.get (fun _ => 0) (s.half h).bom.lastHb node.toNat + 25000000 ≤ s.elapsed then
    .next (declareDead s h node.toNat)
  else .next s

/-- LINK_DOWN: 16 replays without acknowledgement, or 2 ms without a good flit. -/
def execLinkDown (h : HalfId) (l : Fin 4) (cause : LinkDownCause) (s : State) : Host.Outcome State Fault Refusal :=
  let k := linkOf s h l
  let due := match cause with
    | .replays => decide (16 ≤ k.replays)
    | .silence => decide (k.lastGood + 2000000 ≤ s.elapsed)
  if !k.up ∨ !due then .next s else
  .next (afterLinkDown (takeLinkDown s h l) h)

-- pair keys and mirror updates (R350, R351)

/-- KEYX: the two Kilns of a buddy pair agree fresh keys, one for each direction, with counters from 0, from the message that came and the
one sent: in answer to the first of the two (`info` 0), or before. A half that waited for them is JOINED then. -/
def execKeyx (h : HalfId) (s : State) : Host.Outcome State Fault Refusal :=
  match takePacket s h 11 with
  | none => .next s
  | some (p, s) =>
    match dropDead s h p with
    | some s => .next s
    | none =>
      let b := s.fld h Reg.BOM_CFG_BUDDY
      if !s.flag h Reg.BOM_CFG_BV ∨ p.src.toNat ≠ b ∨ !Config.keyxValid p.payload then .next s else
      let s := if p.info = 0 then sendKeyx s h true else s
      let own := ownNode s h
      let m := (s.half h).bom.keyx
      if m.isEmpty then .next s else
      let s := updKln s h fun k => { k with
        pairTx := some (Config.pairKey own b m p.payload, 0), pairRx := some (Config.pairKey b own p.payload m, 0) }
      .next (joinDone (updBom s h fun x => { x with buddyTrip := s.elapsed, buddyGone := false }) h)

/-- Address of the mirror slot of a buddy session. -/
def mirrorSlot (s : State) (h : HalfId) (n : Nat) : Nat := s.fld h Reg.BOM_RBASE_BASE * 0x4000000 + 1024 * n

/-- One carried point (R351): bytes 0x22–0xFF go into this half's record of the same number, if it is set up for the session. -/
def applyPoint (h : HalfId) (n : Nat) (s : State) (b : List Byte) : State :=
  let p := fieldLE b 0 4
  match fetchPoint s h p with
  | (some r, s) =>
    if spV r ∧ spSession r = n then putPoint s h p (r.take 0x22 ++ sliceB b 4 0xDE) else s.incFld h Reg.SCL_CNT1_NOPOINT
  | (none, s) => s.incFld h Reg.SCL_CNT1_NOPOINT

/-- Writes an update that authenticated: the slot with its key record sealed by this half's Kiln, then the points; MACK
answers. -/
def applyMirror (s : State) (h : HalfId) (p : Packet) (b : List Byte) : State :=
  let n := p.addr.toNat % 65536
  let c := (s.half h).kln.sealCount
  let s := updKln s h fun k => { k with sealCount := (c + 1) % 2 ^ 64 }
  let s := updBom s h fun x => { x with mirrorSeal := SMap.set (fun _ => 0) x.mirrorSeal n (c + 1) }
  let slot := b.take 0x10 ++ leBytes 8 s.timebase.toNat ++ sliceB b 0x18 0x2E8 ++
    evictSeal s h n c (sliceB b 0x300 0x100)
  let s := unitWrite s h mBoom (mirrorSlot s h n) slot
  let s := (List.range (fieldLE b 4 4)).foldl (fun s i => applyPoint h n s (sliceB b (0x400 + 226 * i) 226)) s
  (sendPacket (trimStores s h) h { newPacket s h p.src.toNat 10 0 [] with addr := p.addr, seq := p.seq }).2

/-- MIRR: a mirror update is authenticated and applied; one that fails is dropped and counted. In Boot and Safe, which have no session traffic,
it is dropped (Table 1.6). -/
def mirrRequest (h : HalfId) (s : State) : State :=
  if boomAsleep s h then s else
  match takePacket s h 9 with
  | none => s
  | some (p, s) =>
    match (if noSessions s h then some s else screen s h p) with
    | some s => s
    | none =>
      match (s.half h).kln.pairRx with
      | none => s.incFld h Reg.BOM_CNT2_MIRR_AUTH
      | some (key, ctr) =>
        match aeadOpen 0x1302 key (mirrHeader p) (beBytes 12 ctr) p.payload with
        | none => s.incFld h Reg.BOM_CNT2_MIRR_AUTH
        | some b => applyMirror (updKln s h fun k => { k with pairRx := some (key, ctr + 1) }) h p b

/-- MIRR. -/
def execMirr (h : HalfId) (s : State) : Host.Outcome State Fault Refusal := .next (unitCmd h (mirrRequest h) s)

/-- MACK: the frames that an acknowledged update covers leave (R351); those of a silenced half or of one in Safe stay (R230, R352). -/
def mackRequest (h : HalfId) (s : State) : State :=
  match takePacket s h 10 with
  | none => s
  | some (p, s) =>
    match dropDead s h p with
    | some s => s
    | none =>
      if (s.half h).bom.silenced ∨ s.inMode h .safe then s else
      let mine (a : Nat × Nat × TxFrame) : Bool := a.2.1 ≤ p.seq.toNat &&
        (match mirrorBinding s h a.1 with | some b => fieldLE b 2 2 == p.addr.toNat % 65536 | none => false)
      let out := (s.half h).bom.awaiting.filter mine
      let s := updBom s h fun b => { b with awaiting := b.awaiting.filter fun a => !mine a }
      out.foldl (fun s a => ethSend s h a.2.2) s

/-- MACK. -/
def execMack (h : HalfId) (s : State) : Host.Outcome State Fault Refusal := .next (unitCmd h (mackRequest h) s)

-- heartbeats, silence and adoption (R340, R352)

/-- HEARTBEAT_SEND: the millisecond HB to the root, which sends itself none, and to the buddy. A set that has lost its root elects one
first (R342). -/
def execHeartbeatSend (h : HalfId) (s : State) : Host.Outcome State Fault Refusal :=
  let s := electRoot s h
  if s.fld h Reg.BOM_ID_CSTATE ≠ 2 then .next s else
  let root := s.fld h Reg.BOM_ID_ROOT
  let s := if root = ownNode s h then s else sendHb s h root false 0
  .next (if s.flag h Reg.BOM_CFG_BV then sendHb s h (s.fld h Reg.BOM_CFG_BUDDY) true (b2n (s.half h).bom.adopted) else s)

/-- Sessions of a half that are mirrored, in ascending order. -/
def mirroredSessions (s : State) (h : HalfId) : List Nat :=
  ((s.half h).flm.sessions.map (·.1)).filter fun n => mirrored s h n

/-- A surrendering node releases each adopted session without sending: those that its buddy has had an update of. -/
def surrender (s : State) (h : HalfId) : State :=
  let s := ((mirroredSessions s h).filter fun n => mirrorSeqOf s h n != 0).foldl (fun s n =>
    let s := dropWaiting s h n
    let s := setKeys (setSession s h n (sessionDefault n)) h n (keysDefault n)
    let s := setParseCtx s h n (parseDefault n)
    updBom s h fun b => { b with awaiting := b.awaiting.filter (·.1 != n) }) s
  freeRetired (updBom s h fun b => { b with silenced := false }) h

/-- A silenced node resumes: frames that waited for an acknowledgement wait for one of a new update. -/
def resumeMirrored (s : State) (h : HalfId) : State :=
  let s := updBom s h fun b => { b with silenced := false }
  let ns := ((s.half h).bom.awaiting.map (·.1)).eraseDups
  ns.foldl (fun s n => mirrorUpdate s h n) s

/-- A round trip completes at a half that has adopted: its HBs carry ADOPTED (R352) until one that echoed the other node, and so
completed that node's round trip, is itself echoed (log entry 93). -/
def buddyTold (s : State) (h : HalfId) (echo : Nat) : State :=
  let b := (s.half h).bom
  if !b.adopted then s else
  match b.adoptSeen with
  | none => updBom s h fun b => { b with adoptSeen := some (SMap.get (fun _ => 0) b.hbSeq (s.fld h Reg.BOM_CFG_BUDDY)) }
  | some m =>
    let d := (echo + 2 ^ 32 - m) % 2 ^ 32
    if 0 < d ∧ d < 2 ^ 31 then updBom s h fun b => { b with adopted := false, adoptSeen := none } else s

/-- The buddy's side of an HB. -/
def buddyHb (s : State) (h : HalfId) (p : Packet) : State :=
  let seq := fieldLE p.payload 0 4
  let echo := fieldLE p.payload 4 4
  let flags := fieldLE p.payload 10 1
  let s := updBom s h fun b => { b with buddySeen := seq }
  let s := if flags.testBit 1 then updBom s h fun b => { b with buddyGone := true } else s
  if echo = (s.half h).bom.buddyEcho ∨ echo = 0 then s else
  let s := updBom s h fun b => { b with buddyEcho := echo, buddyTrip := s.elapsed }
  let s := buddyTold s h echo
  if !(s.half h).bom.silenced then s
  else if flags.testBit 0 then surrender s h else resumeMirrored s h

/-- An HB at either half of the root's device: it restarts the node's count where it carries the current FGEN, announces Safe
or Reset, or reports an adoption, of the sessions of the node's buddy (R339, R340; log entry 146). -/
def rootHb (s : State) (h : HalfId) (n fgen flags : Nat) : State :=
  match s.latch with
  | none => s
  | some r =>
    if isRoot s r ∧ fgen = s.fld h Reg.BOM_ID_FGEN then
      let s := updBom s r fun b => { b with lastHb := SMap.set (fun _ => 0) b.lastHb n s.elapsed }
      let s := if flags.testBit 0 then declareDead s r (Config.buddyOf n) else s
      if flags.testBit 1 then declareDead s r n else s
    else s

/-- HB: restarts the root's count, announces Safe, and completes a buddy's round trip. -/
def hbRequest (h : HalfId) (s : State) : State :=
  match takePacket s h 13 with
  | none => s
  | some (p, s) =>
    let n := p.src.toNat
    match dropDead s h p with
    | some s => s
    | none =>
      if fgenOlder s h (fieldLE p.payload 8 2) then s else
      let s := rootHb s h n (fieldLE p.payload 8 2) (fieldLE p.payload 10 1)
      if s.flag h Reg.BOM_CFG_BV ∧ n = s.fld h Reg.BOM_CFG_BUDDY then buddyHb s h p else s

/-- HB. -/
def execHb (h : HalfId) (s : State) : Host.Outcome State Fault Refusal := .next (unitCmd h (hbRequest h) s)

/-- SILENCE: 20 ms without a completed round trip (R352), at a half that is or was a member. -/
def execSilence (h : HalfId) (s : State) : Host.Outcome State Fault Refusal :=
  let b := (s.half h).bom
  if s.flag h Reg.BOM_CFG_BV ∧ 2 ≤ s.fld h Reg.BOM_ID_CSTATE ∧ !b.silenced ∧ b.buddyTrip + 20000000 ≤ s.elapsed then
    .next (updBom s h fun x => { x with silenced := true })
  else .next s

/-- Closes the open period slots of an adopted session's points with TINFO.CUT. -/
def cutSlots (h : HalfId) (n : Nat) (s : State) (p : Nat) : State :=
  match fetchPoint s h p with
  | (none, s) => s
  | (some r, s) =>
    let c := pclass s h (spClass r)
    if !c.v then s else
    let x : SRun := ⟨s, r, []⟩
    let due := openSlots r (c.period s.timebase.toNat)
    let x := (due.foldl (fun (x : SRun) o => x.close h p c o.1 o.2 true) x).rereadClass h (spClass r) !due.isEmpty
    putOuts (putPoint x.s h p x.r) h n (session x.s h n).path none x.out

/-- Installs the session of one mirror slot (Table 16.9 step 3), if the slot holds one of the buddy and its number is FREE. -/
def adoptSession (h : HalfId) (s : State) (n : Nat) : State :=
  let r := unitRead s h mBoom (mirrorSlot s h n) 1024
  let b := r.1.bytes
  let s := r.2
  if r.1.refused ∨ r.1.poison ∨ fieldLE b 8 8 = 0 ∨ fieldLE b 0 4 % 512 ≠ s.fld h Reg.BOM_CFG_BUDDY ∨
      (session s h n).state ≠ .free then s else
  let keys := match SMap.get (fun _ => 0) (s.half h).bom.mirrorSeal n, (s.half h).kln.evictKey with
    | c + 1, some k => (aeadOpen 0x1302 k [] (evictNonce n c) (sliceB b 0x300 0x100)).map keysOf
    | _, _ => none
  let failed : SessKeys := { keysDefault n with rxFailed := true, txFailed := true }
  let s := setKeys s h n (keys.getD failed)
  let s := if keys.isNone then sessionStatus s h mKiln n (secWord 0x06) else s
  let x := sessionOf (sliceB b 0x80 0x200)
  let room := roomForHot s h
  let s := room.getD s
  let s := setParseCtx (setSession s h n { x with state := .opened, hot := true, sealCtr := none }) h n (parseOf (sliceB b 0x280 0x80))
  let s := if room.isSome then s else putCold s h n
  let s := unitWrite s h mBoom (s.fld h Reg.BOM_ADBASE_BASE * 0x100000 + 16 * n) (leBytes 8 s.timebase.toNat ++ b.take 4 ++ zerosB 4)
  let s := (sessionPoints s h n).foldl (cutSlots h n) s
  (freeRetired s h).incFld h Reg.BOM_STAT_ADOPTED

/-- Mirror slots that hold an update: those with a nonzero byte in memory. -/
def usedSlots (s : State) (h : HalfId) : NatSet :=
  let base := mirrorSlot s h 0
  ((s.half h).mem.cells.filterMap fun c =>
    if base ≤ c.1 ∧ c.1 < base + 0x4000000 then some ((c.1 - base) / 1024) else none).foldl NatSet.add []

/-- The steps of Table 16.9, and the report to the root. -/
def adoptAll (h : HalfId) (s : State) : State :=
  let s := fmnEvent s h (s.fld h Reg.BOM_CFG_ATHREAD) 5
  let s := trimStores ((usedSlots s h).foldl (adoptSession h) s) h
  let s := updBom s h fun b => { b with adopted := true, adoptSeen := none }
  let root := s.fld h Reg.BOM_ID_ROOT
  if isRoot s h then declareDead s h (s.fld h Reg.BOM_CFG_BUDDY)
  else if root = ownNode s h then s
  else sendHb s h root false 1

/-- ADOPTION: 25 ms without a completed round trip, or at once where the buddy announced Safe or Reset (R352). -/
def execAdoption (h : HalfId) (s : State) : Host.Outcome State Fault Refusal :=
  let b := (s.half h).bom
  if s.flag h Reg.BOM_CFG_BV ∧ !b.adopted ∧ s.fld h Reg.BOM_ID_CSTATE = 2 ∧ (b.buddyTrip + 25000000 ≤ s.elapsed ∨ b.buddyGone) then
    .next (unitCmd h (adoptAll h) s)
  else .next s

end Machine

end Sys2Proof
end

