-- ==== Sys2Proof/Machine/RegCmd.lean ====
section
/-! DEFINITION. Commands that are accesses of a master to a set-up register, each checked by the boundary table (R187, R189)
and carried out by the register's rules; and the events of the Foreman's timers, of groups and of paced copies. -/

namespace Sys2Proof.Machine

/-- Whether a master can make accesses: it is one of Table 9.1, its half is not in Reset, and a Warden is not held (R182, R371). -/
def masterRuns (s : State) (h : HalfId) (m : Nat) : Bool :=
  decide (m < 0x4F) && !s.inMode h .reset && !(m == 0x44 && (s.half h).wardenHeld)

/-- The core that a core's master identity stands for: the first of its grove that runs at its level. The identity alone does not
tell the eight cores of a grove apart (DESIGN CHOICE, log entry 109). -/
def coreOfMid (s : State) (h : HalfId) (m : Nat) : Option CoreId :=
  if m < 51 then
    ((List.finRange 8).map fun c => (⟨h, Fin.ofNat 17 (m / 3), c⟩ : CoreId)).find? fun k =>
      (s.core k).run == .running && levelRank (s.core k).level == m % 3
  else none

/-- A refused set-up access is counted and logged; one of a size that R8 does not allow sets ERR_WR; a core takes boundary fault
with the physical address in its cause (R8, R28, R189, log entry 109). -/
def setupFault (s : State) (h : HalfId) (m addr detail : Nat) (overlap : Bool) : State :=
  let s := unitRefused s h m addr detail overlap
  match coreOfMid s h m with
  | some k => takeTrap k 7 (memCause 0 detail addr) (s.core k).pcc s
  | none => s

/-- What a master's set-up access does where the boundary table does not let it through (R8, R28, R189, R191, R192). -/
def setupRefused (s : State) (h : HalfId) (m addr : Nat) (v : Verdict) : State :=
  match v with
  | .drop => noteFenced s h m addr
  | .hold g => noteHeld s h g m addr none
  | .refuse d o => setupFault s h m addr d o
  | .allow => s

/-- Whether an access is one to set-up space, or to an address that is nothing (R28). -/
def setupOrHole : Place → Bool
  | .setup _ _ | .hole => true
  | _ => false

/-- Whether a master reaches a place: the PCIe master has block 0x05 alone (R306). -/
def masterReaches (m : Nat) (p : Place) : Bool := m != 0x4B || (match p with | .setup blk _ => blk == 5 | _ => false)

/-- A write that its disabled group holds is noted, and joins the writes that are checked again at idle ticks (R191, log
entry 97). -/
def postHeld (s : State) (h : HalfId) (m addr : Nat) (bs : List Byte) (v : Verdict) : State :=
  match v with
  | .hold _ => s.upd h fun x => { x with bnd := { x.bnd with posted := x.bnd.posted ++ [(m, addr, bs)] } }
  | _ => s

/-- A master's write of a set-up register at a physical address; another address is no set-up write and changes nothing. -/
def setupWrite (s : State) (h : HalfId) (m addr : Nat) (bs : List Byte) : State :=
  let p := placeOf s h addr
  if !masterRuns s h m ∨ !setupOrHole p ∨ !masterReaches m p then s else
  match check s h m .write addr bs.length, p with
  | .allow, .setup blk off => busWrite s h m blk off bs none
  | v, _ => postHeld (setupRefused s h m addr v) h m addr bs v

/-- A master's read of a set-up register; what it gets is put among the outputs. While a disabled group holds it the command is sent
again (log entry 16). -/
def setupRead (s : State) (h : HalfId) (m addr n : Nat) : State :=
  let p := placeOf s h addr
  if !masterRuns s h m ∨ !setupOrHole p ∨ !masterReaches m p then s else
  match check s h m .read addr n, p with
  | .allow, .setup blk off =>
    let r := busRead s h m blk off n none
    r.2.emit (.readData (BitVec.ofNat 64 (leNat r.1)))
  | .hold g, _ => noteHeld s h g m addr none
  | .drop, _ => noteFenced s h m addr
  | v, _ => (setupRefused s h m addr v).emit (.readData 0)

/-- Address of a register (R7). -/
def regAddr (blk off : Nat) : Nat := 0x80000000 + blk * 0x10000 + off

/-- An 8-byte write of a register. -/
def putReg (h : HalfId) (m : BitVec 7) (blk off v : Nat) (s : State) : Host.Outcome State Fault Refusal :=
  .next (setupWrite s h m.toNat (regAddr blk off) (leBytes 8 v))

/-- BAR0 as the PCIe master reaches it (Table 15.2): offset 0 stands at the address of block 0x05 (log entry 152). Outside that block and the
MSI-X table a write is dropped (R306). -/
def bar0Write (s : State) (h : HalfId) (off : Nat) (bs : List Byte) : State :=
  if off < 0x10000 then setupWrite s h 0x4B (regAddr 5 off) bs
  else if 0x100000 ≤ off ∧ off < 0x104000 ∧ masterRuns s h 0x4B then msixWrite s h (off - 0x100000) bs
  else s

/-- REGISTER_WRITE. -/
def execRegisterWrite (h : HalfId) (m : BitVec 7) (addr : BitVec 46) (size : Nat) (v : Word) (s : State) :
    Host.Outcome State Fault Refusal :=
  .next (if m = 0x4B then (if regAddr 5 0 ≤ addr.toNat then bar0Write s h (addr.toNat - regAddr 5 0) (leBytes size v.toNat) else s)
    else setupWrite s h m.toNat addr.toNat (leBytes size v.toNat))

-- the boundary table (R185, R186, R191, R192)

/-- BOUNDARY_ENTRY_WRITE: CTL, RD or WR of an entry. -/
def execBoundaryEntryWrite (h : HalfId) (m : BitVec 7) (n : Fin 256) (word : Fin 3) (v : Word) (s : State) :
    Host.Outcome State Fault Refusal := putReg h m 3 (0x1000 + 0x20 * n.val + 8 * word.val) v.toNat s

/-- GROUP_DISABLE: BND_GDIS with one bit more. -/
def execGroupDisable (h : HalfId) (m : BitVec 7) (g : Fin 16) (s : State) : Host.Outcome State Fault Refusal :=
  putReg h m 3 0x18 (s.fld h Reg.BND_GDIS_GDIS ||| 2 ^ g.val) s

/-- GROUP_ENABLE: BND_GDIS with one bit less. -/
def execGroupEnable (h : HalfId) (m : BitVec 7) (g : Fin 16) (s : State) : Host.Outcome State Fault Refusal :=
  let d := s.fld h Reg.BND_GDIS_GDIS
  putReg h m 3 0x18 (if d.testBit g.val then d - 2 ^ g.val else d) s

/-- Whether an access that the table has let through has still to be performed: a write of a unit to set-up space, or a committed effect
(R207; log entry 97). Which entries decided it is not kept, so it counts for every group (log entry 153). -/
def admittedWaits (s : State) (h : HalfId) : Bool :=
  (s.half h).bnd.posted.any (fun p => match check s h p.1 .write p.2.1 p.2.2.length with | .hold _ => false | _ => true) ||
    (s.half h).cores.any (fun p => match p.2.handed with
      | [] => false
      | e :: _ => e.kind != .remote && (match check s h e.mid .write e.phys e.bytes.length with | .hold _ => false | _ => true))

/-- GROUP_DRAINED: DRAINED is 0 from the disabling of the group on until the accesses admitted before have been performed, whatever
BND_GDIS holds by then (R191). -/
def execGroupDrained (h : HalfId) (g : Fin 16) (s : State) : Host.Outcome State Fault Refusal :=
  .next (if admittedWaits s h then s else s.setBit h Reg.BND_GSTAT_DRAINED g.val)

/-- A held access past its limit: it is refused when it is next decided. -/
def expireHeld (h : HalfId) (s : State) (x : Held) : State :=
  let s := s.upd h fun y => { y with bnd := { y.bnd with
    held := y.bnd.held.map fun z => if z = x then { z with expired := true } else z } }
  let s := s.incFld h Reg.BND_STAT_HOLDTO
  let s := if (s.half h).bnd.held.any (fun z => z.group == x.group && !z.expired) then s
           else s.clearBit h Reg.BND_GSTAT_HELD x.group
  retryHeld h s x

/-- BOUNDARY_HOLD_TIMEOUT: every access held for HOLD_US. -/
def execBoundaryHoldTimeout (h : HalfId) (s : State) : Host.Outcome State Fault Refusal :=
  let limit := s.fld h Reg.BND_HOLDT_HOLD_US * 1000
  .next (((s.half h).bnd.held.filter fun x => !x.expired && x.since + limit ≤ s.elapsed).foldl (expireHeld h) s)

/-- BND_FENCE. -/
def execBndFence (h : HalfId) (m : BitVec 7) (mask : BitVec 17) (s : State) : Host.Outcome State Fault Refusal :=
  putReg h m 3 0x28 mask.toNat s

-- the Foreman (R197, R200, R213)

/-- START. -/
def execStart (h : HalfId) (m : BitVec 7) (thread : BitVec 17) (s : State) : Host.Outcome State Fault Refusal :=
  putReg h m 4 0x20 (1 * 2 ^ 61 + thread.toNat) s

/-- ABORT_THREAD. -/
def execAbortThread (h : HalfId) (m : BitVec 7) (thread : BitVec 17) (s : State) : Host.Outcome State Fault Refusal :=
  putReg h m 4 0x20 (2 * 2 ^ 61 + thread.toNat) s

/-- ABORT_COMPARTMENT. -/
def execAbortCompartment (h : HalfId) (m : BitVec 7) (comp : BitVec 17) (s : State) : Host.Outcome State Fault Refusal :=
  putReg h m 4 0x20 (3 * 2 ^ 61 + comp.toNat) s

/-- FREE. -/
def execFree (h : HalfId) (m : BitVec 7) (thread : BitVec 17) (s : State) : Host.Outcome State Fault Refusal :=
  putReg h m 4 0x20 (4 * 2 ^ 61 + thread.toNat) s

/-- SIGNAL. -/
def execSignal (h : HalfId) (m : BitVec 7) (thread : BitVec 17) (s : State) : Host.Outcome State Fault Refusal :=
  putReg h m 4 0x18 thread.toNat s

/-- TIMER: the first tick of the timer wheel at or after the expiry has come (R200, R240). -/
def execTimer (h : HalfId) (thread : BitVec 17) (s : State) : Host.Outcome State Fault Refusal :=
  let t := thread.toNat
  let x := s.thread h t
  match x.timer with
  | some e =>
    if e ≤ s.elapsed / 1000 * 1000 then
      .next (fmnEvent (s.upd h fun y => { y with fmn := { y.fmn with
        threads := SMap.set threadDefault y.fmn.threads t { x with timer := none } } }) h t 3)
    else .next s
  | none => .next s

-- paced groves (R144)

/-- PACED_ENABLE: a write of GRV_MODE. -/
def execPacedEnable (h : HalfId) (m : BitVec 7) (g : Fin 17) (v : Word) (s : State) : Host.Outcome State Fault Refusal :=
  putReg h m (0x20 + g.val) 0 v.toNat s

/-- Copies a grove's code area from the code store of its own die; a line that is uncorrectable there comes from the other
(R14). -/
def copyCode (s : State) (h : HalfId) (g : Nat) : State :=
  let bad := ((s.half h).codeErrs.map (·.1)).filter fun l => inCopiedRange s h (64 * l) g
  let here := (s.half h).code.filter fun p => inCopiedRange s h p.1 g && codeSource s h (p.1 / 64) == h
  let there := bad.foldl (fun m l => if codeSource s h l == h then m else writeCells m (64 * l) (readCells (s.half h.other).code (64 * l) 64)) here
  (bad.foldl (fun s l => (codeLineBoth s h l).2) s).upd h fun x => { x with paceCode := SMap.set (fun _ => []) x.paceCode g there }

/-- PACED_COPY_COMPLETE. -/
def execPacedCopyComplete (h : HalfId) (g : Fin 17) (s : State) : Host.Outcome State Fault Refusal :=
  .next (if s.flag h (Reg.GRV_PSTAT_LOADING.grove g.val) then
    ((copyCode s h g.val).setFld h (Reg.GRV_PSTAT_LOADING.grove g.val) 0).setFld h (Reg.GRV_PSTAT_READY.grove g.val) 1 else s)

-- ports, sessions and the timebase (R216, R236, R240, R244)

/-- ETH_MODE_WRITE. -/
def execEthModeWrite (h : HalfId) (m : BitVec 7) (v : Word) (s : State) : Host.Outcome State Fault Refusal :=
  putReg h m 7 0 v.toNat s

/-- A word of FLM_SCMD. -/
def scmdWord (op addr session : Nat) : Nat := op * 2 ^ 61 + addr * 2 ^ 16 + session

/-- OPEN. -/
def execOpenSession (h : HalfId) (m : BitVec 7) (addr : BitVec 40) (session : BitVec 16) (s : State) :
    Host.Outcome State Fault Refusal := putReg h m 6 0x40 (scmdWord 1 addr.toNat session.toNat) s

/-- CLOSE. -/
def execClose (h : HalfId) (m : BitVec 7) (session : BitVec 16) (s : State) : Host.Outcome State Fault Refusal :=
  putReg h m 6 0x40 (scmdWord 2 0 session.toNat) s

/-- ABORT. -/
def execAbort (h : HalfId) (m : BitVec 7) (session : BitVec 16) (s : State) : Host.Outcome State Fault Refusal :=
  putReg h m 6 0x40 (scmdWord 3 0 session.toNat) s

/-- PATH := 0. -/
def execPath0 (h : HalfId) (m : BitVec 7) (session : BitVec 16) (s : State) : Host.Outcome State Fault Refusal :=
  putReg h m 6 0x40 (scmdWord 4 0 session.toNat) s

/-- PATH := 1. -/
def execPath1 (h : HalfId) (m : BitVec 7) (session : BitVec 16) (s : State) : Host.Outcome State Fault Refusal :=
  putReg h m 6 0x40 (scmdWord 5 0 session.toNat) s

/-- RELEASE. -/
def execRelease (h : HalfId) (m : BitVec 7) (session : BitVec 16) (s : State) : Host.Outcome State Fault Refusal :=
  putReg h m 6 0x40 (scmdWord 6 0 session.toNat) s

/-- TMB_STEP. -/
def execTmbStep (h : HalfId) (m : BitVec 7) (v : Word) (s : State) : Host.Outcome State Fault Refusal :=
  putReg h m 0x0B 8 v.toNat s

/-- TMB_TXTS0_READ. -/
def execTmbTxts0Read (h : HalfId) (m : BitVec 7) (s : State) : Host.Outcome State Fault Refusal :=
  .next (setupRead s h m.toNat (regAddr 0x0B 0x30) 8)

-- Kiln (R253, R255)

/-- PRIMITIVE_POST: PROD alone, by a write of the register's upper half. -/
def execPrimitivePost (h : HalfId) (m : BitVec 7) (prod : BitVec 16) (s : State) : Host.Outcome State Fault Refusal :=
  .next (setupWrite s h m.toNat (regAddr 8 0x14) (leBytes 4 (prod.toNat * 2 ^ 16)))

/-- UNWRAP. -/
def execUnwrap (h : HalfId) (m : BitVec 7) (slot : BitVec 6) (addr : BitVec 46) (s : State) : Host.Outcome State Fault Refusal :=
  putReg h m 8 0x38 (1 * 2 ^ 62 + slot.toNat * 2 ^ 56 + addr.toNat * 2 ^ 6) s

/-- CLEAR. -/
def execClear (h : HalfId) (m : BitVec 7) (slot : BitVec 6) (s : State) : Host.Outcome State Fault Refusal :=
  putReg h m 8 0x38 (2 * 2 ^ 62 + slot.toNat * 2 ^ 56) s

/-- DONE. -/
def execDone (h : HalfId) (m : BitVec 7) (s : State) : Host.Outcome State Fault Refusal := putReg h m 8 0x38 (3 * 2 ^ 62) s

-- Mill and Scaler (R275, R276, R283)

/-- LOAD. -/
def execLoad (h : HalfId) (m : BitVec 7) (slot : Byte) (addr : BitVec 40) (s : State) : Host.Outcome State Fault Refusal :=
  putReg h m 9 0x18 (1 * 2 ^ 62 + slot.toNat * 2 ^ 54 + addr.toNat * 2 ^ 6) s

/-- UNLOAD. -/
def execUnload (h : HalfId) (m : BitVec 7) (slot : Byte) (s : State) : Host.Outcome State Fault Refusal :=
  putReg h m 9 0x18 (2 * 2 ^ 62 + slot.toNat * 2 ^ 54) s

/-- SET. -/
def execSet (h : HalfId) (m : BitVec 7) (point : BitVec 24) (s : State) : Host.Outcome State Fault Refusal :=
  putReg h m 0x0A 0x40 (1 * 2 ^ 61 + point.toNat) s

/-- READ. -/
def execRead (h : HalfId) (m : BitVec 7) (point : BitVec 24) (s : State) : Host.Outcome State Fault Refusal :=
  putReg h m 0x0A 0x40 (2 * 2 ^ 61 + point.toNat) s

/-- FLUSH. -/
def execFlush (h : HalfId) (m : BitVec 7) (point : BitVec 24) (s : State) : Host.Outcome State Fault Refusal :=
  putReg h m 0x0A 0x40 (3 * 2 ^ 61 + point.toNat) s

/-- DROP curve. -/
def execDropCurve (h : HalfId) (m : BitVec 7) (slot : BitVec 16) (s : State) : Host.Outcome State Fault Refusal :=
  putReg h m 0x0A 0x40 (4 * 2 ^ 61 + slot.toNat * 2 ^ 24) s

/-- DROP program. -/
def execDropProgram (h : HalfId) (m : BitVec 7) (slot : BitVec 16) (s : State) : Host.Outcome State Fault Refusal :=
  putReg h m 0x0A 0x40 (5 * 2 ^ 61 + slot.toNat * 2 ^ 24) s

-- host interface and Boom (R313, R324, R346, R349)

/-- RING_ENGINE_ENABLE. -/
def execRingEngineEnable (h : HalfId) (m : BitVec 7) (s : State) : Host.Outcome State Fault Refusal := putReg h m 5 0 1 s

/-- RING_ENGINE_DISABLE. -/
def execRingEngineDisable (h : HalfId) (m : BitVec 7) (s : State) : Host.Outcome State Fault Refusal := putReg h m 5 0 0 s

/-- HIF_NOTICE. -/
def execHifNotice (h : HalfId) (m : BitVec 7) (s : State) : Host.Outcome State Fault Refusal := putReg h m 5 0x38 1 s

/-- BOM_FINV. -/
def execBomFinv (h : HalfId) (m : BitVec 7) (s : State) : Host.Outcome State Fault Refusal := putReg h m 0x0C 0x30 1 s

/-- BOM_XSIG. -/
def execBomXsig (h : HalfId) (m : BitVec 7) (node : BitVec 9) (thread : BitVec 17) (s : State) :
    Host.Outcome State Fault Refusal := putReg h m 0x0C 0x50 (node.toNat * 2 ^ 55 + thread.toNat) s

-- the fault manager, life cycle, power and low-speed I/O (R357, R368, R390, R386, R407, R433)

/-- FAULT_INJECT: a write of FLT_INJ. -/
def execFaultInject (h : HalfId) (m : BitVec 7) (v : Word) (s : State) : Host.Outcome State Fault Refusal :=
  putReg h m 2 0x60 v.toNat s

/-- FLT_RETEST. -/
def execFltRetest (h : HalfId) (m : BitVec 7) (grove : BitVec 5) (s : State) : Host.Outcome State Fault Refusal :=
  putReg h m 2 0x28 grove.toNat s

/-- LCS_XREQ. -/
def execLcsXreq (h : HalfId) (m : BitVec 7) (addr : BitVec 41) (s : State) : Host.Outcome State Fault Refusal :=
  putReg h m 0x0F 8 (addr.toNat * 2 ^ 5) s

/-- LCS_CINC. -/
def execLcsCinc (h : HalfId) (m : BitVec 7) (counter : BitVec 4) (target : Byte) (s : State) :
    Host.Outcome State Fault Refusal := putReg h m 0x0F 0xA0 (counter.toNat * 2 ^ 8 + target.toNat) s

/-- WARM. -/
def execWarm (h : HalfId) (m : BitVec 7) (s : State) : Host.Outcome State Fault Refusal := putReg h m 0x11 0x18 1 s

/-- SPI_GO: a write of LIO_SPICMD. -/
def execSpiGo (h : HalfId) (m : BitVec 7) (v : Word) (s : State) : Host.Outcome State Fault Refusal :=
  putReg h m 0x13 0x40 v.toNat s

/-- UART_DATA_WRITE. -/
def execUartDataWrite (h : HalfId) (m : BitVec 7) (n : Fin 2) (v : Word) (s : State) : Host.Outcome State Fault Refusal :=
  putReg h m 0x13 (0x28 + 8 * n.val) v.toNat s

/-- UART_DATA_READ. -/
def execUartDataRead (h : HalfId) (m : BitVec 7) (n : Fin 2) (s : State) : Host.Outcome State Fault Refusal :=
  .next (setupRead s h m.toNat (regAddr 0x13 (0x28 + 8 * n.val)) 8)

end Sys2Proof.Machine
end

