-- ==== Sys2Proof/Machine/Debug.lean ====
section
/-! DEFINITION. The BMC's SMBus commands (R432), the TAPs (R425, R399) and the debug port behind them (R398, R426). -/

namespace Sys2Proof.Machine

-- SMBus (Table 20.11)

/-- A block read: the register's word, or nothing while the device is in Reset. -/
def smbRead (s : State) (w : Nat) : Host.Outcome State Fault Refusal :=
  .next (if deviceMode s = .reset then s else s.emit (.smbBlock (BitVec.ofNat 64 w)))

/-- SMB_READ_IDV: IDV_DEVICE of East. -/
def execSmbReadIdv (s : State) : Host.Outcome State Fault Refusal := smbRead s (regWord s .east 0 0)

/-- SMB_READ_PWR_STAT. -/
def execSmbReadPwrStat (h : HalfId) (s : State) : Host.Outcome State Fault Refusal := smbRead s (regWord s h 0x11 0)

/-- SMB_READ_FLT_GUAR: East's in [31:0], West's in [63:32]. -/
def execSmbReadFltGuar (s : State) : Host.Outcome State Fault Refusal :=
  smbRead s (regWord s .east 2 0 % 2 ^ 32 + regWord s .west 2 0 % 2 ^ 32 * 2 ^ 32)

/-- SMB_READ_TMP_ALARM. -/
def execSmbReadTmpAlarm (s : State) : Host.Outcome State Fault Refusal :=
  smbRead s (regWord s .east Reg.TMP_ALARM_CAUSE.blk Reg.TMP_ALARM_CAUSE.off)

/-- SMB_READ_LCS_STATE. -/
def execSmbReadLcsState (s : State) : Host.Outcome State Fault Refusal := smbRead s (regWord s .east 0x0F 0)

/-- SMB_WAKE: wake source 5, and no effect in another mode than Watch. -/
def execSmbWake (s : State) : Host.Outcome State Fault Refusal := .next (startWake s .smbus)

-- the TAPs (Table 20.6)

/-- The TAP of a half holds an instruction. -/
def setTap (s : State) (h : HalfId) (i : TapInstr) : State := s.upd h fun x => { x with tap := i }

/-- TAP_RESET: Test-Logic-Reset of both TAPs, on shared pins. -/
def execTapReset (s : State) : Host.Outcome State Fault Refusal := .next (setTap (setTap s .east .idcode) .west .idcode)

/-- BYPASS. -/
def execBypass (h : HalfId) (s : State) : Host.Outcome State Fault Refusal := .next (setTap s h .bypass)

/-- IDCODE: version 0x2, part 0x7160, manufacturer field 0x6D5, bit 0 = 1. -/
def execIdcode (h : HalfId) (s : State) : Host.Outcome State Fault Refusal :=
  .next ((setTap s h .idcode).emit (.tapData h 0x27160DAB))

/-- Cells of a half's boundary register. -/
def boundaryCells : HalfId → Nat
  | .east => 1797
  | .west => 1765

/-- n free bits (log entry 12). -/
def freeBits (n : Nat) (s : State) : Nat × State :=
  let k := (n + 63) / 64
  ((List.range k).foldl (fun w i => w + (Config.free (s.freeCount + i)).toNat * 2 ^ (64 * i)) 0 % 2 ^ n,
    { s with freeCount := s.freeCount + k })

/-- SAMPLE_PRELOAD: what the cells sample at the pins is not stated beyond the cells' order, and is free. -/
def execSamplePreload (h : HalfId) (s : State) : Host.Outcome State Fault Refusal :=
  let r := freeBits (boundaryCells h) (setTap s h .samplePreload)
  .next (r.2.emit (.tapData h r.1))

/-- A driving instruction (R399, R425): available in BLANK, TEST and RETURNED, and in Reset; else it acts as BYPASS, and in
SHIPPED and OWNED it is tamper cause 14. -/
def drivePins (i : TapInstr) (h : HalfId) (s : State) : Host.Outcome State Fault Refusal :=
  if lcOpen s ∨ deviceMode s = .reset then .next (setTap s h i)
  else
    let s := setTap s h .bypass
    .next (if lcState s = 2 ∨ lcState s = 3 then tamper s 14 else s)

/-- EXTEST. -/
def execExtest (h : HalfId) (s : State) : Host.Outcome State Fault Refusal := drivePins .extest h s

/-- HIGHZ. -/
def execHighz (h : HalfId) (s : State) : Host.Outcome State Fault Refusal := drivePins .highz h s

/-- CLAMP. -/
def execClamp (h : HalfId) (s : State) : Host.Outcome State Fault Refusal := drivePins .clamp h s

/-- EXTEST_PULSE. -/
def execExtestPulse (h : HalfId) (s : State) : Host.Outcome State Fault Refusal := drivePins .extestPulse h s

/-- EXTEST_TRAIN. -/
def execExtestTrain (h : HalfId) (s : State) : Host.Outcome State Fault Refusal := drivePins .extestTrain h s

-- authentication (R398, Table 18.10)

/-- Selecting DBG_AUTH draws a challenge of 32 bytes. -/
def selectAuth (s : State) (h : HalfId) : State :=
  if (s.half h).tap = .dbgAuth then s
  else
    let r := drbgBytes s h 32
    r.2.upd h fun x => { x with tap := .dbgAuth, challenge := r.1, authStatus := 0 }

/-- What Capture-DR loads: challenge, PKG_SERIAL, status. -/
def authCapture (s : State) (h : HalfId) : Nat :=
  leNat (s.half h).challenge + s.otp.serial.toNat * 2 ^ 256 + (s.half h).authStatus * 2 ^ 320

/-- Whether a response is valid: by TKEY in SHIPPED, by ODBG, and with no Warden debug, in OWNED. -/
def authValid (s : State) (h : HalfId) (signature : List Byte) (scope : Byte) : Bool :=
  let msg := (s.half h).challenge ++ leBytes 8 s.otp.serial.toNat ++ [scope]
  match lcState s with
  | 2 => Config.debugSigned s.otp.tkey signature msg
  | 3 => !scope.toNat.testBit 6 && Config.debugSigned s.otp.odbg signature msg
  | _ => false

/-- DBG_AUTH: a valid response sets LCS_DBG, whose grant takes effect at the next warm reset (R398). One scan of the authentication register, captured and then updated. -/
def execDbgAuth (h : HalfId) (signature : List Byte) (scope : Byte) (s : State) : Host.Outcome State Fault Refusal :=
  let s := selectAuth s h
  let s := s.emit (.tapData h (authCapture s h))
  if authValid s h signature scope then
    .next ((s.upd h fun x => { x with authStatus := 1 }).setFld .east Reg.LCS_DBG_SCOPE (scope.toNat / 16))
  else .next (s.upd h fun x => { x with authStatus := 2 })

-- accesses (R426)

/-- Whether the debug port may make accesses: core debug open, or in SHIPPED and OWNED a grant in effect (R398, Table 18.10). -/
def debugMay (s : State) (h : HalfId) : Bool :=
  !s.inMode h .reset &&
    (lcOpen s || ((lcState s == 2 || lcState s == 3) && s.dbgGrant.testBit 0))

/-- What Capture-DR of the access register loads: last read data and status. -/
def accessCapture (s : State) (h : HalfId) : Nat := (s.half h).dbgData.toNat + (s.half h).dbgStatus * 2 ^ 110

/-- Ends an access with a status: 0 done, 1 busy, 2 refused; the debugger captures it. -/
def endAccess (h : HalfId) (status : Nat) (s : State) : State :=
  let s := s.upd h fun x => { x with tap := .dbgAccess, dbgStatus := status }
  s.emit (.tapData h (accessCapture s h))

/-- What the debug port holds as its last read data. -/
def setDebugData (s : State) (h : HalfId) (w : Word) : State := s.upd h fun x => { x with dbgData := w }

/-- An access at an aligned address, or a misaligned one to set-up space, which R8 has the table refuse: refused, held for a disabled group (busy, R191), or `go`. A read that the boundary table refuses
has zeros for its data (R28, R189). -/
def debugAccess (h : HalfId) (kind : AccKind) (a : Nat) (go : State → State) (s : State) : Host.Outcome State Fault Refusal :=
  if !debugMay s h ∨ (a % 8 ≠ 0 ∧ !setupOrHole (placeOf s h a)) then .next (endAccess h 2 s)
  else
    match check s h 0x4D kind a 8 with
    | .allow => .next (endAccess h 0 (go s))
    | .hold g => .next (endAccess h 1 (noteHeld s h g 0x4D a none))
    | v =>
      let t := setupRefused s h 0x4D a v
      .next (endAccess h 2 (if kind = .read then setDebugData t h 0 else t))

/-- The read itself. -/
def debugRead (h : HalfId) (a : Nat) (s : State) : State :=
  let r : List Byte × State :=
    match placeOf s h a with
    | .setup blk off => busRead s h 0x4D blk off 8 none
    | _ => ((unitRead s h 0x4D a 8).1.bytes, (unitRead s h 0x4D a 8).2)
  setDebugData r.2 h (BitVec.ofNat 64 (leNat r.1))

/-- DBG_ACCESS_READ. -/
def execDbgAccessRead (h : HalfId) (addr : BitVec 46) (s : State) : Host.Outcome State Fault Refusal :=
  debugAccess h .read addr.toNat (debugRead h addr.toNat) s

/-- The write itself. -/
def debugWrite (h : HalfId) (a : Nat) (data : Word) (s : State) : State :=
  match placeOf s h a with
  | .setup blk off => busWrite s h 0x4D blk off (leBytes 8 data.toNat) none
  | _ => unitWrite s h 0x4D a (leBytes 8 data.toNat)

/-- DBG_ACCESS_WRITE. -/
def execDbgAccessWrite (h : HalfId) (addr : BitVec 46) (data : Word) (s : State) : Host.Outcome State Fault Refusal :=
  debugAccess h .write addr.toNat (debugWrite h addr.toNat data) s

end Sys2Proof.Machine
end

