-- ==== Sys2Proof/Machine/FaultMgr.lean ====
section
/-! DEFINITION. The fault manager's commands: faults, takeover of a grove by the spare (R211, R365–R367), the rotating
self-test (R362–R364), the Warden pair and its latch (R369–R372), scrubbing (R174) and the code store's patrol (R361). -/

namespace Sys2Proof.Machine

/-- The Foreman's identity (Table 9.1), under which the X0 field of a record is written (log entry 19). -/
def midFmn : Nat := 0x45

def groveCore (h : HalfId) (g : Nat) (c : Fin 8) : CoreId := ⟨h, Fin.ofNat 17 g, c⟩

/-- A core without its thread and without anything of the step it has not committed. -/
def clearCore (k : CoreId) (s : State) : State :=
  let c := s.core k
  let s := s.upd k.half fun x => { x with bom := { x.bom with
    outstanding := x.bom.outstanding.filter fun o => o.core != some k.num } }
  s.setCore k { c with
    run := if c.run = .held then .held else .idle
    thread := none, nr := true, converted := false, rstack := [], mstack := [], reserve := false, longOps := [], imprecise := []
    report := none, drain := false, marks := [], queued := 0, pacedTicks := 0
    journal := [], effects := [], remote := [], popped := [], issued := false, posts := [], decOwner := none, decDirty := false }

/-- Sets FAULT in the X0 of a thread's record, whose other bits stay as they stand in memory; where a group holds the write, it is made when
the group lets it (R191, R211). -/
def markFault (s : State) (h : HalfId) (t : Nat) : State :=
  let a := recordAddr s h t + 0xB0
  let b : Byte := match placeOf s h a with
    | .canopy own p => SMap.get memDefault (s.half (if own then h else h.other)).mem.cells p
    | .ddr p => SMap.get memDefault (s.half h).mem.cells p
    | _ => 0
  unitPost s h midFmn a [b ||| 64]

/-- A running step goes back to its last commit point and its thread becomes READY (R211 case 1): with FAULT in the X0 of its
record after a takeover, without after a self-test (R363). -/
def rollBack (fault : Bool) (k : CoreId) (s : State) : State :=
  match (s.core k).thread with
  | none => s
  | some t =>
    let h := k.half
    let s := undoStep k s
    let s := if fault then markFault s h t else s
    let x := s.thread h t
    let s := makeReady s h t { x with restart := true, rolled := x.rolled || !fault }
    (clearCore k s).incFld h Reg.FMN_RESTART_RESTARTED

/-- Whether a core's step may be rolled back for a self-test (R363). -/
def mayRoll (s : State) (k : CoreId) : Bool :=
  let c := s.core k
  c.restartable && !(match c.thread with | some t => (s.thread k.half t).rolled | none => true)

-- takeover (R211, R365–R367)

/-- Whether an effect has been handed to a target that has not acknowledged it: a disabled group holds its access (R191). -/
def handedUnacked (s : State) (k : CoreId) (e : Effect) : Bool :=
  (s.half k.half).bnd.held.any fun x => x.core == some k.num && x.mid == e.mid && x.addr == e.phys && !x.expired

/-- An effect past its commit point, released from the recovery port; a set-up or other side-effect store that its target has not
acknowledged is not made again, and is in doubt (R211 case 2). -/
def releaseOne (k : CoreId) (s : State) (e : Effect) : State :=
  match e.kind with
  | .remote => queueEffect s k.half e
  | .replyPost | .framePost => handPost s k.half (e.kind == .framePost) e.thread e.stepseq e.pos (e.bytes.map (·.getD 0))
  | .hostMem => performEffect s k e
  | .setup | .sideEffect =>
    if handedUnacked s k e then
      record (s.incFld k.half Reg.FMN_RESTART_IN_DOUBT) k.half
        { code := 0x34, region := 0, index := k.grove.val, mid := e.mid, status := statusOf 7 3, thread := some e.thread
          stepseq := e.stepseq, address := e.addr }
    else performEffect s k e

/-- What becomes of what a failed core has committed, and then of the step it runs (R211). -/
def resolveCore (unreadable : Bool) (k : CoreId) (s : State) : State :=
  let c := s.core k
  let s := c.handed.foldl (releaseOne k) (s.setCore k { c with handed := [] })
  match c.thread with
  | none => clearCore k s
  | some t =>
    if c.restartable && !unreadable then rollBack true k s
    else
      let s := record (s.incFld k.half Reg.FMN_RESTART_ABORTED_NR) k.half
        { code := 0x35, region := 0, index := k.grove.val, outcome := 2, mid := coreMid k levelC, status := statusOf 7 2
          thread := some t, stepseq := c.seq }
      clearCore k (becomeAborted s k.half t (statusOf 7 2))

/-- Posts that a grove's cores still have to hand to the ring engine. -/
def postsDue (s : State) (h : HalfId) (g : Nat) : Nat :=
  ((List.finRange 8).map fun c => ((s.core (groveCore h g c)).handed.filter fun e =>
    e.kind == .replyPost || e.kind == .framePost).length).sum

/-- Whether a grove of the window has its test before it, or in progress. -/
def testDue (s : State) (h : HalfId) (g : Nat) : Bool := (s.half h).flt.phase == .drain || groveState s h g == 1

/-- Step 3 of Table 17.3: the spare gives its self-test work back, but for threads of the failed grove when that is in its
window, and the tests of the window are postponed. -/
def endWindow (s : State) (h : HalfId) (g : Nat) : State :=
  let x := (s.half h).flt
  if x.phase = .off ∨ g = 16 then s else
  let s := (List.finRange 8).foldl (fun s c =>
    let k := groveCore h 16 c
    let own := match (s.core k).thread with
      | some t => x.testing.contains g && (s.thread h t).gmask.testBit g
      | none => false
    if !own && mayRoll s k then rollBack false k s else s) s
  let s := (x.testing.filter fun i => i != g && testDue s h i).foldl (fun s i =>
    let s := if groveState s h i = 1 then setGroveState s h i (if i = 16 then 2 else 0) else s
    if i < 16 then s.setBit h Reg.FLT_ROT_POSTPONED i else s) s
  let w := firstSuspended s h
  updFlt s h fun x => { x with phase := .off, testing := [], next := w }

/-- Copies the class of a MID to another (R192). -/
def copyClass (s : State) (h : HalfId) (src dst : Nat) : State :=
  let w := (s.reg h 3 (0x100 + 8 * (src / 8))).toNat
  s.setFld h ⟨3, 0x100 + 8 * (dst / 8), 8 * (dst % 8) + 5, 8 * (dst % 8)⟩ (nbits w (8 * (src % 8) + 5) (8 * (src % 8)))

/-- Copies the attribute and areas of a grove to the spare (R25, R144). -/
def copyAttribute (s : State) (h : HalfId) (g : Nat) : State :=
  let s := [0x00, 0x08, 0x10, 0x18].foldl (fun s o => s.setReg h 0x30 o (s.reg h (0x20 + g) o)) s
  (s.setFld h (Reg.GRV_PSTAT_READY.grove 16) (s.fld h (Reg.GRV_PSTAT_READY.grove g))).upd h fun x =>
    { x with
      paceCode := SMap.set (fun _ => []) x.paceCode 16 (SMap.get (fun _ => []) x.paceCode g)
      paceBase := SMap.set (fun _ => 0) x.paceBase 16 (SMap.get (fun _ => 0) x.paceBase g)
      paceLen := SMap.set (fun _ => 0) x.paceLen 16 (SMap.get (fun _ => 0) x.paceLen g) }

/-- Steps 7 and 8 of Table 17.3: the spare stands for the grove from now on. -/
def finishTakeover (s : State) (h : HalfId) (g aux : Nat) : State :=
  let s := (List.finRange 8).foldl (fun s c =>
    let k := groveCore h 16 c
    s.setCore k { s.core k with tlb := [], walk := [] }) s
  let s := [(3 * g, 48), (3 * g + 1, 49), (3 * g + 2, 50), (0x33 + g, 0x43)].foldl (fun s p => copyClass s h p.1 p.2) s
  let s := (copyAttribute s h g).setFld h Reg.FMN_GROVE_SPARE_AS g
  let s := if fenced s h 16 then s else setGroveState s h 16 0
  let s := suspendRotation (updFlt (endRecovery s h .grove g) h fun x => { x with taken := [] }) h
  updateGuar (record s h { code := 0x31, region := 0, index := g, outcome := 1, aux }) h

/-- GROVE_TAKEOVER: after the L2 drain; for a paced grove the areas are copied next. It waits while the ring engine has no
room for the posts to release (R321). For the spare that failed in a window, its group's threads are given back (R367). -/
def execGroveTakeover (h : HalfId) (g : Fin 17) (unreadable : List (Fin 8)) (s : State) : Host.Outcome State Fault Refusal :=
  if !recoveringGrove s h g.val ∨ (s.half h).flt.takeover = some g.val then .next s
  else if 4096 < postsWaiting s h + postsDue s h g.val then .next s
  else
    let stood := (s.half h).flt.phase != .off
    let held := (groveThreads s h g.val).map (·.2)
    let s := endWindow s h g.val
    let s := (List.finRange 8).foldl (fun s c => resolveCore (unreadable.contains c) (groveCore h g.val c) s) s
    if g.val = 16 then
      let s := endRecovery s h .grove 16
      .next (if stood then record s h { code := 0x33, region := 0, index := 16, outcome := 1 } else s)
    else if s.flag h (Reg.GRV_MODE_PACED.grove g.val) then
      .next (updFlt s h fun x => { x with takeover := some g.val, taken := held })
    else .next (finishTakeover s h g.val 0)

/-- The lines of a grove's code area that its L2 gave uncorrectable come from the code store (R366): which ones is a free value, as an
error there has no other trace (log entry 148). A line whose copies are both uncorrectable keeps what the area held. -/
def refetchCode (s : State) (h : HalfId) (g : Nat) : State :=
  let base := SMap.get (fun _ => 0) (s.half h).paceBase g / 64
  let count := SMap.get (fun _ => 0) (s.half h).paceLen g / 64
  let v := s.takeFree.1.toNat
  if count = 0 then s.takeFree.2 else
  let first := v % count
  let lines := (List.range (v / 2 ^ 32 % (count - first) + 1)).map (base + first + ·)
  lines.foldl (fun s l =>
    match codeLineBoth s h l with
    | (true, s) => s
    | (false, s) => s.upd h fun x => { x with
        paceCode := SMap.set (fun _ => []) x.paceCode g
          (writeCells (SMap.get (fun _ => []) x.paceCode g) (64 * l) (readCells (s.half (codeSource s h l)).code (64 * l) 64)) })
    s.takeFree.2

/-- PACED_AREA_COPY_COMPLETE (R366): granules of the data area that read uncorrectable are poisoned in place. -/
def execPacedAreaCopyComplete (h : HalfId) (g : Fin 17) (fromCodeStore : Bool) (s : State) :
    Host.Outcome State Fault Refusal :=
  if (s.half h).flt.takeover ≠ some g.val then .next s else
  let a := 0x40000000 + s.fld h (Reg.GRV_PDATA_DATA_BASE.grove g.val) * 65536
  let n := s.fld h (Reg.GRV_PDATA_DATA_KIB.grove g.val) * 1024
  let bad := (s.half h).mem.ue.filter fun i => a / 16 ≤ i && i < (a + n) / 16
  let s := bad.foldl (fun s i => touchGranule s h i) s
  let s := if fromCodeStore then refetchCode s h g.val else s
  .next (finishTakeover (updFlt s h fun x => { x with takeover := none }) h g.val (b2n fromCodeStore))

-- faults (R358–R360, R371, R372, R374)

/-- CODEWORD_VIOLATION. -/
def execCodewordViolation (h : HalfId) (r : Region) (index : Byte) (s : State) : Host.Outcome State Fault Refusal :=
  .next (if s.inMode h .reset then s else regionFault s h r index.toNat 1 0 false)

/-- STALL, with the failing handshake's identifier as SYNDROME. -/
def execStall (h : HalfId) (r : Region) (index : Byte) (handshake : Word) (s : State) : Host.Outcome State Fault Refusal :=
  .next (if s.inMode h .reset then s else regionFault s h r index.toNat 2 handshake.toNat false)

/-- LOCKSTEP: what holds a Warden in reset. -/
def execLockstep (h : HalfId) (cause : WardenFault) (s : State) : Host.Outcome State Fault Refusal :=
  if s.inMode h .reset then .next s else
  match cause with
  | .lockstep => .next (wardenFault s h 0x05 0 false)
  | .sramUncorrectable => .next (wardenFault (s.incFld h Reg.FLT_CNT0_UE_SRAM) h 0x10 0 false)
  | .stall => .next (wardenFault (s.incFld h Reg.FLT_CNT1_STALL) h 0x02 0 false)

/-- SEAM_LOSS (R372): the latch copies freeze, and the half that does not hold charge enters Safe; with no holder East is
taken as it, and enters Safe too where its Warden is held. -/
def execSeamLoss (s : State) : Host.Outcome State Fault Refusal :=
  if !s.seamUp ∨ s.east.mode = .reset then .next s else
  let keep := s.latch.getD .east
  let s := { s with seamUp := false, frozen := true }
  let s := (s.setFld .east Reg.SEM_STAT_LOST 1).setFld .west Reg.SEM_STAT_LOST 1
  let s := faultSafe s keep.other 8 0 3
  let s := record s keep { code := 0x21, region := 8, index := 0, outcome := safeOutcome s keep.other 3 }
  let s := if s.latch.isNone && s.east.wardenHeld then faultSafe s .east 8 0 4 else s
  .next (updateGuar (updateGuar s .east) .west)

/-- OSC_FAIL. -/
def execOscFail (s : State) : Host.Outcome State Fault Refusal := .next (if s.east.mode = .reset then s else oscFailure s false)

-- the charge latch (R369, R370)

/-- CLAIM: of two in the same handshake East's is taken. -/
def execClaim (h : HalfId) (both : Bool) (s : State) : Host.Outcome State Fault Refusal :=
  .next (if both then claimLatch (claimLatch s .east) .west else claimLatch s h)

/-- RENEW. -/
def execRenew (h : HalfId) (s : State) : Host.Outcome State Fault Refusal := .next (renewLatch s h)

/-- RELEASE. -/
def execLatchRelease (h : HalfId) (s : State) : Host.Outcome State Fault Refusal := .next (releaseLatch s h)

/-- LEASE_EXPIRY. -/
def execLeaseExpiry (s : State) : Host.Outcome State Fault Refusal :=
  .next (if s.latch.isSome ∧ s.leaseEnd ≤ s.elapsed then freeLatch s else s)

/-- RETEST_COMPLETE: a pass clears the grove's FLT_GFAIL bit (R368). -/
def execRetestComplete (h : HalfId) (pass : Bool) (s : State) : Host.Outcome State Fault Refusal :=
  if !s.flag h Reg.FLT_RETEST_BUSY then .next s else
  let s := (s.setFld h Reg.FLT_RETEST_BUSY 0).setFld h Reg.FLT_RETEST_RESULT (if pass then 1 else 2)
  .next (if pass then s.clearBit h Reg.FLT_GFAIL_FAILED (s.fld h Reg.FLT_RETEST_GROVE) else s)

-- the rotating self-test (R362–R364)

/-- Whether a window may begin: a step that the last one left on the spare is over (R363). -/
def windowFree (s : State) (h : HalfId) : Bool :=
  s.flag h Reg.FLT_ROT_EN && (s.half h).flt.phase == .off && (s.inMode h .run || s.inMode h .watch) &&
    ((s.half h).flt.recovering.all fun r => r.1 != .grove) &&
    (s.fld h Reg.FMN_GROVE_SPARE_AS != 31 || (groveThreads s h 16).isEmpty)

/-- ROTATION_WINDOW: the next window's groves drain to the spare, which takes their attribute. -/
def execRotationWindow (h : HalfId) (s : State) : Host.Outcome State Fault Refusal :=
  if !windowFree s h ∨ s.fld h Reg.FLT_ROT_WINDOW = 15 then .next s else
  let w := (s.half h).flt.next
  let gs := (windowGroves s h w).filter fun g => !fenced s h g
  let s := (updFlt s h fun x => { x with next := (w + 1) % 8, phase := .drain, testing := gs }).setFld h Reg.FLT_ROT_WINDOW w
  match gs with
  | g :: _ => .next (if g = 16 then s else
      (s.setReg h 0x30 0 (s.reg h (0x20 + g) 0)).setFld h (Reg.GRV_PSTAT_READY.grove 16) (s.fld h (Reg.GRV_PSTAT_READY.grove g)))
  | [] => .next s

/-- SUSPENSION_WINDOW: one grove is suspended for its test, in ascending logical order (R364). -/
def execSuspensionWindow (h : HalfId) (s : State) : Host.Outcome State Fault Refusal :=
  if !windowFree s h ∨ s.fld h Reg.FLT_ROT_WINDOW ≠ 15 then .next s else
  let g := (s.half h).flt.next
  let p := if s.fld h Reg.FMN_GROVE_SPARE_AS = g then 16 else g
  let s := updFlt s h fun x => { x with next := (g + 1) % 16 }
  .next (if fenced s h p then s else updFlt s h fun x => { x with phase := .drain, testing := [p] })

/-- One grove at the end of the drain phase: steps that may be rolled back are; another running step postpones its test. -/
def drainGrove (h : HalfId) (s : State) (g : Nat) : State :=
  let s := (List.finRange 8).foldl (fun s c =>
    let k := groveCore h g c
    if mayRoll s k then rollBack false k s else s) s
  if (groveThreads s h g).isEmpty then setGroveState s h g 1
  else
    let s := updFlt s h fun x => { x with testing := x.testing.filter (· != g) }
    if g < 16 then s.setBit h Reg.FLT_ROT_POSTPONED g else s

/-- DRAIN_END. -/
def execDrainEnd (h : HalfId) (s : State) : Host.Outcome State Fault Refusal :=
  let x := (s.half h).flt
  if x.phase ≠ .drain then .next s else
  .next (updFlt (x.testing.foldl (drainGrove h) s) h fun x => { x with phase := .test })

/-- State of a grove whose test is over: active, or the spare where it replaces none. -/
def testedState (s : State) (h : HalfId) (g : Nat) : Nat := if g = 16 ∧ s.fld h Reg.FMN_GROVE_SPARE_AS = 31 then 2 else 0

/-- SELF_TEST_COMPLETE: a grove that passes is active again and takes threads from the return phase on, which begins when the
last test is over; a failure is a fault of it (Table 17.1). -/
def execSelfTestComplete (h : HalfId) (g : Fin 17) (pass : Bool) (s : State) : Host.Outcome State Fault Refusal :=
  let n := g.val
  let x := (s.half h).flt
  if x.phase ≠ .test ∨ !x.testing.contains n ∨ groveState s h n ≠ 1 then .next s else
  let s := setGroveState s h n (testedState s h n)
  let s := if n < 16 then s.clearBit h Reg.FLT_ROT_POSTPONED n else s
  let last := x.testing.all fun g => groveState s h g != 1
  let s := updFlt s h fun x => { x with
    phase := if last then .ret else .test
    tested := if pass then SMap.set (fun _ => 0) x.tested n (s.elapsed + 1) else x.tested
    testBad := if pass then x.testBad.del n else x.testBad.add n }
  .next (updateGuar (if pass then s else groveFault (s.incFld h Reg.FLT_CNT1_TEST_FAIL) h n 0x03 0 false) h)

/-- A grove whose test was still due at the end of window 7. -/
def noteLate (h : HalfId) (s : State) (g : Nat) : State :=
  let s := updFlt s h fun x => { x with tested := SMap.set (fun _ => 0) x.tested g 0 }
  record (s.incFld h Reg.FLT_CNT1_TEST_LATE) h { code := 0x04, region := 0, index := g }

/-- Groves whose test has not completed in the rotation that ends (R363): those still postponed, and the spare where it stands for
none and its last test is older than the rotation. -/
def lateGroves (s : State) (h : HalfId) : List Nat :=
  let t := SMap.get (fun _ => 0) (s.half h).flt.tested 16
  ((List.range 16).filter fun g => (s.fld h Reg.FLT_ROT_POSTPONED).testBit g && !fenced s h g) ++
    (if s.fld h Reg.FMN_GROVE_SPARE_AS = 31 ∧ !fenced s h 16 ∧ (t = 0 ∨ t - 1 + 4000000 < s.elapsed) then [16] else [])

/-- RETURN_END: restartable steps on the spare go back to their groves; at the end of window 7 late tests are recorded. -/
def execReturnEnd (h : HalfId) (s : State) : Host.Outcome State Fault Refusal :=
  let x := (s.half h).flt
  if x.phase = .off then .next s else
  let s := if s.fld h Reg.FMN_GROVE_SPARE_AS ≠ 31 then s else
    (List.finRange 8).foldl (fun s c =>
      let k := groveCore h 16 c
      if mayRoll s k then rollBack false k s else s) s
  let s := (x.testing.filter fun g => x.phase == .drain || groveState s h g == 1).foldl (fun s g =>
    let s := if groveState s h g = 1 then setGroveState s h g (testedState s h g) else s
    if g < 16 then s.setBit h Reg.FLT_ROT_POSTPONED g else s) s
  let s := updFlt s h fun x => { x with phase := .off, testing := [] }
  let s := if s.fld h Reg.FLT_ROT_WINDOW = 7 then
      ((lateGroves s h).foldl (noteLate h) s).setFld h Reg.FLT_ROT_POSTPONED 0
    else s
  .next (updateGuar s h)

-- scrubbing and the code store (R174, R361)

/-- An error that has arisen in an SRAM granule of Canopy or of an L2. -/
def markGranule (f : ScrubFind) (m : Mem) (g : Nat) : Mem :=
  match f with
  | .clean => m
  | .correctable => { m with ce := m.ce.add g }
  | .uncorrectable => { m with ue := m.ue.add g }

/-- An error that has arisen in a DDR line. -/
def markLine (f : ScrubFind) (m : Mem) (l : Nat) : Mem :=
  match f with
  | .clean => m
  | .correctable => { m with lineCe := m.lineCe.add l }
  | .uncorrectable => { m with lineUe := m.lineUe.add l }

/-- SCRUB_READ, with the error that has arisen in what it reads: a Canopy granule, a DDR line or a granule of a line that an L2 holds, by
physical address; a granule of the units' SRAM by its number there (log entry 98); or the Warden's, where an uncorrectable error is
R371's. -/
def execScrubRead (h : HalfId) (st : ScrubStore) (place : ScrubPlace) (s : State) : Host.Outcome State Fault Refusal :=
  let a := place.addr.toNat
  match st with
  | .canopy => .next (match placeOf s h a with
      | .canopy true b => touchSram (s.upd h fun x => { x with mem := markGranule place.found x.mem (b / 16) }) h (b / 16)
      | _ => s)
  | .ddr => .next (match placeOf s h a with
      | .ddr b => touchLine (s.upd h fun x => { x with mem := markLine place.found x.mem (b / 64) }) h (b / 64)
      | _ => s)
  | .groveL2 => .next (match placeOf s h a with
      | .ddr b =>
        if inSram (s.half h).mem (b / 16) then
          touchSram (s.upd h fun x => { x with mem := markGranule place.found x.mem (b / 16) }) h (b / 16)
        else s
      | _ => s)
  | .unitSram => .next (touchUnit (markUnit s h a place.found) h a).2
  | .wardenSram => .next (if s.inMode h .reset then s else match place.found with
      | .clean => s
      | .correctable => s.incFld h Reg.FLT_CNT0_CE_SRAM
      | .uncorrectable => wardenFault (s.incFld h Reg.FLT_CNT0_UE_SRAM) h 0x10 0 false)

/-- SCRUB_LATE: a pass beyond its period (R174): 0 SRAM, 1 DDR, 2 code store. -/
def execScrubLate (h : HalfId) (store : Fin 3) (s : State) : Host.Outcome State Fault Refusal :=
  let s := s.setBit h ⟨2, 0x58, 2, 0⟩ store.val
  let reg : Nat × Nat := if store.val = 2 then (4, 0) else (0xFF, 0xFF)
  .next (updateGuar (record s h { code := 0x14, region := reg.1, index := reg.2 }) h)

/-- CODESTORE_PATROL_READ: the bit errors that stand in a line on this die and on the other. -/
def execCodestorePatrolRead (h : HalfId) (line : BitVec 28) (errs otherErrs : Nat) (s : State) :
    Host.Outcome State Fault Refusal :=
  let put (s : State) (die : HalfId) (n : Nat) : State :=
    s.upd die fun x => { x with codeErrs := SMap.set (fun _ => 0) x.codeErrs line.toNat n }
  .next (codeLineBoth (put (put s h errs) h.other otherErrs) h line.toNat).2

end Sys2Proof.Machine
end

