-- ==== Sys2Proof/Machine/Services.lean ====
section
/-! DEFINITION. The services of the root firmware (R381, Table 18.2): an MCALL has brought a core to level M with the service
number as its cause; the stub relays the request to the latch holder's Warden and returns with the result in X0. -/

namespace Sys2Proof.Machine

/-- The half whose Warden serves a request that a core has made and not got back: the latch holder's (R381). -/
def serviceAt (s : State) (k : CoreId) (number : Nat) : Option HalfId :=
  let c := s.core k
  match c.run, c.mstack, s.latch with
  | .running, f :: _, some h =>
    if c.level = levelM ∧ f.vector = 23 ∧ f.cause.toNat = number ∧ !(s.half h).wardenHeld then some h else none
  | _, _, _ => none

/-- An argument of a request. -/
def serviceArg (s : State) (k : CoreId) (n : Nat) : Nat := ((s.core k).xReg n).toNat

/-- The stub's return (R381): the result in X0, the machine frame popped (R121). -/
def serviceReturn (k : CoreId) (r : Nat × State) : State :=
  let c := r.2.core k
  match c.mstack with
  | f :: fs => r.2.setCore k ({ c with mstack := fs }.setXReg 0 (BitVec.ofNat 64 r.1) |>.returnTo f)
  | [] => r.2

/-- Where a core's request is for another service than the command's: an unlisted number returns BAD_ARG (R381), another service
waits for its own command. -/
def otherService (k : CoreId) (s : State) : State :=
  match (s.core k).mstack with
  | f :: _ =>
    if (f.cause.toNat = 0 ∨ 7 < f.cause.toNat) ∧ (serviceAt s k f.cause.toNat).isSome then serviceReturn k (5, s) else s
  | [] => s

/-- A service's command: `serve` gives the result and the state. -/
def service (k : CoreId) (number : Nat) (serve : HalfId → State → Nat × State) (s : State) :
    Host.Outcome State Fault Refusal :=
  match serviceAt s k number with
  | none => .next (otherService k s)
  | some h => .next (serviceReturn k (serve h s))

/-- CTR_READ's result. -/
def ctrValue (s : State) (c : Nat) : Nat := if c < 16 then counterOf s c else 5

/-- CTR_READ. A counter that is none returns BAD_ARG. -/
def execCtrRead (k : CoreId) (s : State) : Host.Outcome State Fault Refusal :=
  service k 1 (fun _ s => (ctrValue s (serviceArg s k 1), s)) s

/-- CTR_ADVANCE on a counter of the owner (R386, R387). -/
def ctrAdvance (s : State) (c target : Nat) : Nat × State :=
  if c < 2 ∨ 15 < c then (5, s)
  else if target ≤ counterOf s c then (0, s)
  else if 255 < target then (2, s)
  else (0, advanceCounter s c target)

/-- CTR_ADVANCE. -/
def execCtrAdvance (k : CoreId) (s : State) : Host.Outcome State Fault Refusal :=
  service k 2 (fun _ s => ctrAdvance s (serviceArg s k 1) (serviceArg s k 2)) s

/-- SVN_COMMIT of a slot that has booted (R386): its image's counter takes the image's SVN. -/
def svnCommit (s : State) (h : HalfId) (slot : Nat) : Nat × State :=
  if !s.booted.contains slot then (5, s)
  else
    let b := headerOf s h slot
    (0, advanceCounter s (if imgKind b = 3 then 1 else 0) (imgSvn b))

/-- SVN_COMMIT. -/
def execSvnCommit (k : CoreId) (s : State) : Host.Outcome State Fault Refusal :=
  service k 3 (fun h s => svnCommit s h (serviceArg s k 1)) s

/-- UPDATE: the Warden reads the staged image at the physical address given. -/
def execUpdate (k : CoreId) (s : State) : Host.Outcome State Fault Refusal :=
  match serviceAt s k 4 with
  | none => .next (otherService k s)
  | some h =>
    .next (unitCmd h (fun s => serviceReturn k (updateImage s h (serviceArg s k 1) (serviceArg s k 2))) s)

/-- LC_REQUEST (R390, R391). -/
def execLcRequest (k : CoreId) (s : State) : Host.Outcome State Fault Refusal :=
  match serviceAt s k 5 with
  | none => .next (otherService k s)
  | some h => .next (unitCmd h (fun s => serviceReturn k (lcRequestAt s h (serviceArg s k 1))) s)

/-- SAFE: it does not return, and the device enters Safe from Run (Table 19.1). -/
def execSafe (k : CoreId) (s : State) : Host.Outcome State Fault Refusal :=
  match serviceAt s k 6 with
  | none => .next (otherService k s)
  | some _ => .next (if deviceMode s = .run then enterSafeDevice s 0xFF 0xFF else s)

/-- ACTIVATE (R388): the own die's steps, and sent again the other die's, with which the request returns (log entry 162). While one slot is between the two
another finds the service busy. -/
def execActivate (k : CoreId) (s : State) : Host.Outcome State Fault Refusal :=
  match serviceAt s k 7 with
  | none => .next (otherService k s)
  | some h =>
    let slot := serviceArg s k 1
    match s.activating with
    | some (d, n) => .next (if n = slot then serviceReturn k (0, activateRest s d n) else serviceReturn k (4, s))
    | none => .next (if activateBad s h slot then serviceReturn k (5, s) else activateOwn s h slot)

end Sys2Proof.Machine
end

