-- ==== Sys2Proof/Machine/Steps.lean ====
section
/-! DEFINITION. Steps of threads: WAIT and the commit point (R203–R207), switch-in (R199, R204), the step limit (R202) and
the core's events (R114, R126, R146). -/

namespace Sys2Proof.Machine

-- the context record (Table 10.1)

/-- The Foreman's identity (Table 9.1), under which a core reads and writes context records (log entry 19). -/
def midForeman : Nat := 0x45

/-- Writes a capability field of a record with its tag (R195). -/
def recordPutCap (s : State) (h : HalfId) (a : Nat) (c : TCap) : State :=
  match check s h midForeman .write a 16, placeOf s h a with
  | .allow, .canopy true b => memPutCap s h midForeman b c.bytes c.tag false
  | .refuse _ o, _ => noteRefusal s h midForeman a o
  | .drop, _ => noteFenced s h midForeman a
  | .hold g, _ => noteHeld s h g midForeman a none
  | _, _ => s

/-- Reads a capability field of a record with its tag, and whether it came poisoned. -/
def recordGetCap (s : State) (h : HalfId) (a : Nat) : TCap × Bool × State :=
  let r := unitRead s h midForeman a 16
  (capOf r.1.bytes (!r.1.refused && (r.2.half h).mem.tags.contains (a / 16)), r.1.poison, r.2)

/-- A switch-in that read poison in its record: it is recorded, and the thread takes poison consumed before it executes (log entry
143). -/
def poisonedRecord (s : State) (h : HalfId) (t : Nat) : State :=
  let a := recordAddr s h t
  noteRefusedEffect (record s h { code := 0x13, region := (memRegion a).1, index := (memRegion a).2, mid := midForeman, thread := some t, address := a })
    h t 16 0 0 a

/-- Bytes of the decimal save area (Table 10.1, DSAVE). -/
def decimalBytes (c : Core) : List Byte :=
  (c.ds.toList.flatMap fun d => leBytes 16 d.toNat) ++ leBytes 4 c.dsr.toNat ++ zerosB 12

/-- Whether a WAIT writes the decimal context back: its thread owns it and has written it since it became owner (R128). -/
def Core.decimalDue (c : Core) : Bool := c.ownsDec && c.decDirty

/-- Writes the decimal context back to the save area (R128 step 3). -/
def writeBackDecimal (s : State) (k : CoreId) : State :=
  let c := s.core k
  if c.decimalDue then unitWrite s k.half midForeman c.dsave (decimalBytes c) else s

/-- Writes the fields of a record that survive a WAIT (R203 step 4). -/
def writeRecordFields (s : State) (k : CoreId) (t : Nat) (pcc : TCap) : State :=
  let h := k.half
  let c := s.core k
  let a := recordAddr s h t
  let s := recordPutCap s h a pcc
  let s := (List.range 8).foldl (fun s i => recordPutCap s h (a + 0x10 + 16 * i) (c.caps.toList.getD i TCap.null)) s
  let s := recordPutCap s h (a + 0x90) (c.caps.toList.getD 14 TCap.null)
  let s := recordPutCap s h (a + 0xA0) c.rsc
  let xs := (List.range 4).flatMap fun i => leBytes 8 (c.xs.toList.getD i 0).toNat
  unitWrite s h midForeman (a + 0xB0) (xs ++ leBytes 8 (nbits c.sw.toNat 31 0) ++ leBytes 8 c.krr.toNat)

/-- The checks of the writes of R203 steps 3 to 5, before any is made: a refusal is a boundary fault of the WAIT, whose cause names no
operand (ORIGIN 0) and the physical address (log entry 107); while one is held the WAIT waits. -/
def checkRecord (k : CoreId) (t : Nat) : Exec Unit := do
  let c ← getCore k
  let rec each : List (Nat × Nat) → Exec Unit
    | [] => return
    | (a, n) :: ps => do
      let s ← get
      match check s k.half midForeman .write a n (some k.num) with
      | .allow => each ps
      | .hold g => set (noteHeld s k.half g midForeman a (some k.num)); throw .wait
      | .drop => set (noteFenced s k.half midForeman a); throw .wait
      | .refuse d o => set (noteRefusal s k.half midForeman a o (some k.num)); memFault 7 0 d a
  each ((if c.decimalDue then partsOf c.dsave 144 else []) ++ partsOf (recordAddr (← get) k.half t) 256)

/-- The checks of R203 step 2: every cached frame goes to the memory that RSC names, oldest first. -/
def spillAll (k : CoreId) : Exec (List PutPart) := do
  let fs := (← getCore k).rstack.reverse
  let mut ps : List PutPart := []
  for f in fs do
    let ea : Int := ((← getCore k).rsc.cursor : Int) - 32
    let two ← tryCatch (do
        let a ← spillPart k ea f.rpcc 4
        let b ← spillPart k (ea + 16) ⟨BitVec.ofNat 128 (f.cause.toNat * 2 ^ 64 + f.image.toNat), false⟩ 4
        return [a, b])
      (fun e => match e with
        | .trap v _ => throw (.trap 14 (memCause 4 v (unsignedOf 55 ea)))
        | e => throw e)
    ps := ps ++ two
    modCore k fun c => { c with rsc := c.rsc.step (-32) }
  modCore k fun c => { c with rstack := [], reserve := false }
  return ps

-- delivery and the end of a step

/-- C15 of a thread: its record, LD only (Table 10.5). -/
def recordCap (s : State) (h : HalfId) (t : Nat) : TCap := mkCap (permMask [permLD]) (recordAddr s h t) 256

/-- Delivers pending events (R199): the whole of PEND goes into X0 and the record's X0 field, and PEND is cleared. A step
that restarts has the X0 of its record, and what is pending stays so (R211). -/
def deliverEvents (s : State) (k : CoreId) (t : Nat) : State :=
  let h := k.half
  let x := s.thread h t
  let x0 : Word := if x.restart then (s.core k).xs[0] else x.pend.setWidth 64
  let s := if x.restart then s else unitWrite s h midForeman (recordAddr s h t + 0xB0) (leBytes 8 x0.toNat)
  let s := s.setThread h t { x with state := .running, pend := if x.restart then x.pend else 0, restart := false }
  let c := s.core k
  s.setCore k { c with
    xs := (((((c.xs.setIfInBounds 0 x0).setIfInBounds 4 0).setIfInBounds 5 0).setIfInBounds 6 0).setIfInBounds 7 0)
    caps := (List.range 6).foldl (fun v i => v.setIfInBounds (8 + i) TCap.null) (c.caps.setIfInBounds 15 (recordCap s h t))
    stepStart := s.elapsed, limitRaised := false, converted := false, pos := 0
    control := x.ctl, quiet := x.quiet, nr := x.nr }

/-- Whether a READY thread of more urgent priority can take a core (R205). -/
def preempted (s : State) (k : CoreId) (x : Thread) : Bool :=
  (s.half k.half).fmn.threads.any fun p => coreMayTake s k p.2 && groveTakes s k.half k.grove.val && p.2.prio < x.prio

/-- Whether a thread leaves its core at WAIT whatever is pending: its grove drains for a self-test, or the spare stands for no grove
that may run it any more (R362, R365). -/
def leavesCore (s : State) (k : CoreId) (x : Thread) : Bool :=
  inOwnTest s k.half k.grove.val ||
    (k.grove.val == 16 && !(logicalGroves s k.half 16).any fun g => x.gmask.testBit g)

/-- The end of a step at its commit point (R205, R212). A core without a thread becomes free (R201). -/
def finishStep (k : CoreId) (s : State) : State :=
  let h := k.half
  match (s.core k).thread with
  | none => s.setCore k { s.core k with run := .idle }
  | some t =>
    let s := s.upd h fun y => { y with fmn := { y.fmn with
      threads := SMap.set threadDefault y.fmn.threads t { s.thread h t with rolled := false } } }
    let x := s.thread h t
    let free (s : State) : State := s.setCore k { s.core k with run := .idle, thread := none, nr := true, converted := false }
    if x.abortAtCommit then free (becomeAborted s h t (statusOf 7 1))
    else if x.pend &&& x.mask ≠ 0 then
      if preempted s k x || leavesCore s k x then free (makeReady s h t x) else deliverEvents s k t
    else free (s.setThread h t { x with state := .waiting })

/-- The timer of a thread after its WAIT: X3 in µs from the commit point, or none set (R200). -/
def waitTimer (s : State) (k : CoreId) (x : Thread) : Option Nat :=
  let us := min (s.core k).xs[3].toNat 0xFFFFFFFF
  if us = 0 then x.timer else some (s.elapsed + 1000 * us)

/-- The commit point (R203 steps 3 to 6, R205): the writes whose checks have passed, the step's end, and the release of its effects. -/
def commitPoint (k : CoreId) (next : TCap) (s : State) : State :=
  match (s.core k).thread with
  | none => finishStep k s
  | some t =>
    let h := k.half
    let s := writeRecordFields (writeBackDecimal s k) k t next
    let seq := ((s.core k).seq + 1) % 2 ^ 32
    let s := refreshThread (unitWrite s h midForeman (recordAddr s h t + 0xFC) (leBytes 4 seq)) h t
    let s := s.setThread h t { s.thread h t with timer := waitTimer s k (s.thread h t) }
    let s := commitEffects k s
    let s := s.setCore k { s.core k with journal := [], pcc := next, seq }
    drainCore k (finishStep k s)

/-- What precedes the commit point (R203): in `Exec`, so that a fault of steps 1 to 4 is the WAIT's own. The frames are written once every
check has passed, so a WAIT that stops has changed no memory. -/
def commitStep (k : CoreId) (x : Ctx) : Exec Unit := do
  reportImprecise k
  awaitOlder k
  let ps ← spillAll k
  match (← getCore k).thread with
  | some t => checkRecord k t
  | none => pure ()
  putUnpaced k ps
  retire x true
  modify (commitPoint k x.next)

/-- The row of Wait (Tables 3.6 and 3.7). -/
def waitRow : OpInfo := { opcode := 0x01, cls := 16 }

/-- WAIT (R126, R129, R203). -/
def execWait (k : CoreId) (e : Enc) (s : State) : Host.Outcome State Fault Refusal :=
  runInstr k waitRow e (fun _ c _ => c.level == levelM)
    (fun x => do
      let c ← getCore k
      if c.swBit 23 then throw (.trap 17 (holdCause c 3))
      commitStep k x
      return .done false) s

/-- Installs a thread in a core from its record (R204, Table 10.7). A SWIMG that software wrote is installed as its 32 bits stand, with
its reserved bits, HOLD, HCNT and a LEVEL of 0b10, and so is a KRR with its reserved bits: the spec does not say what a switch-in makes of
those (log entry 108). -/
def switchInto (s : State) (k : CoreId) (t : Nat) : State :=
  let h := k.half
  let a := recordAddr s h t
  let (pcc, p1, s) := recordGetCap s h a
  let (cs, p2, s) := (List.range 8).foldl (fun (acc : List TCap × Bool × State) i =>
    let r := recordGetCap acc.2.2 h (a + 0x10 + 16 * i)
    (acc.1 ++ [r.1], acc.2.1 || r.2.1, r.2.2)) ([], false, s)
  let (dsc, p3, s) := recordGetCap s h (a + 0x90)
  let (rsc, p4, s) := recordGetCap s h (a + 0xA0)
  let (r, s) := unitRead s h midForeman (a + 0xB0) 80
  let s := if p1 || p2 || p3 || p4 || r.poison then poisonedRecord s h t else s
  let s := s.upd h fun y => { y with fmn := { y.fmn with
    threads := SMap.set threadDefault y.fmn.threads t { s.thread h t with timer := none } } }
  let b := r.bytes
  let c := s.core k
  let caps := (List.range 8).foldl (fun (v : Vector TCap 16) i => v.setIfInBounds i (cs.getD i TCap.null)) (c.caps.setIfInBounds 14 dsc)
  let xs := (List.range 4).foldl (fun (v : Vector Word 8) i => v.setIfInBounds i (BitVec.ofNat 64 (fieldLE b (8 * i) 8))) c.xs
  let xlat := fieldLE b 0x30 8
  deliverEvents (s.setCore k { c with
    run := .running, thread := some t, pcc, caps, xs, rsc, rstack := [], reserve := false
    sw := BitVec.ofNat 64 (fieldLE b 0x20 4), krr := BitVec.ofNat 64 (fieldLE b 0x28 8)
    root := nbits xlat 51 16 * 1024, ctx := BitVec.ofNat 16 (nbits xlat 15 0)
    seq := fieldLE b 0x4C 4, dsave := nbits (fieldLE b 0x38 8) 45 4 * 16
    journal := [], effects := [], posts := [], remote := [], popped := [], issued := false, marks := [], report := none, drain := false, queued := 0, pacedTicks := 0
    perf := c.perf.set! 15 (c.perf[15]! + 1) }) k t

/-- A free core takes a READY thread (R201); in Watch cores sleep (R409). While the read of its record is held the thread stays READY
(R191). -/
def execSwitchIn (k : CoreId) (s : State) : Host.Outcome State Fault Refusal :=
  if (s.core k).run = .idle ∧ s.flag k.half Reg.FMN_CTRL_EN ∧ groveTakes s k.half k.grove.val ∧ !s.inMode k.half .watch then
    match pickThread s k with
    | some t => .next (unitCmd k.half (fun s => switchInto s k t) s)
    | none => .next s
  else .next s

-- core events

/-- The trace entry of an interrupt, where one was taken. -/
def irqTraced (k : CoreId) (s t : State) : State := if (nextIrq (s.core k)).isSome then traced k t else t

/-- A pending interrupt is taken at an instruction boundary (R114, R117). -/
def execInterruptEntry (k : CoreId) (s : State) : Host.Outcome State Fault Refusal :=
  let waiting := (s.half k.half).bom.outstanding.any fun o => o.core == some k.num
  if canExecute s k && !waiting && (s.core k).remote.isEmpty && (s.core k).popped.isEmpty then .next (irqTraced k s (takeIrq k s)) else .next s

/-- Whether a core's HOLD region has run for 256 timebase ticks (R125); on a paced grove its length is the sum of its slots, which each
instruction checks (R145). -/
def holdSpent (s : State) (k : CoreId) : Bool :=
  (s.core k).swBit 23 && !isPaced s k && holdLimit s k

/-- The tick bound of a HOLD region (R126). -/
def execHoldOverrun (k : CoreId) (s : State) : Host.Outcome State Fault Refusal :=
  let c := s.core k
  if canExecute s k && holdSpent s k then .next (traced k (takeTrap k 17 (holdCause c 1) c.pcc s)) else .next s

/-- A pace miss on a paced grove (R146): the late instruction has completed, and vector 24 is taken at the next boundary. -/
def execPaceMiss (k : CoreId) (late : Nat) (s : State) : Host.Outcome State Fault Refusal :=
  let g := k.grove.val
  let take (s : State) : State :=
    let s := (s.setFld k.half (Reg.GRV_PSTAT_MISS.grove g) 1).incFld k.half (Reg.GRV_PSTAT_MISSES.grove g)
    let c := s.core k
    let s := s.setCore k { c with perf := c.perf.set! 14 (c.perf[14]! + 1) }
    let cause := BitVec.ofNat 64 (min late 65535 * 2 ^ 24 + c.lastClass * 2 ^ 16 + c.lastOpcode.toNat)
    traced k (takeTrap k 24 cause c.pcc s)
  .next (if canExecute s k && isPaced s k then unitCmd k.half take s else s)

/-- A step that has run its limit without a WAIT (R202): vector 32 becomes pending, once per step. -/
def execStepLimit (k : CoreId) (s : State) : Host.Outcome State Fault Refusal :=
  let c := s.core k
  let lim := s.fld k.half Reg.FMN_STEPLIM_LIMIT_US
  match c.thread with
  | some t =>
    if lim ≠ 0 ∧ c.run = .running ∧ !c.limitRaised ∧ lim * 1000 ≤ s.elapsed - c.stepStart then
      let cause := BitVec.ofNat 64 ((s.elapsed - c.stepStart) / 1000 % 2 ^ 32 * 2 ^ 32 + t)
      .next ((s.setCore k { c with irqs := c.irqs ++ [(32, cause)], limitRaised := true }).incFld k.half Reg.FMN_CNT_STEPLIM)
    else .next s
  | none => .next s

end Sys2Proof.Machine
end

