-- ==== Sys2Proof/Machine/Dispatch.lean ====
section
/-! DEFINITION. The table of meanings: one arm per command, each a direct call of that command's own definition. -/

namespace Sys2Proof.Machine

def exec (i : Instr) (s : State) : Host.Outcome State Fault Refusal :=
  match i with
  -- Aboux/C instructions (chapters 3 to 7)
  | .nop k e => Sys2Proof.Machine.execNop k e s
  | .wait k e => Sys2Proof.Machine.execWait k e s
  | .fence k e => Sys2Proof.Machine.execFence k e s
  | .fenceE k e => Sys2Proof.Machine.execFenceE k e s
  | .svc k e => Sys2Proof.Machine.execSvc k e s
  | .mcall k e => Sys2Proof.Machine.execMcall k e s
  | .ret k e => Sys2Proof.Machine.execRet k e s
  | .reti k e => Sys2Proof.Machine.execReti k e s
  | .bpt k e => Sys2Proof.Machine.execBpt k e s
  | .mov k e => Sys2Proof.Machine.execMov k e s
  | .movz k e => Sys2Proof.Machine.execMovz k e s
  | .movs k e => Sys2Proof.Machine.execMovs k e s
  | .clr k e => Sys2Proof.Machine.execClr k e s
  | .xchg k e => Sys2Proof.Machine.execXchg k e s
  | .swapb k e => Sys2Proof.Machine.execSwapb k e s
  | .add k e => Sys2Proof.Machine.execAdd k e s
  | .adc k e => Sys2Proof.Machine.execAdc k e s
  | .sub k e => Sys2Proof.Machine.execSub k e s
  | .sbc k e => Sys2Proof.Machine.execSbc k e s
  | .neg k e => Sys2Proof.Machine.execNeg k e s
  | .inc k e => Sys2Proof.Machine.execInc k e s
  | .dec k e => Sys2Proof.Machine.execDec k e s
  | .cmp k e => Sys2Proof.Machine.execCmp k e s
  | .and k e => Sys2Proof.Machine.execAnd k e s
  | .or k e => Sys2Proof.Machine.execOr k e s
  | .xor k e => Sys2Proof.Machine.execXor k e s
  | .not k e => Sys2Proof.Machine.execNot k e s
  | .tst k e => Sys2Proof.Machine.execTst k e s
  | .shl k e => Sys2Proof.Machine.execShl k e s
  | .shr k e => Sys2Proof.Machine.execShr k e s
  | .sar k e => Sys2Proof.Machine.execSar k e s
  | .rol k e => Sys2Proof.Machine.execRol k e s
  | .ror k e => Sys2Proof.Machine.execRor k e s
  | .mul k e => Sys2Proof.Machine.execMul k e s
  | .muluH k e => Sys2Proof.Machine.execMuluH k e s
  | .mulsH k e => Sys2Proof.Machine.execMulsH k e s
  | .div k e => Sys2Proof.Machine.execDiv k e s
  | .divu k e => Sys2Proof.Machine.execDivu k e s
  | .rem k e => Sys2Proof.Machine.execRem k e s
  | .remu k e => Sys2Proof.Machine.execRemu k e s
  | .longOperationComplete k n => Sys2Proof.Machine.execLongOperationComplete k n s
  | .daa k e => Sys2Proof.Machine.execDaa k e s
  | .addp k e => Sys2Proof.Machine.execAddp k e s
  | .subp k e => Sys2Proof.Machine.execSubp k e s
  | .cmpp k e => Sys2Proof.Machine.execCmpp k e s
  | .cvtpb k e => Sys2Proof.Machine.execCvtpb k e s
  | .cvtbp k e => Sys2Proof.Machine.execCvtbp k e s
  | .cvtpd k e => Sys2Proof.Machine.execCvtpd k e s
  | .cvtdp k e => Sys2Proof.Machine.execCvtdp k e s
  | .bcc k cc wide e => Sys2Proof.Machine.execBcc k cc wide e s
  | .brl k e => Sys2Proof.Machine.execBrl k e s
  | .jmp k e => Sys2Proof.Machine.execJmp k e s
  | .call k e => Sys2Proof.Machine.execCall k e s
  | .jmpa k e => Sys2Proof.Machine.execJmpa k e s
  | .calla k e => Sys2Proof.Machine.execCalla k e s
  | .callr k e => Sys2Proof.Machine.execCallr k e s
  | .callrl k e => Sys2Proof.Machine.execCallrl k e s
  | .rdsr k e => Sys2Proof.Machine.execRdsr k e s
  | .wrsr k e => Sys2Proof.Machine.execWrsr k e s
  | .rdsc k e => Sys2Proof.Machine.execRdsc k e s
  | .wrsc k e => Sys2Proof.Machine.execWrsc k e s
  | .rdsw k e => Sys2Proof.Machine.execRdsw k e s
  | .wrsw k e => Sys2Proof.Machine.execWrsw k e s
  | .ei k e => Sys2Proof.Machine.execEi k e s
  | .di k e => Sys2Proof.Machine.execDi k e s
  | .cas k e => Sys2Proof.Machine.execCas k e s
  | .ccopy k e => Sys2Proof.Machine.execCcopy k e s
  | .cstep k e => Sys2Proof.Machine.execCstep k e s
  | .cplace k e => Sys2Proof.Machine.execCplace k e s
  | .cfit k e => Sys2Proof.Machine.execCfit k e s
  | .cfitx k e => Sys2Proof.Machine.execCfitx k e s
  | .cdrop k e => Sys2Proof.Machine.execCdrop k e s
  | .cmode k e => Sys2Proof.Machine.execCmode k e s
  | .cbrand k e => Sys2Proof.Machine.execCbrand k e s
  | .cunbr k e => Sys2Proof.Machine.execCunbr k e s
  | .csent k e => Sys2Proof.Machine.execCsent k e s
  | .cvoid k e => Sys2Proof.Machine.execCvoid k e s
  | .cldc k e => Sys2Proof.Machine.execCldc k e s
  | .cstc k e => Sys2Proof.Machine.execCstc k e s
  | .crbase k e => Sys2Proof.Machine.execCrbase k e s
  | .crtop k e => Sys2Proof.Machine.execCrtop k e s
  | .crspan k e => Sys2Proof.Machine.execCrspan k e s
  | .crperm k e => Sys2Proof.Machine.execCrperm k e s
  | .crotype k e => Sys2Proof.Machine.execCrotype k e s
  | .crtag k e => Sys2Proof.Machine.execCrtag k e s
  | .crnode k e => Sys2Proof.Machine.execCrnode k e s
  | .crepoch k e => Sys2Proof.Machine.execCrepoch k e s
  | .dadd k e => Sys2Proof.Machine.execDadd k e s
  | .dsub k e => Sys2Proof.Machine.execDsub k e s
  | .dmul k e => Sys2Proof.Machine.execDmul k e s
  | .ddiv k e => Sys2Proof.Machine.execDdiv k e s
  | .dcmp k e => Sys2Proof.Machine.execDcmp k e s
  | .dquant k e => Sys2Proof.Machine.execDquant k e s
  | .drnd k e => Sys2Proof.Machine.execDrnd k e s
  | .dneg k e => Sys2Proof.Machine.execDneg k e s
  | .dabs k e => Sys2Proof.Machine.execDabs k e s
  | .dcvti k e => Sys2Proof.Machine.execDcvti k e s
  | .dcvtf k e => Sys2Proof.Machine.execDcvtf k e s
  | .dcvtw k e => Sys2Proof.Machine.execDcvtw k e s
  | .fadd k e => Sys2Proof.Machine.execFadd k e s
  | .fsub k e => Sys2Proof.Machine.execFsub k e s
  | .fmul k e => Sys2Proof.Machine.execFmul k e s
  | .fdiv k e => Sys2Proof.Machine.execFdiv k e s
  | .fcmp k e => Sys2Proof.Machine.execFcmp k e s
  | .fcvtd k e => Sys2Proof.Machine.execFcvtd k e s
  | .fcvtb k e => Sys2Proof.Machine.execFcvtb k e s
  | .tlbi k e => Sys2Proof.Machine.execTlbi k e s
  | .tlbia k e => Sys2Proof.Machine.execTlbia k e s
  | .tlbik k e => Sys2Proof.Machine.execTlbik k e s
  | .wci k e => Sys2Proof.Machine.execWci k e s
  | .pmcrd k e => Sys2Proof.Machine.execPmcrd k e s
  -- core events (chapters 5, 6 and 10)
  | .interruptEntry k => Sys2Proof.Machine.execInterruptEntry k s
  | .holdOverrun k => Sys2Proof.Machine.execHoldOverrun k s
  | .paceMiss k late => Sys2Proof.Machine.execPaceMiss k late s
  | .pacedEnable h m g v => Sys2Proof.Machine.execPacedEnable h m g v s
  | .pacedCopyComplete h g => Sys2Proof.Machine.execPacedCopyComplete h g s
  -- Foreman (chapter 10)
  | .start h m thread => Sys2Proof.Machine.execStart h m thread s
  | .abortThread h m thread => Sys2Proof.Machine.execAbortThread h m thread s
  | .abortCompartment h m comp => Sys2Proof.Machine.execAbortCompartment h m comp s
  | .free h m thread => Sys2Proof.Machine.execFree h m thread s
  | .signal h m thread => Sys2Proof.Machine.execSignal h m thread s
  | .timer h thread => Sys2Proof.Machine.execTimer h thread s
  | .switchIn k => Sys2Proof.Machine.execSwitchIn k s
  | .stepLimit k => Sys2Proof.Machine.execStepLimit k s
  -- set-up space and boundary table (chapters 0 and 9)
  | .registerWrite h m addr size v => Sys2Proof.Machine.execRegisterWrite h m addr size v s
  | .boundaryEntryWrite h m n word v => Sys2Proof.Machine.execBoundaryEntryWrite h m n word v s
  | .groupDisable h m g => Sys2Proof.Machine.execGroupDisable h m g s
  | .groupDrained h g => Sys2Proof.Machine.execGroupDrained h g s
  | .groupEnable h m g => Sys2Proof.Machine.execGroupEnable h m g s
  | .boundaryHoldTimeout h => Sys2Proof.Machine.execBoundaryHoldTimeout h s
  | .bndFence h m mask => Sys2Proof.Machine.execBndFence h m mask s
  -- fault manager (chapter 17)
  | .codewordViolation h r index => Sys2Proof.Machine.execCodewordViolation h r index s
  | .groveTakeover h g unreadable => Sys2Proof.Machine.execGroveTakeover h g unreadable s
  | .pacedAreaCopyComplete h g fromCodeStore => Sys2Proof.Machine.execPacedAreaCopyComplete h g fromCodeStore s
  | .stall h r index handshake => Sys2Proof.Machine.execStall h r index handshake s
  | .rotationWindow h => Sys2Proof.Machine.execRotationWindow h s
  | .drainEnd h => Sys2Proof.Machine.execDrainEnd h s
  | .selfTestComplete h g pass => Sys2Proof.Machine.execSelfTestComplete h g pass s
  | .returnEnd h => Sys2Proof.Machine.execReturnEnd h s
  | .suspensionWindow h => Sys2Proof.Machine.execSuspensionWindow h s
  | .faultInject h m v => Sys2Proof.Machine.execFaultInject h m v s
  | .fltRetest h m grove => Sys2Proof.Machine.execFltRetest h m grove s
  | .retestComplete h pass => Sys2Proof.Machine.execRetestComplete h pass s
  | .claim h both => Sys2Proof.Machine.execClaim h both s
  | .renew h => Sys2Proof.Machine.execRenew h s
  | .latchRelease h => Sys2Proof.Machine.execLatchRelease h s
  | .leaseExpiry => Sys2Proof.Machine.execLeaseExpiry s
  | .lockstep h cause => Sys2Proof.Machine.execLockstep h cause s
  | .seamLoss => Sys2Proof.Machine.execSeamLoss s
  | .oscFail => Sys2Proof.Machine.execOscFail s
  | .scrubRead h st addr => Sys2Proof.Machine.execScrubRead h st addr s
  | .scrubLate h store => Sys2Proof.Machine.execScrubLate h store s
  | .codestorePatrolRead h line errs otherErrs => Sys2Proof.Machine.execCodestorePatrolRead h line errs otherErrs s
  -- Ethernet ports and Flume (chapter 11)
  | .frameReceive h sub frame => Sys2Proof.Machine.execFrameReceive h sub frame s
  | .pfcRepeat h sub prio => Sys2Proof.Machine.execPfcRepeat h sub prio s
  | .pauseFrame h sub quanta => Sys2Proof.Machine.execPauseFrame h sub quanta s
  | .pfcFrame h sub enable times => Sys2Proof.Machine.execPfcFrame h sub enable times s
  | .pauseTimeExpiry h sub prio => Sys2Proof.Machine.execPauseTimeExpiry h sub prio s
  | .ethModeWrite h m v => Sys2Proof.Machine.execEthModeWrite h m v s
  | .autoNegotiationComplete h sub common => Sys2Proof.Machine.execAutoNegotiationComplete h sub common s
  | .linkUp h sub => Sys2Proof.Machine.execLinkUp h sub s
  | .linkLoss h sub => Sys2Proof.Machine.execLinkLoss h sub s
  | .flumeSessionLookup h => Sys2Proof.Machine.execFlumeSessionLookup h s
  | .reassemblyTimeout h n => Sys2Proof.Machine.execReassemblyTimeout h n s
  | .retransmissionTimeout h session => Sys2Proof.Machine.execRetransmissionTimeout h session s
  | .delayedAckTimeout h session => Sys2Proof.Machine.execDelayedAckTimeout h session s
  | .keepaliveTimeout h session => Sys2Proof.Machine.execKeepaliveTimeout h session s
  | .udpIdleTimeout h session => Sys2Proof.Machine.execUdpIdleTimeout h session s
  | .coldSessionFetch h session => Sys2Proof.Machine.execColdSessionFetch h session s
  | .openSession h m addr session => Sys2Proof.Machine.execOpenSession h m addr session s
  | .close h m session => Sys2Proof.Machine.execClose h m session s
  | .abort h m session => Sys2Proof.Machine.execAbort h m session s
  | .path0 h m session => Sys2Proof.Machine.execPath0 h m session s
  | .path1 h m session => Sys2Proof.Machine.execPath1 h m session s
  | .release h m session => Sys2Proof.Machine.execRelease h m session s
  | .frameTransmit h sub => Sys2Proof.Machine.execFrameTransmit h sub s
  | .tmbStep h m v => Sys2Proof.Machine.execTmbStep h m v s
  | .tmbTxts0Read h m => Sys2Proof.Machine.execTmbTxts0Read h m s
  | .ppsIn => Sys2Proof.Machine.execPpsIn s
  | .ppsOut => Sys2Proof.Machine.execPpsOut s
  | .ppsOutFall => Sys2Proof.Machine.execPpsOutFall s
  -- Kiln (chapter 12)
  | .recordUnprotect h session => Sys2Proof.Machine.execRecordUnprotect h session s
  | .recordProtect h session => Sys2Proof.Machine.execRecordProtect h session s
  | .primitivePost h m prod => Sys2Proof.Machine.execPrimitivePost h m prod s
  | .rand h => Sys2Proof.Machine.execRand h s
  | .keygen h => Sys2Proof.Machine.execKeygen h s
  | .ecdh h => Sys2Proof.Machine.execEcdh h s
  | .hash h => Sys2Proof.Machine.execHash h s
  | .extract h => Sys2Proof.Machine.execExtract h s
  | .expand h => Sys2Proof.Machine.execExpand h s
  | .hmac h => Sys2Proof.Machine.execHmac h s
  | .sign h => Sys2Proof.Machine.execSign h s
  | .verify h => Sys2Proof.Machine.execVerify h s
  | .install h => Sys2Proof.Machine.execInstall h s
  | .kilnFree h => Sys2Proof.Machine.execKilnFree h s
  | .unwrap h m slot addr => Sys2Proof.Machine.execUnwrap h m slot addr s
  | .clear h m slot => Sys2Proof.Machine.execClear h m slot s
  | .done h m => Sys2Proof.Machine.execDone h m s
  | .entropyFail h => Sys2Proof.Machine.execEntropyFail h s
  | .drbgReseed h => Sys2Proof.Machine.execDrbgReseed h s
  -- Mill and Scaler (chapters 13 and 14)
  | .millParseJob h session => Sys2Proof.Machine.execMillParseJob h session s
  | .frameBuild h session => Sys2Proof.Machine.execFrameBuild h session s
  | .load h m slot addr => Sys2Proof.Machine.execLoad h m slot addr s
  | .unload h m slot => Sys2Proof.Machine.execUnload h m slot s
  | .scalerJob h session => Sys2Proof.Machine.execScalerJob h session s
  | .sweepClose h cls => Sys2Proof.Machine.execSweepClose h cls s
  | .set h m point => Sys2Proof.Machine.execSet h m point s
  | .read h m point => Sys2Proof.Machine.execRead h m point s
  | .flush h m point => Sys2Proof.Machine.execFlush h m point s
  | .dropCurve h m slot => Sys2Proof.Machine.execDropCurve h m slot s
  | .dropProgram h m slot => Sys2Proof.Machine.execDropProgram h m slot s
  -- host interface and rings (chapter 15)
  | .doorbell h ring v => Sys2Proof.Machine.execDoorbell h ring v s
  | .descriptorFetch h => Sys2Proof.Machine.execDescriptorFetch h s
  | .acceptance h ring => Sys2Proof.Machine.execAcceptance h ring s
  | .createRing h tag => Sys2Proof.Machine.execCreateRing h tag s
  | .destroyRing h tag => Sys2Proof.Machine.execDestroyRing h tag s
  | .ackAttn h tag => Sys2Proof.Machine.execAckAttn h tag s
  | .queryRing h tag => Sys2Proof.Machine.execQueryRing h tag s
  | .nopCommand h tag => Sys2Proof.Machine.execNopCommand h tag s
  | .send h tag => Sys2Proof.Machine.execSend h tag s
  | .deliver h tag => Sys2Proof.Machine.execDeliver h tag s
  | .raw h tag => Sys2Proof.Machine.execRaw h tag s
  | .group h tag => Sys2Proof.Machine.execGroup h tag s
  | .replyRecordWrite h ring => Sys2Proof.Machine.execReplyRecordWrite h ring s
  | .replyPost h => Sys2Proof.Machine.execReplyPost h s
  | .framePost h => Sys2Proof.Machine.execFramePost h s
  | .msixModerationTimeout h ring => Sys2Proof.Machine.execMsixModerationTimeout h ring s
  | .ringEngineEnable h m => Sys2Proof.Machine.execRingEngineEnable h m s
  | .ringEngineDisable h m => Sys2Proof.Machine.execRingEngineDisable h m s
  | .hifNotice h m => Sys2Proof.Machine.execHifNotice h m s
  | .hostInterfaceReset h => Sys2Proof.Machine.execHostInterfaceReset h s
  | .bdfCapture h bdf => Sys2Proof.Machine.execBdfCapture h bdf s
  | .completionTimeout h line => Sys2Proof.Machine.execCompletionTimeout h line s
  | .dedupExpiry h cmdid => Sys2Proof.Machine.execDedupExpiry h cmdid s
  | .partTimeout h tag part => Sys2Proof.Machine.execPartTimeout h tag part s
  -- Boom fabric (chapter 16)
  | .linkTrained h l => Sys2Proof.Machine.execLinkTrained h l s
  | .linkTrainRetry h l => Sys2Proof.Machine.execLinkTrainRetry h l s
  | .flitReceive h l flit => Sys2Proof.Machine.execFlitReceive h l flit s
  | .nak h l ack => Sys2Proof.Machine.execNak h l ack s
  | .linkDown h l cause => Sys2Proof.Machine.execLinkDown h l cause s
  | .rd h => Sys2Proof.Machine.execRd h s
  | .wr h => Sys2Proof.Machine.execWr h s
  | .atom h => Sys2Proof.Machine.execAtom h s
  | .eff h => Sys2Proof.Machine.execEff h s
  | .sig h => Sys2Proof.Machine.execSig h s
  | .rsp h => Sys2Proof.Machine.execRsp h s
  | .part h => Sys2Proof.Machine.execPart h s
  | .pres h => Sys2Proof.Machine.execPres h s
  | .mirr h => Sys2Proof.Machine.execMirr h s
  | .mack h => Sys2Proof.Machine.execMack h s
  | .keyx h => Sys2Proof.Machine.execKeyx h s
  | .cru h src msg => Sys2Proof.Machine.execCru h src msg s
  | .excluded h => Sys2Proof.Machine.execExcluded h s
  | .hb h => Sys2Proof.Machine.execHb h s
  | .heartbeatSend h => Sys2Proof.Machine.execHeartbeatSend h s
  | .busyResend h txn => Sys2Proof.Machine.execBusyResend h txn s
  | .nodeDead h node => Sys2Proof.Machine.execNodeDead h node s
  | .silence h => Sys2Proof.Machine.execSilence h s
  | .adoption h => Sys2Proof.Machine.execAdoption h s
  | .bomFinv h m => Sys2Proof.Machine.execBomFinv h m s
  | .bomXsig h m node thread => Sys2Proof.Machine.execBomXsig h m node thread s
  -- root-firmware services, life-cycle and tamper (chapter 18)
  | .ctrRead k => Sys2Proof.Machine.execCtrRead k s
  | .ctrAdvance k => Sys2Proof.Machine.execCtrAdvance k s
  | .svnCommit k => Sys2Proof.Machine.execSvnCommit k s
  | .update k => Sys2Proof.Machine.execUpdate k s
  | .lcRequest k => Sys2Proof.Machine.execLcRequest k s
  | .safe k => Sys2Proof.Machine.execSafe k s
  | .activate k => Sys2Proof.Machine.execActivate k s
  | .lcsXreq h m addr => Sys2Proof.Machine.execLcsXreq h m addr s
  | .lcsCinc h m counter target => Sys2Proof.Machine.execLcsCinc h m counter target s
  | .tamperAlarm cause => Sys2Proof.Machine.execTamperAlarm cause s
  -- modes, power and start-up (chapter 19)
  | .powerOnReset => Sys2Proof.Machine.execPowerOnReset s
  | .warmReset => Sys2Proof.Machine.execWarmReset s
  | .warm h m => Sys2Proof.Machine.execWarm h m s
  | .resetRelease => Sys2Proof.Machine.execResetRelease s
  | .ddrTrainingComplete h pop => Sys2Proof.Machine.execDdrTrainingComplete h pop s
  | .ddrInitComplete h => Sys2Proof.Machine.execDdrInitComplete h s
  | .coreRelease => Sys2Proof.Machine.execCoreRelease s
  | .railOutOfRange rail => Sys2Proof.Machine.execRailOutOfRange rail s
  | .watchEntry => Sys2Proof.Machine.execWatchEntry s
  | .wake src => Sys2Proof.Machine.execWake src s
  | .wakeComplete => Sys2Proof.Machine.execWakeComplete s
  | .voltageStep h mv => Sys2Proof.Machine.execVoltageStep h mv s
  | .pmbusPoll h ok vout tj stepPs => Sys2Proof.Machine.execPmbusPoll h ok vout tj stepPs s
  -- low-speed I/O, TAP and debug (chapter 20)
  | .smbReadIdv => Sys2Proof.Machine.execSmbReadIdv s
  | .smbReadPwrStat h => Sys2Proof.Machine.execSmbReadPwrStat h s
  | .smbReadFltGuar => Sys2Proof.Machine.execSmbReadFltGuar s
  | .smbReadTmpAlarm => Sys2Proof.Machine.execSmbReadTmpAlarm s
  | .smbReadLcsState => Sys2Proof.Machine.execSmbReadLcsState s
  | .smbWake => Sys2Proof.Machine.execSmbWake s
  | .spiGo h m v => Sys2Proof.Machine.execSpiGo h m v s
  | .spiTransferComplete rx => Sys2Proof.Machine.execSpiTransferComplete rx s
  | .uartDataWrite h m n v => Sys2Proof.Machine.execUartDataWrite h m n v s
  | .uartDataRead h m n => Sys2Proof.Machine.execUartDataRead h m n s
  | .uartReceive n b => Sys2Proof.Machine.execUartReceive n b s
  | .uartTransmit n => Sys2Proof.Machine.execUartTransmit n s
  | .tapReset => Sys2Proof.Machine.execTapReset s
  | .bypass h => Sys2Proof.Machine.execBypass h s
  | .idcode h => Sys2Proof.Machine.execIdcode h s
  | .samplePreload h => Sys2Proof.Machine.execSamplePreload h s
  | .extest h => Sys2Proof.Machine.execExtest h s
  | .highz h => Sys2Proof.Machine.execHighz h s
  | .clamp h => Sys2Proof.Machine.execClamp h s
  | .extestPulse h => Sys2Proof.Machine.execExtestPulse h s
  | .extestTrain h => Sys2Proof.Machine.execExtestTrain h s
  | .dbgAuth h signature scope => Sys2Proof.Machine.execDbgAuth h signature scope s
  | .dbgAccessRead h addr => Sys2Proof.Machine.execDbgAccessRead h addr s
  | .dbgAccessWrite h addr data => Sys2Proof.Machine.execDbgAccessWrite h addr data s
  | .bootStageComplete stage ok => Sys2Proof.Machine.execBootStageComplete stage ok s
  | .lifeCycleTransitionComplete ok => Sys2Proof.Machine.execLifeCycleTransitionComplete ok s
  | .msixVectorUnmask h vector => Sys2Proof.Machine.execMsixVectorUnmask h vector s
  | .keptResponseExpiry h src txn => Sys2Proof.Machine.execKeptResponseExpiry h src txn s
  | .pcieLinkUp h => Sys2Proof.Machine.execPcieLinkUp h s

end Sys2Proof.Machine
end

