-- ==== Sys2Proof/Machine/Tick.lean ====
section
/-! DEFINITION. What one tick of the 1 ns clock does (R238, R240, R148, R356): it is what step does on an empty queue (log
entry 4). Nothing counts in Reset, nor once the timebase has failed (R374). What waits within a half goes on at a tick too: the writes that
a disabled group held and the units' set-up writes (log entry 97), the effects that cores have committed (R207), and the lines that
leave an L2 (R171, log entry 111). -/

namespace Sys2Proof.Machine

/-- Counts that one nominal tick is worth, and what the trim carries over (R240). -/
def trimTick (acc trim : Int) : Nat × Int :=
  let a := acc + trim
  if (2 ^ 32 : Int) ≤ a then (2, a - 2 ^ 32) else if a < 0 then (0, a + 2 ^ 32) else (1, a)

/-- The timebase and the elapsed count advance by n, one at a time; `ppsEdge` notes an edge of PPS_OUT (R238). -/
def advanceTime : Nat → State → State
  | 0, s => s
  | n + 1, s =>
    let t := s.timebase + 1
    advanceTime n { s with timebase := t, elapsed := s.elapsed + 1, ppsEdge := s.ppsEdge || ppsValue s t }

/-- Counter 1 of the cores that are not asleep: cores sleep in Watch (R148, R408). -/
def countAwake (n : Nat) (h : HalfId) (s : State) : State :=
  if s.inMode h .watch then s
  else s.upd h fun x => { x with
    cores := SMap.change coreDefault (fun _ c => if c.run = .held then c
      else { c with perf := c.perf.set! 1 (c.perf[1]! + BitVec.ofNat 64 n) }) x.cores }

/-- A write that waits is checked again (R191): performed, refused, or kept while its group stays disabled. -/
def retryPosted (h : HalfId) (s : State) (p : Nat × Nat × List Byte) : State :=
  if setupOrHole (placeOf s h p.2.1) then setupWrite s h p.1 p.2.1 p.2.2
  else
    match check s h p.1 .write p.2.1 p.2.2.length with
    | .hold g => postHeld (noteHeld s h g p.1 p.2.1 none) h p.1 p.2.1 p.2.2 (.hold g)
    | _ => unitWrite s h p.1 p.2.1 p.2.2

/-- The events that follow writes, once none waits any more (R179). -/
def raiseSignals (h : HalfId) (s : State) : State :=
  if !(s.half h).bnd.posted.isEmpty then s else
  (s.half h).bnd.signals.foldl (fun s e => fmnEvent s h e.1 e.2) (s.upd h fun x => { x with bnd := { x.bnd with signals := [] } })

/-- All writes that wait, in arrival order. -/
def pumpPosted (h : HalfId) (s : State) : State :=
  raiseSignals h ((s.half h).bnd.posted.foldl (retryPosted h) (s.upd h fun x => { x with bnd := { x.bnd with posted := [] } }))

/-- The core with a number in its half. -/
def coreOfNum (h : HalfId) (n : Nat) : CoreId := ⟨h, Fin.ofNat 17 (n / 8), Fin.ofNat 8 n⟩

/-- The effects that a core has committed go to their targets, as far as each can (R207); those of a fenced grove come from the recovery
port, in its takeover where one is due (R211, R214). -/
def drainOne (h : HalfId) (s : State) (n : Nat) : State :=
  if recoveringGrove s h (n / 8) then s
  else if fenced s h (n / 8) then
    let c := s.coreN h n
    c.handed.foldl (releaseOne (coreOfNum h n)) (s.setCoreN h n { c with handed := [] })
  else drainCore (coreOfNum h n) s

/-- All effects past their commit point. -/
def drainCores (h : HalfId) (s : State) : State :=
  ((s.half h).cores.filter fun p => !p.2.handed.isEmpty).foldl (fun s p => drainOne h s p.1) s

/-- A line that an L2 holds may leave it at any time: whether and which is a free value (log entry 111). -/
def evictAny (h : HalfId) (s : State) : State :=
  let held := (s.half h).mem.held
  match held[s.takeFree.1.toNat / 2 % held.length]? with
  | some l => if s.takeFree.1.toNat % 2 = 0 then evictLine s.takeFree.2 h l else s.takeFree.2
  | none => s

/-- What goes on in one half besides the clock. -/
def halfTick (h : HalfId) (s : State) : State := evictAny h (drainCores h (pumpPosted h (holderRead h s)))

/-- Notes since when the idle conditions of R408 have held on both halves. -/
def noteIdle (s : State) : State :=
  let idle := s.inMode .east .run && s.inMode .west .run && idleHalf s .east && idleHalf s .west
  { s with idleAt := if idle then (if s.idleAt = 0 then s.elapsed + 1 else s.idleAt) else 0 }

/-- The clock's part of a tick. -/
def clockTick (s : State) : State :=
  let r := trimTick s.trimAcc (signedOf 32 (s.fld .east Reg.TMB_TRIM_TRIM))
  let s := advanceTime r.1 { s with trimAcc := r.2, ppsEdge := false }
  let s := countAwake r.1 .west (countAwake r.1 .east s)
  noteIdle (updateGuar (updateGuar s .east) .west)

/-- One tick. -/
def tick (s : State) : State :=
  if s.east.mode = .reset then s
  else halfTick .west (halfTick .east (if s.timeFailed then s else clockTick s))

end Sys2Proof.Machine
end

