-- ==== Sys2Proof/Machine/Rows.lean ====
section
/-! DEFINITION. The opcode table of the cores (Tables 3.6 and 3.7): the core, the row and the encoding of a command that is an
Aboux/C instruction, and the instruction that bytes spell. -/

namespace Sys2Proof.Machine

/-- The row of an instruction's command; none for a command that is no instruction. -/
def rowOf : Instr → Option (CoreId × OpInfo × Enc)
  | .nop k e => some (k, nopRow, e)
  | .wait k e => some (k, waitRow, e)
  | .fence k e => some (k, fenceRow, e)
  | .fenceE k e => some (k, fenceERow, e)
  | .svc k e => some (k, svcRow, e)
  | .mcall k e => some (k, mcallRow, e)
  | .ret k e => some (k, retRow, e)
  | .reti k e => some (k, retiRow, e)
  | .bpt k e => some (k, bptRow, e)
  | .mov k e => some (k, movRow, e)
  | .movz k e => some (k, movzRow, e)
  | .movs k e => some (k, movsRow, e)
  | .clr k e => some (k, clrRow, e)
  | .xchg k e => some (k, xchgRow, e)
  | .swapb k e => some (k, swapbRow, e)
  | .add k e => some (k, addRow, e)
  | .adc k e => some (k, adcRow, e)
  | .sub k e => some (k, subRow, e)
  | .sbc k e => some (k, sbcRow, e)
  | .neg k e => some (k, negRow, e)
  | .inc k e => some (k, incRow, e)
  | .dec k e => some (k, decRow, e)
  | .cmp k e => some (k, cmpRow, e)
  | .and k e => some (k, andRow, e)
  | .or k e => some (k, orRow, e)
  | .xor k e => some (k, xorRow, e)
  | .not k e => some (k, notRow, e)
  | .tst k e => some (k, tstRow, e)
  | .shl k e => some (k, shlRow, e)
  | .shr k e => some (k, shrRow, e)
  | .sar k e => some (k, sarRow, e)
  | .rol k e => some (k, rolRow, e)
  | .ror k e => some (k, rorRow, e)
  | .mul k e => some (k, mulRow, e)
  | .muluH k e => some (k, muluHRow, e)
  | .mulsH k e => some (k, mulsHRow, e)
  | .div k e => some (k, divRow, e)
  | .divu k e => some (k, divuRow, e)
  | .rem k e => some (k, remRow, e)
  | .remu k e => some (k, remuRow, e)
  | .daa k e => some (k, daaRow, e)
  | .addp k e => some (k, addpRow, e)
  | .subp k e => some (k, subpRow, e)
  | .cmpp k e => some (k, cmppRow, e)
  | .cvtpb k e => some (k, cvtpbRow, e)
  | .cvtbp k e => some (k, cvtbpRow, e)
  | .cvtpd k e => some (k, cvtpdRow, e)
  | .cvtdp k e => some (k, cvtdpRow, e)
  | .bcc k cc wide e => some (k, bccRow cc wide, e)
  | .brl k e => some (k, brlRow, e)
  | .jmp k e => some (k, jmpRow, e)
  | .call k e => some (k, callRow, e)
  | .jmpa k e => some (k, jmpaRow, e)
  | .calla k e => some (k, callaRow, e)
  | .callr k e => some (k, callrRow, e)
  | .callrl k e => some (k, callrlRow, e)
  | .rdsr k e => some (k, rdsrRow, e)
  | .wrsr k e => some (k, wrsrRow, e)
  | .rdsc k e => some (k, rdscRow, e)
  | .wrsc k e => some (k, wrscRow, e)
  | .rdsw k e => some (k, rdswRow, e)
  | .wrsw k e => some (k, wrswRow, e)
  | .ei k e => some (k, eiRow, e)
  | .di k e => some (k, diRow, e)
  | .cas k e => some (k, casRow, e)
  | .ccopy k e => some (k, ccopyRow, e)
  | .cstep k e => some (k, cstepRow, e)
  | .cplace k e => some (k, cplaceRow, e)
  | .cfit k e => some (k, cfitRow, e)
  | .cfitx k e => some (k, cfitxRow, e)
  | .cdrop k e => some (k, cdropRow, e)
  | .cmode k e => some (k, cmodeRow, e)
  | .cbrand k e => some (k, cbrandRow, e)
  | .cunbr k e => some (k, cunbrRow, e)
  | .csent k e => some (k, csentRow, e)
  | .cvoid k e => some (k, cvoidRow, e)
  | .cldc k e => some (k, cldcRow, e)
  | .cstc k e => some (k, cstcRow, e)
  | .crbase k e => some (k, crbaseRow, e)
  | .crtop k e => some (k, crtopRow, e)
  | .crspan k e => some (k, crspanRow, e)
  | .crperm k e => some (k, crpermRow, e)
  | .crotype k e => some (k, crotypeRow, e)
  | .crtag k e => some (k, crtagRow, e)
  | .crnode k e => some (k, crnodeRow, e)
  | .crepoch k e => some (k, crepochRow, e)
  | .dadd k e => some (k, daddRow, e)
  | .dsub k e => some (k, dsubRow, e)
  | .dmul k e => some (k, dmulRow, e)
  | .ddiv k e => some (k, ddivRow, e)
  | .dcmp k e => some (k, dcmpRow, e)
  | .dquant k e => some (k, dquantRow, e)
  | .drnd k e => some (k, drndRow, e)
  | .dneg k e => some (k, dnegRow, e)
  | .dabs k e => some (k, dabsRow, e)
  | .dcvti k e => some (k, dcvtiRow, e)
  | .dcvtf k e => some (k, dcvtfRow, e)
  | .dcvtw k e => some (k, dcvtwRow, e)
  | .fadd k e => some (k, faddRow, e)
  | .fsub k e => some (k, fsubRow, e)
  | .fmul k e => some (k, fmulRow, e)
  | .fdiv k e => some (k, fdivRow, e)
  | .fcmp k e => some (k, fcmpRow, e)
  | .fcvtd k e => some (k, fcvtdRow, e)
  | .fcvtb k e => some (k, fcvtbRow, e)
  | .tlbi k e => some (k, tlbiRow, e)
  | .tlbia k e => some (k, tlbiaRow, e)
  | .tlbik k e => some (k, tlbikRow, e)
  | .wci k e => some (k, wciRow, e)
  | .pmcrd k e => some (k, pmcrdRow, e)
  | .longOperationComplete _ _ | .interruptEntry _ | .holdOverrun _ | .paceMiss _ _ | .pacedEnable _ _ _ _
  | .pacedCopyComplete _ _ | .start _ _ _ | .abortThread _ _ _ | .abortCompartment _ _ _ | .free _ _ _
  | .signal _ _ _ | .timer _ _ | .switchIn _ | .stepLimit _ | .registerWrite _ _ _ _ _
  | .boundaryEntryWrite _ _ _ _ _ | .groupDisable _ _ _ | .groupDrained _ _ | .groupEnable _ _ _
  | .boundaryHoldTimeout _ | .bndFence _ _ _ | .codewordViolation _ _ _ | .pacedAreaCopyComplete _ _ _
  | .stall _ _ _ _ | .rotationWindow _ | .drainEnd _ | .selfTestComplete _ _ _ | .returnEnd _ | .suspensionWindow _
  | .faultInject _ _ _ | .fltRetest _ _ _ | .retestComplete _ _ | .claim _ _ | .renew _ | .latchRelease _
  | .leaseExpiry | .lockstep _ _ | .seamLoss | .oscFail | .scrubRead _ _ _ | .scrubLate _ _
  | .codestorePatrolRead _ _ _ _ | .frameReceive _ _ _ | .pfcRepeat _ _ _ | .pauseFrame _ _ _
  | .pauseTimeExpiry _ _ _ | .ethModeWrite _ _ _ | .autoNegotiationComplete _ _ _ | .linkUp _ _ | .linkLoss _ _
  | .flumeSessionLookup _ | .reassemblyTimeout _ _ | .retransmissionTimeout _ _ | .delayedAckTimeout _ _
  | .keepaliveTimeout _ _ | .udpIdleTimeout _ _ | .coldSessionFetch _ _ | .openSession _ _ _ _ | .close _ _ _
  | .abort _ _ _ | .path0 _ _ _ | .path1 _ _ _ | .release _ _ _ | .frameTransmit _ _ | .tmbStep _ _ _
  | .tmbTxts0Read _ _ | .ppsIn | .ppsOut | .ppsOutFall | .recordUnprotect _ _ | .recordProtect _ _
  | .primitivePost _ _ _ | .rand _ | .keygen _ | .ecdh _ | .hash _ | .extract _ | .expand _ | .hmac _ | .sign _
  | .verify _ | .install _ | .kilnFree _ | .unwrap _ _ _ _ | .clear _ _ _ | .done _ _ | .entropyFail _
  | .drbgReseed _ | .millParseJob _ _ | .frameBuild _ _ | .load _ _ _ _ | .unload _ _ _ | .scalerJob _ _
  | .sweepClose _ _ | .set _ _ _ | .read _ _ _ | .flush _ _ _ | .dropCurve _ _ _ | .dropProgram _ _ _
  | .doorbell _ _ _ | .descriptorFetch _ | .acceptance _ _ | .createRing _ _ | .destroyRing _ _ | .ackAttn _ _
  | .queryRing _ _ | .nopCommand _ _ | .send _ _ | .deliver _ _ | .raw _ _ | .group _ _ | .replyRecordWrite _ _
  | .replyPost _ | .framePost _ | .msixModerationTimeout _ _ | .ringEngineEnable _ _ | .ringEngineDisable _ _
  | .hifNotice _ _ | .hostInterfaceReset _ | .bdfCapture _ _ | .completionTimeout _ _ | .dedupExpiry _ _
  | .partTimeout _ _ _ | .linkTrained _ _ | .linkTrainRetry _ _ | .flitReceive _ _ _ | .nak _ _ _ | .linkDown _ _ _
  | .rd _ | .wr _ | .atom _ | .eff _ | .sig _ | .rsp _ | .part _ | .pres _ | .mirr _ | .mack _ | .keyx _
  | .cru _ _ _ | .excluded _ | .hb _ | .heartbeatSend _ | .busyResend _ _ | .nodeDead _ _ | .silence _ | .adoption _
  | .bomFinv _ _ | .bomXsig _ _ _ _ | .ctrRead _ | .ctrAdvance _ | .svnCommit _ | .update _ | .lcRequest _ | .safe _
  | .activate _ | .lcsXreq _ _ _ | .lcsCinc _ _ _ _ | .tamperAlarm _ | .powerOnReset | .warmReset | .warm _ _
  | .resetRelease | .ddrTrainingComplete _ _ | .ddrInitComplete _ | .coreRelease | .railOutOfRange _ | .watchEntry
  | .wake _ | .wakeComplete | .voltageStep _ _ | .pmbusPoll _ _ _ _ _ | .smbReadIdv | .smbReadPwrStat _
  | .smbReadFltGuar | .smbReadTmpAlarm | .smbReadLcsState | .smbWake | .spiGo _ _ _ | .spiTransferComplete _
  | .uartDataWrite _ _ _ _ | .uartDataRead _ _ _ | .uartReceive _ _ | .uartTransmit _ | .tapReset | .bypass _
  | .idcode _ | .samplePreload _ | .extest _ | .highz _ | .clamp _ | .extestPulse _ | .extestTrain _
  | .dbgAuth _ _ _ | .dbgAccessRead _ _ | .dbgAccessWrite _ _ _ | .bootStageComplete _ _
  | .lifeCycleTransitionComplete _ | .msixVectorUnmask _ _ | .keptResponseExpiry _ _ _ | .pcieLinkUp _ | .groveTakeover _ _ _
  | .pfcFrame _ _ _ _ => none

/-- Every row of Tables 3.6 and 3.7; the sixteen conditions of each branch form have a row each. -/
def rowList : List OpInfo :=
  [nopRow, waitRow, fenceRow, fenceERow, svcRow, mcallRow, retRow, retiRow, bptRow, movRow, movzRow, movsRow,
    clrRow, xchgRow, swapbRow, addRow, adcRow, subRow, sbcRow, negRow, incRow, decRow, cmpRow, andRow, orRow,
    xorRow, notRow, tstRow] ++
  [shlRow, shrRow, sarRow, rolRow, rorRow, mulRow, muluHRow, mulsHRow, divRow, divuRow, remRow, remuRow, daaRow,
    addpRow, subpRow, cmppRow, cvtpbRow, cvtbpRow, cvtpdRow, cvtdpRow, brlRow, jmpRow, callRow, jmpaRow, callaRow,
    callrRow, callrlRow, rdsrRow] ++
  [wrsrRow, rdscRow, wrscRow, rdswRow, wrswRow, eiRow, diRow, casRow, ccopyRow, cstepRow, cplaceRow, cfitRow,
    cfitxRow, cdropRow, cmodeRow, cbrandRow, cunbrRow, csentRow, cvoidRow, cldcRow, cstcRow, crbaseRow, crtopRow,
    crspanRow, crpermRow, crotypeRow, crtagRow, crnodeRow] ++
  [crepochRow, daddRow, dsubRow, dmulRow, ddivRow, dcmpRow, dquantRow, drndRow, dnegRow, dabsRow, dcvtiRow,
    dcvtfRow, dcvtwRow, faddRow, fsubRow, fmulRow, fdivRow, fcmpRow, fcvtdRow, fcvtbRow, tlbiRow, tlbiaRow,
    tlbikRow, wciRow, pmcrdRow] ++
  (List.range 32).map fun n => bccRow (BitVec.ofNat 4 n) (16 ≤ n)

/-- The instruction that bytes begin with: its row, its encoding and the bytes after it (R60, R62, R63). -/
def readInstr (fore : Bool) (bs : List Byte) : Option (OpInfo × Enc × List Byte) :=
  rowList.findSome? fun x => (readEnc fore x bs).map fun r => (x, r.1, r.2)

end Sys2Proof.Machine
end

