-- ==== Sys2Proof/Safety.lean ====
section
/-! DEFINITION. The words that statements about the machine use: the canonical form of a state's sparse data, a step that
stops, an instruction that issues on a core and what its retirement leaves, and a set-up access that is let through. -/

namespace Sys2Proof

open Sys2Proof.Machine

/-- A half's memory, set-up registers and cores are in canonical form: keys strictly rising, no entry that an unlisted key
would read as. -/
structure HalfCanonical (h : HalfId) (x : Half) : Prop where
  mem : SMap.wf memDefault x.mem.cells = true
  regs : SMap.wf (regReset h) x.regs = true
  cores : SMap.wf coreDefault x.cores = true

/-- Both halves and host memory are in canonical form. -/
structure Canonical (s : State) : Prop where
  east : HalfCanonical .east s.east
  west : HalfCanonical .west s.west
  host : SMap.wf memDefault s.host = true

/-- A step that answers a state. -/
def Steps (s t : State) : Prop := step s = .next t

/-- A run of n steps that never stops. -/
def RunsFrom : Nat → State → State → Prop
  | 0, s, t => s = t
  | n + 1, s, t => ∃ u, Steps s u ∧ RunsFrom n u t

-- instructions

/-- The context of an instruction that issued: `u` is the state after its fetch. -/
def ctxOf (k : CoreId) (i : Inst) (u : State) : Ctx := ⟨k, i, nextPcc (u.core k).pcc i.len⟩

/-- What a part of an instruction that cannot stop leaves. -/
def after {α : Type} (m : Exec α) (s : State) : State :=
  match m.run s with
  | .ok _ t => t
  | .error _ t => t

/-- The state in which an instruction begins: what its core has committed handed over as far as it goes, and nothing that comes
before an instruction left to do (R50, R119, R137). -/
def begun (k : CoreId) (s : State) : State := after (beforeInstr k) (drainCore k s)

/-- The state in which an instruction's own effect starts: its fetch done, its HOLD region opened (R125). -/
def opened (k : CoreId) (i : Inst) (u : State) : State := after (openHold (ctxOf k i u)) u

/-- An instruction issues on a core: the core executes, nothing holds the instruction back, the encoding decodes, its bytes may be
fetched (R38, R72), no rule of HOLD (R125, R126), privilege (R116) or decimal availability (R127) stops it, and where it carries
RELEASE or ATOMIC the older accesses are performed (R130, R178). `u` is the state after the fetch. -/
structure Issues (k : CoreId) (x : OpInfo) (e : Enc) (deny : State → Core → Inst → Bool) (s : State) (i : Inst) (u : State) :
    Prop where
  runs : canExecute s k = true
  spelled : encodingOf x e = true
  begins : (beforeInstr k).run (drainCore k s) = .ok () (begun k s)
  decoded : decodeEnc ((begun k s).core k).pcc.mode x e = .ok i
  fetched : (do newSlot k i.hold.isSome; fetch k i.len : Exec Unit).run (begun k s) = .ok () u
  noLimit : (u.core k).swBit 23 = true →
    (isPaced u k = false → ∀ t, (u.core k).holdStart = some t → u.elapsed - t < 256) ∧
    (isPaced u k = true → (u.core k).pacedTicks < 256)
  noHold : (u.core k).swBit 23 = true → i.hold = none
  allowed : deny u (u.core k) i = false
  decimal : (u.core k).level = levelC → i.isDecimal = true → (u.core k).thread = (u.core k).decOwner
  older : (awaitPrefix k i).run (opened k i u) = .ok () (opened k i u)

/-- The leaves of an instruction's accesses are marked at its retirement: each still agrees with its slot, and the boundary table holds
neither its read nor its write (R156, R191). An instruction for which one does not retires later, after a new walk. -/
def Marked (k : CoreId) (t : State) : Prop := ∃ v, (flushMarks k).run t = .ok () v

/-- How an instruction's own part ends: with its state, or, on a paced grove inside a HOLD region whose tick 256 comes first, with
the overrun's trap (R126). -/
def endOf (k : CoreId) (s : State) (m : Exec Unit) (t : State) (f : State → State) : State :=
  match m.run t with
  | .ok _ v => f v
  | .error (.trap vec cause) v => stoppedBy k (drainCore k s) vec cause v
  | .error _ _ => t

/-- The state after an instruction that goes on to the next one, with `t` as its own effect left it: it retires (R125, R145, R148)
and PCC moves past it (R106). -/
def seqEnd (s : State) (x : Ctx) (t : State) : State :=
  endOf x.k s (retire x false) t fun v => v.setCore x.k { v.core x.k with pcc := x.next }

/-- The state after a transfer to another PCC (R106), with its trace entry (R434). -/
def jumpEnd (s : State) (x : Ctx) (p : TCap) (t : State) : State :=
  endOf x.k s (retire x true) t fun v => traceEntry x.k p.cursor (v.setCore x.k { v.core x.k with pcc := p })

/-- The state after an instruction whose effect is a trap (R114): the instruction retires, then the trap is entered. -/
def trapEnd (s : State) (x : Ctx) (vec : Nat) (cause : Word) (rpcc : TCap) (t : State) : State :=
  endOf x.k s (retire x true) t fun v => traced x.k (takeTrap x.k vec cause rpcc v)

/-- No long operation of the core is incomplete and no imprecise fault is pending (R134–R136). -/
def Settled (c : Core) : Prop := c.longOps = [] ∧ c.imprecise = []

-- long operations

/-- A core whose long operations complete at issue: it runs no BULK thread of a cached grove (R135). -/
def completesAtIssue (s : State) (k : CoreId) : Prop := isBulk s k = false

/-- Counter 10 counts a long operation (R148). -/
def countLong (k : CoreId) (s : State) : State :=
  s.setCore k { s.core k with perf := (s.core k).perf.set! 10 ((s.core k).perf[10]! + 1) }

/-- What the end of a long operation that completes at issue leaves: flags of SW set, flags of DSR.FL raised (R102). -/
def longDone (k : CoreId) (fl : List (Nat × Bool)) (raised : Nat) (v : State) : State :=
  v.setCore k (((v.core k).setFlags fl).raised raised)

/-- No exception among those raised is enabled in DSR (R102). -/
def untrapped (k : CoreId) (raised : Nat) (v : State) : Prop := nbits (v.core k).dsr.toNat 12 8 &&& raised = 0

/-- Rounding mode and underflow enable as DSR holds them (Table 4.10). -/
def dsrMode (k : CoreId) (v : State) : FMode := ⟨nbits (v.core k).dsr.toNat 18 16, (v.core k).dsr.toNat.testBit 9⟩

-- set-up accesses

/-- A master's 8-byte write of a register is let through: the master runs, it reaches the block (the PCIe master only block 0x05, R306)
and the boundary table allows it (R187, R371). -/
structure WriteAllowed (h : HalfId) (m : BitVec 7) (blk off : Nat) (s : State) : Prop where
  runs : masterRuns s h m.toNat = true
  reaches : m = 0x4B → blk = 5
  allowed : check s h m.toNat .write (regAddr blk off) 8 = .allow

end Sys2Proof
end

