-- ==== Sys2Proof/Certificates/Slice0/Obligations.lean ====
section
/-! DEFINITION. The statements about the model that the provers are asked for: each formalises rules of the spec or says what
the model as a whole keeps. -/

open Sys2Proof Sys2Proof.Machine

-- Aboux/C instructions: what each does once it issues, in every operand form

/-- A constructor of an instruction with its row. -/
abbrev Sys2Proof.InstrRow := (CoreId → Enc → Instr) × OpInfo

/-- s1 op s2 → d, with the result and flags as a function of width and sources (Tables 4.1, 4.2, 4.4; R85). -/
def Sys2Proof.threeOperandRows : List (InstrRow × (Nat → Nat → Nat → Res)) :=
  [((.add, addRow), fun w a b => addRes w a b 0), ((.sub, subRow), fun w a b => subRes w a b 0),
   ((.and, andRow), logicRes (· &&& ·)), ((.or, orRow), logicRes (· ||| ·)), ((.xor, xorRow), logicRes (· ^^^ ·)),
   ((.shl, shlRow), shlRes), ((.shr, shrRow), shrRes), ((.sar, sarRow), sarRes), ((.rol, rolRow), rolRes),
   ((.ror, rorRow), rorRes), ((.mul, mulRow), mulRes), ((.muluH, muluHRow), muluHRes), ((.mulsH, mulsHRow), mulsHRes)]

/-- A three-operand instruction without ATOMIC whose operands can be read and whose result can be written completes with the
row's result in d and the row's flags, at the next instruction. -/
def Sys2Proof.ThreeOperandResult : Prop :=
  ∀ row ∈ threeOperandRows, ∀ (k : CoreId) (e : Enc) (s u v1 v2 v3 v4 : State) (i : Inst) (a b : Nat) (d : Dest),
    Issues k row.1.2 e anyLevel s i u → i.atomic = false →
    ((ctxOf k i u).src 0).run (opened k i u) = .ok a v1 → ((ctxOf k i u).src 1).run v1 = .ok b v2 →
    ((ctxOf k i u).dst 2).run v2 = .ok d v3 → ((ctxOf k i u).put 2 d (row.2 i.w a b).1).run v3 = .ok () v4 →
    ∀ z, z = v4.setCore k ((v4.core k).setFlags (row.2 i.w a b).2) → Marked k z →
      exec (row.1.1 k e) s = .next (seqEnd s (ctxOf k i u) z)

/-- ADC and SBC: as ADD and SUB, with the C flag as it stands at issue carried or borrowed in. -/
def Sys2Proof.carryRows : List (InstrRow × (Nat → Nat → Nat → Nat → Res)) := [((.adc, adcRow), addRes), ((.sbc, sbcRow), subRes)]

/-- ADC and SBC, which take no ATOMIC, read C first, then their operands. -/
def Sys2Proof.CarryResult : Prop :=
  ∀ row ∈ carryRows, ∀ (k : CoreId) (e : Enc) (s u v0 v1 v2 v3 v4 : State) (i : Inst) (c : Bool) (a b : Nat) (d : Dest),
    Issues k row.1.2 e anyLevel s i u → i.atomic = false →
    (readFlag k fC).run (opened k i u) = .ok c v0 →
    ((ctxOf k i u).src 0).run v0 = .ok a v1 → ((ctxOf k i u).src 1).run v1 = .ok b v2 →
    ((ctxOf k i u).dst 2).run v2 = .ok d v3 → ((ctxOf k i u).put 2 d (row.2 i.w a b (b2n c)).1).run v3 = .ok () v4 →
    ∀ z, z = v4.setCore k ((v4.core k).setFlags (row.2 i.w a b (b2n c)).2) → Marked k z →
      exec (row.1.1 k e) s = .next (seqEnd s (ctxOf k i u) z)

/-- A three-operand instruction without ATOMIC whose operands can be read and whose result can be written completes with the
row's result in d and the row's flags, at the next instruction. ADC and SBC, which take no ATOMIC, read C first, then their
operands. -/
def Obligations.ArithmeticResult : Prop := ThreeOperandResult ∧ CarryResult

/-- s → d (Tables 4.1 and 4.2, R80). The result is a function of the decoded instruction and the source. -/
def Sys2Proof.twoOperandRows : List (InstrRow × (Inst → Nat → Res)) :=
  [((.mov, movRow), fun i v => (v, flagsLogic i.w v)),
   ((.movz, movzRow), fun i v => (v, flagsLogic (8 * i.size .extended) v)),
   ((.movs, movsRow), fun i v =>
     let r := unsignedOf (8 * i.size .extended) (signedOf i.w v)
     (r, flagsLogic (8 * i.size .extended) r)),
   ((.swapb, swapbRow), fun i v => (swapRes i.w v, flagsLogic i.w (swapRes i.w v))),
   ((.neg, negRow), fun i v => subRes i.w 0 v 0),
   ((.not, notRow), fun i v => logicRes (fun a _ => 2 ^ i.w - 1 - a) i.w v 0)]

/-- A two-operand instruction completes with the row's result in d and the row's flags; CLR with 0 and its flags. -/
def Sys2Proof.TwoOperandResult : Prop :=
  (∀ row ∈ twoOperandRows, ∀ (k : CoreId) (e : Enc) (s u v1 v2 v3 : State) (i : Inst) (a : Nat) (d : Dest),
    Issues k row.1.2 e anyLevel s i u →
    ((ctxOf k i u).src 0).run (opened k i u) = .ok a v1 → ((ctxOf k i u).dst 1).run v1 = .ok d v2 →
    ((ctxOf k i u).put 1 d (row.2 i a).1).run v2 = .ok () v3 →
    ∀ z, z = v3.setCore k ((v3.core k).setFlags (row.2 i a).2) → Marked k z →
      exec (row.1.1 k e) s = .next (seqEnd s (ctxOf k i u) z)) ∧
  (∀ (k : CoreId) (e : Enc) (s u v1 v2 : State) (i : Inst) (d : Dest),
    Issues k clrRow e anyLevel s i u →
    ((ctxOf k i u).dst 0).run (opened k i u) = .ok d v1 → ((ctxOf k i u).put 0 d 0).run v1 = .ok () v2 →
    ∀ z, z = v2.setCore k ((v2.core k).setFlags (flagsLogic i.w 0)) → Marked k z →
      exec (.clr k e) s = .next (seqEnd s (ctxOf k i u) z))

/-- d → d: INC and DEC leave C (Table 4.2). -/
def Sys2Proof.inPlaceRows : List (InstrRow × (Nat → Nat → Res)) :=
  [((.inc, incRow), fun w v => (addRes w v 1 0).without fC), ((.dec, decRow), fun w v => (subRes w v 1 0).without fC)]

/-- INC, DEC and XCHG without ATOMIC: both operands of XCHG are read before either is written (R81). -/
def Sys2Proof.InPlaceResult : Prop :=
  (∀ row ∈ inPlaceRows, ∀ (k : CoreId) (e : Enc) (s u v1 v2 : State) (i : Inst) (a : Nat) (d : Dest),
    Issues k row.1.2 e anyLevel s i u → i.atomic = false →
    ((ctxOf k i u).both 0).run (opened k i u) = .ok (a, d) v1 →
    ((ctxOf k i u).put 0 d (row.2 i.w a).1).run v1 = .ok () v2 →
    ∀ z, z = v2.setCore k ((v2.core k).setFlags (row.2 i.w a).2) → Marked k z →
      exec (row.1.1 k e) s = .next (seqEnd s (ctxOf k i u) z)) ∧
  (∀ (k : CoreId) (e : Enc) (s u v1 v2 v3 : State) (i : Inst) (a b : Nat) (d c : Dest),
    Issues k xchgRow e anyLevel s i u → i.atomic = false →
    ((ctxOf k i u).both 0).run (opened k i u) = .ok (a, d) v1 → ((ctxOf k i u).both 1).run v1 = .ok (b, c) v2 →
    ((ctxOf k i u).write [(d, i.w / 8, b), (c, i.w / 8, a)]).run v2 = .ok () v3 →
    Marked k v3 → exec (.xchg k e) s = .next (seqEnd s (ctxOf k i u) v3))

/-- The flags of s1 op s2, nothing written: CMP as SUB, TST as AND (Tables 4.1 and 4.2). -/
def Sys2Proof.compareRows : List (InstrRow × (Nat → Nat → Nat → Res)) :=
  [((.cmp, cmpRow), fun w a b => subRes w a b 0), ((.tst, tstRow), logicRes (· &&& ·))]

/-- CMP and TST set flags and write nothing else. DAA takes C, H and D as they stand and gives the byte and flags of R92. -/
def Sys2Proof.CompareAndAdjustResult : Prop :=
  (∀ row ∈ compareRows, ∀ (k : CoreId) (e : Enc) (s u v1 v2 : State) (i : Inst) (a b : Nat),
    Issues k row.1.2 e anyLevel s i u →
    ((ctxOf k i u).src 0).run (opened k i u) = .ok a v1 → ((ctxOf k i u).src 1).run v1 = .ok b v2 →
    ∀ z, z = v2.setCore k ((v2.core k).setFlags (row.2 i.w a b).2) → Marked k z →
      exec (row.1.1 k e) s = .next (seqEnd s (ctxOf k i u) z)) ∧
  (∀ (k : CoreId) (e : Enc) (s u v1 v2 v3 v4 v5 v6 : State) (i : Inst) (c h n : Bool) (a : Nat) (d : Dest),
    Issues k daaRow e anyLevel s i u →
    (readFlag k fC).run (opened k i u) = .ok c v1 → (readFlag k fH).run v1 = .ok h v2 →
    (readFlag k fD).run v2 = .ok n v3 → ((ctxOf k i u).src 0).run v3 = .ok a v4 → ((ctxOf k i u).dst 1).run v4 = .ok d v5 →
    ((ctxOf k i u).put 1 d (daaRes a c h n).1).run v5 = .ok () v6 →
    ∀ z, z = v6.setCore k ((v6.core k).setFlags (daaRes a c h n).2) → Marked k z →
      exec (.daa k e) s = .next (seqEnd s (ctxOf k i u) z))

/-- A two-operand instruction completes with the row's result in d and the row's flags; CLR with 0 and its flags. INC, DEC and
XCHG without ATOMIC: both operands of XCHG are read before either is written (R81). CMP and TST set flags and write nothing
else. DAA takes C, H and D as they stand and gives the byte and flags of R92. -/
def Obligations.MoveAndCompareResult : Prop := TwoOperandResult ∧ InPlaceResult ∧ CompareAndAdjustResult

/-- ATOMIC d := d op s (R61, R78, R131). -/
def Sys2Proof.atomicRows : List (InstrRow × (Nat → Nat → Nat → Res)) :=
  [((.add, addRow), fun w a b => addRes w a b 0), ((.sub, subRow), fun w a b => subRes w a b 0),
   ((.and, andRow), logicRes (· &&& ·)), ((.or, orRow), logicRes (· ||| ·)), ((.xor, xorRow), logicRes (· ^^^ ·))]

/-- Under ATOMIC the operand in memory is read and written as one access: ADD, SUB, AND, OR and XOR with two operands, INC and
DEC with one, each with the flags of the old value; XCHG with its operand in memory, the second where both are, no flag; CAS
stores the new value only where the old one is the expected one, answers the old value in X and sets Z alone. -/
def Obligations.AtomicResult : Prop :=
  (∀ row ∈ atomicRows, ∀ (k : CoreId) (e : Enc) (s u v1 v2 v3 : State) (i : Inst) (a old : Nat) (l : Loc),
    Issues k row.1.2 e anyLevel s i u → i.atomic = true →
    ((ctxOf k i u).src 0).run (opened k i u) = .ok a v1 → ((ctxOf k i u).loc 1 false).run v1 = .ok l v2 →
    ((ctxOf k i u).atomicRmw 1 a 0 l fun d => some (row.2 i.w d a).1).run v2 = .ok old v3 →
    ∀ z, z = v3.setCore k ((v3.core k).setFlags (row.2 i.w old a).2) → Marked k z →
      exec (row.1.1 k e) s = .next (seqEnd s (ctxOf k i u) z)) ∧
  (∀ row ∈ inPlaceRows, ∀ (k : CoreId) (e : Enc) (s u v1 v2 : State) (i : Inst) (old : Nat) (l : Loc),
    Issues k row.1.2 e anyLevel s i u → i.atomic = true →
    ((ctxOf k i u).locBoth 0).run (opened k i u) = .ok l v1 →
    ((ctxOf k i u).atomicRmw 0 1 0 l fun d => some (row.2 i.w d).1).run v1 = .ok old v2 →
    ∀ z, z = v2.setCore k ((v2.core k).setFlags (row.2 i.w old).2) → Marked k z →
      exec (row.1.1 k e) s = .next (seqEnd s (ctxOf k i u) z)) ∧
  (∀ (k : CoreId) (e : Enc) (s u v1 v2 v3 : State) (i : Inst) (v old : Nat) (d : Dest) (l : Loc),
    Issues k xchgRow e anyLevel s i u → i.atomic = true →
    (isMemMode ((ctxOf k i u).op 1).1.mode.toNat = true →
      ((ctxOf k i u).both 0).run (opened k i u) = .ok (v, d) v1 → ((ctxOf k i u).locBoth 1).run v1 = .ok l v2 →
      ((ctxOf k i u).atomicRmw 1 v 0 l (fun _ => some v) fun o => [(d, i.w / 8, o)]).run v2 = .ok old v3 →
      Marked k v3 → exec (.xchg k e) s = .next (seqEnd s (ctxOf k i u) v3)) ∧
    (isMemMode ((ctxOf k i u).op 1).1.mode.toNat = false →
      ((ctxOf k i u).locBoth 0).run (opened k i u) = .ok l v1 → ((ctxOf k i u).both 1).run v1 = .ok (v, d) v2 →
      ((ctxOf k i u).atomicRmw 0 v 0 l (fun _ => some v) fun o => [(d, i.w / 8, o)]).run v2 = .ok old v3 →
      Marked k v3 → exec (.xchg k e) s = .next (seqEnd s (ctxOf k i u) v3))) ∧
  (∀ (k : CoreId) (e : Enc) (s u v1 v2 v3 v4 v5 : State) (i : Inst) (new want old : Nat) (l : Loc),
    Issues k casRow e anyLevel s i u →
    ((ctxOf k i u).loc 0 false).run (opened k i u) = .ok l v1 → ((ctxOf k i u).src 1).run v1 = .ok new v2 →
    (readX k ((ctxOf k i u).op 2).1.reg.toNat).run v2 = .ok want v3 →
    ((ctxOf k i u).atomicRmw 0 new (want % 2 ^ i.w) l fun v => if v = want % 2 ^ i.w then some new else none).run v3 =
      .ok old v4 →
    (writeX k ((ctxOf k i u).op 2).1.reg.toNat i.w old).run v4 = .ok () v5 →
    ∀ z, z = v5.setCore k ((v5.core k).setFlags [(fZ, old == want % 2 ^ i.w)]) → Marked k z →
      exec (.cas k e) s = .next (seqEnd s (ctxOf k i u) z))

/-- The divisions (R87, R90, Table 4.5). -/
def Sys2Proof.divideRows : List (InstrRow × (Nat → Nat → Nat → Res)) :=
  [((.div, divRow), divRes), ((.divu, divuRow), divuRes), ((.rem, remRow), remRes), ((.remu, remuRow), remuRes)]

/-- A division whose divisor is not zero, or is with DZE = 0, completes at issue outside a BULK thread with the row's quotient or
remainder and flags; a zero divisor with DZE = 1 takes vector 11 with the opcode as cause (R90), and leaves what R69 leaves. -/
def Obligations.DivideResult : Prop :=
  ∀ row ∈ divideRows, ∀ (k : CoreId) (e : Enc) (s u v1 v2 v3 : State) (i : Inst) (a b : Nat) (d : Dest),
    Issues k row.1.2 e anyLevel s i u →
    ((ctxOf k i u).src 0).run (opened k i u) = .ok a v1 → ((ctxOf k i u).src 1).run v1 = .ok b v2 →
    ((ctxOf k i u).dst 2).run v2 = .ok d v3 → completesAtIssue v3 k →
    ((b % 2 ^ i.w ≠ 0 ∨ (v3.core k).swBit 19 = false) →
      ∀ v4, ((ctxOf k i u).write [(d, i.w / 8, (row.2 i.w a b).1)]).run (countLong k v3) = .ok () v4 →
      ∀ z, z = v4.setCore k ((v4.core k).setFlags (row.2 i.w a b).2) → Marked k z →
        exec (row.1.1 k e) s = .next (seqEnd s (ctxOf k i u) z)) ∧
    (b % 2 ^ i.w = 0 ∧ (v3.core k).swBit 19 = true →
      exec (row.1.1 k e) s =
        .next (stoppedBy k (drainCore k s) 11 (BitVec.ofNat 64 i.info.opcode.toNat) (countLong k v3)))

-- results that may come after issue (R135): at issue outside a BULK thread

/-- A decimal instruction may run at level C only for the owner of the decimal context, which Issues asks; every result below is
written whole to `d`, with no flag of SW and the exceptions raised that no enable traps (R98–R102). -/
def Sys2Proof.FloatEnd (s : State) (k : CoreId) (i : Inst) (u v : State) (d : Dest) (n r raised : Nat) (t : State) : Prop :=
  untrapped k raised v ∧ completesAtIssue v k ∧
    ∃ w, ((ctxOf k i u).write [(d, n, r)]).run (countLong k v) = .ok () w ∧ Marked k (longDone k [] raised w) ∧
      t = seqEnd s (ctxOf k i u) (longDone k [] raised w)

/-- d := s1 op s2 in decimal (Table 4.7). -/
def Sys2Proof.decimalRows : List (InstrRow × (FFmt → FMode → FVal → FVal → FRes)) :=
  [((.dadd, daddRow), fAdd), ((.dsub, dsubRow), fSub), ((.dmul, dmulRow), fMul), ((.ddiv, ddivRow), fDiv),
   ((.dquant, dquantRow), fQuantize)]

/-- d := s1 op s2 in binary64, both lanes (R101). -/
def Sys2Proof.binaryRows : List (InstrRow × (FFmt → FMode → FVal → FVal → FRes)) :=
  [((.fadd, faddRow), fAdd), ((.fsub, fsubRow), fSub), ((.fmul, fmulRow), fMul), ((.fdiv, fdivRow), fDiv)]

/-- The decimal and binary64 operations of two sources complete with the rounded result of the row's operation under DSR. -/
def Sys2Proof.FloatBinaryResult : Prop :=
  (∀ row ∈ decimalRows, ∀ (k : CoreId) (e : Enc) (s u v1 v2 v3 t : State) (i : Inst) (a b : FVal) (d : Dest) (r : FRes),
    Issues k row.1.2 e anyLevel s i u →
    ((ctxOf k i u).srcDec 0).run (opened k i u) = .ok a v1 → ((ctxOf k i u).srcDec 1).run v1 = .ok b v2 →
    ((ctxOf k i u).dst 2).run v2 = .ok d v3 → r = row.2 (decFmt i.wide) (dsrMode k v3) a b →
    FloatEnd s k i u v3 d (i.size .dec) (toBid i.wide r.1) r.2 t → exec (row.1.1 k e) s = .next t) ∧
  (∀ row ∈ binaryRows, ∀ (k : CoreId) (e : Enc) (s u v1 v2 v3 t : State) (i : Inst) (a b : Nat) (d : Dest) (r : Nat × Nat),
    Issues k row.1.2 e anyLevel s i u →
    ((ctxOf k i u).src 0).run (opened k i u) = .ok a v1 → ((ctxOf k i u).src 1).run v1 = .ok b v2 →
    ((ctxOf k i u).dst 2).run v2 = .ok d v3 → r = binPair row.2 (dsrMode k v3) a b →
    FloatEnd s k i u v3 d 16 r.1 r.2 t → exec (row.1.1 k e) s = .next t)

/-- DCVTI's integer and exceptions (Table 4.7): outside 64 bits, NaN and infinity are invalid and give the most negative one. -/
def Sys2Proof.toInteger (m : FMode) (a : FVal) : Nat × Nat :=
  match fToInt 10 m.rm a with
  | some (i, inexact) =>
    if -(2 ^ 63) ≤ i ∧ i < 2 ^ 63 then (unsignedOf 64 i, if inexact then xInexact else 0) else (0x8000000000000000, xInvalid)
  | none => (0x8000000000000000, xInvalid)

/-- The conversions and DRND complete with the rounded value of their one source (Table 4.7, R101). -/
def Sys2Proof.FloatConvertResult : Prop :=
  (∀ (k : CoreId) (e : Enc) (s u v1 v2 t : State) (i : Inst) (a : FVal) (d : Dest) (r : FRes),
    ((ctxOf k i u).srcDec 0).run (opened k i u) = .ok a v1 → ((ctxOf k i u).dst 1).run v1 = .ok d v2 →
    (Issues k drndRow e anyLevel s i u → r = fIntegral (decFmt i.wide) (dsrMode k v2) a →
      FloatEnd s k i u v2 d (i.size .dec) (toBid i.wide r.1) r.2 t → exec (.drnd k e) s = .next t) ∧
    (Issues k dcvtwRow e anyLevel s i u → r = fDecToDec (decFmt (!i.wide)) (dsrMode k v2) a →
      FloatEnd s k i u v2 d (i.size .decOther) (toBid (!i.wide) r.1) r.2 t → exec (.dcvtw k e) s = .next t) ∧
    (Issues k fcvtbRow e anyLevel s i u → r = fDecToBin (dsrMode k v2) a →
      FloatEnd s k i u v2 d 16 (toBin64 r.1) r.2 t → exec (.fcvtb k e) s = .next t) ∧
    (Issues k dcvtiRow e anyLevel s i u →
      FloatEnd s k i u v2 d 8 (toInteger (dsrMode k v2) a).1 (toInteger (dsrMode k v2) a).2 t →
      exec (.dcvti k e) s = .next t) ∧
    (Issues k cvtdpRow e anyLevel s i u → ∀ (m : Int) (inexact : Bool), fToInt 10 (dsrMode k v2).rm a = some (m, inexact) →
      packedOver i.packLo m = false →
      FloatEnd s k i u v2 d i.packLo (leNat (packedBytes i.packLo m)) (if inexact then xInexact else 0) t →
      exec (.cvtdp k e) s = .next t) ∧
    (Issues k cvtdpRow e anyLevel s i u →
      (∀ (m : Int) (inexact : Bool), fToInt 10 (dsrMode k v2).rm a = some (m, inexact) → packedOver i.packLo m = true) →
      untrapped k xInvalid v2 → completesAtIssue v2 k →
      ∀ z, z = longDone k [(fV, true)] xInvalid (countLong k v2) → Marked k z →
        exec (.cvtdp k e) s = .next (seqEnd s (ctxOf k i u) z))) ∧
  (∀ (k : CoreId) (e : Enc) (s u v1 v2 t : State) (i : Inst) (a : Nat) (d : Dest) (r : FRes),
    ((ctxOf k i u).src 0).run (opened k i u) = .ok a v1 → ((ctxOf k i u).dst 1).run v1 = .ok d v2 →
    (Issues k dcvtfRow e anyLevel s i u → r = fOfInt (decFmt i.wide) (dsrMode k v2) (signedOf 64 a) →
      FloatEnd s k i u v2 d (i.size .dec) (toBid i.wide r.1) r.2 t → exec (.dcvtf k e) s = .next t) ∧
    (Issues k fcvtdRow e anyLevel s i u → r = fBinToDec (decFmt i.wide) (dsrMode k v2) (ofBin64 (a % 2 ^ 64)) →
      FloatEnd s k i u v2 d (i.size .dec) (toBid i.wide r.1) r.2 t → exec (.fcvtd k e) s = .next t)) ∧
  (∀ (k : CoreId) (e : Enc) (s u v1 v2 t : State) (i : Inst) (bs : List Byte) (d : Dest) (r : FRes),
    Issues k cvtpdRow e anyLevel s i u →
    ((ctxOf k i u).load 0).run (opened k i u) = .ok bs v1 → ((ctxOf k i u).dst 1).run v1 = .ok d v2 → packedOk bs = true →
    r = fOfInt (decFmt i.wide) (dsrMode k v2) (packedValue bs) →
    FloatEnd s k i u v2 d (i.size .dec) (toBid i.wide r.1) r.2 t → exec (.cvtpd k e) s = .next t)

/-- The sign-bit operations DNEG and DABS (Table 4.7, R98). -/
def Sys2Proof.signRows : List (InstrRow × (Bool → Bool)) := [((.dneg, dnegRow), fun n => !n), ((.dabs, dabsRow), fun _ => false)]

/-- A decimal value with its sign bit changed. -/
def Sys2Proof.withSign (f : Bool → Bool) : FVal → FVal
  | .fin n c q => .fin (f n) c q
  | .inf n => .inf (f n)
  | .nan n sg pl => .nan (f n) sg pl

/-- DCMP and FCMP set the flags of Table 4.8 (R100) and write nothing else but DSR.FL; DNEG and DABS write the value with its
sign bit changed and signal nothing. -/
def Sys2Proof.FloatCompareResult : Prop :=
  (∀ (k : CoreId) (e : Enc) (s u v1 v2 : State) (i : Inst) (a b : FVal),
    Issues k dcmpRow e anyLevel s i u →
    ((ctxOf k i u).srcDec 0).run (opened k i u) = .ok a v1 → ((ctxOf k i u).srcDec 1).run v1 = .ok b v2 →
    untrapped k (fCompare 10 a b).2 v2 →
    ∀ z, z = longDone k (flagsCompare (fCompare 10 a b).1) (fCompare 10 a b).2 v2 → Marked k z →
      exec (.dcmp k e) s = .next (seqEnd s (ctxOf k i u) z)) ∧
  (∀ (k : CoreId) (e : Enc) (s u v1 v2 : State) (i : Inst) (a b : Nat) (r : Option Ordering × Nat),
    Issues k fcmpRow e anyLevel s i u →
    ((ctxOf k i u).src 0).run (opened k i u) = .ok a v1 → ((ctxOf k i u).src 1).run v1 = .ok b v2 →
    r = fCompare 2 (ofBin64 (a % 2 ^ 64)) (ofBin64 (b % 2 ^ 64)) → untrapped k r.2 v2 → completesAtIssue v2 k →
    ∀ z, z = longDone k (flagsCompare r.1) r.2 (countLong k v2) → Marked k z →
      exec (.fcmp k e) s = .next (seqEnd s (ctxOf k i u) z)) ∧
  (∀ row ∈ signRows, ∀ (k : CoreId) (e : Enc) (s u v1 v2 v3 : State) (i : Inst) (a : FVal) (d : Dest),
    Issues k row.1.2 e anyLevel s i u →
    ((ctxOf k i u).srcDec 0).run (opened k i u) = .ok a v1 → ((ctxOf k i u).dst 1).run v1 = .ok d v2 →
    ((ctxOf k i u).put 1 d (toBid i.wide (withSign row.2 a))).run v2 = .ok () v3 →
    Marked k v3 → exec (row.1.1 k e) s = .next (seqEnd s (ctxOf k i u) v3))

/-- The decimal and binary64 operations of two sources complete with the rounded result of the row's operation under DSR. The
conversions and DRND complete with the rounded value of their one source (Table 4.7, R101). DCMP and FCMP set the flags of Table
4.8 (R100) and write nothing else but DSR.FL; DNEG and DABS write the value with its sign bit changed and signal nothing. -/
def Obligations.FloatResult : Prop := FloatBinaryResult ∧ FloatConvertResult ∧ FloatCompareResult

/-- An enabled exception of a decimal or binary64 operation is vector 13 with the opcode and the exceptions raised as cause, the
exceptions recorded in FL, and the destination as it was (R102, Table 4.9). -/
def Obligations.FloatTrap : Prop :=
  ∀ row ∈ decimalRows, ∀ (k : CoreId) (e : Enc) (s u v1 v2 v3 : State) (i : Inst) (a b : FVal) (d : Dest) (r : FRes),
    Issues k row.1.2 e anyLevel s i u →
    ((ctxOf k i u).srcDec 0).run (opened k i u) = .ok a v1 → ((ctxOf k i u).srcDec 1).run v1 = .ok b v2 →
    ((ctxOf k i u).dst 2).run v2 = .ok d v3 → r = row.2 (decFmt i.wide) (dsrMode k v3) a b → r.2 < 32 →
    ¬ untrapped k r.2 v3 → completesAtIssue v3 k →
    exec (row.1.1 k e) s =
      .next (stoppedBy k (drainCore k s) 13 (decCause i.info.opcode false r.2) (countLong k v3))

/-- The end of a packed-decimal instruction: a long operation where an operand is longer than 8 bytes (R97). -/
def Sys2Proof.PackedEnd (s : State) (k : CoreId) (i : Inst) (u v : State) (long : Bool) (d : Dest) (n r : Nat) (fl : List (Nat × Bool))
    (t : State) : Prop :=
  (long = true → completesAtIssue v k) ∧
    ∃ w, ((ctxOf k i u).write [(d, n, r)]).run (if long then countLong k v else v) = .ok () w ∧
      Marked k (w.setCore k ((w.core k).setFlags fl)) ∧ t = seqEnd s (ctxOf k i u) (w.setCore k ((w.core k).setFlags fl))

/-- ADDP and SUBP (R95). -/
def Sys2Proof.packedRows : List (InstrRow × (Int → Int → Int)) := [((.addp, addpRow), (· + ·)), ((.subp, subpRow), (· - ·))]

/-- The packed-decimal instructions on sources whose digits and signs R93 allows: sum and difference cut to the destination's
digits (R95), comparison (R95), and the conversions from and to an integer (R96). -/
def Obligations.PackedResult : Prop :=
  (∀ row ∈ packedRows, ∀ (k : CoreId) (e : Enc) (s u v1 v2 t : State) (i : Inst) (a : List Byte) (b : Nat) (d : Dest) (r : Int),
    Issues k row.1.2 e anyLevel s i u →
    ((ctxOf k i u).load 0).run (opened k i u) = .ok a v1 → ((ctxOf k i u).both 1).run v1 = .ok (b, d) v2 →
    packedOk a = true → packedOk (leBytes i.packLo b) = true →
    r = row.2 (packedValue (leBytes i.packLo b)) (packedValue a) →
    PackedEnd s k i u v2 (8 < i.packHi || 8 < i.packLo) d i.packLo (leNat (packedBytes i.packLo r)) (packedFlags i.packLo r) t →
    exec (row.1.1 k e) s = .next t) ∧
  (∀ (k : CoreId) (e : Enc) (s u v1 v2 : State) (i : Inst) (a b : List Byte),
    Issues k cmppRow e anyLevel s i u →
    ((ctxOf k i u).load 0).run (opened k i u) = .ok a v1 → ((ctxOf k i u).load 1).run v1 = .ok b v2 →
    packedOk a = true → packedOk b = true → ∀ v, ((8 < i.packHi ∨ 8 < i.packLo) → completesAtIssue v2 k) →
    v = (if 8 < i.packHi ∨ 8 < i.packLo then countLong k v2 else v2) →
    ∀ z, z = v.setCore k ((v.core k).setFlags
      [(fN, decide (packedValue a < packedValue b)), (fZ, decide (packedValue a = packedValue b)), (fV, false),
        (fC, decide (packedValue a < packedValue b))]) → Marked k z →
      exec (.cmpp k e) s = .next (seqEnd s (ctxOf k i u) z)) ∧
  (∀ (k : CoreId) (e : Enc) (s u v1 v2 t : State) (i : Inst) (a : List Byte) (d : Dest),
    Issues k cvtpbRow e anyLevel s i u →
    ((ctxOf k i u).load 0).run (opened k i u) = .ok a v1 → ((ctxOf k i u).dst 1).run v1 = .ok d v2 → packedOk a = true →
    PackedEnd s k i u v2 (8 < i.packHi) d (i.w / 8) (cvtpbRes i.w (packedValue a)).1 (cvtpbRes i.w (packedValue a)).2 t →
    exec (.cvtpb k e) s = .next t) ∧
  (∀ (k : CoreId) (e : Enc) (s u v1 v2 t : State) (i : Inst) (a : Nat) (d : Dest),
    Issues k cvtbpRow e anyLevel s i u →
    ((ctxOf k i u).src 0).run (opened k i u) = .ok a v1 → ((ctxOf k i u).dst 1).run v1 = .ok d v2 →
    PackedEnd s k i u v2 (8 < i.packLo) d i.packLo (leNat (packedBytes i.packLo (signedOf i.w a)))
      (cvtbpFlags i.packLo (signedOf i.w a)) t →
    exec (.cvtbp k e) s = .next t)

-- long operations of a BULK thread (R135, R136)

/-- A division of a BULK thread with fewer than eight long operations incomplete and a 64-bit X destination writes nothing at
issue: it leaves a long operation that holds the result and the flags. When an operation completes, whatever its place, its
destination (an X register as named then, a D register or the bytes of memory found at issue) and its flags take their values, and
it is gone; where it carries a fault, the fault becomes pending among those of older and younger operations (R137) instead and the destination stays. -/
def Obligations.LongOperation : Prop :=
  (∀ row ∈ divideRows, ∀ (k : CoreId) (e : Enc) (s u v1 v2 v3 : State) (i : Inst) (a b n : Nat),
    Issues k row.1.2 e anyLevel s i u → i.w = 64 →
    ((ctxOf k i u).src 0).run (opened k i u) = .ok a v1 → ((ctxOf k i u).src 1).run v1 = .ok b v2 →
    ((ctxOf k i u).dst 2).run v2 = .ok (.x n) v3 → isBulk v3 k = true → (v3.core k).longOps.length < 8 →
    (b % 2 ^ i.w ≠ 0 ∨ (v3.core k).swBit 19 = false) →
    ∀ c, c = (((countLong k v3).core k).unflag (row.2 i.w a b).2).overwritten (isX n) →
    ∀ z, z = (countLong k v3).setCore k
      { c with
        longs := c.longs + 1
        longOps := c.longOps ++ [{ age := c.longs, opcode := i.info.opcode, cursor := BitVec.ofNat 64 c.pcc.cursor
                                   dest := .x (Fin.ofNat 8 n) 64, value := BitVec.ofNat 128 (row.2 i.w a b).1
                                   bytes := leBytes 8 (row.2 i.w a b).1, flags := (row.2 i.w a b).2, raised := 0
                                   faultVec := none, release := i.release }] } → Marked k z →
      exec (row.1.1 k e) s = .next (seqEnd s (ctxOf k i u) z)) ∧
  (∀ (k : CoreId) (i : Nat) (s : State) (o : LongOp) (c : Core), (s.core k).longOps[i]? = some o →
    c = ({ s.core k with longOps := (s.core k).longOps.eraseIdx i }).raised o.raised.toNat →
    (∀ v, o.faultVec = some v → exec (.longOperationComplete k i) s =
        .next (s.setCore k { c with imprecise := addImprecise ⟨o.age, v, o.cursor, o.dest⟩ c.imprecise })) ∧
    (o.faultVec = none → ∀ d, d = ({ c with sw := swWith c.sw o.flags }) →
      (o.dest = .none → exec (.longOperationComplete k i) s = .next (s.setCore k d)) ∧
      (∀ n w, o.dest = .x n w → exec (.longOperationComplete k i) s =
        .next (s.setCore k (d.setXReg n.val (narrow (c.xReg n.val) w o.value.toNat)))) ∧
      (∀ n, o.dest = .d n → exec (.longOperationComplete k i) s =
        .next (s.setCore k { d with ds := d.ds.set n o.value }.touchDec)) ∧
      (∀ ps, o.dest = .mem ps → exec (.longOperationComplete k i) s =
        .next (o.puts.foldl (completePart k) (s.setCore k d)))))

-- capabilities (chapter 2)

/-- Number of the register that a direct operand names. -/
def Sys2Proof.regAtOp (i : Inst) (n : Nat) : Nat := (i.ops.getD n (⟨2, 0, 0, 0⟩, ⟨.i, .w, .src⟩)).1.reg.toNat

/-- The state with a capability register written, in the bank that stands (R59). -/
def Sys2Proof.putC (k : CoreId) (n : Nat) (c : TCap) (v : State) : State := v.setCore k ((v.core k).setCReg n c)

/-- The instructions that give one capability register a value made from another alone: CCOPY and CVOID always; CSENT from a
tagged, unsealed capability with EX (Table 2.3). -/
def Sys2Proof.CapabilityCopyResult : Prop :=
  ∀ (k : CoreId) (e : Enc) (s u v : State) (i : Inst) (c : TCap), v = opened k i u → c = (v.core k).cReg (regAtOp i 0) →
    (Issues k ccopyRow e anyLevel s i u →
      ∀ z, z = putC k (regAtOp i 1) c v → Marked k z →
        exec (.ccopy k e) s = .next (seqEnd s (ctxOf k i u) z)) ∧
    (Issues k cvoidRow e anyLevel s i u →
      ∀ z, z = putC k (regAtOp i 1) c.clearTag v → Marked k z →
        exec (.cvoid k e) s = .next (seqEnd s (ctxOf k i u) z)) ∧
    (Issues k csentRow e anyLevel s i u → c.tag = true → c.otype = 0 → c.has permEX = true →
      ∀ z, z = putC k (regAtOp i 1) (c.put 115 104 0xFFF) v → Marked k z →
        exec (.csent k e) s = .next (seqEnd s (ctxOf k i u) z))

/-- The derivations by an integer operand (Table 2.3): the cursor moved by or to it (CSTEP, CPLACE), permissions masked
(CDROP), MODE set (CMODE), bounds narrowed to the representable range that R36 gives, or only where it is exact (CFIT, CFITX);
each under the conditions of its row, with the result untagged where R35 says so. -/
def Sys2Proof.CapabilityDeriveResult : Prop :=
  ∀ (k : CoreId) (e : Enc) (s u v v1 : State) (i : Inst) (c : TCap) (a : Nat), v = opened k i u →
    c = (v.core k).cReg (regAtOp i 0) → ((ctxOf k i u).src 1).run v = .ok a v1 →
    (Issues k cstepRow e anyLevel s i u → c.sealed = false →
      ∀ z, z = putC k (regAtOp i 2) (c.step (signedOf 64 a)) v1 → Marked k z →
        exec (.cstep k e) s = .next (seqEnd s (ctxOf k i u) z)) ∧
    (Issues k cplaceRow e anyLevel s i u → c.sealed = false →
      ∀ z, z = putC k (regAtOp i 2) (c.moveTo a) v1 → Marked k z →
        exec (.cplace k e) s = .next (seqEnd s (ctxOf k i u) z)) ∧
    (Issues k cdropRow e anyLevel s i u → c.sealed = false →
      ∀ z, z = putC k (regAtOp i 2) (c.put 127 116 (c.perms &&& a)) v1 → Marked k z →
        exec (.cdrop k e) s = .next (seqEnd s (ctxOf k i u) z)) ∧
    (Issues k cmodeRow e anyLevel s i u → c.tag = true → c.otype = 0 → c.has permEX = true →
      ∀ z, z = putC k (regAtOp i 2) (c.put 98 98 (a % 2)) v1 → Marked k z →
        exec (.cmode k e) s = .next (seqEnd s (ctxOf k i u) z)) ∧
    (c.tag = true → c.otype = 0 → ∀ f, fitRange c.cursor a = some f → c.base ≤ (f.base : Int) → (f.top : Int) ≤ c.top →
      (Issues k cfitRow e anyLevel s i u →
        ∀ z, z = putC k (regAtOp i 2) (c.withFit f) v1 → Marked k z →
          exec (.cfit k e) s = .next (seqEnd s (ctxOf k i u) z)) ∧
      (Issues k cfitxRow e anyLevel s i u → f.base = c.cursor → f.top = c.cursor + a →
        ∀ z, z = putC k (regAtOp i 2) (c.withFit f) v1 → Marked k z →
          exec (.cfitx k e) s = .next (seqEnd s (ctxOf k i u) z)))

/-- An authority for branding: tagged, unsealed, local, its cursor in its bounds (Table 2.3). -/
def Sys2Proof.Authority (a : TCap) (perm : Nat) : Prop :=
  a.tag = true ∧ a.otype = 0 ∧ a.has perm = true ∧ a.node = 511 ∧ a.base ≤ (a.cursor : Int) ∧ (a.cursor : Int) < a.top

/-- CBRAND gives the source the brand that its authority's cursor names; CUNBR takes off a brand that its authority's cursor
names, and GL then needs both to have it (Table 2.3, R43). -/
def Sys2Proof.CapabilityBrandResult : Prop :=
  ∀ (k : CoreId) (e : Enc) (s u v : State) (i : Inst) (c a : TCap), v = opened k i u →
    c = (v.core k).cReg (regAtOp i 0) → a = (v.core k).cReg (regAtOp i 1) →
    (Issues k cbrandRow e anyLevel s i u → c.tag = true → c.otype = 0 → Authority a permSE →
      1 ≤ a.cursor → a.cursor ≤ 0xFFE →
      ∀ z, z = putC k (regAtOp i 2) (c.put 115 104 a.cursor) v → Marked k z →
        exec (.cbrand k e) s = .next (seqEnd s (ctxOf k i u) z)) ∧
    (Issues k cunbrRow e anyLevel s i u → c.tag = true → 1 ≤ c.otype → c.otype ≤ 0xFFE → Authority a permUS →
      a.cursor = c.otype →
      ∀ z, z = putC k (regAtOp i 2)
        ((c.put 115 104 0).put 121 121 (b2n (c.has permGL && a.has permGL))) v → Marked k z →
        exec (.cunbr k e) s = .next (seqEnd s (ctxOf k i u) z))

/-- The instructions that give one capability register a value made from another alone: CCOPY and CVOID always; CSENT from a
tagged, unsealed capability with EX (Table 2.3). The derivations by an integer operand (Table 2.3): the cursor moved by or to it
(CSTEP, CPLACE), permissions masked (CDROP), MODE set (CMODE), bounds narrowed to the representable range that R36 gives, or
only where it is exact (CFIT, CFITX); each under the conditions of its row, with the result untagged where R35 says so. CBRAND
gives the source the brand that its authority's cursor names; CUNBR takes off a brand that its authority's cursor names, and GL
then needs both to have it (Table 2.3, R43). -/
def Obligations.CapabilityResult : Prop := CapabilityCopyResult ∧ CapabilityDeriveResult ∧ CapabilityBrandResult

/-- The field reads of Table 2.3, each with the number it delivers. -/
def Sys2Proof.fieldRows : List (InstrRow × (TCap → Nat)) :=
  [((.crbase, crbaseRow), fun c => unsignedOf 64 c.readBounds.1), ((.crtop, crtopRow), fun c => unsignedOf 64 c.readBounds.2),
   ((.crspan, crspanRow), fun c => unsignedOf 64 (c.readBounds.2 - c.readBounds.1)), ((.crperm, crpermRow), TCap.perms),
   ((.crotype, crotypeRow), TCap.otype), ((.crtag, crtagRow), fun c => b2n c.tag), ((.crnode, crnodeRow), TCap.node),
   ((.crepoch, crepochRow), TCap.epoch)]

/-- A field read writes its field, and nothing else. CLDC loads a capability from one aligned granule through its operand, with
the tag that R45 lets through; CSTC stores one, its tag only where R48 and the SC, SL, GL and TE checks of R41 let it. -/
def Obligations.CapabilityMoveResult : Prop :=
  (∀ row ∈ fieldRows, ∀ (k : CoreId) (e : Enc) (s u v1 v2 : State) (i : Inst) (d : Dest),
    Issues k row.1.2 e anyLevel s i u → ((ctxOf k i u).dst 1).run (opened k i u) = .ok d v1 →
    ((ctxOf k i u).put 1 d (row.2 (((opened k i u).core k).cReg (regAtOp i 0)))).run v1 = .ok () v2 →
    Marked k v2 → exec (row.1.1 k e) s = .next (seqEnd s (ctxOf k i u) v2)) ∧
  (∀ (k : CoreId) (e : Enc) (s u v1 v2 v3 : State) (i : Inst) (l : Loc) (ps : List Part) (r : List Byte × Bool),
    Issues k cldcRow e anyLevel s i u → ((ctxOf k i u).loc 0 false).run (opened k i u) = .ok l v1 →
    (resolve k l.cap l.ea 16 .read true 0).run v1 = .ok ps v2 → (loadParts k l.cap true 0 ps).run v2 = .ok r v3 →
    ∀ z, z = putC k (regAtOp i 1) (capOf r.1 r.2) v3 → Marked k z →
      exec (.cldc k e) s = .next (seqEnd s (ctxOf k i u) z)) ∧
  (∀ (k : CoreId) (e : Enc) (s u v1 v2 v3 : State) (i : Inst) (c : TCap) (l : Loc) (ps : List Part),
    Issues k cstcRow e anyLevel s i u → c = ((opened k i u).core k).cReg (regAtOp i 0) →
    ((ctxOf k i u).loc 1 true).run (opened k i u) = .ok l v1 → (resolve k l.cap l.ea 16 .write true 1 c).run v1 = .ok ps v2 →
    (c.tag = true → l.cap.has permSC = true ∧ (c.has permGL = true ∨ l.cap.has permSL = true) ∧
      (l.cap.node ≠ 511 → c.has permGL = true ∧ c.has permFB = true) ∧ ∀ p ∈ ps, p.te = true) ∧
    ((putAll k [ps.map fun p => ⟨p, l.cap, c.bytes, c.tag, true, i.release⟩]).run v2 = .ok () v3 →
      Marked k v3 → exec (.cstc k e) s = .next (seqEnd s (ctxOf k i u) v3)))

-- control (chapter 5)

/-- The PCC that a relative transfer installs: next + displacement, reduced in the code window in forerunner mode (R71, R75). -/
def Sys2Proof.relativeTo (k : CoreId) (i : Inst) (u : State) : TCap := (ctxOf k i u).relative

/-- The frame that a call pushes: next as RPCC, kind 1, the bank and SW[31:0] (R109). -/
def Sys2Proof.callFrame (k : CoreId) (i : Inst) (u : State) (sw : Word) (c : Core) : RFrame :=
  ⟨(ctxOf k i u).next, swImage kindCall c.bankOn 0 (nbits sw.toNat 31 0), 0⟩

/-- A call's push succeeds: SW is read whole, and the return stack takes the frame (R109, R110). -/
def Sys2Proof.Pushes (k : CoreId) (i : Inst) (u v w : State) : Prop :=
  ∃ sw v', (readSW k).run v = .ok sw v' ∧ (pushFrame k (callFrame k i u sw (v'.core k))).run v' = .ok () w

/-- Bcc transfers where its condition of Table 4.3 holds and goes on where it does not; 14 always and 15 never transfer, and
read no flag. BRL transfers to next + displacement. -/
def Sys2Proof.BranchResult : Prop :=
  (∀ (k : CoreId) (cc : BitVec 4) (wide : Bool) (e : Enc) (s u v : State) (i : Inst) (sw : Word),
    Issues k (bccRow cc wide) e anyLevel s i u →
    (cc = 14 → Marked k (opened k i u) → exec (.bcc k cc wide e) s = .next (jumpEnd s (ctxOf k i u) (relativeTo k i u) (opened k i u))) ∧
    (cc = 15 → Marked k (opened k i u) → exec (.bcc k cc wide e) s = .next (seqEnd s (ctxOf k i u) (opened k i u))) ∧
    (cc ≠ 14 → cc ≠ 15 → (readSW k).run (opened k i u) = .ok sw v → Marked k v →
      exec (.bcc k cc wide e) s = .next (if condHolds sw cc.toNat then jumpEnd s (ctxOf k i u) (relativeTo k i u) v
        else seqEnd s (ctxOf k i u) v))) ∧
  (∀ (k : CoreId) (e : Enc) (s u : State) (i : Inst), Issues k brlRow e anyLevel s i u →
    Marked k (opened k i u) → exec (.brl k e) s = .next (jumpEnd s (ctxOf k i u) (relativeTo k i u) (opened k i u)))

/-- A capability that JMP and CALL accept: tagged, unsealed or a sentry, with EX, local (R107). -/
def Sys2Proof.JumpTarget (c : TCap) : Prop :=
  c.tag = true ∧ (c.otype = 0 ∨ c.otype = 0xFFF) ∧ c.has permEX = true ∧ c.node = 511

/-- JMP, CALL, JMPA, CALLA, CALLR and CALLRL transfer to their targets; the calls push a frame first (R107, R109, R71). -/
def Sys2Proof.JumpAndCallResult : Prop :=
  (∀ (k : CoreId) (e : Enc) (s u w : State) (i : Inst) (c : TCap),
    c = ((opened k i u).core k).cReg (regAtOp i 0) → JumpTarget c →
    (Issues k jmpRow e anyLevel s i u →
      Marked k (opened k i u) → exec (.jmp k e) s = .next (jumpEnd s (ctxOf k i u) (c.put 115 104 0) (opened k i u))) ∧
    (Issues k callRow e anyLevel s i u → Pushes k i u (opened k i u) w →
      Marked k w → exec (.call k e) s = .next (jumpEnd s (ctxOf k i u) (c.put 115 104 0) w))) ∧
  (∀ (k : CoreId) (e : Enc) (s u v w : State) (i : Inst) (a : Nat) (p : TCap),
    ((ctxOf k i u).src 0).run (opened k i u) = .ok a v → p = (ctxOf k i u).target ((ctxOf k i u).next.base + a) →
    (Issues k jmpaRow e anyLevel s i u → Marked k v → exec (.jmpa k e) s = .next (jumpEnd s (ctxOf k i u) p v)) ∧
    (Issues k callaRow e anyLevel s i u → Pushes k i u v w → Marked k w → exec (.calla k e) s = .next (jumpEnd s (ctxOf k i u) p w))) ∧
  (∀ (k : CoreId) (e : Enc) (s u w : State) (i : Inst), Pushes k i u (opened k i u) w →
    (Issues k callrRow e anyLevel s i u → Marked k w → exec (.callr k e) s = .next (jumpEnd s (ctxOf k i u) (relativeTo k i u) w)) ∧
    (Issues k callrlRow e anyLevel s i u → Marked k w → exec (.callrl k e) s = .next (jumpEnd s (ctxOf k i u) (relativeTo k i u) w)))

/-- Bcc transfers where its condition of Table 4.3 holds and goes on where it does not; 14 always and 15 never transfer, and
read no flag. BRL transfers to next + displacement. JMP, CALL, JMPA, CALLA, CALLR and CALLRL transfer to their targets; the
calls push a frame first (R107, R109, R71). -/
def Obligations.TransferResult : Prop := BranchResult ∧ JumpAndCallResult

/-- RET pops a call frame of its own level and transfers to its RPCC (R109, R111). RETI at level S pops a trap frame that
raises no level and takes SW, bank and PCC from it where no interrupt waits, and chains into the interrupt of R117 where one
does (R121, R122); at level M it pops the machine return stack (R113). -/
def Obligations.ReturnResult : Prop :=
  (∀ (k : CoreId) (e : Enc) (s u v w : State) (i : Inst) (f : RFrame), Issues k retRow e anyLevel s i u →
    (topFrame k).run (opened k i u) = .ok f v → f.kind = kindCall → f.level = (v.core k).level →
    w = after (dropFrame k) v → Marked k w → exec (.ret k e) s = .next (jumpEnd s (ctxOf k i u) f.rpcc w)) ∧
  (∀ (k : CoreId) (e : Enc) (s u v w : State) (i : Inst) (f : RFrame), Issues k retiRow e notAtC s i u →
    ((opened k i u).core k).longOps = [] → ((opened k i u).core k).level ≠ levelM →
    (topFrame k).run (opened k i u) = .ok f v → f.kind = kindTrap → levelTooHigh ((opened k i u).core k) f = false →
    (retire (ctxOf k i u) true).run v = .ok () w →
    (nextIrq ((w.core k).returnTo f) = none →
      exec (.reti k e) s = .next (traced k (after (do dropFrame k; modCore k fun c => c.returnTo f) w))) ∧
    (∀ q, nextIrq ((w.core k).returnTo f) = some q → (w.core k).imprecise = [] →
      exec (.reti k e) s = .next (traced k (after (chainInto k f q) w)))) ∧
  (∀ (k : CoreId) (e : Enc) (s u w : State) (i : Inst) (f : RFrame) (fs : List RFrame), Issues k retiRow e notAtC s i u →
    ((opened k i u).core k).longOps = [] → ((opened k i u).core k).level = levelM →
    ((opened k i u).core k).mstack = f :: fs → levelTooHigh ((opened k i u).core k) f = false →
    (retire (ctxOf k i u) true).run (opened k i u) = .ok () w →
    exec (.reti k e) s = .next (traced k (w.setCore k ({ w.core k with mstack := fs }.returnTo f))))

/-- The entry of a trap that its own instruction asks for was made. -/
def Sys2Proof.Enters (x : Ctx) (vec : Nat) (cause : Word) (p : TCap) (v : State) : Prop :=
  ∀ w, (retire x true).run v = .ok () w → enteredVector ((takeTrap x.k vec cause p w).core x.k) = some vec

/-- SVC below level M takes vector 22 and MCALL at level S vector 23, with the operand as cause; BPT takes vector 20; each with
the next instruction as RPCC (R116, Table 5.4). -/
def Obligations.TrapInstructionResult : Prop :=
  (∀ (k : CoreId) (e : Enc) (s u v : State) (i : Inst) (a : Nat),
    ((ctxOf k i u).src 0).run (opened k i u) = .ok a v →
    (Issues k svcRow e (fun _ c _ => c.level == levelM) s i u →
      Enters (ctxOf k i u) 22 (BitVec.ofNat 64 a) (ctxOf k i u).next v →
      Marked k v → exec (.svc k e) s = .next (trapEnd s (ctxOf k i u) 22 (BitVec.ofNat 64 a) (ctxOf k i u).next v)) ∧
    (Issues k mcallRow e (fun _ c _ => c.level != levelS) s i u →
      Enters (ctxOf k i u) 23 (BitVec.ofNat 64 a) (ctxOf k i u).next v →
      Marked k v → exec (.mcall k e) s = .next (trapEnd s (ctxOf k i u) 23 (BitVec.ofNat 64 a) (ctxOf k i u).next v))) ∧
  (∀ (k : CoreId) (e : Enc) (s u : State) (i : Inst), Issues k bptRow e anyLevel s i u →
    Enters (ctxOf k i u) 20 0 (ctxOf k i u).next (opened k i u) →
    Marked k (opened k i u) → exec (.bpt k e) s = .next (trapEnd s (ctxOf k i u) 20 0 (ctxOf k i u).next (opened k i u)))

/-- A trap that a core takes at level S or C with room on its return stack, no long operation, no imprecise fault and no page mark pending:
the frame holds RPCC, the bank, the vector and SW[31:0] with HOLD and HCNT 0, and the cause; PCC is the vector's entry in the
supervisor window, the level S, IE, HOLD and HCNT 0, the bank on for vectors 64 to 95 alone (R109, R114, R115, R119, R124). At
level M, and for vector 23, the frame goes on the machine return stack and the entry is at level M (R113). -/
def Obligations.TrapEntry : Prop :=
  ∀ (k : CoreId) (vec : Nat) (cause : Word) (p : TCap) (s : State) (c : Core) (f : RFrame), c = s.core k → c.run ≠ .held →
    c.longOps = [] → c.imprecise = [] → c.marks = [] → f = ⟨p, swImage kindTrap c.bankOn vec c.swFrame, cause⟩ →
    (c.level ≠ levelM → vec ≠ 23 → vec ≠ 14 → vec ≠ 19 → c.rstack.length < 32 →
      takeTrap k vec cause p s =
        s.setCore k ({ c with rstack := f :: c.rstack }.enterAt (entryPcc s k false vec) levelS vec)) ∧
    (c.level = levelM ∨ vec = 23 → ¬ (vec = 14 ∧ cause = 0) → vec ≠ 19 → c.mstack.length < 8 →
      takeTrap k vec cause p s =
        s.setCore k ({ c with mstack := f :: c.mstack }.enterAt (entryPcc s k true vec) levelM vec))

-- status word, system registers, barriers and the escape page

/-- Every older access of the core's thread has been performed (R130, R180). -/
def Sys2Proof.Done (s : State) (k : CoreId) : Prop := (s.core k).longWhere isMemDest = none ∧ unperformed s k = false

/-- NOP does nothing. FENCE completes where no long operation is to write memory and every older store is performed, FENCE.E where no
long operation is incomplete and no imprecise fault pending either (R130). EI and DI, at levels S and M, set and clear IE (R116). -/
def Sys2Proof.PlainInstructionResult : Prop :=
  ∀ (k : CoreId) (e : Enc) (s u v : State) (i : Inst), v = opened k i u →
    (Issues k nopRow e anyLevel s i u → Marked k v → exec (.nop k e) s = .next (seqEnd s (ctxOf k i u) v)) ∧
    (Issues k fenceRow e anyLevel s i u → Done v k →
      Marked k v → exec (.fence k e) s = .next (seqEnd s (ctxOf k i u) v)) ∧
    (Issues k fenceERow e anyLevel s i u → Settled (v.core k) → unperformed v k = false →
      Marked k v → exec (.fenceE k e) s = .next (seqEnd s (ctxOf k i u) v)) ∧
    (Issues k eiRow e notAtC s i u → ∀ z, z = v.setCore k { v.core k with sw := putBits (v.core k).sw 20 20 1 } → Marked k z →
      exec (.ei k e) s = .next (seqEnd s (ctxOf k i u) z)) ∧
    (Issues k diRow e notAtC s i u → ∀ z, z = v.setCore k { v.core k with sw := putBits (v.core k).sw 20 20 0 } → Marked k z →
      exec (.di k e) s = .next (seqEnd s (ctxOf k i u) z))

/-- RDSW delivers SW. WRSW writes the six flags, and above level C also DZE and IE; no other bit of SW, whatever the operand has
there (R56). -/
def Sys2Proof.StatusWordResult : Prop :=
  (∀ (k : CoreId) (e : Enc) (s u v v1 v2 : State) (i : Inst) (sw : Word) (d : Dest), Issues k rdswRow e anyLevel s i u →
    (readSW k).run (opened k i u) = .ok sw v → ((ctxOf k i u).dst 0).run v = .ok d v1 →
    ((ctxOf k i u).put 0 d sw.toNat).run v1 = .ok () v2 → Marked k v2 → exec (.rdsw k e) s = .next (seqEnd s (ctxOf k i u) v2)) ∧
  (∀ (k : CoreId) (e : Enc) (s u v : State) (i : Inst) (a : Nat) (w : Word), Issues k wrswRow e anyLevel s i u →
    ((ctxOf k i u).src 0).run (opened k i u) = .ok a v → w = wrswValue (v.core k).level (v.core k).sw a →
    ∀ z, z = v.setCore k
      { (v.core k).unflag ((List.range 6).map fun j => (j, a.testBit j)) with sw := w } → Marked k z →
      exec (.wrsw k e) s = .next (seqEnd s (ctxOf k i u) z) ∧
    (∀ j < 64, w.toNat.testBit j = if j < 6 ∨ ((j = 19 ∨ j = 20) ∧ (v.core k).level ≠ levelC) then a.testBit j
      else (v.core k).sw.toNat.testBit j))

/-- RDSR and RDSC deliver system registers, WRSR and WRSC write them, where R57 does not deny the register; a value that R58, R115,
R158 or R163 refuses takes vector 9 with reason 9 and writes nothing; RDSC and WRSC pass no sealed capability (R42). (The byte that reason 9 tells
and the cause of the brand fault are the model's choices, log entries 103 and 30.) -/
def Sys2Proof.SystemRegisterResult : Prop :=
  (∀ (k : CoreId) (e : Enc) (s u v v1 v2 : State) (i : Inst) (a : Nat) (d : Dest), Issues k rdsrRow e sysDenied s i u →
    (sysRead k (i.fixed % 256)).run (opened k i u) = .ok a v → ((ctxOf k i u).dst 0).run v = .ok d v1 →
    ((ctxOf k i u).put 0 d a).run v1 = .ok () v2 → Marked k v2 → exec (.rdsr k e) s = .next (seqEnd s (ctxOf k i u) v2)) ∧
  (∀ (k : CoreId) (e : Enc) (s u v : State) (i : Inst) (a n : Nat), Issues k wrsrRow e sysDenied s i u → n = i.fixed % 256 →
    (n = 3 → ∃ q, (readDsr k).run (opened k i u) = .ok q (opened k i u)) →
    ((ctxOf k i u).src 0).run (opened k i u) = .ok a v →
    (∀ c, sysWrite v k n a = some c → Marked k (v.setCore k c) → exec (.wrsr k e) s = .next (seqEnd s (ctxOf k i u) (v.setCore k c))) ∧
    (sysWrite v k n a = none → exec (.wrsr k e) s =
      .next (stoppedBy k (drainCore k s) 9 (illegalCause i.fixedOff 9) v))) ∧
  (∀ (k : CoreId) (e : Enc) (s u v : State) (i : Inst), v = opened k i u →
    (Issues k rdscRow e sysDenied s i u → (v.core k).rsc.sealed = false →
      ∀ z, z = putC k (regAtOp i 0) (v.core k).rsc v → Marked k z →
        exec (.rdsc k e) s = .next (seqEnd s (ctxOf k i u) z)) ∧
    (Issues k wrscRow e sysDenied s i u → ((v.core k).cReg (regAtOp i 0)).sealed = false → ∀ z, z = v.setCore k { v.core k with rsc := (v.core k).cReg (regAtOp i 0) } → Marked k z →
      exec (.wrsc k e) s = .next (seqEnd s (ctxOf k i u) z)) ∧
    (∀ c, (Issues k rdscRow e sysDenied s i u ∧ c = (v.core k).rsc → c.sealed = true →
        exec (.rdsc k e) s = .next (stoppedBy k (drainCore k s) 4 (memCause 0 0 c.cursor) v)) ∧
      (Issues k wrscRow e sysDenied s i u ∧ c = (v.core k).cReg (regAtOp i 0) → c.sealed = true →
        exec (.wrsc k e) s = .next (stoppedBy k (drainCore k s) 4 (memCause 0 0 c.cursor) v))))

/-- RDSW delivers SW. WRSW writes the six flags, and above level C also DZE and IE; no other bit of SW, whatever the operand has
there (R56). RDSR and RDSC deliver system registers, WRSR and WRSC write them, where R57 does not deny the register; a value
that R58, R115, R158 or R163 refuses takes vector 9 with reason 9 and writes nothing; RDSC and WRSC pass no sealed capability
(R42). (The byte that reason 9 tells and the cause of the brand fault are the model's choices, log entries 103 and 30.) -/
def Obligations.SystemStateResult : Prop := StatusWordResult ∧ SystemRegisterResult

/-- TLBI drops the slots that map its address, TLBIK those of its key, TLBIA all, WCI the walk cache, at levels S and M, once every older
access is performed (R162, R166). PMCRD delivers a counter of Table 6.12; one whose count depends on what the model has no state for
has advanced by a free value since it was last read (R148, log entry 12). -/
def Sys2Proof.EscapePageResult : Prop :=
  (∀ (k : CoreId) (e : Enc) (s u v : State) (i : Inst) (a : Nat), ((ctxOf k i u).src 0).run (opened k i u) = .ok a v →
    (Issues k tlbiRow e notAtC s i u → Done v k → ∀ z, z = v.setCore k
      { v.core k with tlb := (v.core k).tlb.filter fun t => !(t.vbase ≤ a % 2 ^ 55 && a % 2 ^ 55 < t.vbase + t.size) } → Marked k z →
      exec (.tlbi k e) s = .next (seqEnd s (ctxOf k i u) z)) ∧
    (Issues k tlbikRow e notAtC s i u → a ≤ 15 → Done v k → ∀ z, z = v.setCore k
      { v.core k with tlb := (v.core k).tlb.filter fun t => !(t.key.toNat == a) } → Marked k z →
      exec (.tlbik k e) s = .next (seqEnd s (ctxOf k i u) z)) ∧
    (∀ (d : Dest) (v1 v2 : State),
      Issues k pmcrdRow e (fun s c _ => c.level == levelC && !s.flag k.half (Reg.GRV_MODE_CEN.grove k.grove.val)) s i u →
      a ≤ 15 → ((ctxOf k i u).dst 1).run v = .ok d v1 →
      (openCounter (isPaced v1 k) a = false → ((ctxOf k i u).put 1 d ((v1.core k).perf.toList.getD a 0).toNat).run v1 = .ok () v2 →
        Marked k v2 → exec (.pmcrd k e) s = .next (seqEnd s (ctxOf k i u) v2)) ∧
      (openCounter (isPaced v1 k) a = true → ∀ n, n = (v1.core k).perf.toList.getD a 0 + v1.takeFree.1 →
        ((ctxOf k i u).put 1 d n.toNat).run v1.takeFree.2 = .ok () v2 →
        ∀ z, z = v2.setCore k { v2.core k with perf := (v2.core k).perf.setIfInBounds a n } → Marked k z →
          exec (.pmcrd k e) s = .next (seqEnd s (ctxOf k i u) z)))) ∧
  (∀ (k : CoreId) (e : Enc) (s u v : State) (i : Inst), v = opened k i u →
    (Issues k tlbiaRow e notAtC s i u → Done v k →
      ∀ z, z = v.setCore k { v.core k with tlb := [] } → Marked k z →
        exec (.tlbia k e) s = .next (seqEnd s (ctxOf k i u) z)) ∧
    (Issues k wciRow e notAtC s i u → Done v k →
      ∀ z, z = v.setCore k { v.core k with walk := [] } → Marked k z →
        exec (.wci k e) s = .next (seqEnd s (ctxOf k i u) z)))

/-- NOP does nothing. FENCE completes where no long operation is to write memory and every older store is performed, FENCE.E
where no long operation is incomplete and no imprecise fault pending either (R130). EI and DI, at levels S and M, set and clear
IE (R116). TLBI drops the slots that map its address, TLBIK those of its key, TLBIA all, WCI the walk cache, at levels S and M,
once every older access is performed (R162, R166). PMCRD delivers a counter of Table 6.12; one whose count depends on what the
model has no state for has advanced by a free value since it was last read (R148, log entry 12). -/
def Obligations.PlainAndEscapeResult : Prop := PlainInstructionResult ∧ EscapePageResult

/-- WAIT below level M and outside a HOLD region, with every older access performed: the writes of the cached frames (R203 step 2) and
those of the thread's record and decimal context (steps 3 to 5) pass their checks, the frames go to memory, the instruction retires, and the commit point
makes those writes, ends the step and releases its effects (R203, R205); a core without a thread becomes free (R201). -/
def Obligations.WaitResult : Prop :=
  (∀ (k : CoreId) (e : Enc) (s u v v2 w : State) (i : Inst) (ps : List PutPart),
    Issues k waitRow e (fun _ c _ => c.level == levelM) s i u → ((opened k i u).core k).swBit 23 = false →
    Settled ((opened k i u).core k) → unperformed (opened k i u) k = false → (spillAll k).run (opened k i u) = .ok ps v →
    (∀ t, (v.core k).thread = some t → (checkRecord k t).run v = .ok () v) →
    (putUnpaced k ps).run v = .ok () v2 → (retire (ctxOf k i u) true).run v2 = .ok () w →
    exec (.wait k e) s = .next (commitPoint k (ctxOf k i u).next w)) ∧
  (∀ (k : CoreId) (p : TCap) (w : State), (w.core k).thread = none → (w.core k).run ≠ .held →
    commitPoint k p w = w.setCore k { w.core k with run := .idle })

-- frames of the Aboux/C instructions

/-- The value of a source operand that names no memory: a register's low bytes, a short literal, an immediate (Table 3.9). -/
def Sys2Proof.directValue (c : Core) (x : Ctx) (n : Nat) : Option Nat :=
  match (x.op n).1.mode.toNat with
  | 0 => some ((c.xReg (x.op n).1.reg.toNat).toNat % 2 ^ (8 * x.inst.size (x.op n).2.size))
  | 2 => some (x.op n).1.reg.toNat
  | 3 => some ((x.op n).1.ext.toNat % 2 ^ (8 * x.inst.size (x.op n).2.size))
  | _ => none

/-- What an instruction that writes an integer register or flags leaves as it was: every other register of the core, of
either bank, the machine's memory and set-up registers, and every other core. -/
structure Sys2Proof.CoreFrame (k : CoreId) (u t : State) : Prop where
  caps : (t.core k).caps = (u.core k).caps ∧ (t.core k).bankC = (u.core k).bankC ∧ (t.core k).bankOn = (u.core k).bankOn
  decimals : (t.core k).ds = (u.core k).ds ∧ (t.core k).dsr = (u.core k).dsr ∧ (t.core k).decOwner = (u.core k).decOwner
  system : (t.core k).vba = (u.core k).vba ∧ (t.core k).krr = (u.core k).krr ∧ (t.core k).rsc = (u.core k).rsc ∧
    (t.core k).btr = (u.core k).btr
  returns : (t.core k).rstack = (u.core k).rstack ∧ (t.core k).mstack = (u.core k).mstack ∧ (t.core k).irqs = (u.core k).irqs
  step : (t.core k).journal = (u.core k).journal ∧ (t.core k).effects = (u.core k).effects ∧
    (t.core k).thread = (u.core k).thread
  cores : ∀ h n, (h, n) ≠ (k.half, k.num) → t.coreN h n = u.coreN h n
  memory : ∀ h, (t.half h).mem = (u.half h).mem ∧ (t.half h).regs = (u.half h).regs
  host : t.host = u.host ∧ t.out = u.out ∧ t.timebase = u.timebase

/-- A three-operand instruction on registers, literals and immediates, outside a HOLD region, with no long operation incomplete and no
page-table entry to mark, always completes: the destination register takes the result in its low bytes and keeps the rest (R54), the flags
the row names take their values, PCC goes to the next instruction, and nothing else that CoreFrame lists changes: no other X
register and no other bit of SW. -/
def Obligations.RegisterFormFrame : Prop :=
  ∀ row ∈ threeOperandRows, ∀ (k : CoreId) (e : Enc) (s u : State) (i : Inst) (a b r : Nat) (x : Ctx),
    Issues k row.1.2 e anyLevel s i u → x = ctxOf k i u → i.atomic = false → i.hold = none →
    (u.core k).swBit 23 = false → (u.core k).run ≠ .held → Settled (u.core k) → (u.core k).marks = [] →
    directValue (u.core k) x 0 = some a → directValue (u.core k) x 1 = some b →
    (x.op 2).1.mode = 0 → r = (x.op 2).1.reg.toNat → r < 8 →
    ∃ t, exec (row.1.1 k e) s = .next t ∧
      (t.core k).xReg r = narrow ((u.core k).xReg r) (8 * i.size (x.op 2).2.size) (row.2 i.w a b).1 ∧
      (∀ n, n ≠ r → (t.core k).xReg n = (u.core k).xReg n) ∧
      (∀ f ∈ (row.2 i.w a b).2, (t.core k).swBit f.1 = f.2) ∧
      (∀ j, (∀ f ∈ (row.2 i.w a b).2, f.1 ≠ j) → (t.core k).swBit j = (u.core k).swBit j) ∧
      (t.core k).pcc = nextPcc (u.core k).pcc i.len ∧ CoreFrame k u t

/-- Parts of an access that lie in Canopy or DDR of this package, marked in no page table, with no error standing in a line that they
touch, and no capability in a line of the other half's (R49). -/
def Sys2Proof.PlainParts (s : State) (k : CoreId) (ps : List Part) : Prop :=
  ∀ p ∈ ps, p.remote = false ∧ p.leaf = none ∧ ∃ h a, homeOf s k.half p.phys = some (h, a) ∧
    ∀ g ∈ (granulesOf a p.n).flatMap (fun g => lineGranules (g / 4)),
      g ∉ (s.half h).mem.poison ∧ g ∉ (s.half h).mem.ue ∧ g ∉ (s.half h).mem.ce ∧
      g / 4 ∉ (s.half h).mem.lineP ∧ g / 4 ∉ (s.half h).mem.lineUe ∧ g / 4 ∉ (s.half h).mem.lineCe ∧
      (h ≠ k.half → g ∉ (s.half h).mem.tags)

/-- A two-operand instruction that stores to memory outside a restartable step and a HOLD region, with no long operation incomplete
and no page-table entry to mark: it always
completes, and no byte of either half's memory changes but those of the parts its destination operand resolved to, whose
granules lose their tags (R46); host memory and the set-up registers stay. -/
def Obligations.StoreFrame : Prop :=
  ∀ row ∈ twoOperandRows, ∀ (k : CoreId) (e : Enc) (s u v1 v2 : State) (i : Inst) (a : Nat) (cap : TCap) (ps : List Part),
    Issues k row.1.2 e anyLevel s i u →
    ((ctxOf k i u).src 0).run (opened k i u) = .ok a v1 → ((ctxOf k i u).dst 1).run v1 = .ok (.mem cap ps) v2 →
    (v2.core k).restartable = false → (v2.core k).run ≠ .held → Settled (v2.core k) → (v2.core k).marks = [] →
    (v2.core k).swBit 23 = false → PlainParts v2 k ps →
    ∃ t, exec (row.1.1 k e) s = .next t ∧ t.host = v2.host ∧
      (∀ h, (t.half h).regs = (v2.half h).regs) ∧
      (∀ h c, (∀ p ∈ ps, ∀ b, homeOf v2 k.half p.phys = some (h, b) → c < b ∨ b + p.n ≤ c) →
        readCells (t.half h).mem.cells c 1 = readCells (v2.half h).mem.cells c 1) ∧
      (∀ h g, g ∈ (t.half h).mem.tags ↔ g ∈ (v2.half h).mem.tags ∧
        ∀ p ∈ ps, ∀ b, homeOf v2 k.half p.phys = some (h, b) → g ∉ granulesOf b p.n)

-- set-up commands: writes and reads of a master (chapters 1, 9 and the register maps)

/-- A command is carried out as an 8-byte write of a register that the boundary table lets through: the register takes a word
with the given field values, and the state is what the effect makes of that. -/
def Sys2Proof.Written (h : HalfId) (m : BitVec 7) (blk off : Nat) (fs : List (Nat × Nat × Nat)) (effect : Word → State → State)
    (c : Instr) (s : State) : Prop :=
  WriteAllowed h m blk off s →
    ∃ w : Word, (∀ f ∈ fs, nbits w.toNat f.1 f.2.1 = f.2.2) ∧ exec c s = .next (effect w (s.setReg h blk off w))

/-- Commands of the Foreman: START, ABORT_THREAD, ABORT_COMPARTMENT and FREE write FMN_CMD with OP 1–4 and the argument, and
SIGNAL writes FMN_SIGNAL; each has the effect of R213 or R198 on the thread or compartment it names. -/
def Sys2Proof.ForemanCommands : Prop :=
  ∀ (h : HalfId) (m : BitVec 7) (t : BitVec 17) (s : State),
    Written h m 4 0x20 [(63, 61, 1), (16, 0, t.toNat)] (fun _ s => startThread s h t.toNat) (.start h m t) s ∧
    Written h m 4 0x20 [(63, 61, 2), (16, 0, t.toNat)] (fun _ s => abortThreadCmd s h t.toNat) (.abortThread h m t) s ∧
    Written h m 4 0x20 [(63, 61, 3), (16, 0, t.toNat)] (fun _ s => abortCompartmentCmd s h t.toNat) (.abortCompartment h m t) s ∧
    Written h m 4 0x20 [(63, 61, 4), (16, 0, t.toNat)] (fun _ s => freeThread s h t.toNat) (.free h m t) s ∧
    Written h m 4 0x18 [(16, 0, t.toNat)] (fun _ s => fmnEvent s h t.toNat 4) (.signal h m t) s

/-- Commands of Flume, Kiln, Mill and Scaler: each writes its unit's command register with its OP and operands, and the unit
carries that word out. Flume, Mill and Scaler take a command while BUSY is 0 (R236, R275, R283); the vault takes one from the
Warden that holds the latch (R255, R369). -/
def Sys2Proof.UnitCommands : Prop :=
  ∀ (h : HalfId) (m : BitVec 7) (s : State),
    (s.flag h Reg.FLM_SRES_BUSY = false → ∀ (a : BitVec 40) (n : BitVec 16),
      Written h m 6 0x40 [(63, 61, 1), (55, 16, a.toNat), (15, 0, n.toNat)] (fun w s => flmCommand s h w) (.openSession h m a n) s ∧
      Written h m 6 0x40 [(63, 61, 2), (15, 0, n.toNat)] (fun w s => flmCommand s h w) (.close h m n) s ∧
      Written h m 6 0x40 [(63, 61, 3), (15, 0, n.toNat)] (fun w s => flmCommand s h w) (.abort h m n) s ∧
      Written h m 6 0x40 [(63, 61, 4), (15, 0, n.toNat)] (fun w s => flmCommand s h w) (.path0 h m n) s ∧
      Written h m 6 0x40 [(63, 61, 5), (15, 0, n.toNat)] (fun w s => flmCommand s h w) (.path1 h m n) s ∧
      Written h m 6 0x40 [(63, 61, 6), (15, 0, n.toNat)] (fun w s => flmCommand s h w) (.release h m n) s) ∧
    (m = 0x44 → holdsLatch s h = true → ∀ (slot : BitVec 6) (a : BitVec 46),
      Written h m 8 0x38 [(63, 62, 1), (61, 56, slot.toNat), (51, 6, a.toNat)] (fun w s => klnVault s h w) (.unwrap h m slot a) s ∧
      Written h m 8 0x38 [(63, 62, 2), (61, 56, slot.toNat)] (fun w s => klnVault s h w) (.clear h m slot) s ∧
      Written h m 8 0x38 [(63, 62, 3)] (fun w s => klnVault s h w) (.done h m) s) ∧
    (s.flag h Reg.MIL_TRES_BUSY = false → ∀ (slot : Byte) (a : BitVec 40),
      Written h m 9 0x18 [(63, 62, 1), (61, 54, slot.toNat), (45, 6, a.toNat)] (fun w s => millCommand s h w) (.load h m slot a) s ∧
      Written h m 9 0x18 [(63, 62, 2), (61, 54, slot.toNat)] (fun w s => millCommand s h w) (.unload h m slot) s) ∧
    (s.flag h Reg.SCL_PRES_BUSY = false → ∀ (p : BitVec 24) (slot : BitVec 16),
      Written h m 0x0A 0x40 [(63, 61, 1), (23, 0, p.toNat)] (fun w s => sclCommand s h w) (.set h m p) s ∧
      Written h m 0x0A 0x40 [(63, 61, 2), (23, 0, p.toNat)] (fun w s => sclCommand s h w) (.read h m p) s ∧
      Written h m 0x0A 0x40 [(63, 61, 3), (23, 0, p.toNat)] (fun w s => sclCommand s h w) (.flush h m p) s ∧
      Written h m 0x0A 0x40 [(63, 61, 4), (39, 24, slot.toNat)] (fun w s => sclCommand s h w) (.dropCurve h m slot) s ∧
      Written h m 0x0A 0x40 [(63, 61, 5), (39, 24, slot.toNat)] (fun w s => sclCommand s h w) (.dropProgram h m slot) s)

/-- Commands that write a control register of a unit: the ring engine's EN creates and destroys rings (R313), HIF_NOTICE raises
ATTN 1 (R322), BOM_FINV empties the home TLB (R346), BOM_XSIG signals a thread of this or another node (R349), TMB_STEP steps
the timebase (R240), LCS_XREQ and LCS_CINC ask for a life-cycle transition and a counter's advance (R386, R391) and PWR_RST.WARM resets
the package (R407), all three for the Warden that holds the latch; FLT_RETEST starts a retest in Service (R368). -/
def Sys2Proof.ControlCommands : Prop :=
  ∀ (h : HalfId) (m : BitVec 7) (s : State),
    Written h m 5 0 [(0, 0, 1)] (fun _ t => hifEnable t h (s.reg h 5 0).toNat 1) (.ringEngineEnable h m) s ∧
    Written h m 5 0 [(0, 0, 0)] (fun _ t => hifEnable t h (s.reg h 5 0).toNat 0) (.ringEngineDisable h m) s ∧
    Written h m 5 0x38 [(0, 0, 0)] (fun _ s => raiseAttn s h 1) (.hifNotice h m) s ∧
    Written h m 0x0C 0x30 [(0, 0, 0)] (fun _ s => dropHomeTlb s h) (.bomFinv h m) s ∧
    (∀ (node : BitVec 9) (t : BitVec 17),
      Written h m 0x0C 0x50 [(63, 55, node.toNat), (16, 0, t.toNat)]
        (fun w s => crossSignal s h w.toNat) (.bomXsig h m node t) s) ∧
    (∀ v : Word, Written h m 0x0B 8 [(63, 0, v.toNat)] (fun _ s => stepTimebase s v) (.tmbStep h m v) s) ∧
    (m = 0x44 → holdsLatch s h = true →
      (∀ a : BitVec 41, Written h m 0x0F 8 [(45, 5, a.toNat)] (fun _ s => (lcRequestAt s h (a.toNat * 32)).2) (.lcsXreq h m a) s) ∧
      (∀ (n : BitVec 4) (target : Byte), Written h m 0x0F 0xA0 [(11, 8, n.toNat), (7, 0, target.toNat)]
        (fun _ s => advanceCounter s n.toNat target.toNat) (.lcsCinc h m n target) s) ∧
      Written h m 0x11 0x18 [(0, 0, 0)] (fun _ s => warmResetPackage s) (.warm h m) s) ∧
    (m = 0x44 → s.inMode h .service = true → ∀ g : BitVec 5, g.toNat ≤ 16 →
      Written h m 2 0x28 [(4, 0, g.toNat)] (fun _ s => startRetest s h g.toNat) (.fltRetest h m g) s)

/-- Commands of the Foreman: START, ABORT_THREAD, ABORT_COMPARTMENT and FREE write FMN_CMD with OP 1–4 and the argument, and
SIGNAL writes FMN_SIGNAL; each has the effect of R213 or R198 on the thread or compartment it names. Commands of Flume, Kiln,
Mill and Scaler: each writes its unit's command register with its OP and operands, and the unit carries that word out. Flume,
Mill and Scaler take a command while BUSY is 0 (R236, R275, R283); the vault takes one from the Warden that holds the latch
(R255, R369). Commands that write a control register of a unit: the ring engine's EN creates and destroys rings (R313),
HIF_NOTICE raises ATTN 1 (R322), BOM_FINV empties the home TLB (R346), BOM_XSIG signals a thread of this or another node (R349),
TMB_STEP steps the timebase (R240), LCS_XREQ and LCS_CINC ask for a life-cycle transition and a counter's advance (R386, R391)
and PWR_RST.WARM resets the package (R407), all three for the Warden that holds the latch; FLT_RETEST starts a retest in Service
(R368). -/
def Obligations.CommandRegisterResult : Prop := ForemanCommands ∧ UnitCommands ∧ ControlCommands

/-- A master's write of `raw` to a register takes effect: the master may write it now (R369), `raw`
sets no reserved bit (R10) and the word it would leave keeps the register's limits (R436). -/
structure Sys2Proof.Takes (h : HalfId) (m : BitVec 7) (blk off raw new : Nat) (d : RegDesc) (s : State) : Prop where
  known : regAt blk off = some d
  plain : off % 8 = 0 ∧ off < 0xFFF0 ∧ postWindow blk off = false ∧ blk < 256
  merged : new = mergeWrite d (s.locked h blk) (s.reg h blk off).toNat raw (2 ^ 64 - 1)
  gate : gateOf s h m.toNat blk off raw = .pass
  defined : raw &&& (2 ^ 64 - 1 - d.defined) = 0
  limits : limitsOk s h blk off (s.reg h blk off).toNat new raw = true

/-- Any other register: an 8-byte write that its rules take stores the merged word without the W1S bits that act at once, and
has the effect of its register (R9–R11); an LIO data register and BND_FENCE have their own statement. The commands
that are writes of one register have its effect: GRV_MODE and the guarantee (R144), BND_GDIS and its groups (R191), the
boundary table's entries (R186), ETH_MODE (R439), FLT_INJ (R357) and LIO_SPICMD (R433). -/
def Obligations.RegisterWriteResult : Prop :=
  ∀ (h : HalfId) (m : BitVec 7) (blk off new : Nat) (v : Word) (d : RegDesc) (s : State) (t : State),
    WriteAllowed h m blk off s → Takes h m blk off v.toNat new d s → blk ≠ 0x13 ∨ (off ≠ 0x28 ∧ off ≠ 0x30) →
    blk ≠ 3 ∨ off ≠ 0x28 →
    t = writeEffect (s.setReg h blk off (BitVec.ofNat 64 (keepSet blk off d new))) h blk off (s.reg h blk off).toNat new v.toNat →
    exec (.registerWrite h m (BitVec.ofNat 46 (regAddr blk off)) 8 v) s = .next t ∧
    (∀ (n : Fin 256) (j : Fin 3), blk = 3 → off = 0x1000 + 0x20 * n.val + 8 * j.val →
      exec (.boundaryEntryWrite h m n j v) s = .next t) ∧
    (∀ g : Fin 16, blk = 3 → off = 0x18 → v.toNat = s.fld h Reg.BND_GDIS_GDIS ||| 2 ^ g.val →
      exec (.groupDisable h m g) s = .next t) ∧
    (∀ g : Fin 16, blk = 3 → off = 0x18 → v.toNat = (if (s.fld h Reg.BND_GDIS_GDIS).testBit g.val then
      s.fld h Reg.BND_GDIS_GDIS - 2 ^ g.val else s.fld h Reg.BND_GDIS_GDIS) → exec (.groupEnable h m g) s = .next t) ∧
    (∀ g : Fin 17, blk = 0x20 + g.val → off = 0 → exec (.pacedEnable h m g v) s = .next t) ∧
    (blk = 7 → off = 0 → exec (.ethModeWrite h m v) s = .next t) ∧
    (blk = 2 → off = 0x60 → exec (.faultInject h m v) s = .next t) ∧
    (blk = 0x13 → off = 0x40 → exec (.spiGo h m v) s = .next t)

/-- A write of BND_FENCE fences the groves of its bits and stores nothing else; PRIMITIVE_POST writes KLN_PIDX.PROD alone and
leaves the other fields of the register; a byte written to an LIO data register waits in the UART's 16-byte transmit queue. -/
def Sys2Proof.FenceAndPostResult : Prop :=
  ∀ (h : HalfId) (m : BitVec 7) (s : State),
    (∀ mask : BitVec 17, WriteAllowed h m 3 0x28 s → m = 0x44 → holdsLatch s h = true →
      exec (.bndFence h m mask) s = .next (fenceMask (s.setReg h 3 0x28 (s.reg h 3 0x28)) h mask.toNat)) ∧
    (∀ prod : BitVec 16, m ≠ 0x4B → masterRuns s h m.toNat = true → check s h m.toNat .write (regAddr 8 0x14) 4 = .allow →
      4 ≤ nbits (s.reg h 8 0x10).toNat 3 0 → nbits (s.reg h 8 0x10).toNat 3 0 ≤ 12 →
      ringHolds prod.toNat (s.fld h Reg.KLN_PIDX_CONS) ≤ 2 ^ nbits (s.reg h 8 0x10).toNat 3 0 →
      ∃ w : Word, nbits w.toNat 63 48 = prod.toNat ∧ nbits w.toNat 47 0 = nbits (s.reg h 8 0x10).toNat 47 0 ∧
        exec (.primitivePost h m prod) s = .next (skipBadOps (primPosted (s.setReg h 8 0x10 w) h) (s.setReg h 8 0x10 w) h)) ∧
    (∀ (n : Fin 2) (v : Word), WriteAllowed h m 0x13 (0x28 + 8 * n.val) s → v.toNat / 256 % 2 ^ 54 = 0 →
      exec (.uartDataWrite h m n v) s = .next (uartQueue s n.val (v.setWidth 8)))

/-- A read of TMB_TXTS0 answers the oldest transmit timestamp and takes it from its queue, and TMB_TXTS1 then names its frame
(R244); with none, it reads 0. A read of an LIO data register answers its word and takes the oldest byte received (R433). -/
def Sys2Proof.PoppingReadResult : Prop :=
  ∀ (h : HalfId) (m : BitVec 7) (s : State), m ≠ 0x4B → masterRuns s h m.toNat = true →
    (check s h m.toNat .read (regAddr 0x0B 0x30) 8 = .allow →
      (∀ (x : Word × Word) (r : List (Word × Word)), (s.half h).txts = x :: r →
        exec (.tmbTxts0Read h m) s =
          .next (((s.upd h fun y => { y with txts := r }).setReg h 0x0B 0x38 x.2).emit (.readData x.1))) ∧
      ((s.half h).txts = [] → exec (.tmbTxts0Read h m) s = .next ((s.setReg h 0x0B 0x38 0).emit (.readData 0)))) ∧
    (∀ n : Fin 2, check s h m.toNat .read (regAddr 0x13 (0x28 + 8 * n.val)) 8 = .allow →
      ∃ w : Word, w.toNat = regWord s h 0x13 (0x28 + 8 * n.val) ∧
        exec (.uartDataRead h m n) s = .next ((uartPop s n.val).emit (.readData w)))

/-- A write of BND_FENCE fences the groves of its bits and stores nothing else; PRIMITIVE_POST writes KLN_PIDX.PROD alone and
leaves the other fields of the register; a byte written to an LIO data register waits in the UART's 16-byte transmit queue. A
read of TMB_TXTS0 answers the oldest transmit timestamp and takes it from its queue, and TMB_TXTS1 then names its frame (R244);
with none, it reads 0. A read of an LIO data register answers its word and takes the oldest byte received (R433). -/
def Obligations.SpecialAccessResult : Prop := FenceAndPostResult ∧ PoppingReadResult

/-- A write that the boundary table does not let through has no effect on the register: dropped on a fenced source, held at a
disabled group, where it waits to be checked again, or refused and recorded as R189, R191 and R192 say; a master of a half in Reset, or a held Warden, accesses
nothing (R371), and the PCIe master reaches no block below 0x05 (R306); and a write that a rule or the register's limits do not take changes no register but the block's ERR_WR. -/
def Obligations.RefusedWrites : Prop :=
  ∀ (h : HalfId) (m : BitVec 7) (blk off : Nat) (v : Word) (s : State), blk < 256 → off < 0x10000 →
    (masterRuns s h m.toNat = false → exec (.registerWrite h m (BitVec.ofNat 46 (regAddr blk off)) 8 v) s = .next s) ∧
    (m = 0x4B → blk < 5 → exec (.registerWrite h m (BitVec.ofNat 46 (regAddr blk off)) 8 v) s = .next s) ∧
    (masterRuns s h m.toNat = true → m ≠ 0x4B ∨ blk = 5 →
      (∀ x, check s h m.toNat .write (regAddr blk off) 8 = x → x ≠ .allow →
        exec (.registerWrite h m (BitVec.ofNat 46 (regAddr blk off)) 8 v) s =
          .next (postHeld (setupRefused s h m.toNat (regAddr blk off) x) h m.toNat (regAddr blk off) (leBytes 8 v.toNat) x)) ∧
      (check s h m.toNat .write (regAddr blk off) 8 = .allow → off % 8 = 0 → off < 0xFFF0 → postWindow blk off = false →
        blk ≠ 0x13 ∨ (off ≠ 0x28 ∧ off ≠ 0x30) → gateOf s h m.toNat blk off v.toNat = .pass →
        ∀ d, regAt blk off = some d → v.toNat &&& (2 ^ 64 - 1 - d.defined) ≠ 0 →
        exec (.registerWrite h m (BitVec.ofNat 46 (regAddr blk off)) 8 v) s = .next (s.errWr h blk)))

-- the Foreman and the cores (chapters 6, 10)

/-- A unit's work held no access at a disabled group: it is not to be done again (R191). -/
def Sys2Proof.NoHold (h : HalfId) (s t : State) : Prop := (t.half h).bnd.holds = (s.half h).bnd.holds

/-- The thread a core takes is a READY thread that it may take, at the most urgent priority among those and, among equals, the
first that became READY (R201). -/
def Sys2Proof.DispatchOrder : Prop :=
  ∀ (s : State) (k : CoreId) (t : Nat), pickThread s k = some t →
    ∃ x, (t, x) ∈ (s.half k.half).fmn.threads ∧ coreMayTake s k x = true ∧
      ∀ y ∈ (s.half k.half).fmn.threads, coreMayTake s k y.2 = true →
        x.prio < y.2.prio ∨ (x.prio = y.2.prio ∧ x.order ≤ y.2.order)

/-- Events of the Foreman and of a core's counters, each with its effect where it is due, and without any where it is not: SWITCH_IN
loads the thread that the dispatch order gives, which then runs (R201, R204), TIMER is an event of its thread at the tick of the timer
wheel (R200), and the others raise their interrupt or trap: of the interrupts that wait at a boundary the first of R117's order is
entered, HOLD_OVERRUN takes vector 17, reason 1, from tick 256 of a HOLD region on (R126; on a paced grove the sum of the slots decides,
R145, and the event does nothing), PACE_MISS takes vector 24 with its cause and counters (R146), STEP_LIMIT makes the event vector 32
pending once a step (R202). (What a held record read and a poisoned record do at a switch-in, and what becomes of a pace miss whose
entry meets another trap, are the model's choices: log entries 16, 143 and 142.) -/
def Sys2Proof.CoreEventResult : Prop :=
  ∀ (k : CoreId) (h : HalfId) (s : State),
    (∀ t, (s.core k).run = .idle → s.flag k.half Reg.FMN_CTRL_EN = true → groveTakes s k.half k.grove.val = true →
      s.inMode k.half .watch = false → pickThread s k = some t → NoHold k.half s (switchInto s k t) →
      exec (.switchIn k) s = .next (switchInto s k t) ∧ ((switchInto s k t).core k).thread = some t ∧
        ((switchInto s k t).core k).run = .running) ∧
    ((s.core k).run ≠ .idle → exec (.switchIn k) s = .next s) ∧
    (∀ i, canExecute s k = true → ((s.half k.half).bom.outstanding.any fun o => o.core == some k.num) = false →
      (s.core k).remote = [] → (s.core k).popped = [] → nextIrq (s.core k) = some i →
      exec (.interruptEntry k) s = .next (traced k (takeIrq k s)) ∧ i ∈ (s.core k).irqs ∧ (s.core k).swBit 20 = true ∧
        (s.core k).swBit 23 = false ∧ (s.core k).level ≠ levelM ∧
        ∀ j ∈ (s.core k).irqs, ((s.core k).bankOn && irqRank j.1 == 0) = false →
          irqRank i.1 < irqRank j.1 ∨ (irqRank i.1 = irqRank j.1 ∧ i.1 ≤ j.1)) ∧
    (∀ t, canExecute s k = true → isPaced s k = false → (s.core k).swBit 23 = true → (s.core k).holdStart = some t →
      (256 ≤ s.elapsed - t →
        exec (.holdOverrun k) s = .next (traced k (takeTrap k 17 (holdCause (s.core k) 1) (s.core k).pcc s))) ∧
      (s.elapsed - t < 256 → exec (.holdOverrun k) s = .next s)) ∧
    (isPaced s k = true → exec (.holdOverrun k) s = .next s) ∧
    (∀ (late : Nat) (u v w : State), canExecute s k = true → isPaced s k = true →
      u = (s.setFld k.half (Reg.GRV_PSTAT_MISS.grove k.grove.val) 1).incFld k.half (Reg.GRV_PSTAT_MISSES.grove k.grove.val) →
      v = u.setCore k { u.core k with perf := (u.core k).perf.set! 14 ((u.core k).perf[14]! + 1) } →
      w = traced k (takeTrap k 24
        (BitVec.ofNat 64 (min late 65535 * 2 ^ 24 + (u.core k).lastClass * 2 ^ 16 + (u.core k).lastOpcode.toNat)) (u.core k).pcc v) →
      NoHold k.half s w → exec (.paceMiss k late) s = .next w) ∧
    (∀ t, (s.core k).thread = some t → (s.core k).run = .running → (s.core k).limitRaised = false →
      s.fld k.half Reg.FMN_STEPLIM_LIMIT_US ≠ 0 →
      s.fld k.half Reg.FMN_STEPLIM_LIMIT_US * 1000 ≤ s.elapsed - (s.core k).stepStart →
      exec (.stepLimit k) s = .next ((s.setCore k { s.core k with
        irqs := (s.core k).irqs ++ [(32, BitVec.ofNat 64 ((s.elapsed - (s.core k).stepStart) / 1000 % 2 ^ 32 * 2 ^ 32 + t))]
        limitRaised := true }).incFld k.half Reg.FMN_CNT_STEPLIM)) ∧
    (∀ (t : BitVec 17) (e : Nat), (s.thread h t.toNat).timer = some e → e ≤ s.elapsed / 1000 * 1000 →
      exec (.timer h t) s = .next (fmnEvent (s.upd h fun y => { y with fmn := { y.fmn with
        threads := SMap.set threadDefault y.fmn.threads t.toNat { s.thread h t.toNat with timer := none } } }) h t.toNat 3)) ∧
    (∀ t : BitVec 17, (s.thread h t.toNat).timer = none → exec (.timer h t) s = .next s)

/-- An event of a thread sets its bit of PEND: a WAITING thread whose mask has it becomes READY, any other keeps its state;
FREE and ABORTED threads take none, and the drop is counted (R198). -/
def Sys2Proof.ThreadEventResult : Prop :=
  ∀ (s : State) (h : HalfId) (t src : Nat) (x : Thread), x = s.thread h t → src < 16 →
    ((x.state = .free ∨ x.state = .aborted) → fmnEvent s h t src = s.incFld h Reg.FMN_CNT_EV_DROP) ∧
    (x.state ≠ .free → x.state ≠ .aborted →
      ((fmnEvent s h t src).thread h t).pend = x.pend ||| BitVec.ofNat 16 (2 ^ src) ∧
      ((x.state = .waiting ∧ x.mask.getLsbD src = true) → ((fmnEvent s h t src).thread h t).state = .ready) ∧
      (x.state ≠ .waiting → ((fmnEvent s h t src).thread h t).state = x.state) ∧
      ∀ t', t' ≠ t → (fmnEvent s h t src).thread h t' = s.thread h t')

/-- The thread a core takes is a READY thread that it may take, at the most urgent priority among those and, among equals, the
first that became READY (R201). Events of the Foreman and of a core's counters, each with its effect where it is due, and
without any where it is not: SWITCH_IN loads the thread that the dispatch order gives, which then runs (R201, R204), TIMER is an
event of its thread at the tick of the timer wheel (R200), and the others raise their interrupt or trap: of the interrupts that
wait at a boundary the first of R117's order is entered, HOLD_OVERRUN takes vector 17, reason 1, from tick 256 of a HOLD region
on (R126; on a paced grove the sum of the slots decides, R145, and the event does nothing), PACE_MISS takes vector 24 with its
cause and counters (R146), STEP_LIMIT makes the event vector 32 pending once a step (R202). (What a held record read and a
poisoned record do at a switch-in, and what becomes of a pace miss whose entry meets another trap, are the model's choices: log
entries 16, 143 and 142.) An event of a thread sets its bit of PEND: a WAITING thread whose mask has it becomes READY, any other
keeps its state; FREE and ABORTED threads take none, and the drop is counted (R198). -/
def Obligations.ThreadAndCoreEvents : Prop := DispatchOrder ∧ CoreEventResult ∧ ThreadEventResult

-- groups and paced groves (chapters 6, 9)

/-- DRAINED rises when a group has drained, and not while an access that was let through has still to be performed (R191; for which groups
such an access counts is the model's choice, log entry 153); accesses held past HOLD_US are refused at their next check, in order (R191); a
paced copy that completes has taken the code area and makes its grove ready, and does nothing where none is being made (R144). -/
def Obligations.GroupAndPacedEvents : Prop :=
  ∀ (h : HalfId) (s : State),
    (∀ g : Fin 16, (admittedWaits s h = false → exec (.groupDrained h g) s = .next (s.setBit h Reg.BND_GSTAT_DRAINED g.val)) ∧
      (admittedWaits s h = true → exec (.groupDrained h g) s = .next s)) ∧
    exec (.boundaryHoldTimeout h) s = .next (((s.half h).bnd.held.filter fun x =>
      !x.expired && x.since + s.fld h Reg.BND_HOLDT_HOLD_US * 1000 ≤ s.elapsed).foldl (expireHeld h) s) ∧
    (∀ g : Fin 17, s.flag h (Reg.GRV_PSTAT_LOADING.grove g.val) = true →
      exec (.pacedCopyComplete h g) s =
        .next (((copyCode s h g.val).setFld h (Reg.GRV_PSTAT_LOADING.grove g.val) 0).setFld h (Reg.GRV_PSTAT_READY.grove g.val) 1)) ∧
    (∀ g : Fin 17, s.flag h (Reg.GRV_PSTAT_LOADING.grove g.val) = false → exec (.pacedCopyComplete h g) s = .next s)

-- the fault manager (chapter 17)

/-- Faults that a region's redundancy finds, outside Reset: a codeword violation or a stall is the fault of its region (R359,
R360, R438), a lockstep mismatch, an uncorrectable SRAM word or a stall of a Warden pair holds that Warden and counts its
cause (R371), loss of the seam leaves the latch with one half and takes the other to Safe, and the oscillator's failure takes
the device to Safe (R358, R374). -/
def Sys2Proof.FaultDetectionResult : Prop :=
  ∀ (h : HalfId) (s : State),
    (s.inMode h .reset = false →
      (∀ (r : Region) (i : Byte), exec (.codewordViolation h r i) s = .next (regionFault s h r i.toNat 1 0 false)) ∧
      (∀ (r : Region) (i : Byte) (w : Word), exec (.stall h r i w) s = .next (regionFault s h r i.toNat 2 w.toNat false)) ∧
      exec (.lockstep h .lockstep) s = .next (wardenFault s h 0x05 0 false) ∧
      exec (.lockstep h .sramUncorrectable) s = .next (wardenFault (s.incFld h Reg.FLT_CNT0_UE_SRAM) h 0x10 0 false) ∧
      exec (.lockstep h .stall) s = .next (wardenFault (s.incFld h Reg.FLT_CNT1_STALL) h 0x02 0 false)) ∧
    (∀ (t u v w : State) (keep : HalfId), s.seamUp = true → s.east.mode ≠ .reset → keep = s.latch.getD .east →
      t = ({ s with seamUp := false, frozen := true }.setFld .east Reg.SEM_STAT_LOST 1).setFld .west Reg.SEM_STAT_LOST 1 →
      u = faultSafe t keep.other 8 0 3 →
      v = record u keep { code := 0x21, region := 8, index := 0, outcome := safeOutcome u keep.other 3 } →
      w = (if v.latch = none ∧ v.east.wardenHeld = true then faultSafe v .east 8 0 4 else v) →
      exec .seamLoss s = .next (updateGuar (updateGuar w .east) .west)) ∧
    (s.east.mode ≠ .reset → s.timeFailed = false → ∀ t,
      t = { record s .east { code := 0x22, region := 9, index := 0, outcome := safeOutcome s .east 4 } with timeFailed := true } →
      exec .oscFail s = .next (faultSafeDevice t 9 0))

/-- The latch (R369, R370): a Warden claims it where it is free, East before West where both ask at once; its holder renews the lease;
a RENEW of a Warden that believes itself active and does not hold the latch demotes it, with a record, and a standby's changes nothing;
the holder gives the latch up; a lease that has run out frees it; and nothing frees a latch frozen by the loss of the seam (R372). -/
def Obligations.LatchResult : Prop :=
  ∀ (h : HalfId) (s : State),
    (s.latch = none → (s.half h).wardenHeld = false → (s.half h).mode ≠ .reset → (s.frozen = true → h = .east) →
      exec (.claim h false) s = .next (takeCharge s h) ∧ (takeCharge s h).latch = some h ∧
        (takeCharge s h).leaseEnd = s.elapsed + leaseNs) ∧
    (s.latch = none → s.east.wardenHeld = false → s.east.mode ≠ .reset → exec (.claim h true) s = .next (takeCharge s .east)) ∧
    (∀ k both, s.latch = some k → exec (.claim h both) s = .next s) ∧
    (s.latch = some h → (s.half h).wardenHeld = false → (s.half h).mode ≠ .reset →
      exec (.renew h) s = .next { s with leaseEnd := s.elapsed + leaseNs }) ∧
    (s.latch ≠ some h → (s.half h).wardenHeld = false → (s.half h).mode ≠ .reset →
      exec (.renew h) s = .next (if (s.half h).wardenActive then
        record (s.upd h fun x => { x with wardenActive := false }) h { code := 0x42, region := 1, index := h.num } else s)) ∧
    (s.latch = some h → s.frozen = false →
      exec (.latchRelease h) s =
        .next (updateGuar (updateGuar { s.upd h fun x => { x with wardenActive := false } with latch := none } .east) .west) ∧
      (s.leaseEnd ≤ s.elapsed → exec .leaseExpiry s = .next (updateGuar (updateGuar { s with latch := none } .east) .west))) ∧
    (s.frozen = true → exec (.latchRelease h) s = .next s ∧ exec .leaseExpiry s = .next s) ∧
    (s.elapsed < s.leaseEnd → exec .leaseExpiry s = .next s)

/-- The spare takes the work of a failed grove: its cores' threads are resolved as R211 says, then its tables move to the spare,
a paced grove's only when its areas have been copied (R365, R366); the spare's own fault while it stands in ends its window
(R367). -/
def Sys2Proof.TakeoverResult : Prop :=
  ∀ (h : HalfId) (g : Fin 17) (bad : List (Fin 8)) (s t : State), recoveringGrove s h g.val = true →
    (s.half h).flt.takeover ≠ some g.val → postsWaiting s h + postsDue s h g.val ≤ 4096 →
    t = (List.finRange 8).foldl (fun s c => resolveCore (bad.contains c) (groveCore h g.val c) s) (endWindow s h g.val) →
    (g.val ≠ 16 → t.flag h (Reg.GRV_MODE_PACED.grove g.val) = false →
      exec (.groveTakeover h g bad) s = .next (finishTakeover t h g.val 0)) ∧
    (g.val ≠ 16 → t.flag h (Reg.GRV_MODE_PACED.grove g.val) = true →
      exec (.groveTakeover h g bad) s =
        .next (updFlt t h fun x => { x with takeover := some g.val, taken := (groveThreads s h g.val).map (·.2) })) ∧
    (g.val = 16 → exec (.groveTakeover h g bad) s = .next
      (if (s.half h).flt.phase ≠ .off then record (endRecovery t h .grove 16) h { code := 0x33, region := 0, index := 16, outcome := 1 }
        else endRecovery t h .grove 16))

/-- The copy of a paced grove's areas to the spare ends the takeover: an uncorrectable granule it read is poisoned and recorded
(R174), code that its own copy had lost is read again from the code store (R366; which lines is log entry 148), and the record of the
takeover says so. -/
def Sys2Proof.PacedAreaResult : Prop :=
  ∀ (h : HalfId) (g : Fin 17) (fromStore : Bool) (s t : State) (a n : Nat), (s.half h).flt.takeover = some g.val →
    a = 0x40000000 + s.fld h (Reg.GRV_PDATA_DATA_BASE.grove g.val) * 65536 →
    n = s.fld h (Reg.GRV_PDATA_DATA_KIB.grove g.val) * 1024 →
    t = ((s.half h).mem.ue.filter fun i => a / 16 ≤ i && i < (a + n) / 16).foldl (fun s i => touchGranule s h i) s →
    exec (.pacedAreaCopyComplete h g fromStore) s =
      .next (finishTakeover (updFlt (if fromStore then refetchCode t h g.val else t) h fun x => { x with takeover := none }) h g.val
        (b2n fromStore))

/-- Tests in rotation (R362–R364): windows 0–7 in turn, each of its groves but fenced ones, the spare taking the first of them, and
single groves in suspension; the groves drain, are tested, and return. A grove that passes is in use again; one that fails
is counted and has the fault of R365. -/
def Sys2Proof.RotationResult : Prop :=
  ∀ (h : HalfId) (s : State) (x : Flt), x = (s.half h).flt →
    (∀ (gs : List Nat) (t : State), windowFree s h = true → s.fld h Reg.FLT_ROT_WINDOW ≠ 15 →
      gs = (windowGroves s h x.next).filter (fun g => !fenced s h g) →
      t = (updFlt s h fun y => { y with next := (x.next + 1) % 8, phase := .drain, testing := gs }).setFld h Reg.FLT_ROT_WINDOW x.next →
      ((gs = [] ∨ gs.head? = some 16) → exec (.rotationWindow h) s = .next t) ∧
      (∀ g, gs.head? = some g → g ≠ 16 → exec (.rotationWindow h) s = .next
        ((t.setReg h 0x30 0 (t.reg h (0x20 + g) 0)).setFld h (Reg.GRV_PSTAT_READY.grove 16) (t.fld h (Reg.GRV_PSTAT_READY.grove g))))) ∧
    (∀ p, windowFree s h = true → s.fld h Reg.FLT_ROT_WINDOW = 15 →
      p = (if s.fld h Reg.FMN_GROVE_SPARE_AS = x.next then 16 else x.next) → fenced s h p = false →
      exec (.suspensionWindow h) s = .next (updFlt s h fun y => { y with next := (x.next + 1) % 16, phase := .drain, testing := [p] })) ∧
    (x.phase = .drain →
      exec (.drainEnd h) s = .next (updFlt (x.testing.foldl (drainGrove h) s) h fun y => { y with phase := .test })) ∧
    (∀ (g : Fin 17) (t u : State) (p : RotPhase), x.phase = .test → g.val ∈ x.testing → groveState s h g.val = 1 →
      t = setGroveState s h g.val (testedState s h g.val) →
      u = (if g.val < 16 then t.clearBit h Reg.FLT_ROT_POSTPONED g.val else t) →
      p = (if x.testing.any (fun i => groveState u h i == 1) then .test else .ret) →
      exec (.selfTestComplete h g true) s = .next (updateGuar (updFlt u h fun y => { y with
        phase := p, tested := SMap.set (fun _ => 0) y.tested g.val (s.elapsed + 1), testBad := y.testBad.del g.val }) h) ∧
      exec (.selfTestComplete h g false) s = .next (updateGuar (groveFault ((updFlt u h fun y => { y with
        phase := p, testBad := y.testBad.add g.val }).incFld h
        Reg.FLT_CNT1_TEST_FAIL) h g.val 0x03 0 false) h)) ∧
    (x.phase ≠ .off → ∃ t, exec (.returnEnd h) s = .next t ∧ (t.half h).flt.phase = .off ∧ (t.half h).flt.testing = [])

/-- The spare takes the work of a failed grove: its cores' threads are resolved as R211 says, then its tables move to the spare,
a paced grove's only when its areas have been copied (R365, R366); the spare's own fault while it stands in ends its window
(R367). The copy of a paced grove's areas to the spare ends the takeover: an uncorrectable granule it read is poisoned and
recorded (R174), code that its own copy had lost is read again from the code store (R366; which lines is log entry 148), and the
record of the takeover says so. Tests in rotation (R362–R364): windows 0–7 in turn, each of its groves but fenced ones, the
spare taking the first of them, and single groves in suspension; the groves drain, are tested, and return. A grove that passes
is in use again; one that fails is counted and has the fault of R365. -/
def Obligations.GroveTakeoverResult : Prop := TakeoverResult ∧ PacedAreaResult ∧ RotationResult

/-- A retest that passes clears its grove's mark, and one that fails keeps it; either ends BUSY with its result (R368). A read
by a scrubber or the patrol, with the error that has arisen in what it reads, corrects what it can, and poisons and records what it
cannot: a granule of Canopy or of a line that an L2 holds, a DDR line, a granule of the units' SRAM, or the Warden's, where an
uncorrectable error holds it (R174, R361, R371); a scrub that is late is marked and recorded (R174). -/
def Sys2Proof.ScrubAndRetestResult : Prop :=
  ∀ (h : HalfId) (s : State),
    (∀ t, s.flag h Reg.FLT_RETEST_BUSY = true →
      (t = (s.setFld h Reg.FLT_RETEST_BUSY 0).setFld h Reg.FLT_RETEST_RESULT 1 →
        exec (.retestComplete h true) s = .next (t.clearBit h Reg.FLT_GFAIL_FAILED (t.fld h Reg.FLT_RETEST_GROVE))) ∧
      (t = (s.setFld h Reg.FLT_RETEST_BUSY 0).setFld h Reg.FLT_RETEST_RESULT 2 → exec (.retestComplete h false) s = .next t)) ∧
    (∀ (a : BitVec 46) (b : Nat) (f : ScrubFind), placeOf s h a.toNat = .canopy true b → exec (.scrubRead h .canopy ⟨a, f⟩) s =
      .next (touchSram (s.upd h fun x => { x with mem := markGranule f x.mem (b / 16) }) h (b / 16))) ∧
    (∀ (a : BitVec 46) (b : Nat) (f : ScrubFind), placeOf s h a.toNat = .ddr b →
      exec (.scrubRead h .ddr ⟨a, f⟩) s =
        .next (touchLine (s.upd h fun x => { x with mem := markLine f x.mem (b / 64) }) h (b / 64)) ∧
      (b / 64 ∈ (s.half h).mem.held → exec (.scrubRead h .groveL2 ⟨a, f⟩) s =
        .next (touchSram (s.upd h fun x => { x with mem := markGranule f x.mem (b / 16) }) h (b / 16)))) ∧
    (∀ (a : BitVec 46) (f : ScrubFind), exec (.scrubRead h .unitSram ⟨a, f⟩) s = .next (touchUnit (markUnit s h a.toNat f) h a.toNat).2) ∧
    (∀ a : BitVec 46, s.inMode h .reset = false →
      exec (.scrubRead h .wardenSram ⟨a, .clean⟩) s = .next s ∧
      exec (.scrubRead h .wardenSram ⟨a, .correctable⟩) s = .next (s.incFld h Reg.FLT_CNT0_CE_SRAM) ∧
      exec (.scrubRead h .wardenSram ⟨a, .uncorrectable⟩) s =
        .next (wardenFault (s.incFld h Reg.FLT_CNT0_UE_SRAM) h 0x10 0 false)) ∧
    (∀ (store : Fin 3) (t : State), t = s.setBit h ⟨2, 0x58, 2, 0⟩ store.val → exec (.scrubLate h store) s = .next
      (updateGuar (record t h { code := 0x14, region := if store.val = 2 then 4 else 0xFF, index := if store.val = 2 then 0 else 0xFF }) h)) ∧
    (∀ (line : BitVec 28) (e1 e2 : Nat) (t : State),
      t = (s.upd h fun x => { x with codeErrs := SMap.set (fun _ => 0) x.codeErrs line.toNat e1 }).upd h.other
        (fun x => { x with codeErrs := SMap.set (fun _ => 0) x.codeErrs line.toNat e2 }) →
      exec (.codestorePatrolRead h line e1 e2) s = .next (codeLineBoth t h line.toNat).2)

/-- Faults that a region's redundancy finds, outside Reset: a codeword violation or a stall is the fault of its region (R359,
R360, R438), a lockstep mismatch, an uncorrectable SRAM word or a stall of a Warden pair holds that Warden and counts its cause
(R371), loss of the seam leaves the latch with one half and takes the other to Safe, and the oscillator's failure takes the
device to Safe (R358, R374). A retest that passes clears its grove's mark, and one that fails keeps it; either ends BUSY with
its result (R368). A read by a scrubber or the patrol, with the error that has arisen in what it reads, corrects what it can,
and poisons and records what it cannot: a granule of Canopy or of a line that an L2 holds, a DDR line, a granule of the units'
SRAM, or the Warden's, where an uncorrectable error holds it (R174, R361, R371); a scrub that is late is marked and recorded
(R174). -/
def Obligations.FaultAndScrubResult : Prop := FaultDetectionResult ∧ ScrubAndRetestResult

-- the Ethernet port (chapter 11)

/-- A sub-port that is up checks a frame in order: its length 64–9,216 bytes and its FCS, each counted where it fails, for the sub-port
too in the modes that have several (R216, R218); then a frame for another station is counted, a MAC control frame is acted on (R219),
and any other lands (R220, R221). A sub-port that is down takes nothing. -/
def Sys2Proof.FrameReceiveResult : Prop :=
  ∀ (h : HalfId) (sub : Fin 4) (frame f : List Byte) (s : State), f = frame.take (frame.length - 4) →
    (ethUp s h sub.val = false → exec (.frameReceive h sub frame) s = .next s) ∧
    (ethUp s h sub.val = true →
      (frame.length < 64 ∨ 9216 < frame.length → exec (.frameReceive h sub frame) s = .next (countLen s h sub.val)) ∧
      (64 ≤ frame.length → frame.length ≤ 9216 →
        (frame.drop (frame.length - 4) ≠ fcsOf f → exec (.frameReceive h sub frame) s = .next (countFcs s h sub.val)) ∧
        (frame = f ++ fcsOf f →
          (foreignMac s h f = true → exec (.frameReceive h sub frame) s = .next (countLen s h sub.val)) ∧
          (foreignMac s h f = false → fieldBE f 12 2 = 0x8808 →
            exec (.frameReceive h sub frame) s = .next (macControl s h sub.val f)) ∧
          (foreignMac s h f = false → fieldBE f 12 2 ≠ 0x8808 →
            exec (.frameReceive h sub frame) s = .next (landFrame s h sub.val f)))))

/-- A frame goes out, outside Safe, from the first in the queue whose priority is not paused: padded to 60 bytes, with its FCS,
and with a timestamp where one was asked for (R218, R219, R237). A PAUSE or PFC frame that the flow control takes sets its
times (R219), which end at their expiry; a refresh of a watched priority is sent at half the quanta while its occupancy stays above
XON. -/
def Sys2Proof.FrameTransmitAndPause : Prop :=
  ∀ (h : HalfId) (sub : Fin 4) (s : State),
    (∀ (x : TxFrame) (b : List Byte) (t : State), ethUp s h sub.val = true → s.inMode h .safe = false →
      ((s.half h).eth.txq.find? fun y => y.sub == sub.val && !(s.half h).eth.paused.any fun p =>
        p.1 == sub.val && p.2.1 == y.prio) = some x → b = x.bytes ++ zerosB (60 - x.bytes.length) →
      t = (updEth s h fun e => { e with txq := e.txq.erase x }).emit (.ethFrame h sub.val (b ++ fcsOf b)) →
      exec (.frameTransmit h sub) s = .next (if x.stamp then pushStamp t h x else t)) ∧
    (∀ q : BitVec 16, ethUp s h sub.val = true → s.fld h Reg.ETH_PFC_FLOW = 1 →
      exec (.pauseFrame h sub q) s = .next (takePause s h sub.val ((List.range 8).map fun p => (p, q.toNat)))) ∧
    (∀ (en : Byte) (times : List (BitVec 16)), ethUp s h sub.val = true → s.fld h Reg.ETH_PFC_FLOW = 2 → times.length = 8 →
      exec (.pfcFrame h sub en times) s = .next (takePause s h sub.val
        (((List.range 8).filter fun p => en.toNat.testBit p).map fun p => (p, (times.map BitVec.toNat).getD p 0)))) ∧
    (∀ prio : Fin 8, ∃ t, exec (.pauseTimeExpiry h sub prio) s = .next t ∧ (t.half h).eth.paused =
      (s.half h).eth.paused.filter fun x => !(x.1 == sub.val && x.2.1 == prio.val && x.2.2 ≤ s.elapsed)) ∧
    (∀ (prio : Fin 8) (x : Nat × Nat × Nat), ((s.half h).eth.xoff.find? fun x => x.1 == sub.val && x.2.1 == prio.val) = some x →
      ethUp s h sub.val = true → prio.val ∈ watchedPrios s h → s.fld h Reg.ETH_PFC_QUANTA ≠ 0 →
      s.fld h Reg.ETH_PFC_XON_KIB * 1024 < watchedOcc s h prio.val →
      x.2.2 + quantaNs s h (max 1 (s.fld h Reg.ETH_PFC_QUANTA / 2)) ≤ s.elapsed →
      exec (.pfcRepeat h sub prio) s = .next (updEth (sendPause s h sub.val prio.val (s.fld h Reg.ETH_PFC_QUANTA)) h fun e =>
        { e with xoff := e.xoff.map fun y => if y = x then (x.1, x.2.1, s.elapsed) else y }))

/-- A sub-port of the mode, in Run, Watch and Safe, comes up when its signal is there, after auto-negotiation where AN = 1; a
common mode clears AN_FAIL, and none sets it and ends an older success; and a lost link takes the sub-port down (R217). -/
def Sys2Proof.LinkResult : Prop :=
  ∀ (h : HalfId) (sub : Fin 4) (s : State), sub.val < ethSubs s h →
    (ethMode s h = true → (s.flag h Reg.ETH_MODE_AN = false ∨ sub.val ∈ (s.half h).eth.anDone) →
      exec (.linkUp h sub) s = .next (s.setBit h Reg.ETH_STAT_LINK sub.val)) ∧
    (ethMode s h = true → s.flag h Reg.ETH_MODE_AN = true → sub.val ∉ (s.half h).eth.anDone →
      exec (.linkUp h sub) s = .next s) ∧
    (ethMode s h = true → s.flag h Reg.ETH_MODE_AN = true → ethUp s h sub.val = false →
      exec (.autoNegotiationComplete h sub true) s = .next (updEth (s.clearBit h Reg.ETH_STAT_AN_FAIL sub.val) h fun e =>
        { e with anDone := sub.val :: e.anDone.filter (· != sub.val) }) ∧
      exec (.autoNegotiationComplete h sub false) s = .next (updEth (s.setBit h Reg.ETH_STAT_AN_FAIL sub.val) h fun e =>
        { e with anDone := e.anDone.filter (· != sub.val) })) ∧
    (ethUp s h sub.val = true → exec (.linkLoss h sub) s = .next (ethDown s h [sub.val]))

/-- PPS_IN latches the timebase and counts, on both halves (R238). PPS_OUT rises on the edge that the timebase has crossed, for
WIDTH_US, and falls at its end; no edge, no pulse (R238, R240). -/
def Sys2Proof.PpsResult : Prop :=
  ∀ s : State,
    (∃ t, exec .ppsIn s = .next t ∧ ∀ h, t.reg h 0x0B 0x20 = s.timebase ∧
      t.fld h Reg.TMB_PPSSEQ_SEQ = (s.fld h Reg.TMB_PPSSEQ_SEQ + 1) % 2 ^ 32) ∧
    (s.ppsEdge = true → exec .ppsOut s = .next { s with
      ppsEdge := false, ppsOut := true, ppsFall := s.elapsed + 1000 * s.fld .east Reg.TMB_PPS_WIDTH_US }) ∧
    (s.ppsEdge = false → exec .ppsOut s = .next s) ∧
    (s.ppsOut = true → s.ppsFall ≤ s.elapsed → exec .ppsOutFall s = .next { s with ppsOut := false }) ∧
    (s.elapsed < s.ppsFall → exec .ppsOutFall s = .next s)

/-- A sub-port that is up checks a frame in order: its length 64–9,216 bytes and its FCS, each counted where it fails, for the
sub-port too in the modes that have several (R216, R218); then a frame for another station is counted, a MAC control frame is
acted on (R219), and any other lands (R220, R221). A sub-port that is down takes nothing. A frame goes out, outside Safe, from
the first in the queue whose priority is not paused: padded to 60 bytes, with its FCS, and with a timestamp where one was asked
for (R218, R219, R237). A PAUSE or PFC frame that the flow control takes sets its times (R219), which end at their expiry; a
refresh of a watched priority is sent at half the quanta while its occupancy stays above XON. A sub-port of the mode, in Run,
Watch and Safe, comes up when its signal is there, after auto-negotiation where AN = 1; a common mode clears AN_FAIL, and none
sets it and ends an older success; and a lost link takes the sub-port down (R217). PPS_IN latches the timebase and counts, on
both halves (R238). PPS_OUT rises on the edge that the timebase has crossed, for WIDTH_US, and falls at its end; no edge, no
pulse (R238, R240). -/
def Obligations.EthernetResult : Prop := FrameReceiveResult ∧ FrameTransmitAndPause ∧ LinkResult ∧ PpsResult

-- Flume (chapter 11)

/-- Flume takes the first landed frame whose session can take it, outside Safe and with EN = 1, and drops it from the landing
buffer (a landed frame that it cannot read is dropped, R173); in Watch it takes keepalive probes alone (R222, R409); with EN = 0 it drops and counts the oldest (R440), in Safe it
drops it. A session whose state is cold is fetched where room can be made, and the command that waited for it goes on (R232); a
datagram whose fragments are late is given up, and counted unless it was discarded before (R224). -/
def Sys2Proof.SessionLookupResult : Prop :=
  ∀ (h : HalfId) (s : State),
    (∀ (f : LandFrame) (r : List LandFrame), (s.half h).eth.landing = f :: r →
      (s.inMode h .safe = true → exec (.flumeSessionLookup h) s = .next (dropLanding s h f)) ∧
      (s.inMode h .safe = false → s.flag h Reg.FLM_CTRL_EN = false →
        exec (.flumeSessionLookup h) s = .next ((dropLanding s h f).incFld h Reg.FLM_CNT2_DIS_DROP))) ∧
    (∀ (l : List LandFrame) (f : LandFrame) (t : State), s.inMode h .safe = false → s.flag h Reg.FLM_CTRL_EN = true →
      l = (if s.inMode h .watch || s.waking then (s.half h).eth.landing.filter (keepAliveProbe s h) else (s.half h).eth.landing) →
      firstTaken s h l = some (f, t) →
      ∀ r u, r = readLanding s h f →
      u = dropLanding (if r.1 then r.2 else if (s.half h).sram.isEmpty then t else (flumeTake r.2 h f).getD t) h f → NoHold h s u →
      exec (.flumeSessionLookup h) s = .next u) ∧
    (∀ l : List LandFrame, s.inMode h .safe = false → s.flag h Reg.FLM_CTRL_EN = true →
      l = (if s.inMode h .watch || s.waking then (s.half h).eth.landing.filter (keepAliveProbe s h) else (s.half h).eth.landing) →
      firstTaken s h l = none → exec (.flumeSessionLookup h) s = .next s) ∧
    (∀ (n : BitVec 16) (x : Session) (t : State), x = session s h n.toNat → x.state ≠ .free → x.hot = false →
      fetchCold s h n.toNat = some t → NoHold h s t →
      (commandWaits t h n.toNat = false → exec (.coldSessionFetch h n) s = .next t) ∧
      (commandWaits t h n.toNat = true → exec (.coldSessionFetch h n) s = .next (flmCommand t h (t.reg h 6 0x40)))) ∧
    (∀ (i : Nat) (c : Reasm), (s.half h).flm.reasm[i]? = some c →
      ∀ t, wheelDue s (c.since + s.fld h Reg.FLM_REASM_TIMEOUT_S * 1000000000) = true →
      t = updFlm s h (fun y => { y with reasm := y.reasm.erase c }) →
      exec (.reassemblyTimeout h i) s = .next (if c.dead then t else t.incFld h Reg.FLM_CNT0_REASM_DROP))

/-- A session's state read from the store, or fetched where it is cold and room can be made for it (R232). -/
def Sys2Proof.fetched (s : State) (h : HalfId) (n : Nat) : Option State :=
  if (session s h n).hot then some (readStore s h n) else fetchCold s h n

/-- What a session's timer sends: its control block as the timer leaves it, the segments, and the mirror's update (R351). -/
def Sys2Proof.timerSends (w : State) (h : HalfId) (n : Nat) (r : Tcb × List OutSeg) : State :=
  mirrorUpdate (sendSegs (setTcb w h n r.1) h n r.2) h n

/-- A session's timers, each at the wheel's tick at or after it is due, in a half that is neither in Safe nor in Watch nor waking,
with the session's state in the store or fetched into it (R232): the retransmission timer sends again with its backoff, probes a
closed window, with one new byte where nothing is outstanding, and gives the session up after the retries (R229, R234); the
delayed acknowledgement sends one (R226); keepalive sends a probe and closes after KA_PROBES (R230); and an idle UDP session is
closed (R230). -/
def Sys2Proof.SessionTimersResult : Prop :=
  ∀ (h : HalfId) (n : BitVec 16) (s w : State) (x y : Session), x = session s h n.toNat → fetched s h n.toNat = some w →
    y = session w h n.toNat → timersStill s h = false →
    (∀ (t t0 : Tcb) (at_ : Nat), x.tcb = some t0 → t0.rtoAt = some at_ → wheelDue s at_ = true → y.tcb = some t →
      (∀ (g : Seg) (r : List Seg) (u : State), t.outq = g :: r →
        (g.syn = true → g.sends ≤ w.fld h Reg.FLM_TCP_SYN_RETRIES → u = timerSends w h n.toNat (t.timeout w.elapsed) →
          NoHold h s u → exec (.retransmissionTimeout h n) s = .next u) ∧
        (g.syn = false → t.sndWnd ≠ 0 → g.sends ≤ w.fld h Reg.FLM_TCP_RETRIES → u = timerSends w h n.toNat (t.timeout w.elapsed) →
          NoHold h s u → exec (.retransmissionTimeout h n) s = .next u) ∧
        (g.syn = false → t.sndWnd = 0 → t.probes ≤ w.fld h Reg.FLM_TCP_RETRIES → u = timerSends w h n.toNat (t.probe w.elapsed) →
          NoHold h s u → exec (.retransmissionTimeout h n) s = .next u) ∧
        (g.syn = true → w.fld h Reg.FLM_TCP_SYN_RETRIES < g.sends →
          u = mirrorUpdate (closeSession w h n.toNat 0x07 false false) h n.toNat → NoHold h s u →
          exec (.retransmissionTimeout h n) s = .next u) ∧
        (g.syn = false → w.fld h Reg.FLM_TCP_RETRIES < (if t.sndWnd = 0 then t.probes else g.sends) → y.state ≠ .closed →
          u = mirrorUpdate (closeSession w h n.toNat 0x03 false false) h n.toNat → NoHold h s u →
          exec (.retransmissionTimeout h n) s = .next u)) ∧
      (∀ (b : Byte) (r : List Byte) (g : Seg) (u : State), t.outq = [] → t.unsent = b :: r →
        g = ⟨t.sndNxt, [b], false, false, 1, w.elapsed, false⟩ →
        ∀ t' : Tcb, t' = { t with sndNxt := sqAdd t.sndNxt 1, unsent := r, outq := [g], rtoAt := some (w.elapsed + t.rto), probes := 1 } →
        u = timerSends w h n.toNat (t', [g.out t' true]) → NoHold h s u → exec (.retransmissionTimeout h n) s = .next u) ∧
      (∀ u, t.outq = [] → t.unsent = [] → u = setTcb w h n.toNat { t with rtoAt := none } → NoHold h s u →
        exec (.retransmissionTimeout h n) s = .next u)) ∧
    (∀ (t t0 : Tcb) (at_ : Nat) (u : State), x.tcb = some t0 → t0.ackAt = some at_ → wheelDue s at_ = true → y.tcb = some t →
      u = mirrorUpdate (sendSegs w h n.toNat [ackSeg t]) h n.toNat → NoHold h s u →
      exec (.delayedAckTimeout h n) s = .next u) ∧
    (∀ (t t0 : Tcb) (at_ : Nat) (u : State), x.tcb = some t0 → (x.state = .opened ∨ x.state = .closing) → t0.kaAt = some at_ →
      wheelDue s at_ = true → y.tcb = some t →
      (y.kaProbes ≤ t.kaSent → u = mirrorUpdate (closeSession w h n.toNat 0x04 false false) h n.toNat → NoHold h s u →
        exec (.keepaliveTimeout h n) s = .next u) ∧
      (∀ t' : Tcb, t.kaSent < y.kaProbes →
        t' = { t with kaSent := t.kaSent + 1, kaAt := some (w.elapsed + w.fld h Reg.FLM_TCP_KA_INTVL_S * 1000000000) } →
        u = timerSends w h n.toNat (t', [{ ackSeg t' with seq := sqSub t'.sndNxt 1 }]) →
        NoHold h s u → exec (.keepaliveTimeout h n) s = .next u)) ∧
    (∀ u : State, x.state = .opened → x.proto = 17 → x.kaS ≠ 0 →
      wheelDue s (x.lastRx + x.kaS * (x.kaProbes + 1) * 1000000000) = true →
      u = mirrorUpdate (closeSession w h n.toNat 0x04 false false) h n.toNat → NoHold h s u →
      exec (.udpIdleTimeout h n) s = .next u)

/-- Flume takes the first landed frame whose session can take it, outside Safe and with EN = 1, and drops it from the landing
buffer (a landed frame that it cannot read is dropped, R173); in Watch it takes keepalive probes alone (R222, R409); with EN = 0
it drops and counts the oldest (R440), in Safe it drops it. A session whose state is cold is fetched where room can be made, and
the command that waited for it goes on (R232); a datagram whose fragments are late is given up, and counted unless it was
discarded before (R224). A session's timers, each at the wheel's tick at or after it is due, in a half that is neither in Safe
nor in Watch nor waking, with the session's state in the store or fetched into it (R232): the retransmission timer sends again
with its backoff, probes a closed window, with one new byte where nothing is outstanding, and gives the session up after the
retries (R229, R234); the delayed acknowledgement sends one (R226); keepalive sends a probe and closes after KA_PROBES (R230);
and an idle UDP session is closed (R230). -/
def Obligations.SessionResult : Prop := SessionLookupResult ∧ SessionTimersResult

-- Kiln (chapter 12)

/-- The record that a session's oldest waiting input holds, as its protocol reads it, with the bytes after it. -/
def Sys2Proof.recordRead (s : State) (h : HalfId) (n : Nat) (r : RxRecord) : RecOut × List Byte :=
  if isDtls s h n then dtlsRecord s h n r else (tlsRecord s h n r.bytes, [])

/-- Kiln takes a session's waiting records in order (R246): a record that its keys open goes, by its content type, to Mill, to
the handshake ring or nowhere, and one that fails its checks is discarded (R247); with ZEROED set it is dropped (R260). On the
way out, a request is protected with the session's transmit key and handed to Flume; it ends with its status where there is no
key, it has failed or its numbers are used up (R256, R261); Kiln takes none while EN = 0 (R440) or the session is silenced (R352).
Without a key a DTLS session's record goes out unprotected (R442). -/
def Sys2Proof.RecordResult : Prop :=
  ∀ (h : HalfId) (n : BitVec 16) (s : State),
    (∀ (r : RxRecord) (w : State), (s.half h).kln.rxq.find? (·.session == n.toNat) = some r → w = readStore s h n.toNat →
      (s.flag h Reg.KLN_STAT_ZEROED = true → exec (.recordUnprotect h n) s = .next (takeRecord s h r [])) ∧
      (s.flag h Reg.KLN_STAT_ZEROED = false → s.flag h Reg.KLN_CTRL_EN = false → exec (.recordUnprotect h n) s = .next s) ∧
      (s.flag h Reg.KLN_STAT_ZEROED = false → s.flag h Reg.KLN_CTRL_EN = true →
        (∀ t rest, recordRead w h n.toNat r = (.discard t, rest) → NoHold h s (takeRecord t h r rest) →
          exec (.recordUnprotect h n) s = .next (takeRecord t h r rest)) ∧
        (∀ t rest ty sq plain u, recordRead w h n.toNat r = (.deliver t ty sq plain, rest) →
          (recDest (isDtls w h n.toNat) ty = .badType → u = takeRecord (t.incFld h Reg.KLN_CNT_BAD_TYPE) h r rest →
            NoHold h s u → exec (.recordUnprotect h n) s = .next u) ∧
          (recDest (isDtls w h n.toNat) ty = .ring → hringFull w h = false →
            u = takeRecord (notDiscarded (hringPut t h n.toNat ty sq plain) h n.toNat) h r rest →
            NoHold h s u → exec (.recordUnprotect h n) s = .next u) ∧
          (recDest (isDtls w h n.toNat) ty = .mill → millAccepts w h = true → outHeld w h n.toNat = false →
            u = takeRecord (notDiscarded (updMil t h fun m => { m with
              jobs := m.jobs ++ [.parse ⟨n.toNat, plainTimes (isDtls w h n.toNat) r plain, r.path⟩] }) h n.toNat) h r rest →
            NoHold h s u → exec (.recordUnprotect h n) s = .next u)))) ∧
    (∀ (j : SendJob) (out : State → State), (s.half h).kln.txq.find? (·.session == n.toNat) = some j →
      out = (fun s => updKln s h fun k => { k with txq := k.txq.erase j }) →
      (s.flag h Reg.KLN_STAT_ZEROED = true →
        exec (.recordProtect h n) s = .next (endRequest (out s) h j.src (secWord 0x0D))) ∧
      (s.flag h Reg.KLN_STAT_ZEROED = false → s.flag h Reg.KLN_CTRL_EN = false →
        exec (.recordProtect h n) s = .next (endRequest (out s) h j.src (statusOf 8 0x03))) ∧
      (s.flag h Reg.KLN_STAT_ZEROED = false → s.flag h Reg.KLN_CTRL_EN = true →
        (silenced s h n.toNat = true → exec (.recordProtect h n) s = .next s) ∧
        (silenced s h n.toNat = false →
          (∀ k b t u, (sessKeys s h n.toNat).txFailed = false → (sessKeys s h n.toNat).tx = some k →
            protect s h n.toNat k j.kupd j.data = (some b, t) → u = flumeSubmit (out t) h { j with data := b } → NoHold h s u →
            exec (.recordProtect h n) s = .next u) ∧
          (∀ k t u, (sessKeys s h n.toNat).txFailed = false → (sessKeys s h n.toNat).tx = some k →
            protect s h n.toNat k j.kupd j.data = (none, t) → u = endRequest (out t) h j.src (secWord 0x05) → NoHold h s u →
            exec (.recordProtect h n) s = .next u) ∧
          (∀ u, u = endRequest (out s) h j.src (secWord 0x03) → NoHold h s u →
            ((sessKeys s h n.toNat).txFailed = true ∨ ((sessKeys s h n.toNat).tx = none ∧ isDtls s h n.toNat = false)) →
            exec (.recordProtect h n) s = .next u) ∧
          (∀ b t u, (sessKeys s h n.toNat).txFailed = false → (sessKeys s h n.toNat).tx = none → isDtls s h n.toNat = true →
            plainRecord s h n.toNat j.data = (b, t) → u = flumeSubmit (out t) h { j with data := b } → NoHold h s u →
            exec (.recordProtect h n) s = .next u))))

/-- The primitives (Table 12.4), each with its operation. -/
def Sys2Proof.primitives (h : HalfId) : List (Instr × Nat × (State → HalfId → Prim → Nat × State)) :=
  [(.rand h, 1, primRand), (.keygen h, 2, primKeygen), (.ecdh h, 3, primEcdh), (.hash h, 4, primHash), (.extract h, 5, primExtract),
   (.expand h, 6, primExpand), (.hmac h, 7, primHmac), (.sign h, 8, primSign), (.verify h, 9, primVerify),
   (.install h, 10, primInstall), (.kilnFree h, 11, primFree)]

/-- The primitive at the ring's consumer index is carried out by the command of its OP: its status word is stored with VALID,
its thread gets the event, and CONS moves to the next descriptor of a known OP (R253); one whose PARAM or FLAGS are not
defined ends BAD_OP (Table 12.6); an INSTALL for a cold session waits while its state cannot come in (R232); another primitive's
command changes nothing. -/
def Sys2Proof.PrimitiveResult : Prop :=
  ∀ (h : HalfId) (s : State) (p : Prim), nextPrim s h = some p → ∀ row ∈ primitives h,
    (p.op = row.2.1 → installWaits s h = false → ∀ t, t = skipBadOps (primPosted s h)
        (runPrim s h p (if primUndefined p then fun s _ _ => (secWord 0x0E, s) else row.2.2)) h →
      NoHold h s t → exec row.1 s = .next t) ∧
    (p.op ≠ row.2.1 → exec row.1 s = .next s) ∧
    (installWaits s h = true → exec (.install h) s = .next s)

/-- A failed entropy source stops the DRBG, is marked, recorded and raises ATTN 5 (R259); the DRBG is reseeded after 2^20
requests or 1 s (R259). -/
def Sys2Proof.EntropyResult : Prop :=
  ∀ (h : HalfId) (s : State),
    (∀ t, t = (updKln s h fun k => { k with drbg := false }).setFld h Reg.KLN_STAT_ENT_FAIL 1 →
      exec (.entropyFail h) s = .next (raiseAttn (record t h
        { code := 0x52, region := 5, index := 0, mid := mKiln, status := secWord 0x0C }) h 5)) ∧
    ((s.half h).kln.drbg = true → (2 ^ 20 ≤ (s.half h).kln.drbgRequests ∨ (s.half h).kln.drbgSince + 1000000000 ≤ s.elapsed) →
      exec (.drbgReseed h) s = .next (updKln s h fun k => { k with drbgRequests := 0, drbgSince := s.elapsed }))

/-- Kiln takes a session's waiting records in order (R246): a record that its keys open goes, by its content type, to Mill, to
the handshake ring or nowhere, and one that fails its checks is discarded (R247); with ZEROED set it is dropped (R260). On the
way out, a request is protected with the session's transmit key and handed to Flume; it ends with its status where there is no
key, it has failed or its numbers are used up (R256, R261); Kiln takes none while EN = 0 (R440) or the session is silenced
(R352). Without a key a DTLS session's record goes out unprotected (R442). The primitive at the ring's consumer index is carried
out by the command of its OP: its status word is stored with VALID, its thread gets the event, and CONS moves to the next
descriptor of a known OP (R253); one whose PARAM or FLAGS are not defined ends BAD_OP (Table 12.6); an INSTALL for a cold
session waits while its state cannot come in (R232); another primitive's command changes nothing. A failed entropy source stops
the DRBG, is marked, recorded and raises ATTN 5 (R259); the DRBG is reseeded after 2^20 requests or 1 s (R259). -/
def Obligations.KilnResult : Prop := RecordResult ∧ PrimitiveResult ∧ EntropyResult

-- Mill and Scaler (chapters 13, 14)

/-- Mill takes a session's jobs in the order they reached it (R263): it parses a record while Mill is enabled, Scaler takes work and
none of the session's outputs is held (R220, R266, R440). A frame request reads its session's binding and becomes the frame that its
format lists, or ends with the status of what failed (R273); one for a session that is not open ends NOT_FOUND, and one while a
unit is disabled or zeroed ends so, whatever is held before it (R440, R260). -/
def Sys2Proof.MillResult : Prop :=
  ∀ (h : HalfId) (n : BitVec 16) (s : State),
    (∀ j, millNext s h n.toNat = some (.parse j) →
      (s.flag h Reg.MIL_CTRL_EN = true → scalerAccepts s h = true → outHeld s h n.toNat = false → NoHold h s (parseJob s h j) →
        exec (.millParseJob h n) s = .next (parseJob s h j)) ∧
      ((s.flag h Reg.MIL_CTRL_EN = false ∨ scalerAccepts s h = false ∨ outHeld s h n.toNat = true) →
        exec (.millParseJob h n) s = .next s)) ∧
    (∀ j, millNext s h n.toNat = some (.build j) → exec (.millParseJob h n) s = .next s) ∧
    (firstBuild s h n.toNat = none → exec (.frameBuild h n) s = .next s) ∧
    (∀ j : SendJob, firstBuild s h n.toNat = some j →
      (s.flag h Reg.KLN_STAT_ZEROED = true →
        exec (.frameBuild h n) s = .next (endRequest (dropBuild s h j) h j.src (secWord 0x0D))) ∧
      (s.flag h Reg.KLN_STAT_ZEROED = false →
        (s.flag h Reg.MIL_CTRL_EN = false ∨ s.flag h Reg.KLN_CTRL_EN = false ∨ s.flag h Reg.FLM_CTRL_EN = false →
          exec (.frameBuild h n) s = .next (endRequest (dropBuild s h j) h j.src (statusOf 8 0x03))) ∧
        (s.flag h Reg.MIL_CTRL_EN = true → s.flag h Reg.KLN_CTRL_EN = true → s.flag h Reg.FLM_CTRL_EN = true →
          ((session s h n.toNat).state ≠ .opened →
            exec (.frameBuild h n) s = .next (endRequest (dropBuild s h j) h j.src (statusOf 1 0x04))) ∧
          ((session s h n.toNat).state = .opened → (silenced s h n.toNat = true ∨ millNext s h n.toNat ≠ some (.build j)) →
            exec (.frameBuild h n) s = .next s) ∧
          (∀ w b t c, (session s h n.toNat).state = .opened → silenced s h n.toNat = false →
            millNext s h n.toNat = some (.build j) → fetched s h n.toNat = some w →
            readBinding w h n.toNat = (b, t) → c = readyCtx (parseCtx t h n.toNat) →
            (∀ e v u, buildFrame t h b c j = (.error e, v) →
              u = endRequest (dropBuild (v.incFld h Reg.MIL_CNT1_BUILD_FAIL) h j) h j.src (statusOf 1 e) →
              NoHold h s u → exec (.frameBuild h n) s = .next u) ∧
            (∀ f vs v u, buildFrame t h b c j = (.ok (f, vs), v) →
              u = updKln (dropBuild (setParseCtx v h n.toNat { c with v := vs }) h j) h
                (fun k => { k with txq := k.txq ++ [{ j with data := f }] }) →
              NoHold h s u → exec (.frameBuild h n) s = .next u)))))

/-- A job whose output is all delivered is followed by the session's next: Scaler runs it while EN = 1 (R284, R302). A class
with V = 1 closes its period when the watermark has passed its end and grace: its points are swept in order, and the class
as written takes effect where a slot closed (R298–R300). -/
def Sys2Proof.ScalerResult : Prop :=
  ∀ (h : HalfId) (s : State),
    (∀ (n : BitVec 16) (t : State), t = deliver s h n.toNat →
      ((t.half h).scl.outq.any (·.session == n.toNat) = true → NoHold h s t → exec (.scalerJob h n) s = .next t) ∧
      ((t.half h).scl.outq.any (·.session == n.toNat) = false → t.flag h Reg.SCL_CTRL_EN = true →
        ∀ j, (t.half h).scl.jobs.find? (·.session == n.toNat) = some j → NoHold h s (scalerJob t h j) →
          exec (.scalerJob h n) s = .next (scalerJob t h j))) ∧
    (∀ (n : Fin 16) (c : PClass) (k : Int) (t u v : State), c = pclass s h n.val →
      k = c.period (SMap.get (fun _ => 0) (s.half h).scl.swept n.val) → c.v = true → c.stop k + c.grace ≤ (watermark s h : Int) →
      t = (knownPoints s h).foldl (sweepPoint h n.val c k) s →
      u = updScl t h (fun x => { x with swept := SMap.set (fun _ => 0) x.swept n.val (c.stop k) }) →
      v = trimStores (if (knownPoints s h).any (sweepCloses s h n.val c k) then takeClass u h n.val else u) h →
      NoHold h s v → exec (.sweepClose h n) s = .next v)

/-- Mill takes a session's jobs in the order they reached it (R263): it parses a record while Mill is enabled, Scaler takes work
and none of the session's outputs is held (R220, R266, R440). A frame request reads its session's binding and becomes the frame
that its format lists, or ends with the status of what failed (R273); one for a session that is not open ends NOT_FOUND, and one
while a unit is disabled or zeroed ends so, whatever is held before it (R440, R260). A job whose output is all delivered is
followed by the session's next: Scaler runs it while EN = 1 (R284, R302). A class with V = 1 closes its period when the
watermark has passed its end and grace: its points are swept in order, and the class as written takes effect where a slot closed
(R298–R300). -/
def Obligations.MarketDataResult : Prop := MillResult ∧ ScalerResult

-- the host interface (chapter 15)

/-- A doorbell of a ring that is there moves its index where the new value is one it takes, and wakes the device in Watch (R410);
any other is counted (R311). A ring whose context cannot be read is left for now (R173; log entry 98). The
ring engine fetches up to 64 descriptors of the next ring in turn (R317), and accepts a ring's next descriptor when its reply
ring has room and its target can take it, in Run or Safe (R317, R318). -/
def Sys2Proof.RingEngineResult : Prop :=
  ∀ (h : HalfId) (n : BitVec 17) (s : State),
    (∀ v : Word, pcieUp s h = true →
      (∀ r r', ringOf s h n.toNat = some r → bell n.toNat r v.toNat = some r' →
        exec (.doorbell h n v) s = .next (doorbellWake (setRing s h n.toNat (some r')))) ∧
      (((ringOf s h n.toNat).bind fun r => bell n.toNat r v.toNat) = none →
        exec (.doorbell h n v) s = .next (hifCount s h Reg.HIF_CNT_DB_BAD))) ∧
    (∀ k r x w, pcieUp s h = true → ringEngineOn s h = true → (s.inMode h .run = true ∨ s.inMode h .safe = true) →
      nextRing s h = some k → readRing s h k = (false, w) → ringOf w h k = some r →
      x = readDescs h r (min 64 (unfetched r)) (r.cons + r.fetched.length) w →
      exec (.descriptorFetch h) s = .next ((setRing x.2 h k (some { r with fetched := r.fetched ++ x.1 })).upd h fun y =>
        { y with hif := { y.hif with turn := k } })) ∧
    (∀ w r d ds x (b : Bool) (t u : State), readRing s h n.toNat = (false, w) → ringOf w h n.toNat = some r → r.fetched = d :: ds →
      ringOf w h (replyRingOf n.toNat r) = some x → (w.half h).hif.inflight.length < 32768 → x.reserved < x.freeSlots →
      (w.inMode h .run = true ∨ w.inMode h .safe = true) → targetTakes w h d = (b, t) →
      u = (if b then acceptDesc t h n.toNat (replyRingOf n.toNat r) r x d else t) → NoHold h w u →
      exec (.acceptance h n) s = .next u) ∧
    (∀ w, readRing s h n.toNat = (true, w) → exec (.acceptance h n) s = .next w)

/-- A descriptor in flight of operation `op`, not begun, with no record waiting: the operation may start. -/
def Sys2Proof.Starts (s : State) (h : HalfId) (tag : BitVec 15) (op : Nat) (e : InFlight) (u : State) : Prop :=
  inFlight s h tag.toNat = some e ∧ dOp e.desc = op ∧ e.begun = 0 ∧
    ((s.half h).hif.waiting.any (·.tag == some tag.toNat)) = false ∧
    u = setInFlight s h tag.toNat fun x => { x with begun := 1 }

/-- The operations of the control ring (R315, R316): CREATE_RING makes the ring of its INLINE or ends with the status of what
refuses it; DESTROY_RING takes an idle ring and the records that wait for it; ACK_ATTN clears the values that stand and were
not raised again; QUERY_RING answers a ring's indices and reservations; NOP completes. -/
def Sys2Proof.ControlRingResult : Prop :=
  ∀ (h : HalfId) (tag : BitVec 15) (s u : State) (e : InFlight),
    (Starts s h tag 1 e u → ∀ t,
      t = (if createForm u h e.desc = 0 then complete (putRing u h (fieldLE e.desc 0x28 4) (newRing e.desc)) h tag.toNat 0
        else complete u h tag.toNat (createForm u h e.desc)) → NoHold h s t → exec (.createRing h tag) s = .next t) ∧
    (Starts s h tag 2 e u → ∀ n, n = fieldLE e.desc 0x20 4 →
      ((n = 0 ∨ ringOf u h n = none) → NoHold h s (complete u h tag.toNat (statusOf 1 3)) →
        exec (.destroyRing h tag) s = .next (complete u h tag.toNat (statusOf 1 3))) ∧
      (∀ r, n ≠ 0 → ringOf u h n = some r →
        (∀ w, ringBusy u h n r = (true, w) → NoHold h s (complete w h tag.toNat (statusOf 1 8)) →
          exec (.destroyRing h tag) s = .next (complete w h tag.toNat (statusOf 1 8))) ∧
        (∀ w, ringBusy u h n r = (false, w) → ∀ v t,
          v = (setRing w h n none).upd h (fun x => { x with hif := { x.hif with waiting := x.hif.waiting.filter (·.ring != n) } }) →
          t = complete (((w.half h).hif.waiting.filter (·.ring == n)).foldl (fun s _ => hifCount s h Reg.HIF_CNT_NORING) v) h tag.toNat 0 →
          NoHold h s t → exec (.destroyRing h tag) s = .next t))) ∧
    (Starts s h tag 3 e u → ∀ t, t = complete ((List.range 15).foldl (fun s v =>
        if (fieldLE e.desc 0x20 2).testBit v && !e.again.testBit v then s.clearBit h Reg.HIF_ATTN_PEND v else s) u) h tag.toNat 0 →
      NoHold h s t → exec (.ackAttn h tag) s = .next t) ∧
    (Starts s h tag 4 e u →
      (∀ r t, ringOf u h (fieldLE e.desc 0x20 4) = some r →
        t = completeWith u h tag.toNat 0 (r.prod * 2 ^ 48 + r.cons * 2 ^ 32 + r.reserved % 65536 * 2 ^ 16) 0 →
        NoHold h s t → exec (.queryRing h tag) s = .next t) ∧
      (ringOf u h (fieldLE e.desc 0x20 4) = none → NoHold h s (complete u h tag.toNat (statusOf 1 3)) →
        exec (.queryRing h tag) s = .next (complete u h tag.toNat (statusOf 1 3)))) ∧
    (Starts s h tag 5 e u → NoHold h s (complete u h tag.toNat 0) →
      exec (.nopCommand h tag) s = .next (complete u h tag.toNat 0))

/-- The data operations: SEND gives its parameters to the session's build when its turn among the commands of its ring for the
session has come (R315), DELIVER puts its descriptor into its thread's mailbox
or ends THREAD_DEAD where the thread is FREE or ABORTED (R320), POISON_CONSUMED where the mailbox's indices are poisoned (R324), RAW sends its frame, and GROUP starts its parts in order (R326);
a part sent to another node that has not answered in 10 ms ends (R326). -/
def Sys2Proof.DataOperationResult : Prop :=
  ∀ (h : HalfId) (tag : BitVec 15) (s u : State) (e : InFlight),
    (sendTurn s h tag.toNat = false → exec (.send h tag) s = .next s) ∧
    (sendTurn s h tag.toNat = true → Starts s h tag 0x10 e u → ∀ t,
      t = sendFrame u h (.command tag.toNat none) (dTarget e.desc) (dFormat e.desc) ((dFlags e.desc).testBit 5) e.params →
      NoHold h s t → exec (.send h tag) s = .next t) ∧
    (Starts s h tag 0x11 e u →
      (∀ t, threadTakes u h (dTarget e.desc) = true → mailboxPoison u h (dTarget e.desc) = true →
        t = complete (mailboxHolds u h (dTarget e.desc)).2 h tag.toNat (statusOf 6 2) → NoHold h s t →
        exec (.deliver h tag) s = .next t) ∧
      (∀ t, threadTakes u h (dTarget e.desc) = true → mailboxPoison u h (dTarget e.desc) = false →
        t = putMailbox (setInFlight u h tag.toNat fun x => { x with thread := some (dTarget e.desc) }) h (dTarget e.desc)
          (patchB e.desc 8 (leBytes 2 tag.toNat)) → NoHold h s t → exec (.deliver h tag) s = .next t) ∧
      (∀ t, threadTakes u h (dTarget e.desc) = false → t = complete u h tag.toNat (statusOf 2 1) → NoHold h s t →
        exec (.deliver h tag) s = .next t)) ∧
    (Starts s h tag 0x12 e u → ∀ t,
      t = sendRaw u h (.command tag.toNat none) (dTarget e.desc) ((dFlags e.desc).testBit 4) e.params →
      NoHold h s t → exec (.raw h tag) s = .next t) ∧
    (inFlight s h tag.toNat = some e → dOp e.desc = 0x13 →
      (∀ t, t = (List.range e.parts.length).foldl (startPart h tag.toNat) s → NoHold h s t → exec (.group h tag) s = .next t) ∧
      (∀ part : Fin 64, e.begun.testBit part.val = true → fieldLE e.partList (32 * part.val) 2 % 512 ≠ 511 →
        SMap.get (fun _ => 0) e.sentAt part.val + 10000000 ≤ s.elapsed →
        exec (.partTimeout h tag part) s = .next (partEnd s h tag.toNat part.val (statusOf 5 3))))

/-- Records and posts: a ring's next record is written while the link and the ring engine are up (R319); the oldest waiting post
of each kind is taken and carried out (R321); a reply ring's vector is signalled at the end of its moderation time, and its
counts start again (R325); a vector that is unmasked with an interrupt pending sends it at once (R325). -/
def Sys2Proof.ReplyAndPostResult : Prop :=
  ∀ (h : HalfId) (s : State),
    (∀ n : BitVec 17, pcieUp s h = true → ringEngineOn s h = true →
      exec (.replyRecordWrite h n) s = .next (writeNext s h n.toNat)) ∧
    (∀ p t, t = (s.upd h fun x => { x with hif := { x.hif with posts := x.hif.posts.erase p } }) →
      ((s.half h).hif.posts.find? (·.frame == false) = some p → exec (.replyPost h) s = .next (replyPost t h p)) ∧
      ((s.half h).hif.posts.find? (·.frame == true) = some p → exec (.framePost h) s = .next (framePost t h p))) ∧
    (∀ (n : BitVec 17) (r : Ring) (t : Nat), ringOf s h n.toNat = some r → r.firstAt = some t → r.vecOn = true →
      t + 1000 * r.modUs ≤ s.elapsed → exec (.msixModerationTimeout h n) s =
        .next (signalVector (setRing s h n.toNat (some { r with unsignalled := 0, firstAt := none })) h r.vec)) ∧
    (∀ (v : BitVec 10) (t : State), pcieUp s h = true → t = (s.upd h fun x => { x with hif := { x.hif with
        msixOn := x.hif.msixOn.add v.toNat, msixPend := x.hif.msixPend.del v.toNat } }) →
      exec (.msixVectorUnmask h v) s =
        .next (if (s.half h).hif.msixPend.contains v.toNat then
          t.emit (.msix h v.toNat (msixWord t h (2 * v.toNat)) ((msixWord t h (2 * v.toNat + 1)).toNat % 2 ^ 32)) else t))

/-- A doorbell of a ring that is there moves its index where the new value is one it takes, and wakes the device in Watch
(R410); any other is counted (R311). A ring whose context cannot be read is left for now (R173; log entry 98). The ring engine
fetches up to 64 descriptors of the next ring in turn (R317), and accepts a ring's next descriptor when its reply ring has room
and its target can take it, in Run or Safe (R317, R318). The operations of the control ring (R315, R316): CREATE_RING makes the
ring of its INLINE or ends with the status of what refuses it; DESTROY_RING takes an idle ring and the records that wait for it;
ACK_ATTN clears the values that stand and were not raised again; QUERY_RING answers a ring's indices and reservations; NOP
completes. Records and posts: a ring's next record is written while the link and the ring engine are up (R319); the oldest
waiting post of each kind is taken and carried out (R321); a reply ring's vector is signalled at the end of its moderation time,
and its counts start again (R325); a vector that is unmasked with an interrupt pending sends it at once (R325). -/
def Obligations.RingResult : Prop := RingEngineResult ∧ ControlRingResult ∧ ReplyAndPostResult

/-- The PCIe function: a link that trains is up (R305); the first configuration write gives it its number, which the other half
sees over the seam (R307); a reset of the host interface clears it, its rings and its registers, and keeps the link (R308); a
line whose read timed out reads poisoned and the function's error is noted (R305, R309); and a completed command leaves the deduplication window after 60 s (R327). -/
def Sys2Proof.HostLinkResult : Prop :=
  ∀ (h : HalfId) (s : State),
    (∀ t, s.porst = true → s.wrst = true → s.inMode h .reset = false → t = (s.upd h fun x => { x with
        perst := true, hif := { x.hif with ownBdf := none } }).upd h.other (fun x => { x with hif := { x.hif with peerBdf := none } }) →
      exec (.pcieLinkUp h) s = .next (t.setFld h Reg.HIF_STAT_LINK 1)) ∧
    (∀ (bdf : BitVec 16) (t : State), pcieUp s h = true → (s.half h).hif.ownBdf = none →
      t = (s.upd h fun x => { x with hif := { x.hif with ownBdf := some bdf } }) →
      (s.seamUp = true → ∃ u, exec (.bdfCapture h bdf) s = .next u ∧
        u = (t.upd h.other fun x => { x with hif := { x.hif with peerBdf := some bdf } }) ∧
        pairWord u h % 65536 = bdf.toNat ∧ pairWord u h.other / 65536 % 65536 = bdf.toNat ∧ (pairWord u h.other).testBit 49 = true) ∧
      (s.seamUp = false → exec (.bdfCapture h bdf) s = .next t)) ∧
    (∀ t, t = (s.upd h fun x => { x with
        regs := x.regs.filter fun r => r.1 / 0x10000 != 5
        hif := { x.hif with msixOn := [], msixPend := [], msixTable := [], poisoned := [], aer := [] } }) →
      exec (.hostInterfaceReset h) s = .next ((destroyRings t h).setFld h Reg.HIF_STAT_LINK (s.fld h Reg.HIF_STAT_LINK))) ∧
    (∀ line : Word, ∃ t, exec (.completionTimeout h line) s = .next t ∧ line.toNat / 64 ∈ (t.half h).hif.poisoned ∧ 14 ∈ (t.half h).hif.aer ∧
      ∀ n ∈ (s.half h).hif.poisoned, n ∈ (t.half h).hif.poisoned) ∧
    (∀ cmdid : Word, ∃ t, exec (.dedupExpiry h cmdid) s = .next t ∧ ∀ d, d ∈ (t.half h).hif.dedup ↔
      d ∈ (s.half h).hif.dedup ∧
        ¬ (d.cmdid = cmdid ∧ d.busy = false ∧ ∃ t0, d.doneAt = some t0 ∧ t0 + 60000000000 ≤ s.elapsed))

/-- The data operations: SEND gives its parameters to the session's build when its turn among the commands of its ring for the
session has come (R315), DELIVER puts its descriptor into its thread's mailbox or ends THREAD_DEAD where the thread is FREE or
ABORTED (R320), POISON_CONSUMED where the mailbox's indices are poisoned (R324), RAW sends its frame, and GROUP starts its parts
in order (R326); a part sent to another node that has not answered in 10 ms ends (R326). The PCIe function: a link that trains
is up (R305); the first configuration write gives it its number, which the other half sees over the seam (R307); a reset of the
host interface clears it, its rings and its registers, and keeps the link (R308); a line whose read timed out reads poisoned and
the function's error is noted (R305, R309); and a completed command leaves the deduplication window after 60 s (R327). -/
def Obligations.DataAndHostLinkResult : Prop := DataOperationResult ∧ HostLinkResult

-- Boom (chapter 16)

/-- A link that trains starts anew, sends an idle flit and greets the fabric (R330, R331, R338); one that does not is tried again every 100 ms (R332). A
flit with a good CRC is taken, and a bad one asks for a replay (R332); a NAK replays from its ACK; a link with 16 replays
or 2 ms without a good flit goes down, and its packets are sent another way (R332, R335). -/
def Sys2Proof.BoomLinkResult : Prop :=
  ∀ (h : HalfId) (l : Fin 4) (s : State), linksRun s h = true →
    (∀ t u, (linkOf s h l).trained = false →
      t = ((updLink s h l fun _ => { Link.reset with trained := true, up := true, lastGood := s.elapsed }).setBit h
        Reg.BOM_LINK_TRAINED l).setBit h Reg.BOM_LINK_UP l →
      u = (if t.fld h Reg.BOM_ID_CSTATE = 0 then (t.setFld h Reg.BOM_ID_CSTATE 1).setFld h Reg.BOM_ID_NODE 511 else t) →
      exec (.linkTrained h l) s = .next (sendHello (sendIdle u h l) h 511)) ∧
    ((linkOf s h l).trained = false → (∀ t, (linkOf s h l).failedAt = some t → t + 100000000 ≤ s.elapsed) →
      exec (.linkTrainRetry h l) s = .next (updLink s h l fun k => { k with failedAt := some s.elapsed })) ∧
    ((linkOf s h l).up = true →
      (∀ flit : List Byte, flit.length = 72 → fieldLE flit 0x44 4 = (crc32c (flit.take 0x44)).toNat →
        exec (.flitReceive h l flit) s = .next (goodFlit s h l flit)) ∧
      (∀ flit : List Byte, (flit.length ≠ 72 ∨ fieldLE flit 0x44 4 ≠ (crc32c (flit.take 0x44)).toNat) →
        exec (.flitReceive h l flit) s = .next (s.emit (.flit h l (flitBytes 3 0 (linkOf s h l).ack 0 0 [])))) ∧
      (∀ ack : BitVec 10, exec (.nak h l ack) s = .next (replayFrom s h l ack.toNat)) ∧
      (16 ≤ (linkOf s h l).replays → exec (.linkDown h l .replays) s = .next
        (afterLinkDown (takeLinkDown s h l) h)) ∧
      ((linkOf s h l).lastGood + 2000000 ≤ s.elapsed → exec (.linkDown h l .silence) s = .next
        (afterLinkDown (takeLinkDown s h l) h)))

/-- The requests that a home answers, by packet type (Table 16.3, R346); a write that carries a step's effect is performed once (R348). -/
def Sys2Proof.homeRows (h : HalfId) : List (Instr × Nat × (State → Packet → HomeAns × State)) :=
  [(.rd h, 1, fun s p => homeRd s h (requestOf p .read (p.info.toNat % 32) (p.info.toNat.testBit 5)) p.port),
   (.wr h, 2, fun s p => match p.eff with | some sub => storeOnce s h p sub | none => homeStore s h p),
   (.atom h, 3, fun s p => homeAtom s h (requestOf p .atomic (p.info.toNat % 32) false) p.port p.payload)]

/-- A home performs a new request once and keeps its response (R341, R346): a request that its screening stops is dropped as it
says, a repeated one gets the kept response again (R335), one that arrives in Watch gets BUSY, and any other is performed, answered and
kept. -/
def Sys2Proof.HomeRequestResult : Prop :=
  ∀ (h : HalfId) (s t : State) (p : Packet), ∀ row ∈ homeRows h, takePacket s h row.2.1 = some (p, t) →
    (∀ u, screen t h p = some u → NoHold h s u → exec row.1 s = .next u) ∧
    (screen t h p = none →
      (∀ k, ((t.half h).bom.kept.find? fun k => k.src == p.src.toNat && k.txn == p.txn.toNat && t.elapsed < k.since + 64000) = some k →
        NoHold h s (sendPacket t h k.rsp).2 → exec row.1 s = .next (sendPacket t h k.rsp).2) ∧
      (((t.half h).bom.kept.find? fun k => k.src == p.src.toNat && k.txn == p.txn.toNat && t.elapsed < k.since + 64000) = none →
        (boomAsleep t h = true → NoHold h s (sendAnswer t h p { status := 0x30 }).2 →
          exec row.1 s = .next (sendAnswer t h p { status := 0x30 }).2) ∧
        (∀ ans v a w u, boomAsleep t h = false → row.2.2 t p = (ans, v) → sendAnswer v h p ans = (a, w) →
          u = (w.upd h fun x => { x with bom := { x.bom with kept := x.bom.kept ++ [⟨p.src.toNat, p.txn.toNat, a, w.elapsed⟩] } }) →
          NoHold h s u → exec row.1 s = .next u)))

/-- A committed effect of a remote step is performed once: one of a step that its thread's entry has passed is counted, answered
OK and dropped; any other is performed, and its step and position noted where it succeeds (R348). -/
def Sys2Proof.EffectResult : Prop :=
  ∀ (h : HalfId) (s t : State) (p : Packet) (mine : DupEntry → Bool) (put : State → List DupEntry → Nat → Nat → State),
    takePacket s h 4 = some (p, t) → screen t h p = none → boomAsleep t h = false →
    mine = (fun e => e.src == p.src.toNat && e.thread == p.thread.toNat) →
    put = (fun s ds seq pos => s.upd h fun x => { x with bom := { x.bom with
      dups := ds ++ [⟨p.src.toNat, p.thread.toNat, seq, pos, s.elapsed⟩] } }) →
    (∀ e u, (t.half h).bom.dups.find? mine = some e → e.olderThan p.seq.toNat (p.pos.toNat * 256) = false →
      u = (sendAnswer (put (t.incFld h Reg.BOM_CNT2_DUP_DROP) ((t.half h).bom.dups.filter fun x => !mine x) e.stepseq e.pos) h p
        { status := 0 }).2 → NoHold h s u → exec (.eff h) s = .next u) ∧
    (∀ ds r v u,
      (((t.half h).bom.dups.find? mine = none ∧ dupRoom (t.half h).bom.dups t.elapsed = some ds) ∨
        (ds = (t.half h).bom.dups.filter (fun x => !mine x) ∧
          ∃ e, (t.half h).bom.dups.find? mine = some e ∧ e.olderThan p.seq.toNat (p.pos.toNat * 256) = true)) →
      homeStore t h p = (r, v) →
      u = (sendAnswer (if r.status = 0 then put v ds p.seq.toNat (p.pos.toNat * 256) else v) h p r).2 → NoHold h s u →
      exec (.eff h) s = .next u)

/-- A home performs a new request once and keeps its response (R341, R346): a request that its screening stops is dropped as it
says, a repeated one gets the kept response again (R335), one that arrives in Watch gets BUSY, and any other is performed,
answered and kept. A committed effect of a remote step is performed once: one of a step that its thread's entry has passed is
counted, answered OK and dropped; any other is performed, and its step and position noted where it succeeds (R348). -/
def Obligations.RemoteRequestResult : Prop := HomeRequestResult ∧ EffectResult

/-- The other packets of a node: a signal is an event of its thread and is answered (R349; log entry 140), a response ends its request (R334), a group's part is
performed and its answer ends it (R326), mirror updates are applied where they authenticate and their acknowledgements release
frames (R350, R351), and heartbeats keep a node alive and the buddy's round trip (R340, R352): each takes the oldest packet of
its type. A busy answer is followed by the request again after 10 µs (R334), and a kept response goes after 64 µs (R335). -/
def Sys2Proof.PacketResult : Prop :=
  ∀ (h : HalfId) (s : State),
    (∀ p t key ctr, takePacket s h 9 = some (p, t) → boomAsleep s h = false → noSessions t h = false → screen t h p = none →
      (t.half h).kln.pairRx = some (key, ctr) →
      (aeadOpen 0x1302 key (mirrHeader p) (beBytes 12 ctr) p.payload = none → NoHold h s (t.incFld h Reg.BOM_CNT2_MIRR_AUTH) →
        exec (.mirr h) s = .next (t.incFld h Reg.BOM_CNT2_MIRR_AUTH)) ∧
      (∀ b u, aeadOpen 0x1302 key (mirrHeader p) (beBytes 12 ctr) p.payload = some b →
        u = applyMirror (updKln t h fun k => { k with pairRx := some (key, ctr + 1) }) h p b → NoHold h s u →
        exec (.mirr h) s = .next u)) ∧
    (∀ p t v, takePacket s h 13 = some (p, t) → dropDead t h p = none → fgenOlder t h (fieldLE p.payload 8 2) = false →
      v = rootHb t h p.src.toNat (fieldLE p.payload 8 2) (fieldLE p.payload 10 1) →
      NoHold h s (if v.flag h Reg.BOM_CFG_BV ∧ p.src.toNat = v.fld h Reg.BOM_CFG_BUDDY then buddyHb v h p else v) →
      exec (.hb h) s = .next (if v.flag h Reg.BOM_CFG_BV ∧ p.src.toNat = v.fld h Reg.BOM_CFG_BUDDY then buddyHb v h p else v)) ∧
    (∀ p t u, takePacket s h 5 = some (p, t) → boomAsleep s h = false → screen t h p = none →
      u = (sendAnswer (fmnEvent t h (p.addr.toNat % 2 ^ 17) 5) h p { status := 0 }).2 → NoHold h s u →
      exec (.sig h) s = .next u) ∧
    (∀ p t o, takePacket s h 6 = some (p, t) → dropDead t h p = none →
      ((t.half h).bom.outstanding.find? fun o => o.txn == p.txn.toNat) = some o → NoHold h s (takeResponse t h o p) →
      exec (.rsp h) s = .next (takeResponse t h o p)) ∧
    (∀ p t u, boomAsleep s h = false → takePacket s h 7 = some (p, t) → screen t h p = none → partRequest t h p = some u →
      NoHold h s u → exec (.part h) s = .next u) ∧
    (∀ p t e st, takePacket s h 8 = some (p, t) → dropDead t h p = none →
      ((t.half h).hif.inflight.find? fun e => dOp e.desc == 0x13 && dCmdid e.desc == p.addr.toNat && e.begun.testBit p.seq.toNat &&
        (e.parts.getD p.seq.toNat (some 0)).isNone && fieldLE e.partList (32 * p.seq.toNat) 2 % 512 == p.src.toNat) = some e →
      st = (if p.info = 0x20 then statusOf 5 1 else if p.info = 0x21 then statusOf 5 2 else fieldLE p.payload 0 2) →
      NoHold h s (partEnd t h e.tag p.seq.toNat st) → exec (.pres h) s = .next (partEnd t h e.tag p.seq.toNat st)) ∧
    (∀ p t mine u, takePacket s h 10 = some (p, t) → dropDead t h p = none →
      (((t.half h).bom.silenced = true ∨ t.inMode h .safe = true) → NoHold h s t → exec (.mack h) s = .next t) ∧
      ((t.half h).bom.silenced = false → t.inMode h .safe = false → 
      mine = (fun (a : Nat × Nat × TxFrame) => a.2.1 ≤ p.seq.toNat &&
        (match mirrorBinding t h a.1 with | some b => fieldLE b 2 2 == p.addr.toNat % 65536 | none => false)) →
      u = ((t.half h).bom.awaiting.filter mine).foldl (fun s a => ethSend s h a.2.2)
        (updBom t h fun b => { b with awaiting := b.awaiting.filter fun a => !mine a }) →
      NoHold h s u → exec (.mack h) s = .next u)) ∧
    (∀ (txn : BitVec 11) (o o' : Outstanding) (at_ : Nat) (t : State),
      ((s.half h).bom.outstanding.find? fun o => o.txn == txn.toNat) = some o → o.busyAt = some at_ → at_ + 10000 ≤ s.elapsed →
      o' = { o with busyAt := none } → t = (s.upd h fun x => { x with bom := { x.bom with
        outstanding := x.bom.outstanding.map fun y => if y = o then o' else y } }) →
      (∀ u, sendPacket t h o.pkt = (true, u) → exec (.busyResend h txn) s = .next u) ∧
      (∀ u, sendPacket t h o.pkt = (false, u) → exec (.busyResend h txn) s =
        .next (takeResponse u h o' { answerTo u h o.pkt 6 0x20 [] with src := o.pkt.dst }))) ∧
    (∀ (src : BitVec 9) (txn : BitVec 11), ∃ t, exec (.keptResponseExpiry h src txn) s = .next t ∧ (t.half h).bom.kept =
      (s.half h).bom.kept.filter fun k => !(k.src == src.toNat && k.txn == txn.toNat && k.since + 64000 ≤ s.elapsed))

/-- A link that trains starts anew, sends an idle flit and greets the fabric (R330, R331, R338); one that does not is tried
again every 100 ms (R332). A flit with a good CRC is taken, and a bad one asks for a replay (R332); a NAK replays from its ACK;
a link with 16 replays or 2 ms without a good flit goes down, and its packets are sent another way (R332, R335). The other
packets of a node: a signal is an event of its thread and is answered (R349; log entry 140), a response ends its request (R334),
a group's part is performed and its answer ends it (R326), mirror updates are applied where they authenticate and their
acknowledgements release frames (R350, R351), and heartbeats keep a node alive and the buddy's round trip (R340, R352): each
takes the oldest packet of its type. A busy answer is followed by the request again after 10 µs (R334), and a kept response goes
after 64 µs (R335). -/
def Obligations.BoomResult : Prop := BoomLinkResult ∧ PacketResult

/-- Cruise while the links run: HELLO, GRANT, TABLE, MERGE and EXCLUDED, each with its effect on the fabric (R336–R338, R342),
where a message of an older generation is discarded (R336); a node that the root has not heard for 25 ms is declared dead (R339). -/
def Sys2Proof.CruiseResult : Prop :=
  ∀ (h : HalfId) (src : BitVec 9) (s : State),
    (linksRun s h = true →
      (∀ ser pref, exec (.cru h src (.hello ser pref)) s = .next (takeHello s h ser pref.toNat)) ∧
      (∀ msg g, cruFgen msg = some g → fgenOlder s h g = true → exec (.cru h src msg) s = .next s) ∧
      (∀ (d : Byte) e w root (fgen : BitVec 16), fgenOlder s h fgen.toNat = false →
        (s.fld h Reg.BOM_ID_CSTATE ≠ 2 → d.toNat ≠ 255 → exec (.cru h src (.grant d e w root fgen)) s =
          .next (joinDevice s d.toNat (e.toNat, w.toNat) root.toNat fgen.toNat false)) ∧
        (s.fld h Reg.BOM_ID_CSTATE = 2 ∨ d.toNat = 255 → exec (.cru h src (.grant d e w root fgen)) s = .next s)) ∧
      (∀ root (fgen : BitVec 16) es, fgenOlder s h fgen.toNat = false →
        exec (.cru h src (.table root fgen es)) s = .next (takeTable s h root.toNat fgen.toNat es)) ∧
      (∀ ser (fgen : BitVec 16) es, fgenOlder s h fgen.toNat = false →
        exec (.cru h src (.merge ser fgen es)) s = .next (takeMerge s h src.toNat ser fgen.toNat es)) ∧
      exec (.cru h src .excluded) s = .next (becomeExcluded s h)) ∧
    (linksRun s h = true → exec (.excluded h) s = .next (becomeExcluded s h)) ∧
    (∀ node : BitVec 9, linksRun s h = true → isRoot s h = true → SMap.get (fun _ => 0) (s.half h).bom.lastHb node.toNat + 25000000 ≤ s.elapsed →
      exec (.nodeDead h node) s = .next (declareDead s h node.toNat))

/-- The buddy (R350–R352): a key message that checks out is answered where it opens the exchange, its keys start the pair's
counters at 0, and a half that is joining is joined once it has them (R338); heartbeats go to the root and to the buddy, from a half
that first elects a root where it has none left (R340, R342); 20 ms without its echo silences mirrored sessions, and 25 ms, or its
death, has them adopted. -/
def Sys2Proof.BuddyResult : Prop :=
  ∀ (h : HalfId) (s : State),
    (∀ (p : Packet) (t u v w : State) (b own : Nat) (m : List Byte), takePacket s h 11 = some (p, t) → dropDead t h p = none →
      t.flag h Reg.BOM_CFG_BV = true → b = t.fld h Reg.BOM_CFG_BUDDY → p.src.toNat = b → Config.keyxValid p.payload = true →
      u = (if p.info = 0 then sendKeyx t h true else t) → own = ownNode u h → m = (u.half h).bom.keyx →
      v = updKln u h (fun k => { k with pairTx := some (Config.pairKey own b m p.payload, 0)
                                        pairRx := some (Config.pairKey b own p.payload m, 0) }) →
      w = updBom v h (fun x => { x with buddyTrip := v.elapsed, buddyGone := false }) →
      (m ≠ [] → exec (.keyx h) s = .next (joinDone w h)) ∧ (m = [] → exec (.keyx h) s = .next u)) ∧
    (∀ t u, t = electRoot s h → t.fld h Reg.BOM_ID_CSTATE = 2 →
      u = (if t.fld h Reg.BOM_ID_ROOT = ownNode t h then t else sendHb t h (t.fld h Reg.BOM_ID_ROOT) false 0) →
      exec (.heartbeatSend h) s = .next (if u.flag h Reg.BOM_CFG_BV then
        sendHb u h (u.fld h Reg.BOM_CFG_BUDDY) true (b2n (u.half h).bom.adopted) else u)) ∧
    (s.flag h Reg.BOM_CFG_BV = true → (s.half h).bom.silenced = false → (s.half h).bom.buddyTrip + 20000000 ≤ s.elapsed →
      2 ≤ s.fld h Reg.BOM_ID_CSTATE →
      exec (.silence h) s = .next (updBom s h fun x => { x with silenced := true })) ∧
    (s.flag h Reg.BOM_CFG_BV = true → (s.half h).bom.adopted = false → s.fld h Reg.BOM_ID_CSTATE = 2 →
      ((s.half h).bom.buddyTrip + 25000000 ≤ s.elapsed ∨ (s.half h).bom.buddyGone = true) → NoHold h s (adoptAll h s) →
      exec (.adoption h) s = .next (adoptAll h s))

/-- Cruise while the links run: HELLO, GRANT, TABLE, MERGE and EXCLUDED, each with its effect on the fabric (R336–R338, R342),
where a message of an older generation is discarded (R336); a node that the root has not heard for 25 ms is declared dead
(R339). The buddy (R350–R352): a key message that checks out is answered where it opens the exchange, its keys start the pair's
counters at 0, and a half that is joining is joined once it has them (R338); heartbeats go to the root and to the buddy, from a
half that first elects a root where it has none left (R340, R342); 20 ms without its echo silences mirrored sessions, and 25 ms,
or its death, has them adopted. -/
def Obligations.CruiseAndBuddyResult : Prop := CruiseResult ∧ BuddyResult

-- services and life cycle (chapter 18)

/-- The services that the root firmware performs on an MCALL (R381), each with its number: `serviceAt` finds the Warden that
serves the machine stub of the core, and the service's result returns in X0. CTR_READ, CTR_ADVANCE and SVN_COMMIT are
performed at once (R386, R387), ACTIVATE on the own die and, by the command again, on the other (R388; log entry 162), an unlisted number returns BAD_ARG (R381); UPDATE and LC_REQUEST read memory first (R388, R391); SAFE takes the device from Run to Safe and
does not return (R374). -/
def Sys2Proof.ServiceResult : Prop :=
  ∀ (k : CoreId) (h : HalfId) (s t : State),
    (serviceAt s k 1 = some h → exec (.ctrRead k) s = .next (serviceReturn k (ctrValue s (serviceArg s k 1), s))) ∧
    (serviceAt s k 2 = some h →
      exec (.ctrAdvance k) s = .next (serviceReturn k (ctrAdvance s (serviceArg s k 1) (serviceArg s k 2)))) ∧
    (serviceAt s k 3 = some h → exec (.svnCommit k) s = .next (serviceReturn k (svnCommit s h (serviceArg s k 1)))) ∧
    (serviceAt s k 4 = some h → t = serviceReturn k (updateImage s h (serviceArg s k 1) (serviceArg s k 2)) → NoHold h s t →
      exec (.update k) s = .next t) ∧
    (serviceAt s k 5 = some h → t = serviceReturn k (lcRequestAt s h (serviceArg s k 1)) → NoHold h s t →
      exec (.lcRequest k) s = .next t) ∧
    (serviceAt s k 6 = some h → deviceMode s = .run → exec (.safe k) s = .next (enterSafeDevice s 0xFF 0xFF)) ∧
    (serviceAt s k 7 = some h → ∀ slot, slot = serviceArg s k 1 →
      (s.activating = none → activateBad s h slot = true → exec (.activate k) s = .next (serviceReturn k (5, s))) ∧
      (s.activating = none → activateBad s h slot = false → exec (.activate k) s = .next (activateOwn s h slot)) ∧
      (∀ d, s.activating = some (d, slot) → exec (.activate k) s = .next (serviceReturn k (0, activateRest s d slot))) ∧
      (∀ d n, s.activating = some (d, n) → n ≠ slot → exec (.activate k) s = .next (serviceReturn k (4, s)))) ∧
    (∀ f fs n, (s.core k).mstack = f :: fs → f.cause.toNat = n → (n = 0 ∨ 7 < n) → serviceAt s k n = some h →
      ∀ c ∈ [Instr.ctrRead k, .ctrAdvance k, .svnCommit k, .update k, .lcRequest k, .safe k, .activate k],
        exec c s = .next (serviceReturn k (5, s)))

/-- CTR_ADVANCE never lowers a counter: it answers BAD_ARG for a number that names none it may advance, OK with nothing done
for a target reached, and EXHAUSTED beyond 255; CTR_READ answers the counter (R386, R387). -/
def Sys2Proof.CounterResult : Prop :=
  ∀ (s : State) (c target : Nat),
    (2 ≤ c → c ≤ 15 → target ≤ counterOf s c → ctrAdvance s c target = (0, s)) ∧
    ((c < 2 ∨ 15 < c) → ctrAdvance s c target = (5, s)) ∧
    (2 ≤ c → c ≤ 15 → 255 < target → counterOf s c < target → ctrAdvance s c target = (2, s)) ∧
    (∀ d, counterOf s d ≤ counterOf (ctrAdvance s c target).2 d) ∧
    (2 ≤ c → c ≤ 15 → target ≤ 255 → counterOf s c < target →
      (ctrAdvance s c target).1 = 0 ∧ counterOf (ctrAdvance s c target).2 c = target) ∧
    (c < 16 → ctrValue s c = counterOf s c)

/-- The services that the root firmware performs on an MCALL (R381), each with its number: `serviceAt` finds the Warden that
serves the machine stub of the core, and the service's result returns in X0. CTR_READ, CTR_ADVANCE and SVN_COMMIT are performed
at once (R386, R387), ACTIVATE on the own die and, by the command again, on the other (R388; log entry 162), an unlisted number
returns BAD_ARG (R381); UPDATE and LC_REQUEST read memory first (R388, R391); SAFE takes the device from Run to Safe and does
not return (R374). CTR_ADVANCE never lowers a counter: it answers BAD_ARG for a number that names none it may advance, OK with
nothing done for a target reached, and EXHAUSTED beyond 255; CTR_READ answers the counter (R386, R387). -/
def Obligations.FirmwareServiceResult : Prop := ServiceResult ∧ CounterResult

/-- A life-cycle transition whose programming succeeds is in OTP whole (R392) and ends BUSY with RESULT 0; one that fails stops
where it is and ends with RESULT 3 (R397). An alarm of an armed sensor stops a transition, is noted and has the response of its
life-cycle state; a sensor that is off does nothing (R394–R397). -/
def Obligations.LifeCycleAndTamperResult : Prop :=
  ∀ s : State,
    (∀ x t, s.xfer = some x →
      t = ({ s with otp := programOtp s.otp x x.steps, xfer := none }.setFld .east Reg.LCS_XRES_BUSY 0).setFld .east
        Reg.LCS_XRES_RESULT 0 →
      (x.target ≠ 2 → exec (.lifeCycleTransitionComplete true) s = .next t) ∧
      (x.target = 2 → ∃ u, exec (.lifeCycleTransitionComplete true) s = .next u ∧ u.otp = t.otp ∧ u.xfer = none ∧
        ∀ h, (SMap.get vaultDefault (u.half h).kln.vault 0).isSome = true) ∧
      exec (.lifeCycleTransitionComplete false) s = .next ((stopTransition s).setFld .east Reg.LCS_XRES_RESULT 3)) ∧
    (∀ c : Fin 14, sensorOn s (c.val + 1) = true →
      exec (.tamperAlarm c) s = .next (tamperResponse (stopTransition (noteTamper s (c.val + 1))))) ∧
    (∀ c : Fin 14, sensorOn s (c.val + 1) = false → exec (.tamperAlarm c) s = .next s)

-- operating modes and power (chapter 19)

/-- Resets (R403, R406, R407): a power-on reset puts the whole package at its reset state with PORST_N low, a warm reset keeps
what a warm reset keeps, with WRST_N low, and has no effect of its own while PORST_N is low; at release the halves go from Reset
to Boot, at boot stage 0. The rails out of range are tamper causes or reset the package (R394, R403). -/
def Sys2Proof.ResetResult : Prop :=
  ∀ s : State,
    exec .powerOnReset s = .next { resetPackage s false with porst := false } ∧
    (s.porst = true → exec .warmReset s = .next { resetPackage (announceSafe (announceSafe s .east) .west) true with wrst := false }) ∧
    (s.porst = false → exec .warmReset s = .next { s with wrst := false }) ∧
    (∀ t, t = { s with porst := true, wrst := true } →
      (s.east.mode = .reset → exec .resetRelease s =
        .next { setMode (setMode (loadLcs t) .east .boot) .west .boot with bootStage := 0 }) ∧
      (s.east.mode ≠ .reset → exec .resetRelease s = .next t)) ∧
    (s.porst = true →
      exec (.railOutOfRange .vddCoreE) s = .next (tamper s 5) ∧ exec (.railOutOfRange .vddCoreW) s = .next (tamper s 6) ∧
      exec (.railOutOfRange .vddAon) s = .next (resetPackage (tamper s 7) false) ∧
      exec (.railOutOfRange .vddSram) s = .next (tamper s 8) ∧
      ∀ r, r ∈ [Rail.vddIo, .vddFl, .vddSer, .vddhSer, .vddqDdr] → exec (.railOutOfRange r) s = .next (warmResetPackage s))

/-- Start-up (R385, R404): the latch holder's Warden carries out the boot stages in order, each command that of the stage due; the
cores are released with what the stub leaves (R382, R385), and both halves enter Run, when stage 6 is done and the DDR of both
halves is initialised; a half whose fault calls for Safe goes on into it (R15). -/
def Sys2Proof.BootResult : Prop :=
  ∀ s : State, deviceMode s = .boot →
    (∀ (h : HalfId) (n : Fin 6) (ok : Bool), s.latch = some h →
      (s.bootStage = n.val → exec (.bootStageComplete n ok) s = .next (bootStageWork s h (n.val + 1) ok)) ∧
      (s.bootStage ≠ n.val → exec (.bootStageComplete n ok) s = .next s)) ∧
    (s.bootStage = 6 → s.latch.isSome = true → s.flag .east Reg.DDR_STAT_INIT_DONE = true →
      s.flag .west Reg.DDR_STAT_INIT_DONE = true →
      ∀ t, t = setMode (setMode (releaseCores (releaseCores (stageDone s 7) .east) .west) .east .run) .west .run →
      exec .coreRelease s = .next (safeNow (safeNow t .east) .west))

/-- Training finds a half's DIMMs: a supported population is trained and gives the half its DDR, any other sets CFG_ERR and, in
Boot, takes the device to Safe (R175, R176). The initialisation after it writes all of DDR to zero, without tags, poison or errors
(R176). -/
def Sys2Proof.DdrResult : Prop :=
  ∀ (h : HalfId) (s : State),
    (∀ (p : DdrPopulation) (t : State), (s.half h).mode ≠ .reset → s.flag h Reg.DDR_STAT_TRAINED = false →
      s.flag h Reg.DDR_STAT_CFG_ERR = false →
      t = ((s.setFld h Reg.DDR_STAT_DIMMS p.slots.toNat).setFld h Reg.DDR_STAT_CAP_GIB p.capGib.toNat).setFld h Reg.DDR_STAT_RATE
        (if p.dimmsPerChannel.toNat = 1 then 64 else if p.dimmsPerChannel.toNat = 2 then 56 else 0) →
      (ddrSupported p = true → exec (.ddrTrainingComplete h p) s =
        .next ((t.setFld h Reg.DDR_STAT_TRAINED 1).upd h fun x => { x with ddrGib := 4 * p.capGib.toNat })) ∧
      (ddrSupported p = false → ∀ u, u = t.setFld h Reg.DDR_STAT_CFG_ERR 1 → exec (.ddrTrainingComplete h p) s =
        .next (if (u.half h).mode = .boot then enterSafeDevice u 0xFF 0xFF else u))) ∧
    (s.flag h Reg.DDR_STAT_TRAINED = true → s.flag h Reg.DDR_STAT_INIT_DONE = false →
      SMap.wf memDefault (s.half h).mem.cells = true →
      ∃ t, exec (.ddrInitComplete h) s = .next t ∧
        (∀ a, ddrBase ≤ a → readCells (t.half h).mem.cells a 1 = [0]) ∧
        (∀ a, a < ddrBase → readCells (t.half h).mem.cells a 1 = readCells (s.half h).mem.cells a 1) ∧
        (∀ g, isDdrGranule g = true → g ∉ (t.half h).mem.tags ∧ g ∉ (t.half h).mem.poison) ∧
        (∀ g, isDdrGranule g = false → (g ∈ (t.half h).mem.tags ↔ g ∈ (s.half h).mem.tags)))

/-- Resets (R403, R406, R407): a power-on reset puts the whole package at its reset state with PORST_N low, a warm reset keeps
what a warm reset keeps, with WRST_N low, and has no effect of its own while PORST_N is low; at release the halves go from Reset
to Boot, at boot stage 0. The rails out of range are tamper causes or reset the package (R394, R403). Start-up (R385, R404): the
latch holder's Warden carries out the boot stages in order, each command that of the stage due; the cores are released with what
the stub leaves (R382, R385), and both halves enter Run, when stage 6 is done and the DDR of both halves is initialised; a half
whose fault calls for Safe goes on into it (R15). Training finds a half's DIMMs: a supported population is trained and gives the
half its DDR, any other sets CFG_ERR and, in Boot, takes the device to Safe (R175, R176). The initialisation after it writes all
of DDR to zero, without tags, poison or errors (R176). -/
def Obligations.StartUpResult : Prop := ResetResult ∧ BootResult ∧ DdrResult

/-- Watch and voltage: Watch is entered from Run where both halves are idle and have been for IDLE_MS (R408), a source that wakes counts on both halves and
wakes them to Run at its completion (R410); a voltage step of the policy moves the set point (R413); a poll of the regulator
takes its readings, and the third failure in a row is marked and counted (R413, R417). -/
def Obligations.PowerResult : Prop :=
  ∀ (h : HalfId) (s : State),
    (∀ l, s.latch = some l → s.east.mode = .run → s.west.mode = .run → s.flag l Reg.PWR_WATCH_EN = true →
      idleHalf s .east = true → idleHalf s .west = true → idleLong s l = true →
      exec .watchEntry s = .next (watchHalf (watchHalf s .east) .west)) ∧
    (∀ src, deviceMode s = .watch → s.waking = false → (wakeThere s src .east = true ∨ wakeThere s src .west = true) →
      ∃ t, exec (.wake src) s = .next t ∧ t.waking = true ∧ ∀ h, t.fld h Reg.PWR_STAT_WAKE = wakeCode src) ∧
    (s.waking = true → s.east.mode = .watch → s.west.mode = .watch → s.east.safeDue = none → s.west.safeDue = none →
      ∃ t, exec .wakeComplete s = .next t ∧ t.waking = false ∧
      t.east.mode = .run ∧ t.west.mode = .run ∧ t.east.vset = s.east.vrun ∧ t.west.vset = s.west.vrun) ∧
    (∀ mv : BitVec 16, stepAllowed s h mv.toNat = true → exec (.voltageStep h mv) s =
      .next ((setVolts s h mv.toNat).upd h fun x => { x with vsetAt := s.elapsed + 1 })) ∧
    (∀ (vout tj ps : BitVec 16), (s.half h).mode ≠ .reset →
      (∀ t, t = ((s.upd h fun x => { x with pmbFails := 0 }).setFld h Reg.PWR_STAT_VDD_MV vout.toNat).setFld h
          Reg.PWR_STAT_TJ tj.toNat →
        exec (.pmbusPoll h true vout tj ps) s = .next (updateGuar (t.setFld h Reg.PWR_STAT_STEP_PS ps.toNat) h)) ∧
      (∀ t, t = (s.upd h fun x => { x with pmbFails := min ((s.half h).pmbFails + 1) 3 }) →
        exec (.pmbusPoll h false vout tj ps) s = .next (if (s.half h).pmbFails = 2 then
          (t.setFld h Reg.PWR_STAT_PMB_ERR 1).incFld h Reg.PWR_CNT_PMBERR else t)))

-- low-speed I/O and debug (chapter 20)

/-- An SPI transfer that ends fills the buffer where it reads, and clears BUSY (R433). A UART that is enabled takes a byte while
its 16-byte queue has room, and sends its queue in order; a GPIO pin that is an output reads the level it is set to (R433). -/
def Sys2Proof.LowSpeedResult : Prop :=
  ∀ (n : Fin 2) (s : State),
    (∀ j < 16, (s.fld .east Reg.LIO_GPIO_DIR_DIR).testBit j = true →
      (regWord s .east 0x13 0x10).testBit j = (s.fld .east Reg.LIO_GPIO_OUT_OUT).testBit j) ∧
    (∀ w rx, s.spi = some w →
      (w.toNat.testBit 1 = true →
        exec (.spiTransferComplete rx) s = .next ({ s with spi := none }.setFld .east Reg.LIO_SPISTAT_BUSY 0)) ∧
      (w.toNat.testBit 1 = false → exec (.spiTransferComplete rx) s = .next
        ({ spiFill s (sliceB rx 0 (nbits w.toNat 31 16)) with spi := none }.setFld .east Reg.LIO_SPISTAT_BUSY 0))) ∧
    (∀ b, s.flag .east (Reg.LIO_UART_EN.at (8 * n.val)) = true → (s.uartRx.getD n.val []).length < 16 →
      exec (.uartReceive n b) s = .next { s with uartRx := s.uartRx.setIfInBounds n.val (s.uartRx.getD n.val [] ++ [b]) }) ∧
    (∀ b, 16 ≤ (s.uartRx.getD n.val []).length → exec (.uartReceive n b) s = .next s) ∧
    (∀ b q, s.flag .east (Reg.LIO_UART_EN.at (8 * n.val)) = true → s.uartTx.getD n.val [] = b :: q →
      exec (.uartTransmit n) s = .next ({ s with uartTx := s.uartTx.setIfInBounds n.val q }.emit (.uartByte n.val b)))

/-- The BMC's block reads answer their registers outside Reset, FLT_GUAR of both halves as one word, and SMBus WAKE starts a
wake of source 5 in Watch and does nothing elsewhere (R432, R410). -/
def Sys2Proof.SmbusResult : Prop :=
  ∀ (h : HalfId) (s : State),
    (deviceMode s ≠ .reset →
      exec .smbReadIdv s = .next (s.emit (.smbBlock (BitVec.ofNat 64 (regWord s .east 0 0)))) ∧
      exec (.smbReadPwrStat h) s = .next (s.emit (.smbBlock (BitVec.ofNat 64 (regWord s h 0x11 0)))) ∧
      exec .smbReadFltGuar s = .next (s.emit (.smbBlock
        (BitVec.ofNat 64 (regWord s .east 2 0 % 2 ^ 32 + regWord s .west 2 0 % 2 ^ 32 * 2 ^ 32)))) ∧
      exec .smbReadTmpAlarm s = .next (s.emit (.smbBlock
        (BitVec.ofNat 64 (regWord s .east Reg.TMP_ALARM_CAUSE.blk Reg.TMP_ALARM_CAUSE.off)))) ∧
      exec .smbReadLcsState s = .next (s.emit (.smbBlock (BitVec.ofNat 64 (regWord s .east 0x0F 0))))) ∧
    (deviceMode s = .watch → s.waking = false →
      ∃ t, exec .smbWake s = .next t ∧ t.waking = true ∧ ∀ h, t.fld h Reg.PWR_STAT_WAKE = 5) ∧
    (deviceMode s ≠ .watch → exec .smbWake s = .next s)

/-- An SPI transfer that ends fills the buffer where it reads, and clears BUSY (R433). A UART that is enabled takes a byte while
its 16-byte queue has room, and sends its queue in order; a GPIO pin that is an output reads the level it is set to (R433). The
BMC's block reads answer their registers outside Reset, FLT_GUAR of both halves as one word, and SMBus WAKE starts a wake of
source 5 in Watch and does nothing elsewhere (R432, R410). -/
def Obligations.LowSpeedAndBmcResult : Prop := LowSpeedResult ∧ SmbusResult

/-- The TAP (R399, R425): reset selects IDCODE on both halves, BYPASS and IDCODE are available in every state, IDCODE shifts the
device's code, SAMPLE/PRELOAD a word of the pins' width; the instructions that drive pins are taken in BLANK, TEST and RETURNED
and in Reset, and otherwise select BYPASS and, in DEPLOYED states, raise tamper cause 14. -/
def Sys2Proof.TapResult : Prop :=
  ∀ (h : HalfId) (s : State),
    exec .tapReset s = .next (setTap (setTap s .east .idcode) .west .idcode) ∧
    exec (.bypass h) s = .next (setTap s h .bypass) ∧
    exec (.idcode h) s = .next ((setTap s h .idcode).emit (.tapData h 0x27160DAB)) ∧
    (∃ w t, exec (.samplePreload h) s = .next (State.emit t (.tapData h w)) ∧ w < 2 ^ boundaryCells h ∧
      (t.half h).tap = .samplePreload) ∧
    (∀ row ∈ [(Instr.extest h, TapInstr.extest), (.highz h, .highz), (.clamp h, .clamp), (.extestPulse h, .extestPulse),
        (.extestTrain h, .extestTrain)],
      ((lcOpen s = true ∨ deviceMode s = .reset) → exec row.1 s = .next (setTap s h row.2)) ∧
      (lcOpen s = false → deviceMode s ≠ .reset →
        ((lcState s = 2 ∨ lcState s = 3) → exec row.1 s = .next (tamper (setTap s h .bypass) 14)) ∧
        (lcState s ≠ 2 → lcState s ≠ 3 → exec row.1 s = .next (setTap s h .bypass))))

/-- Debug (R398, R426): a response that signs the half's challenge, the serial and the scope with the key of the life-cycle state
grants the scope, and any other grants nothing; an access goes through the boundary table as the debug port's, at an aligned
address, where the state or the granted scope allows it; one that the table refuses reads zeros and is counted and logged (R8, R189). -/
def Sys2Proof.DebugResult : Prop :=
  ∀ (h : HalfId) (s : State),
    (∀ (sig : List Byte) (scope : Byte) (t u : State), t = selectAuth s h → u = t.emit (.tapData h (authCapture t h)) →
      (authValid u h sig scope = true → exec (.dbgAuth h sig scope) s =
        .next ((u.upd h fun x => { x with authStatus := 1 }).setFld .east Reg.LCS_DBG_SCOPE (scope.toNat / 16))) ∧
      (authValid u h sig scope = false →
        exec (.dbgAuth h sig scope) s = .next (u.upd h fun x => { x with authStatus := 2 }))) ∧
    (∀ (a : BitVec 46) (v : Word),
      (debugMay s h = true → a.toNat % 8 = 0 →
        (check s h 0x4D .read a.toNat 8 = .allow →
          exec (.dbgAccessRead h a) s = .next (endAccess h 0 (debugRead h a.toNat s))) ∧
        (check s h 0x4D .write a.toNat 8 = .allow →
          exec (.dbgAccessWrite h a v) s = .next (endAccess h 0 (debugWrite h a.toNat v s))) ∧
        (∀ d o, check s h 0x4D .read a.toNat 8 = .refuse d o → ∃ t, exec (.dbgAccessRead h a) s = .next (endAccess h 2 t) ∧
          (t.half h).dbgData = 0) ∧
        (∀ d o, check s h 0x4D .write a.toNat 8 = .refuse d o → ∃ t, exec (.dbgAccessWrite h a v) s = .next (endAccess h 2 t))) ∧
      (debugMay s h = true → setupOrHole (placeOf s h a.toNat) = true →
        (∀ d o, check s h 0x4D .read a.toNat 8 = .refuse d o → exec (.dbgAccessRead h a) s =
          .next (endAccess h 2 (setDebugData (setupRefused s h 0x4D a.toNat (.refuse d o)) h 0))) ∧
        (∀ d o, check s h 0x4D .write a.toNat 8 = .refuse d o → exec (.dbgAccessWrite h a v) s =
          .next (endAccess h 2 (setupRefused s h 0x4D a.toNat (.refuse d o))))) ∧
      ((debugMay s h = false ∨ (a.toNat % 8 ≠ 0 ∧ setupOrHole (placeOf s h a.toNat) = false)) →
        exec (.dbgAccessRead h a) s = .next (endAccess h 2 s) ∧ exec (.dbgAccessWrite h a v) s = .next (endAccess h 2 s)))

/-- The TAP (R399, R425): reset selects IDCODE on both halves, BYPASS and IDCODE are available in every state, IDCODE shifts the
device's code, SAMPLE/PRELOAD a word of the pins' width; the instructions that drive pins are taken in BLANK, TEST and RETURNED
and in Reset, and otherwise select BYPASS and, in DEPLOYED states, raise tamper cause 14. Debug (R398, R426): a response that
signs the half's challenge, the serial and the scope with the key of the life-cycle state grants the scope, and any other grants
nothing; an access goes through the boundary table as the debug port's, at an aligned address, where the state or the granted
scope allows it; one that the table refuses reads zeros and is counted and logged (R8, R189). -/
def Obligations.TapAndDebugResult : Prop := TapResult ∧ DebugResult

-- rules stated whole, over the instructions that they name

/-- MUL writes the low w bits of the product, with V where the signed product does not fit in w bits and C where the unsigned one
does not; MULS.H and MULU.H write the high w bits of the signed and of the unsigned product, with V and C 0; N and Z come from
the written bits, and no other flag changes (R85). -/
def Obligations.MultiplyRule : Prop :=
  ∀ (k : CoreId) (e : Enc) (s u v1 v2 v3 : State) (i : Inst) (a b w r : Nat) (x y : Int) (v c : Bool)
    (d : Dest) (row : InstrRow),
    Issues k row.2 e anyLevel s i u → i.atomic = false → w = i.w → w ∈ [8, 16, 32, 64] →
    ((ctxOf k i u).src 0).run (opened k i u) = .ok a v1 → ((ctxOf k i u).src 1).run v1 = .ok b v2 →
    ((ctxOf k i u).dst 2).run v2 = .ok d v3 → a < 2 ^ w → b < 2 ^ w → x = signedOf w a → y = signedOf w b → r < 2 ^ w →
    (row = (.mul, mulRow) ∧ r = a * b % 2 ^ w ∧ (v = true ↔ ¬ (-(2 ^ (w - 1)) ≤ x * y ∧ x * y < 2 ^ (w - 1))) ∧
        (c = true ↔ 2 ^ w ≤ a * b) ∨
      row = (.mulsH, mulsHRow) ∧ (r : Int) = (x * y) / 2 ^ w % 2 ^ w ∧ v = false ∧ c = false ∨
      row = (.muluH, muluHRow) ∧ r = a * b / 2 ^ w ∧ v = false ∧ c = false) →
    ∀ v4, ((ctxOf k i u).put 2 d r).run v3 = .ok () v4 →
      ∀ z, z = v4.setCore k ((v4.core k).setFlags
        [(fN, r.testBit (w - 1)), (fZ, decide (r = 0)),
          (fV, v), (fC, c)]) → Marked k z →
        exec (row.1 k e) s = .next (seqEnd s (ctxOf k i u) z)

/-- What Table 4.4 gives for a shift or rotate of `a` (w bits) by `n`: the result, V, and C where it changes. -/
def Sys2Proof.ShiftGives (row : InstrRow) (w a n r : Nat) (v : Bool) (c : Option Bool) : Prop :=
  (row = (.shl, shlRow) ∧
    ((n = 0 ∧ r = a ∧ v = false ∧ c = none) ∨
     (1 ≤ n ∧ n < w ∧ r = a * 2 ^ n % 2 ^ w ∧ c = some (a.testBit (w - n)) ∧
       (v = true ↔ ¬ (-(2 ^ (w - 1)) ≤ signedOf w a * 2 ^ n ∧ signedOf w a * 2 ^ n < 2 ^ (w - 1)))) ∨
     (n = w ∧ r = 0 ∧ c = some (a.testBit 0) ∧ v = decide (a ≠ 0)) ∨
     (w < n ∧ r = 0 ∧ c = some false ∧ v = decide (a ≠ 0)))) ∨
  (row = (.shr, shrRow) ∧ v = false ∧
    ((n = 0 ∧ r = a ∧ c = none) ∨ (1 ≤ n ∧ n < w ∧ r = a / 2 ^ n ∧ c = some (a.testBit (n - 1))) ∨
     (n = w ∧ r = 0 ∧ c = some (a.testBit (w - 1))) ∨ (w < n ∧ r = 0 ∧ c = some false))) ∨
  (row = (.sar, sarRow) ∧ v = false ∧
    ((n = 0 ∧ r = a ∧ c = none) ∨
     (1 ≤ n ∧ n < w ∧ (∀ j < w, r.testBit j = a.testBit (min (j + n) (w - 1))) ∧ c = some (a.testBit (n - 1))) ∨
     (w ≤ n ∧ (∀ j < w, r.testBit j = a.testBit (w - 1)) ∧ c = some (a.testBit (w - 1))))) ∨
  (row = (.rol, rolRow) ∧ v = false ∧
    ((n % w = 0 ∧ r = a ∧ c = none) ∨
     (n % w ≠ 0 ∧ (∀ j < w, r.testBit ((j + n) % w) = a.testBit j) ∧ c = some (r.testBit 0)))) ∨
  (row = (.ror, rorRow) ∧ v = false ∧
    ((n % w = 0 ∧ r = a ∧ c = none) ∨
     (n % w ≠ 0 ∧ (∀ j < w, r.testBit j = a.testBit ((j + n) % w)) ∧ c = some (r.testBit (w - 1)))))

/-- The shifts and rotates by Table 4.4: the count is an operand of 64 bits in native mode and 16 in forerunner mode, taken
modulo the width by the rotates alone; N and Z come from the result, C changes where the table gives it, and H and D do not
(R84). -/
def Obligations.ShiftRule : Prop :=
  ∀ (k : CoreId) (e : Enc) (s u v1 v2 v3 : State) (i : Inst) (a n w r : Nat) (v : Bool) (c : Option Bool) (d : Dest)
    (row : InstrRow),
    Issues k row.2 e anyLevel s i u → i.atomic = false → w = i.w → w ∈ [8, 16, 32, 64] →
    ((ctxOf k i u).src 0).run (opened k i u) = .ok a v1 → ((ctxOf k i u).src 1).run v1 = .ok n v2 →
    ((ctxOf k i u).dst 2).run v2 = .ok d v3 → a < 2 ^ w → r < 2 ^ w → ShiftGives row w a n r v c →
    i.size ((ctxOf k i u).op 1).2.size = (if (s.core k).pcc.mode then 2 else 8) ∧
    ∀ v4, ((ctxOf k i u).put 2 d r).run v3 = .ok () v4 →
      ∀ z, z = v4.setCore k ((v4.core k).setFlags
        ([(fN, r.testBit (w - 1)), (fZ, decide (r = 0)), (fV, v)] ++ (match c with | some b => [(fC, b)] | none => []))) → Marked k z →
        exec (row.1 k e) s = .next (seqEnd s (ctxOf k i u) z)

/-- A WRSR to DSR with RM 5, 6 or 7 leaves DSR unchanged and takes illegal instruction, vector 9, with cause reason 9 in its
frame; any other one writes RM, EN and FL, whatever stands in the reserved bits (R58). -/
def Obligations.DsrWriteRule : Prop :=
  ∀ (k : CoreId) (e : Enc) (s u v : State) (i : Inst) (a : Nat), Issues k wrsrRow e sysDenied s i u → i.fixed % 256 = 3 →
    ((ctxOf k i u).src 0).run (opened k i u) = .ok a v → a < 2 ^ 64 →
    (∃ q, (readDsr k).run (opened k i u) = .ok q (opened k i u)) →
    (5 ≤ nbits a 18 16 → ∃ off, exec (.wrsr k e) s =
        .next (stoppedBy k (drainCore k s) 9 (illegalCause off 9) v)) ∧
    (5 ≤ nbits a 18 16 → Settled (s.core k) → (s.core k).handed = [] →
      ((s.core k).level ≠ levelM → (s.core k).rstack.length < 32 → ∃ t f fs, exec (.wrsr k e) s = .next t ∧
        (t.core k).dsr = (s.core k).dsr ∧ (t.core k).level = levelS ∧ (t.core k).rstack = f :: fs ∧ f.vector = 9 ∧
        (∃ off, f.cause = illegalCause off 9)) ∧
      ((s.core k).level = levelM → (s.core k).mstack.length < 8 → ∃ t f fs, exec (.wrsr k e) s = .next t ∧
        (t.core k).dsr = (s.core k).dsr ∧ (t.core k).level = levelM ∧ (t.core k).mstack = f :: fs ∧ f.vector = 9 ∧
        (∃ off, f.cause = illegalCause off 9))) ∧
    (nbits a 18 16 < 5 → ∃ c, Marked k (v.setCore k c) → exec (.wrsr k e) s = .next (seqEnd s (ctxOf k i u) (v.setCore k c)) ∧
      c = { v.core k with dsr := c.dsr, decDirty := (v.core k).decDirty || (v.core k).ownsDec } ∧
      nbits c.dsr.toNat 18 16 = nbits a 18 16 ∧ nbits c.dsr.toNat 12 8 = nbits a 12 8 ∧ nbits c.dsr.toNat 4 0 = nbits a 4 0)

/-- A set-up register's address within a half is 0x0000_8000_0000 + block × 0x1_0000 + offset (R7): that address is decoded as
that register, and a command that writes a register uses it. -/
def Obligations.SetupAddressRule : Prop :=
  ∀ (s : State) (h : HalfId) (blk off : Nat), blk < 256 → off < 0x10000 →
    placeOf s h (0x80000000 + blk * 0x10000 + off) = .setup blk off ∧ regAddr blk off = 0x80000000 + blk * 0x10000 + off

-- the machine as a whole

/-- A step with a command waiting is exec of the command at the front of the queue, on the state with the queue's rest. -/
def Obligations.StepRunsFront : Prop :=
  ∀ (s : State) (c : Instr) (rest : List Instr), s.pending = c :: rest → step s = exec c { s with pending := rest }

/-- Nothing waits within a half: no write of a unit and no event after one, no committed effect of a core, no line of DDR in an L2, and
no Warden that takes itself for the holder of a latch that the other half holds. -/
def Sys2Proof.Quiet (s : State) (h : HalfId) : Prop :=
  (s.half h).bnd.posted = [] ∧ (s.half h).bnd.signals = [] ∧ (∀ p ∈ (s.half h).cores, p.2.handed = []) ∧ (s.half h).mem.held = [] ∧
  (s.latch = some h.other → (s.half h).wardenActive = false)

/-- A step on an empty queue is one tick of the 1 ns clock (a choice of the model: log entry 4): nothing changes in Reset; else,
with no trim, the timebase and the elapsed count go on by 1 while the timebase has not failed (R5, R240), the guarantee bits are
looked at, and each half goes on with what waits within it, which is nothing where nothing waits. -/
def Obligations.IdleStepTicks : Prop :=
  ∀ s : State, s.pending = [] →
    (s.east.mode = .reset → step s = .next s) ∧
    (s.east.mode ≠ .reset → s.timeFailed = true → step s = .next (halfTick .west (halfTick .east s))) ∧
    (s.east.mode ≠ .reset → s.timeFailed = false → s.fld .east Reg.TMB_TRIM_TRIM = 0 → 0 ≤ s.trimAcc → s.trimAcc < 2 ^ 32 →
      ∃ t, step s = .next (halfTick .west (halfTick .east (noteIdle (updateGuar (updateGuar t .east) .west)))) ∧
        t.timebase = s.timebase + 1 ∧ t.elapsed = s.elapsed + 1 ∧ t.trimAcc = s.trimAcc ∧ t.pending = []) ∧
    (∀ (u : State) (h : HalfId), Quiet u h → halfTick h u = u)

/-- No command stops the machine: each answers a next state in every state (that events which are not due change nothing is the
model's choice, log entry 5). -/
def Obligations.NoCommandStops : Prop := ∀ (c : Instr) (s : State), ∃ t, exec c s = .next t

/-- What stands right after reset: FAULT_N low, SAFE_OUT high and PPS_OUT low (Table 19.4), both halves in Reset, the TAPs at
IDCODE, every register at its reset value, no tag and no poison in memory (R47), no session, ring, thread or command, the latch
free, the cores held with SW as R55 gives it, C0 and PCC the root capability, C1–C15 null and the fast bank off and empty (R47, R124). (That the reset pins are
still low and that memory bytes read 0 are the model's choices, log entries 9 and 2.) -/
def Obligations.ResetState : Prop :=
  State.reset.pending = [] ∧ State.reset.latch = none ∧ State.reset.timebase = 0 ∧ State.reset.elapsed = 0 ∧
  State.reset.faultN = false ∧ State.reset.safeOut = true ∧ State.reset.ppsOut = false ∧
  ∀ h, (State.reset.half h).mode = .reset ∧ (State.reset.half h).tap = .idcode ∧
    (State.reset.half h).mem.tags = [] ∧ (State.reset.half h).mem.poison = [] ∧
    (State.reset.half h).fmn.threads = [] ∧ (State.reset.half h).hif.rings = [] ∧ (State.reset.half h).flm.sessions = [] ∧
    (∀ blk off d, regAt blk off = some d → off < 0x10000 → State.reset.reg h blk off = regReset (regHome h blk) (blk * 0x10000 + off)) ∧
    (∀ n, (State.reset.coreN h n).run = .held ∧ (State.reset.coreN h n).level = levelM ∧
      (∀ j < 64, (State.reset.coreN h n).swBit j = decide (j = 21 ∨ j = 22)) ∧
      (State.reset.coreN h n).caps.toList = rootCap :: List.replicate 15 TCap.null ∧ (State.reset.coreN h n).pcc = rootCap ∧
      (State.reset.coreN h n).bankOn = false ∧ (State.reset.coreN h n).bankC.toList = List.replicate 8 TCap.null ∧
      (State.reset.coreN h n).bankX.toList = List.replicate 4 0 ∧
      (State.reset.coreN h n).rstack = [] ∧ (State.reset.coreN h n).thread = none) ∧
    (∀ a, readCells (State.reset.half h).mem.cells a 1 = [0])

/-- The sparse data of the state after reset is canonical. -/
def Obligations.ResetCanonical : Prop := Canonical State.reset

/-- Every step keeps the sparse data of the state canonical: memories, registers, cores and host memory that read alike stay one
value. -/
def Obligations.StepKeepsCanonical : Prop := ∀ s t : State, Canonical s → Steps s t → Canonical t

/-- A write of bytes to a half's memory: each byte written reads as it was written, every other byte as before, the granules
touched lose their tags and no others do (R46), a granule written whole is poisoned no more (Table 8.2), and the canonical form
is kept. -/
def Obligations.MemoryWriteResult : Prop :=
  ∀ (m : Mem) (a : Nat) (bs : List Byte), SMap.wf memDefault m.cells = true →
    SMap.wf memDefault (m.put a bs).1.cells = true ∧
    readCells (m.put a bs).1.cells a bs.length = bs ∧
    (∀ c, c < a ∨ a + bs.length ≤ c → readCells (m.put a bs).1.cells c 1 = readCells m.cells c 1) ∧
    (∀ g, g ∈ (m.put a bs).1.tags ↔ g ∈ m.tags ∧ ¬ (g * 16 < a + bs.length ∧ a < g * 16 + 16)) ∧
    (∀ g, a ≤ g * 16 → g * 16 + 16 ≤ a + bs.length → g ∉ (m.put a bs).1.poison)

/-- A set-up register written by the machine reads as written, and no other register of either half changes, but that blocks 0x0F,
0x10 and 0x13 are one for the package (R31). -/
def Obligations.RegisterReadsBack : Prop :=
  ∀ (s : State) (h k : HalfId) (blk off b o : Nat) (w : Word), SMap.wf (regReset (regHome h blk)) (s.half (regHome h blk)).regs = true →
    off < 0x10000 → o < 0x10000 →
    (s.setReg h blk off w).reg k b o =
      if regHome k b = regHome h blk ∧ b = blk ∧ o = off then w else s.reg k b o

/-- What a write leaves of a bit of a register's field, by the access code of Table 0.4: RW and WO take it, RWL until LOCK, W1C and
W1S clear and set, RO and ROS ignore it, and the fields of a register never overlap (R9). -/
def Obligations.AccessCodes : Prop :=
  ∀ (blk off : Nat) (d : RegDesc), regAt blk off = some d → ∀ f ∈ d.fields, ∀ (locked : Bool) (old raw lanes j : Nat),
    f.lo ≤ j → j ≤ f.hi →
    (∀ g ∈ d.fields, g.lo ≤ j → j ≤ g.hi → g = f) ∧
    (mergeWrite d locked old raw lanes).testBit j =
      if lanes.testBit j = false then old.testBit j else
      match f.acc with
      | .rw | .wo => raw.testBit j
      | .rwl => if locked then old.testBit j else raw.testBit j
      | .w1c => old.testBit j && !raw.testBit j
      | .w1s => old.testBit j || raw.testBit j
      | .ro | .ros => old.testBit j

/-- No derivation widens a capability (R35, R36, R40): a cursor move that keeps the tag keeps base, top, permissions, seal and
node; bounds that are fitted decode to exactly the range that R36 gives, which holds the request; a permission mask only takes
permissions away; and an otype, mode or permission field that is replaced leaves the bounds. -/
def Obligations.NoDerivationWidens : Prop :=
  (∀ (c : TCap) (t : Int), (c.moveTo t).tag = true → c.tag = true ∧ ((c.moveTo t).cursor : Int) = t ∧
    (c.moveTo t).base = c.base ∧ (c.moveTo t).top = c.top ∧ (c.moveTo t).perms = c.perms ∧
    (c.moveTo t).otype = c.otype ∧ (c.moveTo t).node = c.node ∧ (c.moveTo t).epoch = c.epoch) ∧
  (∀ (c : TCap) (n : Nat) (f : Fit), fitRange c.cursor n = some f →
    (c.withFit f).base = f.base ∧ (c.withFit f).top = f.top ∧ f.base ≤ c.cursor ∧ c.cursor + n ≤ f.top ∧
    (c.withFit f).tag = c.tag ∧ (c.withFit f).perms = c.perms ∧ (c.withFit f).node = c.node ∧
    (c.withFit f).epoch = c.epoch) ∧
  (∀ (c : TCap) (a : Nat), (c.put 127 116 (c.perms &&& a)).perms = c.perms &&& a) ∧
  (∀ (c : TCap) (hi lo v : Nat), (hi, lo) ∈ [(127, 116), (115, 104), (98, 98), (121, 121)] →
    (c.put hi lo v).base = c.base ∧ (c.put hi lo v).top = c.top ∧ (c.put hi lo v).cursor = c.cursor ∧
    (c.put hi lo v).tag = c.tag ∧ (c.put hi lo v).node = c.node ∧ (c.put hi lo v).epoch = c.epoch)

-- encoding (chapter 3)

/-- The bytes of every instruction read back as that instruction: for each command that is an Aboux/C instruction, with every
operand at every value that its encoding holds, its bytes followed by any others are read as its row, its encoding and those
others (R60–R68). No bit of an encoding is dropped, and no two rows share bytes. -/
def Obligations.EncodingRoundTrip : Prop :=
  ∀ (c : Instr) (k : CoreId) (x : OpInfo) (e : Enc) (fore : Bool) (rest : List Byte), rowOf c = some (k, x, e) →
    encFits fore x e = true → readInstr fore (encBytes fore x e ++ rest) = some (x, e, rest)

/-- The length that the decoder gives an instruction is the number of its bytes (R72). -/
def Obligations.InstructionLength : Prop :=
  ∀ (c : Instr) (k : CoreId) (x : OpInfo) (e : Enc) (fore : Bool) (i : Inst), rowOf c = some (k, x, e) →
    encFits fore x e = true → decodeEnc fore x e = .ok i → i.len = (encBytes fore x e).length ∧ 1 ≤ i.len ∧ i.len ≤ 15

/-- The encodings of Table 3.11 and the forerunner one of R75's example: mode of the code, bytes, and the row and encoding they
stand for. -/
def Sys2Proof.encodingExamples : List (Bool × List Byte × OpInfo × Enc) :=
  [(false, [0xF2, 0x20, 0x01, 0x53, 0x08, 0x02], addRow, ⟨[⟨0xF2, 0⟩], 0, [⟨0, 1, 0, 0⟩, ⟨5, 3, 0, 8⟩, ⟨0, 2, 0, 0⟩]⟩),
   (false, [0x10, 0x30, 0x34, 0x12, 0, 0, 0, 0, 0, 0, 0x85], movRow, ⟨[], 0, [⟨3, 0, 0, 0x1234⟩, ⟨8, 5, 0, 0⟩]⟩),
   (false, [0xF2, 0xF7, 0xF9, 0x20, 0x21, 0xB2, 0x33, 0x00, 0x01], addRow,
     ⟨[⟨0xF2, 0⟩, ⟨0xF7, 0⟩, ⟨0xF9, 0⟩], 0, [⟨2, 1, 0, 0⟩, ⟨0xB, 2, 0x33, 0x100⟩]⟩),
   (false, [0xF5, 0xC0, 0x11, 0xC0, 0x40, 0x00, 0xE0], daddRow,
     ⟨[⟨0xF5, 0⟩], 0, [⟨1, 1, 0, 0⟩, ⟨0xC, 0, 0, 0x40⟩, ⟨0xE, 0, 0, 0⟩]⟩),
   (false, [0x51, 0x35, 0x54, 0x10, 0x46], addpRow, ⟨[], 0x35, [⟨5, 4, 0, 0x10⟩, ⟨4, 6, 0, 0⟩]⟩),
   (false, [0x61, 0xFA], bccRow 1 false, ⟨[], -6, []⟩),
   (false, [0xEF, 0x01], tlbiaRow, ⟨[], 0, []⟩),
   (true, [0x10, 0x01, 0x52, 0x20], movRow, ⟨[], 0, [⟨0, 1, 0, 0⟩, ⟨5, 2, 0, 0x20⟩]⟩)]

/-- The bytes that Table 3.11 and R75 write out are read as the instructions they stand for there, and are what the encoder
writes for those. -/
def Obligations.EncodingExamples : Prop :=
  ∀ r ∈ encodingExamples, readInstr r.1 r.2.1 = some (r.2.2.1, r.2.2.2, []) ∧ encBytes r.1 r.2.2.1 r.2.2.2 = r.2.1
end

