-- ==== Sys2Proof/Laws/Encoding.lean ====
section
/-! SUPPORT. The parts of an instruction's bytes are read back as they were written, and are as many as the decoder counts:
leading bytes, fixed bytes, specifiers (R60, R64). -/

namespace Sys2Proof.Machine

/-- `leBytes n` gives n bytes. -/
theorem leBytes_count (n v : Nat) : (leBytes n v).length = n := by
  induction n generalizing v with
  | zero => rfl
  | succ n ih => simp [leBytes, ih]

/-- The low bytes of a number give it back modulo their count. -/
theorem leNat_leBytes_mod (n v : Nat) : leNat (leBytes n v) = v % 2 ^ (8 * n) := by
  induction n generalizing v with
  | zero => simp [leBytes, leNat, Nat.mod_one]
  | succ n ih =>
    simp only [leBytes, leNat, ih, BitVec.toNat_ofNat]
    rw [show 8 * (n + 1) = 8 + 8 * n by ring, pow_add, Nat.mod_mul]; norm_num

/-- Leading bytes before a byte that is none are read back. -/
theorem readLeads_leads (ls : List Lead) (h : ls.all Lead.wf = true) (b : Byte) (bs : List Byte) (hb : b.toNat < 0xF0) :
    readLeads (ls.flatMap leadBytes ++ b :: bs) = (ls, b :: bs) := by
  have hne : b ≠ 0xF6 := by rintro rfl; simp at hb
  have hbase : readLeads (b :: bs) = ([], b :: bs) := by
    cases bs with
    | nil => rw [readLeads, if_neg (by omega)]
    | cons c cs => rw [readLeads, if_neg hne, if_neg (by omega)]
  induction ls with
  | nil => simpa using hbase
  | cons l ls ih =>
    simp only [List.all_cons, Bool.and_eq_true] at h
    obtain ⟨h1, h2⟩ := h
    specialize ih h2
    obtain ⟨lb, nn⟩ := l
    simp only [Lead.wf, Bool.and_eq_true, Bool.or_eq_true, decide_eq_true_eq, beq_iff_eq] at h1
    simp only [List.flatMap_cons, leadBytes]
    by_cases h6 : lb = 0xF6
    · simp [h6, readLeads, ih]
    · have hn : nn = 0 := by rcases h1.2 with h | h; exact absurd h h6; exact h
      subst hn
      simp only [h6, if_false, List.cons_append, List.nil_append]
      have : ∃ c cs, (ls.flatMap leadBytes ++ b :: bs) = c :: cs := by
        cases hh : (ls.flatMap leadBytes ++ b :: bs) with
        | nil => simp at hh
        | cons c cs => exact ⟨c, cs, rfl⟩
      obtain ⟨c, cs, hc⟩ := this
      rw [hc] at ih ⊢
      rw [readLeads, if_neg h6, if_pos h1.1]; simp [ih]

/-- A specifier's extension bytes give back its extension. -/
theorem extValue_of_specBytes (m : BitVec 4) (size : Nat) (sp : Spec) (hw : sp.wf = true) (hm : sp.mode = m)
    (hi : sp.mode = 3 → sp.ext.toNat < 2 ^ (8 * size)) :
    extValue m.toNat (extBytes m.toNat size) (sp.ext.toNat % 2 ^ (8 * extBytes m.toNat size)) = sp.ext := by
  subst hm
  obtain ⟨mode, reg, scale, ext⟩ := sp
  simp only [Spec.wf, Bool.and_eq_true] at hw
  have h2 := hw.2
  simp only at *
  by_cases h3 : mode = 3
  · subst h3
    have := hi rfl
    simp [extValue, extBytes]
    apply BitVec.eq_of_toNat_eq
    simp [Nat.mod_eq_of_lt this]
  · have h3' : mode.toNat ≠ 3 := fun h => h3 (by apply BitVec.eq_of_toNat_eq; simpa using h)
    have sg : ∀ n, 0 < n → n ≤ 4 → signedFits (8 * n) ext = true → displacement n (ext.toNat % 2 ^ (8 * n)) = ext := by
      intro n hn hn4 hf
      simp only [signedFits, decide_eq_true_eq] at hf
      simp only [displacement]
      apply BitVec.eq_of_toInt_eq
      rw [BitVec.toInt_ofInt]
      have e1 : signedOf (8 * n) (ext.toNat % 2 ^ (8 * n)) = ext.toInt := by
        simp only [signedOf, Nat.mod_mod]
        have hk : n = 1 ∨ n = 2 ∨ n = 3 ∨ n = 4 := by omega
        have ht := ext.isLt
        rw [BitVec.toInt_eq_toNat_cond] at hf ⊢
        rcases hk with rfl | rfl | rfl | rfl <;> norm_num at hf ⊢ <;> split_ifs at hf ⊢ <;> omega
      rw [e1]
      have hk := BitVec.toInt_lt (x := ext)
      have hk2 := BitVec.le_toInt (x := ext)
      rw [Int.bmod_def]
      simp at hk hk2 ⊢
      split_ifs <;> omega
    simp only [extValue, h3', if_false]
    generalize hmn : mode.toNat = mn at *
    have hlt : mn < 16 := by rw [← hmn]; exact mode.isLt
    have s1 := sg 1 (by decide) (by decide)
    have s2 := sg 2 (by decide) (by decide)
    have s4 := sg 4 (by decide) (by decide)
    interval_cases mn <;> simp_all [extBytes]

/-- A specifier's bytes are read back. -/
theorem readSpec_specBytes (sp : Spec) (size : Nat) (bs : List Byte) (hw : sp.wf = true)
    (hi : sp.mode = 3 → sp.ext.toNat < 2 ^ (8 * size)) :
    readSpec size (specBytes sp size ++ bs) = some (sp, bs) := by
  have hr : (BitVec.ofNat 8 (sp.mode.toNat * 16 + sp.reg.toNat)).toNat = sp.mode.toNat * 16 + sp.reg.toNat := by
    have := sp.mode.isLt; have := sp.reg.isLt
    simp; omega
  have hmode : BitVec.ofNat 4 ((sp.mode.toNat * 16 + sp.reg.toNat) / 16) = sp.mode := by
    apply BitVec.eq_of_toNat_eq
    have := sp.mode.isLt; have := sp.reg.isLt
    simp; omega
  have hreg : BitVec.ofNat 4 ((sp.mode.toNat * 16 + sp.reg.toNat) % 16) = sp.reg := by
    apply BitVec.eq_of_toNat_eq
    have := sp.mode.isLt; have := sp.reg.isLt
    simp; omega
  simp only [specBytes, List.cons_append, readSpec, hr, hmode, hreg]
  have hx := extValue_of_specBytes sp.mode size sp hw rfl hi
  by_cases hs : hasScale sp.mode = true
  · simp only [hs, if_true, List.cons_append, List.nil_append, List.length_cons, List.length_append,
      leBytes_count, List.drop_succ_cons, List.drop_zero, List.headD_cons]
    rw [if_neg (by omega), List.take_left' (leBytes_count _ _), leNat_leBytes_mod, hx]
    rw [Nat.add_comm 1, List.drop_succ_cons, List.drop_left' (leBytes_count _ _)]
  · have hsc : sp.scale = 0 := by
      simp only [Spec.wf, Bool.and_eq_true, Bool.or_eq_true] at hw
      simp only [hasScale, Bool.or_eq_true, not_or] at hs
      rcases hw.1 with (h | h) | h
      · exact absurd h hs.1
      · exact absurd h hs.2
      · simpa using h
    simp only [Bool.not_eq_true] at hs
    simp only [hs, List.nil_append, List.length_append, leBytes_count, Nat.zero_add, List.drop_zero, Bool.false_eq_true, if_false]
    rw [if_neg (by simp), List.take_left' (leBytes_count _ _), leNat_leBytes_mod, hx, List.drop_left' (leBytes_count _ _)]
    obtain ⟨a,b,c,d⟩ := sp
    simp_all

/-- The bytes of specifiers are read back in order. -/
theorem readSpecs_specsBytes (ops : List Spec) (ns : List Nat) (bs : List Byte) (hl : ops.length = ns.length)
    (hw : ops.all Spec.wf = true) (hi : (ops.zip ns).all (fun p => p.1.mode != 3 || p.1.ext.toNat < 2 ^ (8 * p.2)) = true) :
    readSpecs ns (specsBytes ops ns ++ bs) = some (ops, bs) := by
  induction ops generalizing ns with
  | nil => cases ns with
    | nil => rfl
    | cons _ _ => simp at hl
  | cons sp sps ih => cases ns with
    | nil => simp at hl
    | cons n ns =>
      simp only [List.all_cons, Bool.and_eq_true, List.zip_cons_cons] at hw hi
      simp only [specsBytes, List.append_assoc, readSpecs]
      rw [readSpec_specBytes sp n _ hw.1 (by intro h; simpa [h] using hi.1)]
      simp [ih ns (by simpa using hl) hw.2 hi.2]

/-- The fixed bytes give back their value. -/
theorem fixedValue_of_leBytes (f : Fixed) (v : BitVec 32) (h : (match f with
   | .none => v == 0
   | .disp n => 1 ≤ n && n ≤ 4 && decide (-(2 ^ (8 * n - 1) : Int) ≤ v.toInt ∧ v.toInt < (2 ^ (8 * n - 1) : Int))
   | .sysInt _ | .sysCap | .packed _ _ => v.toNat < 256) = true) :
    fixedValue f (v.toNat % 2 ^ (8 * f.len)) = v := by
  cases f with
  | none => simp_all [fixedValue, Fixed.len, Nat.mod_one]
  | disp n =>
    simp only [Bool.and_eq_true, decide_eq_true_eq] at h
    simp only [fixedValue, Fixed.len]
    apply BitVec.eq_of_toInt_eq
    rw [BitVec.toInt_ofInt]
    obtain ⟨⟨h1, h4⟩, hf⟩ := h
    have e1 : signedOf (8 * n) (v.toNat % 2 ^ (8 * n)) = v.toInt := by
      simp only [signedOf, Nat.mod_mod]
      have ht := v.isLt
      rw [BitVec.toInt_eq_toNat_cond] at hf ⊢
      interval_cases n <;> norm_num at hf ⊢ <;> split_ifs at hf ⊢ <;> omega
    rw [e1]
    have hk := BitVec.toInt_lt (x := v)
    have hk2 := BitVec.le_toInt (x := v)
    rw [Int.bmod_def]
    simp at hk hk2 ⊢
    split_ifs <;> omega
  | sysInt _ => simp at h; simp [fixedValue, Fixed.len, Nat.mod_eq_of_lt h]
  | sysCap => simp at h; simp [fixedValue, Fixed.len, Nat.mod_eq_of_lt h]
  | packed _ _ => simp at h; simp [fixedValue, Fixed.len, Nat.mod_eq_of_lt h]

theorem leadBytes_length (l : Lead) : (leadBytes l).length = if l.byte.toNat = 0xF6 then 2 else 1 := by
  simp only [leadBytes]
  by_cases h : l.byte = 0xF6
  · simp [h]
  · have : l.byte.toNat ≠ 0xF6 := fun hh => h (BitVec.eq_of_toNat_eq (by simpa using hh))
    simp [this]; simp at h; simp [h]

/-- The decoder passes over as many bytes as the leading bytes are. -/
theorem decodeLeads_ok (fore : Bool) (ls : List Lead) (off : Nat) (seen r : List (Lead × Nat)) (o : Nat)
    (h : decodeLeads fore ls off seen = .ok (r, o)) :
    o = off + (ls.flatMap leadBytes).length ∧ r.map (·.1) = seen.map (·.1) ++ ls := by
  induction ls generalizing off seen with
  | nil => simp [decodeLeads, pure, Except.pure] at h; simp [h]
  | cons l ls ih =>
    simp only [List.flatMap_cons, List.length_append, leadBytes_length]
    simp only [decodeLeads, bind, Except.bind, needBytes, pure, Except.pure, throw, throwThe, MonadExceptOf.throw] at h
    repeat' (first | contradiction | (split at h))
    all_goals
      have := ih _ _ h
      rw [this.1, this.2]
      simp [*]
    all_goals omega

theorem specBytes_length (sp : Spec) (n : Nat) :
    (specBytes sp n).length = 1 + (if sp.mode.toNat = 0xA ∨ sp.mode.toNat = 0xB then 1 else 0) + extBytes sp.mode.toNat n := by
  simp only [specBytes, List.length_append, List.length_cons, leBytes_count]
  generalize sp.mode = m
  have : (hasScale m = true) ↔ (m.toNat = 0xA ∨ m.toNat = 0xB) := by revert m; decide
  by_cases h : hasScale m = true
  · rw [if_pos h, if_pos (this.1 h)]; simp
  · rw [if_neg h, if_neg (fun q => h (this.2 q))]; simp

/-- The decoder passes over as many bytes as a specifier is. -/
theorem decodeSpec_ok (f t : Bool) (sp : Spec) (cls : OpClass) (size off o : Nat)
    (h : decodeSpec f t sp cls size off = .ok o) : o = off + (specBytes sp size).length := by
  rw [specBytes_length]
  simp only [decodeSpec, bind, Except.bind, needBytes, pure, Except.pure, throw, throwThe, MonadExceptOf.throw] at h
  repeat' (first | contradiction | (split at h))
  all_goals simp at h
  all_goals simp_all
  all_goals omega

end Sys2Proof.Machine
end

