-- ==== Sys2Proof/Laws/Image.lean ====
section
/-! SUPPORT. What leaves the session store under a mask or a seal comes back: AEAD protection is undone by its removal, and the fields of
an image are read as they were written. -/

namespace Sys2Proof.Machine

theorem maskBytes_length (f : Nat → Byte) (bs : List Byte) : (maskBytes f bs).length = bs.length := by simp [maskBytes]

theorem maskBytes_maskBytes (f : Nat → Byte) (bs : List Byte) : maskBytes f (maskBytes f bs) = bs := by
  apply List.ext_getElem
  · simp [maskBytes]
  · intro i h1 h2
    simp [maskBytes]

theorem aeadTag_length (suite : Nat) (key aad nonce c : List Byte) : (aeadTag suite key aad nonce c).length = 16 := by
  simp [aeadTag, sliceB]

theorem aeadOpen_aeadSeal (suite : Nat) (key aad nonce plain : List Byte) :
    aeadOpen suite key aad nonce (aeadSeal suite key aad nonce plain) = some plain := by
  have hl := aeadTag_length suite key aad nonce (maskBytes (Config.keyStream suite key nonce) plain)
  simp [aeadOpen, aeadSeal, hl, maskBytes_maskBytes]

/-- Fields are read back at their widths. -/
theorem unpackFields_packFields (fs : List (Nat × Nat)) (r : List Byte) :
    unpackFields (fs.map (·.1)) (packFields fs ++ r) = fs.map fun f => f.2 % 2 ^ (8 * f.1) := by
  induction fs with
  | nil => rfl
  | cons f fs ih =>
    have h : packFields (f :: fs) ++ r = leBytes f.1 f.2 ++ (packFields fs ++ r) := by simp [packFields]
    rw [h, List.map_cons, unpackFields, List.take_left' (leBytes_count _ _), List.drop_left' (leBytes_count _ _),
      leNat_leBytes_mod, ih]
    rfl

end Sys2Proof.Machine
end

