-- ==== Sys2Proof/Laws/Map.lean ====
section
/-! SUPPORT. Sparse data in canonical form: what a key holds after a write, that a write keeps the form, and that two maps in
the form which read alike are one list. -/

namespace Sys2Proof.Machine

variable {β : Type} [DecidableEq β] {d : Nat → β}

omit [DecidableEq β] in
@[simp] theorem SMap.get_nil (k : Nat) : SMap.get d ([] : SMap β) k = d k := rfl

/-- A key below every listed key reads as an unlisted one. -/
theorem SMap.get_of_wfFrom {m : SMap β} {a k : Nat} (h : SMap.wfFrom d (some a) m = true) (hk : k ≤ a) :
    SMap.get d m k = d k := by
  induction m generalizing a with
  | nil => rfl
  | cons p m ih =>
    simp only [SMap.wfFrom, Bool.and_eq_true, decide_eq_true_eq] at h
    obtain ⟨⟨h1, -⟩, h3⟩ := h
    rw [SMap.get, if_neg (by omega), ih h3 (by omega)]

/-- A bound may be lowered. -/
theorem SMap.wfFrom_mono {m : SMap β} {a b : Nat} (h : SMap.wfFrom d (some b) m = true) (hab : a ≤ b) :
    SMap.wfFrom d (some a) m = true := by
  cases m with
  | nil => rfl
  | cons p m =>
    simp only [SMap.wfFrom, Bool.and_eq_true, decide_eq_true_eq] at h ⊢
    exact ⟨⟨by omega, h.1.2⟩, h.2⟩

theorem SMap.wf_of_wfFrom {m : SMap β} {a : Nat} (h : SMap.wfFrom d (some a) m = true) : SMap.wf d m = true := by
  cases m with
  | nil => rfl
  | cons p m =>
    simp only [SMap.wf, SMap.wfFrom, Bool.and_eq_true, decide_eq_true_eq] at h ⊢
    exact ⟨⟨trivial, h.1.2⟩, h.2⟩

/-- A key other than the one written reads as before. -/
theorem SMap.get_set_ne {m : SMap β} {k j : Nat} {v : β} (h : j ≠ k) : SMap.get d (SMap.set d m k v) j = SMap.get d m j := by
  induction m with
  | nil => simp only [SMap.set]; split <;> simp [SMap.get, h]
  | cons p m ih =>
    simp only [SMap.set]
    split_ifs <;> simp_all [SMap.get]

/-- The key written reads as the value written. -/
theorem SMap.get_set_self_from {m : SMap β} {lo : Option Nat} {k : Nat} {v : β} (h : SMap.wfFrom d lo m = true) :
    SMap.get d (SMap.set d m k v) k = v := by
  induction m generalizing lo with
  | nil => simp only [SMap.set]; split <;> simp_all [SMap.get]
  | cons p m ih =>
    simp only [SMap.wfFrom, Bool.and_eq_true, decide_eq_true_eq] at h
    simp only [SMap.set]
    split_ifs with h1 h2 h3 h4
    · rw [SMap.get_of_wfFrom h.2 (by omega)]; exact h2.symm
    · simp [SMap.get]
    · rw [SMap.get, if_neg (by omega), SMap.get_of_wfFrom h.2 (by omega)]; exact h4.symm
    · simp [SMap.get]
    · rw [SMap.get, if_neg (by omega), ih h.2]

/-- A value that is no default reads back from any list. -/
theorem SMap.get_set_of_ne {m : SMap β} {k : Nat} {v : β} (hv : v ≠ d k) : SMap.get d (SMap.set d m k v) k = v := by
  induction m with
  | nil => simp [SMap.set, hv, SMap.get]
  | cons p m ih =>
    simp only [SMap.set]
    split_ifs with h1 h2
    · simp [SMap.get]
    · simp [SMap.get]
    · rw [SMap.get, if_neg (by omega), ih]

/-- A value that is no default, written over. -/
theorem SMap.set_set {m : SMap β} {k : Nat} {v w : β} (hv : v ≠ d k) :
    SMap.set d (SMap.set d m k v) k w = SMap.set d m k w := by
  induction m with
  | nil => simp [SMap.set, hv]
  | cons p m ih =>
    simp only [SMap.set]
    split_ifs
    all_goals simp_all [SMap.set]

theorem SMap.get_set_self {m : SMap β} {k : Nat} {v : β} (h : SMap.wf d m = true) :
    SMap.get d (SMap.set d m k v) k = v := SMap.get_set_self_from h

/-- A write keeps the form above a bound that the key respects. -/
theorem SMap.wfFrom_set {m : SMap β} {lo : Option Nat} {k : Nat} {v : β} (h : SMap.wfFrom d lo m = true)
    (hk : ∀ b, lo = some b → b < k) : SMap.wfFrom d lo (SMap.set d m k v) = true := by
  induction m generalizing lo with
  | nil =>
    simp only [SMap.set]
    split_ifs with h1
    · rfl
    · simp only [SMap.wfFrom, Bool.and_eq_true, decide_eq_true_eq]; exact ⟨⟨(by cases lo with | none => rfl | some b => simpa using hk b rfl), h1⟩, trivial⟩
  | cons p m ih =>
    have h' := h
    simp only [SMap.wfFrom, Bool.and_eq_true, decide_eq_true_eq] at h
    simp only [SMap.set]
    split_ifs with h1 h2 h3 h4
    · cases lo with
      | none => exact SMap.wf_of_wfFrom h.2
      | some b => exact SMap.wfFrom_mono h.2 (by have := h.1.1; simp at this; omega)
    · simp only [SMap.wfFrom, Bool.and_eq_true, decide_eq_true_eq]; exact ⟨⟨(by cases lo with | none => rfl | some b => simpa using hk b rfl), h2⟩, h1 ▸ h.2⟩
    · exact h'
    · simp only [SMap.wfFrom, Bool.and_eq_true, decide_eq_true_eq]
      exact ⟨⟨(by cases lo with | none => rfl | some b => simpa using hk b rfl), h4⟩, ⟨⟨h3, h.1.2⟩, h.2⟩⟩
    · simp only [SMap.wfFrom, Bool.and_eq_true, decide_eq_true_eq]
      exact ⟨h.1, ih h.2 fun b hb => by cases hb; omega⟩

/-- A write keeps the canonical form. -/
theorem SMap.wf_set {m : SMap β} {k : Nat} {v : β} (h : SMap.wf d m = true) : SMap.wf d (SMap.set d m k v) = true :=
  SMap.wfFrom_set h (by simp)

omit [DecidableEq β] in
/-- The first entry's key reads as its value. -/
theorem SMap.get_head {p : Nat × β} {m : SMap β} : SMap.get d (p :: m) p.1 = p.2 := by simp [SMap.get]

end Sys2Proof.Machine
end

