-- ==== Sys2Proof/Laws/State.lean ====
section
/-! SUPPORT. What each named update of the state leaves alone, one lemma a field, and what it puts where: no later proof
unfolds a record update. -/

namespace Sys2Proof.Machine

variable (s : State) (h h' : HalfId)

@[simp] theorem State.half_setHalf_self (x : Half) : (s.setHalf h x).half h = x := by cases h <;> rfl

theorem State.half_setHalf_ne {h h' : HalfId} (x : Half) (n : h' ≠ h) : (s.setHalf h x).half h' = s.half h' := by
  cases h <;> cases h' <;> first | rfl | exact absurd rfl n

@[simp] theorem State.half_upd_self (f : Half → Half) : (s.upd h f).half h = f (s.half h) := State.half_setHalf_self s h _

theorem State.half_upd_ne {h h' : HalfId} (f : Half → Half) (n : h' ≠ h) : (s.upd h f).half h' = s.half h' :=
  State.half_setHalf_ne s _ n

@[simp] theorem State.half_upd_other (f : Half → Half) : (s.upd h f).half h.other = s.half h.other := by cases h <;> rfl

/-- Either half after a change that leaves a part of a half alone. -/
theorem State.half_upd_proj {α : Type} (p : Half → α) (f : Half → Half) (hf : ∀ x, p (f x) = p x) :
    p ((s.upd h f).half h') = p (s.half h') := by
  by_cases n : h' = h
  · subst n; rw [State.half_upd_self, hf]
  · rw [State.half_upd_ne s f n]

/-- A change that changes nothing. -/
@[simp] theorem State.upd_id : s.upd h (fun x => x) = s := by cases h <;> rfl

/-- Two changes of one half are one. -/
theorem State.upd_upd (f g : Half → Half) : (s.upd h f).upd h g = s.upd h (fun x => g (f x)) := by cases h <;> rfl

-- the package's own fields

@[simp] theorem State.timebase_setHalf (x : Half) : (s.setHalf h x).timebase = s.timebase := by cases h <;> rfl
@[simp] theorem State.elapsed_setHalf (x : Half) : (s.setHalf h x).elapsed = s.elapsed := by cases h <;> rfl
@[simp] theorem State.trimAcc_setHalf (x : Half) : (s.setHalf h x).trimAcc = s.trimAcc := by cases h <;> rfl
@[simp] theorem State.ppsOut_setHalf (x : Half) : (s.setHalf h x).ppsOut = s.ppsOut := by cases h <;> rfl
@[simp] theorem State.ppsFall_setHalf (x : Half) : (s.setHalf h x).ppsFall = s.ppsFall := by cases h <;> rfl
@[simp] theorem State.ppsEdge_setHalf (x : Half) : (s.setHalf h x).ppsEdge = s.ppsEdge := by cases h <;> rfl
@[simp] theorem State.idleAt_setHalf (x : Half) : (s.setHalf h x).idleAt = s.idleAt := by cases h <;> rfl
@[simp] theorem State.latch_setHalf (x : Half) : (s.setHalf h x).latch = s.latch := by cases h <;> rfl
@[simp] theorem State.leaseEnd_setHalf (x : Half) : (s.setHalf h x).leaseEnd = s.leaseEnd := by cases h <;> rfl
@[simp] theorem State.frozen_setHalf (x : Half) : (s.setHalf h x).frozen = s.frozen := by cases h <;> rfl
@[simp] theorem State.seamUp_setHalf (x : Half) : (s.setHalf h x).seamUp = s.seamUp := by cases h <;> rfl
@[simp] theorem State.timeFailed_setHalf (x : Half) : (s.setHalf h x).timeFailed = s.timeFailed := by cases h <;> rfl
@[simp] theorem State.otp_setHalf (x : Half) : (s.setHalf h x).otp = s.otp := by cases h <;> rfl
@[simp] theorem State.xfer_setHalf (x : Half) : (s.setHalf h x).xfer = s.xfer := by cases h <;> rfl
@[simp] theorem State.bootStage_setHalf (x : Half) : (s.setHalf h x).bootStage = s.bootStage := by cases h <;> rfl
@[simp] theorem State.booted_setHalf (x : Half) : (s.setHalf h x).booted = s.booted := by cases h <;> rfl
@[simp] theorem State.activating_setHalf (x : Half) : (s.setHalf h x).activating = s.activating := by cases h <;> rfl
@[simp] theorem State.dbgGrant_setHalf (x : Half) : (s.setHalf h x).dbgGrant = s.dbgGrant := by cases h <;> rfl
@[simp] theorem State.host_setHalf (x : Half) : (s.setHalf h x).host = s.host := by cases h <;> rfl
@[simp] theorem State.porst_setHalf (x : Half) : (s.setHalf h x).porst = s.porst := by cases h <;> rfl
@[simp] theorem State.wrst_setHalf (x : Half) : (s.setHalf h x).wrst = s.wrst := by cases h <;> rfl
@[simp] theorem State.waking_setHalf (x : Half) : (s.setHalf h x).waking = s.waking := by cases h <;> rfl
@[simp] theorem State.faultN_setHalf (x : Half) : (s.setHalf h x).faultN = s.faultN := by cases h <;> rfl
@[simp] theorem State.safeOut_setHalf (x : Half) : (s.setHalf h x).safeOut = s.safeOut := by cases h <;> rfl
@[simp] theorem State.uartRx_setHalf (x : Half) : (s.setHalf h x).uartRx = s.uartRx := by cases h <;> rfl
@[simp] theorem State.uartTx_setHalf (x : Half) : (s.setHalf h x).uartTx = s.uartTx := by cases h <;> rfl
@[simp] theorem State.spi_setHalf (x : Half) : (s.setHalf h x).spi = s.spi := by cases h <;> rfl
@[simp] theorem State.out_setHalf (x : Half) : (s.setHalf h x).out = s.out := by cases h <;> rfl
@[simp] theorem State.freeCount_setHalf (x : Half) : (s.setHalf h x).freeCount = s.freeCount := by cases h <;> rfl
@[simp] theorem State.pending_setHalf (x : Half) : (s.setHalf h x).pending = s.pending := by cases h <;> rfl

@[simp] theorem State.timebase_upd (f : Half → Half) : (s.upd h f).timebase = s.timebase := State.timebase_setHalf _ _ _
@[simp] theorem State.elapsed_upd (f : Half → Half) : (s.upd h f).elapsed = s.elapsed := State.elapsed_setHalf _ _ _
@[simp] theorem State.trimAcc_upd (f : Half → Half) : (s.upd h f).trimAcc = s.trimAcc := State.trimAcc_setHalf _ _ _
@[simp] theorem State.ppsOut_upd (f : Half → Half) : (s.upd h f).ppsOut = s.ppsOut := State.ppsOut_setHalf _ _ _
@[simp] theorem State.ppsFall_upd (f : Half → Half) : (s.upd h f).ppsFall = s.ppsFall := State.ppsFall_setHalf _ _ _
@[simp] theorem State.ppsEdge_upd (f : Half → Half) : (s.upd h f).ppsEdge = s.ppsEdge := State.ppsEdge_setHalf _ _ _
@[simp] theorem State.idleAt_upd (f : Half → Half) : (s.upd h f).idleAt = s.idleAt := State.idleAt_setHalf _ _ _
@[simp] theorem State.latch_upd (f : Half → Half) : (s.upd h f).latch = s.latch := State.latch_setHalf _ _ _
@[simp] theorem State.leaseEnd_upd (f : Half → Half) : (s.upd h f).leaseEnd = s.leaseEnd := State.leaseEnd_setHalf _ _ _
@[simp] theorem State.frozen_upd (f : Half → Half) : (s.upd h f).frozen = s.frozen := State.frozen_setHalf _ _ _
@[simp] theorem State.seamUp_upd (f : Half → Half) : (s.upd h f).seamUp = s.seamUp := State.seamUp_setHalf _ _ _
@[simp] theorem State.timeFailed_upd (f : Half → Half) : (s.upd h f).timeFailed = s.timeFailed := State.timeFailed_setHalf _ _ _
@[simp] theorem State.otp_upd (f : Half → Half) : (s.upd h f).otp = s.otp := State.otp_setHalf _ _ _
@[simp] theorem State.xfer_upd (f : Half → Half) : (s.upd h f).xfer = s.xfer := State.xfer_setHalf _ _ _
@[simp] theorem State.bootStage_upd (f : Half → Half) : (s.upd h f).bootStage = s.bootStage := State.bootStage_setHalf _ _ _
@[simp] theorem State.booted_upd (f : Half → Half) : (s.upd h f).booted = s.booted := State.booted_setHalf _ _ _
@[simp] theorem State.activating_upd (f : Half → Half) : (s.upd h f).activating = s.activating := State.activating_setHalf _ _ _
@[simp] theorem State.dbgGrant_upd (f : Half → Half) : (s.upd h f).dbgGrant = s.dbgGrant := State.dbgGrant_setHalf _ _ _
@[simp] theorem State.host_upd (f : Half → Half) : (s.upd h f).host = s.host := State.host_setHalf _ _ _
@[simp] theorem State.porst_upd (f : Half → Half) : (s.upd h f).porst = s.porst := State.porst_setHalf _ _ _
@[simp] theorem State.wrst_upd (f : Half → Half) : (s.upd h f).wrst = s.wrst := State.wrst_setHalf _ _ _
@[simp] theorem State.waking_upd (f : Half → Half) : (s.upd h f).waking = s.waking := State.waking_setHalf _ _ _
@[simp] theorem State.faultN_upd (f : Half → Half) : (s.upd h f).faultN = s.faultN := State.faultN_setHalf _ _ _
@[simp] theorem State.safeOut_upd (f : Half → Half) : (s.upd h f).safeOut = s.safeOut := State.safeOut_setHalf _ _ _
@[simp] theorem State.uartRx_upd (f : Half → Half) : (s.upd h f).uartRx = s.uartRx := State.uartRx_setHalf _ _ _
@[simp] theorem State.uartTx_upd (f : Half → Half) : (s.upd h f).uartTx = s.uartTx := State.uartTx_setHalf _ _ _
@[simp] theorem State.spi_upd (f : Half → Half) : (s.upd h f).spi = s.spi := State.spi_setHalf _ _ _
@[simp] theorem State.out_upd (f : Half → Half) : (s.upd h f).out = s.out := State.out_setHalf _ _ _
@[simp] theorem State.freeCount_upd (f : Half → Half) : (s.upd h f).freeCount = s.freeCount := State.freeCount_setHalf _ _ _
@[simp] theorem State.pending_upd (f : Half → Half) : (s.upd h f).pending = s.pending := State.pending_setHalf _ _ _

@[simp] theorem State.timebase_setReg (blk off : Nat) (w : Word) : (s.setReg h blk off w).timebase = s.timebase := State.timebase_upd _ _ _
@[simp] theorem State.elapsed_setReg (blk off : Nat) (w : Word) : (s.setReg h blk off w).elapsed = s.elapsed := State.elapsed_upd _ _ _
@[simp] theorem State.trimAcc_setReg (blk off : Nat) (w : Word) : (s.setReg h blk off w).trimAcc = s.trimAcc := State.trimAcc_upd _ _ _
@[simp] theorem State.ppsOut_setReg (blk off : Nat) (w : Word) : (s.setReg h blk off w).ppsOut = s.ppsOut := State.ppsOut_upd _ _ _
@[simp] theorem State.ppsFall_setReg (blk off : Nat) (w : Word) : (s.setReg h blk off w).ppsFall = s.ppsFall := State.ppsFall_upd _ _ _
@[simp] theorem State.ppsEdge_setReg (blk off : Nat) (w : Word) : (s.setReg h blk off w).ppsEdge = s.ppsEdge := State.ppsEdge_upd _ _ _
@[simp] theorem State.idleAt_setReg (blk off : Nat) (w : Word) : (s.setReg h blk off w).idleAt = s.idleAt := State.idleAt_upd _ _ _
@[simp] theorem State.latch_setReg (blk off : Nat) (w : Word) : (s.setReg h blk off w).latch = s.latch := State.latch_upd _ _ _
@[simp] theorem State.leaseEnd_setReg (blk off : Nat) (w : Word) : (s.setReg h blk off w).leaseEnd = s.leaseEnd := State.leaseEnd_upd _ _ _
@[simp] theorem State.frozen_setReg (blk off : Nat) (w : Word) : (s.setReg h blk off w).frozen = s.frozen := State.frozen_upd _ _ _
@[simp] theorem State.seamUp_setReg (blk off : Nat) (w : Word) : (s.setReg h blk off w).seamUp = s.seamUp := State.seamUp_upd _ _ _
@[simp] theorem State.timeFailed_setReg (blk off : Nat) (w : Word) : (s.setReg h blk off w).timeFailed = s.timeFailed := State.timeFailed_upd _ _ _
@[simp] theorem State.otp_setReg (blk off : Nat) (w : Word) : (s.setReg h blk off w).otp = s.otp := State.otp_upd _ _ _
@[simp] theorem State.xfer_setReg (blk off : Nat) (w : Word) : (s.setReg h blk off w).xfer = s.xfer := State.xfer_upd _ _ _
@[simp] theorem State.bootStage_setReg (blk off : Nat) (w : Word) : (s.setReg h blk off w).bootStage = s.bootStage := State.bootStage_upd _ _ _
@[simp] theorem State.booted_setReg (blk off : Nat) (w : Word) : (s.setReg h blk off w).booted = s.booted := State.booted_upd _ _ _
@[simp] theorem State.activating_setReg (blk off : Nat) (w : Word) : (s.setReg h blk off w).activating = s.activating := State.activating_upd _ _ _
@[simp] theorem State.dbgGrant_setReg (blk off : Nat) (w : Word) : (s.setReg h blk off w).dbgGrant = s.dbgGrant := State.dbgGrant_upd _ _ _
@[simp] theorem State.host_setReg (blk off : Nat) (w : Word) : (s.setReg h blk off w).host = s.host := State.host_upd _ _ _
@[simp] theorem State.porst_setReg (blk off : Nat) (w : Word) : (s.setReg h blk off w).porst = s.porst := State.porst_upd _ _ _
@[simp] theorem State.wrst_setReg (blk off : Nat) (w : Word) : (s.setReg h blk off w).wrst = s.wrst := State.wrst_upd _ _ _
@[simp] theorem State.waking_setReg (blk off : Nat) (w : Word) : (s.setReg h blk off w).waking = s.waking := State.waking_upd _ _ _
@[simp] theorem State.faultN_setReg (blk off : Nat) (w : Word) : (s.setReg h blk off w).faultN = s.faultN := State.faultN_upd _ _ _
@[simp] theorem State.safeOut_setReg (blk off : Nat) (w : Word) : (s.setReg h blk off w).safeOut = s.safeOut := State.safeOut_upd _ _ _
@[simp] theorem State.uartRx_setReg (blk off : Nat) (w : Word) : (s.setReg h blk off w).uartRx = s.uartRx := State.uartRx_upd _ _ _
@[simp] theorem State.uartTx_setReg (blk off : Nat) (w : Word) : (s.setReg h blk off w).uartTx = s.uartTx := State.uartTx_upd _ _ _
@[simp] theorem State.spi_setReg (blk off : Nat) (w : Word) : (s.setReg h blk off w).spi = s.spi := State.spi_upd _ _ _
@[simp] theorem State.out_setReg (blk off : Nat) (w : Word) : (s.setReg h blk off w).out = s.out := State.out_upd _ _ _
@[simp] theorem State.freeCount_setReg (blk off : Nat) (w : Word) : (s.setReg h blk off w).freeCount = s.freeCount := State.freeCount_upd _ _ _
@[simp] theorem State.pending_setReg (blk off : Nat) (w : Word) : (s.setReg h blk off w).pending = s.pending := State.pending_upd _ _ _

@[simp] theorem State.timebase_setFld (f : Fld) (v : Nat) : (s.setFld h f v).timebase = s.timebase := State.timebase_setReg _ _ _ _ _
@[simp] theorem State.elapsed_setFld (f : Fld) (v : Nat) : (s.setFld h f v).elapsed = s.elapsed := State.elapsed_setReg _ _ _ _ _
@[simp] theorem State.trimAcc_setFld (f : Fld) (v : Nat) : (s.setFld h f v).trimAcc = s.trimAcc := State.trimAcc_setReg _ _ _ _ _
@[simp] theorem State.ppsOut_setFld (f : Fld) (v : Nat) : (s.setFld h f v).ppsOut = s.ppsOut := State.ppsOut_setReg _ _ _ _ _
@[simp] theorem State.ppsFall_setFld (f : Fld) (v : Nat) : (s.setFld h f v).ppsFall = s.ppsFall := State.ppsFall_setReg _ _ _ _ _
@[simp] theorem State.ppsEdge_setFld (f : Fld) (v : Nat) : (s.setFld h f v).ppsEdge = s.ppsEdge := State.ppsEdge_setReg _ _ _ _ _
@[simp] theorem State.idleAt_setFld (f : Fld) (v : Nat) : (s.setFld h f v).idleAt = s.idleAt := State.idleAt_setReg _ _ _ _ _
@[simp] theorem State.latch_setFld (f : Fld) (v : Nat) : (s.setFld h f v).latch = s.latch := State.latch_setReg _ _ _ _ _
@[simp] theorem State.leaseEnd_setFld (f : Fld) (v : Nat) : (s.setFld h f v).leaseEnd = s.leaseEnd := State.leaseEnd_setReg _ _ _ _ _
@[simp] theorem State.frozen_setFld (f : Fld) (v : Nat) : (s.setFld h f v).frozen = s.frozen := State.frozen_setReg _ _ _ _ _
@[simp] theorem State.seamUp_setFld (f : Fld) (v : Nat) : (s.setFld h f v).seamUp = s.seamUp := State.seamUp_setReg _ _ _ _ _
@[simp] theorem State.timeFailed_setFld (f : Fld) (v : Nat) : (s.setFld h f v).timeFailed = s.timeFailed := State.timeFailed_setReg _ _ _ _ _
@[simp] theorem State.otp_setFld (f : Fld) (v : Nat) : (s.setFld h f v).otp = s.otp := State.otp_setReg _ _ _ _ _
@[simp] theorem State.xfer_setFld (f : Fld) (v : Nat) : (s.setFld h f v).xfer = s.xfer := State.xfer_setReg _ _ _ _ _
@[simp] theorem State.bootStage_setFld (f : Fld) (v : Nat) : (s.setFld h f v).bootStage = s.bootStage := State.bootStage_setReg _ _ _ _ _
@[simp] theorem State.booted_setFld (f : Fld) (v : Nat) : (s.setFld h f v).booted = s.booted := State.booted_setReg _ _ _ _ _
@[simp] theorem State.activating_setFld (f : Fld) (v : Nat) : (s.setFld h f v).activating = s.activating := State.activating_setReg _ _ _ _ _
@[simp] theorem State.dbgGrant_setFld (f : Fld) (v : Nat) : (s.setFld h f v).dbgGrant = s.dbgGrant := State.dbgGrant_setReg _ _ _ _ _
@[simp] theorem State.host_setFld (f : Fld) (v : Nat) : (s.setFld h f v).host = s.host := State.host_setReg _ _ _ _ _
@[simp] theorem State.porst_setFld (f : Fld) (v : Nat) : (s.setFld h f v).porst = s.porst := State.porst_setReg _ _ _ _ _
@[simp] theorem State.wrst_setFld (f : Fld) (v : Nat) : (s.setFld h f v).wrst = s.wrst := State.wrst_setReg _ _ _ _ _
@[simp] theorem State.waking_setFld (f : Fld) (v : Nat) : (s.setFld h f v).waking = s.waking := State.waking_setReg _ _ _ _ _
@[simp] theorem State.faultN_setFld (f : Fld) (v : Nat) : (s.setFld h f v).faultN = s.faultN := State.faultN_setReg _ _ _ _ _
@[simp] theorem State.safeOut_setFld (f : Fld) (v : Nat) : (s.setFld h f v).safeOut = s.safeOut := State.safeOut_setReg _ _ _ _ _
@[simp] theorem State.uartRx_setFld (f : Fld) (v : Nat) : (s.setFld h f v).uartRx = s.uartRx := State.uartRx_setReg _ _ _ _ _
@[simp] theorem State.uartTx_setFld (f : Fld) (v : Nat) : (s.setFld h f v).uartTx = s.uartTx := State.uartTx_setReg _ _ _ _ _
@[simp] theorem State.spi_setFld (f : Fld) (v : Nat) : (s.setFld h f v).spi = s.spi := State.spi_setReg _ _ _ _ _
@[simp] theorem State.out_setFld (f : Fld) (v : Nat) : (s.setFld h f v).out = s.out := State.out_setReg _ _ _ _ _
@[simp] theorem State.freeCount_setFld (f : Fld) (v : Nat) : (s.setFld h f v).freeCount = s.freeCount := State.freeCount_setReg _ _ _ _ _
@[simp] theorem State.pending_setFld (f : Fld) (v : Nat) : (s.setFld h f v).pending = s.pending := State.pending_setReg _ _ _ _ _

@[simp] theorem State.timebase_addFld (f : Fld) (n : Nat) : (s.addFld h f n).timebase = s.timebase := State.timebase_setFld _ _ _ _
@[simp] theorem State.elapsed_addFld (f : Fld) (n : Nat) : (s.addFld h f n).elapsed = s.elapsed := State.elapsed_setFld _ _ _ _
@[simp] theorem State.trimAcc_addFld (f : Fld) (n : Nat) : (s.addFld h f n).trimAcc = s.trimAcc := State.trimAcc_setFld _ _ _ _
@[simp] theorem State.ppsOut_addFld (f : Fld) (n : Nat) : (s.addFld h f n).ppsOut = s.ppsOut := State.ppsOut_setFld _ _ _ _
@[simp] theorem State.ppsFall_addFld (f : Fld) (n : Nat) : (s.addFld h f n).ppsFall = s.ppsFall := State.ppsFall_setFld _ _ _ _
@[simp] theorem State.ppsEdge_addFld (f : Fld) (n : Nat) : (s.addFld h f n).ppsEdge = s.ppsEdge := State.ppsEdge_setFld _ _ _ _
@[simp] theorem State.idleAt_addFld (f : Fld) (n : Nat) : (s.addFld h f n).idleAt = s.idleAt := State.idleAt_setFld _ _ _ _
@[simp] theorem State.latch_addFld (f : Fld) (n : Nat) : (s.addFld h f n).latch = s.latch := State.latch_setFld _ _ _ _
@[simp] theorem State.leaseEnd_addFld (f : Fld) (n : Nat) : (s.addFld h f n).leaseEnd = s.leaseEnd := State.leaseEnd_setFld _ _ _ _
@[simp] theorem State.frozen_addFld (f : Fld) (n : Nat) : (s.addFld h f n).frozen = s.frozen := State.frozen_setFld _ _ _ _
@[simp] theorem State.seamUp_addFld (f : Fld) (n : Nat) : (s.addFld h f n).seamUp = s.seamUp := State.seamUp_setFld _ _ _ _
@[simp] theorem State.timeFailed_addFld (f : Fld) (n : Nat) : (s.addFld h f n).timeFailed = s.timeFailed := State.timeFailed_setFld _ _ _ _
@[simp] theorem State.otp_addFld (f : Fld) (n : Nat) : (s.addFld h f n).otp = s.otp := State.otp_setFld _ _ _ _
@[simp] theorem State.xfer_addFld (f : Fld) (n : Nat) : (s.addFld h f n).xfer = s.xfer := State.xfer_setFld _ _ _ _
@[simp] theorem State.bootStage_addFld (f : Fld) (n : Nat) : (s.addFld h f n).bootStage = s.bootStage := State.bootStage_setFld _ _ _ _
@[simp] theorem State.booted_addFld (f : Fld) (n : Nat) : (s.addFld h f n).booted = s.booted := State.booted_setFld _ _ _ _
@[simp] theorem State.activating_addFld (f : Fld) (n : Nat) : (s.addFld h f n).activating = s.activating := State.activating_setFld _ _ _ _
@[simp] theorem State.dbgGrant_addFld (f : Fld) (n : Nat) : (s.addFld h f n).dbgGrant = s.dbgGrant := State.dbgGrant_setFld _ _ _ _
@[simp] theorem State.host_addFld (f : Fld) (n : Nat) : (s.addFld h f n).host = s.host := State.host_setFld _ _ _ _
@[simp] theorem State.porst_addFld (f : Fld) (n : Nat) : (s.addFld h f n).porst = s.porst := State.porst_setFld _ _ _ _
@[simp] theorem State.wrst_addFld (f : Fld) (n : Nat) : (s.addFld h f n).wrst = s.wrst := State.wrst_setFld _ _ _ _
@[simp] theorem State.waking_addFld (f : Fld) (n : Nat) : (s.addFld h f n).waking = s.waking := State.waking_setFld _ _ _ _
@[simp] theorem State.faultN_addFld (f : Fld) (n : Nat) : (s.addFld h f n).faultN = s.faultN := State.faultN_setFld _ _ _ _
@[simp] theorem State.safeOut_addFld (f : Fld) (n : Nat) : (s.addFld h f n).safeOut = s.safeOut := State.safeOut_setFld _ _ _ _
@[simp] theorem State.uartRx_addFld (f : Fld) (n : Nat) : (s.addFld h f n).uartRx = s.uartRx := State.uartRx_setFld _ _ _ _
@[simp] theorem State.uartTx_addFld (f : Fld) (n : Nat) : (s.addFld h f n).uartTx = s.uartTx := State.uartTx_setFld _ _ _ _
@[simp] theorem State.spi_addFld (f : Fld) (n : Nat) : (s.addFld h f n).spi = s.spi := State.spi_setFld _ _ _ _
@[simp] theorem State.out_addFld (f : Fld) (n : Nat) : (s.addFld h f n).out = s.out := State.out_setFld _ _ _ _
@[simp] theorem State.freeCount_addFld (f : Fld) (n : Nat) : (s.addFld h f n).freeCount = s.freeCount := State.freeCount_setFld _ _ _ _
@[simp] theorem State.pending_addFld (f : Fld) (n : Nat) : (s.addFld h f n).pending = s.pending := State.pending_setFld _ _ _ _

@[simp] theorem State.timebase_incFld (f : Fld) : (s.incFld h f).timebase = s.timebase := State.timebase_addFld _ _ _ _
@[simp] theorem State.elapsed_incFld (f : Fld) : (s.incFld h f).elapsed = s.elapsed := State.elapsed_addFld _ _ _ _
@[simp] theorem State.trimAcc_incFld (f : Fld) : (s.incFld h f).trimAcc = s.trimAcc := State.trimAcc_addFld _ _ _ _
@[simp] theorem State.ppsOut_incFld (f : Fld) : (s.incFld h f).ppsOut = s.ppsOut := State.ppsOut_addFld _ _ _ _
@[simp] theorem State.ppsFall_incFld (f : Fld) : (s.incFld h f).ppsFall = s.ppsFall := State.ppsFall_addFld _ _ _ _
@[simp] theorem State.ppsEdge_incFld (f : Fld) : (s.incFld h f).ppsEdge = s.ppsEdge := State.ppsEdge_addFld _ _ _ _
@[simp] theorem State.idleAt_incFld (f : Fld) : (s.incFld h f).idleAt = s.idleAt := State.idleAt_addFld _ _ _ _
@[simp] theorem State.latch_incFld (f : Fld) : (s.incFld h f).latch = s.latch := State.latch_addFld _ _ _ _
@[simp] theorem State.leaseEnd_incFld (f : Fld) : (s.incFld h f).leaseEnd = s.leaseEnd := State.leaseEnd_addFld _ _ _ _
@[simp] theorem State.frozen_incFld (f : Fld) : (s.incFld h f).frozen = s.frozen := State.frozen_addFld _ _ _ _
@[simp] theorem State.seamUp_incFld (f : Fld) : (s.incFld h f).seamUp = s.seamUp := State.seamUp_addFld _ _ _ _
@[simp] theorem State.timeFailed_incFld (f : Fld) : (s.incFld h f).timeFailed = s.timeFailed := State.timeFailed_addFld _ _ _ _
@[simp] theorem State.otp_incFld (f : Fld) : (s.incFld h f).otp = s.otp := State.otp_addFld _ _ _ _
@[simp] theorem State.xfer_incFld (f : Fld) : (s.incFld h f).xfer = s.xfer := State.xfer_addFld _ _ _ _
@[simp] theorem State.bootStage_incFld (f : Fld) : (s.incFld h f).bootStage = s.bootStage := State.bootStage_addFld _ _ _ _
@[simp] theorem State.booted_incFld (f : Fld) : (s.incFld h f).booted = s.booted := State.booted_addFld _ _ _ _
@[simp] theorem State.activating_incFld (f : Fld) : (s.incFld h f).activating = s.activating := State.activating_addFld _ _ _ _
@[simp] theorem State.dbgGrant_incFld (f : Fld) : (s.incFld h f).dbgGrant = s.dbgGrant := State.dbgGrant_addFld _ _ _ _
@[simp] theorem State.host_incFld (f : Fld) : (s.incFld h f).host = s.host := State.host_addFld _ _ _ _
@[simp] theorem State.porst_incFld (f : Fld) : (s.incFld h f).porst = s.porst := State.porst_addFld _ _ _ _
@[simp] theorem State.wrst_incFld (f : Fld) : (s.incFld h f).wrst = s.wrst := State.wrst_addFld _ _ _ _
@[simp] theorem State.waking_incFld (f : Fld) : (s.incFld h f).waking = s.waking := State.waking_addFld _ _ _ _
@[simp] theorem State.faultN_incFld (f : Fld) : (s.incFld h f).faultN = s.faultN := State.faultN_addFld _ _ _ _
@[simp] theorem State.safeOut_incFld (f : Fld) : (s.incFld h f).safeOut = s.safeOut := State.safeOut_addFld _ _ _ _
@[simp] theorem State.uartRx_incFld (f : Fld) : (s.incFld h f).uartRx = s.uartRx := State.uartRx_addFld _ _ _ _
@[simp] theorem State.uartTx_incFld (f : Fld) : (s.incFld h f).uartTx = s.uartTx := State.uartTx_addFld _ _ _ _
@[simp] theorem State.spi_incFld (f : Fld) : (s.incFld h f).spi = s.spi := State.spi_addFld _ _ _ _
@[simp] theorem State.out_incFld (f : Fld) : (s.incFld h f).out = s.out := State.out_addFld _ _ _ _
@[simp] theorem State.freeCount_incFld (f : Fld) : (s.incFld h f).freeCount = s.freeCount := State.freeCount_addFld _ _ _ _
@[simp] theorem State.pending_incFld (f : Fld) : (s.incFld h f).pending = s.pending := State.pending_addFld _ _ _ _

@[simp] theorem State.timebase_setBit (f : Fld) (i : Nat) : (s.setBit h f i).timebase = s.timebase := State.timebase_setFld _ _ _ _
@[simp] theorem State.elapsed_setBit (f : Fld) (i : Nat) : (s.setBit h f i).elapsed = s.elapsed := State.elapsed_setFld _ _ _ _
@[simp] theorem State.trimAcc_setBit (f : Fld) (i : Nat) : (s.setBit h f i).trimAcc = s.trimAcc := State.trimAcc_setFld _ _ _ _
@[simp] theorem State.ppsOut_setBit (f : Fld) (i : Nat) : (s.setBit h f i).ppsOut = s.ppsOut := State.ppsOut_setFld _ _ _ _
@[simp] theorem State.ppsFall_setBit (f : Fld) (i : Nat) : (s.setBit h f i).ppsFall = s.ppsFall := State.ppsFall_setFld _ _ _ _
@[simp] theorem State.ppsEdge_setBit (f : Fld) (i : Nat) : (s.setBit h f i).ppsEdge = s.ppsEdge := State.ppsEdge_setFld _ _ _ _
@[simp] theorem State.idleAt_setBit (f : Fld) (i : Nat) : (s.setBit h f i).idleAt = s.idleAt := State.idleAt_setFld _ _ _ _
@[simp] theorem State.latch_setBit (f : Fld) (i : Nat) : (s.setBit h f i).latch = s.latch := State.latch_setFld _ _ _ _
@[simp] theorem State.leaseEnd_setBit (f : Fld) (i : Nat) : (s.setBit h f i).leaseEnd = s.leaseEnd := State.leaseEnd_setFld _ _ _ _
@[simp] theorem State.frozen_setBit (f : Fld) (i : Nat) : (s.setBit h f i).frozen = s.frozen := State.frozen_setFld _ _ _ _
@[simp] theorem State.seamUp_setBit (f : Fld) (i : Nat) : (s.setBit h f i).seamUp = s.seamUp := State.seamUp_setFld _ _ _ _
@[simp] theorem State.timeFailed_setBit (f : Fld) (i : Nat) : (s.setBit h f i).timeFailed = s.timeFailed := State.timeFailed_setFld _ _ _ _
@[simp] theorem State.otp_setBit (f : Fld) (i : Nat) : (s.setBit h f i).otp = s.otp := State.otp_setFld _ _ _ _
@[simp] theorem State.xfer_setBit (f : Fld) (i : Nat) : (s.setBit h f i).xfer = s.xfer := State.xfer_setFld _ _ _ _
@[simp] theorem State.bootStage_setBit (f : Fld) (i : Nat) : (s.setBit h f i).bootStage = s.bootStage := State.bootStage_setFld _ _ _ _
@[simp] theorem State.booted_setBit (f : Fld) (i : Nat) : (s.setBit h f i).booted = s.booted := State.booted_setFld _ _ _ _
@[simp] theorem State.activating_setBit (f : Fld) (i : Nat) : (s.setBit h f i).activating = s.activating := State.activating_setFld _ _ _ _
@[simp] theorem State.dbgGrant_setBit (f : Fld) (i : Nat) : (s.setBit h f i).dbgGrant = s.dbgGrant := State.dbgGrant_setFld _ _ _ _
@[simp] theorem State.host_setBit (f : Fld) (i : Nat) : (s.setBit h f i).host = s.host := State.host_setFld _ _ _ _
@[simp] theorem State.porst_setBit (f : Fld) (i : Nat) : (s.setBit h f i).porst = s.porst := State.porst_setFld _ _ _ _
@[simp] theorem State.wrst_setBit (f : Fld) (i : Nat) : (s.setBit h f i).wrst = s.wrst := State.wrst_setFld _ _ _ _
@[simp] theorem State.waking_setBit (f : Fld) (i : Nat) : (s.setBit h f i).waking = s.waking := State.waking_setFld _ _ _ _
@[simp] theorem State.faultN_setBit (f : Fld) (i : Nat) : (s.setBit h f i).faultN = s.faultN := State.faultN_setFld _ _ _ _
@[simp] theorem State.safeOut_setBit (f : Fld) (i : Nat) : (s.setBit h f i).safeOut = s.safeOut := State.safeOut_setFld _ _ _ _
@[simp] theorem State.uartRx_setBit (f : Fld) (i : Nat) : (s.setBit h f i).uartRx = s.uartRx := State.uartRx_setFld _ _ _ _
@[simp] theorem State.uartTx_setBit (f : Fld) (i : Nat) : (s.setBit h f i).uartTx = s.uartTx := State.uartTx_setFld _ _ _ _
@[simp] theorem State.spi_setBit (f : Fld) (i : Nat) : (s.setBit h f i).spi = s.spi := State.spi_setFld _ _ _ _
@[simp] theorem State.out_setBit (f : Fld) (i : Nat) : (s.setBit h f i).out = s.out := State.out_setFld _ _ _ _
@[simp] theorem State.freeCount_setBit (f : Fld) (i : Nat) : (s.setBit h f i).freeCount = s.freeCount := State.freeCount_setFld _ _ _ _
@[simp] theorem State.pending_setBit (f : Fld) (i : Nat) : (s.setBit h f i).pending = s.pending := State.pending_setFld _ _ _ _

@[simp] theorem State.timebase_clearBit (f : Fld) (i : Nat) : (s.clearBit h f i).timebase = s.timebase := by
  unfold State.clearBit; split <;> simp
@[simp] theorem State.elapsed_clearBit (f : Fld) (i : Nat) : (s.clearBit h f i).elapsed = s.elapsed := by
  unfold State.clearBit; split <;> simp
@[simp] theorem State.trimAcc_clearBit (f : Fld) (i : Nat) : (s.clearBit h f i).trimAcc = s.trimAcc := by
  unfold State.clearBit; split <;> simp
@[simp] theorem State.ppsOut_clearBit (f : Fld) (i : Nat) : (s.clearBit h f i).ppsOut = s.ppsOut := by
  unfold State.clearBit; split <;> simp
@[simp] theorem State.ppsFall_clearBit (f : Fld) (i : Nat) : (s.clearBit h f i).ppsFall = s.ppsFall := by
  unfold State.clearBit; split <;> simp
@[simp] theorem State.ppsEdge_clearBit (f : Fld) (i : Nat) : (s.clearBit h f i).ppsEdge = s.ppsEdge := by
  unfold State.clearBit; split <;> simp
@[simp] theorem State.idleAt_clearBit (f : Fld) (i : Nat) : (s.clearBit h f i).idleAt = s.idleAt := by
  unfold State.clearBit; split <;> simp
@[simp] theorem State.latch_clearBit (f : Fld) (i : Nat) : (s.clearBit h f i).latch = s.latch := by
  unfold State.clearBit; split <;> simp
@[simp] theorem State.leaseEnd_clearBit (f : Fld) (i : Nat) : (s.clearBit h f i).leaseEnd = s.leaseEnd := by
  unfold State.clearBit; split <;> simp
@[simp] theorem State.frozen_clearBit (f : Fld) (i : Nat) : (s.clearBit h f i).frozen = s.frozen := by
  unfold State.clearBit; split <;> simp
@[simp] theorem State.seamUp_clearBit (f : Fld) (i : Nat) : (s.clearBit h f i).seamUp = s.seamUp := by
  unfold State.clearBit; split <;> simp
@[simp] theorem State.timeFailed_clearBit (f : Fld) (i : Nat) : (s.clearBit h f i).timeFailed = s.timeFailed := by
  unfold State.clearBit; split <;> simp
@[simp] theorem State.otp_clearBit (f : Fld) (i : Nat) : (s.clearBit h f i).otp = s.otp := by
  unfold State.clearBit; split <;> simp
@[simp] theorem State.xfer_clearBit (f : Fld) (i : Nat) : (s.clearBit h f i).xfer = s.xfer := by
  unfold State.clearBit; split <;> simp
@[simp] theorem State.bootStage_clearBit (f : Fld) (i : Nat) : (s.clearBit h f i).bootStage = s.bootStage := by
  unfold State.clearBit; split <;> simp
@[simp] theorem State.booted_clearBit (f : Fld) (i : Nat) : (s.clearBit h f i).booted = s.booted := by
  unfold State.clearBit; split <;> simp
@[simp] theorem State.activating_clearBit (f : Fld) (i : Nat) : (s.clearBit h f i).activating = s.activating := by
  unfold State.clearBit; split <;> simp
@[simp] theorem State.dbgGrant_clearBit (f : Fld) (i : Nat) : (s.clearBit h f i).dbgGrant = s.dbgGrant := by
  unfold State.clearBit; split <;> simp
@[simp] theorem State.host_clearBit (f : Fld) (i : Nat) : (s.clearBit h f i).host = s.host := by
  unfold State.clearBit; split <;> simp
@[simp] theorem State.porst_clearBit (f : Fld) (i : Nat) : (s.clearBit h f i).porst = s.porst := by
  unfold State.clearBit; split <;> simp
@[simp] theorem State.wrst_clearBit (f : Fld) (i : Nat) : (s.clearBit h f i).wrst = s.wrst := by
  unfold State.clearBit; split <;> simp
@[simp] theorem State.waking_clearBit (f : Fld) (i : Nat) : (s.clearBit h f i).waking = s.waking := by
  unfold State.clearBit; split <;> simp
@[simp] theorem State.faultN_clearBit (f : Fld) (i : Nat) : (s.clearBit h f i).faultN = s.faultN := by
  unfold State.clearBit; split <;> simp
@[simp] theorem State.safeOut_clearBit (f : Fld) (i : Nat) : (s.clearBit h f i).safeOut = s.safeOut := by
  unfold State.clearBit; split <;> simp
@[simp] theorem State.uartRx_clearBit (f : Fld) (i : Nat) : (s.clearBit h f i).uartRx = s.uartRx := by
  unfold State.clearBit; split <;> simp
@[simp] theorem State.uartTx_clearBit (f : Fld) (i : Nat) : (s.clearBit h f i).uartTx = s.uartTx := by
  unfold State.clearBit; split <;> simp
@[simp] theorem State.spi_clearBit (f : Fld) (i : Nat) : (s.clearBit h f i).spi = s.spi := by
  unfold State.clearBit; split <;> simp
@[simp] theorem State.out_clearBit (f : Fld) (i : Nat) : (s.clearBit h f i).out = s.out := by
  unfold State.clearBit; split <;> simp
@[simp] theorem State.freeCount_clearBit (f : Fld) (i : Nat) : (s.clearBit h f i).freeCount = s.freeCount := by
  unfold State.clearBit; split <;> simp
@[simp] theorem State.pending_clearBit (f : Fld) (i : Nat) : (s.clearBit h f i).pending = s.pending := by
  unfold State.clearBit; split <;> simp

@[simp] theorem State.timebase_errWr (blk : Nat) : (s.errWr h blk).timebase = s.timebase := State.timebase_setFld _ _ _ _
@[simp] theorem State.elapsed_errWr (blk : Nat) : (s.errWr h blk).elapsed = s.elapsed := State.elapsed_setFld _ _ _ _
@[simp] theorem State.trimAcc_errWr (blk : Nat) : (s.errWr h blk).trimAcc = s.trimAcc := State.trimAcc_setFld _ _ _ _
@[simp] theorem State.ppsOut_errWr (blk : Nat) : (s.errWr h blk).ppsOut = s.ppsOut := State.ppsOut_setFld _ _ _ _
@[simp] theorem State.ppsFall_errWr (blk : Nat) : (s.errWr h blk).ppsFall = s.ppsFall := State.ppsFall_setFld _ _ _ _
@[simp] theorem State.ppsEdge_errWr (blk : Nat) : (s.errWr h blk).ppsEdge = s.ppsEdge := State.ppsEdge_setFld _ _ _ _
@[simp] theorem State.idleAt_errWr (blk : Nat) : (s.errWr h blk).idleAt = s.idleAt := State.idleAt_setFld _ _ _ _
@[simp] theorem State.latch_errWr (blk : Nat) : (s.errWr h blk).latch = s.latch := State.latch_setFld _ _ _ _
@[simp] theorem State.leaseEnd_errWr (blk : Nat) : (s.errWr h blk).leaseEnd = s.leaseEnd := State.leaseEnd_setFld _ _ _ _
@[simp] theorem State.frozen_errWr (blk : Nat) : (s.errWr h blk).frozen = s.frozen := State.frozen_setFld _ _ _ _
@[simp] theorem State.seamUp_errWr (blk : Nat) : (s.errWr h blk).seamUp = s.seamUp := State.seamUp_setFld _ _ _ _
@[simp] theorem State.timeFailed_errWr (blk : Nat) : (s.errWr h blk).timeFailed = s.timeFailed := State.timeFailed_setFld _ _ _ _
@[simp] theorem State.otp_errWr (blk : Nat) : (s.errWr h blk).otp = s.otp := State.otp_setFld _ _ _ _
@[simp] theorem State.xfer_errWr (blk : Nat) : (s.errWr h blk).xfer = s.xfer := State.xfer_setFld _ _ _ _
@[simp] theorem State.bootStage_errWr (blk : Nat) : (s.errWr h blk).bootStage = s.bootStage := State.bootStage_setFld _ _ _ _
@[simp] theorem State.booted_errWr (blk : Nat) : (s.errWr h blk).booted = s.booted := State.booted_setFld _ _ _ _
@[simp] theorem State.activating_errWr (blk : Nat) : (s.errWr h blk).activating = s.activating := State.activating_setFld _ _ _ _
@[simp] theorem State.dbgGrant_errWr (blk : Nat) : (s.errWr h blk).dbgGrant = s.dbgGrant := State.dbgGrant_setFld _ _ _ _
@[simp] theorem State.host_errWr (blk : Nat) : (s.errWr h blk).host = s.host := State.host_setFld _ _ _ _
@[simp] theorem State.porst_errWr (blk : Nat) : (s.errWr h blk).porst = s.porst := State.porst_setFld _ _ _ _
@[simp] theorem State.wrst_errWr (blk : Nat) : (s.errWr h blk).wrst = s.wrst := State.wrst_setFld _ _ _ _
@[simp] theorem State.waking_errWr (blk : Nat) : (s.errWr h blk).waking = s.waking := State.waking_setFld _ _ _ _
@[simp] theorem State.faultN_errWr (blk : Nat) : (s.errWr h blk).faultN = s.faultN := State.faultN_setFld _ _ _ _
@[simp] theorem State.safeOut_errWr (blk : Nat) : (s.errWr h blk).safeOut = s.safeOut := State.safeOut_setFld _ _ _ _
@[simp] theorem State.uartRx_errWr (blk : Nat) : (s.errWr h blk).uartRx = s.uartRx := State.uartRx_setFld _ _ _ _
@[simp] theorem State.uartTx_errWr (blk : Nat) : (s.errWr h blk).uartTx = s.uartTx := State.uartTx_setFld _ _ _ _
@[simp] theorem State.spi_errWr (blk : Nat) : (s.errWr h blk).spi = s.spi := State.spi_setFld _ _ _ _
@[simp] theorem State.out_errWr (blk : Nat) : (s.errWr h blk).out = s.out := State.out_setFld _ _ _ _
@[simp] theorem State.freeCount_errWr (blk : Nat) : (s.errWr h blk).freeCount = s.freeCount := State.freeCount_setFld _ _ _ _
@[simp] theorem State.pending_errWr (blk : Nat) : (s.errWr h blk).pending = s.pending := State.pending_setFld _ _ _ _

@[simp] theorem State.timebase_setCoreN (n : Nat) (c : Core) : (s.setCoreN h n c).timebase = s.timebase := State.timebase_upd _ _ _
@[simp] theorem State.elapsed_setCoreN (n : Nat) (c : Core) : (s.setCoreN h n c).elapsed = s.elapsed := State.elapsed_upd _ _ _
@[simp] theorem State.trimAcc_setCoreN (n : Nat) (c : Core) : (s.setCoreN h n c).trimAcc = s.trimAcc := State.trimAcc_upd _ _ _
@[simp] theorem State.ppsOut_setCoreN (n : Nat) (c : Core) : (s.setCoreN h n c).ppsOut = s.ppsOut := State.ppsOut_upd _ _ _
@[simp] theorem State.ppsFall_setCoreN (n : Nat) (c : Core) : (s.setCoreN h n c).ppsFall = s.ppsFall := State.ppsFall_upd _ _ _
@[simp] theorem State.ppsEdge_setCoreN (n : Nat) (c : Core) : (s.setCoreN h n c).ppsEdge = s.ppsEdge := State.ppsEdge_upd _ _ _
@[simp] theorem State.idleAt_setCoreN (n : Nat) (c : Core) : (s.setCoreN h n c).idleAt = s.idleAt := State.idleAt_upd _ _ _
@[simp] theorem State.latch_setCoreN (n : Nat) (c : Core) : (s.setCoreN h n c).latch = s.latch := State.latch_upd _ _ _
@[simp] theorem State.leaseEnd_setCoreN (n : Nat) (c : Core) : (s.setCoreN h n c).leaseEnd = s.leaseEnd := State.leaseEnd_upd _ _ _
@[simp] theorem State.frozen_setCoreN (n : Nat) (c : Core) : (s.setCoreN h n c).frozen = s.frozen := State.frozen_upd _ _ _
@[simp] theorem State.seamUp_setCoreN (n : Nat) (c : Core) : (s.setCoreN h n c).seamUp = s.seamUp := State.seamUp_upd _ _ _
@[simp] theorem State.timeFailed_setCoreN (n : Nat) (c : Core) : (s.setCoreN h n c).timeFailed = s.timeFailed := State.timeFailed_upd _ _ _
@[simp] theorem State.otp_setCoreN (n : Nat) (c : Core) : (s.setCoreN h n c).otp = s.otp := State.otp_upd _ _ _
@[simp] theorem State.xfer_setCoreN (n : Nat) (c : Core) : (s.setCoreN h n c).xfer = s.xfer := State.xfer_upd _ _ _
@[simp] theorem State.bootStage_setCoreN (n : Nat) (c : Core) : (s.setCoreN h n c).bootStage = s.bootStage := State.bootStage_upd _ _ _
@[simp] theorem State.booted_setCoreN (n : Nat) (c : Core) : (s.setCoreN h n c).booted = s.booted := State.booted_upd _ _ _
@[simp] theorem State.activating_setCoreN (n : Nat) (c : Core) : (s.setCoreN h n c).activating = s.activating := State.activating_upd _ _ _
@[simp] theorem State.dbgGrant_setCoreN (n : Nat) (c : Core) : (s.setCoreN h n c).dbgGrant = s.dbgGrant := State.dbgGrant_upd _ _ _
@[simp] theorem State.host_setCoreN (n : Nat) (c : Core) : (s.setCoreN h n c).host = s.host := State.host_upd _ _ _
@[simp] theorem State.porst_setCoreN (n : Nat) (c : Core) : (s.setCoreN h n c).porst = s.porst := State.porst_upd _ _ _
@[simp] theorem State.wrst_setCoreN (n : Nat) (c : Core) : (s.setCoreN h n c).wrst = s.wrst := State.wrst_upd _ _ _
@[simp] theorem State.waking_setCoreN (n : Nat) (c : Core) : (s.setCoreN h n c).waking = s.waking := State.waking_upd _ _ _
@[simp] theorem State.faultN_setCoreN (n : Nat) (c : Core) : (s.setCoreN h n c).faultN = s.faultN := State.faultN_upd _ _ _
@[simp] theorem State.safeOut_setCoreN (n : Nat) (c : Core) : (s.setCoreN h n c).safeOut = s.safeOut := State.safeOut_upd _ _ _
@[simp] theorem State.uartRx_setCoreN (n : Nat) (c : Core) : (s.setCoreN h n c).uartRx = s.uartRx := State.uartRx_upd _ _ _
@[simp] theorem State.uartTx_setCoreN (n : Nat) (c : Core) : (s.setCoreN h n c).uartTx = s.uartTx := State.uartTx_upd _ _ _
@[simp] theorem State.spi_setCoreN (n : Nat) (c : Core) : (s.setCoreN h n c).spi = s.spi := State.spi_upd _ _ _
@[simp] theorem State.out_setCoreN (n : Nat) (c : Core) : (s.setCoreN h n c).out = s.out := State.out_upd _ _ _
@[simp] theorem State.freeCount_setCoreN (n : Nat) (c : Core) : (s.setCoreN h n c).freeCount = s.freeCount := State.freeCount_upd _ _ _
@[simp] theorem State.pending_setCoreN (n : Nat) (c : Core) : (s.setCoreN h n c).pending = s.pending := State.pending_upd _ _ _

@[simp] theorem State.timebase_setCore (k : CoreId) (c : Core) : (s.setCore k c).timebase = s.timebase := State.timebase_setCoreN _ _ _ _
@[simp] theorem State.elapsed_setCore (k : CoreId) (c : Core) : (s.setCore k c).elapsed = s.elapsed := State.elapsed_setCoreN _ _ _ _
@[simp] theorem State.trimAcc_setCore (k : CoreId) (c : Core) : (s.setCore k c).trimAcc = s.trimAcc := State.trimAcc_setCoreN _ _ _ _
@[simp] theorem State.ppsOut_setCore (k : CoreId) (c : Core) : (s.setCore k c).ppsOut = s.ppsOut := State.ppsOut_setCoreN _ _ _ _
@[simp] theorem State.ppsFall_setCore (k : CoreId) (c : Core) : (s.setCore k c).ppsFall = s.ppsFall := State.ppsFall_setCoreN _ _ _ _
@[simp] theorem State.ppsEdge_setCore (k : CoreId) (c : Core) : (s.setCore k c).ppsEdge = s.ppsEdge := State.ppsEdge_setCoreN _ _ _ _
@[simp] theorem State.idleAt_setCore (k : CoreId) (c : Core) : (s.setCore k c).idleAt = s.idleAt := State.idleAt_setCoreN _ _ _ _
@[simp] theorem State.latch_setCore (k : CoreId) (c : Core) : (s.setCore k c).latch = s.latch := State.latch_setCoreN _ _ _ _
@[simp] theorem State.leaseEnd_setCore (k : CoreId) (c : Core) : (s.setCore k c).leaseEnd = s.leaseEnd := State.leaseEnd_setCoreN _ _ _ _
@[simp] theorem State.frozen_setCore (k : CoreId) (c : Core) : (s.setCore k c).frozen = s.frozen := State.frozen_setCoreN _ _ _ _
@[simp] theorem State.seamUp_setCore (k : CoreId) (c : Core) : (s.setCore k c).seamUp = s.seamUp := State.seamUp_setCoreN _ _ _ _
@[simp] theorem State.timeFailed_setCore (k : CoreId) (c : Core) : (s.setCore k c).timeFailed = s.timeFailed := State.timeFailed_setCoreN _ _ _ _
@[simp] theorem State.otp_setCore (k : CoreId) (c : Core) : (s.setCore k c).otp = s.otp := State.otp_setCoreN _ _ _ _
@[simp] theorem State.xfer_setCore (k : CoreId) (c : Core) : (s.setCore k c).xfer = s.xfer := State.xfer_setCoreN _ _ _ _
@[simp] theorem State.bootStage_setCore (k : CoreId) (c : Core) : (s.setCore k c).bootStage = s.bootStage := State.bootStage_setCoreN _ _ _ _
@[simp] theorem State.booted_setCore (k : CoreId) (c : Core) : (s.setCore k c).booted = s.booted := State.booted_setCoreN _ _ _ _
@[simp] theorem State.activating_setCore (k : CoreId) (c : Core) : (s.setCore k c).activating = s.activating := State.activating_setCoreN _ _ _ _
@[simp] theorem State.dbgGrant_setCore (k : CoreId) (c : Core) : (s.setCore k c).dbgGrant = s.dbgGrant := State.dbgGrant_setCoreN _ _ _ _
@[simp] theorem State.host_setCore (k : CoreId) (c : Core) : (s.setCore k c).host = s.host := State.host_setCoreN _ _ _ _
@[simp] theorem State.porst_setCore (k : CoreId) (c : Core) : (s.setCore k c).porst = s.porst := State.porst_setCoreN _ _ _ _
@[simp] theorem State.wrst_setCore (k : CoreId) (c : Core) : (s.setCore k c).wrst = s.wrst := State.wrst_setCoreN _ _ _ _
@[simp] theorem State.waking_setCore (k : CoreId) (c : Core) : (s.setCore k c).waking = s.waking := State.waking_setCoreN _ _ _ _
@[simp] theorem State.faultN_setCore (k : CoreId) (c : Core) : (s.setCore k c).faultN = s.faultN := State.faultN_setCoreN _ _ _ _
@[simp] theorem State.safeOut_setCore (k : CoreId) (c : Core) : (s.setCore k c).safeOut = s.safeOut := State.safeOut_setCoreN _ _ _ _
@[simp] theorem State.uartRx_setCore (k : CoreId) (c : Core) : (s.setCore k c).uartRx = s.uartRx := State.uartRx_setCoreN _ _ _ _
@[simp] theorem State.uartTx_setCore (k : CoreId) (c : Core) : (s.setCore k c).uartTx = s.uartTx := State.uartTx_setCoreN _ _ _ _
@[simp] theorem State.spi_setCore (k : CoreId) (c : Core) : (s.setCore k c).spi = s.spi := State.spi_setCoreN _ _ _ _
@[simp] theorem State.out_setCore (k : CoreId) (c : Core) : (s.setCore k c).out = s.out := State.out_setCoreN _ _ _ _
@[simp] theorem State.freeCount_setCore (k : CoreId) (c : Core) : (s.setCore k c).freeCount = s.freeCount := State.freeCount_setCoreN _ _ _ _
@[simp] theorem State.pending_setCore (k : CoreId) (c : Core) : (s.setCore k c).pending = s.pending := State.pending_setCoreN _ _ _ _

@[simp] theorem State.east_emit (o : Output) : (s.emit o).east = s.east := rfl
@[simp] theorem State.west_emit (o : Output) : (s.emit o).west = s.west := rfl
@[simp] theorem State.timebase_emit (o : Output) : (s.emit o).timebase = s.timebase := rfl
@[simp] theorem State.elapsed_emit (o : Output) : (s.emit o).elapsed = s.elapsed := rfl
@[simp] theorem State.trimAcc_emit (o : Output) : (s.emit o).trimAcc = s.trimAcc := rfl
@[simp] theorem State.ppsOut_emit (o : Output) : (s.emit o).ppsOut = s.ppsOut := rfl
@[simp] theorem State.ppsFall_emit (o : Output) : (s.emit o).ppsFall = s.ppsFall := rfl
@[simp] theorem State.ppsEdge_emit (o : Output) : (s.emit o).ppsEdge = s.ppsEdge := rfl
@[simp] theorem State.idleAt_emit (o : Output) : (s.emit o).idleAt = s.idleAt := rfl
@[simp] theorem State.latch_emit (o : Output) : (s.emit o).latch = s.latch := rfl
@[simp] theorem State.leaseEnd_emit (o : Output) : (s.emit o).leaseEnd = s.leaseEnd := rfl
@[simp] theorem State.frozen_emit (o : Output) : (s.emit o).frozen = s.frozen := rfl
@[simp] theorem State.seamUp_emit (o : Output) : (s.emit o).seamUp = s.seamUp := rfl
@[simp] theorem State.timeFailed_emit (o : Output) : (s.emit o).timeFailed = s.timeFailed := rfl
@[simp] theorem State.otp_emit (o : Output) : (s.emit o).otp = s.otp := rfl
@[simp] theorem State.xfer_emit (o : Output) : (s.emit o).xfer = s.xfer := rfl
@[simp] theorem State.bootStage_emit (o : Output) : (s.emit o).bootStage = s.bootStage := rfl
@[simp] theorem State.booted_emit (o : Output) : (s.emit o).booted = s.booted := rfl
@[simp] theorem State.activating_emit (o : Output) : (s.emit o).activating = s.activating := rfl
@[simp] theorem State.dbgGrant_emit (o : Output) : (s.emit o).dbgGrant = s.dbgGrant := rfl
@[simp] theorem State.host_emit (o : Output) : (s.emit o).host = s.host := rfl
@[simp] theorem State.porst_emit (o : Output) : (s.emit o).porst = s.porst := rfl
@[simp] theorem State.wrst_emit (o : Output) : (s.emit o).wrst = s.wrst := rfl
@[simp] theorem State.waking_emit (o : Output) : (s.emit o).waking = s.waking := rfl
@[simp] theorem State.faultN_emit (o : Output) : (s.emit o).faultN = s.faultN := rfl
@[simp] theorem State.safeOut_emit (o : Output) : (s.emit o).safeOut = s.safeOut := rfl
@[simp] theorem State.uartRx_emit (o : Output) : (s.emit o).uartRx = s.uartRx := rfl
@[simp] theorem State.uartTx_emit (o : Output) : (s.emit o).uartTx = s.uartTx := rfl
@[simp] theorem State.spi_emit (o : Output) : (s.emit o).spi = s.spi := rfl
@[simp] theorem State.freeCount_emit (o : Output) : (s.emit o).freeCount = s.freeCount := rfl
@[simp] theorem State.pending_emit (o : Output) : (s.emit o).pending = s.pending := rfl
@[simp] theorem State.out_emit (o : Output) : (s.emit o).out = s.out ++ [o] := rfl
@[simp] theorem State.half_emit (o : Output) : (s.emit o).half h = s.half h := rfl

@[simp] theorem State.east_takeFree : s.takeFree.2.east = s.east := rfl
@[simp] theorem State.west_takeFree : s.takeFree.2.west = s.west := rfl
@[simp] theorem State.timebase_takeFree : s.takeFree.2.timebase = s.timebase := rfl
@[simp] theorem State.elapsed_takeFree : s.takeFree.2.elapsed = s.elapsed := rfl
@[simp] theorem State.trimAcc_takeFree : s.takeFree.2.trimAcc = s.trimAcc := rfl
@[simp] theorem State.ppsOut_takeFree : s.takeFree.2.ppsOut = s.ppsOut := rfl
@[simp] theorem State.ppsFall_takeFree : s.takeFree.2.ppsFall = s.ppsFall := rfl
@[simp] theorem State.ppsEdge_takeFree : s.takeFree.2.ppsEdge = s.ppsEdge := rfl
@[simp] theorem State.idleAt_takeFree : s.takeFree.2.idleAt = s.idleAt := rfl
@[simp] theorem State.latch_takeFree : s.takeFree.2.latch = s.latch := rfl
@[simp] theorem State.leaseEnd_takeFree : s.takeFree.2.leaseEnd = s.leaseEnd := rfl
@[simp] theorem State.frozen_takeFree : s.takeFree.2.frozen = s.frozen := rfl
@[simp] theorem State.seamUp_takeFree : s.takeFree.2.seamUp = s.seamUp := rfl
@[simp] theorem State.timeFailed_takeFree : s.takeFree.2.timeFailed = s.timeFailed := rfl
@[simp] theorem State.otp_takeFree : s.takeFree.2.otp = s.otp := rfl
@[simp] theorem State.xfer_takeFree : s.takeFree.2.xfer = s.xfer := rfl
@[simp] theorem State.bootStage_takeFree : s.takeFree.2.bootStage = s.bootStage := rfl
@[simp] theorem State.booted_takeFree : s.takeFree.2.booted = s.booted := rfl
@[simp] theorem State.activating_takeFree : s.takeFree.2.activating = s.activating := rfl
@[simp] theorem State.dbgGrant_takeFree : s.takeFree.2.dbgGrant = s.dbgGrant := rfl
@[simp] theorem State.host_takeFree : s.takeFree.2.host = s.host := rfl
@[simp] theorem State.porst_takeFree : s.takeFree.2.porst = s.porst := rfl
@[simp] theorem State.wrst_takeFree : s.takeFree.2.wrst = s.wrst := rfl
@[simp] theorem State.waking_takeFree : s.takeFree.2.waking = s.waking := rfl
@[simp] theorem State.faultN_takeFree : s.takeFree.2.faultN = s.faultN := rfl
@[simp] theorem State.safeOut_takeFree : s.takeFree.2.safeOut = s.safeOut := rfl
@[simp] theorem State.uartRx_takeFree : s.takeFree.2.uartRx = s.uartRx := rfl
@[simp] theorem State.uartTx_takeFree : s.takeFree.2.uartTx = s.uartTx := rfl
@[simp] theorem State.spi_takeFree : s.takeFree.2.spi = s.spi := rfl
@[simp] theorem State.out_takeFree : s.takeFree.2.out = s.out := rfl
@[simp] theorem State.pending_takeFree : s.takeFree.2.pending = s.pending := rfl
@[simp] theorem State.freeCount_takeFree : s.takeFree.2.freeCount = s.freeCount + 1 := rfl
@[simp] theorem State.half_takeFree : s.takeFree.2.half h = s.half h := rfl

-- the halves under writes of registers, and under writes of a core

@[simp] theorem State.mode_half_setReg (blk off : Nat) (w : Word) : ((s.setReg h blk off w).half h').mode = (s.half h').mode := 
  State.half_upd_proj s _ h' (fun x => x.mode) _ fun _ => rfl
@[simp] theorem State.mem_half_setReg (blk off : Nat) (w : Word) : ((s.setReg h blk off w).half h').mem = (s.half h').mem := 
  State.half_upd_proj s _ h' (fun x => x.mem) _ fun _ => rfl
@[simp] theorem State.cores_half_setReg (blk off : Nat) (w : Word) : ((s.setReg h blk off w).half h').cores = (s.half h').cores := 
  State.half_upd_proj s _ h' (fun x => x.cores) _ fun _ => rfl
@[simp] theorem State.fmn_half_setReg (blk off : Nat) (w : Word) : ((s.setReg h blk off w).half h').fmn = (s.half h').fmn := 
  State.half_upd_proj s _ h' (fun x => x.fmn) _ fun _ => rfl
@[simp] theorem State.bnd_half_setReg (blk off : Nat) (w : Word) : ((s.setReg h blk off w).half h').bnd = (s.half h').bnd := 
  State.half_upd_proj s _ h' (fun x => x.bnd) _ fun _ => rfl
@[simp] theorem State.eth_half_setReg (blk off : Nat) (w : Word) : ((s.setReg h blk off w).half h').eth = (s.half h').eth := 
  State.half_upd_proj s _ h' (fun x => x.eth) _ fun _ => rfl
@[simp] theorem State.flm_half_setReg (blk off : Nat) (w : Word) : ((s.setReg h blk off w).half h').flm = (s.half h').flm := 
  State.half_upd_proj s _ h' (fun x => x.flm) _ fun _ => rfl
@[simp] theorem State.txts_half_setReg (blk off : Nat) (w : Word) : ((s.setReg h blk off w).half h').txts = (s.half h').txts := 
  State.half_upd_proj s _ h' (fun x => x.txts) _ fun _ => rfl
@[simp] theorem State.kln_half_setReg (blk off : Nat) (w : Word) : ((s.setReg h blk off w).half h').kln = (s.half h').kln := 
  State.half_upd_proj s _ h' (fun x => x.kln) _ fun _ => rfl
@[simp] theorem State.mil_half_setReg (blk off : Nat) (w : Word) : ((s.setReg h blk off w).half h').mil = (s.half h').mil := 
  State.half_upd_proj s _ h' (fun x => x.mil) _ fun _ => rfl
@[simp] theorem State.scl_half_setReg (blk off : Nat) (w : Word) : ((s.setReg h blk off w).half h').scl = (s.half h').scl := 
  State.half_upd_proj s _ h' (fun x => x.scl) _ fun _ => rfl
@[simp] theorem State.hif_half_setReg (blk off : Nat) (w : Word) : ((s.setReg h blk off w).half h').hif = (s.half h').hif := 
  State.half_upd_proj s _ h' (fun x => x.hif) _ fun _ => rfl
@[simp] theorem State.bom_half_setReg (blk off : Nat) (w : Word) : ((s.setReg h blk off w).half h').bom = (s.half h').bom := 
  State.half_upd_proj s _ h' (fun x => x.bom) _ fun _ => rfl
@[simp] theorem State.flt_half_setReg (blk off : Nat) (w : Word) : ((s.setReg h blk off w).half h').flt = (s.half h').flt := 
  State.half_upd_proj s _ h' (fun x => x.flt) _ fun _ => rfl
@[simp] theorem State.ddrGib_half_setReg (blk off : Nat) (w : Word) : ((s.setReg h blk off w).half h').ddrGib = (s.half h').ddrGib := 
  State.half_upd_proj s _ h' (fun x => x.ddrGib) _ fun _ => rfl
@[simp] theorem State.vset_half_setReg (blk off : Nat) (w : Word) : ((s.setReg h blk off w).half h').vset = (s.half h').vset := 
  State.half_upd_proj s _ h' (fun x => x.vset) _ fun _ => rfl
@[simp] theorem State.vrun_half_setReg (blk off : Nat) (w : Word) : ((s.setReg h blk off w).half h').vrun = (s.half h').vrun := 
  State.half_upd_proj s _ h' (fun x => x.vrun) _ fun _ => rfl
@[simp] theorem State.vsetAt_half_setReg (blk off : Nat) (w : Word) : ((s.setReg h blk off w).half h').vsetAt = (s.half h').vsetAt := 
  State.half_upd_proj s _ h' (fun x => x.vsetAt) _ fun _ => rfl
@[simp] theorem State.pmbFails_half_setReg (blk off : Nat) (w : Word) : ((s.setReg h blk off w).half h').pmbFails = (s.half h').pmbFails := 
  State.half_upd_proj s _ h' (fun x => x.pmbFails) _ fun _ => rfl
@[simp] theorem State.safeDue_half_setReg (blk off : Nat) (w : Word) : ((s.setReg h blk off w).half h').safeDue = (s.half h').safeDue := 
  State.half_upd_proj s _ h' (fun x => x.safeDue) _ fun _ => rfl
@[simp] theorem State.code_half_setReg (blk off : Nat) (w : Word) : ((s.setReg h blk off w).half h').code = (s.half h').code := 
  State.half_upd_proj s _ h' (fun x => x.code) _ fun _ => rfl
@[simp] theorem State.paceCode_half_setReg (blk off : Nat) (w : Word) : ((s.setReg h blk off w).half h').paceCode = (s.half h').paceCode := 
  State.half_upd_proj s _ h' (fun x => x.paceCode) _ fun _ => rfl
@[simp] theorem State.paceBase_half_setReg (blk off : Nat) (w : Word) : ((s.setReg h blk off w).half h').paceBase = (s.half h').paceBase := 
  State.half_upd_proj s _ h' (fun x => x.paceBase) _ fun _ => rfl
@[simp] theorem State.paceLen_half_setReg (blk off : Nat) (w : Word) : ((s.setReg h blk off w).half h').paceLen = (s.half h').paceLen := 
  State.half_upd_proj s _ h' (fun x => x.paceLen) _ fun _ => rfl
@[simp] theorem State.sram_half_setReg (blk off : Nat) (w : Word) : ((s.setReg h blk off w).half h').sram = (s.half h').sram := 
  State.half_upd_proj s _ h' (fun x => x.sram) _ fun _ => rfl
@[simp] theorem State.codeErrs_half_setReg (blk off : Nat) (w : Word) : ((s.setReg h blk off w).half h').codeErrs = (s.half h').codeErrs := 
  State.half_upd_proj s _ h' (fun x => x.codeErrs) _ fun _ => rfl
@[simp] theorem State.codeCe_half_setReg (blk off : Nat) (w : Word) : ((s.setReg h blk off w).half h').codeCe = (s.half h').codeCe := 
  State.half_upd_proj s _ h' (fun x => x.codeCe) _ fun _ => rfl
@[simp] theorem State.codeWorn_half_setReg (blk off : Nat) (w : Word) : ((s.setReg h blk off w).half h').codeWorn = (s.half h').codeWorn := 
  State.half_upd_proj s _ h' (fun x => x.codeWorn) _ fun _ => rfl
@[simp] theorem State.wardenHeld_half_setReg (blk off : Nat) (w : Word) : ((s.setReg h blk off w).half h').wardenHeld = (s.half h').wardenHeld := 
  State.half_upd_proj s _ h' (fun x => x.wardenHeld) _ fun _ => rfl
@[simp] theorem State.wardenActive_half_setReg (blk off : Nat) (w : Word) : ((s.setReg h blk off w).half h').wardenActive = (s.half h').wardenActive := 
  State.half_upd_proj s _ h' (fun x => x.wardenActive) _ fun _ => rfl
@[simp] theorem State.perst_half_setReg (blk off : Nat) (w : Word) : ((s.setReg h blk off w).half h').perst = (s.half h').perst := 
  State.half_upd_proj s _ h' (fun x => x.perst) _ fun _ => rfl
@[simp] theorem State.tap_half_setReg (blk off : Nat) (w : Word) : ((s.setReg h blk off w).half h').tap = (s.half h').tap := 
  State.half_upd_proj s _ h' (fun x => x.tap) _ fun _ => rfl
@[simp] theorem State.challenge_half_setReg (blk off : Nat) (w : Word) : ((s.setReg h blk off w).half h').challenge = (s.half h').challenge := 
  State.half_upd_proj s _ h' (fun x => x.challenge) _ fun _ => rfl
@[simp] theorem State.authStatus_half_setReg (blk off : Nat) (w : Word) : ((s.setReg h blk off w).half h').authStatus = (s.half h').authStatus := 
  State.half_upd_proj s _ h' (fun x => x.authStatus) _ fun _ => rfl
@[simp] theorem State.dbgData_half_setReg (blk off : Nat) (w : Word) : ((s.setReg h blk off w).half h').dbgData = (s.half h').dbgData := 
  State.half_upd_proj s _ h' (fun x => x.dbgData) _ fun _ => rfl
@[simp] theorem State.dbgStatus_half_setReg (blk off : Nat) (w : Word) : ((s.setReg h blk off w).half h').dbgStatus = (s.half h').dbgStatus := 
  State.half_upd_proj s _ h' (fun x => x.dbgStatus) _ fun _ => rfl

@[simp] theorem State.mode_half_setFld (f : Fld) (v : Nat) : ((s.setFld h f v).half h').mode = (s.half h').mode := 
  State.mode_half_setReg _ _ h' _ _ _
@[simp] theorem State.mem_half_setFld (f : Fld) (v : Nat) : ((s.setFld h f v).half h').mem = (s.half h').mem := 
  State.mem_half_setReg _ _ h' _ _ _
@[simp] theorem State.cores_half_setFld (f : Fld) (v : Nat) : ((s.setFld h f v).half h').cores = (s.half h').cores := 
  State.cores_half_setReg _ _ h' _ _ _
@[simp] theorem State.fmn_half_setFld (f : Fld) (v : Nat) : ((s.setFld h f v).half h').fmn = (s.half h').fmn := 
  State.fmn_half_setReg _ _ h' _ _ _
@[simp] theorem State.bnd_half_setFld (f : Fld) (v : Nat) : ((s.setFld h f v).half h').bnd = (s.half h').bnd := 
  State.bnd_half_setReg _ _ h' _ _ _
@[simp] theorem State.eth_half_setFld (f : Fld) (v : Nat) : ((s.setFld h f v).half h').eth = (s.half h').eth := 
  State.eth_half_setReg _ _ h' _ _ _
@[simp] theorem State.flm_half_setFld (f : Fld) (v : Nat) : ((s.setFld h f v).half h').flm = (s.half h').flm := 
  State.flm_half_setReg _ _ h' _ _ _
@[simp] theorem State.txts_half_setFld (f : Fld) (v : Nat) : ((s.setFld h f v).half h').txts = (s.half h').txts := 
  State.txts_half_setReg _ _ h' _ _ _
@[simp] theorem State.kln_half_setFld (f : Fld) (v : Nat) : ((s.setFld h f v).half h').kln = (s.half h').kln := 
  State.kln_half_setReg _ _ h' _ _ _
@[simp] theorem State.mil_half_setFld (f : Fld) (v : Nat) : ((s.setFld h f v).half h').mil = (s.half h').mil := 
  State.mil_half_setReg _ _ h' _ _ _
@[simp] theorem State.scl_half_setFld (f : Fld) (v : Nat) : ((s.setFld h f v).half h').scl = (s.half h').scl := 
  State.scl_half_setReg _ _ h' _ _ _
@[simp] theorem State.hif_half_setFld (f : Fld) (v : Nat) : ((s.setFld h f v).half h').hif = (s.half h').hif := 
  State.hif_half_setReg _ _ h' _ _ _
@[simp] theorem State.bom_half_setFld (f : Fld) (v : Nat) : ((s.setFld h f v).half h').bom = (s.half h').bom := 
  State.bom_half_setReg _ _ h' _ _ _
@[simp] theorem State.flt_half_setFld (f : Fld) (v : Nat) : ((s.setFld h f v).half h').flt = (s.half h').flt := 
  State.flt_half_setReg _ _ h' _ _ _
@[simp] theorem State.ddrGib_half_setFld (f : Fld) (v : Nat) : ((s.setFld h f v).half h').ddrGib = (s.half h').ddrGib := 
  State.ddrGib_half_setReg _ _ h' _ _ _
@[simp] theorem State.vset_half_setFld (f : Fld) (v : Nat) : ((s.setFld h f v).half h').vset = (s.half h').vset := 
  State.vset_half_setReg _ _ h' _ _ _
@[simp] theorem State.vrun_half_setFld (f : Fld) (v : Nat) : ((s.setFld h f v).half h').vrun = (s.half h').vrun := 
  State.vrun_half_setReg _ _ h' _ _ _
@[simp] theorem State.vsetAt_half_setFld (f : Fld) (v : Nat) : ((s.setFld h f v).half h').vsetAt = (s.half h').vsetAt := 
  State.vsetAt_half_setReg _ _ h' _ _ _
@[simp] theorem State.pmbFails_half_setFld (f : Fld) (v : Nat) : ((s.setFld h f v).half h').pmbFails = (s.half h').pmbFails := 
  State.pmbFails_half_setReg _ _ h' _ _ _
@[simp] theorem State.safeDue_half_setFld (f : Fld) (v : Nat) : ((s.setFld h f v).half h').safeDue = (s.half h').safeDue := 
  State.safeDue_half_setReg _ _ h' _ _ _
@[simp] theorem State.code_half_setFld (f : Fld) (v : Nat) : ((s.setFld h f v).half h').code = (s.half h').code := 
  State.code_half_setReg _ _ h' _ _ _
@[simp] theorem State.paceCode_half_setFld (f : Fld) (v : Nat) : ((s.setFld h f v).half h').paceCode = (s.half h').paceCode := 
  State.paceCode_half_setReg _ _ h' _ _ _
@[simp] theorem State.paceBase_half_setFld (f : Fld) (v : Nat) : ((s.setFld h f v).half h').paceBase = (s.half h').paceBase := 
  State.paceBase_half_setReg _ _ h' _ _ _
@[simp] theorem State.paceLen_half_setFld (f : Fld) (v : Nat) : ((s.setFld h f v).half h').paceLen = (s.half h').paceLen := 
  State.paceLen_half_setReg _ _ h' _ _ _
@[simp] theorem State.sram_half_setFld (f : Fld) (v : Nat) : ((s.setFld h f v).half h').sram = (s.half h').sram := 
  State.sram_half_setReg _ _ h' _ _ _
@[simp] theorem State.codeErrs_half_setFld (f : Fld) (v : Nat) : ((s.setFld h f v).half h').codeErrs = (s.half h').codeErrs := 
  State.codeErrs_half_setReg _ _ h' _ _ _
@[simp] theorem State.codeCe_half_setFld (f : Fld) (v : Nat) : ((s.setFld h f v).half h').codeCe = (s.half h').codeCe := 
  State.codeCe_half_setReg _ _ h' _ _ _
@[simp] theorem State.codeWorn_half_setFld (f : Fld) (v : Nat) : ((s.setFld h f v).half h').codeWorn = (s.half h').codeWorn := 
  State.codeWorn_half_setReg _ _ h' _ _ _
@[simp] theorem State.wardenHeld_half_setFld (f : Fld) (v : Nat) : ((s.setFld h f v).half h').wardenHeld = (s.half h').wardenHeld := 
  State.wardenHeld_half_setReg _ _ h' _ _ _
@[simp] theorem State.wardenActive_half_setFld (f : Fld) (v : Nat) : ((s.setFld h f v).half h').wardenActive = (s.half h').wardenActive := 
  State.wardenActive_half_setReg _ _ h' _ _ _
@[simp] theorem State.perst_half_setFld (f : Fld) (v : Nat) : ((s.setFld h f v).half h').perst = (s.half h').perst := 
  State.perst_half_setReg _ _ h' _ _ _
@[simp] theorem State.tap_half_setFld (f : Fld) (v : Nat) : ((s.setFld h f v).half h').tap = (s.half h').tap := 
  State.tap_half_setReg _ _ h' _ _ _
@[simp] theorem State.challenge_half_setFld (f : Fld) (v : Nat) : ((s.setFld h f v).half h').challenge = (s.half h').challenge := 
  State.challenge_half_setReg _ _ h' _ _ _
@[simp] theorem State.authStatus_half_setFld (f : Fld) (v : Nat) : ((s.setFld h f v).half h').authStatus = (s.half h').authStatus := 
  State.authStatus_half_setReg _ _ h' _ _ _
@[simp] theorem State.dbgData_half_setFld (f : Fld) (v : Nat) : ((s.setFld h f v).half h').dbgData = (s.half h').dbgData := 
  State.dbgData_half_setReg _ _ h' _ _ _
@[simp] theorem State.dbgStatus_half_setFld (f : Fld) (v : Nat) : ((s.setFld h f v).half h').dbgStatus = (s.half h').dbgStatus := 
  State.dbgStatus_half_setReg _ _ h' _ _ _

@[simp] theorem State.mode_half_addFld (f : Fld) (n : Nat) : ((s.addFld h f n).half h').mode = (s.half h').mode := 
  State.mode_half_setFld _ _ h' _ _
@[simp] theorem State.mem_half_addFld (f : Fld) (n : Nat) : ((s.addFld h f n).half h').mem = (s.half h').mem := 
  State.mem_half_setFld _ _ h' _ _
@[simp] theorem State.cores_half_addFld (f : Fld) (n : Nat) : ((s.addFld h f n).half h').cores = (s.half h').cores := 
  State.cores_half_setFld _ _ h' _ _
@[simp] theorem State.fmn_half_addFld (f : Fld) (n : Nat) : ((s.addFld h f n).half h').fmn = (s.half h').fmn := 
  State.fmn_half_setFld _ _ h' _ _
@[simp] theorem State.bnd_half_addFld (f : Fld) (n : Nat) : ((s.addFld h f n).half h').bnd = (s.half h').bnd := 
  State.bnd_half_setFld _ _ h' _ _
@[simp] theorem State.eth_half_addFld (f : Fld) (n : Nat) : ((s.addFld h f n).half h').eth = (s.half h').eth := 
  State.eth_half_setFld _ _ h' _ _
@[simp] theorem State.flm_half_addFld (f : Fld) (n : Nat) : ((s.addFld h f n).half h').flm = (s.half h').flm := 
  State.flm_half_setFld _ _ h' _ _
@[simp] theorem State.txts_half_addFld (f : Fld) (n : Nat) : ((s.addFld h f n).half h').txts = (s.half h').txts := 
  State.txts_half_setFld _ _ h' _ _
@[simp] theorem State.kln_half_addFld (f : Fld) (n : Nat) : ((s.addFld h f n).half h').kln = (s.half h').kln := 
  State.kln_half_setFld _ _ h' _ _
@[simp] theorem State.mil_half_addFld (f : Fld) (n : Nat) : ((s.addFld h f n).half h').mil = (s.half h').mil := 
  State.mil_half_setFld _ _ h' _ _
@[simp] theorem State.scl_half_addFld (f : Fld) (n : Nat) : ((s.addFld h f n).half h').scl = (s.half h').scl := 
  State.scl_half_setFld _ _ h' _ _
@[simp] theorem State.hif_half_addFld (f : Fld) (n : Nat) : ((s.addFld h f n).half h').hif = (s.half h').hif := 
  State.hif_half_setFld _ _ h' _ _
@[simp] theorem State.bom_half_addFld (f : Fld) (n : Nat) : ((s.addFld h f n).half h').bom = (s.half h').bom := 
  State.bom_half_setFld _ _ h' _ _
@[simp] theorem State.flt_half_addFld (f : Fld) (n : Nat) : ((s.addFld h f n).half h').flt = (s.half h').flt := 
  State.flt_half_setFld _ _ h' _ _
@[simp] theorem State.ddrGib_half_addFld (f : Fld) (n : Nat) : ((s.addFld h f n).half h').ddrGib = (s.half h').ddrGib := 
  State.ddrGib_half_setFld _ _ h' _ _
@[simp] theorem State.vset_half_addFld (f : Fld) (n : Nat) : ((s.addFld h f n).half h').vset = (s.half h').vset := 
  State.vset_half_setFld _ _ h' _ _
@[simp] theorem State.vrun_half_addFld (f : Fld) (n : Nat) : ((s.addFld h f n).half h').vrun = (s.half h').vrun := 
  State.vrun_half_setFld _ _ h' _ _
@[simp] theorem State.vsetAt_half_addFld (f : Fld) (n : Nat) : ((s.addFld h f n).half h').vsetAt = (s.half h').vsetAt := 
  State.vsetAt_half_setFld _ _ h' _ _
@[simp] theorem State.pmbFails_half_addFld (f : Fld) (n : Nat) : ((s.addFld h f n).half h').pmbFails = (s.half h').pmbFails := 
  State.pmbFails_half_setFld _ _ h' _ _
@[simp] theorem State.safeDue_half_addFld (f : Fld) (n : Nat) : ((s.addFld h f n).half h').safeDue = (s.half h').safeDue := 
  State.safeDue_half_setFld _ _ h' _ _
@[simp] theorem State.code_half_addFld (f : Fld) (n : Nat) : ((s.addFld h f n).half h').code = (s.half h').code := 
  State.code_half_setFld _ _ h' _ _
@[simp] theorem State.paceCode_half_addFld (f : Fld) (n : Nat) : ((s.addFld h f n).half h').paceCode = (s.half h').paceCode := 
  State.paceCode_half_setFld _ _ h' _ _
@[simp] theorem State.paceBase_half_addFld (f : Fld) (n : Nat) : ((s.addFld h f n).half h').paceBase = (s.half h').paceBase := 
  State.paceBase_half_setFld _ _ h' _ _
@[simp] theorem State.paceLen_half_addFld (f : Fld) (n : Nat) : ((s.addFld h f n).half h').paceLen = (s.half h').paceLen := 
  State.paceLen_half_setFld _ _ h' _ _
@[simp] theorem State.sram_half_addFld (f : Fld) (n : Nat) : ((s.addFld h f n).half h').sram = (s.half h').sram := 
  State.sram_half_setFld _ _ h' _ _
@[simp] theorem State.codeErrs_half_addFld (f : Fld) (n : Nat) : ((s.addFld h f n).half h').codeErrs = (s.half h').codeErrs := 
  State.codeErrs_half_setFld _ _ h' _ _
@[simp] theorem State.codeCe_half_addFld (f : Fld) (n : Nat) : ((s.addFld h f n).half h').codeCe = (s.half h').codeCe := 
  State.codeCe_half_setFld _ _ h' _ _
@[simp] theorem State.codeWorn_half_addFld (f : Fld) (n : Nat) : ((s.addFld h f n).half h').codeWorn = (s.half h').codeWorn := 
  State.codeWorn_half_setFld _ _ h' _ _
@[simp] theorem State.wardenHeld_half_addFld (f : Fld) (n : Nat) : ((s.addFld h f n).half h').wardenHeld = (s.half h').wardenHeld := 
  State.wardenHeld_half_setFld _ _ h' _ _
@[simp] theorem State.wardenActive_half_addFld (f : Fld) (n : Nat) : ((s.addFld h f n).half h').wardenActive = (s.half h').wardenActive := 
  State.wardenActive_half_setFld _ _ h' _ _
@[simp] theorem State.perst_half_addFld (f : Fld) (n : Nat) : ((s.addFld h f n).half h').perst = (s.half h').perst := 
  State.perst_half_setFld _ _ h' _ _
@[simp] theorem State.tap_half_addFld (f : Fld) (n : Nat) : ((s.addFld h f n).half h').tap = (s.half h').tap := 
  State.tap_half_setFld _ _ h' _ _
@[simp] theorem State.challenge_half_addFld (f : Fld) (n : Nat) : ((s.addFld h f n).half h').challenge = (s.half h').challenge := 
  State.challenge_half_setFld _ _ h' _ _
@[simp] theorem State.authStatus_half_addFld (f : Fld) (n : Nat) : ((s.addFld h f n).half h').authStatus = (s.half h').authStatus := 
  State.authStatus_half_setFld _ _ h' _ _
@[simp] theorem State.dbgData_half_addFld (f : Fld) (n : Nat) : ((s.addFld h f n).half h').dbgData = (s.half h').dbgData := 
  State.dbgData_half_setFld _ _ h' _ _
@[simp] theorem State.dbgStatus_half_addFld (f : Fld) (n : Nat) : ((s.addFld h f n).half h').dbgStatus = (s.half h').dbgStatus := 
  State.dbgStatus_half_setFld _ _ h' _ _

@[simp] theorem State.mode_half_incFld (f : Fld) : ((s.incFld h f).half h').mode = (s.half h').mode := 
  State.mode_half_addFld _ _ h' _ _
@[simp] theorem State.mem_half_incFld (f : Fld) : ((s.incFld h f).half h').mem = (s.half h').mem := 
  State.mem_half_addFld _ _ h' _ _
@[simp] theorem State.cores_half_incFld (f : Fld) : ((s.incFld h f).half h').cores = (s.half h').cores := 
  State.cores_half_addFld _ _ h' _ _
@[simp] theorem State.fmn_half_incFld (f : Fld) : ((s.incFld h f).half h').fmn = (s.half h').fmn := 
  State.fmn_half_addFld _ _ h' _ _
@[simp] theorem State.bnd_half_incFld (f : Fld) : ((s.incFld h f).half h').bnd = (s.half h').bnd := 
  State.bnd_half_addFld _ _ h' _ _
@[simp] theorem State.eth_half_incFld (f : Fld) : ((s.incFld h f).half h').eth = (s.half h').eth := 
  State.eth_half_addFld _ _ h' _ _
@[simp] theorem State.flm_half_incFld (f : Fld) : ((s.incFld h f).half h').flm = (s.half h').flm := 
  State.flm_half_addFld _ _ h' _ _
@[simp] theorem State.txts_half_incFld (f : Fld) : ((s.incFld h f).half h').txts = (s.half h').txts := 
  State.txts_half_addFld _ _ h' _ _
@[simp] theorem State.kln_half_incFld (f : Fld) : ((s.incFld h f).half h').kln = (s.half h').kln := 
  State.kln_half_addFld _ _ h' _ _
@[simp] theorem State.mil_half_incFld (f : Fld) : ((s.incFld h f).half h').mil = (s.half h').mil := 
  State.mil_half_addFld _ _ h' _ _
@[simp] theorem State.scl_half_incFld (f : Fld) : ((s.incFld h f).half h').scl = (s.half h').scl := 
  State.scl_half_addFld _ _ h' _ _
@[simp] theorem State.hif_half_incFld (f : Fld) : ((s.incFld h f).half h').hif = (s.half h').hif := 
  State.hif_half_addFld _ _ h' _ _
@[simp] theorem State.bom_half_incFld (f : Fld) : ((s.incFld h f).half h').bom = (s.half h').bom := 
  State.bom_half_addFld _ _ h' _ _
@[simp] theorem State.flt_half_incFld (f : Fld) : ((s.incFld h f).half h').flt = (s.half h').flt := 
  State.flt_half_addFld _ _ h' _ _
@[simp] theorem State.ddrGib_half_incFld (f : Fld) : ((s.incFld h f).half h').ddrGib = (s.half h').ddrGib := 
  State.ddrGib_half_addFld _ _ h' _ _
@[simp] theorem State.vset_half_incFld (f : Fld) : ((s.incFld h f).half h').vset = (s.half h').vset := 
  State.vset_half_addFld _ _ h' _ _
@[simp] theorem State.vrun_half_incFld (f : Fld) : ((s.incFld h f).half h').vrun = (s.half h').vrun := 
  State.vrun_half_addFld _ _ h' _ _
@[simp] theorem State.vsetAt_half_incFld (f : Fld) : ((s.incFld h f).half h').vsetAt = (s.half h').vsetAt := 
  State.vsetAt_half_addFld _ _ h' _ _
@[simp] theorem State.pmbFails_half_incFld (f : Fld) : ((s.incFld h f).half h').pmbFails = (s.half h').pmbFails := 
  State.pmbFails_half_addFld _ _ h' _ _
@[simp] theorem State.safeDue_half_incFld (f : Fld) : ((s.incFld h f).half h').safeDue = (s.half h').safeDue := 
  State.safeDue_half_addFld _ _ h' _ _
@[simp] theorem State.code_half_incFld (f : Fld) : ((s.incFld h f).half h').code = (s.half h').code := 
  State.code_half_addFld _ _ h' _ _
@[simp] theorem State.paceCode_half_incFld (f : Fld) : ((s.incFld h f).half h').paceCode = (s.half h').paceCode := 
  State.paceCode_half_addFld _ _ h' _ _
@[simp] theorem State.paceBase_half_incFld (f : Fld) : ((s.incFld h f).half h').paceBase = (s.half h').paceBase := 
  State.paceBase_half_addFld _ _ h' _ _
@[simp] theorem State.paceLen_half_incFld (f : Fld) : ((s.incFld h f).half h').paceLen = (s.half h').paceLen := 
  State.paceLen_half_addFld _ _ h' _ _
@[simp] theorem State.sram_half_incFld (f : Fld) : ((s.incFld h f).half h').sram = (s.half h').sram := 
  State.sram_half_addFld _ _ h' _ _
@[simp] theorem State.codeErrs_half_incFld (f : Fld) : ((s.incFld h f).half h').codeErrs = (s.half h').codeErrs := 
  State.codeErrs_half_addFld _ _ h' _ _
@[simp] theorem State.codeCe_half_incFld (f : Fld) : ((s.incFld h f).half h').codeCe = (s.half h').codeCe := 
  State.codeCe_half_addFld _ _ h' _ _
@[simp] theorem State.codeWorn_half_incFld (f : Fld) : ((s.incFld h f).half h').codeWorn = (s.half h').codeWorn := 
  State.codeWorn_half_addFld _ _ h' _ _
@[simp] theorem State.wardenHeld_half_incFld (f : Fld) : ((s.incFld h f).half h').wardenHeld = (s.half h').wardenHeld := 
  State.wardenHeld_half_addFld _ _ h' _ _
@[simp] theorem State.wardenActive_half_incFld (f : Fld) : ((s.incFld h f).half h').wardenActive = (s.half h').wardenActive := 
  State.wardenActive_half_addFld _ _ h' _ _
@[simp] theorem State.perst_half_incFld (f : Fld) : ((s.incFld h f).half h').perst = (s.half h').perst := 
  State.perst_half_addFld _ _ h' _ _
@[simp] theorem State.tap_half_incFld (f : Fld) : ((s.incFld h f).half h').tap = (s.half h').tap := 
  State.tap_half_addFld _ _ h' _ _
@[simp] theorem State.challenge_half_incFld (f : Fld) : ((s.incFld h f).half h').challenge = (s.half h').challenge := 
  State.challenge_half_addFld _ _ h' _ _
@[simp] theorem State.authStatus_half_incFld (f : Fld) : ((s.incFld h f).half h').authStatus = (s.half h').authStatus := 
  State.authStatus_half_addFld _ _ h' _ _
@[simp] theorem State.dbgData_half_incFld (f : Fld) : ((s.incFld h f).half h').dbgData = (s.half h').dbgData := 
  State.dbgData_half_addFld _ _ h' _ _
@[simp] theorem State.dbgStatus_half_incFld (f : Fld) : ((s.incFld h f).half h').dbgStatus = (s.half h').dbgStatus := 
  State.dbgStatus_half_addFld _ _ h' _ _

@[simp] theorem State.mode_half_setBit (f : Fld) (i : Nat) : ((s.setBit h f i).half h').mode = (s.half h').mode := 
  State.mode_half_setFld _ _ h' _ _
@[simp] theorem State.mem_half_setBit (f : Fld) (i : Nat) : ((s.setBit h f i).half h').mem = (s.half h').mem := 
  State.mem_half_setFld _ _ h' _ _
@[simp] theorem State.cores_half_setBit (f : Fld) (i : Nat) : ((s.setBit h f i).half h').cores = (s.half h').cores := 
  State.cores_half_setFld _ _ h' _ _
@[simp] theorem State.fmn_half_setBit (f : Fld) (i : Nat) : ((s.setBit h f i).half h').fmn = (s.half h').fmn := 
  State.fmn_half_setFld _ _ h' _ _
@[simp] theorem State.bnd_half_setBit (f : Fld) (i : Nat) : ((s.setBit h f i).half h').bnd = (s.half h').bnd := 
  State.bnd_half_setFld _ _ h' _ _
@[simp] theorem State.eth_half_setBit (f : Fld) (i : Nat) : ((s.setBit h f i).half h').eth = (s.half h').eth := 
  State.eth_half_setFld _ _ h' _ _
@[simp] theorem State.flm_half_setBit (f : Fld) (i : Nat) : ((s.setBit h f i).half h').flm = (s.half h').flm := 
  State.flm_half_setFld _ _ h' _ _
@[simp] theorem State.txts_half_setBit (f : Fld) (i : Nat) : ((s.setBit h f i).half h').txts = (s.half h').txts := 
  State.txts_half_setFld _ _ h' _ _
@[simp] theorem State.kln_half_setBit (f : Fld) (i : Nat) : ((s.setBit h f i).half h').kln = (s.half h').kln := 
  State.kln_half_setFld _ _ h' _ _
@[simp] theorem State.mil_half_setBit (f : Fld) (i : Nat) : ((s.setBit h f i).half h').mil = (s.half h').mil := 
  State.mil_half_setFld _ _ h' _ _
@[simp] theorem State.scl_half_setBit (f : Fld) (i : Nat) : ((s.setBit h f i).half h').scl = (s.half h').scl := 
  State.scl_half_setFld _ _ h' _ _
@[simp] theorem State.hif_half_setBit (f : Fld) (i : Nat) : ((s.setBit h f i).half h').hif = (s.half h').hif := 
  State.hif_half_setFld _ _ h' _ _
@[simp] theorem State.bom_half_setBit (f : Fld) (i : Nat) : ((s.setBit h f i).half h').bom = (s.half h').bom := 
  State.bom_half_setFld _ _ h' _ _
@[simp] theorem State.flt_half_setBit (f : Fld) (i : Nat) : ((s.setBit h f i).half h').flt = (s.half h').flt := 
  State.flt_half_setFld _ _ h' _ _
@[simp] theorem State.ddrGib_half_setBit (f : Fld) (i : Nat) : ((s.setBit h f i).half h').ddrGib = (s.half h').ddrGib := 
  State.ddrGib_half_setFld _ _ h' _ _
@[simp] theorem State.vset_half_setBit (f : Fld) (i : Nat) : ((s.setBit h f i).half h').vset = (s.half h').vset := 
  State.vset_half_setFld _ _ h' _ _
@[simp] theorem State.vrun_half_setBit (f : Fld) (i : Nat) : ((s.setBit h f i).half h').vrun = (s.half h').vrun := 
  State.vrun_half_setFld _ _ h' _ _
@[simp] theorem State.vsetAt_half_setBit (f : Fld) (i : Nat) : ((s.setBit h f i).half h').vsetAt = (s.half h').vsetAt := 
  State.vsetAt_half_setFld _ _ h' _ _
@[simp] theorem State.pmbFails_half_setBit (f : Fld) (i : Nat) : ((s.setBit h f i).half h').pmbFails = (s.half h').pmbFails := 
  State.pmbFails_half_setFld _ _ h' _ _
@[simp] theorem State.safeDue_half_setBit (f : Fld) (i : Nat) : ((s.setBit h f i).half h').safeDue = (s.half h').safeDue := 
  State.safeDue_half_setFld _ _ h' _ _
@[simp] theorem State.code_half_setBit (f : Fld) (i : Nat) : ((s.setBit h f i).half h').code = (s.half h').code := 
  State.code_half_setFld _ _ h' _ _
@[simp] theorem State.paceCode_half_setBit (f : Fld) (i : Nat) : ((s.setBit h f i).half h').paceCode = (s.half h').paceCode := 
  State.paceCode_half_setFld _ _ h' _ _
@[simp] theorem State.paceBase_half_setBit (f : Fld) (i : Nat) : ((s.setBit h f i).half h').paceBase = (s.half h').paceBase := 
  State.paceBase_half_setFld _ _ h' _ _
@[simp] theorem State.paceLen_half_setBit (f : Fld) (i : Nat) : ((s.setBit h f i).half h').paceLen = (s.half h').paceLen := 
  State.paceLen_half_setFld _ _ h' _ _
@[simp] theorem State.sram_half_setBit (f : Fld) (i : Nat) : ((s.setBit h f i).half h').sram = (s.half h').sram := 
  State.sram_half_setFld _ _ h' _ _
@[simp] theorem State.codeErrs_half_setBit (f : Fld) (i : Nat) : ((s.setBit h f i).half h').codeErrs = (s.half h').codeErrs := 
  State.codeErrs_half_setFld _ _ h' _ _
@[simp] theorem State.codeCe_half_setBit (f : Fld) (i : Nat) : ((s.setBit h f i).half h').codeCe = (s.half h').codeCe := 
  State.codeCe_half_setFld _ _ h' _ _
@[simp] theorem State.codeWorn_half_setBit (f : Fld) (i : Nat) : ((s.setBit h f i).half h').codeWorn = (s.half h').codeWorn := 
  State.codeWorn_half_setFld _ _ h' _ _
@[simp] theorem State.wardenHeld_half_setBit (f : Fld) (i : Nat) : ((s.setBit h f i).half h').wardenHeld = (s.half h').wardenHeld := 
  State.wardenHeld_half_setFld _ _ h' _ _
@[simp] theorem State.wardenActive_half_setBit (f : Fld) (i : Nat) : ((s.setBit h f i).half h').wardenActive = (s.half h').wardenActive := 
  State.wardenActive_half_setFld _ _ h' _ _
@[simp] theorem State.perst_half_setBit (f : Fld) (i : Nat) : ((s.setBit h f i).half h').perst = (s.half h').perst := 
  State.perst_half_setFld _ _ h' _ _
@[simp] theorem State.tap_half_setBit (f : Fld) (i : Nat) : ((s.setBit h f i).half h').tap = (s.half h').tap := 
  State.tap_half_setFld _ _ h' _ _
@[simp] theorem State.challenge_half_setBit (f : Fld) (i : Nat) : ((s.setBit h f i).half h').challenge = (s.half h').challenge := 
  State.challenge_half_setFld _ _ h' _ _
@[simp] theorem State.authStatus_half_setBit (f : Fld) (i : Nat) : ((s.setBit h f i).half h').authStatus = (s.half h').authStatus := 
  State.authStatus_half_setFld _ _ h' _ _
@[simp] theorem State.dbgData_half_setBit (f : Fld) (i : Nat) : ((s.setBit h f i).half h').dbgData = (s.half h').dbgData := 
  State.dbgData_half_setFld _ _ h' _ _
@[simp] theorem State.dbgStatus_half_setBit (f : Fld) (i : Nat) : ((s.setBit h f i).half h').dbgStatus = (s.half h').dbgStatus := 
  State.dbgStatus_half_setFld _ _ h' _ _

@[simp] theorem State.mode_half_clearBit (f : Fld) (i : Nat) : ((s.clearBit h f i).half h').mode = (s.half h').mode := by
  unfold State.clearBit; split <;> simp
@[simp] theorem State.mem_half_clearBit (f : Fld) (i : Nat) : ((s.clearBit h f i).half h').mem = (s.half h').mem := by
  unfold State.clearBit; split <;> simp
@[simp] theorem State.cores_half_clearBit (f : Fld) (i : Nat) : ((s.clearBit h f i).half h').cores = (s.half h').cores := by
  unfold State.clearBit; split <;> simp
@[simp] theorem State.fmn_half_clearBit (f : Fld) (i : Nat) : ((s.clearBit h f i).half h').fmn = (s.half h').fmn := by
  unfold State.clearBit; split <;> simp
@[simp] theorem State.bnd_half_clearBit (f : Fld) (i : Nat) : ((s.clearBit h f i).half h').bnd = (s.half h').bnd := by
  unfold State.clearBit; split <;> simp
@[simp] theorem State.eth_half_clearBit (f : Fld) (i : Nat) : ((s.clearBit h f i).half h').eth = (s.half h').eth := by
  unfold State.clearBit; split <;> simp
@[simp] theorem State.flm_half_clearBit (f : Fld) (i : Nat) : ((s.clearBit h f i).half h').flm = (s.half h').flm := by
  unfold State.clearBit; split <;> simp
@[simp] theorem State.txts_half_clearBit (f : Fld) (i : Nat) : ((s.clearBit h f i).half h').txts = (s.half h').txts := by
  unfold State.clearBit; split <;> simp
@[simp] theorem State.kln_half_clearBit (f : Fld) (i : Nat) : ((s.clearBit h f i).half h').kln = (s.half h').kln := by
  unfold State.clearBit; split <;> simp
@[simp] theorem State.mil_half_clearBit (f : Fld) (i : Nat) : ((s.clearBit h f i).half h').mil = (s.half h').mil := by
  unfold State.clearBit; split <;> simp
@[simp] theorem State.scl_half_clearBit (f : Fld) (i : Nat) : ((s.clearBit h f i).half h').scl = (s.half h').scl := by
  unfold State.clearBit; split <;> simp
@[simp] theorem State.hif_half_clearBit (f : Fld) (i : Nat) : ((s.clearBit h f i).half h').hif = (s.half h').hif := by
  unfold State.clearBit; split <;> simp
@[simp] theorem State.bom_half_clearBit (f : Fld) (i : Nat) : ((s.clearBit h f i).half h').bom = (s.half h').bom := by
  unfold State.clearBit; split <;> simp
@[simp] theorem State.flt_half_clearBit (f : Fld) (i : Nat) : ((s.clearBit h f i).half h').flt = (s.half h').flt := by
  unfold State.clearBit; split <;> simp
@[simp] theorem State.ddrGib_half_clearBit (f : Fld) (i : Nat) : ((s.clearBit h f i).half h').ddrGib = (s.half h').ddrGib := by
  unfold State.clearBit; split <;> simp
@[simp] theorem State.vset_half_clearBit (f : Fld) (i : Nat) : ((s.clearBit h f i).half h').vset = (s.half h').vset := by
  unfold State.clearBit; split <;> simp
@[simp] theorem State.vrun_half_clearBit (f : Fld) (i : Nat) : ((s.clearBit h f i).half h').vrun = (s.half h').vrun := by
  unfold State.clearBit; split <;> simp
@[simp] theorem State.vsetAt_half_clearBit (f : Fld) (i : Nat) : ((s.clearBit h f i).half h').vsetAt = (s.half h').vsetAt := by
  unfold State.clearBit; split <;> simp
@[simp] theorem State.pmbFails_half_clearBit (f : Fld) (i : Nat) : ((s.clearBit h f i).half h').pmbFails = (s.half h').pmbFails := by
  unfold State.clearBit; split <;> simp
@[simp] theorem State.safeDue_half_clearBit (f : Fld) (i : Nat) : ((s.clearBit h f i).half h').safeDue = (s.half h').safeDue := by
  unfold State.clearBit; split <;> simp
@[simp] theorem State.code_half_clearBit (f : Fld) (i : Nat) : ((s.clearBit h f i).half h').code = (s.half h').code := by
  unfold State.clearBit; split <;> simp
@[simp] theorem State.paceCode_half_clearBit (f : Fld) (i : Nat) : ((s.clearBit h f i).half h').paceCode = (s.half h').paceCode := by
  unfold State.clearBit; split <;> simp
@[simp] theorem State.paceBase_half_clearBit (f : Fld) (i : Nat) : ((s.clearBit h f i).half h').paceBase = (s.half h').paceBase := by
  unfold State.clearBit; split <;> simp
@[simp] theorem State.paceLen_half_clearBit (f : Fld) (i : Nat) : ((s.clearBit h f i).half h').paceLen = (s.half h').paceLen := by
  unfold State.clearBit; split <;> simp
@[simp] theorem State.sram_half_clearBit (f : Fld) (i : Nat) : ((s.clearBit h f i).half h').sram = (s.half h').sram := by
  unfold State.clearBit; split <;> simp
@[simp] theorem State.codeErrs_half_clearBit (f : Fld) (i : Nat) : ((s.clearBit h f i).half h').codeErrs = (s.half h').codeErrs := by
  unfold State.clearBit; split <;> simp
@[simp] theorem State.codeCe_half_clearBit (f : Fld) (i : Nat) : ((s.clearBit h f i).half h').codeCe = (s.half h').codeCe := by
  unfold State.clearBit; split <;> simp
@[simp] theorem State.codeWorn_half_clearBit (f : Fld) (i : Nat) : ((s.clearBit h f i).half h').codeWorn = (s.half h').codeWorn := by
  unfold State.clearBit; split <;> simp
@[simp] theorem State.wardenHeld_half_clearBit (f : Fld) (i : Nat) : ((s.clearBit h f i).half h').wardenHeld = (s.half h').wardenHeld := by
  unfold State.clearBit; split <;> simp
@[simp] theorem State.wardenActive_half_clearBit (f : Fld) (i : Nat) : ((s.clearBit h f i).half h').wardenActive = (s.half h').wardenActive := by
  unfold State.clearBit; split <;> simp
@[simp] theorem State.perst_half_clearBit (f : Fld) (i : Nat) : ((s.clearBit h f i).half h').perst = (s.half h').perst := by
  unfold State.clearBit; split <;> simp
@[simp] theorem State.tap_half_clearBit (f : Fld) (i : Nat) : ((s.clearBit h f i).half h').tap = (s.half h').tap := by
  unfold State.clearBit; split <;> simp
@[simp] theorem State.challenge_half_clearBit (f : Fld) (i : Nat) : ((s.clearBit h f i).half h').challenge = (s.half h').challenge := by
  unfold State.clearBit; split <;> simp
@[simp] theorem State.authStatus_half_clearBit (f : Fld) (i : Nat) : ((s.clearBit h f i).half h').authStatus = (s.half h').authStatus := by
  unfold State.clearBit; split <;> simp
@[simp] theorem State.dbgData_half_clearBit (f : Fld) (i : Nat) : ((s.clearBit h f i).half h').dbgData = (s.half h').dbgData := by
  unfold State.clearBit; split <;> simp
@[simp] theorem State.dbgStatus_half_clearBit (f : Fld) (i : Nat) : ((s.clearBit h f i).half h').dbgStatus = (s.half h').dbgStatus := by
  unfold State.clearBit; split <;> simp

@[simp] theorem State.mode_half_errWr (blk : Nat) : ((s.errWr h blk).half h').mode = (s.half h').mode := 
  State.mode_half_setFld _ _ h' _ _
@[simp] theorem State.mem_half_errWr (blk : Nat) : ((s.errWr h blk).half h').mem = (s.half h').mem := 
  State.mem_half_setFld _ _ h' _ _
@[simp] theorem State.cores_half_errWr (blk : Nat) : ((s.errWr h blk).half h').cores = (s.half h').cores := 
  State.cores_half_setFld _ _ h' _ _
@[simp] theorem State.fmn_half_errWr (blk : Nat) : ((s.errWr h blk).half h').fmn = (s.half h').fmn := 
  State.fmn_half_setFld _ _ h' _ _
@[simp] theorem State.bnd_half_errWr (blk : Nat) : ((s.errWr h blk).half h').bnd = (s.half h').bnd := 
  State.bnd_half_setFld _ _ h' _ _
@[simp] theorem State.eth_half_errWr (blk : Nat) : ((s.errWr h blk).half h').eth = (s.half h').eth := 
  State.eth_half_setFld _ _ h' _ _
@[simp] theorem State.flm_half_errWr (blk : Nat) : ((s.errWr h blk).half h').flm = (s.half h').flm := 
  State.flm_half_setFld _ _ h' _ _
@[simp] theorem State.txts_half_errWr (blk : Nat) : ((s.errWr h blk).half h').txts = (s.half h').txts := 
  State.txts_half_setFld _ _ h' _ _
@[simp] theorem State.kln_half_errWr (blk : Nat) : ((s.errWr h blk).half h').kln = (s.half h').kln := 
  State.kln_half_setFld _ _ h' _ _
@[simp] theorem State.mil_half_errWr (blk : Nat) : ((s.errWr h blk).half h').mil = (s.half h').mil := 
  State.mil_half_setFld _ _ h' _ _
@[simp] theorem State.scl_half_errWr (blk : Nat) : ((s.errWr h blk).half h').scl = (s.half h').scl := 
  State.scl_half_setFld _ _ h' _ _
@[simp] theorem State.hif_half_errWr (blk : Nat) : ((s.errWr h blk).half h').hif = (s.half h').hif := 
  State.hif_half_setFld _ _ h' _ _
@[simp] theorem State.bom_half_errWr (blk : Nat) : ((s.errWr h blk).half h').bom = (s.half h').bom := 
  State.bom_half_setFld _ _ h' _ _
@[simp] theorem State.flt_half_errWr (blk : Nat) : ((s.errWr h blk).half h').flt = (s.half h').flt := 
  State.flt_half_setFld _ _ h' _ _
@[simp] theorem State.ddrGib_half_errWr (blk : Nat) : ((s.errWr h blk).half h').ddrGib = (s.half h').ddrGib := 
  State.ddrGib_half_setFld _ _ h' _ _
@[simp] theorem State.vset_half_errWr (blk : Nat) : ((s.errWr h blk).half h').vset = (s.half h').vset := 
  State.vset_half_setFld _ _ h' _ _
@[simp] theorem State.vrun_half_errWr (blk : Nat) : ((s.errWr h blk).half h').vrun = (s.half h').vrun := 
  State.vrun_half_setFld _ _ h' _ _
@[simp] theorem State.vsetAt_half_errWr (blk : Nat) : ((s.errWr h blk).half h').vsetAt = (s.half h').vsetAt := 
  State.vsetAt_half_setFld _ _ h' _ _
@[simp] theorem State.pmbFails_half_errWr (blk : Nat) : ((s.errWr h blk).half h').pmbFails = (s.half h').pmbFails := 
  State.pmbFails_half_setFld _ _ h' _ _
@[simp] theorem State.safeDue_half_errWr (blk : Nat) : ((s.errWr h blk).half h').safeDue = (s.half h').safeDue := 
  State.safeDue_half_setFld _ _ h' _ _
@[simp] theorem State.code_half_errWr (blk : Nat) : ((s.errWr h blk).half h').code = (s.half h').code := 
  State.code_half_setFld _ _ h' _ _
@[simp] theorem State.paceCode_half_errWr (blk : Nat) : ((s.errWr h blk).half h').paceCode = (s.half h').paceCode := 
  State.paceCode_half_setFld _ _ h' _ _
@[simp] theorem State.paceBase_half_errWr (blk : Nat) : ((s.errWr h blk).half h').paceBase = (s.half h').paceBase := 
  State.paceBase_half_setFld _ _ h' _ _
@[simp] theorem State.paceLen_half_errWr (blk : Nat) : ((s.errWr h blk).half h').paceLen = (s.half h').paceLen := 
  State.paceLen_half_setFld _ _ h' _ _
@[simp] theorem State.sram_half_errWr (blk : Nat) : ((s.errWr h blk).half h').sram = (s.half h').sram := 
  State.sram_half_setFld _ _ h' _ _
@[simp] theorem State.codeErrs_half_errWr (blk : Nat) : ((s.errWr h blk).half h').codeErrs = (s.half h').codeErrs := 
  State.codeErrs_half_setFld _ _ h' _ _
@[simp] theorem State.codeCe_half_errWr (blk : Nat) : ((s.errWr h blk).half h').codeCe = (s.half h').codeCe := 
  State.codeCe_half_setFld _ _ h' _ _
@[simp] theorem State.codeWorn_half_errWr (blk : Nat) : ((s.errWr h blk).half h').codeWorn = (s.half h').codeWorn := 
  State.codeWorn_half_setFld _ _ h' _ _
@[simp] theorem State.wardenHeld_half_errWr (blk : Nat) : ((s.errWr h blk).half h').wardenHeld = (s.half h').wardenHeld := 
  State.wardenHeld_half_setFld _ _ h' _ _
@[simp] theorem State.wardenActive_half_errWr (blk : Nat) : ((s.errWr h blk).half h').wardenActive = (s.half h').wardenActive := 
  State.wardenActive_half_setFld _ _ h' _ _
@[simp] theorem State.perst_half_errWr (blk : Nat) : ((s.errWr h blk).half h').perst = (s.half h').perst := 
  State.perst_half_setFld _ _ h' _ _
@[simp] theorem State.tap_half_errWr (blk : Nat) : ((s.errWr h blk).half h').tap = (s.half h').tap := 
  State.tap_half_setFld _ _ h' _ _
@[simp] theorem State.challenge_half_errWr (blk : Nat) : ((s.errWr h blk).half h').challenge = (s.half h').challenge := 
  State.challenge_half_setFld _ _ h' _ _
@[simp] theorem State.authStatus_half_errWr (blk : Nat) : ((s.errWr h blk).half h').authStatus = (s.half h').authStatus := 
  State.authStatus_half_setFld _ _ h' _ _
@[simp] theorem State.dbgData_half_errWr (blk : Nat) : ((s.errWr h blk).half h').dbgData = (s.half h').dbgData := 
  State.dbgData_half_setFld _ _ h' _ _
@[simp] theorem State.dbgStatus_half_errWr (blk : Nat) : ((s.errWr h blk).half h').dbgStatus = (s.half h').dbgStatus := 
  State.dbgStatus_half_setFld _ _ h' _ _

@[simp] theorem State.mode_half_setCoreN (n : Nat) (c : Core) : ((s.setCoreN h n c).half h').mode = (s.half h').mode :=
  State.half_upd_proj s _ h' (fun x => x.mode) _ fun _ => rfl
@[simp] theorem State.mode_half_setCore (k : CoreId) (c : Core) : ((s.setCore k c).half h').mode = (s.half h').mode :=
  State.mode_half_setCoreN _ _ h' _ _
@[simp] theorem State.regs_half_setCoreN (n : Nat) (c : Core) : ((s.setCoreN h n c).half h').regs = (s.half h').regs :=
  State.half_upd_proj s _ h' (fun x => x.regs) _ fun _ => rfl
@[simp] theorem State.regs_half_setCore (k : CoreId) (c : Core) : ((s.setCore k c).half h').regs = (s.half h').regs :=
  State.regs_half_setCoreN _ _ h' _ _
@[simp] theorem State.mem_half_setCoreN (n : Nat) (c : Core) : ((s.setCoreN h n c).half h').mem = (s.half h').mem :=
  State.half_upd_proj s _ h' (fun x => x.mem) _ fun _ => rfl
@[simp] theorem State.mem_half_setCore (k : CoreId) (c : Core) : ((s.setCore k c).half h').mem = (s.half h').mem :=
  State.mem_half_setCoreN _ _ h' _ _
@[simp] theorem State.fmn_half_setCoreN (n : Nat) (c : Core) : ((s.setCoreN h n c).half h').fmn = (s.half h').fmn :=
  State.half_upd_proj s _ h' (fun x => x.fmn) _ fun _ => rfl
@[simp] theorem State.fmn_half_setCore (k : CoreId) (c : Core) : ((s.setCore k c).half h').fmn = (s.half h').fmn :=
  State.fmn_half_setCoreN _ _ h' _ _
@[simp] theorem State.bnd_half_setCoreN (n : Nat) (c : Core) : ((s.setCoreN h n c).half h').bnd = (s.half h').bnd :=
  State.half_upd_proj s _ h' (fun x => x.bnd) _ fun _ => rfl
@[simp] theorem State.bnd_half_setCore (k : CoreId) (c : Core) : ((s.setCore k c).half h').bnd = (s.half h').bnd :=
  State.bnd_half_setCoreN _ _ h' _ _
@[simp] theorem State.eth_half_setCoreN (n : Nat) (c : Core) : ((s.setCoreN h n c).half h').eth = (s.half h').eth :=
  State.half_upd_proj s _ h' (fun x => x.eth) _ fun _ => rfl
@[simp] theorem State.eth_half_setCore (k : CoreId) (c : Core) : ((s.setCore k c).half h').eth = (s.half h').eth :=
  State.eth_half_setCoreN _ _ h' _ _
@[simp] theorem State.flm_half_setCoreN (n : Nat) (c : Core) : ((s.setCoreN h n c).half h').flm = (s.half h').flm :=
  State.half_upd_proj s _ h' (fun x => x.flm) _ fun _ => rfl
@[simp] theorem State.flm_half_setCore (k : CoreId) (c : Core) : ((s.setCore k c).half h').flm = (s.half h').flm :=
  State.flm_half_setCoreN _ _ h' _ _
@[simp] theorem State.txts_half_setCoreN (n : Nat) (c : Core) : ((s.setCoreN h n c).half h').txts = (s.half h').txts :=
  State.half_upd_proj s _ h' (fun x => x.txts) _ fun _ => rfl
@[simp] theorem State.txts_half_setCore (k : CoreId) (c : Core) : ((s.setCore k c).half h').txts = (s.half h').txts :=
  State.txts_half_setCoreN _ _ h' _ _
@[simp] theorem State.kln_half_setCoreN (n : Nat) (c : Core) : ((s.setCoreN h n c).half h').kln = (s.half h').kln :=
  State.half_upd_proj s _ h' (fun x => x.kln) _ fun _ => rfl
@[simp] theorem State.kln_half_setCore (k : CoreId) (c : Core) : ((s.setCore k c).half h').kln = (s.half h').kln :=
  State.kln_half_setCoreN _ _ h' _ _
@[simp] theorem State.mil_half_setCoreN (n : Nat) (c : Core) : ((s.setCoreN h n c).half h').mil = (s.half h').mil :=
  State.half_upd_proj s _ h' (fun x => x.mil) _ fun _ => rfl
@[simp] theorem State.mil_half_setCore (k : CoreId) (c : Core) : ((s.setCore k c).half h').mil = (s.half h').mil :=
  State.mil_half_setCoreN _ _ h' _ _
@[simp] theorem State.scl_half_setCoreN (n : Nat) (c : Core) : ((s.setCoreN h n c).half h').scl = (s.half h').scl :=
  State.half_upd_proj s _ h' (fun x => x.scl) _ fun _ => rfl
@[simp] theorem State.scl_half_setCore (k : CoreId) (c : Core) : ((s.setCore k c).half h').scl = (s.half h').scl :=
  State.scl_half_setCoreN _ _ h' _ _
@[simp] theorem State.hif_half_setCoreN (n : Nat) (c : Core) : ((s.setCoreN h n c).half h').hif = (s.half h').hif :=
  State.half_upd_proj s _ h' (fun x => x.hif) _ fun _ => rfl
@[simp] theorem State.hif_half_setCore (k : CoreId) (c : Core) : ((s.setCore k c).half h').hif = (s.half h').hif :=
  State.hif_half_setCoreN _ _ h' _ _
@[simp] theorem State.bom_half_setCoreN (n : Nat) (c : Core) : ((s.setCoreN h n c).half h').bom = (s.half h').bom :=
  State.half_upd_proj s _ h' (fun x => x.bom) _ fun _ => rfl
@[simp] theorem State.bom_half_setCore (k : CoreId) (c : Core) : ((s.setCore k c).half h').bom = (s.half h').bom :=
  State.bom_half_setCoreN _ _ h' _ _
@[simp] theorem State.flt_half_setCoreN (n : Nat) (c : Core) : ((s.setCoreN h n c).half h').flt = (s.half h').flt :=
  State.half_upd_proj s _ h' (fun x => x.flt) _ fun _ => rfl
@[simp] theorem State.flt_half_setCore (k : CoreId) (c : Core) : ((s.setCore k c).half h').flt = (s.half h').flt :=
  State.flt_half_setCoreN _ _ h' _ _
@[simp] theorem State.ddrGib_half_setCoreN (n : Nat) (c : Core) : ((s.setCoreN h n c).half h').ddrGib = (s.half h').ddrGib :=
  State.half_upd_proj s _ h' (fun x => x.ddrGib) _ fun _ => rfl
@[simp] theorem State.ddrGib_half_setCore (k : CoreId) (c : Core) : ((s.setCore k c).half h').ddrGib = (s.half h').ddrGib :=
  State.ddrGib_half_setCoreN _ _ h' _ _
@[simp] theorem State.vset_half_setCoreN (n : Nat) (c : Core) : ((s.setCoreN h n c).half h').vset = (s.half h').vset :=
  State.half_upd_proj s _ h' (fun x => x.vset) _ fun _ => rfl
@[simp] theorem State.vset_half_setCore (k : CoreId) (c : Core) : ((s.setCore k c).half h').vset = (s.half h').vset :=
  State.vset_half_setCoreN _ _ h' _ _
@[simp] theorem State.vrun_half_setCoreN (n : Nat) (c : Core) : ((s.setCoreN h n c).half h').vrun = (s.half h').vrun :=
  State.half_upd_proj s _ h' (fun x => x.vrun) _ fun _ => rfl
@[simp] theorem State.vrun_half_setCore (k : CoreId) (c : Core) : ((s.setCore k c).half h').vrun = (s.half h').vrun :=
  State.vrun_half_setCoreN _ _ h' _ _
@[simp] theorem State.vsetAt_half_setCoreN (n : Nat) (c : Core) : ((s.setCoreN h n c).half h').vsetAt = (s.half h').vsetAt :=
  State.half_upd_proj s _ h' (fun x => x.vsetAt) _ fun _ => rfl
@[simp] theorem State.vsetAt_half_setCore (k : CoreId) (c : Core) : ((s.setCore k c).half h').vsetAt = (s.half h').vsetAt :=
  State.vsetAt_half_setCoreN _ _ h' _ _
@[simp] theorem State.pmbFails_half_setCoreN (n : Nat) (c : Core) : ((s.setCoreN h n c).half h').pmbFails = (s.half h').pmbFails :=
  State.half_upd_proj s _ h' (fun x => x.pmbFails) _ fun _ => rfl
@[simp] theorem State.pmbFails_half_setCore (k : CoreId) (c : Core) : ((s.setCore k c).half h').pmbFails = (s.half h').pmbFails :=
  State.pmbFails_half_setCoreN _ _ h' _ _
@[simp] theorem State.safeDue_half_setCoreN (n : Nat) (c : Core) : ((s.setCoreN h n c).half h').safeDue = (s.half h').safeDue :=
  State.half_upd_proj s _ h' (fun x => x.safeDue) _ fun _ => rfl
@[simp] theorem State.safeDue_half_setCore (k : CoreId) (c : Core) : ((s.setCore k c).half h').safeDue = (s.half h').safeDue :=
  State.safeDue_half_setCoreN _ _ h' _ _
@[simp] theorem State.code_half_setCoreN (n : Nat) (c : Core) : ((s.setCoreN h n c).half h').code = (s.half h').code :=
  State.half_upd_proj s _ h' (fun x => x.code) _ fun _ => rfl
@[simp] theorem State.code_half_setCore (k : CoreId) (c : Core) : ((s.setCore k c).half h').code = (s.half h').code :=
  State.code_half_setCoreN _ _ h' _ _
@[simp] theorem State.paceCode_half_setCoreN (n : Nat) (c : Core) : ((s.setCoreN h n c).half h').paceCode = (s.half h').paceCode :=
  State.half_upd_proj s _ h' (fun x => x.paceCode) _ fun _ => rfl
@[simp] theorem State.paceCode_half_setCore (k : CoreId) (c : Core) : ((s.setCore k c).half h').paceCode = (s.half h').paceCode :=
  State.paceCode_half_setCoreN _ _ h' _ _
@[simp] theorem State.paceBase_half_setCoreN (n : Nat) (c : Core) : ((s.setCoreN h n c).half h').paceBase = (s.half h').paceBase :=
  State.half_upd_proj s _ h' (fun x => x.paceBase) _ fun _ => rfl
@[simp] theorem State.paceBase_half_setCore (k : CoreId) (c : Core) : ((s.setCore k c).half h').paceBase = (s.half h').paceBase :=
  State.paceBase_half_setCoreN _ _ h' _ _
@[simp] theorem State.paceLen_half_setCoreN (n : Nat) (c : Core) : ((s.setCoreN h n c).half h').paceLen = (s.half h').paceLen :=
  State.half_upd_proj s _ h' (fun x => x.paceLen) _ fun _ => rfl
@[simp] theorem State.paceLen_half_setCore (k : CoreId) (c : Core) : ((s.setCore k c).half h').paceLen = (s.half h').paceLen :=
  State.paceLen_half_setCoreN _ _ h' _ _
@[simp] theorem State.sram_half_setCoreN (n : Nat) (c : Core) : ((s.setCoreN h n c).half h').sram = (s.half h').sram :=
  State.half_upd_proj s _ h' (fun x => x.sram) _ fun _ => rfl
@[simp] theorem State.sram_half_setCore (k : CoreId) (c : Core) : ((s.setCore k c).half h').sram = (s.half h').sram :=
  State.sram_half_setCoreN _ _ h' _ _
@[simp] theorem State.codeErrs_half_setCoreN (n : Nat) (c : Core) : ((s.setCoreN h n c).half h').codeErrs = (s.half h').codeErrs :=
  State.half_upd_proj s _ h' (fun x => x.codeErrs) _ fun _ => rfl
@[simp] theorem State.codeErrs_half_setCore (k : CoreId) (c : Core) : ((s.setCore k c).half h').codeErrs = (s.half h').codeErrs :=
  State.codeErrs_half_setCoreN _ _ h' _ _
@[simp] theorem State.codeCe_half_setCoreN (n : Nat) (c : Core) : ((s.setCoreN h n c).half h').codeCe = (s.half h').codeCe :=
  State.half_upd_proj s _ h' (fun x => x.codeCe) _ fun _ => rfl
@[simp] theorem State.codeCe_half_setCore (k : CoreId) (c : Core) : ((s.setCore k c).half h').codeCe = (s.half h').codeCe :=
  State.codeCe_half_setCoreN _ _ h' _ _
@[simp] theorem State.codeWorn_half_setCoreN (n : Nat) (c : Core) : ((s.setCoreN h n c).half h').codeWorn = (s.half h').codeWorn :=
  State.half_upd_proj s _ h' (fun x => x.codeWorn) _ fun _ => rfl
@[simp] theorem State.codeWorn_half_setCore (k : CoreId) (c : Core) : ((s.setCore k c).half h').codeWorn = (s.half h').codeWorn :=
  State.codeWorn_half_setCoreN _ _ h' _ _
@[simp] theorem State.wardenHeld_half_setCoreN (n : Nat) (c : Core) : ((s.setCoreN h n c).half h').wardenHeld = (s.half h').wardenHeld :=
  State.half_upd_proj s _ h' (fun x => x.wardenHeld) _ fun _ => rfl
@[simp] theorem State.wardenHeld_half_setCore (k : CoreId) (c : Core) : ((s.setCore k c).half h').wardenHeld = (s.half h').wardenHeld :=
  State.wardenHeld_half_setCoreN _ _ h' _ _
@[simp] theorem State.wardenActive_half_setCoreN (n : Nat) (c : Core) : ((s.setCoreN h n c).half h').wardenActive = (s.half h').wardenActive :=
  State.half_upd_proj s _ h' (fun x => x.wardenActive) _ fun _ => rfl
@[simp] theorem State.wardenActive_half_setCore (k : CoreId) (c : Core) : ((s.setCore k c).half h').wardenActive = (s.half h').wardenActive :=
  State.wardenActive_half_setCoreN _ _ h' _ _
@[simp] theorem State.perst_half_setCoreN (n : Nat) (c : Core) : ((s.setCoreN h n c).half h').perst = (s.half h').perst :=
  State.half_upd_proj s _ h' (fun x => x.perst) _ fun _ => rfl
@[simp] theorem State.perst_half_setCore (k : CoreId) (c : Core) : ((s.setCore k c).half h').perst = (s.half h').perst :=
  State.perst_half_setCoreN _ _ h' _ _
@[simp] theorem State.tap_half_setCoreN (n : Nat) (c : Core) : ((s.setCoreN h n c).half h').tap = (s.half h').tap :=
  State.half_upd_proj s _ h' (fun x => x.tap) _ fun _ => rfl
@[simp] theorem State.tap_half_setCore (k : CoreId) (c : Core) : ((s.setCore k c).half h').tap = (s.half h').tap :=
  State.tap_half_setCoreN _ _ h' _ _
@[simp] theorem State.challenge_half_setCoreN (n : Nat) (c : Core) : ((s.setCoreN h n c).half h').challenge = (s.half h').challenge :=
  State.half_upd_proj s _ h' (fun x => x.challenge) _ fun _ => rfl
@[simp] theorem State.challenge_half_setCore (k : CoreId) (c : Core) : ((s.setCore k c).half h').challenge = (s.half h').challenge :=
  State.challenge_half_setCoreN _ _ h' _ _
@[simp] theorem State.authStatus_half_setCoreN (n : Nat) (c : Core) : ((s.setCoreN h n c).half h').authStatus = (s.half h').authStatus :=
  State.half_upd_proj s _ h' (fun x => x.authStatus) _ fun _ => rfl
@[simp] theorem State.authStatus_half_setCore (k : CoreId) (c : Core) : ((s.setCore k c).half h').authStatus = (s.half h').authStatus :=
  State.authStatus_half_setCoreN _ _ h' _ _
@[simp] theorem State.dbgData_half_setCoreN (n : Nat) (c : Core) : ((s.setCoreN h n c).half h').dbgData = (s.half h').dbgData :=
  State.half_upd_proj s _ h' (fun x => x.dbgData) _ fun _ => rfl
@[simp] theorem State.dbgData_half_setCore (k : CoreId) (c : Core) : ((s.setCore k c).half h').dbgData = (s.half h').dbgData :=
  State.dbgData_half_setCoreN _ _ h' _ _
@[simp] theorem State.dbgStatus_half_setCoreN (n : Nat) (c : Core) : ((s.setCoreN h n c).half h').dbgStatus = (s.half h').dbgStatus :=
  State.half_upd_proj s _ h' (fun x => x.dbgStatus) _ fun _ => rfl
@[simp] theorem State.dbgStatus_half_setCore (k : CoreId) (c : Core) : ((s.setCore k c).half h').dbgStatus = (s.half h').dbgStatus :=
  State.dbgStatus_half_setCoreN _ _ h' _ _

-- a core read back

/-- A core that is not held is no reset core. -/
theorem Core.ne_default {c : Core} {n : Nat} (hc : c.run ≠ .held) : c ≠ coreDefault n := by
  rintro rfl; exact hc rfl

theorem State.coreN_setCoreN_self {n : Nat} {c : Core} (hc : c.run ≠ .held) : (s.setCoreN h n c).coreN h n = c := by
  simp only [State.setCoreN, State.coreN, State.half_upd_self]
  exact SMap.get_set_of_ne (Core.ne_default hc)

theorem State.coreN_setCoreN_ne {n m : Nat} (c : Core) (hn : m ≠ n) : (s.setCoreN h n c).coreN h' m = s.coreN h' m := by
  simp only [State.setCoreN, State.coreN]
  by_cases e : h' = h
  · subst e; rw [State.half_upd_self]; exact SMap.get_set_ne hn
  · rw [State.half_upd_ne s _ e]

/-- The core just written, when it is not held. -/
theorem State.core_setCore_self {k : CoreId} {c : Core} (hc : c.run ≠ .held) : (s.setCore k c).core k = c :=
  State.coreN_setCoreN_self s _ hc

/-- A core written twice holds what was written last. -/
theorem State.setCore_setCore {k : CoreId} {c d : Core} (hc : c.run ≠ .held) : (s.setCore k c).setCore k d = s.setCore k d := by
  simp only [State.setCore, State.setCoreN, State.upd_upd, SMap.set_set (Core.ne_default hc)]

end Sys2Proof.Machine
end

