-- ==== Sys2Proof/Laws/Run.lean ====
section
/-! SUPPORT. What running an instruction on a core does, once for all instructions: how the parts of an instruction that
cannot stop run, and the next state for each way an instruction's own effect ends. -/

namespace Sys2Proof

open Sys2Proof.Machine

variable {k : CoreId} {x : OpInfo} {e : Enc} {deny : State → Core → Inst → Bool} {s u t : State} {i : Inst}
  {body : Ctx → Exec Flow}

theorem run_pure {α : Type} (a : α) : (pure a : Exec α).run s = .ok a s := rfl

theorem run_bind {α β : Type} (m : Exec α) (f : α → Exec β) :
    (m >>= f).run s = (match m.run s with | .ok a t => (f a).run t | .error r t => .error r t) := by
  simp only [EStateM.run, bind, EStateM.bind]; split <;> simp_all

/-- A bind whose first part succeeds. -/
theorem run_bind_ok {α β : Type} {m : Exec α} {f : α → Exec β} {a : α} (h : m.run s = .ok a t) :
    (m >>= f).run s = (f a).run t := by rw [run_bind, h]

theorem run_get : (get : Exec State).run s = .ok s s := rfl

theorem run_getCore : (getCore k).run s = .ok (s.core k) s := rfl

theorem run_modCore (f : Core → Core) : (modCore k f).run s = .ok () (s.setCore k (f (s.core k))) := rfl

theorem run_setFlags (fs : List (Nat × Bool)) : (setFlags k fs).run s = .ok () (s.setCore k ((s.core k).setFlags fs)) := rfl

theorem run_raiseFL (fl : Nat) : (raiseFL k fl).run s = .ok () (s.setCore k ((s.core k).raised fl)) := rfl

theorem run_readC (n : Nat) : (readC k n).run s = .ok ((s.core k).cReg n) s := rfl

theorem run_writeC (n : Nat) (v : TCap) : (writeC k n v).run s = .ok () (s.setCore k ((s.core k).setCReg n v)) := rfl

/-- Opening a HOLD region cannot stop. -/
theorem run_openHold (c : Ctx) : (openHold c).run s = .ok () (after (openHold c) s) := by
  unfold openHold
  split <;> rfl

/-- What lets an instruction issue passes its checks. -/
theorem Issues.run_checks (h : Issues k x e deny s i u) : (issueChecks k i deny).run u = .ok () u := by
  have hl := h.noLimit
  have hh := h.noHold
  have hd := h.decimal
  have ha := h.allowed
  unfold issueChecks
  rw [run_bind_ok run_get]
  have h1 : (decide ((u.core k).level = levelC) && i.isDecimal && decide ((u.core k).thread ≠ (u.core k).decOwner)) = false := by
    by_cases a : (u.core k).level = levelC
    · by_cases b : i.isDecimal = true
      · simp [hd a b]
      · simp [b]
    · simp [a]
  by_cases hs : (u.core k).swBit 23 = true
  · obtain ⟨b1, b2⟩ := hl hs
    have h3 := hh hs
    have c : holdLimit u k = false := by
      unfold holdLimit
      cases hp : isPaced u k
      · cases ht : (u.core k).holdStart with
        | none => simp
        | some t => simpa using b1 hp t ht
      · simpa using b2 hp
    simp only [hs, c, h3, ha, h1, if_true, Option.isSome_none, Bool.false_eq_true, if_false, Bool.false_and]; rfl
  · simp only [hs, ha, h1, Bool.false_eq_true, if_false]; rfl

/-- An instruction that issues runs its own effect, then what its end asks for. -/
theorem Issues.run_body (h : Issues k x e deny s i u) :
    (instrBody k x e deny body).run (drainCore k s) =
      (do let f ← body (ctxOf k i u); instrEnd (ctxOf k i u) f : Exec Flow).run (opened k i u) := by
  unfold instrBody
  rw [run_bind_ok h.begins, run_bind_ok run_getCore, h.decoded]
  have hf := h.fetched
  rw [run_bind] at hf
  rw [run_bind]
  cases hn : (newSlot k i.hold.isSome).run (begun k s) with
  | error r t => rw [hn] at hf; cases hf
  | ok a t =>
    rw [hn] at hf
    dsimp only at hf ⊢
    rw [run_bind_ok hf, run_bind_ok h.run_checks, run_bind_ok run_getCore, run_bind_ok (run_openHold _)]
    exact run_bind_ok h.older

/-- The outcome of an instruction whose body ends the way given. -/
theorem Issues.exec_of_body (h : Issues k x e deny s i u) :
    runInstr k x e deny body s = .next (match
        (do let f ← body (ctxOf k i u); instrEnd (ctxOf k i u) f : Exec Flow).run (opened k i u) with
      | .ok (.event v cause rpcc) t =>
        traced k (if enteredVector ((takeTrap k v cause rpcc t).core k) = some v then takeTrap k v cause rpcc t
          else takeTrap k v cause rpcc (stopped k (drainCore k s) t))
      | .ok .seq t => t
      | .ok (.jump p) t => traceEntry k p.cursor t
      | .ok (.done moved) t => if moved then traced k t else t
      | .error (.trap v cause) t => stoppedBy k (drainCore k s) v cause t
      | .error (.need j) _ => execFuel k x e deny body 31 (completeLong k j (drainCore k s))
      | .error (.stale j) _ => execFuel k x e deny body 31 (dropSlot k j (drainCore k s))
      | .error .wait t => waiting k (drainCore k s) t) := by
  unfold runInstr
  rw [h.runs, h.spelled, show (32 : Nat) = 31 + 1 from rfl, execFuel, h.run_body]
  rfl

/-- Lengthening a slot stops at most with an overrun of HOLD (R126). -/
theorem run_paceTicks_error {n : Nat} {r : Stop} {v : State} (h : (paceTicks k n).run s = .error r v) :
    ∃ c, r = .trap 17 c := by
  unfold paceTicks at h
  rw [run_bind_ok run_get] at h
  split at h
  · dsimp only at h
    split at h
    · cases h
      exact ⟨_, rfl⟩
    · cases h
  · cases h

/-- Retirement with its leaves marked stops at most with an overrun of HOLD (R126). -/
theorem run_retire_error {c : Ctx} {b : Bool} {r : Stop} {v : State} (hm : Marked c.k s) (h : (retire c b).run s = .error r v) :
    ∃ d, r = .trap 17 d := by
  obtain ⟨w, hw⟩ := hm
  unfold retire at h
  rw [run_bind_ok hw] at h
  rw [run_bind_ok run_get] at h
  dsimp only at h
  rw [run_bind] at h
  split at h
  · cases h
  · next r' v' hp =>
    obtain ⟨d, rfl⟩ := run_paceTicks_error hp
    cases h
    exact ⟨d, rfl⟩

/-- An instruction that goes on to the next one. -/
theorem Issues.exec_seq (h : Issues k x e deny s i u) (hb : (body (ctxOf k i u)).run (opened k i u) = .ok .seq t) (hm : Marked k t) :
    runInstr k x e deny body s = .next (seqEnd s (ctxOf k i u) t) := by
  rw [h.exec_of_body, run_bind_ok hb]
  unfold instrEnd seqEnd endOf
  dsimp only
  rw [run_bind]
  cases hr : (retire (ctxOf k i u) false).run t with
  | ok a v => rfl
  | error r v => obtain ⟨d, rfl⟩ := run_retire_error (c := ctxOf k i u) hm hr; rfl

/-- A transfer. -/
theorem Issues.exec_jump {p : TCap} (h : Issues k x e deny s i u)
    (hb : (body (ctxOf k i u)).run (opened k i u) = .ok (.jump p) t) (hm : Marked k t) :
    runInstr k x e deny body s = .next (jumpEnd s (ctxOf k i u) p t) := by
  rw [h.exec_of_body, run_bind_ok hb]
  unfold instrEnd jumpEnd endOf
  dsimp only
  rw [run_bind]
  cases hr : (retire (ctxOf k i u) true).run t with
  | ok a v => rfl
  | error r v => obtain ⟨d, rfl⟩ := run_retire_error (c := ctxOf k i u) hm hr; rfl

/-- An instruction whose effect is a trap that its entry takes. -/
theorem Issues.exec_trap {v : Nat} {cause : Word} {p : TCap} (h : Issues k x e deny s i u)
    (hb : (body (ctxOf k i u)).run (opened k i u) = .ok (.event v cause p) t) (hm : Marked k t)
    (he : ∀ w, (retire (ctxOf k i u) true).run t = .ok () w →
      enteredVector ((takeTrap k v cause p w).core k) = some v) :
    runInstr k x e deny body s = .next (trapEnd s (ctxOf k i u) v cause p t) := by
  rw [h.exec_of_body, run_bind_ok hb]
  unfold instrEnd trapEnd endOf
  dsimp only
  rw [run_bind]
  cases hr : (retire (ctxOf k i u) true).run t with
  | ok a w => simp only [EStateM.run, pure, EStateM.pure, he w hr, if_true]; rfl
  | error r w => obtain ⟨d, rfl⟩ := run_retire_error (c := ctxOf k i u) hm hr; rfl

/-- An instruction that its body ends itself. -/
theorem Issues.exec_done {m : Bool} (h : Issues k x e deny s i u)
    (hb : (body (ctxOf k i u)).run (opened k i u) = .ok (.done m) t) :
    runInstr k x e deny body s = .next (if m then traced k t else t) := by
  rw [h.exec_of_body, run_bind_ok hb]
  rfl

/-- An instruction that a trap stops (R69). -/
theorem Issues.exec_error {v : Nat} {c : Word} (h : Issues k x e deny s i u)
    (hb : (body (ctxOf k i u)).run (opened k i u) = .error (.trap v c) t) :
    runInstr k x e deny body s = .next (stoppedBy k (drainCore k s) v c t) := by
  rw [h.exec_of_body, run_bind, hb]

end Sys2Proof
end

