-- ==== Sys2Proof/Laws/Long.lean ====
section
/-! SUPPORT. How the instructions that may be long operations end outside a BULK thread (R135, R136). -/

namespace Sys2Proof

open Sys2Proof.Machine

/-- No enabled exception: no fault. -/
theorem run_decFault_none {k : CoreId} {i : Inst} {u v : State} {raised : Nat} (h : untrapped k raised v) :
   ((ctxOf k i u).decFault raised).run v = .ok none v := by
  unfold Ctx.decFault
  refine (run_bind_ok run_getCore).trans ?_
  have hk : (ctxOf k i u).k = k := rfl
  simp only [untrapped] at h
  simp only [hk, h, if_true]
  rfl

/-- A long operation with a destination that completes at issue. -/
theorem run_finishLong_some {k : CoreId} {i : Inst} {u v w : State} {d : Dest} {n r raised : Nat} {x : Ctx} (hx : x = ctxOf k i u)
   (fl : List (Nat × Bool))
   (hc : completesAtIssue v k) (hw : (x.write [(d, n, r)]).run (countLong k v) = .ok () w) :
   (x.finishLong (some d) n r fl raised none).run v = .ok .seq (longDone k fl raised w) := by
  subst hx
  unfold Ctx.finishLong
  refine (run_bind_ok run_get).trans ((run_bind_ok run_getCore).trans ((run_bind_ok (run_modCore _)).trans ?_))
  simp only [completesAtIssue] at hc
  have hk : (ctxOf k i u).k = k := rfl
  simp only [hk, hc, Bool.false_and, Bool.false_eq_true, if_false]
  exact (run_bind_ok hw).trans rfl

/-- A long operation without a destination that completes at issue. -/
theorem run_finishLong_none {k : CoreId} {i : Inst} {u v : State} {n r raised : Nat} {x : Ctx} (hx : x = ctxOf k i u)
   (fl : List (Nat × Bool))
   (hc : completesAtIssue v k)  :
   (x.finishLong none n r fl raised none).run v = .ok .seq (longDone k fl raised (countLong k v)) := by
  subst hx
  unfold Ctx.finishLong
  refine (run_bind_ok run_get).trans ((run_bind_ok run_getCore).trans ((run_bind_ok (run_modCore _)).trans ?_))
  simp only [completesAtIssue] at hc
  have hk : (ctxOf k i u).k = k := rfl
  simp only [hk, hc, Bool.false_and, Bool.false_eq_true, if_false]
  rfl

/-- A long operation that faults at issue. -/
theorem run_finishLong_trap {k : CoreId} {i : Inst} {u v : State} {d : Option Dest} {n r raised vec : Nat} {cause : Word} {x : Ctx} (hx : x = ctxOf k i u)
   (fl : List (Nat × Bool)) (hc : completesAtIssue v k) :
   (x.finishLong d n r fl raised (some (vec, cause))).run v = .error (.trap vec cause) (countLong k v) := by
  subst hx
  unfold Ctx.finishLong
  refine (run_bind_ok run_get).trans ((run_bind_ok run_getCore).trans ((run_bind_ok (run_modCore _)).trans ?_))
  simp only [completesAtIssue] at hc
  have hk : (ctxOf k i u).k = k := rfl
  simp only [hk, hc, Bool.false_and, Bool.false_eq_true, if_false]
  rfl

/-- A packed source that R93 allows. -/
theorem run_packedBytesOk {k : CoreId} {i : Inst} {u v : State} {bs : List Byte} (hp : packedOk bs = true) : ((ctxOf k i u).packedBytesOk bs).run v = .ok () v := by unfold Ctx.packedBytesOk; rw [if_pos hp]; rfl

theorem run_fmode {k : CoreId} {i : Inst} {u v : State} : ((ctxOf k i u).fmode).run v = .ok (dsrMode k v) v := rfl

end Sys2Proof
end

