-- ==== Sys2Proof/Laws/Regs.lean ====
section
/-! SUPPORT. What a write leaves in a set-up register: its fields by their access codes (R9–R11), and a write that the
boundary table and the register take. -/

namespace Sys2Proof.Machine

open Sys2Proof


/-- The bits of a word after those of a mask are replaced. -/
theorem bits_keep_add (w raw m : Nat) (i : Nat) :
    (w - (w &&& m) + (raw &&& m)).testBit i = if m.testBit i then raw.testBit i else w.testBit i := by
  obtain ⟨n, hn⟩ : ∃ n, w < 2 ^ n ∧ raw < 2 ^ n ∧ m < 2 ^ n ∧ i < n := by
    refine ⟨w + raw + m + i + 1, ?_, ?_, ?_, by omega⟩
    all_goals exact Nat.lt_of_lt_of_le Nat.lt_two_pow_self (Nat.pow_le_pow_right (by omega) (by omega))
  obtain ⟨h1, h2, h3, h4⟩ := hn
  let x := BitVec.ofNat n w
  let y := BitVec.ofNat n raw
  let z := BitVec.ofNat n m
  have hx : x.toNat = w := by simp [x, Nat.mod_eq_of_lt h1]
  have hy : y.toNat = raw := by simp [y, Nat.mod_eq_of_lt h2]
  have hz : z.toNat = m := by simp [z, Nat.mod_eq_of_lt h3]
  have e1 : (x &&& z).toNat + (x &&& ~~~z).toNat = x.toNat := by
    rw [← BitVec.toNat_add_of_and_eq_zero, BitVec.add_eq_or_of_and_eq_zero]
    · congr 1; ext j; simp; cases x[j] <;> cases z[j] <;> rfl
    · ext j; simp; intros; simp_all
    · ext j; simp; intros; simp_all
  have e2 : w - (w &&& m) = (x &&& ~~~z).toNat := by
    have : (x &&& z).toNat = w &&& m := by rw [BitVec.toNat_and, hx, hz]
    omega
  have e3 : (x &&& ~~~z).toNat + (y &&& z).toNat = ((x &&& ~~~z) ||| (y &&& z)).toNat := by
    rw [← BitVec.toNat_add_of_and_eq_zero, BitVec.add_eq_or_of_and_eq_zero]
    · ext j; simp; intros; simp_all
    · ext j; simp; intros; simp_all
  have e4 : (y &&& z).toNat = raw &&& m := by rw [BitVec.toNat_and, hy, hz]
  rw [e2, ← e4, e3, BitVec.testBit_toNat]
  rw [← hx, ← hy, ← hz]
  simp only [BitVec.testBit_toNat]
  rw [BitVec.getLsbD_or, BitVec.getLsbD_and, BitVec.getLsbD_and, BitVec.getLsbD_not]
  simp only [h4, decide_true, Bool.true_and]
  cases x.getLsbD i <;> cases y.getLsbD i <;> cases z.getLsbD i <;> rfl

/-- The bits of a word after those of a mask are cleared. -/
theorem bits_sub (w m i : Nat) : (w - (w &&& m)).testBit i = (w.testBit i && !m.testBit i) := by
  have := bits_keep_add w 0 m i
  simp at this; rw [this]; cases m.testBit i <;> simp

/-- A field is its bits. -/
theorem nbits_eq_of_testBit {a b hi lo : Nat} (h : ∀ i, lo ≤ i → i ≤ hi → a.testBit i = b.testBit i) :
    nbits a hi lo = nbits b hi lo := by
  apply Nat.eq_of_testBit_eq
  intro i
  simp only [nbits, Nat.testBit_mod_two_pow, Nat.testBit_shiftRight]
  by_cases hi' : i < hi + 1 - lo
  · rw [h (lo + i) (by omega) (by omega)]
  · simp [hi']

/-- The bits of a field's mask. -/
theorem testBit_mask (hi lo i : Nat) (hl : lo ≤ hi): (2 ^ (hi + 1) - 2 ^ lo).testBit i = (decide (lo ≤ i) && decide (i ≤ hi)) := by
  have : 2 ^ (hi+1) - 2 ^ lo = 2^lo * (2^(hi+1-lo) - 1) := by
    rw [Nat.mul_sub, ← Nat.pow_add]; congr 2 <;> omega
  rw [this, Nat.testBit_two_pow_mul, Nat.testBit_two_pow_sub_one]
  clear this
  by_cases h1 : lo ≤ i <;> by_cases h2 : i ≤ hi <;> simp [h1, h2] <;> omega
/-- One field's part of a merged write. -/
def mergeField (locked : Bool) (raw lanes : Nat) (w : Nat) (f : RField) : Nat :=
    let m := (2 ^ (f.hi + 1) - 2 ^ f.lo) &&& lanes
    let put := w - (w &&& m) + (raw &&& m)
    match f.acc with
    | .rw | .wo => put
    | .rwl => if locked then w else put
    | .w1c => w - (w &&& (raw &&& m))
    | .w1s => w ||| (raw &&& m)
    | .ro | .ros => w

/-- A field's part leaves the bits outside it, and those of no lane. -/
theorem mergeField_other (locked raw lanes w) (f : RField) (hf : f.lo ≤ f.hi) (i) (h : i < f.lo ∨ f.hi < i ∨ lanes.testBit i = false) :
  (mergeField locked raw lanes w f).testBit i = w.testBit i := by
  have hm : ((2 ^ (f.hi + 1) - 2 ^ f.lo) &&& lanes).testBit i = false := by
    rw [Nat.testBit_and, testBit_mask _ _ _ hf]
    rcases h with h | h | h
    · simp; intros; omega
    · simp; intros; omega
    · simp [h]
  unfold mergeField
  dsimp only
  generalize (2 ^ (f.hi + 1) - 2 ^ f.lo) &&& lanes = m at hm ⊢
  split <;> (try split) <;> simp only [bits_keep_add, bits_sub, Nat.testBit_or, Nat.testBit_and, hm] <;> simp

/-- A merged write is its fields' parts in turn. -/
theorem mergeWrite_eq (d : RegDesc) (locked : Bool) (old raw lanes) : mergeWrite d locked old raw lanes = d.fields.foldl (mergeField locked raw lanes) old := rfl
/-- The fields of a register stand apart from each other. -/
def apart (fs : List RField) : Bool := fs.all (fun f => decide (f.lo ≤ f.hi)) && decide (fs.Pairwise fun f g => f.hi < g.lo ∨ g.hi < f.lo)

/-- Fields leave a bit that lies in none of them. -/
theorem mergeFields_other (locked raw lanes) (fs : List RField) (hf : ∀ f ∈ fs, f.lo ≤ f.hi) (i) (h : ∀ f ∈ fs, i < f.lo ∨ f.hi < i ∨ lanes.testBit i = false) (w) :
  (fs.foldl (mergeField locked raw lanes) w).testBit i = w.testBit i := by
  induction fs generalizing w with
  | nil => rfl
  | cons f fs ih =>
    rw [List.foldl_cons, ih (fun f hf' => hf f (by simp [hf'])) (fun f hf' => h f (by simp [hf']))]
    exact mergeField_other _ _ _ _ _ (hf f (by simp)) _ (h f (by simp))

/-- What a merged write makes of a bit of a field, by the field's access code (R9). -/
theorem mergeFields_in (locked raw lanes) (fs : List RField) (hf : apart fs = true) (f) (hm : f ∈ fs) (i) (h1 : f.lo ≤ i) (h2 : i ≤ f.hi) (hl : lanes.testBit i = true) (w) :
  (fs.foldl (mergeField locked raw lanes) w).testBit i = (match f.acc with
    | .rw | .wo => raw.testBit i
    | .rwl => if locked then w.testBit i else raw.testBit i
    | .w1c => w.testBit i && !raw.testBit i
    | .w1s => w.testBit i || raw.testBit i
    | .ro | .ros => w.testBit i) := by
  simp only [apart, Bool.and_eq_true, List.all_eq_true, decide_eq_true_eq] at hf
  obtain ⟨hle, hp⟩ := hf
  induction fs generalizing w with
  | nil => simp at hm
  | cons g fs ih =>
    rw [List.pairwise_cons] at hp
    rw [List.foldl_cons]
    rcases List.mem_cons.1 hm with rfl | hm
    · rw [mergeFields_other _ _ _ _ (fun f hf' => hle f (by simp [hf'])) i (fun g hg => by have := hp.1 g hg; omega)]
      have hmb : ((2 ^ (f.hi + 1) - 2 ^ f.lo)).testBit i = true := by rw [testBit_mask _ _ _ (by omega)]; simp [h1, h2]
      unfold mergeField
      cases hacc : f.acc <;> dsimp only <;> (try split) <;> simp [bits_keep_add, bits_sub, Nat.testBit_or, Nat.testBit_and, hmb, hl]
    · rw [ih hm _ (fun f hf' => hle f (by simp [hf'])) hp.2, mergeField_other _ _ _ _ _ (hle g (by simp)) i (by have := hp.1 f hm; omega)]

/-- A field that takes what is written to it. -/
theorem nbits_mergeWrite {d : RegDesc} (hd : apart d.fields = true) {f : RField} (hm : f ∈ d.fields) (hf : f.hi < 64)
    (ha : f.acc = .wo ∨ f.acc = .rw) (locked : Bool) (old raw : Nat) :
    nbits (mergeWrite d locked old raw (2 ^ 64 - 1)) f.hi f.lo = nbits raw f.hi f.lo := by
  apply nbits_eq_of_testBit
  intro i h1 h2
  rw [mergeWrite_eq, mergeFields_in locked raw _ d.fields hd f hm i h1 h2
    (by rw [Nat.testBit_two_pow_sub_one]; simp; omega)]
  rcases ha with h | h <;> simp [h]

/-- A merged word has 64 bits. -/
theorem mergeWrite_lt {d : RegDesc} (hd : apart d.fields = true) (hf : ∀ f ∈ d.fields, f.hi < 64) (locked : Bool)
    {old : Nat} (ho : old < 2 ^ 64) (raw lanes : Nat) : mergeWrite d locked old raw lanes < 2 ^ 64 := by
  apply Nat.lt_pow_two_of_testBit
  intro i hi
  simp only [apart, Bool.and_eq_true, List.all_eq_true, decide_eq_true_eq] at hd
  rw [mergeWrite_eq, mergeFields_other locked raw lanes d.fields hd.1 i
    (fun f hm => by have := hf f hm; omega)]
  exact Nat.testBit_lt_two_pow (Nat.lt_of_lt_of_le ho (Nat.pow_le_pow_right (by omega) hi))

/-- Where the set-up window puts a register's address. -/
theorem place_regAddr (s : State) (h : HalfId) {blk off : Nat} (hb : blk < 256) (ho : off < 0x10000) :
    placeOf s h (regAddr blk off) = .setup blk off := by
  unfold placeOf regAddr
  rw [if_neg (by omega), if_neg (by omega), if_neg (by omega), if_neg (by omega), if_pos (by omega)]
  have : (0x80000000 + blk * 0x10000 + off - 0x80000000) / 0x10000 = blk := by omega
  have : (0x80000000 + blk * 0x10000 + off - 0x80000000) % 0x10000 = off := by omega
  simp [*]

/-- A word's 8 bytes hold it. -/
theorem leNat_leBytes {v : Nat} (hv : v < 2 ^ 64) : leNat (leBytes 8 v) = v := by
  simp [leBytes, leNat]; omega

/-- A word has 8 bytes. -/
theorem length_leBytes (v : Nat) : (leBytes 8 v).length = 8 := by simp [leBytes]

/-- A master whose write is let through reaches the register's block (R306). -/
theorem reaches_reg {h : HalfId} {m : BitVec 7} {blk off : Nat} {s : State} (hw : WriteAllowed h m blk off s) :
    masterReaches m.toNat (.setup blk off) = true := by
  unfold masterReaches
  by_cases c : m = 0x4B
  · simp [hw.reaches c]
  · have : m.toNat ≠ 0x4B := fun e => c (BitVec.eq_of_toNat_eq e)
    simp [this]

/-- An 8-byte write that is let through reaches the register (R187, R369). -/
theorem setupWrite_reg {h : HalfId} {m : BitVec 7} {blk off raw : Nat} {d : RegDesc} {s : State}
    (hw : WriteAllowed h m blk off s) (hv : raw < 2 ^ 64) (hk : regAt blk off = some d) (h8 : off % 8 = 0)
    (ho : off < 0xFFF0) (hp : postWindow blk off = false) (hb : blk < 256) (hg : gateOf s h m.toNat blk off raw = .pass)
    (hu : blk ≠ 0x13 ∨ (off ≠ 0x28 ∧ off ≠ 0x30)) :
    setupWrite s h m.toNat (regAddr blk off) (leBytes 8 raw) = regWrite s h d blk off raw (2 ^ 64 - 1) := by
  unfold setupWrite
  rw [place_regAddr s h hb (by omega)]
  simp only [hw.runs, length_leBytes, hw.allowed, Bool.not_true, Bool.false_eq_true]
  unfold busWrite
  have e1 : off / 8 * 8 = off := by omega
  have e2 : ¬ off = 0xFFF0 := by omega
  have e3 : setupSizeOk blk off 8 = true := by
    simp only [setupSizeOk]; split
    · simp; omega
    · simp; omega
  simp only [length_leBytes, e3, hp, e1, h8, leNat_leBytes hv, Nat.mul_zero, Nat.pow_zero, Nat.mul_one, hg, Bool.not_true,
    Bool.false_eq_true, if_false, e2, false_and, hk]
  have e4 : ¬ (blk = 0x13 ∧ (off = 0x28 ∨ off = 0x30) ∧ raw / 256 % 2 ^ 54 = 0) := by omega
  simp only [e4, if_false, setupOrHole, reaches_reg hw, Bool.not_true, Bool.false_eq_true, or_self]

end Sys2Proof.Machine
end

