-- ==== Sys2Proof/Tests/Slice0.lean ====
section
/-! SUPPORT. Tests: encodings and values that the spec writes out, ill-formed terms that WellFormed refuses, and for each
statement with hypotheses a state and operands that meet them. -/

open Sys2Proof Sys2Proof.Machine

namespace Sys2Proof.Tests

set_option Elab.async false

-- how a witness is written

/-- A part of an instruction runs, and what it answers and leaves meets `p`. -/
def ran {α : Type} (m : Exec α) (s : State) (p : α → State → Bool) : Bool :=
  match m.run s with
  | .ok a t => p a t
  | .error _ _ => false

theorem ran_elim {α : Type} {m : Exec α} {s : State} {p : α → State → Bool} (h : ran m s p = true) :
    ∃ a t, m.run s = .ok a t ∧ p a t = true := by
  unfold ran at h
  split at h
  · exact ⟨_, _, ‹_›, h⟩
  · cases h

/-- No leaf waits to be marked, so that the instruction's marks are made. -/
def clean (k : CoreId) (s : State) : Bool := (s.core k).marks.isEmpty

theorem marked_of_clean {k : CoreId} {s : State} (h : clean k s = true) : Marked k s := by
  have e : (s.core k).marks = [] := List.isEmpty_iff.mp h
  refine ⟨s.setCore k { s.core k with marks := [] }, ?_⟩
  unfold flushMarks
  rw [run_bind_ok run_getCore, e]
  rfl

/-- An instruction issues outside a HOLD region with no older access to wait for and no leaf to mark, and its decoding and the state after its fetch meet
`p`. -/
def issued (k : CoreId) (x : OpInfo) (e : Enc) (deny : State → Core → Inst → Bool) (s : State) (p : Inst → State → Bool) : Bool :=
  ran (beforeInstr k) (drainCore k s) fun _ b =>
    match decodeEnc (b.core k).pcc.mode x e with
    | .ok i => canExecute s k && encodingOf x e && ran (do newSlot k i.hold.isSome; fetch k i.len : Exec Unit) b fun _ u =>
        !(u.core k).swBit 23 && !deny u (u.core k) i &&
        (decide ((u.core k).level ≠ levelC) || !i.isDecimal || decide ((u.core k).thread = (u.core k).decOwner)) &&
        (!(i.release || i.atomic) || (((opened k i u).core k).longOps.isEmpty && !unperformed (opened k i u) k)) &&
        clean k (opened k i u) && p i u
    | .error _ => false

theorem awaitPrefix_ok {k : CoreId} {i : Inst} {s : State}
    (h : (!(i.release || i.atomic) || ((s.core k).longOps.isEmpty && !unperformed s k)) = true) :
    (awaitPrefix k i).run s = .ok () s := by
  unfold awaitPrefix
  cases hp : i.release || i.atomic
  · rfl
  · simp only [hp, Bool.not_true, Bool.false_or, Bool.and_eq_true, List.isEmpty_iff, Bool.not_eq_true'] at h
    have h1 : (awaitWrite k isMemDest).run s = .ok () s := by
      unfold awaitWrite
      rw [run_bind_ok run_getCore]
      simp only [Core.longWhere, h.1]
      rfl
    unfold awaitOlder
    rw [if_pos rfl, run_bind_ok h1, run_bind_ok run_get, h.2]
    rfl

theorem issued_elim {k : CoreId} {x : OpInfo} {e : Enc} {deny : State → Core → Inst → Bool} {s : State} {p : Inst → State → Bool}
    (h : issued k x e deny s p = true) : ∃ i u, Issues k x e deny s i u ∧ Marked k (opened k i u) ∧ p i u = true := by
  unfold issued at h
  obtain ⟨_, b, hb, h⟩ := ran_elim h
  have eb : begun k s = b := by unfold begun after; rw [hb]
  split at h
  · rename_i i hi
    simp only [Bool.and_eq_true] at h
    obtain ⟨⟨h1, h2⟩, h3⟩ := h
    obtain ⟨_, u, hu, h4⟩ := ran_elim h3
    simp only [Bool.and_eq_true] at h4
    obtain ⟨⟨⟨⟨⟨h5, h6⟩, h7⟩, h9⟩, h10⟩, h8⟩ := h4
    simp only [Bool.not_eq_true', Bool.or_eq_true, decide_eq_true_eq] at h5 h6 h7
    subst eb
    refine ⟨i, u, ⟨h1, h2, hb, hi, hu, by simp [h5], by simp [h5], h6, ?_, awaitPrefix_ok (by simpa using h9)⟩, marked_of_clean (by simpa using h10), h8⟩
    intro a b
    simpa [a, b] using h7
  · cases h

/-- Operand `n` of an instruction that issued can be read, and the value and state meet `p`. -/
def src (k : CoreId) (i : Inst) (u : State) (n : Nat) (v : State) (p : Nat → State → Bool) : Bool := ran ((ctxOf k i u).src n) v p

/-- Destination `n` can be written: its place and the state meet `p`. -/
def dst (k : CoreId) (i : Inst) (u : State) (n : Nat) (v : State) (p : Dest → State → Bool) : Bool := ran ((ctxOf k i u).dst n) v p

/-- A result can be written to destination `n`. -/
def put (k : CoreId) (i : Inst) (u : State) (n : Nat) (d : Dest) (r : Nat) (v : State) : Bool :=
  ran ((ctxOf k i u).put n d r) v fun _ v => clean k v

/-- A decimal operand can be read. -/
def srcDec (k : CoreId) (i : Inst) (u : State) (n : Nat) (v : State) (p : FVal → State → Bool) : Bool :=
  ran ((ctxOf k i u).srcDec n) v p

-- states

/-- Core 0 of grove 0 of East. -/
def kk : CoreId := ⟨.east, 0, 0⟩

/-- A core at level M that executes, with C1 at 0x4000_0100, C2 at 0x4000_0200 and X1 = 3, X2 = 5. -/
def coreM : Core := { Core.reset with
  run := .running, pcc := rootCap.moveTo 0x40000
  caps := (Core.reset.caps.set 1 (rootCap.moveTo 0x40000100)).set 2 (rootCap.moveTo 0x40000200)
  xs := (Core.reset.xs.set 1 3).set 2 5 }

/-- The same at another level. -/
def coreAt (level : Nat) : Core := { coreM with sw := putBits coreM.sw 22 21 level }

/-- Both halves in a mode, with one core of East. -/
def stateOf (m : Mode) (c : Core) : State :=
  { State.reset with east := { Half.reset with mode := m, cores := [(0, c)] }, west := { Half.reset with mode := m } }

def stM : State := stateOf .run coreM

/-- Specifiers: an X register, a C register, a memory operand at C1, at C2, an immediate. -/
def rg (n : BitVec 4) : Spec := ⟨0, n, 0, 0⟩
def cg (n : BitVec 4) : Spec := ⟨0xF, n, 0, 0⟩
def mem1 : Spec := ⟨4, 1, 0, 0⟩
def mem2 : Spec := ⟨4, 2, 0, 0⟩
def enc (ls : List Byte) (ops : List Spec) : Enc := ⟨ls.map fun b => ⟨b, 0⟩, 0, ops⟩

/-- A core at level S or C whose BTR 0 maps every address onto itself. -/
def coreV (level : Nat) : Core := { coreAt level with
  btr := coreM.btr.set 0 (BitVec.ofNat 128 (2 ^ 127 + 46 * 2 ^ 64 + (if level = levelC then 15 else 11) * 2 ^ 112)) }

/-- A package whose boundary table lets every class through by the default map. -/
def openTable (s : State) : State := (s.setFld .east Reg.BND_PRIV_PRIV (2 ^ 63 - 1)).setFld .west Reg.BND_PRIV_PRIV (2 ^ 63 - 1)

/-- The core at a level, with its table open. -/
def stV (c : Core) : State := openTable (stateOf .run c)

/-- A package in Run whose latch East's Warden holds. -/
def stRun : State := openTable { stateOf .run coreM with latch := some .east, leaseEnd := 1000, porst := true, wrst := true }

-- integer instructions (ArithmeticResult, MoveAndCompareResult, AtomicResult, DivideResult, MultiplyRule, ShiftRule)

def enc3 : Enc := enc [0xF2] [rg 1, rg 2, rg 3]
def enc3m : Enc := enc [0xF2] [mem1, rg 2, mem2]
def encA : Enc := enc [0xF2, 0xF7] [rg 1, mem2]

theorem witness_three : ([enc3, enc3m].all fun e => threeOperandRows.all fun r => issued kk r.1.2 e anyLevel stM fun i u =>
    !i.atomic && src kk i u 0 (opened kk i u) fun a v1 => src kk i u 1 v1 fun b v2 => dst kk i u 2 v2 fun d v3 =>
      put kk i u 2 d (r.2 i.w a b).1 v3) = true := by decide +kernel

theorem witness_carry : ([enc3, enc3m].all fun e => carryRows.all fun r => issued kk r.1.2 e anyLevel stM fun i u => !i.atomic &&
    ran (readFlag kk fC) (opened kk i u) fun c v0 => src kk i u 0 v0 fun a v1 => src kk i u 1 v1 fun b v2 =>
      dst kk i u 2 v2 fun d v3 => put kk i u 2 d (r.2 i.w a b (b2n c)).1 v3) = true := by decide +kernel

theorem witness_two : ([enc [0xF2] [rg 1, rg 3], enc [0xF2] [mem1, mem2]].all fun e => twoOperandRows.all fun r =>
    issued kk r.1.2 e anyLevel stM fun i u => src kk i u 0 (opened kk i u) fun a v1 => dst kk i u 1 v1 fun d v2 =>
      put kk i u 1 d (r.2 i a).1 v2) = true := by decide +kernel

theorem witness_clr : (issued kk clrRow (enc [0xF2] [mem1]) anyLevel stM fun i u =>
    dst kk i u 0 (opened kk i u) fun d v1 => put kk i u 0 d 0 v1) = true := by decide +kernel

theorem witness_inPlace : ([rg 1, mem1].all fun o => inPlaceRows.all fun r => issued kk r.1.2 (enc [0xF2] [o]) anyLevel stM fun i u =>
    !i.atomic && ran ((ctxOf kk i u).both 0) (opened kk i u) fun a v1 => put kk i u 0 a.2 (r.2 i.w a.1).1 v1) = true := by
  decide +kernel

theorem witness_xchg : (issued kk xchgRow (enc [0xF2] [rg 1, mem1]) anyLevel stM fun i u => !i.atomic &&
    ran ((ctxOf kk i u).both 0) (opened kk i u) fun a v1 => ran ((ctxOf kk i u).both 1) v1 fun b v2 =>
      ran ((ctxOf kk i u).write [(a.2, i.w / 8, b.1), (b.2, i.w / 8, a.1)]) v2 fun _ v => clean kk v) = true := by decide +kernel

theorem witness_compare : (compareRows.all fun r => issued kk r.1.2 (enc [0xF2] [rg 1, mem1]) anyLevel stM fun i u =>
    src kk i u 0 (opened kk i u) fun _ v1 => src kk i u 1 v1 fun _ v => clean kk v) = true := by decide +kernel

theorem witness_daa : (issued kk daaRow (enc [] [rg 1, rg 2]) anyLevel stM fun i u =>
    ran (readFlag kk fC) (opened kk i u) fun c v1 => ran (readFlag kk fH) v1 fun h v2 => ran (readFlag kk fD) v2 fun n v3 =>
      src kk i u 0 v3 fun a v4 => dst kk i u 1 v4 fun d v5 => put kk i u 1 d (daaRes a c h n).1 v5) = true := by decide +kernel

theorem witness_atomic : (atomicRows.all fun r => issued kk r.1.2 encA anyLevel stM fun i u => i.atomic &&
    src kk i u 0 (opened kk i u) fun a v1 => ran ((ctxOf kk i u).loc 1 false) v1 fun l v2 =>
      ran ((ctxOf kk i u).atomicRmw 1 a 0 l fun d => some (r.2 i.w d a).1) v2 fun _ v => clean kk v) = true := by decide +kernel

theorem witness_atomicStep : (inPlaceRows.all fun r => issued kk r.1.2 (enc [0xF2, 0xF7] [mem1]) anyLevel stM fun i u => i.atomic &&
    ran ((ctxOf kk i u).locBoth 0) (opened kk i u) fun l v1 =>
      ran ((ctxOf kk i u).atomicRmw 0 1 0 l fun d => some (r.2 i.w d).1) v1 fun _ v => clean kk v) = true := by decide +kernel

theorem witness_atomicXchg : (issued kk xchgRow (enc [0xF2, 0xF7] [rg 1, mem2]) anyLevel stM fun i u => i.atomic &&
    isMemMode ((ctxOf kk i u).op 1).1.mode.toNat && ran ((ctxOf kk i u).both 0) (opened kk i u) fun a v1 =>
      ran ((ctxOf kk i u).locBoth 1) v1 fun l v2 => ran ((ctxOf kk i u).atomicRmw 1 a.1 0 l fun _ => some a.1) v2 fun old v3 =>
        ran ((ctxOf kk i u).write [(a.2, i.w / 8, old)]) v3 fun _ v => clean kk v) = true := by decide +kernel

theorem witness_atomicXchgReg : (issued kk xchgRow (enc [0xF2, 0xF7] [mem1, rg 1]) anyLevel stM fun i u => i.atomic &&
    !isMemMode ((ctxOf kk i u).op 1).1.mode.toNat && ran ((ctxOf kk i u).locBoth 0) (opened kk i u) fun l v1 =>
      ran ((ctxOf kk i u).both 1) v1 fun a v2 => ran ((ctxOf kk i u).atomicRmw 0 a.1 0 l fun _ => some a.1) v2 fun old v3 =>
        ran ((ctxOf kk i u).write [(a.2, i.w / 8, old)]) v3 fun _ v => clean kk v) = true := by decide +kernel

/-- In a register INC has no memory destination, so F7 is refused (reason 3); in mode E it has one (R61, Table 3.5). -/
theorem test_atomicModes : decodeEnc false incRow (enc [0xF7] [rg 1]) = .error ⟨0, 3, 3⟩ ∧
    (decodeEnc false incRow (enc [0xF7] [⟨0xE, 0, 0, 0⟩])).toOption.isSome = true ∧
    decodeEnc false addRow (enc [0xF7] [rg 1, rg 2]) = .error ⟨3, 5, 4⟩ := by decide +kernel

theorem witness_cas : (issued kk casRow (enc [0xF2] [mem1, rg 2, rg 3]) anyLevel stM fun i u =>
    ran ((ctxOf kk i u).loc 0 false) (opened kk i u) fun l v1 => src kk i u 1 v1 fun new v2 =>
      ran (readX kk ((ctxOf kk i u).op 2).1.reg.toNat) v2 fun want v3 =>
        ran ((ctxOf kk i u).atomicRmw 0 new (want % 2 ^ i.w) l fun v => if v = want % 2 ^ i.w then some new else none) v3 fun old v4 =>
          ran (writeX kk ((ctxOf kk i u).op 2).1.reg.toNat i.w old) v4 fun _ v => clean kk v) = true := by decide +kernel

/-- A core whose SW has DZE = 1. -/
def coreZ : Core := { coreM with sw := putBits coreM.sw 19 19 1 }

theorem witness_divide : (divideRows.all fun r => issued kk r.1.2 enc3 anyLevel stM fun i u => src kk i u 0 (opened kk i u) fun a v1 =>
    src kk i u 1 v1 fun b v2 => dst kk i u 2 v2 fun d v3 => !isBulk v3 kk && decide (b % 2 ^ i.w ≠ 0) &&
      ran ((ctxOf kk i u).write [(d, i.w / 8, (r.2 i.w a b).1)]) (countLong kk v3) fun _ v => clean kk v) = true := by decide +kernel

theorem witness_divideZero : ([coreM, coreZ].all fun c => divideRows.all fun r =>
    issued kk r.1.2 (enc [0xF2] [rg 1, rg 4, rg 3]) anyLevel (stateOf .run c) fun i u => src kk i u 0 (opened kk i u) fun _ v1 =>
      src kk i u 1 v1 fun b v2 => dst kk i u 2 v2 fun _ v3 => !isBulk v3 kk && decide (b % 2 ^ i.w = 0) &&
        (v3.core kk).swBit 19 == decide (c = coreZ)) = true := by decide +kernel

/-- The rows of the two stated rules with a result that Table 4.4 or R85 gives for 3 and 5 at 32 bits. -/
theorem witness_rules : ([((Instr.mul, mulRow) : InstrRow), (.mulsH, mulsHRow), (.muluH, muluHRow), (.shl, shlRow), (.shr, shrRow),
    (.sar, sarRow), (.rol, rolRow), (.ror, rorRow)].all fun r => issued kk r.2 enc3 anyLevel stM fun i u => !i.atomic &&
      src kk i u 0 (opened kk i u) fun a v1 => src kk i u 1 v1 fun b v2 => dst kk i u 2 v2 fun d v3 =>
        decide (a = 3 ∧ b = 5 ∧ i.w = 32) && put kk i u 2 d 0 v3) = true := by decide +kernel

theorem witness_shl : ShiftGives (.shl, shlRow) 8 0x81 1 2 true (some true) ∧ ShiftGives (.shl, shlRow) 8 0x81 8 0 true (some true) ∧
    ShiftGives (.shl, shlRow) 8 0x81 9 0 true (some false) ∧ ShiftGives (.shl, shlRow) 8 0x81 0 0x81 false none := by
  unfold ShiftGives
  refine ⟨.inl ⟨rfl, ?_⟩, .inl ⟨rfl, ?_⟩, .inl ⟨rfl, ?_⟩, .inl ⟨rfl, ?_⟩⟩ <;> decide +kernel

theorem witness_shr : ShiftGives (.shr, shrRow) 8 0x81 1 0x40 false (some true) ∧ ShiftGives (.shr, shrRow) 8 0x81 8 0 false (some true) ∧
    ShiftGives (.shr, shrRow) 8 0x81 9 0 false (some false) ∧ ShiftGives (.shr, shrRow) 8 0x81 0 0x81 false none := by
  unfold ShiftGives
  refine ⟨.inr (.inl ⟨rfl, ?_⟩), .inr (.inl ⟨rfl, ?_⟩), .inr (.inl ⟨rfl, ?_⟩), .inr (.inl ⟨rfl, ?_⟩)⟩ <;> decide +kernel

theorem witness_sar : ShiftGives (.sar, sarRow) 8 0x81 1 0xC0 false (some true) ∧ ShiftGives (.sar, sarRow) 8 0x81 8 0xFF false (some true) ∧
    ShiftGives (.sar, sarRow) 8 0x81 0 0x81 false none := by
  unfold ShiftGives
  refine ⟨.inr (.inr (.inl ⟨rfl, ?_⟩)), .inr (.inr (.inl ⟨rfl, ?_⟩)), .inr (.inr (.inl ⟨rfl, ?_⟩))⟩ <;> decide +kernel

theorem witness_rotate : ShiftGives (.rol, rolRow) 8 0x81 9 0x03 false (some true) ∧ ShiftGives (.rol, rolRow) 8 0x81 8 0x81 false none ∧
    ShiftGives (.ror, rorRow) 8 0x81 9 0xC0 false (some true) ∧ ShiftGives (.ror, rorRow) 8 0x81 8 0x81 false none := by
  unfold ShiftGives
  refine ⟨.inr (.inr (.inr (.inl ⟨rfl, ?_⟩))), .inr (.inr (.inr (.inl ⟨rfl, ?_⟩))), .inr (.inr (.inr (.inr ⟨rfl, ?_⟩))),
    .inr (.inr (.inr (.inr ⟨rfl, ?_⟩)))⟩ <;> decide +kernel

/-- The products of 0xFE and 3 at 8 bits: −2 × 3 = −6 fits, 254 × 3 does not; high bytes 0xFF and 2. -/
theorem witness_products : signedOf 8 0xFE * signedOf 8 3 = -6 ∧ 0xFA = 0xFE * 3 % 2 ^ 8 ∧ 2 ^ 8 ≤ 0xFE * 3 ∧
    ((0xFF : Nat) : Int) = (signedOf 8 0xFE * signedOf 8 3) / 2 ^ 8 % 2 ^ 8 ∧ 2 = 0xFE * 3 / 2 ^ 8 := by decide +kernel

theorem witness_registerForm : (threeOperandRows.all fun r => issued kk r.1.2 (enc [0xF2] [⟨3, 0, 0, 7⟩, ⟨2, 5, 0, 0⟩, rg 3]) anyLevel stM
    fun i u => !i.atomic && i.hold.isNone && decide ((u.core kk).run ≠ .held ∧ (u.core kk).longOps = [] ∧ (u.core kk).imprecise = []) &&
      directValue (u.core kk) (ctxOf kk i u) 0 == some 7 && directValue (u.core kk) (ctxOf kk i u) 1 == some 5 &&
        ((ctxOf kk i u).op 2).1.mode == 0 && ((ctxOf kk i u).op 2).1.reg == 3) = true := by decide +kernel

theorem witness_storeFrame : (twoOperandRows.all fun r => issued kk r.1.2 (enc [0xF2] [rg 1, mem2]) anyLevel stM fun i u =>
    src kk i u 0 (opened kk i u) fun _ v1 => dst kk i u 1 v1 fun d v2 => match d with
      | .mem _ ps => !(v2.core kk).restartable && decide ((v2.core kk).run ≠ .held ∧ (v2.core kk).longOps = [] ∧ (v2.core kk).imprecise = []) &&
        ps.all fun p => !p.remote && p.leaf.isNone && match homeOf v2 kk.half p.phys with
          | some (h, _) => (v2.half h).mem.poison.isEmpty && (v2.half h).mem.ue.isEmpty && (v2.half h).mem.ce.isEmpty
          | none => false
      | _ => false) = true := by decide +kernel

-- floating and packed decimal, long operations (FloatResult, FloatTrap, PackedResult, LongOperation)

/-- Whether an operation that may come after issue ends now and untrapped, and its result can be written. -/
def ends (i : Inst) (v : State) (d : Dest) (n r raised : Nat) : Bool :=
  decide (nbits (v.core kk).dsr.toNat 12 8 &&& raised = 0) && !isBulk v kk &&
    ran ((ctxOf kk i v).write [(d, n, r)]) (countLong kk v) fun _ v => clean kk v

def dg (n : BitVec 4) : Spec := ⟨1, n, 0, 0⟩

/-- D1 = 1 and D2 = 3 in decimal128. -/
def coreD : Core := { coreM with
  ds := (coreM.ds.set 1 (BitVec.ofNat 128 (toBid true (.fin false 1 0)))).set 2 (BitVec.ofNat 128 (toBid true (.fin false 3 0))) }

def stD : State := stateOf .run coreD

/-- The same with every exception of DSR enabled. -/
def stX : State := stateOf .run { coreD with dsr := 0x1F00 }

theorem witness_decimal : (decimalRows.all fun r => issued kk r.1.2 (enc [0xF5] [dg 1, dg 2, dg 3]) anyLevel stD fun i u =>
    srcDec kk i u 0 (opened kk i u) fun a v1 => srcDec kk i u 1 v1 fun b v2 => dst kk i u 2 v2 fun d v3 =>
      ends i v3 d (i.size .dec) (toBid i.wide (r.2 (decFmt i.wide) (dsrMode kk v3) a b).1)
        (r.2 (decFmt i.wide) (dsrMode kk v3) a b).2) = true := by decide +kernel

theorem witness_binary : (binaryRows.all fun r => issued kk r.1.2 (enc [] [dg 1, dg 2, dg 3]) anyLevel stD fun i u =>
    src kk i u 0 (opened kk i u) fun a v1 => src kk i u 1 v1 fun b v2 => dst kk i u 2 v2 fun d v3 =>
      ends i v3 d 16 (binPair r.2 (dsrMode kk v3) a b).1 (binPair r.2 (dsrMode kk v3) a b).2) = true := by decide +kernel

/-- One source and one destination of a conversion, and what it writes. -/
def converts (row : OpInfo) (s2 : Spec) (f : Inst → FMode → FVal → Nat × Nat × Nat) : Bool :=
  issued kk row (enc (if row.widths = .none then [] else [0xF5]) [dg 1, s2]) anyLevel stD fun i u =>
    srcDec kk i u 0 (opened kk i u) fun a v1 => dst kk i u 1 v1 fun d v2 =>
      ends i v2 d (f i (dsrMode kk v2) a).1 (f i (dsrMode kk v2) a).2.1 (f i (dsrMode kk v2) a).2.2

theorem witness_drnd : converts drndRow (dg 3) (fun i m a =>
    (i.size .dec, toBid i.wide (fIntegral (decFmt i.wide) m a).1, (fIntegral (decFmt i.wide) m a).2)) = true := by decide +kernel

theorem witness_dcvtw : converts dcvtwRow (dg 3) (fun i m a =>
    (i.size .decOther, toBid (!i.wide) (fDecToDec (decFmt (!i.wide)) m a).1, (fDecToDec (decFmt (!i.wide)) m a).2)) = true := by
  decide +kernel

theorem witness_fcvtb : converts fcvtbRow (dg 3) (fun _ m a => (16, toBin64 (fDecToBin m a).1, (fDecToBin m a).2)) = true := by
  decide +kernel

theorem witness_dcvti : converts dcvtiRow (rg 3) (fun _ m a => (8, toInteger m a)) = true := by decide +kernel

/-- CVTDP of 1, which fits one byte, and of a value that does not. -/
theorem witness_cvtdp : ([(stD, false), (stateOf .run { coreD with ds := coreD.ds.set 1 (BitVec.ofNat 128 (toBid true (.fin false 12345 0))) },
    true)].all fun q => issued kk cvtdpRow ⟨[⟨0xF5, 0⟩], 0x01, [dg 1, mem2]⟩ anyLevel q.1 fun i u =>
      srcDec kk i u 0 (opened kk i u) fun a v1 => dst kk i u 1 v1 fun _ v2 =>
        decide (nbits (v2.core kk).dsr.toNat 12 8 = 0) && !isBulk v2 kk && match fToInt 10 (dsrMode kk v2).rm a with
          | some (m, _) => packedOver i.packLo m == q.2
          | none => false) = true := by decide +kernel

theorem witness_fromInteger : (issued kk dcvtfRow (enc [0xF5] [rg 1, dg 3]) anyLevel stD fun i u =>
    src kk i u 0 (opened kk i u) fun a v1 => dst kk i u 1 v1 fun d v2 =>
      ends i v2 d (i.size .dec) (toBid i.wide (fOfInt (decFmt i.wide) (dsrMode kk v2) (signedOf 64 a)).1)
        (fOfInt (decFmt i.wide) (dsrMode kk v2) (signedOf 64 a)).2) = true := by decide +kernel

theorem witness_fcvtd : (issued kk fcvtdRow (enc [0xF5] [dg 4, dg 3]) anyLevel stD fun i u =>
    src kk i u 0 (opened kk i u) fun a v1 => dst kk i u 1 v1 fun d v2 =>
      ends i v2 d (i.size .dec) (toBid i.wide (fBinToDec (decFmt i.wide) (dsrMode kk v2) (ofBin64 (a % 2 ^ 64))).1)
        (fBinToDec (decFmt i.wide) (dsrMode kk v2) (ofBin64 (a % 2 ^ 64))).2) = true := by decide +kernel

/-- C1 points at the packed number 12+ (two bytes), C2 at 3− (two bytes). -/
def stP : State := { stD with east := { stD.east with
  mem := ((stD.east.mem.put 0x40000100 [0x01, 0x2C]).1.put 0x40000200 [0x00, 0x3D]).1 } }

theorem witness_cvtpd : (issued kk cvtpdRow ⟨[⟨0xF5, 0⟩], 0x10, [mem1, dg 3]⟩ anyLevel stP fun i u =>
    ran ((ctxOf kk i u).load 0) (opened kk i u) fun bs v1 => dst kk i u 1 v1 fun d v2 => packedOk bs &&
      ends i v2 d (i.size .dec) (toBid i.wide (fOfInt (decFmt i.wide) (dsrMode kk v2) (packedValue bs)).1)
        (fOfInt (decFmt i.wide) (dsrMode kk v2) (packedValue bs)).2) = true := by decide +kernel

theorem witness_dcmp : (issued kk dcmpRow (enc [0xF5] [dg 1, dg 2]) anyLevel stD fun i u =>
    srcDec kk i u 0 (opened kk i u) fun a v1 => srcDec kk i u 1 v1 fun b v2 =>
      decide (nbits (v2.core kk).dsr.toNat 12 8 &&& (fCompare 10 a b).2 = 0)) = true := by decide +kernel

theorem witness_fcmp : (issued kk fcmpRow (enc [] [dg 4, dg 5]) anyLevel stD fun i u =>
    src kk i u 0 (opened kk i u) fun _ v1 => src kk i u 1 v1 fun _ v2 =>
      decide (nbits (v2.core kk).dsr.toNat 12 8 = 0) && !isBulk v2 kk) = true := by decide +kernel

theorem witness_sign : (signRows.all fun r => issued kk r.1.2 (enc [0xF5] [dg 1, dg 3]) anyLevel stD fun i u =>
    srcDec kk i u 0 (opened kk i u) fun a v1 => dst kk i u 1 v1 fun d v2 => put kk i u 1 d (toBid i.wide (withSign r.2 a)) v2) = true := by
  decide +kernel

/-- 1 ÷ 3 is inexact, and the enabled exception traps. -/
theorem witness_floatTrap : (issued kk ddivRow (enc [0xF5] [dg 1, dg 2, dg 3]) anyLevel stX fun i u =>
    srcDec kk i u 0 (opened kk i u) fun a v1 => srcDec kk i u 1 v1 fun b v2 => dst kk i u 2 v2 fun _ v3 =>
      decide ((fDiv (decFmt i.wide) (dsrMode kk v3) a b).2 < 32) && !isBulk v3 kk &&
        decide (nbits (v3.core kk).dsr.toNat 12 8 &&& (fDiv (decFmt i.wide) (dsrMode kk v3) a b).2 ≠ 0)) = true := by decide +kernel

theorem witness_packed : (packedRows.all fun r => issued kk r.1.2 ⟨[], 0x11, [mem1, mem2]⟩ anyLevel stP fun i u =>
    ran ((ctxOf kk i u).load 0) (opened kk i u) fun a v1 => ran ((ctxOf kk i u).both 1) v1 fun b v2 =>
      packedOk a && packedOk (leBytes i.packLo b.1) && decide (i.packHi = 2 ∧ i.packLo = 2) &&
        ran ((ctxOf kk i u).write [(b.2, i.packLo,
          leNat (packedBytes i.packLo (r.2 (packedValue (leBytes i.packLo b.1)) (packedValue a))))]) v2 fun _ v => clean kk v) = true := by
  decide +kernel

theorem witness_cmpp : (issued kk cmppRow ⟨[], 0x11, [mem1, mem2]⟩ anyLevel stP fun i u =>
    ran ((ctxOf kk i u).load 0) (opened kk i u) fun a v1 => ran ((ctxOf kk i u).load 1) v1 fun b v2 =>
      packedOk a && packedOk b && decide (packedValue a = 12 ∧ packedValue b = -3) && !isBulk v2 kk) = true := by decide +kernel

theorem witness_cvtpb : (issued kk cvtpbRow ⟨[⟨0xF2, 0⟩], 0x10, [mem1, rg 3]⟩ anyLevel stP fun i u =>
    ran ((ctxOf kk i u).load 0) (opened kk i u) fun a v1 => dst kk i u 1 v1 fun d v2 => packedOk a &&
      ran ((ctxOf kk i u).write [(d, i.w / 8, (cvtpbRes i.w (packedValue a)).1)]) v2 fun _ v => clean kk v) = true := by decide +kernel

theorem witness_cvtbp : (issued kk cvtbpRow ⟨[⟨0xF2, 0⟩], 0x01, [rg 1, mem2]⟩ anyLevel stP fun i u =>
    src kk i u 0 (opened kk i u) fun a v1 => dst kk i u 1 v1 fun d v2 =>
      ran ((ctxOf kk i u).write [(d, i.packLo, leNat (packedBytes i.packLo (signedOf i.w a)))]) v2 fun _ v => clean kk v) = true := by
  decide +kernel

theorem witness_longIssue : (divideRows.all fun r => issued kk r.1.2 (enc [0xF3] [rg 1, rg 2, rg 3]) anyLevel
    (stateOf .run { coreM with thread := some 7, control := false }) fun i u => src kk i u 0 (opened kk i u) fun _ v1 =>
      src kk i u 1 v1 fun b v2 => dst kk i u 2 v2 fun d v3 => decide (i.w = 64 ∧ (v3.core kk).longOps = [] ∧ b = 5) &&
        isBulk v3 kk && match d with | .x n => n == 3 | _ => false) = true := by decide +kernel

/-- Long operations with an X destination, a D destination and a fault. -/
def stLong : State := stateOf .run { coreM with longOps :=
  [⟨1, 0x43, 0, .x 3 64, 1, [1], [(fZ, true)], 0, none, false⟩, ⟨2, 0xC0, 0, .d 2, 1, [], [], 1, none, false⟩,
   ⟨3, 0xC3, 0, .d 2, 1, [], [], 4, some 13, false⟩, ⟨4, 0x43, 0, .mem [], 1, [1], [], 0, none, false⟩, ⟨5, 0x43, 0, .none, 1, [1], [], 0, none, false⟩] }

theorem witness_longEnd : ((stLong.core kk).longOps.map fun o => (o.dest, o.faultVec)) =
    [(.x 3 64, none), (.d 2, none), (.d 2, some 13), (.mem [], none), (.none, none)] := by decide +kernel

-- capabilities (CapabilityResult, CapabilityMoveResult)

/-- C3 = an unsealed capability for [0x40000100, 0x40000200), C4 = a sealed one, C5 = an authority for brand 5. -/
def coreC : Core := { coreM with caps :=
  ((coreM.caps.set 3 ((rootCap.moveTo 0x40000100))).set 4 ((rootCap.moveTo 0x40000100).put 115 104 5)).set 5 (rootCap.moveTo 5) }

def stC : State := stateOf .run coreC

/-- An instruction issues there, and its register operands meet `p`. -/
def capWitness (row : OpInfo) (ops : List Spec) (p : Inst → State → Bool) : Bool :=
  issued kk row (enc [] ops) anyLevel stC fun i u => p i (opened kk i u)

theorem witness_capCopy : (capWitness ccopyRow [cg 3, cg 6] (fun _ _ => true) && capWitness cvoidRow [cg 3, cg 6] (fun _ _ => true) &&
    capWitness csentRow [cg 3, cg 6] fun i v => ((v.core kk).cReg (regAtOp i 0)).tag &&
      ((v.core kk).cReg (regAtOp i 0)).otype == 0 && ((v.core kk).cReg (regAtOp i 0)).has permEX) = true := by decide +kernel

theorem witness_capDerive : ([cstepRow, cplaceRow, cdropRow, cmodeRow, cfitRow, cfitxRow].all fun r =>
    capWitness r [cg 3, rg 1, cg 6] fun i v => src kk i v 1 v fun a _ =>
      let c := (v.core kk).cReg (regAtOp i 0)
      c.tag && c.otype == 0 && !c.sealed && c.has permEX && match fitRange c.cursor a with
        | some f => decide (c.base ≤ (f.base : Int) ∧ (f.top : Int) ≤ c.top ∧ f.base = c.cursor ∧ f.top = c.cursor + a)
        | none => false) = true := by decide +kernel

theorem witness_brand : (capWitness cbrandRow [cg 3, cg 5, cg 6] fun i v =>
    let c := (v.core kk).cReg (regAtOp i 0)
    let a := (v.core kk).cReg (regAtOp i 1)
    c.tag && c.otype == 0 && decide (a.tag ∧ a.otype = 0 ∧ a.has permSE ∧ a.node = 511 ∧ a.base ≤ (a.cursor : Int) ∧
      (a.cursor : Int) < a.top ∧ 1 ≤ a.cursor ∧ a.cursor ≤ 0xFFE)) = true := by decide +kernel

theorem witness_unbrand : (capWitness cunbrRow [cg 4, cg 5, cg 6] fun i v =>
    let c := (v.core kk).cReg (regAtOp i 0)
    let a := (v.core kk).cReg (regAtOp i 1)
    c.tag && decide (1 ≤ c.otype ∧ c.otype ≤ 0xFFE ∧ a.tag ∧ a.otype = 0 ∧ a.has permUS ∧ a.node = 511 ∧
      a.base ≤ (a.cursor : Int) ∧ (a.cursor : Int) < a.top ∧ a.cursor = c.otype)) = true := by decide +kernel

theorem witness_fields : (fieldRows.all fun r => issued kk r.1.2 (enc [] [cg 3, rg 4]) anyLevel stC fun i u =>
    dst kk i u 1 (opened kk i u) fun d v1 =>
      put kk i u 1 d (r.2 (((opened kk i u).core kk).cReg (regAtOp i 0))) v1) = true := by decide +kernel

theorem witness_cldc : (issued kk cldcRow (enc [] [mem1, cg 6]) anyLevel stC fun i u =>
    ran ((ctxOf kk i u).loc 0 false) (opened kk i u) fun l v1 => ran (resolve kk l.cap l.ea 16 .read true 0) v1 fun ps v2 =>
      ran (loadParts kk l.cap true 0 ps) v2 fun _ v => clean kk v) = true := by decide +kernel

theorem witness_cstc : (issued kk cstcRow (enc [] [cg 3, mem1]) anyLevel stC fun i u =>
    let c := ((opened kk i u).core kk).cReg (regAtOp i 0)
    ran ((ctxOf kk i u).loc 1 true) (opened kk i u) fun l v1 => ran (resolve kk l.cap l.ea 16 .write true 1 c) v1 fun ps v2 =>
      c.tag && l.cap.has permSC && c.has permGL && (ps.all fun p => p.te && !p.remote) &&
        ran (putAll kk [ps.map fun p => ⟨p, l.cap, c.bytes, c.tag, true, i.release⟩]) v2 fun _ v => clean kk v) = true := by decide +kernel

-- control (TransferResult, ReturnResult, TrapInstructionResult, TrapEntry)

theorem witness_branch : ([(0, 8), (14, 8), (15, 8)].all fun (q : BitVec 4 × BitVec 32) =>
    issued kk (bccRow q.1 false) ⟨[], q.2, []⟩ anyLevel stM fun i u =>
      ran (readSW kk) (opened kk i u) fun _ v => clean kk v) = true := by decide +kernel

theorem witness_brl : issued kk brlRow ⟨[], 8, []⟩ anyLevel stM (fun _ _ => true) = true := by decide +kernel

/-- C1 is a jump target, and a call can push. -/
theorem witness_jump : ([jmpRow, callRow].all fun r => issued kk r (enc [] [cg 1]) anyLevel stM fun i u =>
    let c := ((opened kk i u).core kk).cReg (regAtOp i 0)
    decide (c.tag ∧ c.otype = 0 ∧ c.has permEX ∧ c.node = 511) && ran (readSW kk) (opened kk i u) fun sw v =>
      ran (pushFrame kk (callFrame kk i u sw (v.core kk))) v fun _ v => clean kk v) = true := by decide +kernel

theorem witness_jumpAbsolute : ([jmpaRow, callaRow].all fun r => issued kk r (enc [0xF2] [rg 1]) anyLevel stM fun i u =>
    src kk i u 0 (opened kk i u) fun _ v => ran (readSW kk) v fun sw v' =>
      ran (pushFrame kk (callFrame kk i u sw (v'.core kk))) v' fun _ v => clean kk v) = true := by decide +kernel

theorem witness_callRelative : ([callrRow, callrlRow].all fun r => issued kk r ⟨[], 8, []⟩ anyLevel stM fun i u =>
    ran (readSW kk) (opened kk i u) fun sw v => ran (pushFrame kk (callFrame kk i u sw (v.core kk))) v fun _ v => clean kk v) = true := by
  decide +kernel

/-- A core at level S with one frame on its return stack. -/
def stFrame (kind : Nat) (irqs : List (Nat × Word)) : State :=
  stV { coreV levelS with
    rstack := [⟨rootCap.moveTo 0x40100, swImage kind false 0 (nbits (coreV levelS).sw.toNat 31 0 + 2 ^ 20), 0⟩]
    irqs := irqs }

theorem witness_ret : (issued kk retRow (enc [] []) anyLevel (stFrame kindCall []) fun i u =>
    ran (topFrame kk) (opened kk i u) fun f v => decide (f.kind = kindCall ∧ f.level = (v.core kk).level)) = true := by decide +kernel

theorem witness_reti : ([[], [(40, 0)]].all fun q => issued kk retiRow (enc [] []) notAtC (stFrame kindTrap q) fun i u =>
    decide (((opened kk i u).core kk).longOps = [] ∧ ((opened kk i u).core kk).level ≠ levelM) &&
      ran (topFrame kk) (opened kk i u) fun f v => f.kind == kindTrap && !levelTooHigh ((opened kk i u).core kk) f &&
        (nextIrq (((after (retire (ctxOf kk i u) true) v).core kk).returnTo f)).isSome == !q.isEmpty) = true := by decide +kernel

theorem witness_retiM : (issued kk retiRow (enc [] []) notAtC (stateOf .run { coreM with
      mstack := [⟨rootCap.moveTo 0x40100, swImage kindTrap false 23 (nbits coreM.sw.toNat 31 0), 1⟩] }) fun i u =>
    decide (((opened kk i u).core kk).longOps = [] ∧ ((opened kk i u).core kk).level = levelM) &&
      match ((opened kk i u).core kk).mstack with
      | f :: _ => !levelTooHigh ((opened kk i u).core kk) f
      | [] => false) = true := by decide +kernel

theorem witness_traps : (issued kk svcRow (enc [] [rg 1]) (fun _ c _ => c.level == levelM) (stV (coreV levelC)) fun i u =>
      src kk i u 0 (opened kk i u) fun a v => enteredVector ((takeTrap kk 22 (BitVec.ofNat 64 a) (ctxOf kk i u).next
        (after (retire (ctxOf kk i u) true) v)).core kk) == some 22) = true ∧
    (issued kk mcallRow (enc [] [rg 1]) (fun _ c _ => c.level != levelS) (stV (coreV levelS)) fun i u =>
      src kk i u 0 (opened kk i u) fun a v => enteredVector ((takeTrap kk 23 (BitVec.ofNat 64 a) (ctxOf kk i u).next
        (after (retire (ctxOf kk i u) true) v)).core kk) == some 23) = true ∧
    (issued kk bptRow (enc [] []) anyLevel (stV (coreV levelC)) fun i u =>
      enteredVector ((takeTrap kk 20 0 (ctxOf kk i u).next (after (retire (ctxOf kk i u) true) (opened kk i u))).core kk) == some 20) = true := by
  decide +kernel

/-- The last room of each return stack: 31 of 32 frames at level S, 7 of 8 at level M. -/
theorem witness_entry : ([(levelS, 31, 0), (levelM, 0, 7)].all fun (q : Nat × Nat × Nat) =>
    let c : Core := { coreV q.1 with rstack := List.replicate q.2.1 ⟨rootCap, 0, 0⟩, mstack := List.replicate q.2.2 ⟨rootCap, 0, 0⟩ }
    c.run != .held && c.longOps.isEmpty && c.imprecise.isEmpty && decide (c.level = q.1 ∧ c.rstack.length < 32 ∧ c.mstack.length < 8)) = true := by
  decide +kernel

-- status word, system registers, barriers, the escape page, WAIT (SystemStateResult, PlainAndEscapeResult, WaitResult, DsrWriteRule)

theorem witness_plain : (issued kk nopRow (enc [] []) anyLevel stM (fun _ _ => true) &&
    (issued kk fenceRow (enc [] []) anyLevel stM fun i u => (((opened kk i u).core kk).longWhere isMemDest).isNone) &&
    (issued kk fenceERow (enc [] []) anyLevel stM fun i u =>
      ((opened kk i u).core kk).longOps.isEmpty && ((opened kk i u).core kk).imprecise.isEmpty) &&
    issued kk eiRow (enc [] []) notAtC stM (fun _ _ => true) && issued kk diRow (enc [] []) notAtC stM (fun _ _ => true)) = true := by
  decide +kernel

theorem witness_status : (issued kk rdswRow (enc [] [rg 3]) anyLevel stM fun i u => ran (readSW kk) (opened kk i u) fun sw v =>
      dst kk i u 0 v fun d v1 => put kk i u 0 d sw.toNat v1) = true ∧
    (issued kk wrswRow (enc [] [rg 1]) anyLevel stM fun i u => src kk i u 0 (opened kk i u) fun _ v => clean kk v) = true := by
  decide +kernel

theorem witness_sysRead : ([0, 1, 3, 0x10, 0x1F].all fun (n : BitVec 32) => issued kk rdsrRow ⟨[], n, [rg 3]⟩ sysDenied stM fun i u =>
    ran (sysRead kk (i.fixed % 256)) (opened kk i u) fun a v => dst kk i u 0 v fun d v1 => put kk i u 0 d a v1) = true := by
  decide +kernel

/-- A value that a register takes, and one that it refuses. -/
theorem witness_sysWrite : ([((3 : BitVec 32), (4 : Nat), true), (3, 5, false), (3, 7, false)].all fun q =>
    issued kk wrsrRow ⟨[], q.1, [⟨3, 0, 0, BitVec.ofNat 64 (q.2.1 * 2 ^ 16)⟩]⟩ sysDenied (stV (coreV levelS)) fun i u =>
      i.fixed % 256 == 3 && ran (readDsr kk) (opened kk i u) (fun _ _ => true) && src kk i u 0 (opened kk i u) fun a v =>
        decide (a < 2 ^ 64 ∧ nbits a 18 16 = q.2.1) && (sysWrite v kk 3 a).isSome == q.2.2) = true := by decide +kernel

theorem witness_sysCap : (issued kk rdscRow ⟨[], 2, [cg 3]⟩ sysDenied stM (fun _ _ => true) &&
    issued kk wrscRow ⟨[], 2, [cg 3]⟩ sysDenied stM (fun _ _ => true)) = true := by decide +kernel

theorem witness_escape : (([tlbiRow, tlbikRow].all fun r => issued kk r (enc [] [rg 1]) notAtC stM fun i u =>
      src kk i u 0 (opened kk i u) fun a _ => decide (a ≤ 15)) &&
    ([(⟨2, 9, 0, 0⟩, false), (⟨2, 2, 0, 0⟩, true)] : List (Spec × Bool)).all fun q => issued kk pmcrdRow (enc [] [q.1, rg 3])
      (fun s c _ => c.level == levelC && !s.flag kk.half (Reg.GRV_MODE_CEN.grove kk.grove.val)) stM fun i u =>
        src kk i u 0 (opened kk i u) fun a v => decide (a ≤ 15) && openCounter (isPaced v kk) a == q.2 && dst kk i u 1 v fun d v1 =>
          put kk i u 1 d 0 v1) = true ∧
    (issued kk tlbiaRow (enc [] []) notAtC stM (fun _ _ => true) && issued kk wciRow (enc [] []) notAtC stM (fun _ _ => true)) = true := by
  decide +kernel

theorem witness_wait : (issued kk waitRow (enc [] []) (fun _ c _ => c.level == levelM) (stV (coreV levelS)) fun i u =>
    !((opened kk i u).core kk).swBit 23 && ((opened kk i u).core kk).longOps.isEmpty &&
      ((opened kk i u).core kk).imprecise.isEmpty && !unperformed (opened kk i u) kk && ran (spillAll kk) (opened kk i u) fun ps v =>
        (match (v.core kk).thread with | some t => ran (checkRecord kk t) v fun _ w => decide (w.core kk = v.core kk) | none => true) &&
        ran (putUnpaced kk ps) v fun _ v => ran (retire (ctxOf kk i u) true) v fun _ v => clean kk v) = true := by
  decide +kernel

-- commands that access set-up registers (CommandRegisterResult, RegisterWriteResult, SpecialAccessResult, RefusedWrites)

/-- A step of a core that still hands over an effect. -/
theorem witness_handed : (let s := stateOf .run { coreM with handed := [⟨.remote, 0x40000100, [], 0, 0, rootCap, none, 0, 7, 0, false, 0, 5⟩] }
    decide ((s.core kk).run = .running) && !(s.core kk).handed.isEmpty) = true := by decide +kernel

/-- East's Warden (MID 0x44) may write each command register. -/
theorem witness_commandWrites : ([(4, 0x20), (4, 0x18), (6, 0x40), (8, 0x38), (9, 0x18), (0x0A, 0x40), (5, 0), (5, 0x38), (0x0C, 0x30),
    (0x0C, 0x50), (0x0B, 8), (0x0F, 8), (0x0F, 0xA0), (0x11, 0x18), (2, 0x28), (3, 0x28), (0x13, 0x28), (0x13, 0x30)].all fun q =>
      masterRuns stRun .east 0x44 && check stRun .east 0x44 .write (regAddr q.1 q.2) 8 == .allow) = true := by decide +kernel

theorem witness_idleUnits : stRun.flag .east Reg.FLM_SRES_BUSY = false ∧ stRun.flag .east Reg.MIL_TRES_BUSY = false ∧
    stRun.flag .east Reg.SCL_PRES_BUSY = false ∧ holdsLatch stRun .east = true ∧
    (openTable (stateOf .service coreM)).inMode .east .service = true := by decide +kernel

/-- A register that takes a write: its descriptor, the word it would leave, and what it may refuse. -/
def takes (s : State) (blk off raw : Nat) : Bool :=
  match regAt blk off with
  | some d =>
    let new := mergeWrite d (s.locked .east blk) (s.reg .east blk off).toNat raw
      (2 ^ 64 - 1)
    decide (off % 8 = 0 ∧ off < 0xFFF0 ∧ postWindow blk off = false ∧ blk < 256 ∧ raw &&& (2 ^ 64 - 1 - d.defined) = 0) &&
      (match gateOf s .east 0x44 blk off raw with | .pass => true | _ => false) &&
      limitsOk s .east blk off (s.reg .east blk off).toNat new raw &&
      masterRuns s .east 0x44 && check s .east 0x44 .write (regAddr blk off) 8 == .allow
  | none => false

/-- One register of each command that RegisterWriteResult covers, at the first and the last of its range. -/
theorem witness_registerWrites : ([(4, 0x18, 5), (3, 0x1000, 12 * 2 ^ 46), (3, 0x1000 + 0x20 * 255 + 16, 0), (3, 0x18, 1), (3, 0x18, 0x8000),
    (0x20, 0, 8 * 2 ^ 48), (0x30, 0, 8 * 2 ^ 48), (7, 0, 0), (0x13, 0x40, 2 ^ 16)].all fun q => takes stRun q.1 q.2.1 q.2.2) = true ∧
    takes (openTable (stateOf .service coreM)) 2 0x60 (2 ^ 60) = true := by decide +kernel

/-- A Kiln primitive ring of 2⁴ descriptors with one posted. -/
def stPrim : State := stRun.setReg .east 8 0x10 4

theorem witness_primitivePost : masterRuns stPrim .east 0x44 = true ∧ check stPrim .east 0x44 .write (regAddr 8 0x14) 4 = .allow ∧
    nbits (stPrim.reg .east 8 0x10).toNat 3 0 = 4 ∧ ringHolds 1 (stPrim.fld .east Reg.KLN_PIDX_CONS) ≤ 2 ^ 4 := by decide +kernel

theorem witness_pops : (let s := stRun.upd .east fun y => { y with txts := [(5, 7)] }
    masterRuns s .east 0x44 && check s .east 0x44 .read (regAddr 0x0B 0x30) 8 == .allow && !(s.half .east).txts.isEmpty &&
      (stRun.half .east).txts.isEmpty && check stRun .east 0x44 .read (regAddr 0x0B 0x30) 8 == .allow &&
      check s .east 0x44 .read (regAddr 0x13 0x28) 8 == .allow && check s .east 0x44 .read (regAddr 0x13 0x30) 8 == .allow) = true := by
  decide +kernel

/-- A write that is refused, one by a master of a half in Reset, and one that sets a reserved bit. -/
theorem witness_refused : masterRuns stRun .east 0x44 = true ∧ check State.reset .east 0 .write (regAddr 4 0x18) 8 = .refuse 0 false ∧
    masterRuns State.reset .east 0 = false ∧ check (stateOf .run coreM) .east 0 .write (regAddr 0 0) 8 = .refuse 0 false ∧
    ((regAt 4 0x18).map fun d => (2 ^ 63 : Nat) &&& (2 ^ 64 - 1 - d.defined)) = some (2 ^ 63) := by decide +kernel

-- the Foreman, groups, the fault manager (ThreadAndCoreEvents, GroupAndPacedEvents, LatchResult, GroveTakeoverResult, FaultAndScrubResult)

/-- Threads 1 and 2 READY at priorities 3 and 2 and thread 3 WAITING, with their groves open. -/
def stThreads : State := (stRun.upd .east fun y => { y with
    cores := [], fmn := { y.fmn with
      threads := [(1, ⟨.ready, 0, 0, 0, 0, none, false, false, false⟩), (2, ⟨.ready, 0, 0, 0, 1, none, false, false, false⟩),
        (3, ⟨.waiting, 0, 0, 0xFFFF, 0, some 0, false, false, false⟩)]
      readyCount := 2 } }).setFld .east Reg.FMN_CTRL_EN 1

theorem witness_threads : (stThreads.thread .east 3).state = .waiting ∧ (stThreads.thread .east 3).mask.getLsbD 15 = true ∧
    (stThreads.thread .east 1).state = .ready ∧ (stThreads.thread .east 9).state = .free ∧
    (stThreads.thread .east 3).timer = some 0 := by decide +kernel

/-- A READY thread that any grove may take, at a priority. -/
def readyAt (prio order : Nat) : Thread := ⟨.ready, 0, BitVec.ofNat 64 (prio * 2 ^ 57 + 0xFFFF * 2 ^ 34), 0, order, none, false, false, false⟩

/-- An idle core, with threads 1 and 2 READY at priorities 3 and 2. -/
def stIdle : State := (stRun.upd .east fun y => { y with
  cores := [(0, { coreM with run := .idle })], fmn := { y.fmn with threads := [(1, readyAt 3 0), (2, readyAt 2 1)], readyCount := 2 } }).setFld .east Reg.FMN_CTRL_EN 1

theorem witness_dispatch : pickThread stIdle kk = some 2 ∧ (stIdle.core kk).run = .idle ∧
    stIdle.flag .east Reg.FMN_CTRL_EN = true ∧ groveTakes stIdle .east 0 = true ∧ stIdle.inMode .east .watch = false := by decide +kernel

theorem witness_interrupt : (let s := stV { coreV levelS with sw := putBits (coreV levelS).sw 20 20 1, irqs := [(40, 0)] }
    canExecute s kk && (s.core kk).remote.isEmpty && !((s.half .east).bom.outstanding.any fun o => o.core == some kk.num) &&
      (nextIrq (s.core kk)).isSome) = true := by decide +kernel

theorem witness_holdAndPace : (let s := stateOf .run { coreM with sw := putBits coreM.sw 23 23 1 }
    canExecute s kk && (s.core kk).swBit 23) = true ∧
    (let s := stM.setFld .east (Reg.GRV_MODE_PACED.grove 0) 1
    canExecute s kk && isPaced s kk) = true := by decide +kernel

theorem witness_stepLimit : (let s := { stateOf .run { coreM with thread := some 7 } with elapsed := 5000 }.setFld .east Reg.FMN_STEPLIM_LIMIT_US 5
    decide ((s.core kk).run = .running ∧ (s.core kk).limitRaised = false ∧ s.fld .east Reg.FMN_STEPLIM_LIMIT_US = 5 ∧
      s.fld .east Reg.FMN_STEPLIM_LIMIT_US * 1000 ≤ s.elapsed - (s.core kk).stepStart)) = true := by decide +kernel

theorem witness_groups : ((stRun.setFld .east Reg.BND_GDIS_GDIS 0x8001).fld .east Reg.BND_GDIS_GDIS).testBit 0 = true ∧
    ((stRun.setFld .east Reg.BND_GDIS_GDIS 0x8001).fld .east Reg.BND_GDIS_GDIS).testBit 15 = true ∧
    (stRun.setFld .east (Reg.GRV_PSTAT_LOADING.grove 16) 1).flag .east (Reg.GRV_PSTAT_LOADING.grove 16) = true := by decide +kernel

theorem witness_faults : stRun.inMode .east .reset = false ∧ stRun.seamUp = true ∧ stRun.east.mode ≠ .reset ∧ stRun.timeFailed = false := by
  decide +kernel

/-- The latch free, held, run out and frozen. -/
theorem witness_latch : (State.reset.latch = none ∧ (stateOf .boot coreM).latch = none ∧ (stateOf .boot coreM).east.wardenHeld = false ∧
      (stateOf .boot coreM).east.mode ≠ .reset ∧ (stateOf .boot coreM).frozen = false) ∧
    (stRun.latch = some .east ∧ stRun.east.wardenHeld = false ∧ stRun.west.wardenHeld = false ∧ stRun.elapsed < stRun.leaseEnd ∧
      stRun.frozen = false) ∧
    ({ stRun with elapsed := 1000 }.leaseEnd ≤ { stRun with elapsed := 1000 }.elapsed) ∧ { stRun with frozen := true }.frozen = true := by
  decide +kernel

/-- Grove `g` of East has failed and is being recovered. -/
def stFailed (g : Nat) : State := updFlt stRun .east fun x => { x with recovering := [(.grove, g)] }

theorem witness_takeover : recoveringGrove (stFailed 0) .east 0 = true ∧ ((stFailed 0).half .east).flt.takeover = none ∧
    postsWaiting (stFailed 0) .east + postsDue (stFailed 0) .east 0 ≤ 4096 ∧
    (endWindow (stFailed 0) .east 0).flag .east (Reg.GRV_MODE_PACED.grove 0) = false ∧
    recoveringGrove (stFailed 16) .east 16 = true ∧ postsWaiting (stFailed 16) .east + postsDue (stFailed 16) .east 16 ≤ 4096 ∧
    ((stFailed 15).setFld .east (Reg.GRV_MODE_PACED.grove 15) 1).flag .east (Reg.GRV_MODE_PACED.grove 15) = true ∧
    recoveringGrove ((stFailed 15).setFld .east (Reg.GRV_MODE_PACED.grove 15) 1) .east 15 = true ∧
    ((updFlt (stFailed 15) .east fun x => { x with takeover := some 15 }).half .east).flt.takeover = some 15 := by decide +kernel

/-- A package whose rotation is on, at a window and a phase. -/
def stRotation (window next : Nat) (phase : RotPhase) (testing : List Nat) : State :=
  updFlt ((stRun.setFld .east Reg.FLT_ROT_WINDOW window).setFld .east Reg.FLT_ROT_EN 1) .east fun x => { x with next := next, phase := phase, testing := testing }

/-- Windows 0, 5, 6 and 7, the suspension's groves 0 and 15, and each phase. -/
theorem witness_rotation : ([(0, some 0), (5, some 5), (6, some 16), (7, none)].all fun (q : Nat × Option Nat) => let n := q.1
     windowFree (stRotation 0 n .off []) .east &&
      decide ((stRotation 0 n .off []).fld .east Reg.FLT_ROT_WINDOW ≠ 15) &&
      ((windowGroves (stRotation 0 n .off []) .east n).filter fun g => !fenced (stRotation 0 n .off []) .east g).head? == q.2) = true ∧
    ([0, 15].all fun n => windowFree (stRotation 15 n .off []) .east &&
      decide ((stRotation 15 n .off []).fld .east Reg.FLT_ROT_WINDOW = 15) && !fenced (stRotation 15 n .off []) .east n) = true ∧
    ((stRotation 0 1 .drain [0, 1]).half .east).flt.phase = .drain ∧ ((stRotation 0 1 .test [0, 16]).half .east).flt.phase = .test ∧
    16 ∈ ((stRotation 0 1 .test [0, 16]).half .east).flt.testing ∧ groveState (setGroveState (stRotation 0 1 .test [0, 16]) .east 16 1) .east 16 = 1 ∧
    groveState (setGroveState (stRotation 0 1 .test [0, 16]) .east 0 1) .east 0 = 1 ∧ ((stRotation 0 1 .ret []).half .east).flt.phase ≠ .off := by
  decide +kernel

theorem witness_retestAndScrub : (stRun.setFld .east Reg.FLT_RETEST_BUSY 1).flag .east Reg.FLT_RETEST_BUSY = true ∧
    placeOf stRun .east 0x40000000 = .canopy true 0x40000000 ∧ placeOf stRun .east 0x43FFFFFF = .canopy true 0x43FFFFFF ∧
    placeOf (stRun.upd .east fun x => { x with ddrGib := 1 }) .east 0x1000000000 = .ddr 0x1000000000 ∧
    placeOf (stRun.upd .east fun x => { x with ddrGib := 1 }) .east 0x103FFFFFFF = .ddr 0x103FFFFFFF := by decide +kernel

-- the Ethernet port and Flume (EthernetResult, SessionResult)

/-- Sub-port 0 of a 100 Gb/s link is up, with flow control as given. -/
def stEth (flow : Nat) : State :=
  ((stRun.setFld .east Reg.ETH_MODE_MODE 1).setFld .east Reg.ETH_STAT_LINK 1).setFld .east Reg.ETH_PFC_FLOW flow

/-- A frame of n bytes without FCS: to a MAC address, with a type. -/
def frameOf (mac : Byte) (type : Nat) (n : Nat) : List Byte :=
  List.replicate 6 mac ++ List.replicate 6 0 ++ [BitVec.ofNat 8 (type / 256), BitVec.ofNat 8 type] ++ List.replicate (n - 14) 0

theorem witness_frames : ethUp (stEth 0) .east 0 = true ∧ ethUp stRun .east 3 = false ∧
    (frameOf 0xFF 0x88CC 60 ++ fcsOf (frameOf 0xFF 0x88CC 60)).length = 64 ∧ (frameOf 0xFF 0x88CC 59 ++ fcsOf (frameOf 0xFF 0x88CC 59)).length = 63 ∧
    (frameOf 0xFF 0x88CC 60).length = 60 ∧ [0, 0, 0, 0] ≠ fcsOf (frameOf 0xFF 0x88CC 60) ∧
    fieldBE (frameOf 1 0x8808 60) 12 2 = 0x8808 ∧ fieldBE (frameOf 4 0x88CC 60) 12 2 ≠ 0x8808 ∧
    foreignMac (stEth 0) .east (frameOf 4 0x88CC 60) = true ∧ foreignMac (stEth 0) .east (frameOf 0xFF 0x88CC 60) = false := by decide +kernel

/-- One frame is queued, priority 5 is paused and XOFF was sent for priority 6. -/
def stTx : State := updEth ((stEth 2).setFld .east Reg.ETH_PFC_QUANTA 4) .east fun e =>
  { e with txq := [⟨0, frameOf 0xFF 0x88CC 20, 0, true⟩], paused := [(0, 5, 100)], xoff := [(0, 6, 0)] }

theorem witness_transmit : ((stTx.half .east).eth.txq.find? fun y => y.sub == 0 && !(stTx.half .east).eth.paused.any fun p =>
      p.1 == 0 && p.2.1 == y.prio).isSome = true ∧ stTx.inMode .east .safe = false ∧ ethUp stTx .east 0 = true ∧
    (stEth 1).fld .east Reg.ETH_PFC_FLOW = 1 ∧ stTx.fld .east Reg.ETH_PFC_FLOW = 2 ∧ ((List.replicate 8 0 : List (BitVec 16)).length = 8) := by
  decide +kernel

theorem witness_refresh : (let s := { updEth stTx .east (fun e => { e with landing := [⟨0, frameOf 0xFF 0 60, 6, 0, none, none, 4096, [], 0⟩] }) with
      elapsed := 100000 }.setFld .east Reg.ETH_PFC_XON_KIB 0
    ((s.half .east).eth.xoff.find? fun x => x.1 == 0 && x.2.1 == 6).isSome && ethUp s .east 0 && s.fld .east Reg.ETH_PFC_QUANTA != 0 &&
      decide (s.fld .east Reg.ETH_PFC_XON_KIB * 1024 < watchedOcc s .east 6 ∧
        0 + quantaNs s .east (max 1 (s.fld .east Reg.ETH_PFC_QUANTA / 2)) ≤ s.elapsed)) = true := by decide +kernel

theorem witness_links : (let s := (stRun.setFld .east Reg.ETH_MODE_MODE 5).setFld .east Reg.ETH_MODE_AN 0
    decide (3 < ethSubs s .east) && ethMode s .east && !s.flag .east Reg.ETH_MODE_AN) = true ∧
    (let s := (stRun.setFld .east Reg.ETH_MODE_MODE 5).setFld .east Reg.ETH_MODE_AN 1
    decide (0 < ethSubs s .east) && s.flag .east Reg.ETH_MODE_AN && !ethUp s .east 0 && (s.half .east).eth.anDone.isEmpty) = true ∧
    (0 < ethSubs (stEth 0) .east ∧ ethUp (stEth 0) .east 0 = true) := by decide +kernel

theorem witness_pps : { stRun with ppsEdge := true }.ppsEdge = true ∧ stRun.ppsEdge = false ∧
    ({ stRun with ppsOut := true, ppsFall := 5, elapsed := 5 }.ppsOut = true ∧ { stRun with ppsFall := 5 }.elapsed < 5) := by decide +kernel

/-- A session that is open over TCP with a control block, hot. -/
def aSession (state : SState) (t : Option Tcb) (proto : Nat) : Session :=
  { sessionDefault 0 with state := state, hot := true, tcb := t, proto := proto, kaS := 1, kaProbes := 3 }

/-- The package with that session as number 7, at 10 s. -/
def stSession (x : Session) : State := setSession { stRun with elapsed := 10000000000 } .east 7 x

def segOf (syn : Bool) (sends : Nat) : Seg := ⟨0, [], syn, false, sends, 0, false⟩

/-- The TCP registers at reset allow some retries; a segment sent 1 and 200 times. -/
theorem witness_retransmit : ([true, false].all fun syn => [1, 200].all fun n =>
    let s := stSession (aSession .opened (some { (default : Tcb) with rtoAt := some 5, outq := [segOf syn n] }) 6)
    let x := session s .east 7
    x.hot && x.tcb.isSome && !s.inMode .east .safe && wheelDue s 5 && decide (x.state ≠ .closed) &&
      decide (n ≤ s.fld .east (if syn then Reg.FLM_TCP_SYN_RETRIES else Reg.FLM_TCP_RETRIES)) == decide (n = 1)) = true := by decide +kernel

theorem witness_timers : ([2, 3].all fun sent =>
    let s := stSession (aSession .opened (some { (default : Tcb) with rtoAt := some 5, ackAt := some 0, kaAt := some 0, kaSent := sent }) 6)
    let x := session s .east 7
    x.hot && decide (x.state = .opened) && wheelDue s 5 && wheelDue s 0 && (match x.tcb with
      | some t => t.outq.isEmpty && t.unsent.isEmpty && decide (t.kaSent < x.kaProbes) == decide (sent = 2)
      | none => false)) = true ∧
    (let s := stSession (aSession .opened none 17)
    let x := session s .east 7
    x.hot && decide (x.state = .opened ∧ x.proto = 17 ∧ x.kaS ≠ 0) && wheelDue s (x.lastRx + x.kaS * (x.kaProbes + 1) * 1000000000)) = true := by
  decide +kernel

/-- A landed frame, in Safe, with EN = 0, and with EN = 1 (taken, no access held). -/
def stLanded : State := updEth stRun .east fun e => { e with landing := [⟨0, frameOf 0xFF 0x88CC 60, 0, 0, none, none, 60, [], 0⟩] }

theorem witness_lookup : ((stLanded.half .east).eth.landing.isEmpty = false ∧ stLanded.inMode .east .safe = false ∧
      (stLanded.setFld .east Reg.FLM_CTRL_EN 0).flag .east Reg.FLM_CTRL_EN = false) ∧
    (updEth (openTable (stateOf .safe coreM)) .east fun e => { e with landing := (stLanded.half .east).eth.landing }).inMode .east .safe = true ∧
    (let s := stLanded.setFld .east Reg.FLM_CTRL_EN 1
    match firstTaken s .east (s.half .east).eth.landing with
    | some (f, t) => decide (((dropLanding t .east f).half .east).bnd.holds = (s.half .east).bnd.holds)
    | none => false) = true := by decide +kernel

/-- Restoring a session's cold state leaves the boundary of its half as it was. -/
theorem coldRestore_bnd (s : State) (h : HalfId) (n : Nat) (b : List Byte) :
    ((coldRestore s h n b).half h).bnd = (s.half h).bnd := by
  unfold coldRestore
  split
  · rfl
  · simp [setParseCtx, setSession, updMil, updFlm]

theorem coldRestore_sram (s : State) (h : HalfId) (n : Nat) (b : List Byte) :
    ((coldRestore s h n b).half h).sram = (s.half h).sram := by
  unfold coldRestore
  split
  · rfl
  · simp [setParseCtx, setSession, updMil, updFlm]

theorem writeUnit_clean {s : State} {h : HalfId} (mid store a n : Nat) (e : (s.half h).sram = []) : writeUnit s h mid store a n = s := by
  unfold writeUnit
  rw [e]
  rfl

theorem readStore_clean {s : State} {h : HalfId} (n : Nat) (e : (s.half h).sram = []) : readStore s h n = s := by
  unfold readStore
  rw [e]
  rfl

/-- A half whose session 7 is open and cold. -/
def stCold : State := setSession stRun .east 7 { sessionDefault 0 with state := .opened }

theorem witness_cold : (session stCold .east 7).state ≠ .free ∧ (session stCold .east 7).hot = false ∧
    ∃ t, fetchCold stCold .east 7 = some t ∧ (t.half .east).bnd.holds = (stCold.half .east).bnd.holds := by
  have hr : roomForHot stCold .east = some stCold := by decide +kernel
  have ho : ∀ r, sealOpens (unitRead stCold .east 0x46 (coldAddr stCold .east 7) 512).2 .east 7 r = true := by
    intro r
    have hs : (session (unitRead stCold .east 0x46 (coldAddr stCold .east 7) 512).2 .east 7).sealCtr = none := by decide +kernel
    simp [sealOpens, hs]
  refine ⟨by decide +kernel, by decide +kernel, ?_⟩
  simp only [fetchCold, hr, ho, ite_true, Option.some.injEq, exists_eq_left']
  have hm : ((unitRead stCold .east 0x46 (coldAddr stCold .east 7) 512).2.half .east).sram = [] := by decide +kernel
  rw [writeUnit_clean _ _ _ _ ((coldRestore_sram _ _ _ _).trans hm), touchSession,
    readStore_clean _ (by simpa [setSession, updFlm, coldRestore_sram] using hm)]
  simp only [setSession, updFlm, State.half_upd_self, coldRestore_bnd]
  decide +kernel

theorem witness_reassembly : (let s := updFlm { stRun with elapsed := 60000000000 } .east fun x => { x with
      reasm := [⟨[], false, [], none, [], ⟨0, [], 0, 0, none, none, 0, [], 0⟩, 0, false, []⟩] }
    match (s.half .east).flm.reasm[0]? with
    | some c => wheelDue s (c.since + s.fld .east Reg.FLM_REASM_TIMEOUT_S * 1000000000)
    | none => false) = true := by decide +kernel

-- Kiln, Mill and Scaler (KilnResult, MarketDataResult)

/-- Every unit enabled, and session 7 open with a waiting record of a content type, with keys as given. -/
def stKiln (type : Byte) (ks : SessKeys) : State :=
  let s := (((stSession (aSession .opened (some default) 6)).setFld .east Reg.KLN_CTRL_EN 1).setFld .east Reg.MIL_CTRL_EN 1).setFld .east
    Reg.FLM_CTRL_EN 1
  updKln (setKeys (s.setFld .east Reg.SCL_CTRL_EN 1) .east 7 ks) .east fun k => { k with
    rxq := [⟨7, [type, 3, 3, 0, 2, 1, 0], [0, 0, 0, 0, 0, 0, 0], false, none⟩], txq := [⟨7, .command 3 none, 0, false, [1, 2]⟩] }

/-- Records that need no key: of an unknown type, a handshake record, application data; and one of a direction that failed. -/
theorem witness_records : ([((24 : Byte), RecDest.badType), (22, .ring), (23, .mill)].all fun q =>
      let s := stKiln q.1 (keysDefault 7)
      !s.flag .east Reg.KLN_STAT_ZEROED && s.flag .east Reg.KLN_CTRL_EN && s.flag .east Reg.MIL_CTRL_EN && !hringFull s .east &&
      match (s.half .east).kln.rxq.find? (·.session == 7) with
      | some r => (match recordRead s .east 7 r with
        | (.deliver t ty _ _, rest) => recDest (isDtls s .east 7) ty == q.2 &&
          decide (((takeRecord t .east r rest).half .east).bnd.holds = (s.half .east).bnd.holds)
        | _ => false)
      | none => false) = true ∧
    (let s := stKiln 23 { keysDefault 7 with rxFailed := true }
    match (s.half .east).kln.rxq.find? (·.session == 7) with
      | some r => (match recordRead s .east 7 r with
        | (.discard t, rest) => decide (((takeRecord t .east r rest).half .east).bnd.holds = (s.half .east).bnd.holds)
        | _ => false)
      | none => false) = true := by decide +kernel

theorem witness_protect : (let s := stKiln 23 { keysDefault 7 with tx := some default }
      ((s.half .east).kln.txq.find? (·.session == 7)).isSome && !silenced s .east 7 && !(sessKeys s .east 7).txFailed &&
      match (sessKeys s .east 7).tx with
      | some k => (protect s .east 7 k false [1, 2]).1.isSome
      | none => false) = true ∧
    (let s := stKiln 23 { keysDefault 7 with txFailed := true }
    (sessKeys s .east 7).txFailed && !s.flag .east Reg.KLN_STAT_ZEROED) = true ∧
    (stRun.setFld .east Reg.KLN_STAT_ZEROED 1).flag .east Reg.KLN_STAT_ZEROED = true ∧
    (stRun.setFld .east Reg.KLN_CTRL_EN 0).flag .east Reg.KLN_CTRL_EN = false := by decide +kernel

/-- A primitive ring at 0x4000_0000 with one descriptor of operation `op` at its head. -/
def stOp (op : Byte) : State :=
  let s := ((stRun.setFld .east Reg.KLN_CTRL_EN 1).setReg .east 8 0x10 (BitVec.ofNat 64 (2 ^ 48 + 4))).setReg .east 8 8 0x40000000
  s.upd .east fun x => { x with mem := (x.mem.put 0x40000000 (op :: List.replicate 63 0)).1 }

theorem witness_primitives : ((primitives .east).all fun r => match nextPrim (stOp (BitVec.ofNat 8 r.2.1)) .east with
    | some p => p.op == r.2.1
    | none => false) = true := by decide +kernel

theorem witness_primitiveEnds : (let s := stOp 11
    match nextPrim s .east with
    | some p => decide (((skipBadOps (primPosted s .east) (runPrim s .east p (if primUndefined p then fun s _ _ => (secWord 0x0E, s) else primFree))
        .east).half .east).bnd.holds = (s.half .east).bnd.holds)
    | none => false) = true := by decide +kernel

theorem witness_reseed : (let s := updKln stRun .east fun k => { k with drbg := true, drbgRequests := 2 ^ 20 }
    decide ((s.half .east).kln.drbg = true ∧ 2 ^ 20 ≤ (s.half .east).kln.drbgRequests)) = true ∧
    (let s := { stRun with elapsed := 1000000000 }
    decide ((s.half .east).kln.drbg = true ∧ (s.half .east).kln.drbgSince + 1000000000 ≤ s.elapsed)) = true := by decide +kernel

/-- Session 7 with a waiting parse job, or a waiting build. -/
def stMill (state : SState) (j : MillJob) : State :=
  updMil (setSession (stKiln 23 (keysDefault 7)) .east 7 (aSession state none 6)) .east fun m => { m with jobs := [j] }

def aBuild : SendJob := ⟨7, .command 3 none, 0, false, []⟩

theorem witness_mill : (let s := stMill .opened (.parse ⟨7, [], false⟩)
      s.flag .east Reg.MIL_CTRL_EN && scalerAccepts s .east && s.flag .east Reg.KLN_CTRL_EN && s.flag .east Reg.FLM_CTRL_EN &&
      match millNext s .east 7 with
      | some (.parse j) => decide (((parseJob s .east j).half .east).bnd.holds = (s.half .east).bnd.holds)
      | _ => false) = true ∧
    (let s := stMill .opened (.build aBuild)
      let b := readBinding s .east 7
      millNext s .east 7 == some (.build aBuild) && !s.flag .east Reg.KLN_STAT_ZEROED && !silenced s .east 7 &&
      decide ((session s .east 7).state = .opened) && (session s .east 7).hot &&
      match buildFrame b.2 .east b.1 (readyCtx (parseCtx b.2 .east 7)) aBuild with
      | (.error e, v) => decide (((endRequest (dropBuild (v.incFld .east Reg.MIL_CNT1_BUILD_FAIL) .east aBuild) .east
          (.command 3 none) (statusOf 1 e)).half .east).bnd.holds = (s.half .east).bnd.holds)
      | _ => false) = true ∧
    (session (stMill .closed (.build aBuild)) .east 7).state ≠ .opened ∧
    (stRun.setFld .east Reg.MIL_CTRL_EN 0).flag .east Reg.MIL_CTRL_EN = false := by decide +kernel

/-- A Scaler job with no record, and class 0 valid with a period of 1 s. -/
def stScaler : State :=
  updScl ((stRun.setFld .east Reg.SCL_CTRL_EN 1)) .east fun x => { x with
    jobs := [⟨7, [], 0, false⟩], classes := [(0, 2 ^ 127 + 1)] }

theorem witness_scaler : (let s := stScaler
    let t := deliver s .east 7
    !((t.half .east).scl.outq.any (·.session == 7)) && t.flag .east Reg.SCL_CTRL_EN &&
      (match (t.half .east).scl.jobs.find? (·.session == 7) with
      | some j => decide (((scalerJob t .east j).half .east).bnd.holds = (s.half .east).bnd.holds)
      | none => false)) = true ∧
    (let s := { updScl stScaler .east (fun x => { x with jobs := [] }) with timebase := 10000000000 }
    let c := pclass s .east 0
    let k := c.period (SMap.get (fun _ => 0) (s.half .east).scl.swept 0)
    c.v && decide (c.stop k + c.grace ≤ (watermark s .east : Int))) = true := by decide +kernel

-- the host interface (RingResult, DataAndHostLinkResult)

/-- A descriptor of 64 bytes: operation, target, INLINE from byte 0x20 on. -/
def descOf (op : Byte) (target : Nat) (inline : List Byte) : List Byte :=
  patchB (patchB (patchB (List.replicate 64 0) 0x0A [op]) 0x10 (leBytes 4 target)) 0x20 inline

/-- A command ring with two new entries and a reply ring of 16 slots. -/
def cmdRing : Ring := ⟨true, false, 0, 4, 2, 0, 0, 4, 0, 0, 0, 2, false, 0, 0, 0, 0, 0, none, []⟩
def repRing : Ring := ⟨false, true, 0x1000, 4, 0, 0, 0, 4, 0, 0, 0, 0, true, 3, 1, 1, 0, 0, some 0, []⟩

/-- The link up and the ring engine on, rings 1 and 2, and tag 3 in flight with an operation. -/
def stHost (op : Byte) (target : Nat) (inline : List Byte) : State :=
  (((stRun.upd .east fun x => { x with perst := true, hif := { x.hif with
      rings := [(1, some cmdRing), (2, some repRing)]
      inflight := [⟨3, 0, descOf op target inline, [], none, [], [], 0, 0, 0, false, []⟩] } }).setFld .east
    Reg.HIF_STAT_LINK 1).setFld .east Reg.HIF_CTRL_EN 1)

/-- The first and the last value that ring 1 takes, and one that it does not. -/
theorem witness_doorbell : pcieUp (stHost 5 0 []) .east = true ∧ (bell 1 cmdRing 0).isSome = true ∧ (bell 1 cmdRing 15).isSome = true ∧
    (bell 1 cmdRing 0x10000).isNone = true ∧ (ringOf (stHost 5 0 []) .east 1).isSome = true ∧ ringOf (stHost 5 0 []) .east 9 = none := by
  decide +kernel

theorem witness_fetch : ringEngineOn (stHost 5 0 []) .east = true ∧ (stHost 5 0 []).inMode .east .run = true ∧
    nextRing (stHost 5 0 []) .east = some 1 := by decide +kernel

theorem witness_acceptance : (let s := setRing (stHost 5 0 []) .east 1 (some { cmdRing with fetched := [descOf 0x12 0 []] })
    match ringOf s .east 1, ringOf s .east (replyRingOf 1 cmdRing) with
    | some r, some x => decide ((s.half .east).hif.inflight.length < 32768 ∧ x.reserved < x.freeSlots) && r.fetched.length == 1 &&
      decide (((acceptDesc (targetTakes s .east (descOf 0x12 0 [])).2 .east 1 2 r x (descOf 0x12 0 [])).half .east).bnd.holds =
        (s.half .east).bnd.holds)
    | _, _ => false) = true := by decide +kernel

/-- Tag 3 may start its operation. -/
def starts (s : State) (op : Nat) : Bool :=
  match inFlight s .east 3 with
  | some e => dOp e.desc == op && e.begun == 0 && !((s.half .east).hif.waiting.any (·.tag == some 3))
  | none => false

/-- It may start, and what it does holds no access. -/
def startsFree (s : State) (op : Nat) (f : State → InFlight → State) : Bool :=
  starts s op && match inFlight s .east 3 with
  | some e => decide (((f (setInFlight s .east 3 fun x => { x with begun := 1 }) e).half .east).bnd.holds = (s.half .east).bnd.holds)
  | none => false

/-- CREATE_RING of ring 5 as a reply ring of 16 slots, and of a ring that is there. -/
def createInline (n : Byte) : List Byte := List.replicate 8 0 ++ [n, 0, 0, 0, 4, 2, 0, 0, 0, 0, 0, 0, 1, 0, 0, 0, 0, 0, 0, 0, 0, 0, 0, 0]

theorem witness_create : createForm (stHost 1 0 (createInline 5)) .east (descOf 1 0 (createInline 5)) = 0 ∧
    createForm (stHost 1 0 (createInline 2)) .east (descOf 1 0 (createInline 2)) ≠ 0 ∧
    startsFree (stHost 1 0 (createInline 5)) 1 (fun u e => complete (setRing u .east 5 (some (newRing e.desc))) .east 3 0) = true := by
  decide +kernel

theorem witness_destroy : startsFree (stHost 2 0 [9, 0, 0, 0]) 2 (fun u _ => complete u .east 3 (statusOf 1 3)) = true ∧
    ringOf (stHost 2 0 [9, 0, 0, 0]) .east 9 = none ∧ (ringBusy (stHost 2 0 [1, 0, 0, 0]) .east 1 cmdRing).1 = false ∧
    (ringBusy (stHost 2 0 [2, 0, 0, 0]) .east 2 repRing).1 = true := by decide +kernel

theorem witness_controlOps : startsFree (stHost 3 0 [2, 0]) 3 (fun u _ => complete u .east 3 0) = true ∧
    startsFree (stHost 4 0 [2, 0, 0, 0]) 4 (fun u _ => completeWith u .east 3 0 0 0) = true ∧
    startsFree (stHost 4 0 [9, 0, 0, 0]) 4 (fun u _ => complete u .east 3 (statusOf 1 3)) = true ∧
    startsFree (stHost 5 0 []) 5 (fun u _ => complete u .east 3 0) = true := by decide +kernel

/-- Thread 7 WAITING, for DELIVER. -/
def withThread (s : State) : State := s.upd .east fun y => { y with fmn := { y.fmn with threads := [(7, ⟨.waiting, 0, 0, 1, 0, none, false, false, false⟩)] } }

theorem witness_dataOps : startsFree (stHost 0x10 7 []) 0x10 (fun u e =>
      sendFrame u .east (.command 3 none) (dTarget e.desc) (dFormat e.desc) ((dFlags e.desc).testBit 5) e.params) = true ∧
    threadTakes (withThread (stHost 0x11 7 [])) .east 7 = true ∧ threadTakes (stHost 0x11 7 []) .east 7 = false ∧
    startsFree (withThread (stHost 0x11 7 [])) 0x11 (fun u e =>
      putMailbox (setInFlight u .east 3 fun x => { x with thread := some 7 }) .east 7 (patchB e.desc 8 (leBytes 2 3))) = true ∧
    startsFree (stHost 0x11 7 []) 0x11 (fun u _ => complete u .east 3 (statusOf 2 1)) = true ∧
    startsFree (stHost 0x12 0 []) 0x12 (fun u e =>
      sendRaw u .east (.command 3 none) (dTarget e.desc) ((dFlags e.desc).testBit 4) e.params) = true := by decide +kernel

/-- A GROUP whose part 0 went to node 5 at time 0, 10 ms ago. -/
def stGroup : State :=
  { (stHost 0x13 0 []).upd .east (fun x => { x with hif := { x.hif with inflight :=
      [⟨3, 0, descOf 0x13 0 [], [], none, [none], [5, 0] ++ List.replicate 30 0, 0, 1, 0, false, []⟩] } }) with elapsed := 10000000 }

theorem witness_group : (match inFlight stGroup .east 3 with
    | some e => dOp e.desc == 0x13 && e.begun.testBit 0 && fieldLE e.partList 0 2 % 512 == 5 &&
      decide (SMap.get (fun _ => 0) e.sentAt 0 + 10000000 ≤ stGroup.elapsed) &&
      decide (((((List.range e.parts.length).foldl (startPart .east 3) stGroup).half .east).bnd.holds) = (stGroup.half .east).bnd.holds)
    | none => false) = true := by decide +kernel

theorem witness_posts : (let s := (stHost 5 0 []).upd .east fun x => { x with hif := { x.hif with
      posts := [⟨false, 7, 0, 0, []⟩, ⟨true, 7, 0, 1, []⟩], msixPend := NatSet.add [] 3 } }
    ((s.half .east).hif.posts.find? (·.frame == false)).isSome && ((s.half .east).hif.posts.find? (·.frame == true)).isSome &&
      (s.half .east).hif.msixPend.contains 3 && match ringOf { s with elapsed := 1000 } .east 2 with
      | some r => r.vecOn && r.firstAt == some 0 && decide (0 + 1000 * r.modUs ≤ 1000)
      | none => false) = true := by decide +kernel

theorem witness_hostLink : stRun.porst = true ∧ stRun.wrst = true ∧ pcieUp (stHost 5 0 []) .east = true ∧
    ((stHost 5 0 []).half .east).hif.ownBdf = none ∧ (stHost 5 0 []).seamUp = true ∧ { stHost 5 0 [] with seamUp := false }.seamUp = false := by
  decide +kernel

-- Boom (RemoteRequestResult, BoomResult, CruiseAndBuddyResult)

/-- A packet to East's node from a node, by a port. -/
def pk (type src port : Nat) (payload : List Byte) : Packet :=
  ⟨0, BitVec.ofNat 9 src, 3, 2, 0, BitVec.ofNat 5 type, 9, 0, 5, 1, 7, 6, 0x40000100, 0, payload, port, 0, none⟩

/-- East is node 0 of a fabric of which it is the root, at epoch 3, link 0 carries traffic and leads to node 6 (epoch 2); node 8
is dead; the fabric context maps its addresses onto themselves. -/
def stBoom (ps : List Packet) : State :=
  let s := (((stRun.setFld .east Reg.BOM_CTRL_EN 1).setFld .east Reg.BOM_ID_NODE 0).setFld .east Reg.BOM_ID_ROOT 0).setFld .east
    Reg.BOM_ID_CSTATE 2
  let s := ((s.setFld .east Reg.BOM_ID_EPOCH 3).setFld .east Reg.BOM_NODE_ST_STATE 1).setFld .east Reg.BOM_NODE_ST_EPOCH 3
  let s := ((s.setFld .east (Reg.BOM_NODE_ST_STATE.at 96) 1).setFld .east (Reg.BOM_NODE_ST_EPOCH.at 96) 2).setFld .east
    (Reg.BOM_NODE_ST_STATE.at 128) 2
  let s := (s.setBit .east Reg.BOM_LINK_UP 0).setFld .east (Reg.BOM_NODE_ST_PRI.at 96) 0
  (updLink s .east 0 fun _ => { Link.reset with trained := true, up := true }).upd .east fun x => { x with bom := { x.bom with
    rxq := ps, tlb := [⟨BitVec.ofNat 16 (s.fld .east Reg.BOM_FXLAT_CTX), 0, 2 ^ 46, 0, 0, 0, true, true, true, true, true, true, false, 0, 0⟩] } }

/-- Nothing is held between two states. -/
def heldSame (s t : State) : Bool := decide ((t.half .east).bnd.holds = (s.half .east).bnd.holds)

/-- The packet that is taken, and the state then, meet a predicate. -/
def taken (s : State) (type : Nat) (p : Packet → State → Bool) : Bool :=
  match takePacket s .east type with | some (q, t) => p q t | none => false

/-- A request that is screened away (a stale epoch, a dead node), and one that is not, by each packet type of the home. -/
theorem witness_home : ((homeRows .east).all fun row =>
    let go := stBoom [pk row.2.1 0 5 (rootCap.bytes ++ List.replicate 32 0)]
    taken (stBoom [{ pk row.2.1 6 0 [] with sepoch := 1 }]) row.2.1 (fun p t => (screen t .east p).isSome &&
      (match screen t .east p with | some u => heldSame (stBoom []) u | none => false)) &&
    taken (stBoom [pk row.2.1 8 0 []]) row.2.1 (fun p t => (dropDead t .east p).isSome) &&
    taken go row.2.1 (fun p t => (screen t .east p).isNone && (t.half .east).bom.kept.isEmpty && !boomAsleep t .east &&
      heldSame go (sendAnswer (row.2.2 t p).2 .east p (row.2.2 t p).1).2)) = true := by decide +kernel

/-- The home of a read of 8 bytes answers OK with them, of a kept request its response, and in Watch BUSY. -/
theorem witness_homeRead : (let p := { pk 1 0 5 rootCap.bytes with info := 8 }
    let s := stBoom [p]
    taken s 1 (fun p t => (homeRd t .east (requestOf p .read 8 false) 5).1.status == 0) &&
    (let s := s.upd .east fun x => { x with bom := { x.bom with kept := [⟨0, 7, p, 0⟩] } }
     taken s 1 fun q t => (screen t .east q).isNone && ((t.half .east).bom.kept.find? fun k => k.src == q.src.toNat && k.txn == q.txn.toNat && t.elapsed < k.since + 64000).isSome &&
       heldSame s (sendPacket t .east p).2) &&
    (let s := { s with waking := true }
     taken s 1 fun q t => boomAsleep t .east && heldSame s (sendAnswer t .east q { status := 0x30 }).2)) = true := by decide +kernel

/-- An effect that is new, one that is newer than its thread's entry, and one that is older. -/
theorem witness_effect : ([(none, false), (some (4, 0), true), (some (5, 256), false), (some (5, 255), true), (some (6, 0), false)].all fun c =>
    let ds : List DupEntry := match c.1 with | some (q, n) => [⟨0, 6, q, n, 0⟩] | none => []
    let s := (stBoom [pk 4 0 5 (rootCap.bytes ++ List.replicate 8 1)]).upd .east fun x => { x with bom := { x.bom with dups := ds } }
    taken s 4 fun p t => (screen t .east p).isNone && !boomAsleep t .east &&
      (match (t.half .east).bom.dups.find? fun e => e.src == p.src.toNat && e.thread == p.thread.toNat with
       | some e => e.olderThan p.seq.toNat (p.pos.toNat * 256) == c.2
       | none => c.1.isNone && (dupRoom (t.half .east).bom.dups t.elapsed).isSome) &&
      (homeStore t .east p).1.status == 0 &&
      heldSame s (homeStore t .east p).2) = true := by
  decide +kernel

/-- An update that does not authenticate or one that does, by the key of the pair, whatever the cipher answers. -/
theorem witness_mirr : (let s := (stBoom [pk 9 0 5 []]).upd .east fun x => { x with kln := { x.kln with pairRx := some ([], 0) } }
    taken s 9 fun p t => (screen t .east p).isNone && !boomAsleep s .east && !noSessions t .east && (t.half .east).kln.pairRx.isSome &&
      heldSame s (t.incFld .east Reg.BOM_CNT2_MIRR_AUTH)) = true := by decide +kernel

/-- An update too short to have a state in it holds nothing. -/
theorem witness_mirrApply : (let s := stBoom [pk 9 0 5 []]
    taken s 9 fun p t => heldSame s (applyMirror (updKln t .east fun k => { k with pairRx := some ([], 1) }) .east p [])) = true := by
  decide +kernel

/-- A heartbeat at the root, and one that reports an adoption at a half that is not the root. -/
theorem witness_heartbeat : ([(0, 0), (2, 6)].all fun q =>
    let s := (stBoom [pk 13 6 0 (List.replicate 10 0 ++ [BitVec.ofNat 8 q.1])]).setFld .east Reg.BOM_ID_ROOT q.2
    isRoot s .east == (q.2 == 0) && taken s 13 fun p t => (dropDead t .east p).isNone && !fgenOlder t .east (fieldLE p.payload 8 2) &&
      (fieldLE p.payload 10 1).testBit 1 == (q.1 == 2) && !t.flag .east Reg.BOM_CFG_BV &&
      heldSame s (updBom t .east fun b => { b with lastHb := SMap.set (fun _ => 0) b.lastHb p.src.toNat t.elapsed })) = true := by
  decide +kernel

theorem witness_signal : (let s := stBoom [pk 5 6 0 []]
    taken s 5 fun p t => !boomAsleep s .east && (screen t .east p).isNone &&
      heldSame s (sendAnswer (fmnEvent t .east (p.addr.toNat % 2 ^ 17) 5) .east p { status := 0 }).2) = true := by decide +kernel

/-- A request of this half that waits for its response. -/
def waitingFor (s : State) (busy : Option Nat) : State := s.upd .east fun x => { x with bom := { x.bom with
  outstanding := [⟨7, { pk 1 0 5 [] with dst := 6 }, some 0, busy⟩] } }

theorem witness_response : (let s := waitingFor (stBoom [pk 6 6 0 []]) none
    taken s 6 fun p t => (dropDead t .east p).isNone && match (t.half .east).bom.outstanding.find? fun o => o.txn == p.txn.toNat with
      | some o => heldSame s (takeResponse t .east o p)
      | none => false) = true := by decide +kernel

theorem witness_part : (let s := stBoom [{ pk 7 0 5 (List.replicate 32 0) with addr := 0 }]
    taken s 7 fun p t => (screen t .east p).isNone && !boomAsleep s .east && match partRequest t .east p with
      | some u => heldSame s u
      | none => false) = true := by decide +kernel

theorem witness_pres : ([0x20, 0x21, 0].all fun i =>
    let s := (stBoom [{ pk 8 0 5 [0, 0] with addr := 1, seq := 0, info := i }]).upd .east fun x => { x with hif := { x.hif with
      inflight := [⟨3, 1, patchB (descOf 0x13 0 []) 0 [1], [], none, [none], List.replicate 32 0, 0, 1, 0, false, []⟩] } }
    taken s 8 fun p t => (dropDead t .east p).isNone && match ((t.half .east).hif.inflight.find? fun e => dOp e.desc == 0x13 &&
        dCmdid e.desc == p.addr.toNat && e.begun.testBit p.seq.toNat && (e.parts.getD p.seq.toNat (some 0)).isNone &&
        fieldLE e.partList (32 * p.seq.toNat) 2 % 512 == p.src.toNat) with
      | some e => heldSame s (partEnd t .east e.tag p.seq.toNat (statusOf 5 1))
      | none => false) = true := by decide +kernel

theorem witness_mack : (let s := stBoom [pk 10 6 0 []]
    taken s 10 fun p t => (dropDead t .east p).isNone && !(t.half .east).bom.silenced && (t.half .east).bom.awaiting.isEmpty) = true := by
  decide +kernel

/-- A request answered busy 10 µs ago, to a node with a route and to one without. -/
theorem witness_busy : (let s := { waitingFor (stBoom []) (some 0) with elapsed := 10000 }
    ((s.half .east).bom.outstanding.find? fun o => o.txn == 7).isSome && (sendPacket s .east { pk 1 0 5 [] with dst := 6 }).1) = true ∧
    (let s := { waitingFor (stRun.setFld .east Reg.BOM_ID_NODE 1) (some 0) with elapsed := 10000 }
    ((s.half .east).bom.outstanding.find? fun o => o.txn == 7).isSome && !(sendPacket s .east { pk 1 0 5 [] with dst := 6 }).1) = true := by
  decide +kernel

/-- A flit with a good CRC and one with a bad one, on a link that is up; 16 replays; 2 ms of silence; a link not trained. -/
theorem witness_links_boom : linksRun (stBoom []) .east = true ∧ (linkOf (stBoom []) .east 0).up = true ∧
    (linkOf (stBoom []) .east 1).trained = false ∧ (linkOf (stBoom []) .east 1).failedAt = none ∧
    (flitBytes 0 0 0 0 0 []).length = 72 ∧
    fieldLE (flitBytes 0 0 0 0 0 []) 0x44 4 = (crc32c ((flitBytes 0 0 0 0 0 []).take 0x44)).toNat ∧
    fieldLE (List.replicate 72 0) 0x44 4 ≠ (crc32c ((List.replicate 72 0).take 0x44)).toNat ∧
    16 ≤ (linkOf (updLink (stBoom []) .east 0 fun k => { k with replays := 16 }) .east 0).replays ∧
    (linkOf { stBoom [] with elapsed := 2000000 } .east 0).lastGood + 2000000 ≤ { stBoom [] with elapsed := 2000000 }.elapsed := by
  decide +kernel

theorem witness_cruise : (stBoom []).fld .east Reg.BOM_ID_CSTATE = 2 ∧ stRun.fld .east Reg.BOM_ID_CSTATE ≠ 2 ∧
    isRoot (stBoom []) .east = true ∧
    SMap.get (fun _ => 0) ((stBoom []).half .east).bom.lastHb 6 + 25000000 ≤ { stBoom [] with elapsed := 25000000 }.elapsed := by
  decide +kernel

/-- Node 6 is the buddy; its keys come, where the handshake is valid. -/
theorem witness_buddy : (let s := ((stBoom [pk 11 6 0 []]).setFld .east Reg.BOM_CFG_BV 1).setFld .east Reg.BOM_CFG_BUDDY 6
    taken s 11 (fun p t => (dropDead t .east p).isNone && t.flag .east Reg.BOM_CFG_BV && p.src.toNat == t.fld .east Reg.BOM_CFG_BUDDY) &&
    s.flag .east Reg.BOM_CFG_BV && !(s.half .east).bom.silenced && !(s.half .east).bom.adopted && s.fld .east Reg.BOM_ID_CSTATE == 2 &&
    (let s := { s with elapsed := 25000000 }
     decide ((s.half .east).bom.buddyTrip + 20000000 ≤ s.elapsed ∧ (s.half .east).bom.buddyTrip + 25000000 ≤ s.elapsed)) &&
    heldSame s (adoptAll .east (s.setFld .east Reg.BOM_ID_ROOT 6))) = true := by decide +kernel

-- services, life cycle, modes, power, I/O and debug

/-- A core in its machine stub with a request of a service, X1 and X2 its arguments. -/
def stService (number : Nat) : State := { stRun with
  east := { stRun.east with cores := [(0, { coreM with mstack := [⟨rootCap.moveTo 0x40000, 0, 0⟩, ⟨rootCap, 0, 0⟩] })] } }.setCore kk
    { coreM with mstack := [⟨rootCap.moveTo 0x40000, swImage kindTrap false 23 0, BitVec.ofNat 64 number⟩] }

theorem witness_services : ([1, 2, 3, 4, 5, 6, 7].all fun n => serviceAt (stService n) kk n == some .east) = true ∧
    deviceMode (stService 6) = .run := by decide +kernel

/-- UPDATE and LC_REQUEST with nothing staged hold no access. -/
theorem witness_serviceHolds :
    heldSame (stService 4) (serviceReturn kk (updateImage (stService 4) .east (serviceArg (stService 4) kk 1) (serviceArg (stService 4) kk 2))) = true ∧
    heldSame (stService 5) (serviceReturn kk (lcRequestAt (stService 5) .east (serviceArg (stService 5) kk 1))) = true := by
  decide +kernel

/-- The bounds of the counters: 2 and 15, a target of 255 and of 256. -/
theorem witness_counters : counterOf stRun 2 < 255 ∧ counterOf stRun 15 < 256 ∧ 0 ≤ counterOf stRun 2 ∧
    (ctrAdvance stRun 15 255).1 = 0 ∧ (ctrAdvance stRun 2 256).1 = 2 ∧ (ctrAdvance stRun 1 0).1 = 5 ∧ (ctrAdvance stRun 16 0).1 = 5 ∧
    (ctrAdvance stRun 15 0).1 = 0 := by decide +kernel

/-- A transition to SHIPPED and one to TEST; a sensor that is on in every state, and one that is off. -/
theorem witness_lifeCycle : { stRun with xfer := some ⟨2, 9, [], []⟩ }.xfer = some ⟨2, 9, [], []⟩ ∧
    { stRun with xfer := some ⟨1, 0, [], []⟩ }.xfer = some ⟨1, 0, [], []⟩ ∧
    sensorOn stRun ((⟨13, by decide⟩ : Fin 14).val + 1) = true ∧ sensorOn stRun ((⟨0, by decide⟩ : Fin 14).val + 1) = true ∧
    sensorOn (stRun.setFld .east Reg.TMP_CFG_MESH_EN 0) ((⟨0, by decide⟩ : Fin 14).val + 1) = false := by decide +kernel

/-- Resets with PORST_N high and low, and the releases from Reset and from another mode. -/
theorem witness_resets : stRun.porst = true ∧ State.reset.porst = false ∧ State.reset.east.mode = .reset ∧ stRun.east.mode ≠ .reset := by
  decide +kernel

/-- The first and the last boot stage command, and a stage that is not the one due; the release of the cores. -/
theorem witness_boot : (let s := { stateOf .boot coreM with latch := some .east }
    decide (deviceMode s = .boot ∧ s.bootStage = (⟨0, by decide⟩ : Fin 6).val ∧ s.bootStage ≠ (⟨5, by decide⟩ : Fin 6).val)) = true ∧
    (let s := ({ stateOf .boot coreM with latch := some .west, bootStage := 6 }.setFld .east Reg.DDR_STAT_INIT_DONE 1).setFld .west
      Reg.DDR_STAT_INIT_DONE 1
    deviceMode s == .boot && s.bootStage == 6 && s.latch.isSome && s.flag .east Reg.DDR_STAT_INIT_DONE && s.flag .west Reg.DDR_STAT_INIT_DONE) = true := by
  decide +kernel

/-- The smallest and the largest population that R175 supports, and one that it does not. -/
theorem witness_ddr : ddrSupported ⟨0x55, 16, 1, true, true, true⟩ = true ∧ ddrSupported ⟨0xFF, 64, 2, true, true, true⟩ = true ∧
    ddrSupported ⟨0xFF, 16, 2, true, true, true⟩ = false ∧
    (stRun.half .east).mode ≠ .reset ∧ stRun.flag .east Reg.DDR_STAT_TRAINED = false ∧ stRun.flag .east Reg.DDR_STAT_CFG_ERR = false ∧
    (stRun.setFld .east Reg.DDR_STAT_TRAINED 1).flag .east Reg.DDR_STAT_TRAINED = true ∧
    (stRun.setFld .east Reg.DDR_STAT_TRAINED 1).flag .east Reg.DDR_STAT_INIT_DONE = false ∧
    SMap.wf memDefault ((stRun.setFld .east Reg.DDR_STAT_TRAINED 1).half .east).mem.cells = true := by decide +kernel

/-- Both halves idle in Run with Watch enabled; both in Watch, and waking. -/
theorem witness_watch : (let s := State.setFld { State.reset with
        latch := some .east, east := { Half.reset with mode := .run }, west := { Half.reset with mode := .run } } .east Reg.PWR_WATCH_EN 1
    idleHalf s .east && idleHalf s .west && s.flag .east Reg.PWR_WATCH_EN) = true ∧
    (let s := { stateOf .watch coreM with latch := some .east }
    decide (deviceMode s = .watch) && !s.waking && wakeThere s .smbus .east) = true ∧
    ({ stateOf .watch coreM with waking := true }.waking = true ∧ { stateOf .watch coreM with waking := true }.east.mode = .watch ∧
     { stateOf .watch coreM with waking := true }.west.mode = .watch ∧
     { stateOf .watch coreM with waking := true }.east.safeDue = none ∧
     { stateOf .watch coreM with waking := true }.west.safeDue = none) := by decide +kernel

/-- The fixed policy: from 800 mV toward a set point of 810 mV, a step of 5 mV; and the third PMBus failure. -/
theorem witness_voltage : (let s := ((stRun.setFld .east Reg.PWR_AVS_POLICY 0).setFld .east Reg.PWR_AVS_VSET_MV 810).upd .east fun x => { x with vset := 800 }
    stepAllowed s .east (805 : BitVec 16).toNat) = true ∧ ((stRun.upd .east fun x => { x with pmbFails := 2 }).half .east).pmbFails = 2 ∧
    (stRun.half .east).mode ≠ .reset := by decide +kernel

/-- A read and a write of the flash under way; a UART that is enabled with room, full, and with a byte to send. -/
theorem witness_lowSpeed : (2 : Word).toNat.testBit 1 = true ∧ (0 : Word).toNat.testBit 1 = false ∧
    ([0, 1].all fun n => let s := stRun.setFld .east (Reg.LIO_UART_EN.at (8 * n)) 1
      s.flag .east (Reg.LIO_UART_EN.at (8 * n)) && decide ((s.uartRx.getD n []).length < 16)) = true ∧
    16 ≤ ({ stRun with uartRx := stRun.uartRx.setIfInBounds 1 (List.replicate 16 0) }.uartRx.getD 1 []).length ∧
    { stRun with uartTx := stRun.uartTx.setIfInBounds 1 [7] }.uartTx.getD 1 [] = [7] ∧
    ((stRun.setFld .east Reg.LIO_GPIO_DIR_DIR 0x8001).fld .east Reg.LIO_GPIO_DIR_DIR).testBit 15 = true := by decide +kernel

/-- The life-cycle states that open the TAP, and those that do not. -/
theorem witness_tap : deviceMode stRun ≠ .reset ∧ lcOpen (stRun.setFld .east Reg.LCS_STATE_STATE 4) = true ∧
    lcOpen (stRun.setFld .east Reg.LCS_STATE_STATE 2) = false ∧ lcState (stRun.setFld .east Reg.LCS_STATE_STATE 3) = 3 ∧
    lcOpen (stRun.setFld .east Reg.LCS_STATE_STATE 5) = false ∧ lcState (stRun.setFld .east Reg.LCS_STATE_STATE 5) = 5 := by decide +kernel

/-- Debug open, refused by state and by alignment, and let through by the boundary table. -/
theorem witness_debug : (let s := stRun.setFld .east Reg.LCS_STATE_STATE 0
    debugMay s .east && decide (check s .east 0x4D .read 0x40000000 8 = .allow) && decide (check s .east 0x4D .write 0x40000000 8 = .allow)) = true ∧
    debugMay (stRun.setFld .east Reg.LCS_STATE_STATE 2) .east = false ∧ (0x40000004 : BitVec 46).toNat % 8 ≠ 0 ∧
    authValid (stRun.setFld .east Reg.LCS_STATE_STATE 0) .east [] 0 = false := by decide +kernel

-- the machine as a whole

/-- The last address of the set-up space. -/
theorem witness_setupAddress : 255 < 256 ∧ 0xFFFF < 0x10000 ∧ regAddr 255 0xFFFF = 0x80FFFFFF := by decide +kernel

theorem witness_idleStep : stRun.pending = [] ∧ State.reset.east.mode = .reset ∧ stRun.east.mode ≠ .reset ∧ stRun.timeFailed = false ∧
    stRun.fld .east Reg.TMB_TRIM_TRIM = 0 ∧ 0 ≤ stRun.trimAcc ∧ stRun.trimAcc < 2 ^ 32 := by decide +kernel

theorem witness_stepRuns : { stRun with pending := [.tapReset, .ppsIn] }.pending = .tapReset :: [.ppsIn] := rfl

theorem witness_memoryWrite : SMap.wf memDefault State.reset.east.mem.cells = true ∧
    SMap.wf (regReset (regHome .east 0x0F)) (State.reset.half (regHome .east 0x0F)).regs = true ∧
    (fitRange 0x1000 0x100001).isSome = true ∧ (rootCap.moveTo 0x40000).tag = true :=
  ⟨by decide +kernel, by decide +kernel, by decide +kernel, by decide +kernel⟩

/-- A register whose fields have several access codes, at the boundary bits of a field. -/
theorem witness_accessCodes : (match regAt 0x03 0x1000 with
    | some d => d.fields.all fun f => decide (f.lo ≤ f.lo ∧ f.lo ≤ f.hi)
    | none => false) = true := by decide +kernel

/-- An ADD whose operands fit, in both modes of the code. -/
theorem witness_encodings : (match rowOf (.add kk (enc [0xF2] [rg 1, mem1, rg 2])) with
    | some (_, x, e) => encFits false x e && encFits true x e && (match decodeEnc false x e with | .ok _ => true | .error _ => false)
    | none => false) = true := by decide +kernel

-- WellFormed: what it refuses, one term for each check

/-- A well-formed ADD, and the same with each part of its encoding out of range. -/
theorem wf_add : Instr.wf (.add kk (enc [0xF2] [rg 1, mem1, rg 2])) = true := by decide

theorem wf_lead : Instr.wf (.add kk (enc [0x20] [rg 1, rg 1, rg 2])) = false := by decide

theorem wf_leadCount : Instr.wf (.add kk ⟨[⟨0xF2, 1⟩], 0, []⟩) = false := by decide

theorem wf_scale : Instr.wf (.mov kk (enc [] [⟨0, 1, 8, 0⟩, rg 2])) = false := by decide

theorem wf_displacement : Instr.wf (.mov kk (enc [] [⟨5, 1, 0, 128⟩, rg 2])) = false ∧
    Instr.wf (.mov kk (enc [] [⟨5, 1, 0, 127⟩, rg 2])) = true ∧ Instr.wf (.mov kk (enc [] [⟨6, 1, 0, 0x8000⟩, rg 2])) = false ∧
    Instr.wf (.mov kk (enc [] [⟨7, 1, 0, 0x80000000⟩, rg 2])) = false ∧ Instr.wf (.mov kk (enc [] [⟨0, 1, 0, 1⟩, rg 2])) = false := by decide

theorem wf_operands : Instr.wf (.add kk (enc [] [rg 1, rg 1, rg 1, rg 1])) = false := by decide

theorem wf_others : Instr.wf (.registerWrite .east 0 0 0 0) = false ∧ Instr.wf (.registerWrite .east 0 0 9 0) = false ∧
    Instr.wf (.groveTakeover .east 0 [1, 1]) = false ∧ Instr.wf (.pfcFrame .east 0 0 []) = false ∧
    Instr.wf (.flitReceive .east 0 []) = false ∧ Instr.wf (.dbgAuth .east [] 0) = false ∧
    Instr.wf (.cru .east 0 (.table 0 0 [⟨1, 0, 0, 0, 0, 0, 0⟩, ⟨1, 0, 0, 0, 0, 0, 0⟩])) = false ∧
    Instr.wf (.cru .east 0 (.merge 0 0 [⟨1, 0, 0, 0, 0, 0, 0⟩, ⟨1, 0, 0, 0, 0, 0, 0⟩])) = false := by decide

theorem wf_spi : Instr.wf (.spiTransferComplete (List.replicate 65536 0)) = false := by
  show decide ((List.replicate 65536 (0 : Byte)).length < 65536) = false
  rw [List.length_replicate]; rfl

-- values that the spec writes out

/-- No word of the table spells a command. -/
theorem test_tableWord : decodeTableWord 16 0x1234 = none ∧ step (State.withFetchWord stRun 16 0x1234) = step stRun := by
  exact ⟨rfl, rfl⟩

/-- CRC-32C of the nine digits, the check value of the function that R330 names. -/
theorem test_crc32c : crc32c [0x31, 0x32, 0x33, 0x34, 0x35, 0x36, 0x37, 0x38, 0x39] = 0xE3069283#32 := by decide +kernel

/-- The addresses of R7's example. -/
theorem test_setupAddress : regAddr 0x06 0x0100 = 0x80060100 ∧ regAddr 0x30 0x0040 = 0x80300040 := by decide

/-- The inbox capability of chapter 2's first example: its word, its cursor's moves and the ends of its region. -/
theorem test_capabilityInbox : (let c := mkCap (permMask [permLD, permST, permGL]) 0x40001000 0x100
    c.bits = 0xC200000004000100FF80000040001000#128 ∧ (c.step 0x2F00).tag = true ∧ (c.step 0x2F00).base = 0x40001000 ∧
    ((c.step 0x2F00).step 0xD00).tag = false ∧ (c.step (-0x400)).tag = true ∧ (c.step (-0x401)).tag = false) := by decide +kernel

/-- The 3 MiB buffer of its second: E, B, T, and the last cursor that is representable. -/
theorem test_capabilityBuffer : (let c := mkCap (permMask [permLD]) 0x1000300000 0x300000
    c.exp = 8 ∧ c.fieldB = 0x3000 ∧ c.fieldT = 0x3000 ∧ (c.moveTo 0x10005FFF00).base = 0x1000300000 ∧
    (c.moveTo 0x10005FFF00).top = 0x1000600000 ∧ (c.moveTo 0x10006BFFFF).tag = true ∧ (c.moveTo 0x10006C0000).tag = false) := by
  decide +kernel

/-- The request of its third, which is not exact. -/
theorem test_capabilityFit : fitRange 0x40000123 20000 = some ⟨1, 0x40000122, 0x40004F44⟩ := by decide +kernel

/-- The packed addition of chapter 4's example: −98,765 and +123,456. -/
theorem test_packed : packedValue [0x00, 0x98, 0x76, 0x5D] = -98765 ∧ packedValue [0, 0, 1, 0x23, 0x45, 0x6C] = 123456 ∧
    packedBytes 6 24691 = [0, 0, 0, 0x24, 0x69, 0x1C] ∧
    packedFlags 6 24691 = [(fN, false), (fZ, false), (fV, false), (fC, false)] := by decide +kernel

/-- The division of chapter 4's example. -/
theorem test_division : (divRes 64 1000000 7).1 = 142857 ∧ (remRes 64 1000000 7).1 = 1 := by decide +kernel

/-- The bill of chapter 4's example: an exact product, then a rounding that is inexact. -/
theorem test_bill : (let p := fMul dec64 ⟨0, false⟩ (ofBid64 0x316000000012D687) (ofBid64 0x3140000000064C4E)
    p.1 = .fin false 509567529250 (-7) ∧ p.2 = 0 ∧
    (let q := fQuantize dec64 ⟨0, false⟩ p.1 (ofBid64 0x3180000000000001); toBid64 q.1 = 0x31800000004DC0FB ∧ q.2 = 1)) := by
  decide +kernel

/-- The two cases of chapter 18's interrupted transition. -/
theorem test_lifeCycleWord : (let o := State.reset.otp
    lcsWord { o with intent := 0x01A4FFFFFFFFFFFF#64, commit := 0x0000FFFFFFFFFFFF#64 } = 0x3343 ∧
    lcsWord { o with intent := 0xFFFFFFFFFFFFFFFF#64, commit := 0x01A4FFFFFFFFFFFF#64 } = 0x3454) := by decide +kernel


-- the boundary values of the clauses on events, on Watch and on what waits

/-- A HOLD region that began 256 ticks ago, and one a tick later. -/
theorem witness_holdOverrun : (let s := { stateOf .run { coreM with sw := putBits coreM.sw 23 23 1, holdStart := some 0 } with elapsed := 256 }
    canExecute s kk && (s.core kk).swBit 23 && decide ((s.core kk).holdStart = some 0 ∧ 256 ≤ s.elapsed - 0)) = true ∧
    { stateOf .run { coreM with holdStart := some 1 } with elapsed := 256 }.elapsed - 1 < 256 := by decide +kernel

/-- An idle core's switch-in and a late slot hold no access. -/
theorem witness_eventHolds : heldSame stIdle (switchInto stIdle kk 2) = true ∧
    (let s := stM.setFld .east (Reg.GRV_MODE_PACED.grove 0) 1
    isPaced s kk && heldSame s (takeTrap kk 24 0 (s.core kk).pcc s)) = true := by decide +kernel

/-- A thread without a timer. -/
theorem witness_noTimer : (stThreads.thread .east 1).timer = none := by decide +kernel

/-- Service numbers 0 and 8, which no list has. -/
theorem witness_serviceUnlisted : serviceAt (stService 0) kk 0 = some .east ∧ serviceAt (stService 8) kk 8 = some .east ∧
    ((stService 0).core kk).mstack.map (·.cause.toNat) = [0] ∧ ((stService 8).core kk).mstack.map (·.cause.toNat) = [8] := by decide +kernel

/-- The idle conditions have held for IDLE_MS to the nanosecond, and one nanosecond less. -/
theorem witness_idleLong : (let s := { stRun with idleAt := 1 }.setFld .east Reg.PWR_WATCH_IDLE_MS 1
    idleLong { s with elapsed := 1000000 } .east && !idleLong { s with elapsed := 999999 } .east) = true := by decide +kernel

/-- A SEND in turn and one that another of its ring for its session goes before. -/
theorem witness_sendTurn : sendTurn (stHost 0x10 7 []) .east 3 = true ∧
    sendTurn ((stHost 0x10 7 []).upd .east fun x => { x with hif := { x.hif with
      inflight := [⟨2, 1, descOf 0x10 7 [], [], none, [], [], 0, 0, 0, false, []⟩, ⟨3, 1, descOf 0x10 7 [], [], none, [], [], 0, 0, 0, false, []⟩] } })
      .east 3 = false := by decide +kernel

/-- An acknowledgement that arrives while mirrored sessions are silenced. -/
theorem witness_mackSilenced : (let s := (stBoom [pk 10 6 0 []]).upd .east fun x => { x with bom := { x.bom with silenced := true } }
    taken s 10 fun p t => (dropDead t .east p).isNone && (t.half .east).bom.silenced && heldSame s t) = true := by decide +kernel

theorem witness_fabricRuns : linksRun (stBoom []) .east = true ∧ linksRun stRun .east = false := by decide +kernel

/-- Nothing waits in a half that has done nothing. -/
theorem witness_quiet : Quiet State.reset .east := by
  exact ⟨rfl, rfl, by decide, rfl, by decide⟩

/-- Modes in which an SMBus WAKE does nothing and reads answer. -/
theorem witness_smbus : deviceMode stRun ≠ .watch ∧ deviceMode stRun ≠ .reset ∧ deviceMode (stateOf .watch coreM) = .watch ∧
    (stateOf .watch coreM).waking = false := by decide +kernel

/-- The reset boundary table refuses the debug port's accesses to host memory. -/
theorem witness_debugRefused : (let s := (stateOf .run coreM).setFld .east Reg.LCS_STATE_STATE 0
    debugMay s .east && (match check s .east 0x4D .read 0x40000000 8 with | .refuse _ _ => true | _ => false) &&
    (match check s .east 0x4D .write 0x40000000 8 with | .refuse _ _ => true | _ => false)) = true := by decide +kernel

-- the opcode rows

/-- The opcodes and escape numbers that the decoder takes as listed are those of the instructions' rows. -/
theorem test_listed : ((List.range 0xEF).all fun op =>
      listedOpcode false op == (rowList.any fun r => r.opcode.toNat == op && r.esc.isNone) &&
      listedOpcode true op == (rowList.any fun r => r.opcode.toNat == op && r.esc.isNone && r.fore)) = true ∧
    ((List.range 256).all fun n => listedEscape n == rowList.any fun r => r.esc == some (BitVec.ofNat 8 n)) = true := by
  decide +kernel

-- the clauses on what is in a store, on what waits, and on what is refused

/-- A RENEW by the Warden that does not hold the latch, active and standby. -/
theorem witness_renewOther : stRun.latch ≠ some .west ∧ (stRun.half .west).wardenHeld = false ∧ (stRun.half .west).mode ≠ .reset ∧
    ((stRun.upd .west fun x => { x with wardenActive := true }).half .west).wardenActive = true ∧
    admittedWaits stRun .east = false ∧
    admittedWaits (stRun.upd .east fun x => { x with bnd := { x.bnd with posted := [(0x44, 0x40000000, [0])] } }) .east = true := by
  decide +kernel

/-- With nothing landed the lookup takes nothing. -/
theorem witness_nothingLanded : (let s := stRun.setFld .east Reg.FLM_CTRL_EN 1
    s.inMode .east .safe = false ∧ s.flag .east Reg.FLM_CTRL_EN = true ∧ firstTaken s .east (s.half .east).eth.landing = none ∧
      (readLanding s .east ⟨0, [], 0, 0, none, none, 0, [], 0⟩).1 = false) := by decide +kernel

/-- A closed window's probe, with something outstanding and with nothing, holds no access; the state is in the store. -/
theorem witness_probe : ([[segOf false 1], []].all fun q =>
    let s := stSession (aSession .opened (some { (default : Tcb) with rtoAt := some 5, outq := q, unsent := [7], sndWnd := 0 }) 6)
    (match fetched s .east 7 with
     | some w => (session w .east 7).tcb == (session s .east 7).tcb && !timersStill s .east && heldSame s (retransmit .east 7 w) &&
       heldSame s (delayedAck .east 7 w) && heldSame s (keepAlive .east 7 w)
     | none => false)) = true := by decide +kernel

/-- A request without a key, of a DTLS session and of a TLS one; one whose key is used up; one of a silenced session. -/
theorem witness_protectOther : (let s := stKiln 23 (keysDefault 7)
      !isDtls s .east 7 && (sessKeys s .east 7).tx.isNone && heldSame s (endRequest s .east (.command 3 none) (secWord 3))) = true ∧
    isDtls (setSession (stKiln 23 (keysDefault 7)) .east 7 (aSession .opened none 17)) .east 7 = true ∧
    (match protect (stKiln 23 (keysDefault 7)) .east 7 { (default : DirKey) with seq := 2 ^ 64 } false [1, 2] with | r => r.1.isNone) = true := by decide +kernel

/-- A build behind a parse of its session is the first build, and waits; the session's state is in the store. -/
theorem witness_buildWaits : (let s := updMil (stMill .opened (.build aBuild)) .east fun m => { m with jobs := [.parse ⟨7, [], false⟩, .build aBuild] }
    firstBuild s .east 7 == some aBuild && millNext s .east 7 != some (.build aBuild)) = true ∧
    firstBuild (stMill .opened (.build aBuild)) .east 7 = some aBuild ∧ (fetched (stMill .opened (.build aBuild)) .east 7).isSome = true ∧
    firstBuild (stMill .opened (.parse ⟨7, [], false⟩)) .east 7 = none ∧
    outHeld (stMill .opened (.parse ⟨7, [], false⟩)) .east 7 = false := by decide +kernel

/-- Rings whose context is read, and one whose context cannot be; a mailbox whose indices are poisoned. -/
theorem witness_ringStore : (readRing (stHost 5 0 []) .east 1).1 = false ∧
    (readRing ((stHost 5 0 []).upd .east fun x => { x with sram := [(5 * 2 ^ 40 + 4, 3)] }) .east 1).1 = true ∧
    mailboxPoison (withThread (stHost 0x11 7 [])) .east 7 = false := by decide +kernel

/-- A message of the present generation, the newest one that is not older, and one that is. -/
theorem witness_generation : fgenOlder (stBoom []) .east 0 = false ∧ fgenOlder (stBoom []) .east 32767 = false ∧
    fgenOlder (stBoom []) .east 32768 = true ∧ (electRoot (stBoom []) .east).fld .east Reg.BOM_ID_CSTATE = 2 := by decide +kernel

/-- A half whose own key message went out, and one that has none. -/
theorem witness_keyx : ((stBoom [pk 11 6 0 []]).upd .east fun x => { x with bom := { x.bom with keyx := [1] } }).east.bom.keyx ≠ [] ∧
    (stBoom [pk 11 6 0 []]).east.bom.keyx = [] := by decide +kernel

/-- ACTIVATE of a slot that cannot be, and the requests that meet one under way. -/
theorem witness_activate : activateBad (stService 7) .east 64 = true ∧ (stService 7).activating = none ∧
    ({ stService 7 with activating := some (.east, 3) }).activating = some (.east, 3) ∧ (3 : Nat) ≠ serviceArg (stService 7) kk 1 + 1 := by
  decide +kernel

/-- A set-up access of the debug port that the table refuses, and an address outside set-up space that is not aligned. -/
theorem witness_debugSetup : (let s := (stateOf .run coreM).setFld .east Reg.LCS_STATE_STATE 0
    debugMay s .east && setupOrHole (placeOf s .east 0x80000001) && (match check s .east 0x4D .read 0x80000001 8 with | .refuse _ _ => true | _ => false) &&
    (match check s .east 0x4D .write 0x80000001 8 with | .refuse _ _ => true | _ => false)) = true ∧
    setupOrHole (placeOf stRun .east 0x40000004) = false := by decide +kernel
end Sys2Proof.Tests
end

section
/-! The scope chapter: where the set-up registers of a half stand (R7). -/

namespace Sys2Proof.Proofs

open Sys2Proof Sys2Proof.Machine

/-- R7's formula is what the commands that write a register take as its address. -/
theorem regAddr_eq (blk off : Nat) : regAddr blk off = 0x80000000 + blk * 0x10000 + off := rfl

/-- Settles O47: the formula is `regAddr`, and the set-up window decodes `regAddr` as block and offset (`place_regAddr`). -/
theorem setupAddressRule : Obligations.SetupAddressRule := by
  unfold Obligations.SetupAddressRule
  intro s h blk off hblk hoff
  rw [← regAddr_eq]
  exact ⟨place_regAddr s h hblk hoff, rfl⟩

end Sys2Proof.Proofs
end

section
/-! The arithmetic chapter: what an instruction of three operands without ATOMIC does, signed values as balanced residues,
and the multiply instructions (R85). -/

namespace Sys2Proof.Proofs

open Sys2Proof Sys2Proof.Machine

/-- A three-operand instruction without ATOMIC whose operands can be read and whose result can be written writes the result
and the flags that its function gives, and goes on to the next instruction. -/
theorem exec_binaryOp {k : CoreId} {x : OpInfo} {e : Enc} {deny : State → Core → Inst → Bool} {s u v1 v2 v3 v4 : State}
    {i : Inst} {f : Nat → Nat → Nat → Res} {a b r : Nat} {d : Dest} {fl : List (Nat × Bool)}
    (h : Issues k x e deny s i u) (hatomic : i.atomic = false)
    (ha : ((ctxOf k i u).src 0).run (opened k i u) = .ok a v1) (hb : ((ctxOf k i u).src 1).run v1 = .ok b v2)
    (hd : ((ctxOf k i u).dst 2).run v2 = .ok d v3) (hf : f i.w a b = (r, fl))
    (hp : ((ctxOf k i u).put 2 d r).run v3 = .ok () v4) (hm : Marked k (v4.setCore k ((v4.core k).setFlags fl))) :
    runInstr k x e deny (binaryOp f) s = .next (seqEnd s (ctxOf k i u) (v4.setCore k ((v4.core k).setFlags fl))) := by
  refine h.exec_seq ?_ hm
  have hna : ¬ ((ctxOf k i u).inst.atomic = true) := by simp [ctxOf, hatomic]
  unfold binaryOp
  rw [if_neg hna, run_bind_ok ha, run_bind_ok hb, run_bind_ok hd]
  change ((ctxOf k i u).result 2 d (f i.w a b)).run v3 = _
  rw [hf]
  exact run_bind_ok hp

/-- The flags that a multiplication or a shift sets, where the result is one of w bits. -/
theorem flagsNZVC_of_lt {w r : Nat} (hr : r < 2 ^ w) (v c : Bool) :
    flagsNZVC w r v c = [(fN, r.testBit (w - 1)), (fZ, decide (r = 0)), (fV, v), (fC, c)] := by
  rw [flagsNZVC, flagsNZ, Nat.mod_eq_of_lt hr]
  rfl

/-- The two's-complement reading of a number is its balanced residue. -/
theorem signedOf_eq_bmod {w : Nat} (hw : 0 < w) (v : Nat) : signedOf w v = (v : Int).bmod (2 ^ w) := by
  obtain ⟨m, rfl⟩ : ∃ m, w = m + 1 := ⟨w - 1, by omega⟩
  have hhalf : 2 ^ (m + 1) = 2 * 2 ^ m := by ring
  have hcast : (2 : Int) ^ (m + 1) = ((2 * 2 ^ m : Nat) : Int) := by push_cast; ring
  simp only [signedOf, Int.bmod, Nat.add_sub_cancel, hhalf, hcast]
  generalize 2 ^ m = p
  split <;> split <;> omega

/-- The two's-complement reading is one of the low w bits. -/
theorem signedOf_mod_two_pow {w : Nat} (hw : 0 < w) (v : Nat) : signedOf w (v % 2 ^ w) = (v : Int).bmod (2 ^ w) := by
  rw [← signedOf_eq_bmod hw, signedOf, signedOf, Nat.mod_mod]

/-- An integer is the balanced residue of itself where it fits in w bits. -/
theorem bmod_two_pow_eq_self_iff {w : Nat} (hw : 0 < w) (z : Int) :
    z.bmod (2 ^ w) = z ↔ -(2 ^ (w - 1)) ≤ z ∧ z < 2 ^ (w - 1) := by
  obtain ⟨m, rfl⟩ : ∃ m, w = m + 1 := ⟨w - 1, by omega⟩
  rw [Int.bmod_eq_iff (by positivity)]
  simp only [Nat.add_sub_cancel, pow_succ']
  push_cast
  simp only [sub_self, Int.dvd_zero, and_true]
  omega

/-- An integer is not the two's-complement reading of its low w bits where it does not fit in w bits. -/
theorem ne_signedOf_iff {w : Nat} (hw : 0 < w) {z : Int} {r : Nat} (hr : z.bmod (2 ^ w) = signedOf w r) :
    z ≠ signedOf w r ↔ ¬ (-(2 ^ (w - 1)) ≤ z ∧ z < 2 ^ (w - 1)) := by
  rw [← bmod_two_pow_eq_self_iff hw, hr, ne_comm]

/-- MUL's product and flags. -/
theorem mulRes_eq {w a b : Nat} {v c : Bool} (hw : 0 < w) (ha : a < 2 ^ w) (hb : b < 2 ^ w)
    (hv : v = true ↔ ¬ (-(2 ^ (w - 1)) ≤ signedOf w a * signedOf w b ∧ signedOf w a * signedOf w b < 2 ^ (w - 1)))
    (hc : c = true ↔ 2 ^ w ≤ a * b) : mulRes w a b = (a * b % 2 ^ w, flagsNZVC w (a * b % 2 ^ w) v c) := by
  have hmod : (signedOf w a * signedOf w b).bmod (2 ^ w) = signedOf w (a * b % 2 ^ w) := by
    rw [signedOf_mod_two_pow hw, signedOf_eq_bmod hw a, signedOf_eq_bmod hw b, Int.bmod_mul_bmod, Int.mul_bmod_bmod]
    push_cast
    rfl
  have hv' : decide (signedOf w a * signedOf w b ≠ signedOf w (a * b % 2 ^ w)) = v := by
    rw [Bool.eq_iff_iff, hv, decide_eq_true_iff, ne_signedOf_iff hw hmod]
  have hc' : decide (2 ^ w ≤ a * b) = c := by rw [Bool.eq_iff_iff, hc, decide_eq_true_iff]
  simp only [mulRes, Nat.mod_eq_of_lt ha, Nat.mod_eq_of_lt hb, hv', hc']

/-- MULS.H's high half and flags. -/
theorem mulsHRes_eq {w a b r : Nat} (hr : (r : Int) = signedOf w a * signedOf w b / 2 ^ w % 2 ^ w) :
    mulsHRes w a b = (r, flagsNZVC w r false false) := by
  have hr' : unsignedOf w (signedOf w a * signedOf w b / 2 ^ w) = r := by rw [unsignedOf, ← hr, Int.toNat_natCast]
  simp only [mulsHRes, hr']

/-- MULU.H's high half and flags. -/
theorem muluHRes_eq {w a b : Nat} (ha : a < 2 ^ w) (hb : b < 2 ^ w) :
    muluHRes w a b = (a * b / 2 ^ w, flagsNZVC w (a * b / 2 ^ w) false false) := by
  simp only [muluHRes, Nat.mod_eq_of_lt ha, Nat.mod_eq_of_lt hb]

/-- Settles O44: each of the three is a three-operand instruction whose function gives the product and flags of R85. -/
theorem multiplyRule : Obligations.MultiplyRule := by
  unfold Obligations.MultiplyRule
  rintro k e s u v1 v2 v3 i a b w r x y v c d row h hatomic rfl hw hsa hsb hd ha hb rfl rfl hr hrow v4 hp z rfl hm
  have hpos : 0 < i.w := by simp only [List.mem_cons, List.not_mem_nil, or_false] at hw; omega
  rw [← flagsNZVC_of_lt hr] at hm ⊢
  rcases hrow with ⟨rfl, rfl, hv, hc⟩ | ⟨rfl, hhigh, rfl, rfl⟩ | ⟨rfl, rfl, rfl, rfl⟩
  · exact exec_binaryOp h hatomic hsa hsb hd (mulRes_eq hpos ha hb hv hc) hp hm
  · exact exec_binaryOp h hatomic hsa hsb hd (mulsHRes_eq hhigh) hp hm
  · exact exec_binaryOp h hatomic hsa hsb hd (muluHRes_eq ha hb) hp hm

end Sys2Proof.Proofs
end

section
/-! The operands of an instruction as they are decoded, and the mode in which they are. -/

namespace Sys2Proof.Proofs

open Sys2Proof Sys2Proof.Machine

/-- A decoding that succeeds passed its first part. -/
theorem dec_bind_elim {α β : Type} {m : Dec α} {f : α → Dec β} {b : β} (h : m >>= f = .ok b) :
    ∃ a, m = .ok a ∧ f a = .ok b := by
  cases m with
  | error => cases h
  | ok a => exact ⟨a, rfl, h⟩

/-- A decoding that succeeds was not refused by the check that it made. -/
theorem dec_guard_elim {β : Type} {c : Prop} [Decidable c] {err : DecErr} {f : Unit → Dec β} {b : β}
    (h : (if c then throw err >>= f else f ()) = .ok b) : f () = .ok b := by
  split at h
  · cases h
  · exact h

/-- The operands of a decoded instruction without ATOMIC are those of its row, in the mode in which it is decoded. -/
theorem decodeEnc_operands {fore : Bool} {x : OpInfo} {e : Enc} {i : Inst} (hx : x.fixed = .none)
    (hcas : x.cas = false) (h3 : x.ops.length = 3) (h : decodeEnc fore x e = .ok i) (ha : i.atomic = false) :
    i.fore = fore ∧ i.ops = e.ops.zip x.ops := by
  unfold decodeEnc at h
  rw [hx] at h
  obtain ⟨⟨leads, off⟩, -, h⟩ := dec_bind_elim h
  obtain ⟨-, -, h⟩ := dec_bind_elim h
  replace h := dec_guard_elim h
  obtain ⟨-, -, h⟩ := dec_bind_elim h
  obtain ⟨-, -, h⟩ := dec_bind_elim h
  replace h := dec_guard_elim h
  obtain ⟨-, -, h⟩ := dec_bind_elim h
  obtain ⟨-, -, h⟩ := dec_bind_elim h
  cases h7 : leads.any fun l => l.1.byte == 0xF7 with
  | false =>
    simp only [h7, Bool.false_and, Bool.false_eq_true, if_false] at h
    obtain ⟨_, -, h⟩ := dec_bind_elim h
    cases dec_guard_elim (dec_guard_elim (dec_guard_elim h))
    exact ⟨rfl, rfl⟩
  | true =>
    simp only [h7, hcas, h3, Bool.true_and, Bool.not_false, if_true] at h
    obtain ⟨_, -, h⟩ := dec_bind_elim h
    cases dec_guard_elim (dec_guard_elim (dec_guard_elim (dec_guard_elim h)))
    cases ha

/-- What comes before an instruction, where nothing of it stops it, only notes that the older accesses are performed. -/
theorem run_beforeInstr_ok {k : CoreId} {s t : State} (h : (beforeInstr k).run s = .ok () t) :
    t = s.setCore k { s.core k with drain := false } := by
  unfold beforeInstr at h
  rw [run_bind_ok run_get] at h
  dsimp only at h
  split at h
  · cases h
  · split at h
    · cases h
    · split at h
      · cases h
      · cases h
        rfl

/-- A core that has nothing to hand over begins its instruction with the PCC that it has. -/
theorem begun_pcc {k : CoreId} {s : State} (hrun : canExecute s k = true) (hh : (s.core k).handed = [])
    (h : (beforeInstr k).run (drainCore k s) = .ok () (begun k s)) : ((begun k s).core k).pcc = (s.core k).pcc := by
  have hdrain : drainCore k s = s := by rw [drainCore, hh]; rfl
  have hne : (s.core k).run ≠ .held := by
    intro he
    simp [canExecute, he] at hrun
  rw [hdrain] at h
  rw [run_beforeInstr_ok h, State.core_setCore_self s (by exact hne)]

/-- The count operand of a shift or rotate has the size of the mode in which the instruction is decoded. -/
theorem count_size {k : CoreId} {x : OpInfo} {e : Enc} {deny : State → Core → Inst → Bool} {s u : State} {i : Inst}
    (h : Issues k x e deny s i u) (hops : x.ops = shiftOps) (hfixed : x.fixed = .none) (hcas : x.cas = false)
    (hx : x.atomic = false) (ha : i.atomic = false) :
    i.size ((ctxOf k i u).op 1).2.size = if ((begun k s).core k).pcc.mode then 2 else 8 := by
  obtain ⟨hfore, hzip⟩ := decodeEnc_operands hfixed hcas (by rw [hops]; rfl) h.decoded ha
  have hlen : e.ops.length = 3 := by
    have := h.spelled
    simp only [encodingOf, OpInfo.arity, hx, hops, Bool.and_eq_true, beq_iff_eq] at this
    exact this.2
  obtain ⟨a, b, c, habc⟩ := List.length_eq_three.mp hlen
  simp only [ctxOf, Ctx.op, hzip, habc, hops, shiftOps]
  simp only [Inst.size, opBytes, hfore]
  rfl

end Sys2Proof.Proofs
end

section
/-! The shifts and rotates (R84): that they compute what Table 4.4 gives, and complete with it. -/

namespace Sys2Proof.Proofs

open Sys2Proof Sys2Proof.Machine

/-- N, Z and V, and C where it changes. -/
def shiftFlags (w r : Nat) (v : Bool) (c : Option Bool) : List (Nat × Bool) :=
  flagsNZ w r ++ [(fV, v)] ++ (c.map fun b => (fC, b)).toList

/-- A word has no bit at or above its width. -/
theorem testBit_of_width_le {w a j : Nat} (ha : a < 2 ^ w) (hj : w ≤ j) : a.testBit j = false :=
  Nat.testBit_lt_two_pow (ha.trans_le (Nat.pow_le_pow_right (by decide) hj))

/-- Words with the same bits are the same. -/
theorem eq_of_testBit_lt {w x y : Nat} (hx : x < 2 ^ w) (hy : y < 2 ^ w) (h : ∀ j < w, x.testBit j = y.testBit j) : x = y :=
  Nat.eq_of_testBit_eq fun j => by
    by_cases hj : j < w
    · exact h j hj
    · rw [testBit_of_width_le hx (Nat.le_of_not_lt hj), testBit_of_width_le hy (Nat.le_of_not_lt hj)]

/-- The bits of an arithmetic shift right. -/
theorem testBit_unsignedOf_signedOf_div {w : Nat} (hw : 0 < w) (a n j : Nat) (hj : j < w) :
    (unsignedOf w (signedOf w a / 2 ^ n)).testBit j = a.testBit (min (j + n) (w - 1)) := by
  have hshift : unsignedOf w (signedOf w a / 2 ^ n) = ((BitVec.ofNat w a).sshiftRight n).toNat := by
    rw [BitVec.sshiftRight, BitVec.toNat_ofInt, BitVec.toInt_ofNat', ← signedOf_eq_bmod hw,
      Int.shiftRight_eq_div_pow, unsignedOf]
    push_cast
    rfl
  rw [hshift, BitVec.testBit_toNat, BitVec.getLsbD_sshiftRight]
  have hle : ¬ w ≤ j := by omega
  split
  · next hn => rw [BitVec.getLsbD_ofNat, show min (j + n) (w - 1) = n + j by omega]; simp [hle, hn]
  · next hn => rw [BitVec.msb_eq_getLsbD_last, BitVec.getLsbD_ofNat, show min (j + n) (w - 1) = w - 1 by omega]; simp [hle, hw]

/-- SHL's clause of Table 4.4. -/
theorem shlRes_of_gives {w a n r : Nat} {v : Bool} {c : Option Bool} (hw : 0 < w) (ha : a < 2 ^ w)
    (h : (n = 0 ∧ r = a ∧ v = false ∧ c = none) ∨
      (1 ≤ n ∧ n < w ∧ r = a * 2 ^ n % 2 ^ w ∧ c = some (a.testBit (w - n)) ∧
        (v = true ↔ ¬ (-(2 ^ (w - 1)) ≤ signedOf w a * 2 ^ n ∧ signedOf w a * 2 ^ n < 2 ^ (w - 1)))) ∨
      (n = w ∧ r = 0 ∧ c = some (a.testBit 0) ∧ v = decide (a ≠ 0)) ∨
      (w < n ∧ r = 0 ∧ c = some false ∧ v = decide (a ≠ 0))) :
    shlRes w a n = (r, shiftFlags w r v c) := by
  rcases h with ⟨rfl, rfl, rfl, rfl⟩ | ⟨h1, hn, rfl, rfl, hv⟩ | ⟨rfl, rfl, rfl, rfl⟩ | ⟨hn, rfl, rfl, rfl⟩
  · simp only [shlRes, Nat.mod_eq_of_lt ha, if_true]; rfl
  · have hmod : (signedOf w a * 2 ^ n).bmod (2 ^ w) = signedOf w (a * 2 ^ n % 2 ^ w) := by
      rw [signedOf_mod_two_pow hw, signedOf_eq_bmod hw, Int.bmod_mul_bmod]
      push_cast
      rfl
    have hv' : decide (signedOf w a * 2 ^ n ≠ signedOf w (a * 2 ^ n % 2 ^ w)) = v := by
      rw [Bool.eq_iff_iff, hv, decide_eq_true_iff, ne_signedOf_iff hw hmod]
    simp only [shlRes, Nat.mod_eq_of_lt ha, if_neg (show ¬ n = 0 by omega), if_pos hn, hv']
    rfl
  · simp [shlRes, Nat.mod_eq_of_lt ha, hw.ne', flagsNZVC, shiftFlags]
  · have hne : (n == w) = false := beq_eq_false_iff_ne.mpr (by omega)
    simp [shlRes, Nat.mod_eq_of_lt ha, show ¬ n = 0 by omega, show ¬ n < w by omega, hne, flagsNZVC, shiftFlags]

/-- SHR's clause of Table 4.4. -/
theorem shrRes_of_gives {w a n r : Nat} {c : Option Bool} (hw : 0 < w) (ha : a < 2 ^ w)
    (h : (n = 0 ∧ r = a ∧ c = none) ∨ (1 ≤ n ∧ n < w ∧ r = a / 2 ^ n ∧ c = some (a.testBit (n - 1))) ∨
     (n = w ∧ r = 0 ∧ c = some (a.testBit (w - 1))) ∨ (w < n ∧ r = 0 ∧ c = some false)) :
    shrRes w a n = (r, shiftFlags w r false c) := by
  rcases h with ⟨rfl, rfl, rfl⟩ | ⟨h1, hn, rfl, rfl⟩ | ⟨rfl, rfl, rfl⟩ | ⟨hn, rfl, rfl⟩
  · simp only [shrRes, Nat.mod_eq_of_lt ha, if_true]; rfl
  · simp only [shrRes, Nat.mod_eq_of_lt ha, if_neg (show ¬ n = 0 by omega), if_pos hn]; rfl
  · simp [shrRes, Nat.mod_eq_of_lt ha, hw.ne', flagsNZVC, shiftFlags]
  · have hne : (n == w) = false := beq_eq_false_iff_ne.mpr (by omega)
    simp [shrRes, Nat.mod_eq_of_lt ha, show ¬ n = 0 by omega, show ¬ n < w by omega, hne, flagsNZVC, shiftFlags]

/-- SAR's clause of Table 4.4. -/
theorem sarRes_of_gives {w a n r : Nat} {c : Option Bool} (hw : 0 < w) (ha : a < 2 ^ w) (hr : r < 2 ^ w)
    (h : (n = 0 ∧ r = a ∧ c = none) ∨
     (1 ≤ n ∧ n < w ∧ (∀ j < w, r.testBit j = a.testBit (min (j + n) (w - 1))) ∧ c = some (a.testBit (n - 1))) ∨
     (w ≤ n ∧ (∀ j < w, r.testBit j = a.testBit (w - 1)) ∧ c = some (a.testBit (w - 1)))) :
    sarRes w a n = (r, shiftFlags w r false c) := by
  rcases h with ⟨rfl, rfl, rfl⟩ | ⟨h1, hn, hbits, rfl⟩ | ⟨hn, hbits, rfl⟩
  · simp only [sarRes, Nat.mod_eq_of_lt ha, if_true]; rfl
  · have hlt : unsignedOf w (signedOf w a / 2 ^ n) < 2 ^ w := by
      have := Int.emod_lt_of_pos (signedOf w a / 2 ^ n) (show (0 : Int) < 2 ^ w by positivity)
      have := Int.emod_nonneg (signedOf w a / 2 ^ n) (show (2 : Int) ^ w ≠ 0 by positivity)
      unfold unsignedOf
      zify
      omega
    have hres : unsignedOf w (signedOf w a / 2 ^ n) = r := eq_of_testBit_lt hlt hr fun j hj => by
      rw [testBit_unsignedOf_signedOf_div hw a n j hj, hbits j hj]
    simp only [sarRes, Nat.mod_eq_of_lt ha, if_neg (show ¬ n = 0 by omega), if_pos hn, hres]
    rfl
  · have hres : (if a.testBit (w - 1) = true then 2 ^ w - 1 else 0) = r := by
      refine eq_of_testBit_lt (by split <;> omega) hr fun j hj => ?_
      rw [hbits j hj]
      split <;> simp_all
    simp only [sarRes, Nat.mod_eq_of_lt ha, if_neg (show ¬ n = 0 by omega), if_neg (show ¬ n < w by omega), hres]
    rfl

/-- Every place of a word is the one that a rotate by k moves some place to. -/
theorem exists_add_mod_eq {w j k : Nat} (hj : j < w) (hk : k < w) : ∃ i, i < w ∧ (i + k) % w = j := by
  by_cases h : k ≤ j
  · exact ⟨j - k, by omega, by rw [Nat.sub_add_cancel h, Nat.mod_eq_of_lt hj]⟩
  · refine ⟨j + w - k, by omega, ?_⟩
    rw [Nat.sub_add_cancel (by omega), Nat.add_mod_right, Nat.mod_eq_of_lt hj]

/-- The bits of a rotate left by less than the width. -/
theorem testBit_rotateLeft {w a k i : Nat} (ha : a < 2 ^ w) (hk : k < w) (hi : i < w) :
    (a * 2 ^ k % 2 ^ w ||| a / 2 ^ (w - k)).testBit ((i + k) % w) = a.testBit i := by
  rw [Nat.testBit_or, Nat.testBit_mod_two_pow, Nat.testBit_mul_two_pow, Nat.testBit_div_two_pow]
  by_cases hik : i + k < w
  · rw [Nat.mod_eq_of_lt hik, testBit_of_width_le ha (by omega : w ≤ i + k + (w - k))]
    simp [hik]
  · rw [Nat.mod_eq_sub_mod (by omega), Nat.mod_eq_of_lt (by omega), show i + k - w + (w - k) = i by omega]
    simp [show ¬ k ≤ i + k - w by omega]

/-- ROL's clause of Table 4.4. -/
theorem rolRes_of_gives {w a n r : Nat} {c : Option Bool} (hw : 0 < w) (ha : a < 2 ^ w) (hr : r < 2 ^ w)
    (h : (n % w = 0 ∧ r = a ∧ c = none) ∨
     (n % w ≠ 0 ∧ (∀ j < w, r.testBit ((j + n) % w) = a.testBit j) ∧ c = some (r.testBit 0))) :
    rolRes w a n = (r, shiftFlags w r false c) := by
  rcases h with ⟨h0, rfl, rfl⟩ | ⟨h0, hbits, rfl⟩
  · simp only [rolRes, Nat.mod_eq_of_lt ha, if_pos h0]; rfl
  · have hk : n % w < w := Nat.mod_lt n hw
    have hres : a * 2 ^ (n % w) % 2 ^ w ||| a / 2 ^ (w - n % w) = r := by
      have hlt : a * 2 ^ (n % w) % 2 ^ w ||| a / 2 ^ (w - n % w) < 2 ^ w :=
        Nat.or_lt_two_pow (Nat.mod_lt _ (by positivity)) ((Nat.div_le_self _ _).trans_lt ha)
      refine eq_of_testBit_lt hlt hr fun j hj => ?_
      obtain ⟨i, hi, rfl⟩ := exists_add_mod_eq hj hk
      rw [testBit_rotateLeft ha hk hi, ← hbits i hi, Nat.add_mod_mod]
    simp only [rolRes, Nat.mod_eq_of_lt ha, if_neg h0, hres]
    rfl

/-- The bits of a rotate right by less than the width. -/
theorem testBit_rotateRight {w a k j : Nat} (ha : a < 2 ^ w) (hk : k < w) (hj : j < w) :
    (a / 2 ^ k ||| a * 2 ^ (w - k) % 2 ^ w).testBit j = a.testBit ((j + k) % w) := by
  rw [Nat.testBit_or, Nat.testBit_mod_two_pow, Nat.testBit_mul_two_pow, Nat.testBit_div_two_pow]
  by_cases hjk : j + k < w
  · rw [Nat.mod_eq_of_lt hjk]
    simp [show ¬ w - k ≤ j by omega]
  · rw [Nat.mod_eq_sub_mod (by omega), Nat.mod_eq_of_lt (by omega : j + k - w < w),
      testBit_of_width_le ha (by omega : w ≤ j + k), show j - (w - k) = j + k - w by omega]
    simp [hj, show w - k ≤ j by omega]

/-- ROR's clause of Table 4.4. -/
theorem rorRes_of_gives {w a n r : Nat} {c : Option Bool} (hw : 0 < w) (ha : a < 2 ^ w) (hr : r < 2 ^ w)
    (h : (n % w = 0 ∧ r = a ∧ c = none) ∨
     (n % w ≠ 0 ∧ (∀ j < w, r.testBit j = a.testBit ((j + n) % w)) ∧ c = some (r.testBit (w - 1)))) :
    rorRes w a n = (r, shiftFlags w r false c) := by
  rcases h with ⟨h0, rfl, rfl⟩ | ⟨h0, hbits, rfl⟩
  · simp only [rorRes, Nat.mod_eq_of_lt ha, if_pos h0]; rfl
  · have hres : a / 2 ^ (n % w) ||| a * 2 ^ (w - n % w) % 2 ^ w = r := by
      have hlt : a / 2 ^ (n % w) ||| a * 2 ^ (w - n % w) % 2 ^ w < 2 ^ w :=
        Nat.or_lt_two_pow ((Nat.div_le_self _ _).trans_lt ha) (Nat.mod_lt _ (by positivity))
      refine eq_of_testBit_lt hlt hr fun j hj => ?_
      rw [testBit_rotateRight ha (Nat.mod_lt n hw) hj, hbits j hj, Nat.add_mod_mod]
    simp only [rorRes, Nat.mod_eq_of_lt ha, if_neg h0, hres]
    rfl

/-- A row that Table 4.4 speaks of is one of a shift or rotate, which computes what the table gives. -/
theorem shift_of_gives {row : InstrRow} {w a n r : Nat} {v : Bool} {c : Option Bool} (hw : 0 < w) (ha : a < 2 ^ w)
    (hr : r < 2 ^ w) (h : ShiftGives row w a n r v c) :
    (∃ f, f w a n = (r, shiftFlags w r v c) ∧
      ∀ k e s, exec (row.1 k e) s = runInstr k row.2 e anyLevel (binaryOp f) s) ∧
    row.2.ops = shiftOps ∧ row.2.fixed = .none ∧ row.2.cas = false ∧ row.2.atomic = false := by
  rcases h with ⟨rfl, h⟩ | ⟨rfl, rfl, h⟩ | ⟨rfl, rfl, h⟩ | ⟨rfl, rfl, h⟩ | ⟨rfl, rfl, h⟩
  · exact ⟨⟨shlRes, shlRes_of_gives hw ha h, fun _ _ _ => rfl⟩, rfl, rfl, rfl, rfl⟩
  · exact ⟨⟨shrRes, shrRes_of_gives hw ha h, fun _ _ _ => rfl⟩, rfl, rfl, rfl, rfl⟩
  · exact ⟨⟨sarRes, sarRes_of_gives hw ha hr h, fun _ _ _ => rfl⟩, rfl, rfl, rfl, rfl⟩
  · exact ⟨⟨rolRes, rolRes_of_gives hw ha hr h, fun _ _ _ => rfl⟩, rfl, rfl, rfl, rfl⟩
  · exact ⟨⟨rorRes, rorRes_of_gives hw ha hr h, fun _ _ _ => rfl⟩, rfl, rfl, rfl, rfl⟩

/-- R84 for a core that has no committed store to hand over before its instruction (as in `Tests.witness_rules`): the size of
the count, and the result and flags of Table 4.4. -/
theorem shiftRule_of_handed_nil {k : CoreId} {e : Enc} {s u v1 v2 v3 v4 : State} {i : Inst} {a n r : Nat} {v : Bool}
    {c : Option Bool} {d : Dest} {row : InstrRow} (hh : (s.core k).handed = []) (h : Issues k row.2 e anyLevel s i u)
    (hatomic : i.atomic = false) (hw : 0 < i.w)
    (hsa : ((ctxOf k i u).src 0).run (opened k i u) = .ok a v1) (hsn : ((ctxOf k i u).src 1).run v1 = .ok n v2)
    (hd : ((ctxOf k i u).dst 2).run v2 = .ok d v3) (ha : a < 2 ^ i.w) (hr : r < 2 ^ i.w)
    (hgives : ShiftGives row i.w a n r v c) :
    i.size ((ctxOf k i u).op 1).2.size = (if (s.core k).pcc.mode then 2 else 8) ∧
    (((ctxOf k i u).put 2 d r).run v3 = .ok () v4 →
      Marked k (v4.setCore k ((v4.core k).setFlags (shiftFlags i.w r v c))) →
      exec (row.1 k e) s = .next (seqEnd s (ctxOf k i u) (v4.setCore k ((v4.core k).setFlags (shiftFlags i.w r v c))))) := by
  obtain ⟨⟨f, hf, hexec⟩, hops, hfixed, hcas, hx⟩ := shift_of_gives hw ha hr hgives
  constructor
  · rw [count_size h hops hfixed hcas hx hatomic, begun_pcc h.runs hh h.begins]
  · intro hp hm
    rw [hexec]
    exact exec_binaryOp h hatomic hsa hsn hd hf hp hm

end Sys2Proof.Proofs
end

section
/-! The shifts and rotates (R84): a store, committed before, that resets the core before its instruction is decoded. -/

namespace Sys2Proof.Proofs

open Sys2Proof Sys2Proof.Machine

/-- A part of an instruction that runs to its end. -/
def completes (m : Exec Unit) (s : State) : Bool :=
  match m.run s with
  | .ok _ _ => true
  | .error _ _ => false

/-- What a part that runs to its end leaves is its `after`. -/
theorem run_eq_after {m : Exec Unit} {s : State} (h : completes m s = true) : m.run s = .ok () (after m s) := by
  unfold completes at h
  unfold after
  split at h
  · next a t hr => rw [hr]
  · cases h

/-- Core 0 of grove 0 of East. -/
def firstCore : CoreId := ⟨.east, 0, 0⟩

/-- A committed store of 1 to PWR_RST, a warm reset of the package, with the identity of the Warden, which the gate of the
latch lets through (R369). No store of a core carries it; the statement asks nothing of what a core has to hand over. -/
def warmResetStore : Effect where
  kind := .setup
  addr := regAddr Reg.PWR_RST_WARM.blk Reg.PWR_RST_WARM.off
  bytes := (leBytes 8 1).map some
  va := 0
  mid := 0x44
  auth := TCap.null
  datum := none
  pos := 0
  thread := 0
  stepseq := 0
  release := false
  sub := 0
  origin := 0

/-- A core in forerunner mode that executes and has that store still to hand over. -/
def foreCore : Core :=
  { Core.reset with run := .running, pcc := rootCap.put 98 98 1, handed := [warmResetStore] }

/-- The package in Run with East's Warden holding the latch. -/
def resetDue : State :=
  { State.reset with
    latch := some .east
    east := { Half.reset with mode := .run, cores := [(0, foreCore)] }
    west := { Half.reset with mode := .run } }

/-- SHL #1, #0, X0. -/
def shlOneByZero : Enc := ⟨[], 0, [⟨2, 1, 0, 0⟩, ⟨2, 0, 0, 0⟩, ⟨0, 0, 0, 0⟩]⟩

/-- SHL #1, #0, X0 as a core in native mode decodes it. -/
def shlInst : Inst where
  info := shlRow
  fore := false
  w := 64
  wide := false
  atomic := false
  release := false
  hold := none
  fixed := 0
  fixedOff := 1
  packHi := 1
  packLo := 1
  len := 4
  ops := shlOneByZero.ops.zip shiftOps

/-- The state after the fetch of the instruction. -/
def shlFetched : State := after (do newSlot firstCore false; fetch firstCore 4 : Exec Unit) (begun firstCore resetDue)

/-- Handing the store over resets the core, which begins its instruction in native mode. -/
theorem begun_core_mode : ((begun firstCore resetDue).core firstCore).pcc.mode = false := by decide +kernel

/-- The instruction issues on the core that was reset. -/
theorem issues_after_reset : Issues firstCore shlRow shlOneByZero anyLevel resetDue shlInst shlFetched where
  runs := by decide +kernel
  spelled := by decide +kernel
  begins := run_eq_after (by decide +kernel)
  decoded := by rw [begun_core_mode]; rfl
  fetched := run_eq_after (m := do newSlot firstCore false; fetch firstCore 4) (by decide +kernel)
  noLimit := fun h => absurd h (by decide +kernel)
  noHold := fun _ => rfl
  allowed := rfl
  decimal := fun h => absurd h (by decide +kernel)
  older := rfl

/-- Refutes O45: what a core has committed is handed over before its instruction is decoded, and may change its mode. The core of
`resetDue` is in forerunner mode, where the statement gives the count 16 bits; the store that it hands over resets it, and the
SHL that follows is decoded in native mode, with a count of 64 bits. `shiftRule_of_handed_nil` is the rule without such a store. -/
theorem not_shiftRule : ¬ Obligations.ShiftRule := by
  unfold Obligations.ShiftRule
  intro hrule
  have hgives : ShiftGives (.shl, shlRow) 64 1 0 1 false none := .inl ⟨rfl, .inl ⟨rfl, rfl, rfl, rfl⟩⟩
  obtain ⟨hsize, -⟩ := hrule firstCore shlOneByZero resetDue shlFetched _ _ _ shlInst 1 0 64 1 false none (.x 0)
    (.shl, shlRow) issues_after_reset rfl rfl (by decide) rfl rfl rfl (by decide) (by decide) hgives
  exact absurd hsize (by decide +kernel)

end Sys2Proof.Proofs
end

section
/-! The bytes of the instructions (R60–R72): no two rows share bytes, and an instruction's bytes are read back. -/

namespace Sys2Proof.Proofs

open Sys2Proof Sys2Proof.Machine

/-- The opcode bytes of neither row begin those of the other. -/
def opcodesApart (x y : OpInfo) : Bool :=
  !(opcodeBytes x).isPrefixOf (opcodeBytes y) && !(opcodeBytes y).isPrefixOf (opcodeBytes x)

/-- No two rows of Tables 3.6 and 3.7 have opcode bytes of which one begins the other. -/
theorem rowList_pairwise_opcodesApart : rowList.Pairwise fun x y => opcodesApart x y = true := by decide +kernel

/-- Each condition of a branch, in either form, has its row. -/
theorem bccRow_mem_rowList (cc : BitVec 4) (wide : Bool) : bccRow cc wide ∈ rowList := by
  have hall : ∀ n : Fin 16, ∀ b : Bool, rowList.contains (bccRow (BitVec.ofFin n) b) = true := by decide +kernel
  exact List.contains_iff_mem.mp (hall cc.toFin wide)

/-- An instruction's row stands in Table 3.6 or 3.7. -/
theorem rowOf_mem_rowList {c : Instr} {k : CoreId} {x : OpInfo} {e : Enc} (h : rowOf c = some (k, x, e)) : x ∈ rowList := by
  cases c
  all_goals cases h
  case bcc => exact bccRow_mem_rowList _ _
  all_goals exact List.contains_iff_mem.mp (by decide +kernel)

theorem opcodeBytes_eq_cons (x : OpInfo) : ∃ r, opcodeBytes x = x.opcode :: r := by
  unfold opcodeBytes
  split
  · exact ⟨[], rfl⟩
  · exact ⟨_, rfl⟩

theorem dropOpcode_opcodeBytes (x : OpInfo) (bs : List Byte) : dropOpcode x (opcodeBytes x ++ bs) = some bs := by
  unfold dropOpcode
  rw [if_pos (by simp), List.drop_left]

/-- Bytes that follow a row's opcode bytes are those of no row apart from it. -/
theorem dropOpcode_eq_none {x y : OpInfo} (h : opcodesApart y x = true) (bs : List Byte) :
    dropOpcode y (opcodeBytes x ++ bs) = none := by
  simp only [opcodesApart, Bool.and_eq_true, Bool.not_eq_true', ← Bool.not_eq_true, List.isPrefixOf_iff_prefix] at h
  unfold dropOpcode
  refine if_neg fun hp => ?_
  rw [List.isPrefixOf_iff_prefix] at hp
  exact (List.prefix_or_prefix_of_prefix hp (List.prefix_append _ _)).elim h.1 h.2

/-- The leading bytes of an instruction end where its opcode begins. -/
theorem readLeads_encBytes {fore : Bool} {x : OpInfo} {e : Enc} (hleads : e.leads.all Lead.wf = true)
    (hop : x.opcode.toNat < 0xF0) (rest : List Byte) :
    readLeads (encBytes fore x e ++ rest) = (e.leads, opcodeBytes x ++ (leBytes x.fixed.len e.fixed.toNat ++
      (specsBytes e.ops (opSizes fore x e.leads e.fixed) ++ rest))) := by
  obtain ⟨r, hr⟩ := opcodeBytes_eq_cons x
  simp only [encBytes, List.append_assoc]
  rw [hr, List.cons_append, readLeads_leads e.leads hleads x.opcode _ hop]

/-- What an encoding that can be written without loss keeps to. -/
theorem encFits_elim {fore : Bool} {x : OpInfo} {e : Enc} (h : encFits fore x e = true) :
    e.leads.all Lead.wf = true ∧ e.ops.all Spec.wf = true ∧ x.opcode.toNat < 0xF0 ∧
    e.ops.length = (opSizes fore x e.leads e.fixed).length ∧
    (e.ops.zip (opSizes fore x e.leads e.fixed)).all (fun p => p.1.mode != 3 || p.1.ext.toNat < 2 ^ (8 * p.2)) = true ∧
    fixedValue x.fixed (e.fixed.toNat % 2 ^ (8 * x.fixed.len)) = e.fixed := by
  simp only [encFits, Enc.wf, Bool.and_eq_true, beq_iff_eq, decide_eq_true_eq] at h
  obtain ⟨⟨⟨⟨⟨⟨hleads, hspecs⟩, -⟩, hlength⟩, hop⟩, himm⟩, hfixed⟩ := h
  refine ⟨hleads, hspecs, hop, by simpa [opSizes] using hlength, himm, fixedValue_of_leBytes _ _ ?_⟩
  split at hfixed <;> simp_all

/-- The bytes of an encoding are read back as it, for its row. -/
theorem readEnc_encBytes {fore : Bool} {x : OpInfo} {e : Enc} (h : encFits fore x e = true) (rest : List Byte) :
    readEnc fore x (encBytes fore x e ++ rest) = some (e, rest) := by
  obtain ⟨hleads, hspecs, hop, hlength, himm, hfixed⟩ := encFits_elim h
  unfold readEnc
  rw [readLeads_encBytes hleads hop]
  simp only [dropOpcode_opcodeBytes, Option.bind_eq_bind, Option.bind_some, List.length_append, leBytes_count]
  rw [if_neg (by omega), List.take_left' (leBytes_count _ _), List.drop_left' (leBytes_count _ _), leNat_leBytes_mod, hfixed,
    readSpecs_specsBytes _ _ _ hlength hspecs himm]
  rfl

/-- The bytes of an encoding are those of no other row. -/
theorem readEnc_encBytes_apart {fore : Bool} {x y : OpInfo} {e : Enc} (h : encFits fore x e = true)
    (hxy : opcodesApart y x = true) (rest : List Byte) : readEnc fore y (encBytes fore x e ++ rest) = none := by
  obtain ⟨hleads, -, hop, -⟩ := encFits_elim h
  unfold readEnc
  rw [readLeads_encBytes hleads hop]
  simp only [dropOpcode_eq_none hxy, Option.bind_eq_bind, Option.bind_none]

/-- Settles O58: the rows before an instruction's own do not have its bytes, and its own row reads them back. -/
theorem encodingRoundTrip : Obligations.EncodingRoundTrip := by
  unfold Obligations.EncodingRoundTrip
  intro c k x e fore rest hrow hfits
  obtain ⟨before, behind, hrows⟩ := List.append_of_mem (rowOf_mem_rowList hrow)
  have hapart := rowList_pairwise_opcodesApart
  rw [hrows, List.pairwise_append] at hapart
  obtain ⟨-, -, hapart⟩ := hapart
  unfold readInstr
  rw [List.findSome?_eq_some_iff]
  refine ⟨before, x, behind, hrows, ?_, fun y hy => ?_⟩
  · rw [readEnc_encBytes hfits]; rfl
  · rw [readEnc_encBytes_apart hfits (hapart y hy x List.mem_cons_self)]; rfl

/-- What a decoding gives, where it succeeds, satisfies `P`. -/
def Gives {α : Type} (m : Dec α) (P : α → Prop) : Prop := ∀ a, m = .ok a → P a

section
variable {α β : Type} {P : β → Prop} {Q : α → Prop}

theorem gives_bind {m : Dec α} {f : α → Dec β} (hm : Gives m Q) (hf : ∀ a, Q a → Gives (f a) P) : Gives (m >>= f) P := by
  intro b h
  obtain ⟨a, ha, hb⟩ := dec_bind_elim h
  exact hf a (hm a ha) b hb

theorem gives_pure {b : β} (h : P b) : Gives (pure b : Dec β) P := by
  rintro _ ⟨⟩
  exact h

/-- A check that only refuses. -/
theorem gives_guard {c : Prop} [Decidable c] {err : DecErr} {f : Unit → Dec β} (h : Gives (f ()) P) :
    Gives (if c then throw err >>= f else f ()) P :=
  fun b hb => h b (dec_guard_elim hb)

/-- The check of a row's fixed bytes only refuses. -/
theorem gives_fixedCheck {x : Fixed} {c1 : Bool → Prop} {c2 : Prop} {c3 : Bool → Bool → Prop} [∀ w, Decidable (c1 w)] [Decidable c2]
    [∀ a b, Decidable (c3 a b)] {err : DecErr} {f : Unit → Dec β} (h : Gives (f ()) P) :
    Gives (match x with
      | .sysInt wr => if c1 wr then throw err >>= f else f ()
      | .sysCap => if c2 then throw err >>= f else f ()
      | .packed lo hi => if c3 lo hi then throw err >>= f else f ()
      | _ => f ()) P := by
  cases x
  all_goals first | exact gives_guard h | exact h

end

theorem gives_needBytes (n : Nat) : Gives (needBytes n) fun _ => n ≤ 15 := by
  intro _ h
  unfold needBytes at h
  split at h
  · cases h
  · omega

/-- A specifier that is decoded ends within the 15 bytes of an instruction (R72). -/
theorem decodeSpec_le {fore tagOps : Bool} {sp : Spec} {cls : OpClass} {size off o : Nat}
    (h : decodeSpec fore tagOps sp cls size off = .ok o) : o ≤ 15 := by
  revert o
  change Gives _ _
  unfold decodeSpec
  refine gives_bind (gives_needBytes _) fun _ _ => gives_guard (gives_guard (gives_guard ?_))
  dsimp only
  split
  · refine gives_bind (gives_needBytes _) fun _ _ => gives_guard ?_
    exact gives_bind (gives_needBytes _) fun _ h => gives_pure h
  · exact gives_bind (gives_needBytes _) fun _ h => gives_pure h

/-- The check of ATOMIC's operand, which is made in two ways, only refuses. -/
theorem gives_atomicCheck {β : Type} {P : β → Prop} {a b c1 c2 : Prop} [Decidable a] [Decidable b] [Decidable c1] [Decidable c2]
    {err1 err2 : DecErr} {f : Unit → Dec β} (h : Gives (f ()) P) :
    Gives (if a then if b then if c1 then throw err1 >>= f else f () else if c2 then throw err2 >>= f else f ()
      else f ()) P := by
  split_ifs
  all_goals first | exact h | exact fun _ hb => nomatch hb

/-- The specifiers are decoded one after the other, each from where the one before it ends. -/
theorem gives_decodeSpecs {fore tagOps : Bool} {size : OpSize → Nat} (ds : List OpDesc) (sps : List Spec) (start : Nat)
    (offs : List Nat) (hs : start ≤ 15) :
    Gives (forIn (ds.zip sps) (start, offs) fun d r => do
        let o ← decodeSpec fore tagOps d.2 d.1.cls (size d.1.size) r.1
        pure (ForInStep.yield (o, r.2 ++ [r.1])))
      fun r => r.1 = start + (specsBytes (sps.take ds.length) ((ds.take sps.length).map fun d => size d.size)).length ∧ r.1 ≤ 15 := by
  induction ds generalizing sps start offs with
  | nil => exact gives_pure ⟨by simp [specsBytes], hs⟩
  | cons d ds ih =>
    cases sps with
    | nil => exact gives_pure ⟨by simp [specsBytes], hs⟩
    | cons sp sps =>
      rw [List.zip_cons_cons, List.forIn_cons]
      refine gives_bind (Q := fun r => ∃ o, r = .yield (o, offs ++ [start]) ∧ o = start + (specBytes sp (size d.size)).length ∧ o ≤ 15)
        (gives_bind (Q := fun o => o = start + (specBytes sp (size d.size)).length ∧ o ≤ 15) ?_ fun o ho => gives_pure ⟨o, rfl, ho⟩) ?_
      · exact fun o ho => ⟨decodeSpec_ok _ _ _ _ _ _ _ ho, decodeSpec_le ho⟩
      · rintro _ ⟨o, rfl, ho, ho15⟩
        intro r hr
        obtain ⟨hr1, hr2⟩ := ih sps o _ ho15 r hr
        refine ⟨?_, hr2⟩
        rw [hr1, ho]
        simp only [List.length_cons, List.take_succ_cons, List.map_cons, specsBytes, List.length_append]
        omega

/-- How many fixed bytes a row has, as the decoder counts them. -/
theorem fixedLen_eq (f : Fixed) : f.len = match f with | .none => 0 | .disp n => n | _ => 1 := by
  cases f <;> rfl

theorem opcodeBytes_length (x : OpInfo) : (opcodeBytes x).length = if x.esc.isSome then 2 else 1 := by
  unfold opcodeBytes
  split
  · next h => rw [h]; rfl
  · next h => rw [h]; rfl

/-- The number of an instruction's bytes, part by part. -/
theorem encBytes_length (fore : Bool) (x : OpInfo) (e : Enc) :
    (encBytes fore x e).length = (e.leads.flatMap leadBytes).length + (if x.esc.isSome then 2 else 1) + x.fixed.len +
      (specsBytes e.ops (opSizes fore x e.leads e.fixed)).length := by
  simp only [encBytes, List.length_append, leBytes_count, opcodeBytes_length]

/-- The decoder gives an instruction the length of its bytes, within the 15 bytes of R72. -/
theorem gives_decodeEnc_len {fore : Bool} {x : OpInfo} {e : Enc} (hops : e.ops.length = (opRows x e.leads).length) :
    Gives (decodeEnc fore x e) fun i => i.len = (encBytes fore x e).length ∧ i.len ≤ 15 := by
  unfold decodeEnc
  refine gives_bind (Q := fun r => r.2 = 0 + (e.leads.flatMap leadBytes).length ∧ r.1.map (·.1) = e.leads)
    (fun r hr => by simpa using decodeLeads_ok _ _ _ _ _ _ hr) ?_
  rintro ⟨leads, off⟩ ⟨hoff, hleads⟩
  have hany : ∀ b, (leads.any fun l => l.1.byte == b) = hasLead e.leads b := fun b => by
    rw [hasLead, ← hleads, List.any_map]; rfl
  simp only [hany]
  refine gives_bind (gives_needBytes _) fun _ _ => gives_guard ?_
  refine gives_bind (gives_needBytes _) fun _ _ => ?_
  refine gives_bind (Q := fun _ => True) (fun _ _ => trivial) fun _ _ => gives_guard ?_
  refine gives_bind (gives_needBytes _) fun _ hfixed => gives_fixedCheck ?_
  refine gives_bind (gives_decodeSpecs _ _ _ _ hfixed) ?_
  rintro ⟨stop, offs⟩ ⟨hstop, hstop15⟩
  refine gives_atomicCheck (gives_guard (gives_guard (gives_guard (gives_pure ⟨?_, hstop15⟩))))
  rw [encBytes_length, fixedLen_eq, opSizes]
  change stop = (off + (if x.esc.isSome then 2 else 1) + _) + (specsBytes (e.ops.take (opRows x e.leads).length)
    (((opRows x e.leads).take e.ops.length).map _)).length at hstop
  rw [hops, List.take_length, ← hops, List.take_length] at hstop
  obtain rfl : off = _ := hoff.trans (Nat.zero_add _)
  exact hstop

/-- Settles O59: each part of the decoder passes over the bytes of its part of the encoding. -/
theorem instructionLength : Obligations.InstructionLength := by
  unfold Obligations.InstructionLength
  intro c k x e fore i _ hfits hdec
  obtain ⟨-, -, -, hlength, -, -⟩ := encFits_elim hfits
  obtain ⟨hlen, h15⟩ := gives_decodeEnc_len (by simpa [opSizes] using hlength) i hdec
  refine ⟨hlen, ?_, h15⟩
  rw [hlen, encBytes_length]
  split <;> omega

/-- Settles O60, by evaluation: the spec's bytes are fixed values. -/
theorem encodingExamples : Obligations.EncodingExamples := by
  unfold Obligations.EncodingExamples
  decide +kernel

end Sys2Proof.Proofs
end

section
/-! The sparse data of the state: the registers of a half as they are written and read (R9, R31), and its memory (R46). -/

namespace Sys2Proof.Proofs

open Sys2Proof Sys2Proof.Machine

/-- A register after the write of one: the one written, or as before. -/
theorem reg_setReg {s : State} {h k : HalfId} {blk off b o : Nat} {w : Word}
    (hwf : SMap.wf (regReset (regHome h blk)) (s.half (regHome h blk)).regs = true) (hoff : off < 0x10000) (ho : o < 0x10000) :
    (s.setReg h blk off w).reg k b o = if regHome k b = regHome h blk ∧ b = blk ∧ o = off then w else s.reg k b o := by
  unfold State.reg State.setReg
  by_cases hhome : regHome k b = regHome h blk
  · rw [hhome, State.half_upd_self]
    by_cases hkey : b * 0x10000 + o = blk * 0x10000 + off
    · rw [if_pos ⟨rfl, by omega, by omega⟩, hkey]
      exact SMap.get_set_self hwf
    · rw [if_neg (by rintro ⟨-, rfl, rfl⟩; exact hkey rfl)]
      exact SMap.get_set_ne hkey
  · rw [State.half_upd_ne _ _ hhome, if_neg fun h => hhome h.1]

/-- Settles O55, by the rules of `SMap.set` for the key written and for the others. -/
theorem registerReadsBack : Obligations.RegisterReadsBack := by
  unfold Obligations.RegisterReadsBack
  intro s h k blk off b o w hwf hoff ho
  exact reg_setReg hwf hoff ho

/-- The fields of every register of the maps stand apart from each other. -/
theorem all_apart_regsOf (blk : Nat) : (regsOf blk).all (fun d => apart d.fields) = true := by
  have hgrv : regsGrv.all (fun d => apart d.fields) = true := by decide +kernel
  unfold regsOf
  split
  case h_21 =>
    split
    · exact hgrv
    · rfl
  all_goals decide +kernel

/-- The fields of a register at an offset stand apart from each other. -/
theorem apart_of_regAt {blk off : Nat} {d : RegDesc} (h : regAt blk off = some d) : apart d.fields = true :=
  List.all_eq_true.mp (all_apart_regsOf blk) d (List.mem_of_find?_eq_some h)

/-- A bit lies in one field alone where the fields stand apart. -/
theorem eq_of_apart {fs : List RField} (h : apart fs = true) {f g : RField} (hf : f ∈ fs) (hg : g ∈ fs) {j : Nat}
    (hfl : f.lo ≤ j) (hfh : j ≤ f.hi) (hgl : g.lo ≤ j) (hgh : j ≤ g.hi) : g = f := by
  simp only [apart, Bool.and_eq_true, decide_eq_true_eq] at h
  by_contra hne
  have : Std.Symm fun f g : RField => f.hi < g.lo ∨ g.hi < f.lo := ⟨fun _ _ => Or.symm⟩
  have := h.2.forall hg hf hne
  omega

/-- Settles O56: the fields of every register stand apart, so that a bit takes the write of its own field (`mergeFields_in`). -/
theorem accessCodes : Obligations.AccessCodes := by
  unfold Obligations.AccessCodes
  intro blk off d hreg f hf locked old raw lanes j hlo hhi
  have hapart := apart_of_regAt hreg
  refine ⟨fun g hg hgl hgh => eq_of_apart hapart hf hg hlo hhi hgl hgh, ?_⟩
  rw [mergeWrite_eq]
  cases hlane : lanes.testBit j with
  | false =>
    simp only [apart, Bool.and_eq_true, List.all_eq_true, decide_eq_true_eq] at hapart
    rw [if_pos rfl, mergeFields_other _ _ _ _ hapart.1 j fun _ _ => .inr (.inr hlane)]
  | true =>
    rw [if_neg (by simp)]
    exact mergeFields_in _ _ _ _ hapart f hf j hlo hhi hlane _

/-- What a byte of memory reads as after a write of bytes. -/
theorem get_writeCells {m : List Host.Cell} (a : Nat) (bs : List Byte) (c : Nat) (hwf : SMap.wf memDefault m = true) :
    SMap.get memDefault (writeCells m a bs) c =
      if a ≤ c ∧ c < a + bs.length then bs.getD (c - a) 0 else SMap.get memDefault m c := by
  induction bs generalizing m a with
  | nil => rw [if_neg (by simp), writeCells]
  | cons b bs ih =>
    rw [writeCells, ih _ (SMap.wf_set hwf)]
    rcases Nat.lt_trichotomy c a with hc | rfl | hc
    · rw [if_neg (by omega), if_neg (by omega), SMap.get_set_ne (by omega)]
    · rw [if_neg (by omega), if_pos (by simp), SMap.get_set_self hwf, Nat.sub_self]; rfl
    · by_cases hin : c < a + 1 + bs.length
      · rw [if_pos (by omega), if_pos (by simp; omega), show c - a = (c - (a + 1)) + 1 by omega]; rfl
      · rw [if_neg (by omega), if_neg (by simp; omega), SMap.get_set_ne (by omega)]

/-- A write of bytes keeps the canonical form. -/
theorem wf_writeCells {m : List Host.Cell} {a : Nat} {bs : List Byte} (hwf : SMap.wf memDefault m = true) :
    SMap.wf memDefault (writeCells m a bs) = true := by
  induction bs generalizing m a with
  | nil => exact hwf
  | cons b bs ih => exact ih (SMap.wf_set hwf)

/-- One byte outside the bytes of a write reads as before. -/
theorem readCells_writeCells_outside {m : List Host.Cell} {a c : Nat} {bs : List Byte} (hwf : SMap.wf memDefault m = true)
    (hc : c < a ∨ a + bs.length ≤ c) : readCells (writeCells m a bs) c 1 = readCells m c 1 := by
  simp only [readCells]
  rw [get_writeCells _ _ _ hwf, if_neg (by omega)]

/-- The granules that bytes touch. -/
theorem mem_granulesOf {a n g : Nat} (hn : 0 < n) : g ∈ granulesOf a n ↔ g * 16 < a + n ∧ a < g * 16 + 16 := by
  rw [granulesOf, if_neg (by omega)]
  simp only [List.mem_map, List.mem_range]
  constructor
  · rintro ⟨i, hi, rfl⟩; omega
  · intro h; exact ⟨g - a / 16, by omega, by omega⟩

/-- A granule that merges loses its tag, and no other does. -/
theorem mem_tags_mergeGranule {m : Mem} {g i : Nat} {full : Bool} : i ∈ (mergeGranule m g full).1.tags ↔ i ∈ m.tags ∧ i ≠ g := by
  have hdel : i ∈ m.tags.del g ↔ i ∈ m.tags ∧ i ≠ g := by simp [NatSet.del]
  unfold mergeGranule
  split_ifs <;> exact hdel

/-- The granules that a write touches lose their tags, and no others do. -/
theorem mem_tags_put {m : Mem} {a i : Nat} {bs : List Byte} :
    i ∈ (m.put a bs).1.tags ↔ i ∈ m.tags ∧ i ∉ granulesOf a bs.length := by
  have hfold : ∀ (gs : List Nat) (acc : Mem × List (Nat × Merge)),
      i ∈ (gs.foldl (fun (acc : Mem × List (Nat × Merge)) g =>
        let x := mergeGranule acc.1 g (coversGranule a bs.length g)
        (x.1, acc.2 ++ [(g, x.2)])) acc).1.tags ↔ i ∈ acc.1.tags ∧ i ∉ gs := by
    intro gs
    induction gs with
    | nil => simp
    | cons g gs ih =>
      intro acc
      rw [List.foldl_cons, ih, mem_tags_mergeGranule, List.mem_cons, not_or, and_assoc]
  exact hfold _ _

/-- Bytes that are written read back. -/
theorem readCells_writeCells {m : List Host.Cell} (a : Nat) (bs : List Byte) (hwf : SMap.wf memDefault m = true) :
    readCells (writeCells m a bs) a bs.length = bs := by
  induction bs generalizing m a with
  | nil => rfl
  | cons b bs ih =>
    rw [List.length_cons, readCells, get_writeCells _ _ _ hwf, if_pos (by simp), writeCells, ih _ (SMap.wf_set hwf), Nat.sub_self]
    rfl

/-- What is in a rising list after an addition. -/
theorem mem_add {m : NatSet} {k i : Nat} : i ∈ m.add k ↔ i = k ∨ i ∈ m := by
  induction m with
  | nil => simp [NatSet.add]
  | cons a m ih =>
    rw [NatSet.add]
    split_ifs with h1 h2
    · simp [h1]
    · simp
    · rw [List.mem_cons, ih, List.mem_cons]; tauto

/-- A granule that is not merged, or merged whole, is poisoned after a merge only where it was before and is not the granule merged. -/
theorem mem_poison_mergeGranule {m : Mem} {g i : Nat} {full : Bool} (hfull : i = g → full = true)
    (h : i ∈ (mergeGranule m g full).1.poison) : i ∈ m.poison ∧ i ≠ g := by
  unfold mergeGranule at h
  cases full with
  | true => simpa [NatSet.del] using h
  | false =>
    have hne : i ≠ g := fun e => Bool.noConfusion (hfull e)
    simp only [Bool.false_eq_true, if_false] at h
    split_ifs at h
    · exact ⟨(mem_add.mp h).resolve_left hne, hne⟩
    all_goals exact ⟨h, hne⟩

/-- A granule that a write covers whole is not poisoned after it (Table 8.2). -/
theorem not_mem_poison_put {m : Mem} {a i : Nat} {bs : List Byte} (hi : coversGranule a bs.length i = true) :
    i ∉ (m.put a bs).1.poison := by
  have hfold : ∀ (gs : List Nat) (acc : Mem × List (Nat × Merge)),
      i ∈ (gs.foldl (fun (acc : Mem × List (Nat × Merge)) g =>
        let x := mergeGranule acc.1 g (coversGranule a bs.length g)
        (x.1, acc.2 ++ [(g, x.2)])) acc).1.poison → i ∈ acc.1.poison ∧ i ∉ gs := by
    intro gs
    induction gs with
    | nil => simp
    | cons g gs ih =>
      intro acc h
      obtain ⟨hmerge, hgs⟩ := ih _ h
      obtain ⟨hp, hne⟩ := mem_poison_mergeGranule (fun e => e ▸ hi) hmerge
      exact ⟨hp, List.not_mem_cons_of_ne_of_not_mem hne hgs⟩
  simp only [coversGranule, Bool.and_eq_true, decide_eq_true_eq] at hi
  exact fun h => (hfold _ _ h).2 ((mem_granulesOf (by omega)).mpr (by omega))

/-- What the write of one byte or more leaves of a memory: the rule of O54. -/
theorem memoryWrite_of_ne_nil (m : Mem) (a : Nat) {bs : List Byte} (hbs : bs ≠ []) (hwf : SMap.wf memDefault m.cells = true) :
    SMap.wf memDefault (m.put a bs).1.cells = true ∧
    readCells (m.put a bs).1.cells a bs.length = bs ∧
    (∀ c, c < a ∨ a + bs.length ≤ c → readCells (m.put a bs).1.cells c 1 = readCells m.cells c 1) ∧
    (∀ g, g ∈ (m.put a bs).1.tags ↔ g ∈ m.tags ∧ ¬ (g * 16 < a + bs.length ∧ a < g * 16 + 16)) ∧
    (∀ g, a ≤ g * 16 → g * 16 + 16 ≤ a + bs.length → g ∉ (m.put a bs).1.poison) := by
  refine ⟨wf_writeCells hwf, readCells_writeCells a bs hwf, fun c => readCells_writeCells_outside hwf, fun g => ?_,
    fun g hlo hhi => not_mem_poison_put (by simp [coversGranule, hlo, hhi])⟩
  rw [mem_tags_put, mem_granulesOf (List.length_pos_iff.mpr hbs)]

/-- Granule 0 of a memory holds a tag. -/
def taggedMem : Mem := { Half.reset.mem with tags := [0] }

/-- Refutes O54: a write of no bytes touches no granule, so that none loses its tag, where the statement takes the tag of the granule
that the write's address lies within. `memoryWrite_of_ne_nil` is the rule for every other write. -/
theorem not_memoryWriteResult : ¬ Obligations.MemoryWriteResult := by
  unfold Obligations.MemoryWriteResult
  intro hrule
  obtain ⟨-, -, -, htags, -⟩ := hrule taggedMem 8 [] rfl
  exact ((htags 0).mp (by decide)).2 (by decide)

end Sys2Proof.Proofs
end

section
/-! Derivations of capabilities: the fields of a capability after one is replaced, and what keeps its bounds (R34–R36, R40). -/

namespace Sys2Proof.Proofs

open Sys2Proof Sys2Proof.Machine

/-- The bits of a capability after a field is replaced. -/
theorem testBit_put (c : TCap) {hi lo : Nat} (v i : Nat) (hlo : lo ≤ hi) :
    (c.put hi lo v).bits.toNat.testBit i =
      if lo ≤ i ∧ i ≤ hi ∧ i < 128 then v.testBit (i - lo) else c.bits.toNat.testBit i := by
  simp only [TCap.put, BitVec.testBit_toNat, BitVec.getLsbD_or, BitVec.getLsbD_and, BitVec.getLsbD_not, BitVec.getLsbD_ofNat,
    testBit_mask hi lo i hlo, Nat.testBit_mul_two_pow]
  by_cases h128 : i < 128
  · by_cases hin : lo ≤ i ∧ i ≤ hi
    · simp [h128, hin.1, hin.2]
    · have hout : (decide (lo ≤ i) && decide (i ≤ hi)) = false := by simpa using hin
      rw [if_neg (by tauto), hout]
      simp [h128]
  · simp [h128, BitVec.getLsbD_of_ge c.bits i (by omega)]

/-- A field replaced holds the value's low bits. -/
theorem fld_put_self (c : TCap) {hi lo : Nat} (v : Nat) (hlo : lo ≤ hi) (hhi : hi < 128) :
    (c.put hi lo v).fld hi lo = v % 2 ^ (hi + 1 - lo) := by
  refine Nat.eq_of_testBit_eq fun i => ?_
  simp only [TCap.fld, nbits, Nat.testBit_mod_two_pow, Nat.testBit_shiftRight, testBit_put c v (lo + i) hlo, Nat.add_sub_cancel_left]
  by_cases hi' : i < hi + 1 - lo
  · simp [hi', show lo + i ≤ hi by omega, show lo + i < 128 by omega]
  · simp [hi']

/-- A field apart from the one replaced stands. -/
theorem fld_put_of_apart (c : TCap) {hi lo hi' lo' : Nat} (v : Nat) (hlo : lo ≤ hi) (h : hi' < lo ∨ hi < lo') :
    (c.put hi lo v).fld hi' lo' = c.fld hi' lo' :=
  nbits_eq_of_testBit fun i h1 h2 => by rw [testBit_put c v i hlo, if_neg (by omega)]

/-- The bounds of a capability come from its exponent, bounds fields and cursor. -/
theorem bounds_congr {c d : TCap} (he : d.exp = c.exp) (hb : d.fieldB = c.fieldB) (ht : d.fieldT = c.fieldT)
    (hc : d.cursor = c.cursor) : d.bounds = c.bounds := by
  simp only [TCap.bounds, he, hb, ht, hc]

/-- A field above the bounds fields leaves the bounds. -/
theorem bounds_put_of_high (c : TCap) {hi lo : Nat} (v : Nat) (hlo : lo ≤ hi) (h : 98 ≤ lo) :
    (c.put hi lo v).bounds = c.bounds := by
  apply bounds_congr <;> exact fld_put_of_apart c v hlo (by omega)

/-- Moving the cursor within the representable range keeps the unit that R34 decodes the base from (R35). -/
theorem baseAt_eq_of_representable {cur cur' e b : Nat} (hlo : baseAt cur e b - 1024 * 2 ^ e ≤ (cur' : Int))
    (hhi : (cur' : Int) < baseAt cur e b + 15360 * 2 ^ e) : baseAt cur' e b = baseAt cur e b := by
  have hpos : (0 : Int) < 2 ^ e := by positivity
  have hunit : ((cur' / 2 ^ e : Nat) : Int) = (cur' : Int) / 2 ^ e := by push_cast; rfl
  simp only [baseAt] at hlo hhi ⊢
  set unit : Int := ((cur / 2 ^ e : Nat) : Int)
  have h1 : unit - (unit - b + 1024) % 16384 + 1024 - 1024 ≤ (cur' : Int) / 2 ^ e := by
    rw [Int.le_ediv_iff_mul_le hpos]
    linarith
  have h2 : (cur' : Int) / 2 ^ e < unit - (unit - b + 1024) % 16384 + 1024 + 15360 := by
    rw [Int.ediv_lt_iff_lt_mul hpos]
    linarith
  rw [hunit]
  congr 1
  omega

/-- The fields of a capability whose cursor is moved. -/
theorem moveTo_bits (c : TCap) (t : Int) : (c.moveTo t).bits = (c.put 54 0 (unsignedOf 55 t)).bits := by
  unfold TCap.moveTo
  dsimp only
  split <;> rfl

/-- A cursor move keeps the tag only where R35 lets it. -/
theorem moveTo_tag {c : TCap} {t : Int} (h : (c.moveTo t).tag = true) :
    c.tag = true ∧ c.representable t = true ∧ 0 ≤ t ∧ t < 2 ^ 55 := by
  unfold TCap.moveTo at h
  dsimp only at h
  split at h
  · next hcond =>
    simp only [Bool.and_eq_true, decide_eq_true_eq] at hcond
    exact ⟨hcond.1.1, hcond.1.2, hcond.2⟩
  · cases h

theorem fld_moveTo (c : TCap) (t : Int) {hi lo : Nat} (h : 54 < lo) : (c.moveTo t).fld hi lo = c.fld hi lo := by
  rw [TCap.fld, moveTo_bits]
  exact fld_put_of_apart c _ (by omega) (by omega)

theorem cursor_moveTo {c : TCap} {t : Int} (h0 : 0 ≤ t) (h55 : t < 2 ^ 55) : ((c.moveTo t).cursor : Int) = t := by
  have hcur : (c.moveTo t).cursor = unsignedOf 55 t % 2 ^ 55 := by
    rw [TCap.cursor, TCap.fld, moveTo_bits]
    exact fld_put_self c _ (by omega) (by omega)
  rw [hcur, unsignedOf, Int.emod_eq_of_lt h0 h55]
  omega

/-- A cursor move that keeps the tag keeps the bounds. -/
theorem bounds_moveTo {c : TCap} {t : Int} (h : (c.moveTo t).tag = true) : (c.moveTo t).bounds = c.bounds := by
  obtain ⟨-, hrep, h0, h55⟩ := moveTo_tag h
  have he : (c.moveTo t).exp = c.exp := fld_moveTo c t (by omega)
  have hb : (c.moveTo t).fieldB = c.fieldB := fld_moveTo c t (by omega)
  have ht : (c.moveTo t).fieldT = c.fieldT := fld_moveTo c t (by omega)
  unfold TCap.representable at hrep
  simp only [TCap.bounds, he, hb, ht]
  split_ifs at hrep ⊢ with h63
  · rfl
  · simp only [TCap.base, TCap.bounds, h63, if_false, Bool.and_eq_true, decide_eq_true_eq] at hrep
    obtain ⟨⟨⟨hlo, hhi⟩, -⟩, -⟩ := hrep
    rw [← cursor_moveTo (c := c) h0 h55] at hlo hhi
    rw [baseAt_eq_of_representable hlo hhi]

/-- The exponent that a request is fitted with encodes its rounded range (R36). -/
theorem fitExp_spec {b l : Nat} {e n e' : Nat} (h : fitExp b l e n = some e') :
    e' < e + n ∧ (b + l + 2 ^ e' - 1) / 2 ^ e' * 2 ^ e' - b / 2 ^ e' * 2 ^ e' ≤ 14336 * 2 ^ e' := by
  induction n generalizing e with
  | zero => cases h
  | succ n ih =>
    rw [fitExp] at h
    split at h
    · next hfits =>
      cases h
      exact ⟨by omega, hfits⟩
    · obtain ⟨hlt, hfits⟩ := ih h
      exact ⟨by omega, hfits⟩

/-- A fitted range is a multiple of its unit at both ends and holds the request (R36), or is the whole of the address space. -/
theorem fitRange_spec {b l : Nat} {f : Fit} (h : fitRange b l = some f) :
    (f.e < 42 ∧ (∃ lo len, f.base = lo * 2 ^ f.e ∧ f.top = (lo + len) * 2 ^ f.e ∧ len ≤ 14336) ∧ f.base ≤ b ∧ b + l ≤ f.top) ∨
    (f = ⟨63, 0, 2 ^ 55⟩ ∧ b = 0 ∧ l = 2 ^ 55) := by
  unfold fitRange at h
  split at h
  · next e he =>
    cases h
    obtain ⟨hlt, hfits⟩ := fitExp_spec he
    have hpos : 0 < 2 ^ e := by positivity
    have hbase : b / 2 ^ e * 2 ^ e ≤ b := Nat.div_mul_le_self b _
    have htop : b + l ≤ (b + l + 2 ^ e - 1) / 2 ^ e * 2 ^ e := by
      have := Nat.lt_div_mul_add (a := b + l + 2 ^ e - 1) hpos
      omega
    have hle : b / 2 ^ e ≤ (b + l + 2 ^ e - 1) / 2 ^ e := Nat.div_le_div_right (by omega)
    refine .inl ⟨by simpa using hlt, ⟨b / 2 ^ e, (b + l + 2 ^ e - 1) / 2 ^ e - b / 2 ^ e, rfl, ?_, ?_⟩, hbase, htop⟩
    · rw [Nat.add_sub_cancel' hle]
    · rw [← Nat.sub_mul] at hfits
      exact Nat.le_of_mul_le_mul_right hfits hpos
  · split at h
    · next hall => cases h; exact .inr ⟨rfl, hall⟩
    · cases h

/-- The base that R34 decodes with the cursor at a multiple of the unit is that multiple. -/
theorem baseAt_self (lo e : Nat) : baseAt (lo * 2 ^ e) e (lo % 16384) = lo * 2 ^ e := by
  unfold baseAt
  rw [Nat.mul_div_cancel lo (by positivity)]
  have : ((lo : Int) - ((lo % 16384 : Nat) : Int) + 1024) % 16384 = 1024 := by omega
  dsimp only
  rw [this]
  ring

/-- Fields that fitted bounds leave. -/
theorem fld_withFit (c : TCap) (f : Fit) {hi lo : Nat} (h : (54 < lo ∧ hi < 64) ∨ 97 < lo) : (c.withFit f).fld hi lo = c.fld hi lo := by
  unfold TCap.withFit
  dsimp only
  split
  all_goals
    rw [fld_put_of_apart _ _ (by omega) (by omega), fld_put_of_apart _ _ (by omega) (by omega),
      fld_put_of_apart _ _ (by omega) (by omega), fld_put_of_apart _ _ (by omega) (by omega)]

theorem tag_withFit (c : TCap) (f : Fit) : (c.withFit f).tag = c.tag := by
  unfold TCap.withFit
  dsimp only
  split <;> rfl

theorem cursor_withFit {c : TCap} {f : Fit} (h : f.base < 2 ^ 55) : (c.withFit f).cursor = f.base :=
  (fld_put_self _ _ (by omega) (by omega)).trans (Nat.mod_eq_of_lt h)

theorem exp_withFit {c : TCap} {f : Fit} (h : f.e < 64) : (c.withFit f).exp = f.e := by
  unfold TCap.exp TCap.withFit
  dsimp only
  split
  all_goals
    rw [fld_put_of_apart _ _ (by omega) (by omega), fld_put_of_apart _ _ (by omega) (by omega),
      fld_put_of_apart _ _ (by omega) (by omega), fld_put_self _ _ (by omega) (by omega)]
    exact Nat.mod_eq_of_lt h

/-- The bounds fields that fitted bounds with an exponent of R34 have. -/
theorem boundsFields_withFit {c : TCap} {f : Fit} (h : f.e ≠ 63) (ht : (f.top - f.base) / 2 ^ f.e < 16384) :
    (c.withFit f).fieldB = f.base / 2 ^ f.e % 16384 ∧ (c.withFit f).fieldT = (f.top - f.base) / 2 ^ f.e := by
  unfold TCap.fieldB TCap.fieldT TCap.withFit
  dsimp only
  rw [if_neg h]
  constructor
  · rw [fld_put_of_apart _ _ (by omega) (by omega), fld_put_of_apart _ _ (by omega) (by omega), fld_put_self _ _ (by omega) (by omega)]
    exact Nat.mod_mod _ _
  · rw [fld_put_of_apart _ _ (by omega) (by omega), fld_put_self _ _ (by omega) (by omega)]
    exact Nat.mod_eq_of_lt ht

/-- Fitted bounds decode to the range that R36 gives. -/
theorem bounds_withFit {c : TCap} {n : Nat} {f : Fit} (h : fitRange c.cursor n = some f) :
    (c.withFit f).bounds = ((f.base : Int), (f.top : Int)) := by
  have hcur : c.cursor < 2 ^ 55 := Nat.mod_lt _ (by positivity)
  rcases fitRange_spec h with ⟨he, ⟨lo, len, hbase, htop, hlen⟩, hle, -⟩ | ⟨rfl, -⟩
  · have hlenEq : (f.top - f.base) / 2 ^ f.e = len := by
      rw [hbase, htop, ← Nat.sub_mul, Nat.add_sub_cancel_left, Nat.mul_div_cancel len (by positivity)]
    have hloEq : f.base / 2 ^ f.e = lo := by rw [hbase, Nat.mul_div_cancel lo (by positivity)]
    obtain ⟨hB, hT⟩ := boundsFields_withFit (c := c) (f := f) (by omega) (by omega)
    have hb : baseAt f.base f.e (lo % 16384) = f.base := by rw [hbase, baseAt_self]; push_cast; rfl
    rw [TCap.bounds, exp_withFit (by omega), if_neg (by omega), hB, hT, cursor_withFit (by omega), hlenEq, hloEq, hb]
    dsimp only
    rw [htop, hbase]
    push_cast
    ring_nf
  · rw [TCap.bounds, exp_withFit (by decide)]
    rfl

/-- Settles O57: what each derivation's fields are, and that the bounds decode from fields it leaves or sets so. -/
theorem noDerivationWidens : Obligations.NoDerivationWidens := by
  unfold Obligations.NoDerivationWidens
  refine ⟨fun c t htag => ?_, fun c n f hfit => ?_, fun c a => ?_, fun c hi lo v hfield => ?_⟩
  · obtain ⟨hc, -, h0, h55⟩ := moveTo_tag htag
    have hbounds := bounds_moveTo htag
    exact ⟨hc, cursor_moveTo h0 h55, congrArg Prod.fst hbounds, congrArg Prod.snd hbounds, fld_moveTo c t (by omega),
      fld_moveTo c t (by omega), fld_moveTo c t (by omega), fld_moveTo c t (by omega)⟩
  · have hbounds := bounds_withFit hfit
    have hholds : f.base ≤ c.cursor ∧ c.cursor + n ≤ f.top := by
      rcases fitRange_spec hfit with ⟨-, -, hholds⟩ | ⟨rfl, hc, rfl⟩
      · exact hholds
      · exact ⟨Nat.zero_le _, by rw [hc, Nat.zero_add]⟩
    exact ⟨congrArg Prod.fst hbounds, congrArg Prod.snd hbounds, hholds.1, hholds.2, tag_withFit c f, fld_withFit c f (by omega),
      fld_withFit c f (by omega), fld_withFit c f (by omega)⟩
  · have hlt : c.perms &&& a < 2 ^ 12 := Nat.and_le_left.trans_lt (Nat.mod_lt _ (by positivity))
    exact (fld_put_self c _ (by omega) (by omega)).trans (Nat.mod_eq_of_lt hlt)
  · simp only [List.mem_cons, Prod.mk.injEq, List.not_mem_nil, or_false] at hfield
    have hlo : lo ≤ hi ∧ 98 ≤ lo ∧ (103 < lo ∨ hi < 100) := by omega
    have hbounds := bounds_put_of_high c v hlo.1 hlo.2.1
    exact ⟨congrArg Prod.fst hbounds, congrArg Prod.snd hbounds, fld_put_of_apart c v hlo.1 (by omega), rfl,
      fld_put_of_apart c v hlo.1 (by omega), fld_put_of_apart c v hlo.1 (by omega)⟩

end Sys2Proof.Proofs
end

section
/-! What stands right after reset, and what a step on the queue is. -/

namespace Sys2Proof.Proofs

open Sys2Proof Sys2Proof.Machine

/-- Settles O51: with no entry listed, every register, core and byte reads as its default. -/
theorem resetState : Obligations.ResetState := by
  unfold Obligations.ResetState
  refine ⟨rfl, rfl, rfl, rfl, rfl, rfl, rfl, fun h => ?_⟩
  have hhalf : State.reset.half h = Half.reset := by cases h <;> rfl
  have hcore : ∀ n, State.reset.coreN h n = Core.reset := fun n => by rw [State.coreN, hhalf]; rfl
  have hreg : ∀ blk off, State.reset.reg h blk off = regReset (regHome h blk) (blk * 0x10000 + off) := fun blk off => by
    cases hr : regHome h blk <;> (unfold State.reg; rw [hr]; rfl)
  rw [hhalf]
  refine ⟨rfl, rfl, rfl, rfl, rfl, rfl, rfl, fun blk off _ _ _ => hreg blk off, fun n => ?_, fun _ => rfl⟩
  rw [hcore]
  exact ⟨rfl, rfl, by decide, by decide +kernel, rfl, rfl, by decide +kernel, by decide +kernel, rfl, rfl⟩

/-- Settles O52: no entry is listed anywhere. -/
theorem resetCanonical : Obligations.ResetCanonical where
  east := ⟨rfl, rfl, rfl⟩
  west := ⟨rfl, rfl, rfl⟩
  host := rfl

/-- Settles O48, by the definition of `step` for a queue with a command at its front. -/
theorem stepRunsFront : Obligations.StepRunsFront := by
  unfold Obligations.StepRunsFront
  intro s c rest hqueue
  rw [step, hqueue]

/-- A tick with no trim is one count. -/
theorem trimTick_zero {acc : Int} (h0 : 0 ≤ acc) (h1 : acc < 2 ^ 32) : trimTick acc 0 = (1, acc) := by
  unfold trimTick
  dsimp only
  rw [Int.add_zero, if_neg (by omega), if_neg (by omega)]

/-- The counters of cores that are awake are all that `countAwake` changes. -/
theorem countAwake_package (n : Nat) (h : HalfId) (s : State) :
    (countAwake n h s).timebase = s.timebase ∧ (countAwake n h s).elapsed = s.elapsed ∧ (countAwake n h s).trimAcc = s.trimAcc ∧
    (countAwake n h s).pending = s.pending := by
  unfold countAwake
  split
  · exact ⟨rfl, rfl, rfl, rfl⟩
  · simp only [State.timebase_upd, State.elapsed_upd, State.trimAcc_upd, State.pending_upd, and_self]

/-- A change of a half that leaves it as it is changes nothing. -/
theorem upd_eq_self {s : State} {h : HalfId} {f : Half → Half} (hf : f (s.half h) = s.half h) : s.upd h f = s := by
  rw [State.upd, hf]
  cases h <;> rfl

/-- Where nothing waits within a half, nothing goes on in it. -/
theorem halfTick_of_quiet {s : State} {h : HalfId} (hq : Quiet s h) : halfTick h s = s := by
  obtain ⟨hposted, hsignals, hhanded, hheld, hwarden⟩ := hq
  have hread : holderRead h s = s := by
    unfold holderRead
    split
    · next hl => rw [demote, hwarden hl]; rfl
    · rfl
  have hposted' : (s.upd h fun x => { x with bnd := { x.bnd with posted := [] } }) = s :=
    upd_eq_self (by rw [← hposted])
  have hsignals' : (s.upd h fun x => { x with bnd := { x.bnd with signals := [] } }) = s :=
    upd_eq_self (by rw [← hsignals])
  have hpump : pumpPosted h s = s := by
    rw [pumpPosted, hposted', hposted, List.foldl_nil, raiseSignals, hposted, hsignals, hsignals']
    rfl
  have hcores : (s.half h).cores.filter (fun p => !p.2.handed.isEmpty) = [] := by
    rw [List.filter_eq_nil_iff]
    intro p hp
    rw [hhanded p hp]
    decide
  rw [halfTick, hread, hpump, drainCores, hcores, List.foldl_nil, evictAny, hheld]
  rfl

/-- Settles O49: the branches of `tick`, and what each part of a half's tick does with nothing to do. -/
theorem idleStepTicks : Obligations.IdleStepTicks := by
  unfold Obligations.IdleStepTicks
  intro s hqueue
  have hstep : step s = .next (tick s) := by rw [step, hqueue]
  refine ⟨fun hm => ?_, fun hm hfailed => ?_, fun hm hfailed htrim h0 h1 => ?_, fun u h hq => halfTick_of_quiet hq⟩
  · rw [hstep, tick, if_pos hm]
  · rw [hstep, tick, if_neg hm, if_pos hfailed]
  · refine ⟨countAwake 1 .west (countAwake 1 .east (advanceTime 1 { s with trimAcc := s.trimAcc, ppsEdge := false })), ?_, ?_⟩
    · rw [hstep, tick, if_neg hm, if_neg (by rw [hfailed]; decide), clockTick, htrim, show signedOf 32 0 = 0 from rfl,
        trimTick_zero h0 h1]
    · obtain ⟨he1, he2, he3, he4⟩ := countAwake_package 1 .east (advanceTime 1 { s with trimAcc := s.trimAcc, ppsEdge := false })
      obtain ⟨hw1, hw2, hw3, hw4⟩ := countAwake_package 1 .west
        (countAwake 1 .east (advanceTime 1 { s with trimAcc := s.trimAcc, ppsEdge := false }))
      rw [hw1, hw2, hw3, hw4, he1, he2, he3, he4]
      exact ⟨rfl, rfl, rfl, hqueue⟩

end Sys2Proof.Proofs
end

section
/-! The integer instructions: what their bodies do once their operands are read, and the results of each row (O1 to O4). -/

namespace Sys2Proof.Proofs

open Sys2Proof Sys2Proof.Machine

variable {k : CoreId} {info : OpInfo} {e : Enc} {deny : State → Core → Inst → Bool} {s u v1 v2 v3 v4 : State} {i : Inst}
  {a b old : Nat} {d : Dest} {l : Loc} {fl : List (Nat × Bool)}

/-- Flags are set as the last thing that an instruction's body does. -/
theorem run_setFlags_seq {v : State} :
    (do setFlags k fl; return Flow.seq : Exec Flow).run v = .ok .seq (v.setCore k ((v.core k).setFlags fl)) := rfl

/-- A result that can be written is written, then the flags are set. -/
theorem run_result {x : Ctx} {n : Nat} {r : Res} {v w : State} (hp : (x.put n d r.1).run v = .ok () w) :
    (x.result n d r).run v = .ok .seq (w.setCore x.k ((w.core x.k).setFlags r.2)) :=
  (run_bind_ok hp).trans rfl

/-- d := f s with flags. -/
theorem run_unaryOp {x : Ctx} {f : Nat → Nat → Res} {v : State} (ha : (x.src 0).run v = .ok a v1)
    (hd : (x.dst 1).run v1 = .ok d v2) (hp : (x.put 1 d (f x.inst.w a).1).run v2 = .ok () v3) :
    (unaryOp f x).run v = .ok .seq (v3.setCore x.k ((v3.core x.k).setFlags (f x.inst.w a).2)) :=
  (run_bind_ok ha).trans ((run_bind_ok hd).trans (run_result hp))

/-- d := f s1 s2 with flags. -/
theorem run_binaryOp {x : Ctx} {f : Nat → Nat → Nat → Res} {v : State} (hna : x.inst.atomic = false)
    (ha : (x.src 0).run v = .ok a v1) (hb : (x.src 1).run v1 = .ok b v2) (hd : (x.dst 2).run v2 = .ok d v3)
    (hp : (x.put 2 d (f x.inst.w a b).1).run v3 = .ok () v4) :
    (binaryOp f x).run v = .ok .seq (v4.setCore x.k ((v4.core x.k).setFlags (f x.inst.w a b).2)) := by
  unfold binaryOp
  rw [if_neg (by simp [hna])]
  exact (run_bind_ok ha).trans ((run_bind_ok hb).trans ((run_bind_ok hd).trans (run_result hp)))

/-- Under ATOMIC d := f d s, with the flags of the old value. -/
theorem run_binaryOp_atomic {x : Ctx} {f : Nat → Nat → Nat → Res} {v : State} (hat : x.inst.atomic = true)
    (ha : (x.src 0).run v = .ok a v1) (hl : (x.loc 1 false).run v1 = .ok l v2)
    (ho : (x.atomicRmw 1 a 0 l fun d => some (f x.inst.w d a).1).run v2 = .ok old v3) :
    (binaryOp f x).run v = .ok .seq (v3.setCore x.k ((v3.core x.k).setFlags (f x.inst.w old a).2)) := by
  unfold binaryOp
  rw [if_pos hat]
  exact (run_bind_ok ha).trans ((run_bind_ok hl).trans ((run_bind_ok ho).trans run_setFlags_seq))

/-- d := f d with flags. -/
theorem run_stepOp {x : Ctx} {f : Nat → Nat → Res} {v : State} (hna : x.inst.atomic = false)
    (ha : (x.both 0).run v = .ok (a, d) v1) (hp : (x.put 0 d (f x.inst.w a).1).run v1 = .ok () v2) :
    (stepOp f x).run v = .ok .seq (v2.setCore x.k ((v2.core x.k).setFlags (f x.inst.w a).2)) := by
  unfold stepOp
  rw [if_neg (by simp [hna])]
  exact (run_bind_ok ha).trans (run_result hp)

/-- d := f d under ATOMIC. -/
theorem run_stepOp_atomic {x : Ctx} {f : Nat → Nat → Res} {v : State} (hat : x.inst.atomic = true)
    (hl : (x.locBoth 0).run v = .ok l v1)
    (ho : (x.atomicRmw 0 1 0 l fun d => some (f x.inst.w d).1).run v1 = .ok old v2) :
    (stepOp f x).run v = .ok .seq (v2.setCore x.k ((v2.core x.k).setFlags (f x.inst.w old).2)) := by
  unfold stepOp
  rw [if_pos hat]
  exact (run_bind_ok hl).trans ((run_bind_ok ho).trans run_setFlags_seq)

/-- The flags of f s1 s2. -/
theorem run_compareOp {x : Ctx} {f : Nat → Nat → Nat → Res} {v : State} (ha : (x.src 0).run v = .ok a v1)
    (hb : (x.src 1).run v1 = .ok b v2) :
    (compareOp f x).run v = .ok .seq (v2.setCore x.k ((v2.core x.k).setFlags (f x.inst.w a b).2)) :=
  (run_bind_ok ha).trans ((run_bind_ok hb).trans run_setFlags_seq)

/-- Each row of `threeOperandRows` runs `binaryOp` of its function. -/
theorem exec_threeOperand {row : InstrRow × (Nat → Nat → Nat → Res)} (hrow : row ∈ threeOperandRows) (k : CoreId) (e : Enc)
    (s : State) : exec (row.1.1 k e) s = runInstr k row.1.2 e anyLevel (binaryOp row.2) s := by
  simp only [threeOperandRows, List.mem_cons, List.not_mem_nil, or_false] at hrow
  obtain rfl | rfl | rfl | rfl | rfl | rfl | rfl | rfl | rfl | rfl | rfl | rfl | rfl := hrow <;> rfl

theorem atomicRows_sub {row : InstrRow × (Nat → Nat → Nat → Res)} (hrow : row ∈ atomicRows) : row ∈ threeOperandRows :=
  List.mem_of_mem_take (i := 5) hrow

/-- INC and DEC run `stepOp` of their function. -/
theorem exec_inPlace {row : InstrRow × (Nat → Nat → Res)} (hrow : row ∈ inPlaceRows) (k : CoreId) (e : Enc) (s : State) :
    exec (row.1.1 k e) s = runInstr k row.1.2 e anyLevel (stepOp row.2) s := by
  simp only [inPlaceRows, List.mem_cons, List.not_mem_nil, or_false] at hrow
  obtain rfl | rfl := hrow <;> rfl

/-- The four divisions run `divideOp` of their function. -/
theorem exec_divide {row : InstrRow × (Nat → Nat → Nat → Res)} (hrow : row ∈ divideRows) (k : CoreId) (e : Enc) (s : State) :
    exec (row.1.1 k e) s = runInstr k row.1.2 e anyLevel (divideOp row.2) s := by
  simp only [divideRows, List.mem_cons, List.not_mem_nil, or_false] at hrow
  obtain rfl | rfl | rfl | rfl := hrow <;> rfl

/-- The three-operand instructions without ATOMIC, in every operand form. -/
theorem threeOperandResult : ThreeOperandResult := by
  intro row hrow k e s u v1 v2 v3 v4 i a b d h hna ha hb hd hp z hz hm
  subst hz
  rw [exec_threeOperand hrow]
  exact h.exec_seq (run_binaryOp hna ha hb hd hp) hm

/-- ADC and SBC: C is read before the operands. -/
theorem carryResult : CarryResult := by
  intro row hrow k e s u v0 v1 v2 v3 v4 i c a b d h hna hc ha hb hd hp z hz hm
  subst hz
  simp only [carryRows, List.mem_cons, List.not_mem_nil, or_false] at hrow
  obtain rfl | rfl := hrow
  · exact h.exec_seq ((run_bind_ok hc).trans (run_binaryOp (f := fun w a b => addRes w a b (b2n c)) hna ha hb hd hp)) hm
  · exact h.exec_seq ((run_bind_ok hc).trans (run_binaryOp (f := fun w a b => subRes w a b (b2n c)) hna ha hb hd hp)) hm

/-- Settles O1: the rows of Tables 4.1, 4.2 and 4.4 that have three operands, and ADC and SBC. -/
theorem arithmeticResult : Obligations.ArithmeticResult := ⟨threeOperandResult, carryResult⟩

/-- Moves, NEG, NOT, SWAPB and CLR. -/
theorem twoOperandResult : TwoOperandResult := by
  constructor
  · intro row hrow k e s u v1 v2 v3 i a d h ha hd hp z hz hm
    subst hz
    simp only [twoOperandRows, List.mem_cons, List.not_mem_nil, or_false] at hrow
    obtain rfl | rfl | rfl | rfl | rfl | rfl := hrow
    · exact h.exec_seq (run_unaryOp (f := fun w v => (v, flagsLogic w v)) ha hd hp) hm
    · exact h.exec_seq ((run_bind_ok ha).trans ((run_bind_ok hd).trans (run_result hp))) hm
    · exact h.exec_seq ((run_bind_ok ha).trans ((run_bind_ok hd).trans (run_result hp))) hm
    · exact h.exec_seq (run_unaryOp (f := fun w v => (swapRes w v, flagsLogic w (swapRes w v))) ha hd hp) hm
    · exact h.exec_seq (run_unaryOp (f := fun w v => subRes w 0 v 0) ha hd hp) hm
    · exact h.exec_seq (run_unaryOp (f := fun w v => logicRes (fun a _ => 2 ^ w - 1 - a) w v 0) ha hd hp) hm
  · intro k e s u v1 v2 i d h hd hp z hz hm
    subst hz
    exact h.exec_seq ((run_bind_ok hd).trans (run_result (r := (0, flagsLogic i.w 0)) hp)) hm

/-- XCHG without ATOMIC. -/
theorem exec_xchg {c : Dest} (h : Issues k xchgRow e anyLevel s i u) (hna : i.atomic = false)
    (ha : ((ctxOf k i u).both 0).run (opened k i u) = .ok (a, d) v1) (hb : ((ctxOf k i u).both 1).run v1 = .ok (b, c) v2)
    (hw : ((ctxOf k i u).write [(d, i.w / 8, b), (c, i.w / 8, a)]).run v2 = .ok () v3) (hm : Marked k v3) :
    exec (.xchg k e) s = .next (seqEnd s (ctxOf k i u) v3) := by
  refine h.exec_seq ?_ hm
  have hna' : ¬ (ctxOf k i u).inst.atomic = true := by simp [ctxOf, hna]
  rw [if_neg hna']
  exact (run_bind_ok ha).trans ((run_bind_ok hb).trans ((run_bind_ok hw).trans rfl))

/-- INC, DEC and XCHG without ATOMIC. -/
theorem inPlaceResult : InPlaceResult := by
  constructor
  · intro row hrow k e s u v1 v2 i a d h hna ha hp z hz hm
    subst hz
    rw [exec_inPlace hrow]
    exact h.exec_seq (run_stepOp hna ha hp) hm
  · intro k e s u v1 v2 v3 i a b d c h hna ha hb hw hm
    exact exec_xchg h hna ha hb hw hm

/-- CMP, TST and DAA. -/
theorem compareAndAdjustResult : CompareAndAdjustResult := by
  constructor
  · intro row hrow k e s u v1 v2 i a b h ha hb z hz hm
    subst hz
    simp only [compareRows, List.mem_cons, List.not_mem_nil, or_false] at hrow
    obtain rfl | rfl := hrow
    · exact h.exec_seq (run_compareOp (f := fun w a b => subRes w a b 0) ha hb) hm
    · exact h.exec_seq (run_compareOp (f := logicRes (· &&& ·)) ha hb) hm
  · intro k e s u v1 v2 v3 v4 v5 v6 i c hf n a d h hc hh hn ha hd hp z hz hm
    subst hz
    exact h.exec_seq ((run_bind_ok hc).trans ((run_bind_ok hh).trans ((run_bind_ok hn).trans
      ((run_bind_ok ha).trans ((run_bind_ok hd).trans (run_result hp)))))) hm

/-- Settles O2: moves, INC, DEC, XCHG, CLR, CMP, TST and DAA. -/
theorem moveAndCompareResult : Obligations.MoveAndCompareResult := ⟨twoOperandResult, inPlaceResult, compareAndAdjustResult⟩

/-- XCHG under ATOMIC: the second operand is the one in memory where it is one. -/
theorem exec_xchg_atomic {v : Nat} (h : Issues k xchgRow e anyLevel s i u) (hat : i.atomic = true) :
    (isMemMode ((ctxOf k i u).op 1).1.mode.toNat = true →
      ((ctxOf k i u).both 0).run (opened k i u) = .ok (v, d) v1 → ((ctxOf k i u).locBoth 1).run v1 = .ok l v2 →
      ((ctxOf k i u).atomicRmw 1 v 0 l (fun _ => some v) fun o => [(d, i.w / 8, o)]).run v2 = .ok old v3 →
      Marked k v3 → exec (.xchg k e) s = .next (seqEnd s (ctxOf k i u) v3)) ∧
    (isMemMode ((ctxOf k i u).op 1).1.mode.toNat = false →
      ((ctxOf k i u).locBoth 0).run (opened k i u) = .ok l v1 → ((ctxOf k i u).both 1).run v1 = .ok (v, d) v2 →
      ((ctxOf k i u).atomicRmw 0 v 0 l (fun _ => some v) fun o => [(d, i.w / 8, o)]).run v2 = .ok old v3 →
      Marked k v3 → exec (.xchg k e) s = .next (seqEnd s (ctxOf k i u) v3)) := by
  have hat' : (ctxOf k i u).inst.atomic = true := hat
  constructor
  · intro hmem hb hl ho hm
    refine h.exec_seq ?_ hm
    rw [if_pos hat', if_pos hmem]
    exact (run_bind_ok hb).trans ((run_bind_ok hl).trans ((run_bind_ok ho).trans rfl))
  · intro hmem hl hb ho hm
    refine h.exec_seq ?_ hm
    rw [if_pos hat', if_neg (by simp [hmem])]
    exact (run_bind_ok hl).trans ((run_bind_ok hb).trans ((run_bind_ok ho).trans rfl))

/-- Settles O3: the ATOMIC forms, each one access of its operand in memory, and CAS. -/
theorem atomicResult : Obligations.AtomicResult := by
  refine ⟨?_, ?_, ?_, ?_⟩
  · intro row hrow k e s u v1 v2 v3 i a old l h hat ha hl ho z hz hm
    subst hz
    rw [exec_threeOperand (atomicRows_sub hrow)]
    exact h.exec_seq (run_binaryOp_atomic hat ha hl ho) hm
  · intro row hrow k e s u v1 v2 i old l h hat hl ho z hz hm
    subst hz
    rw [exec_inPlace hrow]
    exact h.exec_seq (run_stepOp_atomic hat hl ho) hm
  · intro k e s u v1 v2 v3 i v old d l h hat
    exact exec_xchg_atomic h hat
  · intro k e s u v1 v2 v3 v4 v5 i new want old l h hl hnew hwant ho hw z hz hm
    subst hz
    exact h.exec_seq ((run_bind_ok hl).trans ((run_bind_ok hnew).trans ((run_bind_ok hwant).trans ((run_bind_ok ho).trans
      ((run_bind_ok hw).trans run_setFlags_seq))))) hm

/-- A division reads its operands and DZE, and ends as a long operation (R90, R135). -/
theorem run_divideOp {x : Ctx} {f : Nat → Nat → Nat → Res} {v : State} (ha : (x.src 0).run v = .ok a v1)
    (hb : (x.src 1).run v1 = .ok b v2) (hd : (x.dst 2).run v2 = .ok d v3) :
    (divideOp f x).run v = (x.finishLong (some d) (x.inst.w / 8) (f x.inst.w a b).1 (f x.inst.w a b).2 0
      (if b % 2 ^ x.inst.w = 0 ∧ (v3.core x.k).swBit 19 = true then some (11, BitVec.ofNat 64 x.inst.info.opcode.toNat)
        else none)).run v3 :=
  (run_bind_ok ha).trans ((run_bind_ok hb).trans ((run_bind_ok hd).trans rfl))

/-- Settles O4: a division completes at issue, or its zero divisor is vector 11 where DZE asks for it. -/
theorem divideResult : Obligations.DivideResult := by
  intro row hrow k e s u v1 v2 v3 i a b d h ha hb hd hc
  rw [exec_divide hrow]
  have hrun := run_divideOp (f := row.2) ha hb hd
  constructor
  · intro hz v4 hw z hz' hm
    subst hz'
    have hno : ¬ (b % 2 ^ (ctxOf k i u).inst.w = 0 ∧ (v3.core (ctxOf k i u).k).swBit 19 = true) := fun ⟨h0, h1⟩ =>
      hz.elim (fun hn => hn h0) fun hf => by simp [ctxOf, hf] at h1
    rw [if_neg hno] at hrun
    exact h.exec_seq (hrun.trans (run_finishLong_some rfl _ hc hw)) hm
  · intro hz
    rw [if_pos (show b % 2 ^ (ctxOf k i u).inst.w = 0 ∧ (v3.core (ctxOf k i u).k).swBit 19 = true from hz)] at hrun
    exact h.exec_error (hrun.trans (run_finishLong_trap rfl _ hc))

end Sys2Proof.Proofs
end

section
/-! Decimal, binary64 and packed-decimal instructions outside a BULK thread (O5 to O7). -/

namespace Sys2Proof.Proofs

open Sys2Proof Sys2Proof.Machine

variable {k : CoreId} {info : OpInfo} {e : Enc} {deny : State → Core → Inst → Bool} {s u v v1 v2 v3 w t : State} {i : Inst}
  {body : Ctx → Exec Flow} {d : Dest} {n r raised : Nat}

/-- A result without an enabled exception is written (R102). -/
theorem run_endFloat (hu : untrapped k raised v) (hc : completesAtIssue v k)
    (hw : ((ctxOf k i u).write [(d, n, r)]).run (countLong k v) = .ok () w) :
    ((ctxOf k i u).endFloat d n r raised).run v = .ok .seq (longDone k [] raised w) :=
  (run_bind_ok (run_decFault_none hu)).trans (run_finishLong_some rfl [] hc hw)

/-- The end of an instruction whose body ends with a rounded result. -/
theorem exec_floatEnd (h : Issues k info e deny s i u) (hend : FloatEnd s k i u v d n r raised t)
    (hb : (body (ctxOf k i u)).run (opened k i u) = ((ctxOf k i u).endFloat d n r raised).run v) :
    runInstr k info e deny body s = .next t := by
  obtain ⟨hu, hc, w, hw, hm, rfl⟩ := hend
  exact h.exec_seq (hb.trans (run_endFloat hu hc hw)) hm

/-- The decimal operations of two sources run `decBinary` of their function. -/
theorem exec_decimal {row : InstrRow × (FFmt → FMode → FVal → FVal → FRes)} (hrow : row ∈ decimalRows) (k : CoreId) (e : Enc)
    (s : State) : exec (row.1.1 k e) s = runInstr k row.1.2 e anyLevel (decBinary row.2) s := by
  simp only [decimalRows, List.mem_cons, List.not_mem_nil, or_false] at hrow
  obtain rfl | rfl | rfl | rfl | rfl := hrow <;> rfl

/-- The binary64 operations of two sources run `binBinary` of their function. -/
theorem exec_binary {row : InstrRow × (FFmt → FMode → FVal → FVal → FRes)} (hrow : row ∈ binaryRows) (k : CoreId) (e : Enc)
    (s : State) : exec (row.1.1 k e) s = runInstr k row.1.2 e anyLevel (binBinary row.2) s := by
  simp only [binaryRows, List.mem_cons, List.not_mem_nil, or_false] at hrow
  obtain rfl | rfl | rfl | rfl := hrow <;> rfl

/-- The sign-bit operations run `decSign` of their function. -/
theorem exec_sign {row : InstrRow × (Bool → Bool)} (hrow : row ∈ signRows) (k : CoreId) (e : Enc) (s : State) :
    exec (row.1.1 k e) s = runInstr k row.1.2 e anyLevel (decSign row.2) s := by
  simp only [signRows, List.mem_cons, List.not_mem_nil, or_false] at hrow
  obtain rfl | rfl := hrow <;> rfl

/-- A decimal operation reads its sources, checks its destination, and rounds. -/
theorem run_decBinary {f : FFmt → FMode → FVal → FVal → FRes} {a b : FVal}
    (ha : ((ctxOf k i u).srcDec 0).run v = .ok a v1) (hb : ((ctxOf k i u).srcDec 1).run v1 = .ok b v2)
    (hd : ((ctxOf k i u).dst 2).run v2 = .ok d v3) :
    (decBinary f (ctxOf k i u)).run v = ((ctxOf k i u).endFloat d (i.size .dec)
      (toBid i.wide (f (decFmt i.wide) (dsrMode k v3) a b).1) (f (decFmt i.wide) (dsrMode k v3) a b).2).run v3 :=
  (run_bind_ok ha).trans ((run_bind_ok hb).trans ((run_bind_ok hd).trans (run_bind_ok run_fmode)))

/-- The decimal and binary64 operations of two sources. -/
theorem floatBinaryResult : FloatBinaryResult := by
  constructor
  · intro row hrow k e s u v1 v2 v3 t i a b d r h ha hb hd hr hend
    subst hr
    rw [exec_decimal hrow]
    exact exec_floatEnd h hend (run_decBinary ha hb hd)
  · intro row hrow k e s u v1 v2 v3 t i a b d r h ha hb hd hr hend
    subst hr
    rw [exec_binary hrow]
    exact exec_floatEnd h hend
      ((run_bind_ok ha).trans ((run_bind_ok hb).trans ((run_bind_ok hd).trans (run_bind_ok run_fmode))))

/-- DCVTI's end: the integer and the exceptions of Table 4.7. -/
theorem exec_dcvti {a : FVal} (h : Issues k dcvtiRow e anyLevel s i u)
    (ha : ((ctxOf k i u).srcDec 0).run (opened k i u) = .ok a v1) (hd : ((ctxOf k i u).dst 1).run v1 = .ok d v2)
    (hend : FloatEnd s k i u v2 d 8 (toInteger (dsrMode k v2) a).1 (toInteger (dsrMode k v2) a).2 t) :
    exec (.dcvti k e) s = .next t := by
  refine exec_floatEnd h hend ((run_bind_ok ha).trans ((run_bind_ok hd).trans ((run_bind_ok run_fmode).trans ?_)))
  unfold toInteger
  cases fToInt 10 (dsrMode k v2).rm a with
  | none => rfl
  | some p =>
    obtain ⟨m, inexact⟩ := p
    by_cases hm : -(2 ^ 63) ≤ m ∧ m < 2 ^ 63
    · simp only [if_pos hm]
    · simp only [if_neg hm]

/-- CVTDP's untrapped invalid sets V and writes nothing (R99). -/
theorem run_packedInvalid (hu : untrapped k xInvalid v) (hc : completesAtIssue v k) :
    ((ctxOf k i u).packedInvalid d n).run v = .ok .seq (longDone k [(fV, true)] xInvalid (countLong k v)) :=
  (run_bind_ok (run_decFault_none hu)).trans (run_finishLong_none rfl [(fV, true)] hc)

/-- CVTDP of a value that the packed destination holds. -/
theorem exec_cvtdp {a : FVal} {m : Int} {inexact : Bool} (h : Issues k cvtdpRow e anyLevel s i u)
    (ha : ((ctxOf k i u).srcDec 0).run (opened k i u) = .ok a v1) (hd : ((ctxOf k i u).dst 1).run v1 = .ok d v2)
    (hint : fToInt 10 (dsrMode k v2).rm a = some (m, inexact)) (hover : packedOver i.packLo m = false)
    (hend : FloatEnd s k i u v2 d i.packLo (leNat (packedBytes i.packLo m)) (if inexact then xInexact else 0) t) :
    exec (.cvtdp k e) s = .next t := by
  refine exec_floatEnd h hend ((run_bind_ok ha).trans ((run_bind_ok hd).trans ((run_bind_ok run_fmode).trans ?_)))
  have hover' : ¬ packedOver (ctxOf k i u).inst.packLo m = true := by simp [ctxOf, hover]
  rw [hint]
  dsimp only
  rw [if_neg hover']
  rfl

/-- CVTDP of a value that it does not hold: untrapped, the destination stays and V is set (R99). -/
theorem exec_cvtdp_invalid {a : FVal} (h : Issues k cvtdpRow e anyLevel s i u)
    (ha : ((ctxOf k i u).srcDec 0).run (opened k i u) = .ok a v1) (hd : ((ctxOf k i u).dst 1).run v1 = .ok d v2)
    (hover : ∀ (m : Int) (inexact : Bool), fToInt 10 (dsrMode k v2).rm a = some (m, inexact) → packedOver i.packLo m = true)
    (hu : untrapped k xInvalid v2) (hc : completesAtIssue v2 k)
    (hm : Marked k (longDone k [(fV, true)] xInvalid (countLong k v2))) :
    exec (.cvtdp k e) s = .next (seqEnd s (ctxOf k i u) (longDone k [(fV, true)] xInvalid (countLong k v2))) := by
  refine h.exec_seq ((run_bind_ok ha).trans ((run_bind_ok hd).trans ((run_bind_ok run_fmode).trans ?_))) hm
  cases hint : fToInt 10 (dsrMode k v2).rm a with
  | none => exact run_packedInvalid hu hc
  | some p =>
    obtain ⟨m, inexact⟩ := p
    dsimp only
    rw [if_pos (show packedOver (ctxOf k i u).inst.packLo m = true from hover m inexact hint)]
    exact run_packedInvalid hu hc

/-- The conversions and DRND. -/
theorem floatConvertResult : FloatConvertResult := by
  refine ⟨?_, ?_, ?_⟩
  · intro k e s u v1 v2 t i a d r ha hd
    refine ⟨?_, ?_, ?_, ?_, ?_, ?_⟩
    · intro h hr hend
      subst hr
      exact exec_floatEnd h hend ((run_bind_ok ha).trans ((run_bind_ok hd).trans (run_bind_ok run_fmode)))
    · intro h hr hend
      subst hr
      exact exec_floatEnd h hend ((run_bind_ok ha).trans ((run_bind_ok hd).trans (run_bind_ok run_fmode)))
    · intro h hr hend
      subst hr
      exact exec_floatEnd h hend ((run_bind_ok ha).trans ((run_bind_ok hd).trans (run_bind_ok run_fmode)))
    · intro h hend
      exact exec_dcvti h ha hd hend
    · intro h m inexact hint hover hend
      exact exec_cvtdp h ha hd hint hover hend
    · intro h hover hu hc z hz hm
      subst hz
      exact exec_cvtdp_invalid h ha hd hover hu hc hm
  · intro k e s u v1 v2 t i a d r ha hd
    refine ⟨?_, ?_⟩
    · intro h hr hend
      subst hr
      exact exec_floatEnd h hend ((run_bind_ok ha).trans ((run_bind_ok hd).trans (run_bind_ok run_fmode)))
    · intro h hr hend
      subst hr
      exact exec_floatEnd h hend ((run_bind_ok ha).trans ((run_bind_ok hd).trans (run_bind_ok run_fmode)))
  · intro k e s u v1 v2 t i bs d r h ha hd hp hr hend
    subst hr
    exact exec_floatEnd h hend ((run_bind_ok ha).trans ((run_bind_ok hd).trans
      ((run_bind_ok (run_packedBytesOk hp)).trans (run_bind_ok run_fmode))))

/-- DCMP without an enabled exception. -/
theorem exec_dcmp {a b : FVal} (h : Issues k dcmpRow e anyLevel s i u)
    (ha : ((ctxOf k i u).srcDec 0).run (opened k i u) = .ok a v1) (hb : ((ctxOf k i u).srcDec 1).run v1 = .ok b v2)
    (hu : untrapped k (fCompare 10 a b).2 v2)
    (hm : Marked k (longDone k (flagsCompare (fCompare 10 a b).1) (fCompare 10 a b).2 v2)) :
    exec (.dcmp k e) s =
      .next (seqEnd s (ctxOf k i u) (longDone k (flagsCompare (fCompare 10 a b).1) (fCompare 10 a b).2 v2)) :=
  h.exec_seq ((run_bind_ok ha).trans ((run_bind_ok hb).trans ((run_bind_ok (run_decFault_none hu)).trans rfl))) hm

/-- DNEG and DABS write the value with its sign bit changed. -/
theorem run_decSign {f : Bool → Bool} {a : FVal} (ha : ((ctxOf k i u).srcDec 0).run v = .ok a v1)
    (hd : ((ctxOf k i u).dst 1).run v1 = .ok d v2)
    (hp : ((ctxOf k i u).put 1 d (toBid i.wide (withSign f a))).run v2 = .ok () v3) :
    (decSign f (ctxOf k i u)).run v = .ok .seq v3 := by
  refine (run_bind_ok ha).trans ((run_bind_ok hd).trans ?_)
  cases a with
  | fin n c q => exact run_bind_ok hp
  | inf n => exact run_bind_ok hp
  | nan n sg pl => exact run_bind_ok hp

/-- DCMP, FCMP, DNEG and DABS. -/
theorem floatCompareResult : FloatCompareResult := by
  refine ⟨?_, ?_, ?_⟩
  · intro k e s u v1 v2 i a b h ha hb hu z hz hm
    subst hz
    exact exec_dcmp h ha hb hu hm
  · intro k e s u v1 v2 i a b r h ha hb hr hu hc z hz hm
    subst hr hz
    exact h.exec_seq ((run_bind_ok ha).trans ((run_bind_ok hb).trans ((run_bind_ok (run_decFault_none hu)).trans
      (run_finishLong_none rfl _ hc)))) hm
  · intro row hrow k e s u v1 v2 v3 i a d h ha hd hp hm
    rw [exec_sign hrow]
    exact h.exec_seq (run_decSign ha hd hp) hm

/-- Settles O5: rounded results, conversions, comparisons and sign-bit operations. -/
theorem floatResult : Obligations.FloatResult := ⟨floatBinaryResult, floatConvertResult, floatCompareResult⟩

/-- An enabled exception is the fault of vector 13 (R102, Table 4.9). -/
theorem run_decFault_some (h : ¬ untrapped k raised v) :
    ((ctxOf k i u).decFault raised).run v = .ok (some (13, decCause i.info.opcode false raised)) v := by
  have h' : ¬ (nbits (v.core (ctxOf k i u).k).dsr.toNat 12 8 &&& raised = 0) := h
  unfold Ctx.decFault
  refine (run_bind_ok run_getCore).trans ?_
  dsimp only
  rw [if_neg h']
  rfl

/-- Settles O6: an enabled exception of a decimal operation is vector 13. -/
theorem floatTrap : Obligations.FloatTrap := by
  intro row hrow k e s u v1 v2 v3 i a b d r h ha hb hd hr _ hu hc
  subst hr
  rw [exec_decimal hrow]
  exact h.exec_error ((run_decBinary ha hb hd).trans ((run_bind_ok (run_decFault_some hu)).trans
    (run_finishLong_trap rfl [] hc)))

/-- A packed result that is written at issue (R97). -/
theorem exec_packedEnd {long : Bool} {fl : List (Nat × Bool)} (h : Issues k info e deny s i u)
    (hend : PackedEnd s k i u v long d n r fl t)
    (hb : (body (ctxOf k i u)).run (opened k i u) = ((ctxOf k i u).endPacked long (some d) n r fl).run v) :
    runInstr k info e deny body s = .next t := by
  obtain ⟨hc, w, hw, hm, rfl⟩ := hend
  refine h.exec_seq (hb.trans ?_) hm
  unfold Ctx.endPacked
  cases long with
  | true => exact run_finishLong_some rfl fl (hc rfl) hw
  | false => exact (run_bind_ok hw).trans rfl

/-- A packed comparison ends without a destination (R97). -/
theorem run_endPacked_none {long : Bool} {fl : List (Nat × Bool)} (hc : long = true → completesAtIssue v k) :
    ((ctxOf k i u).endPacked long none 0 0 fl).run v = .ok .seq
      ((if long then countLong k v else v).setCore k (((if long then countLong k v else v).core k).setFlags fl)) := by
  unfold Ctx.endPacked
  cases long with
  | true => exact run_finishLong_none rfl fl (hc rfl)
  | false => rfl

/-- CMPP (R95): the difference's sign is the comparison. -/
theorem exec_cmpp {a b : List Byte} (h : Issues k cmppRow e anyLevel s i u)
    (ha : ((ctxOf k i u).load 0).run (opened k i u) = .ok a v1) (hb : ((ctxOf k i u).load 1).run v1 = .ok b v2)
    (hpa : packedOk a = true) (hpb : packedOk b = true) (hc : (8 < i.packHi ∨ 8 < i.packLo) → completesAtIssue v2 k)
    (hv : v = (if 8 < i.packHi ∨ 8 < i.packLo then countLong k v2 else v2))
    (hm : Marked k (v.setCore k ((v.core k).setFlags [(fN, decide (packedValue a < packedValue b)),
      (fZ, decide (packedValue a = packedValue b)), (fV, false), (fC, decide (packedValue a < packedValue b))]))) :
    exec (.cmpp k e) s = .next (seqEnd s (ctxOf k i u) (v.setCore k ((v.core k).setFlags
      [(fN, decide (packedValue a < packedValue b)), (fZ, decide (packedValue a = packedValue b)), (fV, false),
        (fC, decide (packedValue a < packedValue b))]))) := by
  have hlt : decide (packedValue a - packedValue b < 0) = decide (packedValue a < packedValue b) :=
    decide_eq_decide.mpr ⟨by omega, by omega⟩
  have heq : decide (packedValue a - packedValue b = 0) = decide (packedValue a = packedValue b) :=
    decide_eq_decide.mpr ⟨by omega, by omega⟩
  have hlong : (8 < i.packHi || 8 < i.packLo) = true ↔ 8 < i.packHi ∨ 8 < i.packLo := by simp
  have hv' : v = if (8 < i.packHi || 8 < i.packLo) = true then countLong k v2 else v2 := by simpa only [hlong] using hv
  refine h.exec_seq ((run_bind_ok ha).trans ((run_bind_ok hb).trans ((run_bind_ok (run_packedBytesOk hpa)).trans
    ((run_bind_ok (run_packedBytesOk hpb)).trans ?_)))) hm
  dsimp only
  rw [hlt, heq, hv']
  exact run_endPacked_none fun hl => hc (hlong.mp hl)

/-- Settles O7: the packed-decimal instructions on sources that R93 allows. -/
theorem packedResult : Obligations.PackedResult := by
  refine ⟨?_, ?_, ?_, ?_⟩
  · intro row hrow k e s u v1 v2 t i a b d r h ha hb hpa hpb hr hend
    subst hr
    have hrun : (packedArith row.2 (ctxOf k i u)).run (opened k i u) = _ :=
      (run_bind_ok ha).trans ((run_bind_ok hb).trans ((run_bind_ok (run_packedBytesOk hpa)).trans
        (run_bind_ok (run_packedBytesOk hpb))))
    simp only [packedRows, List.mem_cons, List.not_mem_nil, or_false] at hrow
    obtain rfl | rfl := hrow
    · exact exec_packedEnd h hend hrun
    · exact exec_packedEnd h hend hrun
  · intro k e s u v1 v2 i a b h ha hb hpa hpb v hc hv z hz hm
    subst hz
    exact exec_cmpp h ha hb hpa hpb hc hv hm
  · intro k e s u v1 v2 t i a d h ha hd hpa hend
    exact exec_packedEnd h hend ((run_bind_ok ha).trans ((run_bind_ok hd).trans (run_bind_ok (run_packedBytesOk hpa))))
  · intro k e s u v1 v2 t i a d h ha hd hend
    exact exec_packedEnd h hend ((run_bind_ok ha).trans (run_bind_ok hd))

end Sys2Proof.Proofs
end

section
/-! The capability instructions: derivations, field reads, CLDC and CSTC (O9, O10). -/

namespace Sys2Proof.Proofs

open Sys2Proof Sys2Proof.Machine

variable {k : CoreId} {info : OpInfo} {e : Enc} {deny : State → Core → Inst → Bool} {s u v v1 v2 v3 w t : State} {i : Inst}
  {body : Ctx → Exec Flow} {d : Dest} {c a : TCap} {n : Nat}

/-- The last step of a derivation: the destination takes the capability. -/
theorem run_putCap : ((ctxOf k i u).putCap n c).run v = .ok .seq (putC k (regAtOp i n) c v) := rfl

/-- A capability operand is a register. -/
theorem run_cap : ((ctxOf k i u).cap n).run v = .ok ((v.core k).cReg (regAtOp i n)) v := rfl

/-- A tagged, unsealed capability passes. -/
theorem run_needPlain (ht : c.tag = true) (ho : c.otype = 0) : (needPlain n c).run v = .ok () v := by
  unfold needPlain
  simp only [ht, ho, Bool.not_true, Bool.false_eq_true, if_false, ne_eq, not_true_eq_false]
  rfl

/-- An authority that Table 2.3 accepts passes. -/
theorem run_needAuthority {perm : Nat} (ha : Authority a perm) : (needAuthority a perm).run v = .ok () v := by
  obtain ⟨htag, hotype, hperm, hnode, -, -⟩ := ha
  unfold needAuthority
  rw [run_bind_ok (run_needPlain htag hotype)]
  simp only [hperm, hnode, Bool.not_true, Bool.false_eq_true, if_false, ne_eq, not_true_eq_false]
  rfl

/-- CCOPY, CVOID and CSENT. -/
theorem capabilityCopyResult : CapabilityCopyResult := by
  intro k e s u v i c hv hc
  subst hv hc
  refine ⟨?_, ?_, ?_⟩
  · intro h z hz hm
    subst hz
    exact h.exec_seq rfl hm
  · intro h z hz hm
    subst hz
    exact h.exec_seq rfl hm
  · intro h htag hotype hex z hz hm
    subst hz
    refine h.exec_seq ((run_bind_ok run_cap).trans ((run_bind_ok (run_needPlain htag hotype)).trans ?_)) hm
    simp only [hex, Bool.not_true, Bool.false_eq_true, if_false]
    exact run_putCap

/-- CFIT and CFITX, where the fitted range lies in the capability's and, for CFITX, is the one asked for. -/
theorem run_fitCap {exact : Bool} {len : Nat} {f : Fit} (hc : c = (v.core k).cReg (regAtOp i 0))
    (ha : ((ctxOf k i u).src 1).run v = .ok len v1) (htag : c.tag = true) (hotype : c.otype = 0)
    (hf : fitRange c.cursor len = some f) (hb : c.base ≤ (f.base : Int)) (ht : (f.top : Int) ≤ c.top)
    (hx : exact = true → f.base = c.cursor ∧ f.top = c.cursor + len) :
    (fitCap exact (ctxOf k i u)).run v = .ok .seq (putC k (regAtOp i 2) (c.withFit f) v1) := by
  subst hc
  refine (run_bind_ok run_cap).trans ((run_bind_ok ha).trans ((run_bind_ok (run_needPlain htag hotype)).trans ?_))
  have hin : (!(decide (((v.core k).cReg (regAtOp i 0)).base ≤ (f.base : Int)) &&
      decide ((f.top : Int) ≤ ((v.core k).cReg (regAtOp i 0)).top))) = false := by simp [hb, ht]
  have hexact : (exact && !(f.base == ((v.core k).cReg (regAtOp i 0)).cursor &&
      f.top == ((v.core k).cReg (regAtOp i 0)).cursor + len)) = false := by
    cases exact with
    | false => rfl
    | true => obtain ⟨h1, h2⟩ := hx rfl; simp [h1, h2]
  rw [hf]
  simp only [hin, hexact, Bool.false_eq_true, if_false]
  exact run_putCap

/-- The derivations by an integer operand. -/
theorem capabilityDeriveResult : CapabilityDeriveResult := by
  intro k e s u v v1 i c a hv hc ha
  subst hv
  have hread {f : TCap → Nat → Exec Flow} : ((ctxOf k i u).cap 0 >>= fun c => (ctxOf k i u).src 1 >>= fun a => f c a).run
      (opened k i u) = (f c a).run v1 := by
    rw [hc]
    exact (run_bind_ok run_cap).trans (run_bind_ok ha)
  refine ⟨?_, ?_, ?_, ?_, ?_⟩
  · intro h hs z hz hm
    subst hz
    refine h.exec_seq (hread.trans ?_) hm
    simp only [hs, Bool.false_eq_true, if_false]
    exact run_putCap
  · intro h hs z hz hm
    subst hz
    refine h.exec_seq (hread.trans ?_) hm
    simp only [hs, Bool.false_eq_true, if_false]
    exact run_putCap
  · intro h hs z hz hm
    subst hz
    refine h.exec_seq (hread.trans ?_) hm
    simp only [hs, Bool.false_eq_true, if_false]
    exact run_putCap
  · intro h htag hotype hex z hz hm
    subst hz
    refine h.exec_seq (hread.trans ((run_bind_ok (run_needPlain htag hotype)).trans ?_)) hm
    simp only [hex, Bool.not_true, Bool.false_eq_true, if_false]
    exact run_putCap
  · intro htag hotype f hf hb ht
    constructor
    · intro h z hz hm
      subst hz
      exact h.exec_seq (run_fitCap hc ha htag hotype hf hb ht fun hx => by cases hx) hm
    · intro h hbase htop z hz hm
      subst hz
      exact h.exec_seq (run_fitCap hc ha htag hotype hf hb ht fun _ => ⟨hbase, htop⟩) hm

/-- CBRAND and CUNBR. -/
theorem capabilityBrandResult : CapabilityBrandResult := by
  intro k e s u v i c a hv hc ha
  subst hv hc ha
  constructor
  · intro h htag hotype hauth h1 h2 z hz hm
    subst hz
    refine h.exec_seq ((run_bind_ok run_cap).trans ((run_bind_ok run_cap).trans ((run_bind_ok (run_needPlain htag hotype)).trans
      ((run_bind_ok (run_needAuthority hauth)).trans ?_)))) hm
    obtain ⟨-, -, -, -, hbase, htop⟩ := hauth
    have hcursor : ¬ ((((opened k i u).core k).cReg (regAtOp i 1)).cursor < 1 ∨
        0xFFE < (((opened k i u).core k).cReg (regAtOp i 1)).cursor) := by omega
    simp only [hbase, htop, hcursor, decide_true, Bool.and_self, Bool.not_true, Bool.false_eq_true, if_false]
    exact run_putCap
  · intro h htag h1 h2 hauth hsame z hz hm
    subst hz
    refine h.exec_seq ((run_bind_ok run_cap).trans ((run_bind_ok run_cap).trans ?_)) hm
    have hotype : ¬ ((((opened k i u).core k).cReg (regAtOp i 0)).otype < 1 ∨
        0xFFE < (((opened k i u).core k).cReg (regAtOp i 0)).otype) := by omega
    simp only [htag, hotype, Bool.not_true, Bool.false_eq_true, if_false]
    refine (run_bind_ok (run_needAuthority hauth)).trans ?_
    obtain ⟨-, -, -, -, hbase, htop⟩ := hauth
    rw [if_neg (not_not.mpr hsame)]
    simp only [hbase, htop, decide_true, Bool.and_self, Bool.not_true, Bool.false_eq_true, if_false]
    exact run_putCap

/-- Settles O9: every derivation of Table 2.3 under the conditions of its row. -/
theorem capabilityResult : Obligations.CapabilityResult :=
  ⟨capabilityCopyResult, capabilityDeriveResult, capabilityBrandResult⟩

/-- The field reads run `capRead` of their field. -/
theorem exec_field {row : InstrRow × (TCap → Nat)} (hrow : row ∈ fieldRows) (k : CoreId) (e : Enc) (s : State) :
    exec (row.1.1 k e) s = runInstr k row.1.2 e anyLevel (capRead row.2) s := by
  simp only [fieldRows, List.mem_cons, List.not_mem_nil, or_false] at hrow
  obtain rfl | rfl | rfl | rfl | rfl | rfl | rfl | rfl := hrow <;> rfl

/-- A sequence that succeeds ran its first part. -/
theorem run_bind_elim {α β : Type} {m : Exec α} {f : α → Exec β} {b : β} (h : (m >>= f).run s = .ok b t) :
    ∃ a u, m.run s = .ok a u ∧ (f a).run u = .ok b t := by
  rw [run_bind] at h
  cases hm : m.run s with
  | ok a u => rw [hm] at h; exact ⟨a, u, rfl, h⟩
  | error r u => rw [hm] at h; cases h

/-- A guard that was passed did not hold. -/
theorem run_guard_elim {α β : Type} {g : Prop} [Decidable g] {m : Exec α} {f : α → Exec β} {r : Exec β} {b : β}
    (hm : ∀ s a t, m.run s ≠ .ok a t) (h : (if g then m >>= f else r).run s = .ok b t) : ¬ g ∧ r.run s = .ok b t := by
  split at h
  · obtain ⟨a, u, h1, -⟩ := run_bind_elim h
    exact absurd h1 (hm s a u)
  · next hg => exact ⟨hg, h⟩

/-- A fault does not succeed. -/
theorem run_memFault_ne_ok {α : Type} {vec origin detail addr : Nat} (s : State) (a : α) (t : State) :
    (memFault vec origin detail addr : Exec α).run s ≠ .ok a t := fun h => by cases h

/-- What holds of every answer of a function holds of every member of the answer of its `mapM`. -/
theorem run_mapM_elim {α β : Type} {f : α → Exec β} {P : β → Prop} (hf : ∀ a s b t, (f a).run s = .ok b t → P b) :
    ∀ {xs : List α} {s t : State} {bs : List β}, (xs.mapM f).run s = .ok bs t → ∀ b ∈ bs, P b := by
  intro xs
  induction xs with
  | nil =>
    intro s t bs h
    rw [List.mapM_nil] at h
    cases h
    exact fun b hb => absurd hb List.not_mem_nil
  | cons x xs ih =>
    intro s t bs h
    rw [List.mapM_cons] at h
    obtain ⟨y, u, hy, h⟩ := run_bind_elim h
    obtain ⟨ys, w, hys, h⟩ := run_bind_elim h
    cases h
    intro b hb
    rcases List.mem_cons.mp hb with rfl | hb
    · exact hf x s b u hy
    · exact ih hys b hb

/-- The boundary table lets nothing through to an address that does not exist (R187). -/
theorem check_hole {h : HalfId} {mid phys n : Nat} {kind : AccKind} {core : Option Nat} (hp : placeOf s h phys = .hole) :
    check s h mid kind phys n core ≠ .allow := by
  unfold check checkClass
  rw [hp]
  dsimp only
  split
  · exact Verdict.noConfusion
  · exact Verdict.noConfusion

/-- A part that passed the boundary table exists. -/
theorem run_boundary_elim {mid phys n va origin : Nat} {kind : AccKind}
    (h : (boundary k mid kind phys n va origin).run s = .ok () t) : placeOf s k.half phys ≠ .hole := by
  intro hp
  unfold boundary at h
  rw [run_bind_ok run_get] at h
  have hcheck := check_hole (mid := mid) (n := n) (kind := kind) (core := some k.num) hp
  split at h
  · next ha => exact hcheck ha
  · cases h
  · cases h
  · cases h

/-- A misaligned access to side-effect memory does not succeed. -/
theorem run_misaligned_ne_ok {α : Type} {mid va phys origin : Nat} (s : State) (a : α) (t : State) :
    (misaligned k mid va phys origin : Exec α).run s ≠ .ok a t := by
  unfold misaligned
  rw [run_bind_ok run_get]
  split
  · split
    · intro h; cases h
    · intro h; cases h
  · exact run_memFault_ne_ok s a t

/-- A part of a tagged capability's store lies on a page that keeps tags, in memory that does (R45). -/
theorem run_resolvePart_elim {level : Nat} {x : AccReq} {p : Nat × Nat} {q : Part}
    (h : (resolvePart k level x p).run s = .ok q t) (htag : x.stored.tag = true) : q.te = true := by
  unfold resolvePart at h
  obtain ⟨-, h⟩ := run_guard_elim run_memFault_ne_ok h
  obtain ⟨y, u, -, h⟩ := run_bind_elim h
  obtain ⟨c, u', -, h⟩ := run_bind_elim h
  obtain ⟨-, h⟩ := run_guard_elim run_memFault_ne_ok h
  rw [run_bind_ok run_get] at h
  obtain ⟨htagged, h⟩ := run_guard_elim run_memFault_ne_ok h
  obtain ⟨-, h⟩ := run_guard_elim run_misaligned_ne_ok h
  obtain ⟨_, w, hb, h⟩ := run_bind_elim h
  have hhole := run_boundary_elim hb
  cases h
  cases hte : (y.te && tagPlace (placeOf u' k.half y.phys)) with
  | true => rfl
  | false => exact absurd (by simp [htag, hte, hhole]) htagged

/-- The checks of a tagged capability's store (R41, R45, R48). -/
theorem run_resolve_store_elim {cap : TCap} {ea : Int} {n origin : Nat} {ps : List Part}
    (h : (resolve k cap ea n .write true origin c).run s = .ok ps t) (htag : c.tag = true) :
    storeOk cap c = true ∧ ∀ p ∈ ps, p.te = true := by
  unfold resolve at h
  obtain ⟨c', u, -, h⟩ := run_bind_elim h
  obtain ⟨-, h⟩ := run_guard_elim run_memFault_ne_ok h
  obtain ⟨-, h⟩ := run_guard_elim run_memFault_ne_ok h
  obtain ⟨hok, h⟩ := run_guard_elim run_memFault_ne_ok h
  obtain ⟨-, h⟩ := run_guard_elim run_memFault_ne_ok h
  obtain ⟨-, h⟩ := run_guard_elim run_memFault_ne_ok h
  refine ⟨And.right (by simpa using hok), ?_⟩
  simp only [Bool.true_or, if_true, List.length_singleton, Nat.lt_irrefl, if_false] at h
  split at h
  · exact run_mapM_elim (fun _ _ _ _ hp => run_resolvePart_elim hp htag) h
  · obtain ⟨_, _, -, h⟩ := run_bind_elim h
    cases h
    intro p hp
    rw [List.mem_singleton.mp hp]

/-- What R41 and R48 ask of a tagged capability's store. -/
theorem storeOk_of_tag {cap : TCap} (htag : c.tag = true) (h : storeOk cap c = true) : cap.has permSC = true ∧
    (c.has permGL = true ∨ cap.has permSL = true) ∧ (cap.node ≠ 511 → c.has permGL = true ∧ c.has permFB = true) := by
  simp only [storeOk, htag, Bool.not_true, Bool.false_or, Bool.and_eq_true, Bool.or_eq_true, beq_iff_eq] at h
  obtain ⟨⟨hsc, hlocal⟩, hnode⟩ := h
  exact ⟨hsc, hlocal, fun hn => hnode.resolve_left hn⟩

/-- Settles O10: field reads, CLDC and CSTC. -/
theorem capabilityMoveResult : Obligations.CapabilityMoveResult := by
  refine ⟨?_, ?_, ?_⟩
  · intro row hrow k e s u v1 v2 i d h hd hp hm
    rw [exec_field hrow]
    exact h.exec_seq ((run_bind_ok run_cap).trans ((run_bind_ok hd).trans ((run_bind_ok hp).trans rfl))) hm
  · intro k e s u v1 v2 v3 i l ps r h hl hps hr z hz hm
    subst hz
    exact h.exec_seq ((run_bind_ok hl).trans ((run_bind_ok hps).trans ((run_bind_ok hr).trans run_putCap))) hm
  · intro k e s u v1 v2 v3 i c l ps h hc hl hps
    subst hc
    refine ⟨?_, ?_⟩
    · intro htag
      obtain ⟨hok, hte⟩ := run_resolve_store_elim hps htag
      obtain ⟨hsc, hlocal, hnode⟩ := storeOk_of_tag htag hok
      exact ⟨hsc, hlocal, hnode, hte⟩
    · intro hput hm
      exact h.exec_seq ((run_bind_ok run_cap).trans ((run_bind_ok hl).trans ((run_bind_ok hps).trans
        ((run_bind_ok hput).trans rfl)))) hm

end Sys2Proof.Proofs
end

section
/-! Control transfers, traps, system registers, barriers and the escape page (O11, O13, O15, O16), WAIT (O17). -/

namespace Sys2Proof.Proofs

open Sys2Proof Sys2Proof.Machine

variable {k : CoreId} {info : OpInfo} {e : Enc} {deny : State → Core → Inst → Bool} {s u v v1 v2 v3 w t : State} {i : Inst}
  {body : Ctx → Exec Flow} {d : Dest} {c : TCap} {n : Nat}

/-- A guard that does not hold lets the rest run. -/
theorem run_if_neg {α : Type} {g : Prop} [Decidable g] {m r : Exec α} (h : ¬ g) : (if g then m else r).run v = r.run v := by
  rw [if_neg h]

/-- A call's push succeeds where the return stack takes its frame. -/
theorem run_pushCall (h : Pushes k i u v w) : ((ctxOf k i u).pushCall).run v = .ok () w := by
  obtain ⟨sw, v', hsw, hp⟩ := h
  unfold Ctx.pushCall
  rw [run_bind_ok (show (readSW (ctxOf k i u).k).run v = .ok sw v' from hsw), run_bind_ok run_getCore]
  exact hp

/-- The target of a jump is checked and unsealed (R43, R107). -/
theorem run_targetCap (hc : c = (v.core k).cReg (regAtOp i 0)) (ht : JumpTarget c) :
    ((ctxOf k i u).targetCap).run v = .ok (c.put 115 104 0) v := by
  subst hc
  obtain ⟨htag, hotype, hex, hnode⟩ := ht
  have h1 : ¬ (((v.core k).cReg (regAtOp i 0)).otype ≠ 0 ∧ ((v.core k).cReg (regAtOp i 0)).otype ≠ 0xFFF) := by omega
  have h2 : ¬ ((!((v.core k).cReg (regAtOp i 0)).has permEX) = true ∨ ((v.core k).cReg (regAtOp i 0)).node ≠ 511) := by
    simp [hex, hnode]
  have h0 : ¬ (!((v.core k).cReg (regAtOp i 0)).tag) = true := by simp [htag]
  exact (run_bind_ok (run_readC _)).trans ((run_if_neg h0).trans ((run_if_neg h1).trans ((run_if_neg h2).trans rfl)))

/-- The branches: Bcc and BRL. -/
theorem branchResult : BranchResult := by
  constructor
  · intro k cc wide e s u v i sw h
    refine ⟨?_, ?_, ?_⟩
    · intro h14 hm
      subst h14
      exact h.exec_jump rfl hm
    · intro h15 hm
      subst h15
      exact h.exec_seq rfl hm
    · intro h14 h15 hsw hm
      have hrun : (if cc = 14 then pure (Flow.jump (ctxOf k i u).relative) else if cc = 15 then pure Flow.seq else do
          let sw ← readSW k
          pure (if condHolds sw cc.toNat then .jump (ctxOf k i u).relative else .seq) : Exec Flow).run (opened k i u) =
          .ok (if condHolds sw cc.toNat then .jump (ctxOf k i u).relative else .seq) v := by
        rw [if_neg h14, if_neg h15]
        exact (run_bind_ok hsw).trans rfl
      by_cases hcond : condHolds sw cc.toNat = true
      · rw [if_pos hcond] at hrun ⊢
        exact h.exec_jump hrun hm
      · rw [if_neg hcond] at hrun ⊢
        exact h.exec_seq hrun hm
  · intro k e s u i h hm
    exact h.exec_jump rfl hm

/-- JMP, CALL, JMPA, CALLA, CALLR and CALLRL. -/
theorem jumpAndCallResult : JumpAndCallResult := by
  refine ⟨?_, ?_, ?_⟩
  · intro k e s u w i c hc ht
    constructor
    · intro h hm
      exact h.exec_jump ((run_bind_ok (run_targetCap hc ht)).trans rfl) hm
    · intro h hp hm
      exact h.exec_jump ((run_bind_ok (run_targetCap hc ht)).trans ((run_bind_ok (run_pushCall hp)).trans rfl)) hm
  · intro k e s u v w i a p ha hp
    subst hp
    constructor
    · intro h hm
      exact h.exec_jump ((run_bind_ok ha).trans rfl) hm
    · intro h hpush hm
      exact h.exec_jump ((run_bind_ok ha).trans ((run_bind_ok (run_pushCall hpush)).trans rfl)) hm
  · intro k e s u w i hp
    constructor
    · intro h hm
      exact h.exec_jump ((run_bind_ok (run_pushCall hp)).trans rfl) hm
    · intro h hm
      exact h.exec_jump ((run_bind_ok (run_pushCall hp)).trans rfl) hm

/-- Settles O11: branches, jumps and calls. -/
theorem transferResult : Obligations.TransferResult := ⟨branchResult, jumpAndCallResult⟩

/-- Settles O13: SVC, MCALL and BPT retire, then take their vectors. -/
theorem trapInstructionResult : Obligations.TrapInstructionResult := by
  constructor
  · intro k e s u v i a ha
    constructor
    · intro h he hm
      exact h.exec_trap ((run_bind_ok ha).trans rfl) hm he
    · intro h he hm
      exact h.exec_trap ((run_bind_ok ha).trans rfl) hm he
  · intro k e s u i h he hm
    exact h.exec_trap rfl hm he

/-- The bits of a word after a field is replaced. -/
theorem testBit_putBits (x : Word) {hi lo : Nat} (y j : Nat) (hlo : lo ≤ hi) (hj : j < 64) :
    (putBits x hi lo y).toNat.testBit j = if lo ≤ j ∧ j ≤ hi then y.testBit (j - lo) else x.toNat.testBit j := by
  simp only [putBits, BitVec.testBit_toNat, BitVec.getLsbD_or, BitVec.getLsbD_and, BitVec.getLsbD_not, BitVec.getLsbD_ofNat,
    testBit_mask hi lo j hlo, Nat.testBit_mul_two_pow, hj, decide_true, Bool.true_and]
  by_cases hin : lo ≤ j ∧ j ≤ hi
  · simp [hin.1, hin.2]
  · have hout : (decide (lo ≤ j) && decide (j ≤ hi)) = false := by simpa using hin
    rw [if_neg hin, hout]
    simp

/-- A bit of a field. -/
theorem testBit_nbits (y hi lo j : Nat) (hj : lo + j ≤ hi) : (nbits y hi lo).testBit j = y.testBit (lo + j) := by
  simp only [nbits, Nat.testBit_mod_two_pow, Nat.testBit_shiftRight, show j < hi + 1 - lo by omega, decide_true, Bool.true_and]

/-- What WRSW leaves of each bit (R56). -/
theorem testBit_wrswValue (level : Nat) (sw : Word) (a : Nat) {j : Nat} (hj : j < 64) :
    (wrswValue level sw a).toNat.testBit j =
      if j < 6 ∨ ((j = 19 ∨ j = 20) ∧ level ≠ levelC) then a.testBit j else sw.toNat.testBit j := by
  have hlow : (putBits sw 5 0 (nbits a 5 0)).toNat.testBit j = if j < 6 then a.testBit j else sw.toNat.testBit j := by
    rw [testBit_putBits _ _ _ (by omega) hj]
    by_cases h6 : j < 6
    · rw [if_pos (by omega), if_pos h6, testBit_nbits _ _ _ _ (by omega)]
      congr 1
      omega
    · rw [if_neg (by omega), if_neg h6]
  unfold wrswValue
  by_cases hl : level = levelC
  · simp only [hl, if_true, hlow, ne_eq, not_true_eq_false, and_false, or_false]
  · simp only [hl, if_false, ne_eq, not_false_eq_true, and_true]
    rw [testBit_putBits _ _ _ (by omega) hj, hlow]
    by_cases h19 : j = 19 ∨ j = 20
    · rw [if_pos (by omega), if_pos (Or.inr h19), testBit_nbits _ _ _ _ (by omega)]
      congr 1
      omega
    · rw [if_neg (by omega)]
      by_cases h6 : j < 6
      · rw [if_pos h6, if_pos (Or.inl h6)]
      · rw [if_neg h6, if_neg (by tauto)]

/-- RDSW and WRSW. -/
theorem statusWordResult : StatusWordResult := by
  constructor
  · intro k e s u v v1 v2 i sw d h hsw hd hp hm
    exact h.exec_seq ((run_bind_ok hsw).trans ((run_bind_ok hd).trans ((run_bind_ok hp).trans rfl))) hm
  · intro k e s u v i a w h ha hw z hz hm
    subst hw hz
    exact ⟨h.exec_seq ((run_bind_ok ha).trans rfl) hm, fun j hj => testBit_wrswValue _ _ a hj⟩

/-- WRSR reads DSR first where it writes it (R134). -/
theorem run_wrsr_reads {a : Nat} {f : Nat → Exec Flow} (hn : n = 3 → ∃ q, (readDsr k).run v = .ok q v)
    (ha : ((ctxOf k i u).src 0).run v = .ok a v1) :
    (if n = 3 then (do let _ ← readDsr k; let b ← (ctxOf k i u).src 0; f b) else (do let b ← (ctxOf k i u).src 0; f b) :
      Exec Flow).run v = (f a).run v1 := by
  by_cases h3 : n = 3
  · obtain ⟨q, hq⟩ := hn h3
    rw [if_pos h3]
    exact (run_bind_ok hq).trans (run_bind_ok ha)
  · rw [if_neg h3]
    exact run_bind_ok ha

/-- A value that a system register takes is written, and one that it does not is vector 9, reason 9. -/
theorem wrsrResult {a n : Nat} (h : Issues k wrsrRow e sysDenied s i u) (hn : n = i.fixed % 256)
    (hdsr : n = 3 → ∃ q, (readDsr k).run (opened k i u) = .ok q (opened k i u))
    (ha : ((ctxOf k i u).src 0).run (opened k i u) = .ok a v) :
    (∀ c, sysWrite v k n a = some c → Marked k (v.setCore k c) →
      exec (.wrsr k e) s = .next (seqEnd s (ctxOf k i u) (v.setCore k c))) ∧
    (sysWrite v k n a = none →
      exec (.wrsr k e) s = .next (stoppedBy k (drainCore k s) 9 (illegalCause i.fixedOff 9) v)) := by
  subst hn
  constructor
  · intro c hc hm
    refine h.exec_seq ((run_wrsr_reads hdsr ha).trans ((run_bind_ok run_get).trans ?_)) hm
    change (match sysWrite v k (i.fixed % 256) a with | some c => _ | none => _ : Exec Flow).run v = _
    rw [hc]
    rfl
  · intro hc
    refine h.exec_error ((run_wrsr_reads hdsr ha).trans ((run_bind_ok run_get).trans ?_))
    change (match sysWrite v k (i.fixed % 256) a with | some c => _ | none => _ : Exec Flow).run v = _
    rw [hc]
    rfl

/-- No sealed capability passes through RDSC and WRSC (R42). -/
theorem run_needUnsealed_ok (hc : c.sealed = false) : (needUnsealed c).run v = .ok () v := by
  unfold needUnsealed
  rw [if_neg (by simp [hc])]
  rfl

theorem run_needUnsealed_error (hc : c.sealed = true) :
    (needUnsealed c).run v = .error (.trap 4 (memCause 0 0 c.cursor)) v := by
  unfold needUnsealed
  rw [if_pos hc]
  rfl

/-- A part that stops ends the sequence. -/
theorem run_bind_error {α β : Type} {m : Exec α} {f : α → Exec β} {r : Stop} (h : m.run s = .error r t) :
    (m >>= f).run s = .error r t := by rw [run_bind, h]

/-- RDSR, WRSR, RDSC and WRSC. -/
theorem systemRegisterResult : SystemRegisterResult := by
  refine ⟨?_, ?_, ?_⟩
  · intro k e s u v v1 v2 i a d h ha hd hp hm
    exact h.exec_seq ((run_bind_ok ha).trans ((run_bind_ok hd).trans ((run_bind_ok hp).trans rfl))) hm
  · intro k e s u v i a n h hn hdsr ha
    exact wrsrResult h hn hdsr ha
  · intro k e s u v i hv
    subst hv
    refine ⟨?_, ?_, ?_⟩
    · intro h hs z hz hm
      subst hz
      exact h.exec_seq ((run_bind_ok run_getCore).trans ((run_bind_ok (run_needUnsealed_ok hs)).trans rfl)) hm
    · intro h hs z hz hm
      subst hz
      exact h.exec_seq ((run_bind_ok (run_readC _)).trans ((run_bind_ok (run_needUnsealed_ok hs)).trans rfl)) hm
    · intro c
      constructor
      · rintro ⟨h, rfl⟩ hs
        exact h.exec_error ((run_bind_ok run_getCore).trans (run_bind_error (run_needUnsealed_error hs)))
      · rintro ⟨h, rfl⟩ hs
        exact h.exec_error ((run_bind_ok (run_readC _)).trans (run_bind_error (run_needUnsealed_error hs)))

/-- Settles O15: the status word and the system registers. -/
theorem systemStateResult : Obligations.SystemStateResult := ⟨statusWordResult, systemRegisterResult⟩

/-- Every older access is performed: nothing to wait for (R130). -/
theorem run_awaitOlder (h : Done v k) : (awaitOlder k).run v = .ok () v := by
  obtain ⟨hlong, hperf⟩ := h
  have hwrite : (awaitWrite k isMemDest).run v = .ok () v := by
    refine (run_bind_ok run_getCore).trans ?_
    rw [hlong]
    rfl
  refine (run_bind_ok hwrite).trans ((run_bind_ok run_get).trans ?_)
  rw [if_neg (by simp [hperf])]
  rfl

/-- A settled core reports no imprecise fault (R130). -/
theorem run_reportImprecise (h : Settled (v.core k)) : (reportImprecise k).run v = .ok () v := by
  obtain ⟨hlong, himprecise⟩ := h
  refine (run_bind_ok run_getCore).trans ?_
  dsimp only
  rw [hlong, himprecise]
  rfl

theorem done_of_settled (h : Settled (v.core k)) (hp : unperformed v k = false) : Done v k := by
  refine ⟨?_, hp⟩
  rw [Core.longWhere, h.1]
  rfl

/-- NOP, FENCE, FENCE.E, EI and DI. -/
theorem plainInstructionResult : PlainInstructionResult := by
  intro k e s u v i hv
  subst hv
  refine ⟨?_, ?_, ?_, ?_, ?_⟩
  · intro h hm
    exact h.exec_seq rfl hm
  · intro h hd hm
    exact h.exec_seq ((run_bind_ok (run_awaitOlder hd)).trans rfl) hm
  · intro h hs hp hm
    exact h.exec_seq ((run_bind_ok (run_reportImprecise hs)).trans
      ((run_bind_ok (run_awaitOlder (done_of_settled hs hp))).trans rfl)) hm
  · intro h z hz hm
    subst hz
    exact h.exec_seq rfl hm
  · intro h z hz hm
    subst hz
    exact h.exec_seq rfl hm

/-- PMCRD of a counter of Table 6.12. -/
theorem pmcrdResult {a : Nat} {v v1 v2 : State}
    (h : Issues k pmcrdRow e (fun s c _ => c.level == levelC && !s.flag k.half (Reg.GRV_MODE_CEN.grove k.grove.val)) s i u)
    (ha : ((ctxOf k i u).src 0).run (opened k i u) = .ok a v) (h15 : a ≤ 15) (hd : ((ctxOf k i u).dst 1).run v = .ok d v1) :
    (openCounter (isPaced v1 k) a = false → ((ctxOf k i u).put 1 d ((v1.core k).perf.toList.getD a 0).toNat).run v1 = .ok () v2 →
      Marked k v2 → exec (.pmcrd k e) s = .next (seqEnd s (ctxOf k i u) v2)) ∧
    (openCounter (isPaced v1 k) a = true → ∀ n, n = (v1.core k).perf.toList.getD a 0 + v1.takeFree.1 →
      ((ctxOf k i u).put 1 d n.toNat).run v1.takeFree.2 = .ok () v2 →
      ∀ z, z = v2.setCore k { v2.core k with perf := (v2.core k).perf.setIfInBounds a n } → Marked k z →
        exec (.pmcrd k e) s = .next (seqEnd s (ctxOf k i u) z)) := by
  constructor
  · intro ho hp hm
    refine h.exec_seq ((run_bind_ok ha).trans ?_) hm
    rw [if_neg (by omega)]
    refine (run_bind_ok hd).trans ((run_bind_ok run_get).trans ?_)
    rw [if_neg (by simp [ho])]
    exact (run_bind_ok hp).trans rfl
  · intro ho n hn hp z hz hm
    subst hn hz
    refine h.exec_seq ((run_bind_ok ha).trans ?_) hm
    rw [if_neg (by omega)]
    refine (run_bind_ok hd).trans ((run_bind_ok run_get).trans ?_)
    rw [if_pos ho]
    exact (run_bind_ok (s := v1) (t := v1.takeFree.2) (a := ⟨⟩) rfl).trans ((run_bind_ok hp).trans rfl)

/-- TLBI, TLBIK, TLBIA, WCI and PMCRD. -/
theorem escapePageResult : EscapePageResult := by
  constructor
  · intro k e s u v i a ha
    refine ⟨?_, ?_, ?_⟩
    · intro h hd z hz hm
      subst hz
      exact h.exec_seq ((run_bind_ok ha).trans ((run_bind_ok (run_awaitOlder hd)).trans rfl)) hm
    · intro h h15 hd z hz hm
      subst hz
      refine h.exec_seq ((run_bind_ok ha).trans ?_) hm
      rw [if_neg (by omega)]
      exact (run_bind_ok (run_awaitOlder hd)).trans rfl
    · intro d v1 v2 h h15 hd
      exact pmcrdResult h ha h15 hd
  · intro k e s u v i hv
    subst hv
    constructor
    · intro h hd z hz hm
      subst hz
      have hnone : (((opened k i u).core k).tlb.filter fun _ => !true) = [] := by simp
      refine h.exec_seq ((run_bind_ok (run_awaitOlder hd)).trans ?_) hm
      rw [← hnone]
      rfl
    · intro h hd z hz hm
      subst hz
      exact h.exec_seq ((run_bind_ok (run_awaitOlder hd)).trans rfl) hm

/-- Settles O16: NOP, the barriers, EI and DI, and the escape page. -/
theorem plainAndEscapeResult : Obligations.PlainAndEscapeResult := ⟨plainInstructionResult, escapePageResult⟩

/-- Settles O17: WAIT runs the steps of R203 in their order and ends in the commit point. -/
theorem waitResult : Obligations.WaitResult := by
  constructor
  · intro k e s u v v2 w i ps h hhold hs hp hspill hrecord hput hret
    have hcommit : (commitStep k (ctxOf k i u)).run (opened k i u) = .ok () (commitPoint k (ctxOf k i u).next w) := by
      have hchecks : (do
          match (← getCore k).thread with
          | some t => checkRecord k t
          | none => pure () : Exec Unit).run v = .ok () v := by
        refine (run_bind_ok run_getCore).trans ?_
        cases ht : (v.core k).thread with
        | none => rfl
        | some t => exact hrecord t ht
      refine (run_bind_ok (run_reportImprecise hs)).trans ((run_bind_ok (run_awaitOlder (done_of_settled hs hp))).trans
        ((run_bind_ok hspill).trans ((run_bind_ok run_getCore).trans ?_)))
      cases ht : (v.core k).thread with
      | none => exact (run_bind_ok hput).trans ((run_bind_ok hret).trans rfl)
      | some t => exact (run_bind_ok (hrecord t ht)).trans ((run_bind_ok hput).trans ((run_bind_ok hret).trans rfl))
    refine h.exec_done (m := false) ((run_bind_ok run_getCore).trans ?_)
    rw [if_neg (by simp [hhold])]
    exact (run_bind_ok hcommit).trans rfl
  · intro k p w ht _
    unfold commitPoint finishStep
    rw [ht]

end Sys2Proof.Proofs
end

section
/-! The taking of a trap (O14), and the long operations of a BULK thread (O8). -/

namespace Sys2Proof.Proofs

open Sys2Proof Sys2Proof.Machine

variable {k : CoreId} {info : OpInfo} {e : Enc} {deny : State → Core → Inst → Bool} {s u v v1 v2 v3 w t : State} {i : Inst}

/-- A field cleared twice is cleared once. -/
theorem putBits_putBits_same (x : Word) (hi lo y z : Nat) (hlo : lo ≤ hi) :
    putBits (putBits x hi lo y) hi lo z = putBits x hi lo z := by
  refine BitVec.eq_of_getLsbD_eq fun j hj => ?_
  simp only [← BitVec.testBit_toNat]
  simp only [testBit_putBits _ _ _ hlo hj]
  split
  · rfl
  · rfl

/-- HOLD and HCNT are 0 at an entry whether they were cleared for the push or not (R119). -/
theorem entrySw_putBits (x : Word) (level : Nat) : entrySw (putBits x 31 23 0) level = entrySw x level := by
  unfold entrySw
  rw [putBits_putBits_same _ _ _ _ _ (by omega)]

/-- No long operation is left to complete. -/
theorem completeAllLong_of_nil (h : (s.core k).longOps = []) : completeAllLong k s = s := by
  unfold completeAllLong
  rw [h]
  rfl

/-- A trap is taken where nothing older is left to report (R136). -/
theorem takeTrap_of_settled {vec : Nat} {cause : Word} {p : TCap} (h : Settled (s.core k)) :
    takeTrap k vec cause p s = enterVector k vec cause p s := by
  obtain ⟨hlong, himprecise⟩ := h
  unfold takeTrap
  rw [completeAllLong_of_nil hlong]
  exact if_pos (by rw [himprecise]; rfl)

/-- A frame is pushed where fewer than 32 entries are occupied (R110). -/
theorem run_pushFrame {f : RFrame} (h : (s.core k).rstack.length < 32) :
    (pushFrame k f).run s = .ok () (s.setCore k { s.core k with rstack := f :: (s.core k).rstack }) := by
  refine (run_bind_ok run_getCore).trans ((run_if_neg (by omega)).trans ?_)
  have h32 : ¬ (decide (32 ≤ (s.core k).rstack.length) && !(s.core k).reserve) = true := by
    simp only [Bool.and_eq_true, decide_eq_true_eq, not_and]
    omega
  exact (run_if_neg h32).trans rfl

/-- A core's write leaves the set-up registers. -/
theorem fld_setCore {c : Core} {h : HalfId} {f : Fld} : (s.setCore k c).fld h f = s.fld h f := by
  simp only [State.fld, State.reg, State.regs_half_setCore]

/-- The entry's PCC depends on the set-up registers and VBA alone (R115). -/
theorem entryPcc_setCore {c : Core} {toM : Bool} {vec : Nat} (hrun : c.run ≠ .held) (hvba : c.vba = (s.core k).vba) :
    entryPcc (s.setCore k c) k toM vec = entryPcc s k toM vec := by
  simp only [entryPcc, superWindow, fld_setCore, State.core_setCore_self s hrun, hvba]

/-- A core as it pushes the frame of an entry: HOLD is over (R126). -/
def beforePush (vec : Nat) (c : Core) : Core :=
  { c with sw := putBits c.sw 31 23 0, converted := c.converted || vec = 19 }

/-- A core with a frame on its return stack. -/
def pushed (f : RFrame) (c : Core) : Core := { c with rstack := f :: c.rstack }

/-- What the push cleared is cleared at the entry again. -/
theorem enterAt_beforePush {f : RFrame} {c : Core} {pcc : TCap} {level vec : Nat} (hvec : vec ≠ 19) :
    (pushed f (beforePush vec c)).enterAt pcc level vec = (pushed f c).enterAt pcc level vec := by
  have hsw : entrySw (putBits c.sw 31 23 0) level = entrySw c.sw level := entrySw_putBits c.sw level
  have hconv : (c.converted || decide (vec = 19)) = c.converted := by simp [hvec]
  unfold Core.enterAt
  by_cases h18 : vec = 18
  · simp only [h18, if_true, Core.reported, pushed, beforePush, hsw]
    simp
  · simp only [h18, if_false, pushed, beforePush, hsw, hconv]

/-- An entry at level S: the frame is pushed, and the core stands as R119 says. -/
theorem enterS_of_room {vec n : Nat} {cause : Word} {p : TCap} {c : Core} (hc : s.core k = c) (hrun : c.run ≠ .held)
    (hvec : vec ≠ 19) (hroom : c.rstack.length < 32) :
    enterS k (n + 1) vec cause p s = s.setCore k ((pushed ⟨p, swImage kindTrap c.bankOn vec c.swFrame, cause⟩ c).enterAt
      (entryPcc s k false vec) levelS vec) := by
  set f : RFrame := ⟨p, swImage kindTrap c.bankOn vec c.swFrame, cause⟩ with hf
  have hcore : (s.setCore k (beforePush vec c)).core k = beforePush vec c := State.core_setCore_self s hrun
  have hpush : (pushFrame k f).run (s.setCore k (beforePush vec c)) = .ok () (s.setCore k (pushed f (beforePush vec c))) := by
    have h := run_pushFrame (s := s.setCore k (beforePush vec c)) (k := k) (f := f) (by rw [hcore]; exact hroom)
    rw [hcore] at h
    exact h.trans (congrArg _ (State.setCore_setCore s hrun))
  have hstart : enterS k (n + 1) vec cause p s =
      (match (pushFrame k f).run (s.setCore k (beforePush vec c)) with
      | .ok _ s1 =>
        let s1 := if vec = 19 then convertStep k s1 else s1
        s1.setCore k ((s1.core k).enterAt (entryPcc s1 k false vec) levelS vec)
      | .error (.stale x) _ => enterS k n vec cause p (dropSlot k x s)
      | .error (.trap 14 0) s1 => overflowM k c.pcc (s1.setCore k c)
      | .error (.trap 14 x) s1 => reserveEntry k x c.pcc (s1.setCore k c)
      | .error (.trap v x) s1 => enterS k n v x c.pcc (s1.setCore k c)
      | .error _ s1 => keepHolds k.half s s1) := by
    rw [hf, ← hc]
    rfl
  rw [hstart, hpush]
  dsimp only
  have hrun' : (pushed f (beforePush vec c)).run ≠ .held := hrun
  have hvba : (pushed f (beforePush vec c)).vba = (s.core k).vba := by rw [hc]; rfl
  rw [if_neg hvec, entryPcc_setCore hrun' hvba, State.core_setCore_self s hrun', State.setCore_setCore s hrun',
    enterAt_beforePush hvec]

/-- An entry at level M (R113). -/
theorem enterM_of_room {vec : Nat} {cause : Word} {p : TCap} {c : Core} (hc : c = s.core k) (hroom : c.mstack.length < 8) :
    enterM k vec cause p s = s.setCore k ({ c with
      mstack := ⟨p, swImage kindTrap c.bankOn vec c.swFrame, cause⟩ :: c.mstack }.enterAt (entryPcc s k true vec) levelM vec) := by
  subst hc
  unfold enterM
  rw [if_neg (by omega)]

/-- Settles O14: what an entry at level S, and one at level M, leave. -/
theorem trapEntry : Obligations.TrapEntry := by
  intro k vec cause p s c f hc hrun hlong himprecise _ hf
  subst hc hf
  rw [takeTrap_of_settled ⟨hlong, himprecise⟩]
  constructor
  · intro hlevel h23 h14 h19 hroom
    unfold enterVector
    rw [if_neg (fun h => h14 h.1), if_neg (by tauto), if_neg h14]
    exact (enterS_of_room rfl hrun h19 hroom)
  · intro hM h14 h19 hroom
    unfold enterVector
    rw [if_neg h14, if_pos hM, if_neg (fun h => h19 h.1)]
    exact enterM_of_room rfl hroom

/-- A core that a thread runs on is no reset core: written, it reads back. -/
theorem core_setCore_of_thread {c : Core} (hc : c.thread.isSome = true) : (s.setCore k c).core k = c := by
  have hne : c ≠ coreDefault k.num := by
    rintro rfl
    exact Bool.noConfusion hc
  simp only [State.setCore, State.setCoreN, State.core, State.coreN, State.half_upd_self]
  exact SMap.get_set_of_ne hne

/-- What a division of a BULK thread leaves at its issue. -/
def issuedLong (i : Inst) (n r : Nat) (fl : List (Nat × Bool)) (c : Core) : Core :=
  { c with
    longs := c.longs + 1
    longOps := c.longOps ++ [{ age := c.longs, opcode := i.info.opcode, cursor := BitVec.ofNat 64 c.pcc.cursor
                               dest := .x (Fin.ofNat 8 n) 64, value := BitVec.ofNat 128 r
                               bytes := leBytes 8 r, flags := fl, raised := 0
                               faultVec := none, release := i.release }] }

/-- A long operation to a whole X register issues while fewer than eight are incomplete (R135). -/
theorem run_issueLong {n r : Nat} {fl : List (Nat × Bool)} (hroom : (v.core k).longOps.length < 8) :
    ((ctxOf k i u).issueLong (some (.x n)) 8 r fl 0 none).run v =
      .ok () (v.setCore k (issuedLong i n r fl (((v.core k).unflag fl).overwritten (isX n)))) := by
  have h8 : ¬ 8 ≤ (v.core k).longOps.length := by omega
  have hwhole : ¬ 8 < 8 := by omega
  exact (run_bind_ok run_getCore).trans ((run_if_neg h8).trans ((run_if_neg hwhole).trans rfl))

/-- A division of a BULK thread leaves a long operation (R135). -/
theorem run_finishLong_bulk {n r : Nat} {fl : List (Nat × Bool)} (hb : isBulk v k = true) (hroom : (v.core k).longOps.length < 8) :
    ((ctxOf k i u).finishLong (some (.x n)) 8 r fl 0 none).run v = .ok .seq ((countLong k v).setCore k
      (issuedLong i n r fl ((((countLong k v).core k).unflag fl).overwritten (isX n)))) := by
  have hthread : (v.core k).thread.isSome = true := by
    simp only [isBulk, Bool.and_eq_true] at hb
    exact hb.1.1
  have hlen : ((countLong k v).core k).longOps.length < 8 := by
    have hcount : (countLong k v).core k = { v.core k with perf := (v.core k).perf.set! 10 ((v.core k).perf[10]! + 1) } :=
      core_setCore_of_thread hthread
    rw [hcount]
    exact hroom
  unfold Ctx.finishLong
  refine (run_bind_ok run_get).trans ((run_bind_ok run_getCore).trans ((run_bind_ok (run_modCore _)).trans ?_))
  have hbulk : (isBulk v (ctxOf k i u).k &&
      !((none : Option (Nat × Word)).isNone && (some (Dest.x n)).any Dest.isRemote && !(v.core (ctxOf k i u).k).restartable)) = true := by
    simpa [Dest.isRemote, ctxOf] using hb
  rw [if_pos hbulk]
  exact (run_bind_ok (run_issueLong (v := countLong k v) hlen)).trans rfl

/-- The end of a long operation that faults: its fault becomes pending by age (R137). -/
theorem completeLong_fault {j : Nat} {o : LongOp} {x : Nat} (ho : (s.core k).longOps[j]? = some o) (hf : o.faultVec = some x) :
    completeLong k j s = s.setCore k { (({ s.core k with longOps := (s.core k).longOps.eraseIdx j } : Core).raised o.raised.toNat) with
      imprecise := addImprecise ⟨o.age, x, o.cursor, o.dest⟩
        (({ s.core k with longOps := (s.core k).longOps.eraseIdx j } : Core).raised o.raised.toNat).imprecise } := by
  unfold completeLong
  simp only [ho, hf]

/-- Settles O8: the issue of a division of a BULK thread, and the completion of a long operation by the kind of its destination. -/
theorem longOperation : Obligations.LongOperation := by
  constructor
  · intro row hrow k e s u v1 v2 v3 i a b n h hw ha hb hd hbulk hroom hz c hc z hz' hm
    subst hc hz'
    rw [exec_divide hrow]
    have hno : ¬ (b % 2 ^ i.w = 0 ∧ (v3.core k).swBit 19 = true) := fun ⟨h0, h1⟩ =>
      hz.elim (fun hn => hn h0) fun hf => by simp [hf] at h1
    have hrun : (divideOp row.2 (ctxOf k i u)).run (opened k i u) = (((ctxOf k i u).finishLong (some (.x n)) (i.w / 8)
        (row.2 i.w a b).1 (row.2 i.w a b).2 0 (if b % 2 ^ i.w = 0 ∧ (v3.core k).swBit 19 = true then
          some (11, BitVec.ofNat 64 i.info.opcode.toNat) else none)).run v3) := run_divideOp ha hb hd
    rw [if_neg hno, show i.w / 8 = 8 by omega, run_finishLong_bulk hbulk hroom] at hrun
    exact h.exec_seq hrun hm
  · intro k j s o c ho hc
    subst hc
    have hexec : exec (.longOperationComplete k j) s = .next (completeLong k j s) := rfl
    constructor
    · intro x hf
      rw [hexec, completeLong_fault ho hf]
    · intro hf d hd
      subst hd
      rw [hexec]
      refine ⟨?_, ?_, ?_, ?_⟩
      · intro hdest
        simp only [completeLong, ho, hf, hdest]
      · intro n w hdest
        simp only [completeLong, ho, hf, hdest]
        rfl
      · intro n hdest
        simp only [completeLong, ho, hf, hdest]
      · intro ps hdest
        simp only [completeLong, ho, hf, hdest]

end Sys2Proof.Proofs
end

section
/-! What an instruction that writes registers alone leaves as it was (O18): each part of it changes one core, in the fields that it names. -/

namespace Sys2Proof.Proofs

open Sys2Proof Sys2Proof.Machine

variable {k : CoreId} {info : OpInfo} {e : Enc} {deny : State → Core → Inst → Bool} {s u v v1 v2 v3 w t : State} {i : Inst}
  {c d : Core}

/-- A state that differs from another in core k alone. -/
structure OnlyCore (k : CoreId) (s t : State) : Prop where
  cores : ∀ h n, (h, n) ≠ (k.half, k.num) → t.coreN h n = s.coreN h n
  memory : ∀ h, (t.half h).mem = (s.half h).mem ∧ (t.half h).regs = (s.half h).regs
  gib : ∀ h, (t.half h).ddrGib = (s.half h).ddrGib
  host : t.host = s.host ∧ t.out = s.out ∧ t.timebase = s.timebase

theorem OnlyCore.refl (k : CoreId) (s : State) : OnlyCore k s s := ⟨fun _ _ _ => rfl, fun _ => ⟨rfl, rfl⟩, fun _ => rfl, rfl, rfl, rfl⟩

/-- Core k written. -/
theorem OnlyCore.setCore (h : OnlyCore k s t) (c : Core) : OnlyCore k s (t.setCore k c) where
  cores h' n hn := by
    rw [← h.cores h' n hn]
    simp only [State.setCore, State.setCoreN, State.coreN]
    by_cases e : h' = k.half
    · subst e
      rw [State.half_upd_self]
      exact SMap.get_set_ne fun e => hn (by rw [e])
    · rw [State.half_upd_ne t _ e]
  memory h' := by
    rw [State.mem_half_setCore, State.regs_half_setCore]
    exact h.memory h'
  gib h' := (State.ddrGib_half_setCore t h' k c).trans (h.gib h')
  host := by
    rw [State.host_setCore, State.out_setCore, State.timebase_setCore]
    exact h.host

/-- A part of an instruction that completes, having changed core k alone, to `d`. -/
def Runs {α : Type} (k : CoreId) (m : Exec α) (s : State) (a : α) (t : State) (d : Core) : Prop :=
  m.run s = .ok a t ∧ OnlyCore k s t ∧ t.core k = d

theorem OnlyCore.trans (h1 : OnlyCore k s t) (h2 : OnlyCore k t u) : OnlyCore k s u where
  cores h n hn := (h2.cores h n hn).trans (h1.cores h n hn)
  memory h := ⟨(h2.memory h).1.trans (h1.memory h).1, (h2.memory h).2.trans (h1.memory h).2⟩
  gib h := (h2.gib h).trans (h1.gib h)
  host := ⟨h2.host.1.trans h1.host.1, h2.host.2.1.trans h1.host.2.1, h2.host.2.2.trans h1.host.2.2⟩

/-- Parts one after the other. -/
theorem Runs.bind {α β : Type} {m : Exec α} {f : α → Exec β} {a : α} {b : β} (h1 : Runs k m s a t c)
    (h2 : Runs k (f a) t b u d) : Runs k (m >>= f) s b u d :=
  ⟨(run_bind_ok h1.1).trans h2.1, h1.2.1.trans h2.2.1, h2.2.2⟩

/-- Outside a HOLD region a slot is lengthened, and nothing else changes (R145). -/
theorem runs_paceTicks (n : Nat) (hc : s.core k = c) (hrun : c.run ≠ .held) (hhold : c.swBit 23 = false) :
    ∃ t p, Runs k (paceTicks k n) s () t { c with pacedTicks := p } := by
  subst hc
  by_cases hp : isPaced s k = true
  · refine ⟨_, (s.core k).pacedTicks + n, (run_bind_ok run_get).trans ?_, (OnlyCore.refl k s).setCore _,
      State.core_setCore_self s hrun⟩
    rw [if_pos hp]
    exact run_if_neg (by simp [hhold])
  · refine ⟨s, (s.core k).pacedTicks, (run_bind_ok run_get).trans ?_, OnlyCore.refl k s, rfl⟩
    exact run_if_neg hp

/-- No leaf is to be marked. -/
theorem runs_flushMarks (hc : s.core k = c) (hrun : c.run ≠ .held) (hmarks : c.marks = []) :
    ∃ t, Runs k (flushMarks k) s () t c := by
  subst hc
  have hsame : { s.core k with marks := [] } = s.core k := by
    generalize s.core k = c at hmarks
    cases c
    cases hmarks
    rfl
  refine ⟨s.setCore k { s.core k with marks := [] }, (run_bind_ok run_getCore).trans ?_, (OnlyCore.refl k s).setCore _, ?_⟩
  · rw [hmarks]
    rfl
  · rw [State.core_setCore_self s (by exact hrun), hsame]

/-- A loop over nothing. -/
theorem run_forIn_nil {α : Type} {f : α → PUnit → Exec (ForInStep PUnit)} :
    (forIn ([] : List α) PUnit.unit f).run s = .ok PUnit.unit s := rfl

/-- A loop over one member. -/
theorem run_forIn_single {α : Type} {x : α} {f : α → PUnit → Exec (ForInStep PUnit)}
    (h : (f x PUnit.unit).run s = .ok (.yield PUnit.unit) t) : (forIn [x] PUnit.unit f).run s = .ok PUnit.unit t := by
  rw [List.forIn_cons]
  exact (run_bind_ok h).trans rfl

/-- A loop whose body completes on each member, with what holds of the members still to come. -/
theorem run_forIn {α : Type} {f : α → PUnit → Exec (ForInStep PUnit)} (P : List α → State → Prop)
    (hf : ∀ x r xs s, P (x :: xs) s → ∃ t, (f x r).run s = .ok (.yield ⟨⟩) t ∧ P xs t) {xs : List α} (hs : P xs s) :
    ∃ t, (forIn xs PUnit.unit f).run s = .ok ⟨⟩ t ∧ P [] t := by
  induction xs generalizing s with
  | nil => exact ⟨s, rfl, hs⟩
  | cons x xs ih =>
    obtain ⟨t, hx, ht⟩ := hf x ⟨⟩ xs s hs
    obtain ⟨v, hxs, hv⟩ := ih ht
    refine ⟨v, ?_, hv⟩
    rw [List.forIn_cons, run_bind_ok hx]
    exact hxs

/-- Nothing to write: no room is needed, nothing is awaited, and no leaf is marked. -/
theorem runs_putUnpaced_nil (hc : s.core k = c) (hrun : c.run ≠ .held) (hmarks : c.marks = []) :
    ∃ t, Runs k (putUnpaced k []) s () t c := by
  subst hc
  have hsame : { s.core k with marks := (s.core k).marks ++ [] } = s.core k := by rw [List.append_nil]
  have hroom : (checkRoom k []).run s = .ok () s := by
    refine (run_bind_ok run_get).trans ?_
    dsimp only
    split
    · rfl
    · rfl
  set s1 := s.setCore k { s.core k with marks := (s.core k).marks ++ [] } with hs1
  have hcore : s1.core k = s.core k := by rw [hs1, hsame]; exact State.core_setCore_self s hrun
  obtain ⟨t, hflush, honly, ht⟩ := runs_flushMarks hcore hrun hmarks
  refine ⟨t, (run_bind_ok hroom).trans ?_, ((OnlyCore.refl k s).setCore _).trans honly, ht⟩
  have hmark : (noteMarks k (([] : List PutPart).map (·.part))).run s = .ok () s1 := rfl
  refine (run_bind_ok run_forIn_nil).trans ((run_bind_ok hmark).trans ((run_bind_ok run_getCore).trans ?_))
  rw [hcore, hmarks]
  exact (run_bind_ok run_forIn_nil).trans ((run_bind_ok run_forIn_nil).trans ((run_bind_ok hflush).trans rfl))

/-- An instruction that writes no memory meets nothing in `putAll` but the end of its slot. -/
theorem runs_putAll_nil (hc : s.core k = c) (hrun : c.run ≠ .held) (hhold : c.swBit 23 = false) (hmarks : c.marks = []) :
    ∃ t p, Runs k (putAll k [[]]) s () t { c with pacedTicks := p } := by
  obtain ⟨s1, p, hpace⟩ := runs_paceTicks (partTicks s k []) hc hrun hhold
  obtain ⟨s2, hput⟩ := runs_putUnpaced_nil hpace.2.2 hrun hmarks
  refine ⟨s2, p, ?_, hpace.2.1.trans hput.2.1, hput.2.2⟩
  have hloop : (forIn [([] : List PutPart)] PUnit.unit fun ps (_ : PUnit) => do
      paceAccess k (ps.map (·.part)); pure (ForInStep.yield PUnit.unit) : Exec PUnit).run s = .ok ⟨⟩ s1 := by
    have haccess : (paceAccess k (([] : List PutPart).map (·.part))).run s = .ok () s1 := (run_bind_ok run_get).trans hpace.1
    exact run_forIn_single ((run_bind_ok haccess).trans rfl)
  exact (run_bind_ok hloop).trans hput.1

/-- A source that names no memory, where no long operation is to write it (R134). -/
theorem run_src_direct {x : Ctx} {n a : Nat} (hx : x.k = k) (hs : Settled (s.core k)) (ha : directValue (s.core k) x n = some a) :
    (x.src n).run s = .ok a s := by
  subst hx
  obtain ⟨hlong, himprecise⟩ := hs
  have hread (m : Nat) : (readX x.k m).run s = .ok ((s.core x.k).xReg m).toNat s := by
    have hawait : (awaitDest x.k (isX m)).run s = .ok () s := by
      refine (run_bind_ok run_getCore).trans ?_
      dsimp only [Core.longWhere]
      rw [hlong, himprecise]
      rfl
    exact (run_bind_ok hawait).trans rfl
  unfold directValue at ha
  unfold Ctx.src
  dsimp only
  split at ha
  · next h0 =>
    cases ha
    rw [h0]
    exact (run_bind_ok (hread _)).trans rfl
  · next h2 => cases ha; rw [h2]; rfl
  · next h3 => cases ha; rw [h3]; rfl
  · cases ha

/-- A core without what the length of its slots and the end of an instruction count (R145, R147, R148). -/
def uncounted (c : Core) : Core :=
  { c with
    pacedTicks := 0, queued := 0, remote := [], lastOpcode := 0, lastClass := 0, holdStart := none, popped := [], issued := false
    perf := Vector.replicate 16 0 }

theorem uncounted_setXReg (n : Nat) (y : Word) : uncounted (c.setXReg n y) = (uncounted c).setXReg n y := by
  unfold Core.setXReg
  by_cases h : c.bankOn = true ∧ n < 4
  · rw [if_pos h, if_pos (show (uncounted c).bankOn = true ∧ n < 4 from h)]; rfl
  · rw [if_neg h, if_neg (show ¬ ((uncounted c).bankOn = true ∧ n < 4) from h)]; rfl

/-- Nothing incomplete is overwritten. -/
theorem overwritten_of_settled (hs : Settled c) (p : LongDest → Bool) : c.overwritten p = c := by
  obtain ⟨hlong, himprecise⟩ := hs
  cases c
  cases hlong
  cases himprecise
  rfl

/-- Nothing incomplete has flags to lose. -/
theorem setFlags_of_settled (hs : Settled c) (fl : List (Nat × Bool)) : c.setFlags fl = { c with sw := swWith c.sw fl } := by
  obtain ⟨hlong, -⟩ := hs
  cases c
  cases hlong
  rfl

/-- A settled core has no long operation to wait for. -/
theorem run_awaitWrite_of_settled (hs : Settled (s.core k)) (p : LongDest → Bool) : (awaitWrite k p).run s = .ok () s := by
  refine (run_bind_ok run_getCore).trans ?_
  dsimp only [Core.longWhere]
  rw [hs.1]
  rfl

/-- The low bits of a register take a value (R54). -/
theorem runs_writeX {n bits y : Nat} (hc : s.core k = c) (hrun : c.run ≠ .held) (hs : Settled c) :
    ∃ t, Runs k (writeX k n bits y) s () t (c.setXReg n (narrow (c.xReg n) bits y)) := by
  subst hc
  have hrun' : (((s.core k).overwritten (isXIn n bits)).setXReg n (narrow ((s.core k).xReg n) bits y)).run ≠ .held := by
    rw [overwritten_of_settled hs]
    unfold Core.setXReg
    split
    · exact hrun
    · exact hrun
  refine ⟨_, ?_, ((OnlyCore.refl k s).setCore _), (State.core_setCore_self s hrun').trans (by rw [overwritten_of_settled hs])⟩
  unfold writeX
  by_cases hb : bits < 64
  · rw [if_pos hb]
    exact (run_bind_ok (run_awaitWrite_of_settled hs _)).trans rfl
  · rw [if_neg hb]
    rfl

/-- A result goes to an X register: its low bits change, and nothing else but the length of the slot (R54). -/
theorem runs_put_x {x : Ctx} {n r y : Nat} (hx : x.k = k) (hc : s.core k = c) (hrun : c.run ≠ .held) (hhold : c.swBit 23 = false)
    (hmarks : c.marks = []) (hs : Settled c) : ∃ t p, Runs k (x.put n (.x r) y) s () t
      (({ c with pacedTicks := p } : Core).setXReg r (narrow (c.xReg r) (8 * x.inst.size (x.op n).2.size) y)) := by
  subst hx
  obtain ⟨s1, p, hput⟩ := runs_putAll_nil hc hrun hhold hmarks
  obtain ⟨s2, hwrite⟩ := runs_writeX (n := r) (bits := 8 * x.inst.size (x.op n).2.size) (y := y) hput.2.2 hrun hs
  refine ⟨s2, p, ?_, hput.2.1.trans hwrite.2.1, hwrite.2.2⟩
  exact (run_bind_ok hput.1).trans ((run_bind_ok (run_forIn_single ((run_bind_ok hwrite.1).trans rfl))).trans rfl)

/-- Outside a HOLD region, with no leaf to mark, an instruction retires, and its counts alone change. -/
theorem runs_retire {x : Ctx} {taken : Bool} (hx : x.k = k) (hc : s.core k = c) (hrun : c.run ≠ .held)
    (hhold : c.swBit 23 = false) (hmarks : c.marks = []) :
    ∃ t d, Runs k (retire x taken) s () t d ∧ uncounted d = uncounted c := by
  subst hx
  obtain ⟨s1, hflush⟩ := runs_flushMarks hc hrun hmarks
  obtain ⟨s2, p, hpace⟩ := runs_paceTicks (if x.inst.fore then
      (4 * ((x.inst.len - (s1.core x.k).queued + 1) / 2) + foreClocks x.inst taken) * frTicks s1 x.k
    else baseTicks (slotClass x.inst taken) x.inst.wide) hflush.2.2 hrun hhold
  refine ⟨_, _, ⟨(run_bind_ok hflush.1).trans ((run_bind_ok run_get).trans ((run_bind_ok hpace.1).trans rfl)),
    (hflush.2.1.trans hpace.2.1).setCore _, State.core_setCore_self _ ?_⟩, ?_⟩
  · rw [hpace.2.2]
    exact hrun
  · rw [hpace.2.2]
    have hold : ({ c with pacedTicks := p } : Core).swBit 23 = false := hhold
    simp only [hold, Bool.false_eq_true, if_false]
    rfl

/-- The register just written reads as written (R59). -/
theorem xReg_setXReg_same {n : Nat} (hn : n < 8) (y : Word) : (c.setXReg n y).xReg n = y := by
  unfold Core.setXReg Core.xReg
  by_cases h : c.bankOn = true ∧ n < 4
  · simp only [if_pos h]
    simp [List.getD_eq_getElem?_getD, h.2]
  · simp only [if_neg h]
    simp [List.getD_eq_getElem?_getD, hn]

/-- Another register reads as before. -/
theorem xReg_setXReg_ne {n m : Nat} (hnm : m ≠ n) (y : Word) : (c.setXReg n y).xReg m = c.xReg m := by
  unfold Core.setXReg Core.xReg
  by_cases h : c.bankOn = true ∧ n < 4
  · simp only [if_pos h]
    split
    · simp [List.getD_eq_getElem?_getD, Ne.symm hnm]
    · rfl
  · simp only [if_neg h]
    split
    · rfl
    · simp [List.getD_eq_getElem?_getD, Ne.symm hnm]

/-- Writing an X register changes the registers of one bank alone. -/
theorem setXReg_eq (c : Core) (n : Nat) (y : Word) : ∃ xs bx, c.setXReg n y = { c with xs := xs, bankX := bx } := by
  unfold Core.setXReg
  split
  · exact ⟨_, _, rfl⟩
  · exact ⟨_, _, rfl⟩

/-- One bit of a word set or cleared. -/
theorem testBit_setWordBit (x : Word) {j : Nat} (b : Bool) (n : Nat) (hj : j < 64) :
    (setWordBit x j b).toNat.testBit n = if n = j then b else x.toNat.testBit n := by
  by_cases h64 : n < 64
  · unfold setWordBit
    cases b with
    | true =>
      simp only [if_true, BitVec.testBit_toNat, BitVec.getLsbD_or, BitVec.getLsbD_ofNat, h64, decide_true, Bool.true_and,
        Nat.testBit_two_pow]
      by_cases e : n = j
      · simp [e]
      · simp [e, Ne.symm e]
    | false =>
      simp only [Bool.false_eq_true, if_false, BitVec.testBit_toNat, BitVec.getLsbD_and, BitVec.getLsbD_not, BitVec.getLsbD_ofNat,
        h64, decide_true, Bool.true_and, Nat.testBit_two_pow]
      by_cases e : n = j
      · simp [e]
      · simp [e, Ne.symm e]
  · rw [if_neg (by omega), Nat.testBit_lt_two_pow (Nat.lt_of_lt_of_le (BitVec.isLt _) (Nat.pow_le_pow_right (by omega) (by omega))),
      Nat.testBit_lt_two_pow (Nat.lt_of_lt_of_le (BitVec.isLt _) (Nat.pow_le_pow_right (by omega) (by omega)))]

/-- A bit that no flag names stands. -/
theorem testBit_swWith_other {fl : List (Nat × Bool)} {n : Nat} (hfl : ∀ f ∈ fl, f.1 < 6) (hn : ∀ f ∈ fl, f.1 ≠ n) (x : Word) :
    (swWith x fl).toNat.testBit n = x.toNat.testBit n := by
  unfold swWith
  induction fl generalizing x with
  | nil => rfl
  | cons f fl ih =>
    rw [List.foldl_cons, ih (fun g hg => hfl g (List.mem_cons_of_mem _ hg)) (fun g hg => hn g (List.mem_cons_of_mem _ hg)),
      testBit_setWordBit _ _ _ (by have := hfl f List.mem_cons_self; omega), if_neg (Ne.symm (hn f List.mem_cons_self))]

/-- Each flag named takes its value. -/
theorem testBit_swWith_of_mem {fl : List (Nat × Bool)} (hfl : ∀ f ∈ fl, f.1 < 6) (hnodup : (fl.map Prod.fst).Nodup) (x : Word) :
    ∀ f ∈ fl, (swWith x fl).toNat.testBit f.1 = f.2 := by
  induction fl generalizing x with
  | nil => exact fun f hf => absurd hf List.not_mem_nil
  | cons g fl ih =>
    intro f hf
    have htail : ∀ f ∈ fl, f.1 < 6 := fun f hf => hfl f (List.mem_cons_of_mem _ hf)
    rw [List.map_cons, List.nodup_cons] at hnodup
    rcases List.mem_cons.mp hf with rfl | hf
    · have hother : ∀ g ∈ fl, g.1 ≠ f.1 := fun g hg e => hnodup.1 (e ▸ List.mem_map_of_mem hg)
      have h64 : f.1 < 64 := by have := hfl f List.mem_cons_self; omega
      exact (testBit_swWith_other htail hother _).trans ((testBit_setWordBit _ _ _ h64).trans (if_pos rfl))
    · exact ih htail hnodup.2 _ f hf

/-- The flags that an instruction sets: the six of Table 3.2, each named once. -/
def SetsFlags (fl : List (Nat × Bool)) : Prop := (∀ f ∈ fl, f.1 < 6) ∧ (fl.map Prod.fst).Nodup

theorem setsFlags_of_keys {fl : List (Nat × Bool)} {js : List Nat} (hjs : fl.map Prod.fst = js) (h6 : ∀ j ∈ js, j < 6)
    (hnodup : js.Nodup) : SetsFlags fl := by
  subst hjs
  exact ⟨fun f hf => h6 f.1 (List.mem_map_of_mem hf), hnodup⟩

theorem setsFlags_logic (n r : Nat) : SetsFlags (flagsLogic n r) :=
  setsFlags_of_keys (js := [3, 2, 1]) rfl (by decide) (by decide)

theorem setsFlags_nzvc (n r : Nat) (v c : Bool) : SetsFlags (flagsNZVC n r v c) :=
  setsFlags_of_keys (js := [3, 2, 1, 0]) rfl (by decide) (by decide)

theorem setsFlags_add (n a b x : Nat) : SetsFlags (addRes n a b x).2 :=
  setsFlags_of_keys (js := [3, 2, 1, 0, 4, 5]) rfl (by decide) (by decide)

theorem setsFlags_sub (n a b x : Nat) : SetsFlags (subRes n a b x).2 :=
  setsFlags_of_keys (js := [3, 2, 1, 0, 4, 5]) rfl (by decide) (by decide)

theorem setsFlags_shl (n a b : Nat) : SetsFlags (shlRes n a b).2 := by
  unfold shlRes
  dsimp only
  split_ifs
  · exact setsFlags_logic n _
  · exact setsFlags_nzvc n _ _ _
  · exact setsFlags_nzvc n _ _ _

theorem setsFlags_shr (n a b : Nat) : SetsFlags (shrRes n a b).2 := by
  unfold shrRes
  dsimp only
  split_ifs
  · exact setsFlags_logic n _
  · exact setsFlags_nzvc n _ _ _
  · exact setsFlags_nzvc n _ _ _

theorem setsFlags_sar (n a b : Nat) : SetsFlags (sarRes n a b).2 := by
  unfold sarRes
  dsimp only
  split_ifs
  · exact setsFlags_logic n _
  · exact setsFlags_nzvc n _ _ _
  · exact setsFlags_nzvc n _ _ _
  · exact setsFlags_nzvc n _ _ _

theorem setsFlags_rol (n a b : Nat) : SetsFlags (rolRes n a b).2 := by
  unfold rolRes
  dsimp only
  split_ifs
  · exact setsFlags_logic n _
  · exact setsFlags_nzvc n _ _ _

theorem setsFlags_ror (n a b : Nat) : SetsFlags (rorRes n a b).2 := by
  unfold rorRes
  dsimp only
  split_ifs
  · exact setsFlags_logic n _
  · exact setsFlags_nzvc n _ _ _

/-- The rows of three operands set flags of Table 3.2. -/
theorem setsFlags_threeOperand {row : InstrRow × (Nat → Nat → Nat → Res)} (hrow : row ∈ threeOperandRows) (n a b : Nat) :
    SetsFlags (row.2 n a b).2 := by
  simp only [threeOperandRows, List.mem_cons, List.not_mem_nil, or_false] at hrow
  obtain rfl | rfl | rfl | rfl | rfl | rfl | rfl | rfl | rfl | rfl | rfl | rfl | rfl := hrow
  · exact setsFlags_add n a b 0
  · exact setsFlags_sub n a b 0
  · exact setsFlags_logic n _
  · exact setsFlags_logic n _
  · exact setsFlags_logic n _
  · exact setsFlags_shl n a b
  · exact setsFlags_shr n a b
  · exact setsFlags_sar n a b
  · exact setsFlags_rol n a b
  · exact setsFlags_ror n a b
  · exact setsFlags_nzvc n _ _ _
  · exact setsFlags_nzvc n _ _ _
  · exact setsFlags_nzvc n _ _ _

/-- An instruction without HOLD opens no region. -/
theorem opened_of_no_hold (h : i.hold = none) : opened k i u = u := by
  have hrun : (openHold (ctxOf k i u)).run u = .ok () u := by
    refine (run_bind_ok run_get).trans ?_
    dsimp only
    rw [show (ctxOf k i u).inst.hold = none from h]
    rfl
  unfold opened after
  rw [hrun]

/-- The end of an instruction that goes on to the next one, outside a HOLD region and with no leaf to mark. -/
theorem seqEnd_of_quiet {x : Ctx} (hx : x.k = k) (hc : v.core k = c) (hrun : c.run ≠ .held) (hhold : c.swBit 23 = false)
    (hmarks : c.marks = []) : OnlyCore k v (seqEnd s x v) ∧
      uncounted ((seqEnd s x v).core k) = { uncounted c with pcc := x.next } := by
  subst hx
  obtain ⟨t, d, ⟨hret, honly, ht⟩, hd⟩ := runs_retire (taken := false) rfl hc hrun hhold hmarks
  have hend : seqEnd s x v = t.setCore x.k { t.core x.k with pcc := x.next } := by
    unfold seqEnd endOf
    rw [hret]
  have hrun' : ({ d with pcc := x.next } : Core).run ≠ .held := by
    have hdrun : (uncounted d).run = (uncounted c).run := congrArg Core.run hd
    exact fun hheld => hrun (hdrun.symm.trans hheld)
  rw [hend, ht]
  refine ⟨honly.setCore _, ?_⟩
  have hback : (t.setCore x.k { d with pcc := x.next }).core x.k = { d with pcc := x.next } := State.core_setCore_self t hrun'
  exact (congrArg uncounted hback).trans (congrArg (fun y : Core => { y with pcc := x.next }) hd)

/-- An operand that is an X register is a destination as it stands. -/
theorem run_dst_x {x : Ctx} {n : Nat} (hmode : (x.op n).1.mode = 0) :
    (x.dst n).run s = .ok (.x (x.op n).1.reg.toNat) s := by
  unfold Ctx.dst
  dsimp only
  rw [hmode]
  rfl

theorem uncounted_flags {x y : Core} {sw : Word} {fl : List (Nat × Bool)} {p : TCap} (hx : uncounted x = y) (hsw : x.sw = sw) :
    { uncounted { x with sw := swWith x.sw fl } with pcc := p } = { y with sw := swWith sw fl, pcc := p } := by
  subst hx hsw
  rfl

/-- The register form of an instruction's result: the state before its retirement. -/
theorem runs_registerForm {x : Ctx} {r y : Nat} {fl : List (Nat × Bool)} (hx : x.k = k) (hc : s.core k = c) (hrun : c.run ≠ .held)
    (hhold : c.swBit 23 = false) (hmarks : c.marks = []) (hs : Settled c) (hfl : SetsFlags fl) :
    ∃ v z, (x.put 2 (.x r) y).run s = .ok () v ∧ z = v.setCore k ((v.core k).setFlags fl) ∧ OnlyCore k s z ∧ Marked k z ∧
      OnlyCore k z (seqEnd u x z) ∧
      uncounted ((seqEnd u x z).core k) = { (uncounted c).setXReg r (narrow (c.xReg r) (8 * x.inst.size (x.op 2).2.size) y) with
        sw := swWith c.sw fl, pcc := x.next } := by
  obtain ⟨v, p, hput, honly, hv⟩ := runs_put_x (n := 2) (r := r) (y := y) hx hc hrun hhold hmarks hs
  obtain ⟨xs, bx, hset⟩ := setXReg_eq { c with pacedTicks := p } r (narrow (c.xReg r) (8 * x.inst.size (x.op 2).2.size) y)
  have hsettled : Settled (v.core k) := by rw [hv, hset]; exact hs
  have hflags : (v.core k).setFlags fl = { v.core k with sw := swWith (v.core k).sw fl } := setFlags_of_settled hsettled fl
  have hrun1 : ((v.core k).setFlags fl).run ≠ .held := by rw [hflags, hv, hset]; exact hrun
  have hz : (v.setCore k ((v.core k).setFlags fl)).core k = (v.core k).setFlags fl := State.core_setCore_self v hrun1
  have hmarks1 : ((v.core k).setFlags fl).marks = [] := by rw [hflags, hv, hset]; exact hmarks
  have hhold1 : ((v.core k).setFlags fl).swBit 23 = false := by
    rw [hflags, hv, hset]
    exact (testBit_swWith_other hfl.1 (fun f hf => by have := hfl.1 f hf; omega) c.sw).trans hhold
  obtain ⟨hend, hcore⟩ := seqEnd_of_quiet (s := u) hx hz hrun1 hhold1 hmarks1
  obtain ⟨m, hm⟩ := runs_flushMarks hz hrun1 hmarks1
  refine ⟨v, _, hput, rfl, honly.setCore _, ⟨m, hm.1⟩, hend, ?_⟩
  have hX : uncounted (({ c with pacedTicks := p } : Core).setXReg r (narrow (c.xReg r) (8 * x.inst.size (x.op 2).2.size) y)) =
      (uncounted c).setXReg r (narrow (c.xReg r) (8 * x.inst.size (x.op 2).2.size) y) := uncounted_setXReg r _
  have hsw : (({ c with pacedTicks := p } : Core).setXReg r (narrow (c.xReg r) (8 * x.inst.size (x.op 2).2.size) y)).sw = c.sw := by
    rw [hset]
  rw [hcore, hflags, hv]
  exact uncounted_flags hX hsw

/-- Settles O18: the register forms of the three-operand instructions complete, and write their register, their flags and PCC alone. -/
theorem registerFormFrame : Obligations.RegisterFormFrame := by
  intro row hrow k e s u i a b r x h hx hna hhold hsw hrun hs hmarks ha hb hmode hr hr8
  subst hx
  obtain ⟨hfl, hnodup⟩ := setsFlags_threeOperand hrow i.w a b
  obtain ⟨v, z, hput, hz, honly, hmarked, hend, hcore⟩ := runs_registerForm (k := k) (u := s) (y := (row.2 i.w a b).1) (x := ctxOf k i u) rfl rfl hrun
    hsw hmarks hs ⟨hfl, hnodup⟩
  have hopened : opened k i u = u := opened_of_no_hold hhold
  have hdst : ((ctxOf k i u).dst 2).run u = .ok (.x r) u := by rw [hr]; exact run_dst_x hmode
  have hexec := threeOperandResult row hrow k e s u u u u v i a b (.x r) h hna (by rw [hopened]; exact run_src_direct rfl hs ha)
    (run_src_direct rfl hs hb) hdst hput z hz hmarked
  refine ⟨_, hexec, ?_⟩
  set t := seqEnd s (ctxOf k i u) z
  obtain ⟨hcores, hmemory, -, hhost⟩ := honly.trans hend
  set y := narrow ((u.core k).xReg r) (8 * i.size ((ctxOf k i u).op 2).2.size) (row.2 i.w a b).1
  have hxreg (n : Nat) : (t.core k).xReg n = ((u.core k).setXReg r y).xReg n := by
    have h1 : (uncounted (t.core k)).xReg n = ((uncounted (u.core k)).setXReg r y).xReg n :=
      (congrArg (fun c : Core => c.xReg n) hcore :)
    exact h1.trans (congrArg (fun c : Core => c.xReg n) (uncounted_setXReg r y).symm :)
  have hflag (j : Nat) : (t.core k).swBit j = (swWith (u.core k).sw (row.2 i.w a b).2).toNat.testBit j :=
    (congrArg (fun c : Core => c.swBit j) hcore :)
  obtain ⟨xs, bx, hset⟩ := setXReg_eq (uncounted (u.core k)) r y
  rw [show (8 * (ctxOf k i u).inst.size ((ctxOf k i u).op 2).2.size) = 8 * i.size ((ctxOf k i u).op 2).2.size from rfl, hset] at hcore
  refine ⟨?_, ?_, ?_, ?_, (congrArg Core.pcc hcore :), ?_⟩
  · rw [hxreg, xReg_setXReg_same hr8]
  · intro n hn
    rw [hxreg, xReg_setXReg_ne hn]
  · intro f hf
    rw [hflag]
    exact testBit_swWith_of_mem hfl hnodup _ f hf
  · intro j hj
    rw [hflag, testBit_swWith_other hfl hj]
    rfl
  · exact {
      caps := ⟨(congrArg Core.caps hcore :), (congrArg Core.bankC hcore :), (congrArg Core.bankOn hcore :)⟩
      decimals := ⟨(congrArg Core.ds hcore :), (congrArg Core.dsr hcore :), (congrArg Core.decOwner hcore :)⟩
      system := ⟨(congrArg Core.vba hcore :), (congrArg Core.krr hcore :), (congrArg Core.rsc hcore :), (congrArg Core.btr hcore :)⟩
      returns := ⟨(congrArg Core.rstack hcore :), (congrArg Core.mstack hcore :), (congrArg Core.irqs hcore :)⟩
      step := ⟨(congrArg Core.journal hcore :), (congrArg Core.effects hcore :), (congrArg Core.thread hcore :)⟩
      cores := hcores
      memory := hmemory
      host := hhost }

end Sys2Proof.Proofs
end

section
/-! What an instruction that stores to memory leaves as it was (O19): the bytes and tags of its parts change, and no others. -/

namespace Sys2Proof.Proofs

open Sys2Proof Sys2Proof.Machine

variable {k : CoreId} {s u v v1 v2 w t : State} {h : HalfId} {m m' : Mem} {a n g l mid : Nat} {bs : List Byte}

/-- A byte outside the bytes of a write is not changed. -/
theorem get_writeCells_outside {m : List Host.Cell} {c : Nat} (hc : c < a ∨ a + bs.length ≤ c) :
    readCells (writeCells m a bs) c 1 = readCells m c 1 := by
  simp only [readCells]
  congr 1
  induction bs generalizing m a with
  | nil => rfl
  | cons b bs ih =>
    rw [List.length_cons] at hc
    rw [writeCells, ih (by omega), SMap.get_set_ne (by omega)]

-- the parts of an access

theorem lineParts_zero (f : Nat) : lineParts f a 0 = [] := by
  cases f with
  | zero => rfl
  | succ f => rfl

/-- The parts of an access touch the granules of the access (R138). -/
theorem mem_granulesOf_lineParts {f : Nat} (hf : n + a % 64 ≤ 64 * f) :
    (∃ p ∈ lineParts f a n, g ∈ granulesOf p.1 p.2) ↔ g ∈ granulesOf a n := by
  induction f generalizing a n with
  | zero =>
    have hn : n = 0 := by omega
    subst hn
    simp [lineParts, granulesOf]
  | succ f ih =>
    rw [lineParts]
    by_cases hn : n = 0
    · subst hn
      simp [granulesOf]
    · rw [if_neg hn]
      dsimp only
      simp only [List.mem_cons, exists_eq_or_imp]
      rcases Nat.le_total n (64 - a % 64) with hle | hle
      · rw [Nat.min_eq_left hle, Nat.sub_self, lineParts_zero]
        simp
      · obtain ⟨j, hj⟩ : ∃ j, j = 64 - a % 64 := ⟨_, rfl⟩
        rw [Nat.min_eq_right hle, ih (by omega), ← hj, mem_granulesOf (n := j) (by omega), mem_granulesOf (n := n) (by omega)]
        by_cases hrest : n - j = 0
        · have hnone : g ∉ granulesOf (a + j) (n - j) := by rw [hrest]; exact List.not_mem_nil
          simp only [hnone, or_false]
          omega
        · rw [mem_granulesOf (by omega)]
          omega

/-- Each part lies within the access and within one line, and is not empty. -/
theorem lineParts_bounds {f : Nat} {p : Nat × Nat} (hp : p ∈ lineParts f a n) :
    a ≤ p.1 ∧ p.1 + p.2 ≤ a + n ∧ 0 < p.2 ∧ p.1 % 64 + p.2 ≤ 64 := by
  induction f generalizing a n with
  | zero => exact absurd hp List.not_mem_nil
  | succ f ih =>
    rw [lineParts] at hp
    by_cases hn : n = 0
    · rw [if_pos hn] at hp
      exact absurd hp List.not_mem_nil
    · rw [if_neg hn] at hp
      rcases List.mem_cons.mp hp with rfl | hp
      · dsimp only
        omega
      · have := ih hp
        omega

theorem mem_granulesOf_partsOf : (∃ p ∈ partsOf a n, g ∈ granulesOf p.1 p.2) ↔ g ∈ granulesOf a n :=
  mem_granulesOf_lineParts (by omega)

-- memories

/-- No error and no poison stands in a line, nor in the SRAM granules that may hold it. -/
structure CleanLine (m : Mem) (l : Nat) : Prop where
  granules : ∀ g ∈ lineGranules l, g ∉ m.poison ∧ g ∉ m.ue ∧ g ∉ m.ce
  line : l ∉ m.lineP ∧ l ∉ m.lineUe ∧ l ∉ m.lineCe

/-- No mark has come. -/
structure NoNewMarks (m m' : Mem) : Prop where
  poison : ∀ g ∈ m'.poison, g ∈ m.poison
  ue : ∀ g ∈ m'.ue, g ∈ m.ue
  ce : ∀ g ∈ m'.ce, g ∈ m.ce
  lineP : ∀ l ∈ m'.lineP, l ∈ m.lineP
  lineUe : ∀ l ∈ m'.lineUe, l ∈ m.lineUe
  lineCe : ∀ l ∈ m'.lineCe, l ∈ m.lineCe

theorem NoNewMarks.refl (m : Mem) : NoNewMarks m m :=
  ⟨fun _ h => h, fun _ h => h, fun _ h => h, fun _ h => h, fun _ h => h, fun _ h => h⟩

theorem NoNewMarks.trans {m'' : Mem} (h1 : NoNewMarks m m') (h2 : NoNewMarks m' m'') : NoNewMarks m m'' :=
  ⟨fun g hg => h1.poison g (h2.poison g hg), fun g hg => h1.ue g (h2.ue g hg), fun g hg => h1.ce g (h2.ce g hg),
    fun g hg => h1.lineP g (h2.lineP g hg), fun g hg => h1.lineUe g (h2.lineUe g hg), fun g hg => h1.lineCe g (h2.lineCe g hg)⟩

theorem CleanLine.mono (hc : CleanLine m l) (hm : NoNewMarks m m') : CleanLine m' l where
  granules g hg := by
    obtain ⟨hp, hu, hce⟩ := hc.granules g hg
    exact ⟨fun h => hp (hm.poison g h), fun h => hu (hm.ue g h), fun h => hce (hm.ce g h)⟩
  line := ⟨fun h => hc.line.1 (hm.lineP l h), fun h => hc.line.2.1 (hm.lineUe l h), fun h => hc.line.2.2 (hm.lineCe l h)⟩

theorem mem_del {m : NatSet} {i j : Nat} : i ∈ m.del j ↔ i ∈ m ∧ i ≠ j := by simp [NatSet.del]

theorem contains_eq_false {m : NatSet} {i : Nat} (h : i ∉ m) : m.contains i = false := by simpa using h

/-- A write to a granule without marks makes no report, and leaves no mark (Table 8.2). -/
theorem mergeGranule_of_clean {full : Bool} (hp : g ∉ m.poison) (hu : g ∉ m.ue) (hc : g ∉ m.ce) :
    (mergeGranule m g full).2 = .quiet ∧ NoNewMarks m (mergeGranule m g full).1 ∧
      (mergeGranule m g full).1.cells = m.cells := by
  unfold mergeGranule
  cases full with
  | true =>
    exact ⟨rfl, ⟨fun _ h => (mem_del.mp h).1, fun _ h => (mem_del.mp h).1, fun _ h => (mem_del.mp h).1, fun _ h => h, fun _ h => h,
      fun _ h => h⟩, rfl⟩
  | false =>
    simp only [contains_eq_false hp, contains_eq_false hu, contains_eq_false hc, Bool.false_eq_true, if_false]
    exact ⟨trivial, ⟨fun _ h => h, fun _ h => h, fun _ h => h, fun _ h => h, fun _ h => h, fun _ h => h⟩, trivial⟩

/-- What a write of bytes to memory without marks leaves: other bytes and tags stand, no mark comes. -/
structure MemStored (m m' : Mem) (a n : Nat) : Prop where
  bytes : ∀ c, c < a ∨ a + n ≤ c → readCells m'.cells c 1 = readCells m.cells c 1
  tags : ∀ g, g ∈ m'.tags ↔ g ∈ m.tags ∧ g ∉ granulesOf a n
  marks : NoNewMarks m m'

/-- The write of bytes whose granules have no marks, in SRAM. -/
theorem put_of_clean (hclean : ∀ g ∈ granulesOf a bs.length, g ∉ m.poison ∧ g ∉ m.ue ∧ g ∉ m.ce) :
    MemStored m (m.put a bs).1 a bs.length ∧ ∀ x ∈ (m.put a bs).2, x.2 = .quiet := by
  have hfold : ∀ (gs : List Nat) (acc : Mem × List (Nat × Merge)), (∀ g ∈ gs, g ∉ acc.1.poison ∧ g ∉ acc.1.ue ∧ g ∉ acc.1.ce) →
      (∀ x ∈ acc.2, x.2 = .quiet) →
      NoNewMarks acc.1 (gs.foldl (fun (acc : Mem × List (Nat × Merge)) g =>
        let x := mergeGranule acc.1 g (coversGranule a bs.length g)
        (x.1, acc.2 ++ [(g, x.2)])) acc).1 ∧
      ∀ x ∈ (gs.foldl (fun (acc : Mem × List (Nat × Merge)) g =>
        let x := mergeGranule acc.1 g (coversGranule a bs.length g)
        (x.1, acc.2 ++ [(g, x.2)])) acc).2, x.2 = .quiet := by
    intro gs
    induction gs with
    | nil => exact fun acc _ hq => ⟨NoNewMarks.refl _, hq⟩
    | cons g gs ih =>
      intro acc hgs hq
      obtain ⟨hp, hu, hc⟩ := hgs g List.mem_cons_self
      obtain ⟨hquiet, hmarks, -⟩ := mergeGranule_of_clean (full := coversGranule a bs.length g) hp hu hc
      rw [List.foldl_cons]
      obtain ⟨hm, hrest⟩ := ih ((mergeGranule acc.1 g (coversGranule a bs.length g)).1,
          acc.2 ++ [(g, (mergeGranule acc.1 g (coversGranule a bs.length g)).2)])
        (fun i hi => by
          obtain ⟨hp, hu, hc⟩ := hgs i (List.mem_cons_of_mem _ hi)
          exact ⟨fun h => hp (hmarks.poison i h), fun h => hu (hmarks.ue i h), fun h => hc (hmarks.ce i h)⟩)
        (fun x hx => by
          rcases List.mem_append.mp hx with hx | hx
          · exact hq x hx
          · rw [List.mem_singleton.mp hx]
            exact hquiet)
      exact ⟨hmarks.trans hm, hrest⟩
  obtain ⟨hmarks, hquiet⟩ := hfold (granulesOf a bs.length) (m, []) hclean (fun x hx => absurd hx List.not_mem_nil)
  exact ⟨⟨fun c hc => get_writeCells_outside hc, fun g => mem_tags_put,
    ⟨hmarks.poison, hmarks.ue, hmarks.ce, hmarks.lineP, hmarks.lineUe, hmarks.lineCe⟩⟩, hquiet⟩

/-- Tags after several are taken away. -/
theorem mem_foldl_del {gs : List Nat} {ts : NatSet} : g ∈ gs.foldl NatSet.del ts ↔ g ∈ ts ∧ g ∉ gs := by
  induction gs generalizing ts with
  | nil => simp
  | cons i gs ih => rw [List.foldl_cons, ih, mem_del, List.mem_cons, not_or, and_assoc]

/-- The write of bytes in a DDR line without marks. -/
theorem putLine_of_clean (hclean : CleanLine m (a / 64)) :
    MemStored m (m.putLine a bs).1 a bs.length ∧ (m.putLine a bs).2 = [] := by
  obtain ⟨hp, hu, hc⟩ := hclean.line
  have hmerge : (mergeLine m a bs.length).2 = [] ∧ NoNewMarks m (mergeLine m a bs.length).1 ∧
      (mergeLine m a bs.length).1.tags = (granulesOf a bs.length).foldl NatSet.del m.tags := by
    unfold mergeLine
    simp only [contains_eq_false hp, contains_eq_false hu, contains_eq_false hc, Bool.false_eq_true, if_false]
    split
    · exact ⟨rfl, ⟨fun _ h => h, fun _ h => h, fun _ h => h, fun _ h => (mem_del.mp h).1, fun _ h => (mem_del.mp h).1,
        fun _ h => (mem_del.mp h).1⟩, rfl⟩
    · exact ⟨rfl, ⟨fun _ h => h, fun _ h => h, fun _ h => h, fun _ h => h, fun _ h => (mem_del.mp h).1,
        fun _ h => (mem_del.mp h).1⟩, rfl⟩
  obtain ⟨hreports, hmarks, htags⟩ := hmerge
  refine ⟨⟨fun c hc => get_writeCells_outside hc, fun g => ?_,
    ⟨hmarks.poison, hmarks.ue, hmarks.ce, hmarks.lineP, hmarks.lineUe, hmarks.lineCe⟩⟩, hreports⟩
  change g ∈ (mergeLine m a bs.length).1.tags ↔ _
  rw [htags, mem_foldl_del]

-- the state: which bytes of which half were written, and nothing else that an instruction's frame names

/-- A state after writes of bytes (half, address, count) to memory without marks. -/
structure Stored (s t : State) (ws : List (HalfId × Nat × Nat)) : Prop where
  regs : ∀ h, (t.half h).regs = (s.half h).regs ∧ (t.half h).ddrGib = (s.half h).ddrGib
  host : t.host = s.host
  bytes : ∀ h c, (∀ w ∈ ws, w.1 = h → c < w.2.1 ∨ w.2.1 + w.2.2 ≤ c) →
    readCells (t.half h).mem.cells c 1 = readCells (s.half h).mem.cells c 1
  tags : ∀ h g, g ∈ (t.half h).mem.tags ↔ g ∈ (s.half h).mem.tags ∧ ∀ w ∈ ws, w.1 = h → g ∉ granulesOf w.2.1 w.2.2
  marks : ∀ h, NoNewMarks (s.half h).mem (t.half h).mem

theorem Stored.refl (s : State) : Stored s s [] :=
  ⟨fun _ => ⟨rfl, rfl⟩, rfl, fun _ _ _ => rfl, fun _ _ => by simp, fun _ => NoNewMarks.refl _⟩

theorem Stored.trans {ws ws' : List (HalfId × Nat × Nat)} (h1 : Stored s t ws) (h2 : Stored t u ws') : Stored s u (ws ++ ws') where
  regs h := ⟨(h2.regs h).1.trans (h1.regs h).1, (h2.regs h).2.trans (h1.regs h).2⟩
  host := h2.host.trans h1.host
  bytes h c hc := (h2.bytes h c fun w hw => hc w (List.mem_append_right _ hw)).trans
    (h1.bytes h c fun w hw => hc w (List.mem_append_left _ hw))
  tags h g := by
    rw [h2.tags, h1.tags, and_assoc]
    simp only [List.mem_append, or_imp, forall_and]
  marks h := (h1.marks h).trans (h2.marks h)

/-- A state that differs in one core. -/
theorem OnlyCore.stored (h : OnlyCore k s t) : Stored s t [] where
  regs h' := ⟨(h.memory h').2, h.gib h'⟩
  host := h.host.1
  bytes h' c _ := by rw [(h.memory h').1]
  tags h' g := by rw [(h.memory h').1]; simp
  marks h' := by rw [(h.memory h').1]; exact NoNewMarks.refl _

/-- Writes that name the same bytes and granules. -/
theorem Stored.congr {ws ws' : List (HalfId × Nat × Nat)} (h1 : Stored s t ws)
    (hbytes : ∀ h c, (∀ w ∈ ws', w.1 = h → c < w.2.1 ∨ w.2.1 + w.2.2 ≤ c) → ∀ w ∈ ws, w.1 = h → c < w.2.1 ∨ w.2.1 + w.2.2 ≤ c)
    (htags : ∀ h g, (∃ w ∈ ws, w.1 = h ∧ g ∈ granulesOf w.2.1 w.2.2) ↔ ∃ w ∈ ws', w.1 = h ∧ g ∈ granulesOf w.2.1 w.2.2) :
    Stored s t ws' where
  regs := h1.regs
  host := h1.host
  bytes h c hc := h1.bytes h c (hbytes h c hc)
  tags h g := by
    rw [h1.tags]
    have := htags h g
    refine and_congr_right fun _ => ⟨fun hw w hw' e hg => ?_, fun hw w hw' e hg => ?_⟩
    · obtain ⟨x, hx, ex, hxg⟩ := this.mpr ⟨w, hw', e, hg⟩
      exact hw x hx ex hxg
    · obtain ⟨x, hx, ex, hxg⟩ := this.mp ⟨w, hw', e, hg⟩
      exact hw x hx ex hxg
  marks := h1.marks

/-- A write to one half's memory, that leaves the cores. -/
structure StoredAt (s t : State) (ws : List (HalfId × Nat × Nat)) : Prop extends Stored s t ws where
  cores : ∀ k, t.core k = s.core k

theorem StoredAt.refl (s : State) : StoredAt s s [] := ⟨Stored.refl s, fun _ => rfl⟩

theorem StoredAt.trans {ws ws' : List (HalfId × Nat × Nat)} (h1 : StoredAt s t ws) (h2 : StoredAt t u ws') :
    StoredAt s u (ws ++ ws') := ⟨h1.toStored.trans h2.toStored, fun k => (h2.cores k).trans (h1.cores k)⟩

/-- A half's memory replaced. -/
theorem storedAt_upd {ws : List (HalfId × Nat × Nat)} (hws : ∀ w ∈ ws, w.1 = h)
    (hbytes : ∀ c, (∀ w ∈ ws, c < w.2.1 ∨ w.2.1 + w.2.2 ≤ c) → readCells m'.cells c 1 = readCells (s.half h).mem.cells c 1)
    (htags : ∀ g, g ∈ m'.tags ↔ g ∈ (s.half h).mem.tags ∧ ∀ w ∈ ws, g ∉ granulesOf w.2.1 w.2.2)
    (hmarks : NoNewMarks (s.half h).mem m') : StoredAt s (s.upd h fun x => { x with mem := m' }) ws where
  regs h' := ⟨State.half_upd_proj s _ h' (fun x => x.regs) _ fun _ => rfl,
    State.half_upd_proj s _ h' (fun x => x.ddrGib) _ fun _ => rfl⟩
  host := State.host_upd _ _ _
  bytes h' c hc := by
    by_cases e : h' = h
    · subst e
      rw [State.half_upd_self]
      exact hbytes c fun w hw => hc w hw (hws w hw)
    · rw [State.half_upd_ne s _ e]
  tags h' g := by
    by_cases e : h' = h
    · subst e
      rw [State.half_upd_self]
      refine (htags g).trans (and_congr_right fun _ => ⟨fun hw w hw' _ => hw w hw', fun hw w hw' => hw w hw' (hws w hw')⟩)
    · rw [State.half_upd_ne s _ e]
      exact ⟨fun hg => ⟨hg, fun w hw e' => absurd (e'.symm.trans (hws w hw)) e⟩, fun hg => hg.1⟩
  marks h' := by
    by_cases e : h' = h
    · subst e
      rw [State.half_upd_self]
      exact hmarks
    · rw [State.half_upd_ne s _ e]
      exact NoNewMarks.refl _
  cores k := by
    have hc := State.half_upd_proj s h k.half (fun x => x.cores) (fun x => { x with mem := m' }) fun _ => rfl
    simp only [State.core, State.coreN]
    rw [show ((s.upd h fun x => { x with mem := m' }).half k.half).cores = (s.half k.half).cores from hc]

/-- Reports that say nothing change nothing. -/
theorem foldl_mergeReport_quiet {line : Bool} {xs : List (Nat × Merge)} (hx : ∀ x ∈ xs, x.2 = .quiet) :
    xs.foldl (mergeReport h mid line) s = s := by
  induction xs generalizing s with
  | nil => rfl
  | cons x xs ih =>
    have hq : mergeReport h mid line s x = s := by
      unfold mergeReport
      rw [hx x List.mem_cons_self]
    rw [List.foldl_cons, hq]
    exact ih fun y hy => hx y (List.mem_cons_of_mem _ hy)

/-- The lines that a write touches have no marks. -/
def CleanAt (s : State) (h : HalfId) (a n : Nat) : Prop := ∀ g ∈ granulesOf a n, CleanLine (s.half h).mem (g / 4)

theorem CleanAt.mono {ws : List (HalfId × Nat × Nat)} (hc : CleanAt s h a n) (hs : Stored s t ws) : CleanAt t h a n :=
  fun g hg => (hc g hg).mono (hs.marks h)

/-- A granule lies in its line. -/
theorem mem_lineGranules (g : Nat) : g ∈ lineGranules (g / 4) := by
  simp only [lineGranules, List.mem_cons, List.not_mem_nil, or_false]
  omega

/-- A write within one line without marks (R172). -/
theorem storedAt_memWritePart (hclean : CleanAt s h a bs.length) (hpos : 0 < bs.length) :
    StoredAt s (memWritePart h mid s a bs) [(h, a, bs.length)] := by
  have hmem : ∀ m' : Mem, MemStored (s.half h).mem m' a bs.length →
      StoredAt s (s.upd h fun x => { x with mem := m' }) [(h, a, bs.length)] := by
    intro m' hm
    refine storedAt_upd (fun w hw => by rw [List.mem_singleton.mp hw]) (fun c hc => hm.bytes c (hc _ List.mem_cons_self))
      (fun g => (hm.tags g).trans (and_congr_right fun _ => ?_)) hm.marks
    simp
  have hfirst : a / 16 ∈ granulesOf a bs.length := (mem_granulesOf hpos).mpr (by omega)
  unfold memWritePart
  dsimp only
  cases hline : !inSram (s.half h).mem (a / 16) with
  | true =>
    have hl := hclean _ hfirst
    rw [show a / 16 / 4 = a / 64 by omega] at hl
    obtain ⟨hput, hnone⟩ := putLine_of_clean (bs := bs) hl
    simp only [if_true, hnone, List.foldl_nil]
    exact hmem _ hput
  | false =>
    obtain ⟨hput, hquiet⟩ := put_of_clean (m := (s.half h).mem) (a := a) (bs := bs)
      fun g hg => (hclean g hg).granules g (mem_lineGranules g)
    simp only [Bool.false_eq_true, if_false]
    rw [foldl_mergeReport_quiet hquiet]
    exact hmem _ hput

/-- A line without marks comes into an L2 as it is (R171). -/
theorem storedAt_fillLines {ls : List Nat} (hclean : ∀ l ∈ ls, CleanLine (s.half h).mem l) :
    StoredAt s (ls.foldl (fun s l => if (s.half h).mem.held.contains l then s
      else (touchLine s h l).upd h fun x => { x with mem := x.mem.fill l }) s) [] := by
  induction ls generalizing s with
  | nil => exact StoredAt.refl s
  | cons l ls ih =>
    rw [List.foldl_cons]
    obtain ⟨hp, hu, hc⟩ := (hclean l List.mem_cons_self).line
    have htouch : touchLine s h l = s := by
      unfold touchLine
      simp only [contains_eq_false hu, contains_eq_false hc, Bool.false_eq_true, if_false]
    have hstep : StoredAt s (if (s.half h).mem.held.contains l then s
        else (touchLine s h l).upd h fun x => { x with mem := x.mem.fill l }) [] := by
      split
      · exact StoredAt.refl s
      · next hheld =>
        have hfill : (s.half h).mem.fill l = { (s.half h).mem with held := (s.half h).mem.held.add l } := by
          unfold Mem.fill
          simp only [hheld, contains_eq_false hp, Bool.false_eq_true, if_false]
        have hupd : (s.upd h fun x => { x with mem := x.mem.fill l }) =
            s.upd h fun x => { x with mem := { (s.half h).mem with held := (s.half h).mem.held.add l } } := by
          rw [← hfill]
          cases h <;> rfl
        rw [htouch, hupd]
        exact storedAt_upd (fun w hw => absurd hw List.not_mem_nil) (fun _ _ => rfl) (fun g => by simp)
          ⟨fun _ h => h, fun _ h => h, fun _ h => h, fun _ h => h, fun _ h => h, fun _ h => h⟩
    exact hstep.trans (ih fun l' hl' => (hclean l' (List.mem_cons_of_mem _ hl')).mono (hstep.marks h))

/-- A part of an access touches lines that the access touches. -/
theorem CleanAt.part {p : Nat × Nat} (hc : CleanAt s h a n) (hp : p ∈ partsOf a n) : CleanAt s h p.1 p.2 :=
  fun _ hg => hc _ (mem_granulesOf_partsOf.mp ⟨p, hp, hg⟩)

/-- The parts of a write, one after the other. -/
theorem storedAt_parts {ps : List (Nat × Nat)} (hclean : ∀ p ∈ ps, CleanAt s h p.1 p.2 ∧ 0 < p.2) :
    StoredAt s (ps.foldl (fun s p => memWritePart h mid s p.1 (sliceB bs (p.1 - a) p.2)) s) (ps.map fun p => (h, p.1, p.2)) := by
  induction ps generalizing s with
  | nil => exact StoredAt.refl s
  | cons p ps ih =>
    obtain ⟨hc, hpos⟩ := hclean p List.mem_cons_self
    have hlen : (sliceB bs (p.1 - a) p.2).length = p.2 := by simp [sliceB]
    have hpart := storedAt_memWritePart (mid := mid) (bs := sliceB bs (p.1 - a) p.2) (a := p.1) (h := h) (s := s)
      (by rw [hlen]; exact hc) (by rw [hlen]; exact hpos)
    rw [hlen] at hpart
    rw [List.foldl_cons]
    exact hpart.trans (ih fun q hq => ⟨(hclean q (List.mem_cons_of_mem _ hq)).1.mono hpart.toStored,
      (hclean q (List.mem_cons_of_mem _ hq)).2⟩)

/-- A write of bytes to lines without marks (R46, R172). -/
theorem storedAt_memWrite {core : Bool} (hclean : CleanAt s h a bs.length) :
    StoredAt s (memWrite s h mid a bs core) [(h, a, bs.length)] := by
  have hlines : ∀ l ∈ ddrLines a bs.length, CleanLine (s.half h).mem l := by
    intro l hl
    unfold ddrLines at hl
    split at hl
    · obtain ⟨p, hp, rfl⟩ := List.mem_map.mp hl
      obtain ⟨-, -, hpos, -⟩ := lineParts_bounds hp
      have hg := (hclean.part hp) (p.1 / 16) ((mem_granulesOf hpos).mpr (by omega))
      rwa [show p.1 / 16 / 4 = p.1 / 64 by omega] at hg
    · exact absurd hl List.not_mem_nil
  have hfill : StoredAt s (if core then fillLines s h a bs.length else s) [] := by
    split
    · exact storedAt_fillLines hlines
    · exact StoredAt.refl s
  have hparts := storedAt_parts (mid := mid) (bs := bs) (a := a) (ps := partsOf a bs.length) (h := h)
    (s := if core then fillLines s h a bs.length else s)
    fun p hp => ⟨(hclean.part hp).mono hfill.toStored, (lineParts_bounds hp).2.2.1⟩
  have hall := hfill.trans hparts
  refine ⟨hall.toStored.congr ?_ ?_, hall.cores⟩
  · intro h' c hc w hw e
    obtain ⟨p, hp, rfl⟩ := List.mem_map.mp hw
    have := hc _ List.mem_cons_self e
    obtain ⟨hlo, hhi, -, -⟩ := lineParts_bounds hp
    dsimp only at this ⊢
    omega
  · intro h' g
    constructor
    · rintro ⟨w, hw, e, hg⟩
      obtain ⟨p, hp, rfl⟩ := List.mem_map.mp hw
      exact ⟨_, List.mem_cons_self, e, mem_granulesOf_partsOf.mp ⟨p, hp, hg⟩⟩
    · rintro ⟨w, hw, e, hg⟩
      rw [List.mem_singleton.mp hw] at e hg
      obtain ⟨p, hp, hpg⟩ := mem_granulesOf_partsOf.mpr hg
      exact ⟨(h, p.1, p.2), List.mem_map.mpr ⟨p, hp, rfl⟩, e, hpg⟩

/-- Nothing tagged lies in the lines that cross the seam: the merge changes nothing (R49). -/
theorem seamMerge_of_untagged (hn : ∀ g ∈ granulesOf a n, ∀ g' ∈ lineGranules (g / 4), g' ∉ (s.half h).mem.tags) :
    seamMerge s h a n = s := by
  have hnone : ∀ g' ∈ (partsOf a n).flatMap fun p => lineGranules (p.1 / 64), g' ∉ (s.half h).mem.tags := by
    intro g' hg'
    obtain ⟨p, hp, hin⟩ := List.mem_flatMap.mp hg'
    obtain ⟨-, -, hpos, -⟩ := lineParts_bounds hp
    have hfirst : p.1 / 16 ∈ granulesOf p.1 p.2 := (mem_granulesOf hpos).mpr (by omega)
    refine hn (p.1 / 16) (mem_granulesOf_partsOf.mp ⟨p, hp, hfirst⟩) g' ?_
    rwa [show p.1 / 16 / 4 = p.1 / 64 by omega]
  unfold seamMerge
  generalize (partsOf a n).flatMap (fun p => lineGranules (p.1 / 64)) = gs at hnone
  induction gs with
  | nil => rfl
  | cons g gs ih =>
    have htag : (granuleCap s h g).tag = false := by
      have := hnone g List.mem_cons_self
      simpa [granuleCap, capOf] using this
    rw [List.foldl_cons]
    simp only [htag, Bool.not_false, Bool.true_or, if_true]
    exact ih fun g' hg' => hnone g' (List.mem_cons_of_mem _ hg')

/-- A core's write of data to tagged memory (R46, R49, R172). -/
theorem storedAt_physWrite {phys : Nat} {cached : Bool} (hhome : homeOf s k.half phys = some (h, a))
    (hclean : CleanAt s h a bs.length)
    (hcross : h ≠ k.half → ∀ g ∈ granulesOf a bs.length, ∀ g' ∈ lineGranules (g / 4), g' ∉ (s.half h).mem.tags) :
    StoredAt s (physWrite s k mid phys bs false cached) [(h, a, bs.length)] := by
  unfold homeOf at hhome
  unfold physWrite
  dsimp only
  split at hhome
  · next b hb =>
    cases hhome
    rw [hb]
    exact storedAt_memWrite hclean
  · next b hb =>
    cases hhome
    rw [hb]
    have hother : k.half.other ≠ k.half := by cases k.half <;> decide
    dsimp only
    rw [seamMerge_of_untagged (hcross hother)]
    exact storedAt_memWrite hclean
  · next b hb =>
    cases hhome
    rw [hb]
    exact storedAt_memWrite hclean
  · cases hhome

end Sys2Proof.Proofs
end

section
/-! The storing forms of the two-operand instructions (O19). -/

namespace Sys2Proof.Proofs

open Sys2Proof Sys2Proof.Machine

variable {k : CoreId} {s u v v1 v2 w t : State} {i : Inst} {c : Core} {cap : TCap} {ps : List Part} {p : Part} {bs : List Byte}

/-- Where a part's bytes lie: its half, its address there and its length. -/
def writesOf (s : State) (k : CoreId) (p : Part) : List (HalfId × Nat × Nat) :=
  match homeOf s k.half p.phys with
  | some (h, a) => [(h, a, p.n)]
  | none => []

/-- A part of tagged memory of this package that is written without a report: none of its lines has a mark, and none that crosses the
seam a tag. -/
structure PlainPart (s : State) (k : CoreId) (p : Part) (h : HalfId) (a : Nat) : Prop where
  home : homeOf s k.half p.phys = some (h, a)
  clean : CleanAt s h a p.n
  cross : h ≠ k.half → ∀ g ∈ granulesOf a p.n, ∀ g' ∈ lineGranules (g / 4), g' ∉ (s.half h).mem.tags

/-- The home of an address depends on the size of DDR alone. -/
theorem homeOf_congr {phys : Nat} {h : HalfId} (hgib : (t.half h).ddrGib = (s.half h).ddrGib) : homeOf t h phys = homeOf s h phys := by
  unfold homeOf placeOf
  rw [hgib]

theorem PlainPart.mono {h : HalfId} {a : Nat} {ws : List (HalfId × Nat × Nat)} (hp : PlainPart s k p h a) (hs : Stored s t ws) :
    PlainPart t k p h a where
  home := (homeOf_congr (hs.regs k.half).2).trans hp.home
  clean := hp.clean.mono hs
  cross hne g hg g' hg' hin := hp.cross hne g hg g' hg' ((hs.tags h g').mp hin).1

/-- What `PlainParts` says of each part. -/
theorem plainParts_elim (h : PlainParts s k ps) (hp : p ∈ ps) : p.remote = false ∧ p.leaf = none ∧ ∃ h a, PlainPart s k p h a := by
  obtain ⟨hremote, hleaf, h', a, hhome, hg⟩ := h p hp
  refine ⟨hremote, hleaf, h', a, hhome, fun g hgran => ?_, fun hne g hgran g' hg' => ?_⟩
  · have hline := hg g (List.mem_flatMap.mpr ⟨g, hgran, mem_lineGranules g⟩)
    obtain ⟨-, -, -, hlp, hlu, hlc, -⟩ := hline
    refine ⟨fun g' hg' => ?_, hlp, hlu, hlc⟩
    obtain ⟨h1, h2, h3, -⟩ := hg g' (List.mem_flatMap.mpr ⟨g, hgran, hg'⟩)
    exact ⟨h1, h2, h3⟩
  · exact (hg g' (List.mem_flatMap.mpr ⟨g, hgran, hg'⟩)).2.2.2.2.2.2 hne

/-- No post window holds tagged memory. -/
theorem not_inPostWindow_of_home {h h' : HalfId} {phys a : Nat} (hhome : homeOf s h phys = some (h', a)) :
    inPostWindow (placeOf s h phys) = false := by
  unfold homeOf at hhome
  split at hhome
  · next heq => rw [heq]; rfl
  · next heq => rw [heq]; rfl
  · next heq => rw [heq]; rfl
  · cases hhome

/-- The write of one plain part outside a restartable step. -/
theorem storedAt_putOne {q : PutPart} {h : HalfId} {a : Nat} (hp : PlainPart s k q.part h a) (hremote : q.part.remote = false)
    (hrestart : (s.core k).restartable = false) (hlen : q.bytes.length = q.part.n) (htag : q.tag = false) :
    StoredAt s (putOne k s q) [(h, a, q.part.n)] := by
  have hput : putOne k s q = physWrite s k (coreMid k (s.core k).level) q.part.phys q.bytes false q.part.cached := by
    unfold putOne
    simp only [hremote, not_inPostWindow_of_home hp.home, hrestart, htag, Bool.not_false, Bool.true_and, Bool.false_eq_true, if_false]
  rw [hput, ← hlen]
  exact storedAt_physWrite hp.home (by rw [hlen]; exact hp.clean) (by rw [hlen]; exact hp.cross)

/-- Nothing incomplete has bytes to lose. -/
theorem coverBytes_of_settled (hs : Settled c) (x : Nat × Nat) (n : Nat) (h : HalfId) : c.coverBytes s h x n = c := by
  obtain ⟨-, himprecise⟩ := hs
  cases c
  cases himprecise
  rfl

/-- The state while the parts of a store are written: what has been written, and what is still to be. -/
structure Storing (k : CoreId) (c : Core) (s : State) (all : List (HalfId × Nat × Nat)) (rest : List PutPart) (t : State) : Prop where
  core : t.core k = c
  plain : ∀ q ∈ rest, q.part.remote = false ∧ q.bytes.length = q.part.n ∧ q.tag = false ∧ ∃ h a, PlainPart t k q.part h a
  stored : ∃ ws, Stored s t ws ∧ ws ++ (rest.flatMap fun q => writesOf s k q.part) = all

/-- One part written. -/
theorem Storing.step {all : List (HalfId × Nat × Nat)} {q : PutPart} {qs : List PutPart} (h : Storing k c s all (q :: qs) t)
    (hrun : c.run ≠ .held) (hs : Settled c) (hrestart : c.restartable = false) :
    ∃ w, (do
      modify fun s => s.setCore k ((s.core k).coverBytes s k.half (q.part.spot s k.half q.cap) q.part.n)
      modify fun s => putOne k s q
      pure (ForInStep.yield PUnit.unit) : Exec (ForInStep PUnit)).run t = .ok (.yield PUnit.unit) w ∧ Storing k c s all qs w := by
  obtain ⟨hcore, hplain, ws, hws, hall⟩ := h
  obtain ⟨hremote, hlen, htag, h', a, hp⟩ := hplain q List.mem_cons_self
  have hcover : ((t.core k).coverBytes t k.half (q.part.spot t k.half q.cap) q.part.n) = c := by
    rw [hcore]; exact coverBytes_of_settled hs _ _ _
  set t1 := t.setCore k ((t.core k).coverBytes t k.half (q.part.spot t k.half q.cap) q.part.n) with ht1
  have honly : OnlyCore k t t1 := (OnlyCore.refl k t).setCore _
  have hcore1 : t1.core k = c := by rw [ht1, hcover]; exact State.core_setCore_self t hrun
  have hput := storedAt_putOne (hp.mono honly.stored) hremote (by rw [hcore1]; exact hrestart) hlen htag
  have hhome : homeOf s k.half q.part.phys = some (h', a) := (homeOf_congr (hws.regs k.half).2).symm.trans hp.home
  refine ⟨putOne k t1 q, rfl, (hput.cores k).trans hcore1, fun r hr => ?_, ws ++ ([] ++ [(h', a, q.part.n)]),
    hws.trans (honly.stored.trans hput.toStored), ?_⟩
  · obtain ⟨hr1, hr2, hr3, h2, b, hpr⟩ := hplain r (List.mem_cons_of_mem _ hr)
    exact ⟨hr1, hr2, hr3, h2, b, (hpr.mono honly.stored).mono hput.toStored⟩
  · rw [← hall, List.flatMap_cons, writesOf, hhome, List.nil_append, List.append_assoc]

/-- A settled core awaits nothing before a write. -/
theorem run_awaitSide_of_settled {side : Bool} (hs : Settled (s.core k)) : (awaitSide k side).run s = .ok () s := by
  unfold awaitSide
  split
  · exact run_awaitWrite_of_settled hs _
  · rfl

/-- Outside a restartable step a write needs no room. -/
theorem run_checkRoom_of_unrestartable {qs : List PutPart} (hrestart : (s.core k).restartable = false) :
    (checkRoom k qs).run s = .ok () s := by
  refine (run_bind_ok run_get).trans ?_
  dsimp only
  exact run_if_neg (by rw [hrestart]; exact Bool.false_ne_true)

/-- Parts that no page table marks leave no leaf to mark. -/
theorem run_noteMarks_of_no_leaf (hleaf : ∀ p ∈ ps, p.leaf = none) :
    (noteMarks k ps).run s = .ok () (s.setCore k (s.core k)) := by
  have hnone : (ps.filterMap fun p => p.leaf.map fun l => (p.va, l.1, l.2)) = [] :=
    List.filterMap_eq_nil_iff.mpr fun p hp => by rw [hleaf p hp]; rfl
  have hsame : { s.core k with marks := (s.core k).marks ++ [] } = s.core k := by rw [List.append_nil]
  unfold noteMarks
  rw [hnone]
  exact congrArg (fun c => EStateM.Result.ok () (s.setCore k c)) hsame

/-- The writes of parts in plain memory complete, outside a restartable step. -/
theorem run_putUnpaced_plain {qs : List PutPart} (hc : s.core k = c) (hrun : c.run ≠ .held) (hs : Settled c) (hmarks : c.marks = [])
    (hrestart : c.restartable = false)
    (hqs : ∀ q ∈ qs, q.part.leaf = none ∧ q.part.remote = false ∧ q.bytes.length = q.part.n ∧ q.tag = false ∧ ∃ h a, PlainPart s k q.part h a) :
    ∃ t, (putUnpaced k qs).run s = .ok () t ∧ t.core k = c ∧ Stored s t (qs.flatMap fun q => writesOf s k q.part) := by
  subst hc
  have hcheck (q : PutPart) (_ : PUnit) (qs : List PutPart) (v : State) (hv : v = s) : ∃ t, (do
      awaitSide k q.part.side
      awaitWrite k (overlaps (← get) k.half (q.part.spot (← get) k.half q.cap) q.part.n)
      pure (ForInStep.yield PUnit.unit) : Exec (ForInStep PUnit)).run v = .ok (.yield ⟨⟩) t ∧ t = s := by
    have hsv : Settled (v.core k) := by rw [hv]; exact hs
    exact ⟨v, (run_bind_ok (run_awaitSide_of_settled hsv)).trans ((run_bind_ok run_get).trans ((run_bind_ok run_get).trans
      ((run_bind_ok (run_awaitWrite_of_settled hsv _)).trans rfl))), hv⟩
  obtain ⟨t1, hloop1, ht1⟩ := run_forIn (fun _ v => v = s) hcheck (xs := qs) rfl
  rw [ht1] at hloop1
  have hmark : (noteMarks k (qs.map (·.part))).run s = .ok () (s.setCore k (s.core k)) := by
    refine run_noteMarks_of_no_leaf fun p hp => ?_
    obtain ⟨q, hq, rfl⟩ := List.mem_map.mp hp
    exact (hqs q hq).1
  set s1 := s.setCore k (s.core k) with hs1
  have hcore1 : s1.core k = s.core k := State.core_setCore_self s hrun
  have hloop2 : (forIn (s1.core k).marks PUnit.unit fun m (_ : PUnit) => do
      let _ ← rereadLeaf k m; pure (ForInStep.yield PUnit.unit) : Exec PUnit).run s1 = .ok ⟨⟩ s1 := by
    rw [hcore1, hmarks]
    exact run_forIn_nil
  have hlocal (q : PutPart) (_ : PUnit) (rs : List PutPart) (v : State) (hv : v = s1 ∧ ∀ r ∈ q :: rs, r.part.remote = false) : ∃ t, (do
      let s ← get
      if q.part.remote && !(s.core k).restartable then
        awaitOverlap k q.cap.node q.part.va q.part.n
        let d := q.sent s k.half
        let info := q.bytes.length + (if q.capWidth then 32 else 0)
        let _ ← remoteCall k (remotePacket s k q.cap 2 info q.part.va d.1 d.2) q.part.va
      pure (ForInStep.yield PUnit.unit) : Exec (ForInStep PUnit)).run v = .ok (.yield ⟨⟩) t ∧
        (t = s1 ∧ ∀ r ∈ rs, r.part.remote = false) := by
    obtain ⟨hv, hrs⟩ := hv
    refine ⟨v, (run_bind_ok run_get).trans ?_, hv, fun r hr => hrs r (List.mem_cons_of_mem _ hr)⟩
    dsimp only
    refine (run_if_neg ?_).trans rfl
    rw [hrs q List.mem_cons_self]
    exact Bool.false_ne_true
  obtain ⟨t3, hloop3, ht3, -⟩ := run_forIn (fun rs v => v = s1 ∧ ∀ r ∈ rs, r.part.remote = false) hlocal (xs := qs)
    ⟨rfl, fun q hq => (hqs q hq).2.1⟩
  rw [ht3] at hloop3
  obtain ⟨s2, hflush, honly, hcore2⟩ := runs_flushMarks hcore1 hrun hmarks
  have honly2 : OnlyCore k s s2 := ((OnlyCore.refl k s).setCore _).trans honly
  have hstart : Storing k (s.core k) s (qs.flatMap fun q => writesOf s k q.part) qs s2 := by
    refine ⟨hcore2, fun q hq => ?_, [], honly2.stored, rfl⟩
    obtain ⟨-, hremote, hlen, htag, h, a, hp⟩ := hqs q hq
    exact ⟨hremote, hlen, htag, h, a, hp.mono honly2.stored⟩
  obtain ⟨t, hloop4, hcore, -, ws, hws, hall⟩ := run_forIn (Storing k (s.core k) s (qs.flatMap fun q => writesOf s k q.part))
    (fun q _ rs v hv => hv.step hrun hs hrestart) hstart
  refine ⟨t, ?_, hcore, ?_⟩
  · exact (run_bind_ok (run_checkRoom_of_unrestartable hrestart)).trans ((run_bind_ok hloop1).trans ((run_bind_ok hmark).trans
      ((run_bind_ok run_getCore).trans ((run_bind_ok hloop2).trans ((run_bind_ok hloop3).trans ((run_bind_ok hflush).trans
        ((run_bind_ok hloop4).trans rfl)))))))
  · rw [← hall, List.flatMap_nil, List.append_nil]
    exact hws

/-- A result goes to parts of plain memory. -/
theorem run_put_mem {x : Ctx} {n y : Nat} (hx : x.k = k) (hc : s.core k = c) (hrun : c.run ≠ .held) (hhold : c.swBit 23 = false)
    (hs : Settled c) (hmarks : c.marks = []) (hrestart : c.restartable = false) (hplain : PlainParts s k ps) :
    ∃ t p, (x.put n (.mem cap ps) y).run s = .ok () t ∧ t.core k = { c with pacedTicks := p } ∧
      Stored s t (ps.flatMap (writesOf s k)) := by
  subst hx
  set qs := x.putParts cap ps (leBytes (x.inst.size (x.op n).2.size) y) with hqs
  obtain ⟨s1, p, hpace, honly, hcore1⟩ := runs_paceTicks (partTicks s x.k (qs.map (·.part))) hc hrun hhold
  have hparts : ∀ q ∈ qs, q.part.leaf = none ∧ q.part.remote = false ∧ q.bytes.length = q.part.n ∧ q.tag = false ∧
      ∃ h a, PlainPart s1 x.k q.part h a := by
    intro q hq
    obtain ⟨r, hr, rfl⟩ := List.mem_map.mp hq
    obtain ⟨hremote, hleaf, h, a, hp⟩ := plainParts_elim hplain hr
    exact ⟨hleaf, hremote, by simp only [sliceB, List.length_map, List.length_range], rfl, h, a, hp.mono honly.stored⟩
  obtain ⟨t, hput, hcore, hstored⟩ := run_putUnpaced_plain hcore1 hrun hs hmarks hrestart hparts
  have hwrites : (qs.flatMap fun q => writesOf s1 x.k q.part) = ps.flatMap (writesOf s x.k) := by
    rw [hqs, Ctx.putParts, List.flatMap_map]
    refine congrArg (fun f => ps.flatMap f) (funext fun r => ?_)
    unfold writesOf
    rw [homeOf_congr (honly.gib x.k.half)]
  have hloop : (forIn [qs] PUnit.unit fun ps (_ : PUnit) => do
      paceAccess x.k (ps.map (·.part)); pure (ForInStep.yield PUnit.unit) : Exec PUnit).run s = .ok ⟨⟩ s1 := by
    have haccess : (paceAccess x.k (qs.map (·.part))).run s = .ok () s1 := (run_bind_ok run_get).trans hpace
    exact run_forIn_single ((run_bind_ok haccess).trans rfl)
  have hflat : [qs].flatten = qs := by rw [List.flatten_cons, List.flatten_nil, List.append_nil]
  have hall : (putAll x.k [qs]).run s = .ok () t := by
    refine (run_bind_ok hloop).trans ?_
    rw [hflat]
    exact hput
  refine ⟨t, p, (run_bind_ok hall).trans ((run_bind_ok (run_forIn_single ?_)).trans rfl), hcore, ?_⟩
  · rfl
  · rw [← hwrites]
    exact honly.stored.trans hstored

/-- The rows of two operands set flags of Table 3.2. -/
theorem setsFlags_twoOperand {row : InstrRow × (Inst → Nat → Res)} (hrow : row ∈ twoOperandRows) (a : Nat) :
    SetsFlags (row.2 i a).2 := by
  simp only [twoOperandRows, List.mem_cons, List.not_mem_nil, or_false] at hrow
  obtain rfl | rfl | rfl | rfl | rfl | rfl := hrow
  · exact setsFlags_logic _ _
  · exact setsFlags_logic _ _
  · exact setsFlags_logic _ _
  · exact setsFlags_logic _ _
  · exact setsFlags_sub _ _ _ _
  · exact setsFlags_logic _ _

/-- Membership in what an operand's parts write. -/
theorem mem_writesOf {h : HalfId} {a n : Nat} :
    (h, a, n) ∈ ps.flatMap (writesOf s k) ↔ ∃ p ∈ ps, homeOf s k.half p.phys = some (h, a) ∧ p.n = n := by
  rw [List.mem_flatMap]
  refine exists_congr fun p => and_congr_right fun _ => ?_
  unfold writesOf
  split
  · next h' a' heq =>
    rw [heq, List.mem_singleton, Option.some.injEq, Prod.mk.injEq, Prod.mk.injEq, Prod.mk.injEq]
    constructor
    · rintro ⟨rfl, rfl, rfl⟩
      exact ⟨⟨rfl, rfl⟩, rfl⟩
    · rintro ⟨⟨rfl, rfl⟩, rfl⟩
      exact ⟨rfl, rfl, rfl⟩
  · next heq =>
    rw [heq]
    simp

/-- Settles O19: a two-operand instruction writes the bytes of its destination's parts, untags their granules, and no other memory. -/
theorem storeFrame : Obligations.StoreFrame := by
  intro row hrow k e s u v1 v2 i a cap ps h ha hd hrestart hrun hs hmarks hhold hplain
  obtain ⟨v3, p, hput, hcore3, hstored⟩ := run_put_mem (k := k) (x := ctxOf k i u) (cap := cap) (n := 1) (y := (row.2 i a).1) rfl rfl hrun hhold hs hmarks
    hrestart hplain
  obtain ⟨hfl, -⟩ := setsFlags_twoOperand (i := i) hrow a
  set d : Core := (v3.core k).setFlags (row.2 i a).2 with hdef
  have hd' : d = { v2.core k with pacedTicks := p, sw := swWith (v2.core k).sw (row.2 i a).2 } := by
    rw [hdef, setFlags_of_settled (by rw [hcore3]; exact hs), hcore3]
  have hrund : d.run ≠ .held := by rw [hd']; exact hrun
  have hmarksd : d.marks = [] := by rw [hd']; exact hmarks
  have hholdd : d.swBit 23 = false := by
    rw [hd']
    exact (testBit_swWith_other hfl (fun f hf => by have := hfl f hf; omega) (v2.core k).sw).trans hhold
  have hcored : (v3.setCore k d).core k = d := State.core_setCore_self v3 hrund
  obtain ⟨m, hm, -⟩ := runs_flushMarks hcored hrund hmarksd
  obtain ⟨hend, -⟩ := seqEnd_of_quiet (s := s) (x := ctxOf k i u) rfl hcored hrund hholdd hmarksd
  have hexec := twoOperandResult.1 row hrow k e s u v1 v2 v3 i a (.mem cap ps) h ha hd hput _ rfl ⟨m, hm⟩
  have hall : Stored v2 (seqEnd s (ctxOf k i u) (v3.setCore k d)) (ps.flatMap (writesOf v2 k)) := by
    have := hstored.trans (((OnlyCore.refl k v3).setCore d).trans hend).stored
    rwa [List.append_nil] at this
  refine ⟨_, hexec, hall.host, fun h => (hall.regs h).1, fun h c hc => hall.bytes h c ?_, fun h g => (hall.tags h g).trans ?_⟩
  · rintro ⟨h', b, n⟩ hw rfl
    obtain ⟨q, hq, hhome, rfl⟩ := mem_writesOf.mp hw
    exact hc q hq b hhome
  · refine and_congr_right fun _ => ⟨fun hg q hq b hhome => hg (h, b, q.n) (mem_writesOf.mpr ⟨q, hq, hhome, rfl⟩) rfl, ?_⟩
    rintro hg ⟨h', b, n⟩ hw rfl
    obtain ⟨q, hq, hhome, rfl⟩ := mem_writesOf.mp hw
    exact hg q hq b hhome

end Sys2Proof.Proofs
end

section
/-! A master's writes of set-up registers that are let through: the merged word and the effect of the register (O20, O21), and those that are
not (O23). -/

namespace Sys2Proof.Proofs

open Sys2Proof Sys2Proof.Machine

variable {h : HalfId} {m : BitVec 7} {blk off raw new : Nat} {d : RegDesc} {s t : State} {v : Word}

/-- A register write that its rules take (R9–R11, R436). -/
theorem setupWrite_takes (hw : WriteAllowed h m blk off s) (ht : Takes h m blk off raw new d s) (hraw : raw < 2 ^ 64)
    (hlio : blk ≠ 0x13 ∨ (off ≠ 0x28 ∧ off ≠ 0x30)) (hfence : blk ≠ 3 ∨ off ≠ 0x28) :
    setupWrite s h m.toNat (regAddr blk off) (leBytes 8 raw) =
      writeEffect (s.setReg h blk off (BitVec.ofNat 64 (keepSet blk off d new))) h blk off (s.reg h blk off).toNat new raw := by
  obtain ⟨hknown, ⟨h8, hoff, hpost, hblk⟩, hmerged, hgate, hdefined, hlimits⟩ := ht
  have hnofence : ¬ (blk = 3 ∧ off = 0x28) := by omega
  rw [setupWrite_reg hw hraw hknown h8 hoff hpost hblk hgate hlio]
  unfold regWrite
  dsimp only
  rw [← hmerged]
  simp only [hdefined, hlimits, hnofence, ne_eq, not_true_eq_false, Bool.not_true, Bool.false_eq_true, if_false]

theorem toNat_regAddr (hblk : blk < 256) (hoff : off < 0x10000) : (BitVec.ofNat 46 (regAddr blk off)).toNat = regAddr blk off := by
  rw [BitVec.toNat_ofNat, Nat.mod_eq_of_lt]
  unfold regAddr
  omega

/-- REGISTER_WRITE of 8 bytes is a master's write; the PCIe master's, of block 0x05 (R306). -/
theorem exec_registerWrite (hblk : blk < 256) (hoff : off < 0x10000) (hreach : m = 0x4B → blk = 5) :
    exec (.registerWrite h m (BitVec.ofNat 46 (regAddr blk off)) 8 v) s =
      .next (setupWrite s h m.toNat (regAddr blk off) (leBytes 8 v.toNat)) := by
  refine congrArg Host.Outcome.next ?_
  rw [toNat_regAddr hblk hoff]
  split
  · next hm =>
    obtain rfl := hreach hm
    have hle : regAddr 5 0 ≤ regAddr 5 off := by unfold regAddr; omega
    have hsub : regAddr 5 off - regAddr 5 0 = off := by unfold regAddr; omega
    subst hm
    rw [if_pos hle, hsub]
    unfold bar0Write
    rw [if_pos hoff]
    rfl
  · rfl

/-- Settles O21: the write that is let through, and the commands that are such a write of one register. -/
theorem registerWriteResult : Obligations.RegisterWriteResult := by
  intro h m blk off new v d s t hw ht hlio hfence hst
  have hset := (setupWrite_takes hw ht v.isLt hlio hfence).trans hst.symm
  obtain ⟨-, ⟨-, hoff, -, hblk⟩, -⟩ := ht
  have hput : Host.Outcome.next (setupWrite s h m.toNat (regAddr blk off) (leBytes 8 v.toNat)) =
      (Host.Outcome.next t : Host.Outcome State Fault Refusal) := congrArg _ hset
  refine ⟨(exec_registerWrite hblk (by omega) hw.reaches).trans hput, ?_, ?_, ?_, ?_, ?_, ?_, ?_⟩
  · rintro n j rfl rfl
    exact hput
  · rintro g rfl rfl hv
    rw [hv] at hput
    exact hput
  · rintro g rfl rfl hv
    rw [hv] at hput
    exact hput
  · rintro g rfl rfl
    exact hput
  · rintro rfl rfl
    exact hput
  · rintro rfl rfl
    exact hput
  · rintro rfl rfl
    exact hput

-- writes that are not let through

/-- A master that does not run accesses nothing (R371). -/
theorem setupWrite_of_not_runs {m a : Nat} {bs : List Byte} (hruns : masterRuns s h m = false) : setupWrite s h m a bs = s :=
  if_pos (.inl (by rw [hruns]; rfl))

theorem bar0Write_of_not_runs {a : Nat} {bs : List Byte} (hruns : masterRuns s h 0x4B = false) : bar0Write s h a bs = s := by
  unfold bar0Write
  split_ifs with h1 h2
  · exact setupWrite_of_not_runs hruns
  · rw [hruns] at h2
    exact absurd h2.2.2 Bool.false_ne_true
  · rfl

/-- A write that the boundary table does not let through is dropped, held or refused (R189, R191, R192). -/
theorem setupWrite_of_not_allowed {x : Verdict} (hblk : blk < 256) (hoff : off < 0x10000) (hruns : masterRuns s h m.toNat = true)
    (hreach : masterReaches m.toNat (.setup blk off) = true) (hx : check s h m.toNat .write (regAddr blk off) 8 = x) (hne : x ≠ .allow) :
    setupWrite s h m.toNat (regAddr blk off) (leBytes 8 v.toNat) =
      postHeld (setupRefused s h m.toNat (regAddr blk off) x) h m.toNat (regAddr blk off) (leBytes 8 v.toNat) x := by
  unfold setupWrite
  dsimp only
  rw [place_regAddr s h hblk hoff, length_leBytes, hx, hruns, hreach]
  cases x with
  | allow => exact absurd rfl hne
  | _ => rfl

/-- Settles O23: the writes that do not reach their register, and the write of a reserved bit. -/
theorem refusedWrites : Obligations.RefusedWrites := by
  intro h m blk off v s hblk hoff
  have haddr := toNat_regAddr hblk hoff
  refine ⟨fun hruns => ?_, ?_, fun hruns hm => ⟨fun x hx hne => ?_, fun hallow h8 hlt hpost hlio hgate d hd hbits => ?_⟩⟩
  · refine congrArg Host.Outcome.next ?_
    split
    · next hm =>
      subst hm
      split
      · exact bar0Write_of_not_runs hruns
      · rfl
    · exact setupWrite_of_not_runs hruns
  · rintro rfl hlow
    refine congrArg Host.Outcome.next ?_
    rw [haddr, if_pos rfl, if_neg]
    unfold regAddr
    omega
  · have hw : m = 0x4B → blk = 5 := fun e => hm.resolve_left fun hne => hne e
    have hreach : masterReaches m.toNat (.setup blk off) = true := by
      unfold masterReaches
      obtain hm | rfl := hm
      · have : m.toNat ≠ 0x4B := fun e => hm (BitVec.eq_of_toNat_eq e)
        simp [this]
      · simp
    exact (exec_registerWrite hblk hoff hw).trans (congrArg _ (setupWrite_of_not_allowed hblk hoff hruns hreach hx hne))
  · have hw : WriteAllowed h m blk off s := ⟨hruns, fun e => hm.resolve_left fun hne => hne e, hallow⟩
    refine (exec_registerWrite hblk hoff hw.reaches).trans (congrArg _ ?_)
    rw [setupWrite_reg hw v.isLt hd h8 hlt hpost hblk hgate hlio]
    unfold regWrite
    dsimp only
    rw [if_pos hbits]

end Sys2Proof.Proofs
end

section
/-! Commands that are a write of a unit's command or control register (O20). -/

namespace Sys2Proof.Proofs

open Sys2Proof Sys2Proof.Machine

-- one theorem after another: in parallel their stacks take the memory that a check of the whole text has
set_option Elab.async false

variable {h : HalfId} {m : BitVec 7} {blk off raw new : Nat} {d : RegDesc} {s t : State} {v : Word} {c : Instr}
  {fs : List (Nat × Nat × Nat)} {effect : Word → State → State}

/-- The fields of a register that take what is written to them. -/
def takingFields (d : RegDesc) : List (Nat × Nat) :=
  (d.fields.filter fun f => f.hi < 64 && (f.acc == .wo || f.acc == .rw)).map fun f => (f.hi, f.lo)

/-- A word that a write of `raw` may leave. -/
structure Left (d : RegDesc) (raw new : Nat) : Prop where
  lt : new < 2 ^ 64
  fields : ∀ f ∈ takingFields d, nbits new f.1 f.2 = nbits raw f.1 f.2

/-- A merged write leaves such a word. -/
theorem left_mergeWrite (hd : regAt blk off = some d) (hfit : d.fields.all (fun f => decide (f.hi < 64)) = true) (locked : Bool) (old : Word) :
    Left d raw (mergeWrite d locked old.toNat raw (2 ^ 64 - 1)) where
  lt := mergeWrite_lt (apart_of_regAt hd) (fun f hf => of_decide_eq_true (List.all_eq_true.mp hfit f hf)) locked old.isLt raw _
  fields := by
    intro p hp
    obtain ⟨f, hf, rfl⟩ := List.mem_map.mp hp
    obtain ⟨hf, hacc⟩ := List.mem_filter.mp hf
    simp only [Bool.and_eq_true, Bool.or_eq_true, decide_eq_true_eq, beq_iff_eq] at hacc
    exact nbits_mergeWrite (apart_of_regAt hd) hf hacc.1 hacc.2 locked old.toNat raw

/-- The bits of one field's mask in a word. -/
theorem land_mask_eq_zero {hi lo : Nat} (hle : lo ≤ hi) (h0 : nbits raw hi lo = 0) : raw &&& (2 ^ (hi + 1) - 2 ^ lo) = 0 := by
  refine Nat.eq_of_testBit_eq fun j => ?_
  rw [Nat.testBit_and, testBit_mask _ _ _ hle, Nat.zero_testBit]
  by_cases hj : lo ≤ j ∧ j ≤ hi
  · have hbit := congrArg (fun n => n.testBit (j - lo)) h0
    simp only [nbits, Nat.testBit_mod_two_pow, Nat.testBit_shiftRight, Nat.zero_testBit, show j - lo < hi + 1 - lo by omega,
      show lo + (j - lo) = j by omega, decide_true, Bool.true_and] at hbit
    rw [hbit, Bool.false_and]
  · rcases not_and_or.mp hj with hj | hj
    · simp [hj]
    · simp [hj]

/-- The reserved bits of a register as the gaps between its fields. -/
def maskOfGaps (gaps : List (Nat × Nat)) : Nat := gaps.foldr (fun g w => (2 ^ (g.1 + 1) - 2 ^ g.2) ||| w) 0

/-- A word without a bit in any gap sets no reserved bit. -/
theorem land_maskOfGaps_eq_zero {gaps : List (Nat × Nat)} (hgaps : ∀ g ∈ gaps, g.2 ≤ g.1 ∧ nbits raw g.1 g.2 = 0) :
    raw &&& maskOfGaps gaps = 0 := by
  induction gaps with
  | nil => exact Nat.and_zero raw
  | cons g gs ih =>
    obtain ⟨hle, h0⟩ := hgaps g List.mem_cons_self
    rw [maskOfGaps, List.foldr_cons, Nat.and_or_distrib_left, land_mask_eq_zero hle h0]
    exact (Nat.zero_or _).trans (ih fun g hg => hgaps g (List.mem_cons_of_mem _ hg))

/-- What stands fixed of a command register: its row of the map, its reserved bits, and that no other rule names it. -/
structure CommandReg (blk off : Nat) (d : RegDesc) (gaps : List (Nat × Nat)) : Prop where
  known : regAt blk off = some d
  fit : d.fields.all (fun f => decide (f.hi < 64)) = true
  plain : off % 8 = 0 ∧ off < 0xFFF0 ∧ postWindow blk off = false ∧ blk < 256
  noLio : blk ≠ 0x13 ∨ (off ≠ 0x28 ∧ off ≠ 0x30)
  noFence : blk ≠ 3 ∨ off ≠ 0x28
  reserved : 2 ^ 64 - 1 - d.defined = maskOfGaps gaps

/-- A command that writes a command register: the register takes the word, and the word has its effect. -/
theorem written_of_command {gaps : List (Nat × Nat)} (hreg : CommandReg blk off d gaps) (hexec : exec c s = putReg h m blk off raw s)
    (hraw : raw < 2 ^ 64) (hgaps : ∀ g ∈ gaps, g.2 ≤ g.1 ∧ nbits raw g.1 g.2 = 0) (hgate : gateOf s h m.toNat blk off raw = .pass)
    (hlim : ∀ new, Left d raw new → limitsOk s h blk off (s.reg h blk off).toNat new raw = true)
    (hfs : ∀ new, Left d raw new → ∀ f ∈ fs, nbits (keepSet blk off d new) f.1 f.2.1 = f.2.2)
    (heffect : ∀ new t, Left d raw new →
      writeEffect t h blk off (s.reg h blk off).toNat new raw = effect (BitVec.ofNat 64 (keepSet blk off d new)) t) :
    Written h m blk off fs effect c s := by
  intro hw
  have hleft : Left d raw _ := left_mergeWrite hreg.known hreg.fit (s.locked h blk) (s.reg h blk off)
  set new := mergeWrite d (s.locked h blk) (s.reg h blk off).toNat raw (2 ^ 64 - 1) with hnew
  have htakes : Takes h m blk off raw new d s := ⟨hreg.known, hreg.plain, hnew, hgate,
    by rw [hreg.reserved]; exact land_maskOfGaps_eq_zero hgaps, hlim new hleft⟩
  refine ⟨BitVec.ofNat 64 (keepSet blk off d new), fun f hf => ?_, ?_⟩
  · have hkept : keepSet blk off d new ≤ new := by
      unfold keepSet
      split
      · exact le_rfl
      · exact Nat.sub_le _ _
    rw [BitVec.toNat_ofNat, Nat.mod_eq_of_lt (lt_of_le_of_lt hkept hleft.lt)]
    exact hfs new hleft f hf
  · rw [hexec, ← heffect new _ hleft]
    exact congrArg _ (setupWrite_takes hw htakes hraw hreg.noLio hreg.noFence)

/-- The same, where no bit acts at once: the word stored is the word written. -/
theorem written_of_word {gaps : List (Nat × Nat)} (hreg : CommandReg blk off d gaps) (hkeep : d.maskOf (· == .w1s) = 0)
    (hexec : exec c s = putReg h m blk off raw s)
    (hraw : raw < 2 ^ 64) (hgaps : ∀ g ∈ gaps, g.2 ≤ g.1 ∧ nbits raw g.1 g.2 = 0) (hgate : gateOf s h m.toNat blk off raw = .pass)
    (hlim : ∀ new, Left d raw new → limitsOk s h blk off (s.reg h blk off).toNat new raw = true)
    (hfs : ∀ f ∈ fs, (f.1, f.2.1) ∈ takingFields d ∧ nbits raw f.1 f.2.1 = f.2.2)
    (heffect : ∀ new t, Left d raw new → writeEffect t h blk off (s.reg h blk off).toNat new raw = effect (BitVec.ofNat 64 new) t) :
    Written h m blk off fs effect c s := by
  have hsame (new : Nat) : keepSet blk off d new = new := by
    unfold keepSet
    rw [hkeep, Nat.and_zero, Nat.sub_zero, ite_self]
  refine written_of_command hreg hexec hraw hgaps hgate hlim (fun new hleft f hf => ?_) fun new t hleft => ?_
  · obtain ⟨hmem, hval⟩ := hfs f hf
    rw [hsame]
    exact (hleft.fields _ hmem).trans hval
  · rw [hsame]
    exact heffect new t hleft


/-- A field that takes what is written to it, in the word left. -/
theorem left_field (hleft : Left d raw new) {hi lo n : Nat} (hmem : (hi, lo) ∈ takingFields d) (hval : nbits raw hi lo = n) :
    nbits new hi lo = n := (hleft.fields _ hmem).trans hval

theorem nbits_eq_div (n hi lo : Nat) : nbits n hi lo = n / 2 ^ lo % 2 ^ (hi + 1 - lo) := by
  rw [nbits, Nat.shiftRight_eq_div_pow]

-- the command registers

def fmnCmd : RegDesc := (regAt 4 0x20).get rfl
def fmnSignal : RegDesc := (regAt 4 0x18).get rfl
def flmScmd : RegDesc := (regAt 6 0x40).get rfl
def klnVcmd : RegDesc := (regAt 8 0x38).get rfl
def milTcmd : RegDesc := (regAt 9 0x18).get rfl
def sclPcmd : RegDesc := (regAt 0x0A 0x40).get rfl

theorem commandReg_fmnCmd : CommandReg 4 0x20 fmnCmd [(60, 17)] :=
  ⟨rfl, rfl, by decide, by decide, by decide, by decide +kernel⟩

theorem commandReg_fmnSignal : CommandReg 4 0x18 fmnSignal [(63, 17)] :=
  ⟨rfl, rfl, by decide, by decide, by decide, by decide +kernel⟩

theorem commandReg_flmScmd : CommandReg 6 0x40 flmScmd [(60, 56)] :=
  ⟨rfl, rfl, by decide, by decide, by decide, by decide +kernel⟩

theorem commandReg_klnVcmd : CommandReg 8 0x38 klnVcmd [(55, 52), (5, 0)] :=
  ⟨rfl, rfl, by decide, by decide, by decide, by decide +kernel⟩

theorem commandReg_milTcmd : CommandReg 9 0x18 milTcmd [(53, 46), (5, 0)] :=
  ⟨rfl, rfl, by decide, by decide, by decide, by decide +kernel⟩

theorem commandReg_sclPcmd : CommandReg 0x0A 0x40 sclPcmd [(60, 40)] :=
  ⟨rfl, rfl, by decide, by decide, by decide, by decide +kernel⟩

/-- FMN_CMD (R213). -/
theorem written_fmnCmd {op : Nat} {a : BitVec 17} (hop : 1 ≤ op ∧ op ≤ 4) (hexec : exec c s = putReg h m 4 0x20 (op * 2 ^ 61 + a.toNat) s) :
    Written h m 4 0x20 [(63, 61, op), (16, 0, a.toNat)] (fun _ s => fmnCommand s h op a.toNat) c s := by
  have ha := a.isLt
  have h1 : nbits (op * 2 ^ 61 + a.toNat) 63 61 = op := by rw [nbits_eq_div]; omega
  have h2 : nbits (op * 2 ^ 61 + a.toNat) 16 0 = a.toNat := by rw [nbits_eq_div]; omega
  refine written_of_word commandReg_fmnCmd rfl hexec (by omega) ?_ rfl (fun new hleft => ?_) ?_ fun new t hleft => ?_
  · simp only [List.forall_mem_singleton, nbits_eq_div]
    omega
  · change between 1 (nbits new 63 61) 4 = true
    rw [left_field hleft (by decide) h1]
    simp [between, hop]
  · simp only [List.forall_mem_cons, List.not_mem_nil, false_imp_iff, implies_true, and_true]
    exact ⟨⟨by decide, h1⟩, by decide, h2⟩
  · change fmnCommand t h (nbits new 63 61) (nbits new 16 0) = _
    rw [left_field hleft (by decide) h1, left_field hleft (by decide) h2]

/-- Commands of the Foreman. -/
theorem foremanCommands : ForemanCommands := by
  intro h m t s
  refine ⟨written_fmnCmd (by decide) rfl, written_fmnCmd (by decide) rfl, written_fmnCmd (by decide) rfl,
    written_fmnCmd (by decide) rfl, ?_⟩
  have ht := t.isLt
  have h1 : nbits t.toNat 16 0 = t.toNat := by rw [nbits_eq_div]; omega
  refine written_of_word (raw := t.toNat) commandReg_fmnSignal rfl rfl (by omega) ?_ rfl (fun new _ => rfl) ?_ fun new u hleft => ?_
  · simp only [List.forall_mem_singleton, nbits_eq_div]
    omega
  · simp only [List.forall_mem_singleton]
    exact ⟨by decide, h1⟩
  · change fmnEvent u h (nbits new 16 0) 4 = _
    rw [left_field hleft (by decide) h1]


/-- Fewer fields said of the word. -/
theorem written_mono {fs' : List (Nat × Nat × Nat)} (hw : Written h m blk off fs effect c s) (hsub : fs' ⊆ fs) :
    Written h m blk off fs' effect c s := fun ha => by
  obtain ⟨w, hf, he⟩ := hw ha
  exact ⟨w, fun f hf' => hf f (hsub hf'), he⟩

/-- FLM_SCMD while BUSY is 0 (R236). -/
theorem written_flmScmd {op a n : Nat} (hop : 1 ≤ op ∧ op ≤ 6) (ha : a < 2 ^ 40) (hn : n < 2 ^ 16)
    (hbusy : s.flag h Reg.FLM_SRES_BUSY = false) (hexec : exec c s = putReg h m 6 0x40 (scmdWord op a n) s) :
    Written h m 6 0x40 [(63, 61, op), (55, 16, a), (15, 0, n)] (fun w s => flmCommand s h w) c s := by
  have h1 : nbits (scmdWord op a n) 63 61 = op := by rw [nbits_eq_div, scmdWord]; omega
  have h2 : nbits (scmdWord op a n) 55 16 = a := by rw [nbits_eq_div, scmdWord]; omega
  have h3 : nbits (scmdWord op a n) 15 0 = n := by rw [nbits_eq_div, scmdWord]; omega
  refine written_of_word commandReg_flmScmd rfl hexec (by rw [scmdWord]; omega) ?_ rfl (fun new hleft => ?_) ?_ fun new t hleft => rfl
  · simp only [List.forall_mem_singleton, nbits_eq_div, scmdWord]
    omega
  · change (!s.flag h Reg.FLM_SRES_BUSY && between 1 (nbits new 63 61) 6) = true
    rw [hbusy, left_field hleft (by decide) h1]
    simp [between, hop]
  · simp only [List.forall_mem_cons, List.not_mem_nil, false_imp_iff, implies_true, and_true]
    exact ⟨⟨by decide, h1⟩, ⟨by decide, h2⟩, by decide, h3⟩

/-- KLN_VCMD, by the Warden that holds the latch (R255, R369). -/
theorem written_klnVcmd {op slot a : Nat} (hop : 1 ≤ op ∧ op ≤ 3) (hslot : slot < 2 ^ 6) (ha : a < 2 ^ 46) (hm : m = 0x44)
    (hlatch : holdsLatch s h = true) (hexec : exec c s = putReg h m 8 0x38 (op * 2 ^ 62 + slot * 2 ^ 56 + a * 2 ^ 6) s) :
    Written h m 8 0x38 [(63, 62, op), (61, 56, slot), (51, 6, a)] (fun w s => klnVault s h w) c s := by
  subst hm
  have h1 : nbits (op * 2 ^ 62 + slot * 2 ^ 56 + a * 2 ^ 6) 63 62 = op := by rw [nbits_eq_div]; omega
  have h2 : nbits (op * 2 ^ 62 + slot * 2 ^ 56 + a * 2 ^ 6) 61 56 = slot := by rw [nbits_eq_div]; omega
  have h3 : nbits (op * 2 ^ 62 + slot * 2 ^ 56 + a * 2 ^ 6) 51 6 = a := by rw [nbits_eq_div]; omega
  refine written_of_word commandReg_klnVcmd rfl hexec (by omega) ?_ (if_pos ⟨rfl, hlatch⟩) (fun new hleft => ?_) ?_ fun new t hleft => rfl
  · simp only [List.forall_mem_cons, List.not_mem_nil, false_imp_iff, implies_true, and_true, nbits_eq_div]
    omega
  · change (nbits new 63 62 != 0) = true
    rw [left_field hleft (by decide) h1, bne_iff_ne]
    omega
  · simp only [List.forall_mem_cons, List.not_mem_nil, false_imp_iff, implies_true, and_true]
    exact ⟨⟨by decide, h1⟩, ⟨by decide, h2⟩, by decide, h3⟩

/-- MIL_TCMD while BUSY is 0 (R275). -/
theorem written_milTcmd {op slot a : Nat} (hop : 1 ≤ op ∧ op ≤ 2) (hslot : slot < 2 ^ 8) (ha : a < 2 ^ 40)
    (hbusy : s.flag h Reg.MIL_TRES_BUSY = false) (hexec : exec c s = putReg h m 9 0x18 (op * 2 ^ 62 + slot * 2 ^ 54 + a * 2 ^ 6) s) :
    Written h m 9 0x18 [(63, 62, op), (61, 54, slot), (45, 6, a)] (fun w s => millCommand s h w) c s := by
  have h1 : nbits (op * 2 ^ 62 + slot * 2 ^ 54 + a * 2 ^ 6) 63 62 = op := by rw [nbits_eq_div]; omega
  have h2 : nbits (op * 2 ^ 62 + slot * 2 ^ 54 + a * 2 ^ 6) 61 54 = slot := by rw [nbits_eq_div]; omega
  have h3 : nbits (op * 2 ^ 62 + slot * 2 ^ 54 + a * 2 ^ 6) 45 6 = a := by rw [nbits_eq_div]; omega
  refine written_of_word commandReg_milTcmd rfl hexec (by omega) ?_ rfl (fun new hleft => ?_) ?_ fun new t hleft => rfl
  · simp only [List.forall_mem_cons, List.not_mem_nil, false_imp_iff, implies_true, and_true, nbits_eq_div]
    omega
  · change (!s.flag h Reg.MIL_TRES_BUSY && between 1 (nbits new 63 62) 2) = true
    rw [hbusy, left_field hleft (by decide) h1]
    simp [between, hop]
  · simp only [List.forall_mem_cons, List.not_mem_nil, false_imp_iff, implies_true, and_true]
    exact ⟨⟨by decide, h1⟩, ⟨by decide, h2⟩, by decide, h3⟩

/-- SCL_PCMD while BUSY is 0 (R283). -/
theorem written_sclPcmd {op slot p : Nat} (hop : 1 ≤ op ∧ op ≤ 5) (hslot : slot < 2 ^ 16) (hp : p < 2 ^ 24)
    (hbusy : s.flag h Reg.SCL_PRES_BUSY = false) (hexec : exec c s = putReg h m 0x0A 0x40 (op * 2 ^ 61 + slot * 2 ^ 24 + p) s) :
    Written h m 0x0A 0x40 [(63, 61, op), (39, 24, slot), (23, 0, p)] (fun w s => sclCommand s h w) c s := by
  have h1 : nbits (op * 2 ^ 61 + slot * 2 ^ 24 + p) 63 61 = op := by rw [nbits_eq_div]; omega
  have h2 : nbits (op * 2 ^ 61 + slot * 2 ^ 24 + p) 39 24 = slot := by rw [nbits_eq_div]; omega
  have h3 : nbits (op * 2 ^ 61 + slot * 2 ^ 24 + p) 23 0 = p := by rw [nbits_eq_div]; omega
  refine written_of_word commandReg_sclPcmd rfl hexec (by omega) ?_ rfl (fun new hleft => ?_) ?_ fun new t hleft => rfl
  · simp only [List.forall_mem_singleton, nbits_eq_div]
    omega
  · change (!s.flag h Reg.SCL_PRES_BUSY && between 1 (nbits new 63 61) 5) = true
    rw [hbusy, left_field hleft (by decide) h1]
    simp [between, hop]
  · simp only [List.forall_mem_cons, List.not_mem_nil, false_imp_iff, implies_true, and_true]
    exact ⟨⟨by decide, h1⟩, ⟨by decide, h2⟩, by decide, h3⟩

/-- A field list without its middle field. -/
theorem outer_subset {x y z : Nat × Nat × Nat} : [x, z] ⊆ [x, y, z] := by simp

/-- A field list without its last field. -/
theorem front_subset {x y z : Nat × Nat × Nat} : [x, y] ⊆ [x, y, z] := by simp

/-- A command's word with a field 0. -/
theorem putReg_congr {v w : Nat} (hexec : exec c s = putReg h m blk off v s) (hv : v = w) : exec c s = putReg h m blk off w s := hv ▸ hexec

/-- Commands of Flume, Kiln, Mill and Scaler. -/
theorem unitCommands : UnitCommands := by
  intro h m s
  refine ⟨fun hbusy a n => ?_, fun hm hlatch slot a => ?_, fun hbusy slot a => ?_, fun hbusy p slot => ?_⟩
  · have hflm {c : Instr} (op : Nat) (hop : 1 ≤ op ∧ op ≤ 6) (hexec : exec c s = putReg h m 6 0x40 (scmdWord op 0 n.toNat) s) :
        Written h m 6 0x40 [(63, 61, op), (15, 0, n.toNat)] (fun w s => flmCommand s h w) c s :=
      written_mono (written_flmScmd hop (by decide) n.isLt hbusy hexec) outer_subset
    exact ⟨written_flmScmd (by decide) a.isLt n.isLt hbusy rfl, hflm 2 (by decide) rfl, hflm 3 (by decide) rfl, hflm 4 (by decide) rfl,
      hflm 5 (by decide) rfl, hflm 6 (by decide) rfl⟩
  · refine ⟨written_klnVcmd (by decide) slot.isLt a.isLt hm hlatch rfl, ?_, ?_⟩
    · exact written_mono (written_klnVcmd (op := 2) (a := 0) (by decide) slot.isLt (by decide) hm hlatch (putReg_congr rfl (by omega))) front_subset
    · exact written_mono (written_klnVcmd (op := 3) (slot := 0) (a := 0) (by decide) (by decide) (by decide) hm hlatch
        (putReg_congr rfl (by omega))) (by simp)
  · refine ⟨written_milTcmd (by decide) slot.isLt a.isLt hbusy rfl, ?_⟩
    exact written_mono (written_milTcmd (op := 2) (a := 0) (by decide) slot.isLt (by decide) hbusy (putReg_congr rfl (by omega))) front_subset
  · have hpoint {c : Instr} (op : Nat) (hop : 1 ≤ op ∧ op ≤ 5) (hexec : exec c s = putReg h m 0x0A 0x40 (op * 2 ^ 61 + p.toNat) s) :
        Written h m 0x0A 0x40 [(63, 61, op), (23, 0, p.toNat)] (fun w s => sclCommand s h w) c s :=
      written_mono (written_sclPcmd (slot := 0) hop (by decide) p.isLt hbusy (putReg_congr hexec (by omega))) outer_subset
    have hdrop {c : Instr} (op : Nat) (hop : 1 ≤ op ∧ op ≤ 5) (hexec : exec c s = putReg h m 0x0A 0x40 (op * 2 ^ 61 + slot.toNat * 2 ^ 24) s) :
        Written h m 0x0A 0x40 [(63, 61, op), (39, 24, slot.toNat)] (fun w s => sclCommand s h w) c s :=
      written_mono (written_sclPcmd (p := 0) hop slot.isLt (by decide) hbusy (putReg_congr hexec (by omega))) front_subset
    exact ⟨hpoint 1 (by decide) rfl, hpoint 2 (by decide) rfl, hpoint 3 (by decide) rfl, hdrop 4 (by decide) rfl, hdrop 5 (by decide) rfl⟩

-- the control registers

def hifCtrl : RegDesc := (regAt 5 0).get rfl
def hifNoticeReg : RegDesc := (regAt 5 0x38).get rfl
def bomFinvReg : RegDesc := (regAt 0x0C 0x30).get rfl
def bomXsigReg : RegDesc := (regAt 0x0C 0x50).get rfl
def tmbStepReg : RegDesc := (regAt 0x0B 8).get rfl
def lcsXreqReg : RegDesc := (regAt 0x0F 8).get rfl
def lcsCincReg : RegDesc := (regAt 0x0F 0xA0).get rfl
def pwrRst : RegDesc := (regAt 0x11 0x18).get rfl
def fltRetestReg : RegDesc := (regAt 2 0x28).get rfl

theorem commandReg_hifCtrl : CommandReg 5 0 hifCtrl [(63, 1)] := ⟨rfl, rfl, by decide, by decide, by decide, by decide +kernel⟩
theorem commandReg_hifNotice : CommandReg 5 0x38 hifNoticeReg [(63, 1)] := ⟨rfl, rfl, by decide, by decide, by decide, by decide +kernel⟩
theorem commandReg_bomFinv : CommandReg 0x0C 0x30 bomFinvReg [(63, 1)] := ⟨rfl, rfl, by decide, by decide, by decide, by decide +kernel⟩
theorem commandReg_bomXsig : CommandReg 0x0C 0x50 bomXsigReg [(54, 17)] := ⟨rfl, rfl, by decide, by decide, by decide, by decide +kernel⟩
theorem commandReg_tmbStep : CommandReg 0x0B 8 tmbStepReg [] := ⟨rfl, rfl, by decide, by decide, by decide, by decide +kernel⟩
theorem commandReg_lcsXreq : CommandReg 0x0F 8 lcsXreqReg [(63, 46), (4, 0)] := ⟨rfl, rfl, by decide, by decide, by decide, by decide +kernel⟩
theorem commandReg_lcsCinc : CommandReg 0x0F 0xA0 lcsCincReg [(63, 12)] := ⟨rfl, rfl, by decide, by decide, by decide, by decide +kernel⟩
theorem commandReg_pwrRst : CommandReg 0x11 0x18 pwrRst [(63, 1)] := ⟨rfl, rfl, by decide, by decide, by decide, by decide +kernel⟩
theorem commandReg_fltRetest : CommandReg 2 0x28 fltRetestReg [(60, 5)] := ⟨rfl, rfl, by decide, by decide, by decide, by decide +kernel⟩

/-- A register of one bit that acts at once reads 0 (R9). -/
theorem nbits_keepSet_one {n : Nat} (hmask : d.maskOf (· == .w1s) = 1) (hblk : blk ≠ 3) : nbits (keepSet blk off d n) 0 0 = 0 := by
  unfold keepSet
  rw [if_neg (fun h => hblk h.1), hmask, nbits_eq_div, Nat.and_one_is_mod]
  omega

/-- Bit 0 of a word is its field [0:0]. -/
theorem testBit_zero_of_nbits {n : Nat} : n.testBit 0 = decide (nbits n 0 0 = 1) := by
  rw [nbits_eq_div, Nat.testBit_zero]
  simp

/-- HIF_CTRL.EN (R313). -/
theorem written_hifCtrl {v : Nat} (hv : v < 2) (hexec : exec c s = putReg h m 5 0 v s) :
    Written h m 5 0 [(0, 0, v)] (fun _ t => hifEnable t h (s.reg h 5 0).toNat v) c s := by
  have h1 : nbits v 0 0 = v := by rw [nbits_eq_div]; omega
  refine written_of_word commandReg_hifCtrl rfl hexec (by omega) ?_ rfl (fun new _ => rfl) ?_ fun new t hleft => ?_
  · simp only [List.forall_mem_singleton, nbits_eq_div]
    omega
  · simp only [List.forall_mem_singleton]
    exact ⟨by decide, h1⟩
  · change hifEnable t h (s.reg h 5 0).toNat new = _
    unfold hifEnable
    rw [testBit_zero_of_nbits (n := new), testBit_zero_of_nbits (n := v), left_field hleft (by decide) h1, h1]

/-- Commands that write a control register. -/
theorem controlCommands : ControlCommands := by
  intro h m s
  refine ⟨written_hifCtrl (by decide) rfl, written_hifCtrl (by decide) rfl, ?_, ?_, fun node t => ?_, fun v => ?_,
    fun hm hlatch => ⟨fun a => ?_, fun n target => ?_, ?_⟩, fun hm hmode g hg => ?_⟩
  · refine written_of_command (raw := 1) commandReg_hifNotice rfl (by decide) (by decide) rfl (fun new _ => rfl) (fun new _ => ?_) fun new t _ => rfl
    simp only [List.forall_mem_singleton]
    exact nbits_keepSet_one rfl (by decide)
  · refine written_of_command (raw := 1) commandReg_bomFinv rfl (by decide) (by decide) rfl (fun new _ => rfl) (fun new _ => ?_) fun new t _ => rfl
    simp only [List.forall_mem_singleton]
    exact nbits_keepSet_one rfl (by decide)
  · have hn := node.isLt
    have ht := t.isLt
    refine written_of_word (raw := node.toNat * 2 ^ 55 + t.toNat) commandReg_bomXsig rfl rfl (by omega) ?_ rfl (fun new _ => rfl) ?_ fun new u hleft => ?_
    · simp only [List.forall_mem_singleton, nbits_eq_div]
      omega
    · simp only [List.forall_mem_cons, List.not_mem_nil, false_imp_iff, implies_true, and_true, nbits_eq_div]
      exact ⟨⟨by decide, by omega⟩, by decide, by omega⟩
    · change crossSignal u h new = _
      rw [BitVec.toNat_ofNat, Nat.mod_eq_of_lt hleft.lt]
  · have hv := v.isLt
    have h1 : nbits v.toNat 63 0 = v.toNat := by rw [nbits_eq_div]; omega
    refine written_of_word (raw := v.toNat) commandReg_tmbStep rfl rfl hv (by simp) rfl (fun new _ => rfl) ?_ fun new u hleft => ?_
    · simp only [List.forall_mem_singleton]
      exact ⟨by decide, h1⟩
    · change stepTimebase u (BitVec.ofNat 64 new) = _
      have h2 : nbits new 63 0 = v.toNat := left_field hleft (by decide) h1
      have h3 : nbits new 63 0 = new := by
        have := hleft.lt
        rw [nbits_eq_div]
        omega
      rw [← h3, h2, BitVec.ofNat_toNat, BitVec.setWidth_eq]
  · subst hm
    have ha := a.isLt
    have h1 : nbits (a.toNat * 2 ^ 5) 45 5 = a.toNat := by rw [nbits_eq_div]; omega
    refine written_of_word (raw := a.toNat * 2 ^ 5) commandReg_lcsXreq rfl rfl (by omega) ?_ (if_pos ⟨rfl, hlatch⟩) (fun new _ => rfl) ?_ fun new u hleft => ?_
    · simp only [List.forall_mem_cons, List.not_mem_nil, false_imp_iff, implies_true, and_true, nbits_eq_div]
      omega
    · simp only [List.forall_mem_singleton]
      exact ⟨by decide, h1⟩
    · change (lcRequestAt u h (nbits new 45 5 * 32)).2 = _
      rw [left_field hleft (by decide) h1]
  · subst hm
    have hn := n.isLt
    have ht := target.isLt
    have h1 : nbits (n.toNat * 2 ^ 8 + target.toNat) 11 8 = n.toNat := by rw [nbits_eq_div]; omega
    have h2 : nbits (n.toNat * 2 ^ 8 + target.toNat) 7 0 = target.toNat := by rw [nbits_eq_div]; omega
    refine written_of_word (raw := n.toNat * 2 ^ 8 + target.toNat) commandReg_lcsCinc rfl rfl (by omega) ?_ (if_pos ⟨rfl, hlatch⟩)
      (fun new _ => rfl) ?_ fun new u hleft => ?_
    · simp only [List.forall_mem_singleton, nbits_eq_div]
      omega
    · simp only [List.forall_mem_cons, List.not_mem_nil, false_imp_iff, implies_true, and_true]
      exact ⟨⟨by decide, h1⟩, by decide, h2⟩
    · change advanceCounter u (nbits new 11 8) (nbits new 7 0) = _
      rw [left_field hleft (by decide) h1, left_field hleft (by decide) h2]
  · subst hm
    refine written_of_command (raw := 1) commandReg_pwrRst rfl (by decide) (by decide) (if_pos ⟨rfl, hlatch⟩) (fun new _ => rfl) (fun new _ => ?_)
      fun new t _ => rfl
    simp only [List.forall_mem_singleton]
    exact nbits_keepSet_one rfl (by decide)
  · subst hm
    have hlt := g.isLt
    have h1 : nbits g.toNat 4 0 = g.toNat := by rw [nbits_eq_div]; omega
    refine written_of_word (raw := g.toNat) commandReg_fltRetest rfl rfl (by omega) ?_ rfl (fun new hleft => ?_) ?_ fun new u hleft => ?_
    · simp only [List.forall_mem_singleton, nbits_eq_div]
      omega
    · change (s.inMode h .service && decide (nbits new 4 0 ≤ 16)) = true
      rw [hmode, left_field hleft (by decide) h1]
      simp [hg]
    · simp only [List.forall_mem_singleton]
      exact ⟨by decide, h1⟩
    · change startRetest u h (nbits new 4 0) = _
      rw [left_field hleft (by decide) h1]

/-- Settles O20: the commands of the Foreman, of the units, and those that write a control register. -/
theorem commandRegisterResult : Obligations.CommandRegisterResult := ⟨foremanCommands, unitCommands, controlCommands⟩

end Sys2Proof.Proofs
end

section
/-! Fences, posts and reads that pop (O22). -/

namespace Sys2Proof.Proofs

open Sys2Proof Sys2Proof.Machine

variable {h : HalfId} {m : BitVec 7} {blk off : Nat} {s : State}

def bndFenceReg : RegDesc := (regAt 3 0x28).get rfl

/-- A write of BND_FENCE leaves its word, and fences the groves of the bits written (R192). -/
theorem setupWrite_bndFence {v : Nat} (hv : v < 2 ^ 17) (hw : WriteAllowed h m 3 0x28 s) (hm : m = 0x44) (hlatch : holdsLatch s h = true) :
    setupWrite s h m.toNat (regAddr 3 0x28) (leBytes 8 v) = fenceMask (s.setReg h 3 0x28 (s.reg h 3 0x28)) h v := by
  subst hm
  have hgate : gateOf s h (0x44 : BitVec 7).toNat 3 0x28 v = .pass := by
    change (if 0x28 = 0x28 ∨ setsLock 0x28 v = true then latchGate s h 0x44 false else .pass) = _
    rw [if_pos (.inl rfl)]
    exact if_pos ⟨rfl, hlatch⟩
  have hreserved : v &&& (2 ^ 64 - 1 - bndFenceReg.defined) = 0 := by
    rw [show 2 ^ 64 - 1 - bndFenceReg.defined = maskOfGaps [(63, 17)] by decide +kernel]
    refine land_maskOfGaps_eq_zero ?_
    simp only [List.forall_mem_singleton, nbits_eq_div]
    omega
  rw [setupWrite_reg (d := bndFenceReg) hw (by omega) rfl (by decide) (by decide) (by decide) (by decide) hgate (by decide)]
  unfold regWrite
  dsimp only
  rw [if_neg (by rw [hreserved]; exact fun h => h rfl), if_neg (by simp [limitsOk, bndOk]), if_pos ⟨rfl, rfl⟩, BitVec.ofNat_toNat,
    BitVec.setWidth_eq]
  rfl

/-- A master's write that is let through reaches the bus. -/
theorem setupWrite_allowed {m n : Nat} {bs : List Byte} (hblk : blk < 256) (hoff : off < 0x10000) (hruns : masterRuns s h m = true)
    (hreach : masterReaches m (.setup blk off) = true) (hlen : bs.length = n)
    (hallow : check s h m .write (regAddr blk off) n = .allow) :
    setupWrite s h m (regAddr blk off) bs = busWrite s h m blk off bs none := by
  unfold setupWrite
  dsimp only
  rw [place_regAddr s h hblk hoff, hlen, hallow, hruns, hreach]
  rfl

/-- A master other than the PCIe master reaches every block (R306). -/
theorem masterReaches_of_ne (hm : m ≠ 0x4B) : masterReaches m.toNat (.setup blk off) = true := by
  have : m.toNat ≠ 0x4B := fun e => hm (BitVec.eq_of_toNat_eq e)
  simp [masterReaches, this]

/-- A write to a part of a register that its gate lets pass. -/
theorem busWrite_reg {mid base raw lanes : Nat} {bs : List Byte} {d : RegDesc} (hsize : setupSizeOk blk off bs.length = true)
    (hpost : postWindow blk off = false) (hbase : off / 8 * 8 = base) (hraw : leNat bs * 2 ^ (8 * (off % 8)) = raw)
    (hlanes : (2 ^ (8 * bs.length) - 1) * 2 ^ (8 * (off % 8)) = lanes) (hgate : gateOf s h mid blk base raw = .pass)
    (hstat : base ≠ 0xFFF0) (hlio : blk ≠ 0x13) (hd : regAt blk base = some d) :
    busWrite s h mid blk off bs none = regWrite s h d blk base raw lanes := by
  unfold busWrite
  dsimp only
  rw [hbase, hraw, hlanes, hgate, hsize, hpost, hd]
  simp only [Bool.not_true, Bool.false_eq_true, if_false, hstat, hlio, false_and]

/-- A byte to an LIO data register joins its queue. -/
theorem busWrite_uart {mid raw : Nat} {bs : List Byte} (hlen : bs.length = 8) (hoff : off = 0x28 ∨ off = 0x30) (hraw : leNat bs = raw)
    (hbyte : raw / 256 % 2 ^ 54 = 0) :
    busWrite s h mid 0x13 off bs none = uartQueue s ((off - 0x28) / 8) (BitVec.ofNat 8 raw) := by
  have hbase : off / 8 * 8 = off := by omega
  have hmod : off % 8 = 0 := by omega
  have hsize : setupSizeOk 0x13 off 8 = true := by simp [setupSizeOk, hmod]
  have hpost : postWindow 0x13 off = false := rfl
  have hgate : gateOf s h mid 0x13 off raw = .pass := rfl
  have hstat : off ≠ 0xFFF0 := by omega
  have hq : (0x13 = 0x13 ∧ (off = 0x28 ∨ off = 0x30) ∧ raw / 256 % 2 ^ 54 = 0) := ⟨rfl, hoff, hbyte⟩
  unfold busWrite
  dsimp only
  rw [hlen, hbase, hmod, hraw, Nat.mul_zero, Nat.pow_zero, Nat.mul_one, hgate, hsize, hpost]
  dsimp only
  rw [if_neg (by decide), if_neg (by decide), if_neg (fun e => hstat e.1), if_pos hq, if_neg (by decide)]

def klnPidx : RegDesc := (regAt 8 0x10).get rfl

/-- The word that a write of PROD alone leaves in KLN_PIDX (R253). -/
theorem nbits_mergeWrite_prod (locked : Bool) (old : Nat) (prod : BitVec 16) :
    nbits (mergeWrite klnPidx locked old (prod.toNat * 2 ^ 48) ((2 ^ 32 - 1) * 2 ^ 32)) 63 48 = prod.toNat ∧
      nbits (mergeWrite klnPidx locked old (prod.toNat * 2 ^ 48) ((2 ^ 32 - 1) * 2 ^ 32)) 47 0 = nbits old 47 0 := by
  have hd : apart klnPidx.fields = true := apart_of_regAt (blk := 8) (off := 0x10) rfl
  constructor
  · have hlow : nbits (prod.toNat * 2 ^ 48) 63 48 = prod.toNat := by
      have := prod.isLt
      rw [nbits_eq_div]
      omega
    refine Eq.trans ?_ hlow
    refine nbits_eq_of_testBit fun i h1 h2 => ?_
    rw [mergeWrite_eq, mergeFields_in locked _ _ klnPidx.fields hd (rf "PROD" 63 48 .rw 0) (by decide) i h1 h2]
    · rfl
    · rw [show (2 ^ 32 - 1) * 2 ^ 32 = 2 ^ (63 + 1) - 2 ^ 32 by decide, testBit_mask _ _ _ (by decide)]
      simp
      omega
  · refine nbits_eq_of_testBit fun i h1 h2 => ?_
    have hle : ∀ f ∈ klnPidx.fields, f.lo ≤ f.hi := by decide
    by_cases hi : i < 32
    · refine mergeFields_other locked _ _ klnPidx.fields hle i (fun f hf => .inr (.inr ?_)) old
      rw [show (2 ^ 32 - 1) * 2 ^ 32 = 2 ^ (63 + 1) - 2 ^ 32 by decide, testBit_mask _ _ _ (by decide)]
      simp
      omega
    · have hlo : 32 ≤ i := by omega
      rw [mergeWrite_eq, mergeFields_in locked _ _ klnPidx.fields hd (rf "CONS" 47 32 .ro 0) (by decide) i hlo h2]
      · rfl
      rw [show (2 ^ 32 - 1) * 2 ^ 32 = 2 ^ (63 + 1) - 2 ^ 32 by decide, testBit_mask _ _ _ (by decide)]
      simp
      omega

/-- A field within a field that is the same. -/
theorem nbits_low_congr {a b : Nat} (hab : nbits a 47 0 = nbits b 47 0) : nbits a 3 0 = nbits b 3 0 ∧ nbits a 47 32 = nbits b 47 32 := by
  simp only [nbits_eq_div] at hab ⊢
  omega

/-- A write of the upper half of KLN_PIDX. -/
theorem setupWrite_prod {prod : BitVec 16} (hm : m ≠ 0x4B) (hruns : masterRuns s h m.toNat = true)
    (hallow : check s h m.toNat .write (regAddr 8 0x14) 4 = .allow) (h4 : 4 ≤ nbits (s.reg h 8 0x10).toNat 3 0)
    (h12 : nbits (s.reg h 8 0x10).toNat 3 0 ≤ 12)
    (hroom : ringHolds prod.toNat (s.fld h Reg.KLN_PIDX_CONS) ≤ 2 ^ nbits (s.reg h 8 0x10).toNat 3 0) :
    ∃ w : Word, nbits w.toNat 63 48 = prod.toNat ∧ nbits w.toNat 47 0 = nbits (s.reg h 8 0x10).toNat 47 0 ∧
      setupWrite s h m.toNat (regAddr 8 0x14) (leBytes 4 (prod.toNat * 2 ^ 16)) =
        skipBadOps (primPosted (s.setReg h 8 0x10 w) h) (s.setReg h 8 0x10 w) h := by
  have hp := prod.isLt
  set old := (s.reg h 8 0x10).toNat with hold
  set new := mergeWrite klnPidx (s.locked h 8) old (prod.toNat * 2 ^ 48) ((2 ^ 32 - 1) * 2 ^ 32) with hnew
  obtain ⟨hprod, hlow⟩ := nbits_mergeWrite_prod (s.locked h 8) old prod
  have hlt : new < 2 ^ 64 := mergeWrite_lt (apart_of_regAt (blk := 8) (off := 0x10) rfl) (by decide) _ (s.reg h 8 0x10).isLt _ _
  have htoNat : (BitVec.ofNat 64 new).toNat = new := by rw [BitVec.toNat_ofNat, Nat.mod_eq_of_lt hlt]
  have hlim : limitsOk s h 8 0x10 old new (prod.toNat * 2 ^ 48) = true := by
    change (between 4 (nbits new 3 0) 12 && decide (ringHolds (nbits new 63 48) (s.fld h Reg.KLN_PIDX_CONS) ≤ 2 ^ nbits new 3 0)) = true
    rw [hprod, (nbits_low_congr hlow).1]
    simp [between, h4, h12, hroom]
  have hreserved : prod.toNat * 2 ^ 48 &&& (2 ^ 64 - 1 - klnPidx.defined) = 0 := by
    rw [show 2 ^ 64 - 1 - klnPidx.defined = maskOfGaps [(31, 4)] by decide +kernel]
    refine land_maskOfGaps_eq_zero ?_
    simp only [List.forall_mem_singleton, nbits_eq_div]
    omega
  have hlen : (leBytes 4 (prod.toNat * 2 ^ 16)).length = 4 := by simp [leBytes]
  have hraw : leNat (leBytes 4 (prod.toNat * 2 ^ 16)) * 2 ^ (8 * (0x14 % 8)) = prod.toNat * 2 ^ 48 := by
    have hlt : prod.toNat * 2 ^ 16 < 2 ^ (8 * 4) := by omega
    rw [leNat_leBytes_mod, Nat.mod_eq_of_lt hlt, Nat.mul_assoc]
    rfl
  have hbus : setupWrite s h m.toNat (regAddr 8 0x14) (leBytes 4 (prod.toNat * 2 ^ 16)) =
      busWrite s h m.toNat 8 0x14 (leBytes 4 (prod.toNat * 2 ^ 16)) none :=
    setupWrite_allowed (by decide) (by decide) hruns (masterReaches_of_ne hm) hlen hallow
  have hregWrite : busWrite s h m.toNat 8 0x14 (leBytes 4 (prod.toNat * 2 ^ 16)) none =
      regWrite s h klnPidx 8 0x10 (prod.toNat * 2 ^ 48) ((2 ^ 32 - 1) * 2 ^ 32) := by
    exact busWrite_reg (by rw [hlen]; decide) (by decide) (by decide) hraw (by rw [hlen]) rfl (by decide) (by decide) rfl
  refine ⟨BitVec.ofNat 64 new, htoNat.symm ▸ hprod, htoNat.symm ▸ hlow, hbus.trans (hregWrite.trans ?_)⟩
  unfold regWrite
  dsimp only
  rw [← hold, ← hnew, if_neg (by rw [hreserved]; exact fun h => h rfl), if_neg (by rw [hlim]; decide), if_neg (by decide)]
  have hkeep : keepSet 8 0x10 klnPidx new = new := by
    unfold keepSet
    rw [if_neg (by decide), show klnPidx.maskOf (· == .w1s) = 0 by decide +kernel, Nat.and_zero, Nat.sub_zero]
  rw [hkeep]
  rfl

/-- A byte written to an LIO data register (R433). -/
theorem setupWrite_uart (n : Fin 2) {v : Word} (hw : WriteAllowed h m 0x13 (0x28 + 8 * n.val) s) (hv : v.toNat / 256 % 2 ^ 54 = 0) :
    setupWrite s h m.toNat (regAddr 0x13 (0x28 + 8 * n.val)) (leBytes 8 v.toNat) = uartQueue s n.val (v.setWidth 8) := by
  have hn : n.val < 2 := n.isLt
  have hbus : setupWrite s h m.toNat (regAddr 0x13 (0x28 + 8 * n.val)) (leBytes 8 v.toNat) =
      busWrite s h m.toNat 0x13 (0x28 + 8 * n.val) (leBytes 8 v.toNat) none :=
    setupWrite_allowed (by decide) (by omega) hw.runs (reaches_reg hw) (length_leBytes _) hw.allowed
  have hbyte : BitVec.ofNat 8 v.toNat = v.setWidth 8 := by rw [BitVec.ofNat_toNat]
  have hoff : 0x28 + 8 * n.val = 0x28 ∨ 0x28 + 8 * n.val = 0x30 := by omega
  rw [hbus, ← hbyte, busWrite_uart (length_leBytes _) hoff (leNat_leBytes v.isLt) hv]
  congr 1
  omega

/-- Fences, posts of primitives and bytes to send. -/
theorem fenceAndPostResult : FenceAndPostResult := by
  intro h m s
  refine ⟨fun mask hw hm hlatch => ?_, fun prod hm hruns hallow h4 h12 hroom => ?_, fun n v hw hv => ?_⟩
  · exact congrArg Host.Outcome.next (setupWrite_bndFence mask.isLt hw hm hlatch)
  · obtain ⟨w, hprod, hlow, hset⟩ := setupWrite_prod hm hruns hallow h4 h12 hroom
    exact ⟨w, hprod, hlow, congrArg Host.Outcome.next hset⟩
  · exact congrArg Host.Outcome.next (setupWrite_uart n hw hv)

/-- A master's read of a register that is let through. -/
theorem setupRead_reg {n : Nat} (hblk : blk < 256) (hoff : off < 0x10000) (hm : m ≠ 0x4B) (hruns : masterRuns s h m.toNat = true)
    (hallow : check s h m.toNat .read (regAddr blk off) n = .allow) :
    setupRead s h m.toNat (regAddr blk off) n = (busRead s h m.toNat blk off n none).2.emit
      (.readData (BitVec.ofNat 64 (leNat (busRead s h m.toNat blk off n none).1))) := by
  have hreach : masterReaches m.toNat (.setup blk off) = true := masterReaches_of_ne hm
  unfold setupRead
  dsimp only
  rw [place_regAddr s h hblk hoff, hallow, hruns, hreach]
  rfl

/-- A read of TMB_TXTS0 pops a timestamp (R244). -/
theorem busRead_txts0 : busRead s h m.toNat 0x0B 0x30 8 none = (leBytes 8 (popStamp s h).1.toNat, (popStamp s h).2) := rfl

/-- A read of an LIO data register pops a byte (R433). -/
theorem busRead_uart (n : Fin 2) : busRead s h m.toNat 0x13 (0x28 + 8 * n.val) 8 none =
    (leBytes 8 (regWord s h 0x13 (0x28 + 8 * n.val)), uartPop s n.val) := by
  have h0 : busRead s h m.toNat 0x13 0x28 8 none = (leBytes 8 (regWord s h 0x13 0x28), uartPop s 0) := rfl
  have h1 : busRead s h m.toNat 0x13 0x30 8 none = (leBytes 8 (regWord s h 0x13 0x30), uartPop s 1) := rfl
  obtain ⟨n, hn⟩ := n
  obtain rfl | rfl : n = 0 ∨ n = 1 := by omega
  · exact h0
  · exact h1

/-- What a register reads as keeps to the bits of its fields. -/
theorem regWord_lt {d : RegDesc} (hoff : off ≠ 0xFFF0) (hd : regAt blk off = some d) (hmask : (d.maskOf fun a => a != .wo) < 2 ^ 64) :
    regWord s h blk off < 2 ^ 64 := by
  unfold regWord
  rw [if_neg hoff, hd]
  exact lt_of_le_of_lt Nat.and_le_right hmask

/-- What an LIO data register reads as fits a word. -/
theorem regWord_uart_lt (n : Fin 2) : regWord s h 0x13 (0x28 + 8 * n.val) < 2 ^ 64 := by
  have h0 : regWord s h 0x13 0x28 < 2 ^ 64 := regWord_lt (d := (regAt 0x13 0x28).get rfl) (by decide) rfl (by decide +kernel)
  have h1 : regWord s h 0x13 0x30 < 2 ^ 64 := regWord_lt (d := (regAt 0x13 0x30).get rfl) (by decide) rfl (by decide +kernel)
  obtain ⟨n, hn⟩ := n
  obtain rfl | rfl : n = 0 ∨ n = 1 := by omega
  · exact h0
  · exact h1

/-- Reads that pop. -/
theorem poppingReadResult : PoppingReadResult := by
  intro h m s hm hruns
  refine ⟨fun hallow => ?_, fun n hallow => ?_⟩
  · have hread : exec (.tmbTxts0Read h m) s = .next ((popStamp s h).2.emit (.readData (popStamp s h).1)) := by
      refine congrArg Host.Outcome.next ((setupRead_reg (by decide) (by decide) hm hruns hallow).trans ?_)
      rw [busRead_txts0, leNat_leBytes (popStamp s h).1.isLt, BitVec.ofNat_toNat, BitVec.setWidth_eq]
    refine ⟨fun x r hx => ?_, fun hnil => ?_⟩
    · rw [hread, popStamp, hx]
    · rw [hread, popStamp, hnil]
  · have hn : 0x28 + 8 * n.val < 0x10000 := by omega
    have hlt := regWord_uart_lt (s := s) (h := h) n
    refine ⟨BitVec.ofNat 64 (regWord s h 0x13 (0x28 + 8 * n.val)), ?_, ?_⟩
    · rw [BitVec.toNat_ofNat, Nat.mod_eq_of_lt hlt]
    · refine congrArg Host.Outcome.next ((setupRead_reg (by decide) hn hm hruns hallow).trans ?_)
      rw [busRead_uart, leNat_leBytes hlt]

/-- Settles O22: fences, posts and bytes to send, and the reads that pop. -/
theorem specialAccessResult : Obligations.SpecialAccessResult := ⟨fenceAndPostResult, poppingReadResult⟩

end Sys2Proof.Proofs
end

section
/-! What accesses to memory, counts and reports leave alone: the cores, what the Foreman holds of the threads, the rotation of tests and
the charge latch. -/

namespace Sys2Proof.Proofs

open Sys2Proof Sys2Proof.Machine

/-- What no access, count or report changes. -/
structure Work where
  cores : HalfId → List (Nat × Core)
  threads : HalfId → List (Nat × Thread)
  rotation : HalfId → RotPhase × List Nat
  latch : Option HalfId × Nat

/-- A state's part that no access, count or report changes. -/
def workOf (s : State) : Work where
  cores h := (s.half h).cores
  threads h := (s.half h).fmn.threads
  rotation h := ((s.half h).flt.phase, (s.half h).flt.testing)
  latch := (s.latch, s.leaseEnd)

variable {s : State} {h : HalfId}

/-- A half changed outside that part. -/
@[simp] theorem workOf_upd {f : Half → Half} (hcores : ∀ x, (f x).cores = x.cores) (hthreads : ∀ x, (f x).fmn.threads = x.fmn.threads)
    (hphase : ∀ x, (f x).flt.phase = x.flt.phase) (htesting : ∀ x, (f x).flt.testing = x.flt.testing) :
    workOf (s.upd h f) = workOf s := by
  have hl : (s.upd h f).latch = s.latch ∧ (s.upd h f).leaseEnd = s.leaseEnd := by cases h <;> exact ⟨rfl, rfl⟩
  unfold workOf
  rw [hl.1, hl.2]
  congr 1
  · exact funext fun h' => State.half_upd_proj s h h' (fun x => x.cores) f hcores
  · exact funext fun h' => State.half_upd_proj s h h' (fun x => x.fmn.threads) f hthreads
  · refine funext fun h' => State.half_upd_proj s h h' (fun x => (x.flt.phase, x.flt.testing)) f fun x => ?_
    rw [hphase, htesting]

/-- Either of two states. -/
@[simp] theorem workOf_ite {c : Prop} [Decidable c] {t : State} : workOf (if c then s else t) = if c then workOf s else workOf t :=
  apply_ite workOf c s t

/-- A loop of such changes. -/
theorem workOf_foldl {α : Type} {f : State → α → State} (hf : ∀ s x, workOf (f s x) = workOf s) (xs : List α) :
    workOf (xs.foldl f s) = workOf s := by
  induction xs generalizing s with
  | nil => rfl
  | cons x xs ih => rw [List.foldl_cons, ih, hf]

/-- A loop that carries more than the state. -/
theorem workOf_foldl_snd {α β : Type} {f : β × State → α → β × State} (hf : ∀ b x, workOf (f b x).2 = workOf b.2) (xs : List α) (b : β × State) :
    workOf (xs.foldl f b).2 = workOf b.2 := by
  induction xs generalizing b with
  | nil => rfl
  | cons x xs ih => rw [List.foldl_cons, ih, hf]

-- registers, free values and outputs

@[simp] theorem workOf_setReg {blk off : Nat} {w : Word} : workOf (s.setReg h blk off w) = workOf s := by simp [State.setReg]
@[simp] theorem workOf_setFld {f : Fld} {v : Nat} : workOf (s.setFld h f v) = workOf s := workOf_setReg
@[simp] theorem workOf_incFld {f : Fld} : workOf (s.incFld h f) = workOf s := workOf_setFld
@[simp] theorem workOf_setBit {f : Fld} {i : Nat} : workOf (s.setBit h f i) = workOf s := workOf_setFld
@[simp] theorem workOf_clearBit {f : Fld} {i : Nat} : workOf (s.clearBit h f i) = workOf s := by
  unfold State.clearBit
  split
  · exact workOf_setFld
  · rfl
@[simp] theorem workOf_errWr {blk : Nat} : workOf (s.errWr h blk) = workOf s := workOf_setFld
@[simp] theorem workOf_takeFree : workOf s.takeFree.2 = workOf s := rfl
@[simp] theorem workOf_emit {o : Output} : workOf (s.emit o) = workOf s := rfl
@[simp] theorem workOf_host {m : List Host.Cell} : workOf { s with host := m } = workOf s := rfl

-- error records

@[simp] theorem workOf_noteHeld {g mid a : Nat} {core : Option Nat} : workOf (noteHeld s h g mid a core) = workOf s := by simp [noteHeld]
@[simp] theorem workOf_notePosted {g mid a : Nat} {bs : List Byte} : workOf (notePosted s h g mid a bs) = workOf s := by simp [notePosted]

@[simp] theorem workOf_raiseAttn {v : Nat} : workOf (raiseAttn s h v) = workOf s := by
  unfold raiseAttn
  dsimp only
  split
  · simp
  · simp

@[simp] theorem workOf_raiseAttnBoth {v : Nat} : workOf (raiseAttnBoth s v) = workOf s := by simp [raiseAttnBoth]

@[simp] theorem workOf_putLog {a : Nat} {bs : List Byte} : workOf (putLog s h a bs).1 = workOf s := by
  unfold putLog
  split
  all_goals simp

@[simp] theorem workOf_advanceLog : workOf (advanceLog s h) = workOf s := by
  unfold advanceLog
  dsimp only
  split
  all_goals simp

@[simp] theorem workOf_recordOnce {r : ErrRec} : workOf (recordOnce s h r).1 = workOf s := by
  simp [recordOnce]

@[simp] theorem workOf_countRefusal {o : Bool} : workOf (countRefusal s h o) = workOf s := by
  unfold countRefusal
  dsimp only
  split
  all_goals simp

@[simp] theorem workOf_record {r : ErrRec} : workOf (record s h r) = workOf s := by
  unfold record
  dsimp only
  split
  · exact workOf_recordOnce
  · exact workOf_recordOnce
  · split
    · simp
    · split
      all_goals simp

@[simp] theorem workOf_noteRefusal {mid a : Nat} {o : Bool} {core : Option Nat} : workOf (noteRefusal s h mid a o core) = workOf s := by
  unfold noteRefusal noteRefusalAt
  dsimp only
  split
  · simp
  · split
    all_goals simp

@[simp] theorem workOf_noteFenced {mid a : Nat} : workOf (noteFenced s h mid a) = workOf s := by
  unfold noteFenced
  dsimp only
  split
  · simp
  · split
    all_goals simp

@[simp] theorem workOf_unitRefused {mid a d : Nat} {o : Bool} : workOf (unitRefused s h mid a d o) = workOf s := by
  unfold unitRefused
  dsimp only
  split
  all_goals simp

/-- The guarantee's bits are looked at. -/
@[simp] theorem workOf_updateGuar : workOf (updateGuar s h) = workOf s := by
  unfold updateGuar
  refine (workOf_foldl (fun s i => ?_) _).trans workOf_setFld
  split
  · exact workOf_record
  · rfl

-- memory

@[simp] theorem workOf_takeInjected {gs : List Nat} : workOf (takeInjected s h gs).2 = workOf s := by simp [takeInjected]

@[simp] theorem workOf_granuleRegion {g : Nat} {line : Bool} : workOf (granuleRegion s g line).2 = workOf s := by
  unfold granuleRegion
  split
  all_goals rfl

@[simp] theorem workOf_touchSram {g : Nat} : workOf (touchSram s h g) = workOf s := by
  unfold touchSram
  dsimp only
  split
  · simp
  · split
    all_goals simp

@[simp] theorem workOf_touchLine {l : Nat} : workOf (touchLine s h l) = workOf s := by
  unfold touchLine
  dsimp only
  split
  · simp
  · split
    all_goals simp

@[simp] theorem workOf_touchGranule {g : Nat} : workOf (touchGranule s h g) = workOf s := by
  unfold touchGranule
  split
  all_goals simp

@[simp] theorem workOf_fillLines {a n : Nat} : workOf (fillLines s h a n) = workOf s := by
  refine workOf_foldl (fun s l => ?_) _
  split
  all_goals simp

@[simp] theorem workOf_memRead {a n : Nat} {core : Bool} : workOf (memRead s h a n core).2.2 = workOf s := by
  unfold memRead
  refine (workOf_foldl (fun s g => workOf_touchGranule) _).trans ?_
  split
  · exact workOf_fillLines
  · rfl

@[simp] theorem workOf_mergeReport {mid : Nat} {line : Bool} {x : Nat × Merge} : workOf (mergeReport h mid line s x) = workOf s := by
  unfold mergeReport
  dsimp only
  split
  · rfl
  · split
    all_goals simp
  · split
    all_goals simp
  · simp

@[simp] theorem workOf_memWritePart {mid a : Nat} {bs : List Byte} : workOf (memWritePart h mid s a bs) = workOf s := by
  unfold memWritePart
  refine (workOf_foldl (fun s x => workOf_mergeReport) _).trans ?_
  simp

@[simp] theorem workOf_memWrite {mid a : Nat} {bs : List Byte} {core : Bool} : workOf (memWrite s h mid a bs core) = workOf s := by
  unfold memWrite
  refine (workOf_foldl (fun s x => workOf_memWritePart) _).trans ?_
  split
  · exact workOf_fillLines
  · rfl

@[simp] theorem workOf_homeBytes {own : Bool} {a n : Nat} {core : Bool} : workOf (homeBytes s h own a n core).2.2.2 = workOf s := by
  unfold homeBytes
  dsimp only
  split
  all_goals simp

@[simp] theorem workOf_hostRead {a n : Nat} : workOf (hostRead s h a n).2.2 = workOf s := by simp [hostRead]

@[simp] theorem workOf_codeLine {l : Nat} : workOf (codeLine s h l).2 = workOf s := by
  unfold codeLine
  dsimp only
  split
  · rfl
  · split
    · simp
    · split
      · split
        all_goals simp
      · simp

@[simp] theorem workOf_codeLineBoth {l : Nat} : workOf (codeLineBoth s h l).2 = workOf s := by
  unfold codeLineBoth
  split
  · next h1 => rw [← workOf_codeLine (s := s) (h := h) (l := l), h1]
  · next h1 =>
    have h1' := congrArg (fun r => workOf r.2) h1
    split
    · next h2 =>
      have h2' := congrArg (fun r => workOf r.2) h2
      simpa using (h2'.symm.trans workOf_codeLine).trans (h1'.symm.trans workOf_codeLine)
    · next h2 =>
      have h2' := congrArg (fun r => workOf r.2) h2
      simpa using (h2'.symm.trans workOf_codeLine).trans (h1'.symm.trans workOf_codeLine)

@[simp] theorem workOf_codeRead {off n : Nat} : workOf (codeRead s h off n).2.2 = workOf s := by
  unfold codeRead
  refine workOf_foldl_snd (fun b l => ?_) _ _
  have hl := workOf_codeLineBoth (s := b.2) (h := h) (l := l)
  split
  · next heq => rw [heq] at hl; exact hl
  · next heq => rw [heq] at hl; exact hl

@[simp] theorem workOf_busRead {mid blk off n : Nat} {core : Option Nat} : workOf (busRead s h mid blk off n core).2 = workOf s := by
  have hpop : workOf (popStamp s h).2 = workOf s := by
    unfold popStamp
    split
    all_goals simp
  unfold busRead
  dsimp only
  split_ifs
  · exact workOf_errWr
  · rfl
  · exact hpop
  · rfl
  · rfl
  · rfl

@[simp] theorem workOf_unitReadPart {mid a n : Nat} : workOf (unitReadPart s h mid a n).2.2.2 = workOf s := by
  unfold unitReadPart
  split
  · simp
  · simp
  · simp
  · split
    all_goals simp

@[simp] theorem workOf_unitWritePart {mid a : Nat} {bs : List Byte} : workOf (unitWritePart s h mid a bs).2 = workOf s := by
  unfold unitWritePart
  split
  · simp
  · simp
  · simp
  · split
    all_goals simp

@[simp] theorem workOf_unitRead {mid a n : Nat} : workOf (unitRead s h mid a n).2 = workOf s := by
  unfold unitRead
  refine workOf_foldl_snd (fun b p => ?_) _ _
  exact workOf_unitReadPart

@[simp] theorem workOf_unitWrite {mid a : Nat} {bs : List Byte} : workOf (unitWrite s h mid a bs) = workOf s := by
  unfold unitWrite
  exact workOf_foldl (fun s p => workOf_unitWritePart) _

/-- A unit's access of a thread's record leaves what the Foreman holds of it. -/
@[simp] theorem workOf_writeThreadFields {t : Nat} {st pd : Bool} : workOf (writeThreadFields s h t st pd) = workOf s := by
  unfold writeThreadFields
  dsimp only
  split
  all_goals (split <;> split <;> simp)

-- what follows of the parts

theorem core_congr {t : State} {k : CoreId} (hw : workOf t = workOf s) : t.core k = s.core k := by
  have hc : (t.half k.half).cores = (s.half k.half).cores := congrFun (congrArg Work.cores hw) k.half
  unfold State.core State.coreN
  rw [hc]

theorem thread_congr {t : State} {n : Nat} (hw : workOf t = workOf s) : t.thread h n = s.thread h n := by
  have hc : (t.half h).fmn.threads = (s.half h).fmn.threads := congrFun (congrArg Work.threads hw) h
  unfold State.thread
  rw [hc]

theorem latch_congr {t : State} (hw : workOf t = workOf s) : t.latch = s.latch ∧ t.leaseEnd = s.leaseEnd :=
  Prod.mk.inj (congrArg Work.latch hw)

theorem rotation_congr {t : State} (hw : workOf t = workOf s) :
    (t.half h).flt.phase = (s.half h).flt.phase ∧ (t.half h).flt.testing = (s.half h).flt.testing :=
  Prod.mk.inj (congrFun (congrArg Work.rotation hw) h)

end Sys2Proof.Proofs
end

section
/-! Events of threads and cores (O24), of groups and paced groves (O25), and the charge latch (O26). -/

namespace Sys2Proof.Proofs

open Sys2Proof Sys2Proof.Machine

variable {s t : State} {h : HalfId} {k : CoreId}

/-- The better of a best one so far and another. -/
def better {α : Type} (lt : α → α → Prop) [DecidableRel lt] (best : Option α) (p : α) : Option α :=
  match best with
  | none => some p
  | some b => if lt p b then some p else best

/-- A walk that keeps the better one ends with a member, or the one it began with, that none goes before. -/
theorem foldl_better {α : Type} {lt : α → α → Prop} [DecidableRel lt] (hirr : ∀ x, ¬ lt x x) (hasymm : ∀ x y, lt x y → ¬ lt y x)
    (htrans : ∀ x y z, ¬ lt x y → ¬ lt y z → ¬ lt x z) {xs : List α} {best : Option α} {b : α} (hb : xs.foldl (better lt) best = some b) :
    (b ∈ xs ∨ best = some b) ∧ (∀ y ∈ xs, ¬ lt y b) ∧ ∀ c, best = some c → ¬ lt c b := by
  induction xs generalizing best with
  | nil => exact ⟨.inr hb, fun y hy => absurd hy List.not_mem_nil, fun c hc => by cases hb.symm.trans hc; exact hirr b⟩
  | cons x xs ih =>
    obtain ⟨hmem, hall, hbest⟩ := ih hb
    have hstep : better lt best x = some x ∨ (better lt best x = best ∧ ∃ c, best = some c ∧ ¬ lt x c) := by
      unfold better
      cases best with
      | none => exact .inl rfl
      | some c =>
        by_cases hlt : lt x c
        · exact .inl (if_pos hlt)
        · exact .inr ⟨if_neg hlt, c, rfl, hlt⟩
    obtain hnew | ⟨hold, c, hc, hxc⟩ := hstep
    · have hx : ¬ lt x b := hbest x hnew
      refine ⟨.inl ?_, fun y hy => ?_, fun c hc hcb => ?_⟩
      · rcases hmem with hm | hm
        · exact List.mem_cons_of_mem _ hm
        · cases hnew.symm.trans hm
          exact List.mem_cons_self
      · rcases List.mem_cons.mp hy with rfl | hy
        · exact hx
        · exact hall y hy
      · subst hc
        have hnot : ¬ lt c x := by
          intro hcx
          have hkeep : better lt (some c) x = some c := if_neg (hasymm c x hcx)
          have hsame : x = c := Option.some.inj (hnew.symm.trans hkeep)
          exact hirr c (hsame ▸ hcx)
        exact htrans c x b hnot hx hcb
    · refine ⟨?_, fun y hy => ?_, fun c' hc' => hbest c' (hold.trans hc')⟩
      · rcases hmem with hm | hm
        · exact .inl (List.mem_cons_of_mem _ hm)
        · exact .inr (hold.symm.trans hm)
      · rcases List.mem_cons.mp hy with rfl | hy
        · exact htrans y c b hxc (hbest c (hold.trans hc))
        · exact hall y hy

/-- A thread is dispatched before another (R201). -/
abbrev dispatchedBefore (p b : Nat × Thread) : Prop := p.2.prio < b.2.prio ∨ (p.2.prio = b.2.prio ∧ p.2.order < b.2.order)

/-- The thread that a core takes. -/
theorem dispatchOrder : DispatchOrder := by
  intro s k t ht
  obtain ⟨⟨n, x⟩, hfold, rfl⟩ := Option.map_eq_some_iff.mp ht
  have hbest : ((s.half k.half).fmn.threads.filter fun p => coreMayTake s k p.2).foldl (better dispatchedBefore) none = some (n, x) := by
    rw [← hfold]
    congr 1
    funext best p
    cases best
    · rfl
    · rfl
  obtain ⟨hmem, hall, -⟩ := foldl_better (lt := dispatchedBefore) (fun x => by simp only [dispatchedBefore]; omega) (fun x y => by simp only [dispatchedBefore]; omega)
    (fun x y z => by simp only [dispatchedBefore]; omega) hbest
  obtain ⟨hthread, htake⟩ := List.mem_filter.mp (hmem.resolve_right (by simp))
  refine ⟨x, hthread, htake, fun y hy hytake => ?_⟩
  have hnot := hall y (List.mem_filter.mpr ⟨hy, hytake⟩)
  simp only [dispatchedBefore] at hnot
  omega

/-- An interrupt is taken before another (R117). -/
abbrev takenBefore (i j : Nat × Word) : Prop := irqRank i.1 < irqRank j.1 ∨ (irqRank i.1 = irqRank j.1 ∧ i.1 < j.1)

/-- The interrupt that a core takes: when it takes any, and which (R114, R117). -/
theorem nextIrq_eq_some {c : Core} {i : Nat × Word} (hi : nextIrq c = some i) :
    i ∈ c.irqs ∧ c.swBit 20 = true ∧ c.swBit 23 = false ∧ c.level ≠ levelM ∧
      ∀ j ∈ c.irqs, (c.bankOn && irqRank j.1 == 0) = false → irqRank i.1 < irqRank j.1 ∨ (irqRank i.1 = irqRank j.1 ∧ i.1 ≤ j.1) := by
  unfold nextIrq at hi
  dsimp only at hi
  split at hi
  · cases hi
  next hmay =>
    simp only [Bool.or_eq_true, Bool.not_eq_true', decide_eq_true_eq, not_or, Bool.not_eq_false, Bool.not_eq_true] at hmay
    obtain ⟨⟨hie, hhold⟩, hlevel⟩ := hmay
    have hbest : (c.irqs.filter fun i => !(c.bankOn && irqRank i.1 == 0)).foldl (better takenBefore) none = some i := by
      rw [← hi]
      congr 1
      funext best p
      cases best
      · rfl
      · rfl
    obtain ⟨hmem, hall, -⟩ := foldl_better (lt := takenBefore) (fun x => by simp only [takenBefore]; omega)
      (fun x y => by simp only [takenBefore]; omega) (fun x y z => by simp only [takenBefore]; omega) hbest
    obtain ⟨hirq, -⟩ := List.mem_filter.mp (hmem.resolve_right (by simp))
    refine ⟨hirq, hie, hhold, hlevel, fun j hj hbank => ?_⟩
    have hnot := hall j (List.mem_filter.mpr ⟨hj, by rw [hbank]; rfl⟩)
    simp only [takenBefore] at hnot
    omega

/-- A command's work that no group holds. -/
theorem unitCmd_of_noHold {f : State → State} (hn : NoHold h s (f s)) : unitCmd h f s = f s := if_pos hn

/-- The Foreman's change to a thread leaves the cores. -/
theorem core_setThread {n : Nat} {x : Thread} : (s.setThread h n x).core k = s.core k := by
  have hcores : ((s.upd h fun y => { y with fmn := { y.fmn with threads := SMap.set threadDefault y.fmn.threads n x } }).half k.half).cores =
      (s.half k.half).cores := State.half_upd_proj s h k.half (fun x => x.cores) _ fun _ => rfl
  refine (core_congr workOf_writeThreadFields).trans ?_
  unfold State.core State.coreN
  rw [hcores]

/-- What the Foreman holds of the thread that it changes, which is FREE no more, and of another. -/
theorem thread_setThread {n : Nat} {x : Thread} (hx : x.state ≠ .free) : (s.setThread h n x).thread h n = x := by
  refine (thread_congr workOf_writeThreadFields).trans ?_
  unfold State.thread
  rw [State.half_upd_self]
  exact SMap.get_set_of_ne fun e => hx (by rw [e]; rfl)

theorem thread_setThread_ne {n m : Nat} {x : Thread} (hm : m ≠ n) : (s.setThread h n x).thread h m = s.thread h m := by
  refine (thread_congr workOf_writeThreadFields).trans ?_
  unfold State.thread
  rw [State.half_upd_self]
  exact SMap.get_set_ne hm

/-- Delivering events leaves what a core runs (R199). -/
theorem core_deliverEvents {n : Nat} {c : Core} (hc : s.core k = c) (hrun : c.run ≠ .held) :
    ((deliverEvents s k n).core k).thread = c.thread ∧ ((deliverEvents s k n).core k).run = c.run := by
  subst hc
  unfold deliverEvents
  dsimp only
  set u := State.setThread _ k.half n _ with hu
  have hcore : u.core k = s.core k := by
    refine core_setThread.trans ?_
    split
    · rfl
    · exact core_congr workOf_unitWrite
  rw [State.core_setCore_self u (by rw [hcore]; exact hrun), hcore]
  exact ⟨rfl, rfl⟩

/-- A core that a thread is loaded into runs it (R204). -/
theorem core_switchInto {n : Nat} : ((switchInto s k n).core k).thread = some n ∧ ((switchInto s k n).core k).run = .running := by
  unfold switchInto
  dsimp only
  set u := State.setCore _ k _
  refine core_deliverEvents (State.core_setCore_self _ ?_) ?_
  · exact CoreRun.noConfusion
  · exact CoreRun.noConfusion

/-- SWITCH_IN (R201). -/
theorem exec_switchIn {n : Nat} (hrun : (s.core k).run = .idle) (hen : s.flag k.half Reg.FMN_CTRL_EN = true)
    (htakes : groveTakes s k.half k.grove.val = true) (hwatch : s.inMode k.half .watch = false) (hpick : pickThread s k = some n)
    (hn : NoHold k.half s (switchInto s k n)) : exec (.switchIn k) s = .next (switchInto s k n) := by
  have hdue : (s.core k).run = .idle ∧ s.flag k.half Reg.FMN_CTRL_EN = true ∧ groveTakes s k.half k.grove.val = true ∧
      (!s.inMode k.half .watch) = true := ⟨hrun, hen, htakes, by rw [hwatch]; rfl⟩
  refine (if_pos hdue).trans ?_
  rw [hpick]
  exact congrArg _ (unitCmd_of_noHold (f := fun s => switchInto s k n) hn)

/-- INTERRUPT_ENTRY at a boundary (R114). -/
theorem exec_interruptEntry {i : Nat × Word} (hcan : canExecute s k = true)
    (hwait : ((s.half k.half).bom.outstanding.any fun o => o.core == some k.num) = false) (hremote : (s.core k).remote = [])
    (hpopped : (s.core k).popped = []) (hi : nextIrq (s.core k) = some i) :
    exec (.interruptEntry k) s = .next (traced k (takeIrq k s)) := by
  refine (if_pos ?_).trans ?_
  · rw [hcan, hwait, hremote, hpopped]
    rfl
  · unfold irqTraced
    rw [hi]
    rfl

/-- HOLD_OVERRUN (R126). -/
theorem exec_holdOverrun {n : Nat} (hcan : canExecute s k = true) (hpaced : isPaced s k = false) (hhold : (s.core k).swBit 23 = true)
    (hstart : (s.core k).holdStart = some n) :
    (256 ≤ s.elapsed - n → exec (.holdOverrun k) s = .next (traced k (takeTrap k 17 (holdCause (s.core k) 1) (s.core k).pcc s))) ∧
      (s.elapsed - n < 256 → exec (.holdOverrun k) s = .next s) := by
  have hspent : holdSpent s k = decide (256 ≤ s.elapsed - n) := by
    unfold holdSpent holdLimit
    rw [hpaced, hhold, hstart]
    rfl
  refine ⟨fun hle => if_pos ?_, fun hlt => if_neg ?_⟩
  · rw [hspent, hcan]
    simpa using hle
  · rw [hspent, hcan]
    simpa using hlt

/-- STEP_LIMIT (R202). -/
theorem exec_stepLimit {n : Nat} (hthread : (s.core k).thread = some n) (hrun : (s.core k).run = .running) (hraised : (s.core k).limitRaised = false)
    (hlim : s.fld k.half Reg.FMN_STEPLIM_LIMIT_US ≠ 0)
    (hlate : s.fld k.half Reg.FMN_STEPLIM_LIMIT_US * 1000 ≤ s.elapsed - (s.core k).stepStart) :
    exec (.stepLimit k) s = .next ((s.setCore k { s.core k with
      irqs := (s.core k).irqs ++ [(32, BitVec.ofNat 64 ((s.elapsed - (s.core k).stepStart) / 1000 % 2 ^ 32 * 2 ^ 32 + n))]
      limitRaised := true }).incFld k.half Reg.FMN_CNT_STEPLIM) := by
  change execStepLimit k s = _
  unfold execStepLimit
  dsimp only
  rw [hthread]
  exact if_pos ⟨hlim, hrun, by rw [hraised]; rfl, hlate⟩

/-- TIMER at its tick (R200). -/
theorem exec_timer {n : BitVec 17} {e : Nat} (htimer : (s.thread h n.toNat).timer = some e) (he : e ≤ s.elapsed / 1000 * 1000) :
    exec (.timer h n) s = .next (fmnEvent (s.upd h fun y => { y with fmn := { y.fmn with
      threads := SMap.set threadDefault y.fmn.threads n.toNat { s.thread h n.toNat with timer := none } } }) h n.toNat 3) := by
  change execTimer h n s = _
  unfold execTimer
  dsimp only
  rw [htimer]
  exact if_pos he

/-- Events of cores and of the timer wheel. -/
theorem coreEventResult : CoreEventResult := by
  intro k h s
  refine ⟨?_, ?_, ?_, ?_, ?_, ?_, ?_, ?_, ?_⟩
  · exact fun t hrun hen htakes hwatch hpick hn => ⟨exec_switchIn hrun hen htakes hwatch hpick hn, core_switchInto⟩
  · exact fun hrun => if_neg fun hdue => hrun hdue.1
  · exact fun i hcan hwait hremote hpopped hi => ⟨exec_interruptEntry hcan hwait hremote hpopped hi, nextIrq_eq_some hi⟩
  · exact fun t hcan hpaced hhold hstart => exec_holdOverrun hcan hpaced hhold hstart
  · intro hpaced
    refine if_neg ?_
    unfold holdSpent
    rw [hpaced]
    simp
  · intro late u v w hcan hpaced hu hv hw hn
    subst hu hv hw
    refine congrArg Host.Outcome.next ((if_pos ?_).trans (if_pos hn))
    rw [hcan, hpaced]
    rfl
  · exact fun t hthread hrun hraised hlim hlate => exec_stepLimit hthread hrun hraised hlim hlate
  · exact fun t e htimer he => exec_timer htimer he
  · intro t htimer
    change (execTimer h t s) = _
    unfold execTimer
    dsimp only
    rw [htimer]

/-- Events of threads (R198). -/
theorem threadEventResult : ThreadEventResult := by
  intro s h t src x hx hsrc
  subst hx
  refine ⟨fun hstate => if_pos hstate, fun hfree habort => ?_⟩
  have hnot : ¬ ((s.thread h t).state = .free ∨ (s.thread h t).state = .aborted) := by rintro (h | h) <;> contradiction
  set y : Thread := { s.thread h t with pend := (s.thread h t).pend ||| BitVec.ofNat 16 (2 ^ src) } with hy
  have hevent : fmnEvent s h t src = if y.state = .waiting ∧ y.pend &&& y.mask ≠ 0 then makeReady s h t y else s.setThread h t y := if_neg hnot
  have hyfree : y.state ≠ .free := hfree
  have hready : (makeReady s h t y).thread h t = { y with state := .ready, order := (s.half h).fmn.readyCount } :=
    thread_setThread (by simp)
  have hother (t' : Nat) (ht' : t' ≠ t) : (makeReady s h t y).thread h t' = s.thread h t' := by
    refine (thread_setThread_ne ht').trans ?_
    unfold State.thread
    rw [State.half_upd_self]
  rw [hevent]
  by_cases hwake : y.state = .waiting ∧ y.pend &&& y.mask ≠ 0
  · rw [if_pos hwake, hready]
    exact ⟨rfl, fun _ => rfl, fun hne => absurd hwake.1 hne, hother⟩
  · rw [if_neg hwake, thread_setThread hyfree]
    refine ⟨rfl, fun hw => absurd ⟨hw.1, fun h0 => ?_⟩ hwake, fun _ => rfl, fun t' ht' => thread_setThread_ne ht'⟩
    have hbit := congrArg (fun w : BitVec 16 => w.getLsbD src) h0
    have hset : y.pend.getLsbD src = true := by
      rw [hy]
      simp only [BitVec.getLsbD_or, BitVec.getLsbD_ofNat, Nat.testBit_two_pow_self, hsrc, decide_true, Bool.and_true, Bool.or_true]
    rw [BitVec.getLsbD_and, hset, hw.2] at hbit
    simp at hbit

/-- Settles O24: the order of dispatch, the events of cores and of threads. -/
theorem threadAndCoreEvents : Obligations.ThreadAndCoreEvents := ⟨dispatchOrder, coreEventResult, threadEventResult⟩

/-- Settles O25: drained groups, held accesses and paced copies. -/
theorem groupAndPacedEvents : Obligations.GroupAndPacedEvents := by
  intro h s
  refine ⟨fun g => ⟨fun hw => congrArg _ (if_neg (by rw [hw]; exact Bool.false_ne_true)), fun hw => congrArg _ (if_pos hw)⟩, rfl,
    fun g hl => congrArg _ (if_pos hl), fun g hl => congrArg _ (if_neg (by rw [hl]; exact Bool.false_ne_true))⟩

-- the charge latch

@[simp] theorem workOf_assumeRoot : workOf (assumeRoot s h) = workOf s := by
  have hname {n : Nat} : workOf (nameRoot s n) = workOf s := by
    refine workOf_foldl (fun s x => ?_) _
    simp
  unfold assumeRoot
  split
  · rfl
  · simp [restartCounts, hname]

/-- Charge is taken: who holds the latch, and until when. -/
theorem latch_takeCharge : (takeCharge s h).latch = some h ∧ (takeCharge s h).leaseEnd = s.elapsed + leaseNs := by
  have hwork : workOf (takeCharge s h) = workOf { s with latch := some h, leaseEnd := s.elapsed + leaseNs } := by
    simp [takeCharge, endRecovery, updFlt]
  obtain ⟨hl, he⟩ := latch_congr hwork
  exact ⟨hl, he⟩

/-- A free latch is claimed. -/
theorem claimLatch_of_free (hl : s.latch = none) (hheld : (s.half h).wardenHeld = false) (hmode : (s.half h).mode ≠ .reset)
    (hfrozen : s.frozen = true → h = .east) : claimLatch s h = takeCharge s h := by
  unfold claimLatch
  rw [hl, hheld, if_neg]
  rintro (h | h | h | ⟨hf, hne⟩)
  · cases h
  · cases h
  · exact hmode h
  · exact hne (hfrozen hf)

/-- A latch that is held is not claimed. -/
theorem claimLatch_of_held (hl : s.latch.isSome = true) : claimLatch s h = s := if_pos (.inl hl)

/-- Settles O26: the charge latch's events. -/
theorem latchResult : Obligations.LatchResult := by
  intro h s
  refine ⟨?_, ?_, ?_, ?_, ?_, ?_, ?_, ?_⟩
  · intro hl hheld hmode hfrozen
    exact ⟨congrArg _ (claimLatch_of_free hl hheld hmode hfrozen), latch_takeCharge⟩
  · intro hl hheld hmode
    refine congrArg Host.Outcome.next ((if_pos rfl).trans ?_)
    rw [claimLatch_of_free (h := .east) hl hheld hmode fun _ => rfl]
    exact claimLatch_of_held (by rw [latch_takeCharge.1]; rfl)
  · intro k both hl
    have hk (h : HalfId) : claimLatch s h = s := claimLatch_of_held (by rw [hl]; rfl)
    refine congrArg Host.Outcome.next ?_
    split
    · rw [hk, hk]
    · exact hk h
  · intro hl hheld hmode
    have hnot : ¬ ((s.half h).wardenHeld = true ∨ (s.half h).mode = .reset) := by
      rw [hheld]
      rintro (h | h)
      · cases h
      · exact hmode h
    exact congrArg Host.Outcome.next ((if_neg hnot).trans (if_pos hl))
  · intro hl hheld hmode
    have hnot : ¬ ((s.half h).wardenHeld = true ∨ (s.half h).mode = .reset) := by
      rw [hheld]
      rintro (h | h)
      · cases h
      · exact hmode h
    refine congrArg Host.Outcome.next ((if_neg hnot).trans ((if_neg hl).trans ?_))
    unfold demote
    cases hactive : (s.half h).wardenActive with
    | false => exact if_pos (.inl rfl)
    | true => exact (if_neg (by rintro (h | h); exacts [absurd h (by decide), hl h])).trans (if_pos rfl).symm
  · intro hl hfrozen
    refine ⟨congrArg Host.Outcome.next ((if_pos ⟨hl, by rw [hfrozen]; rfl⟩).trans (if_neg ?_)), fun hlease => ?_⟩
    · have hf : (s.upd h fun x => { x with wardenActive := false }).frozen = s.frozen := by cases h <;> rfl
      rw [hf, hfrozen]
      exact Bool.false_ne_true
    · refine congrArg Host.Outcome.next ((if_pos ⟨by rw [hl]; rfl, hlease⟩).trans (if_neg ?_))
      rw [hfrozen]
      exact Bool.false_ne_true
  · intro hfrozen
    refine ⟨congrArg Host.Outcome.next (if_neg fun h => ?_), congrArg Host.Outcome.next ?_⟩
    · rw [hfrozen] at h
      exact Bool.false_ne_true h.2
    · split
      · exact if_pos hfrozen
      · rfl
  · intro hlease
    exact congrArg Host.Outcome.next (if_neg fun h => absurd h.2 (by omega))

end Sys2Proof.Proofs
end

section
/-! The spare grove and the tests in rotation (O27), and detected faults, retests and scrubs (O28). -/

namespace Sys2Proof.Proofs

open Sys2Proof Sys2Proof.Machine

variable {s t : State} {h : HalfId} {g : Fin 17}

/-- A failed grove's work is taken over (R365, R366). -/
theorem takeoverResult : TakeoverResult := by
  intro h g bad s t hrec htake hroom ht
  have hexec : exec (.groveTakeover h g bad) s =
      if g.val = 16 then
        .next (if (s.half h).flt.phase != .off then
          record (endRecovery t h .grove 16) h { code := 0x33, region := 0, index := 16, outcome := 1 } else endRecovery t h .grove 16)
      else if t.flag h (Reg.GRV_MODE_PACED.grove g.val) then
        .next (updFlt t h fun x => { x with takeover := some g.val, taken := (groveThreads s h g.val).map (·.2) })
      else .next (finishTakeover t h g.val 0) := by
    subst ht
    refine (if_neg ?_).trans (if_neg (by omega))
    rw [hrec]
    rintro (h | h)
    · cases h
    · exact htake h
  refine ⟨fun hg hp => ?_, fun hg hp => ?_, fun hg => ?_⟩
  · rw [hexec, if_neg hg, hp]
    rfl
  · rw [hexec, if_neg hg, if_pos hp]
  · rw [hexec, if_pos hg]
    simp only [bne_iff_ne, ne_eq]

/-- A paced grove's areas have been copied. -/
theorem pacedAreaResult : PacedAreaResult := by
  intro h g fromStore s t a n htake ha hn ht
  subst ha hn ht
  exact if_neg (not_not.mpr htake)

/-- The test of a grove ends (R363). -/
theorem exec_selfTestComplete {x : Flt} {u : State} {p : RotPhase} (hx : x = (s.half h).flt) (hphase : x.phase = .test) (hmem : g.val ∈ x.testing)
    (hstate : groveState s h g.val = 1) (ht : t = setGroveState s h g.val (testedState s h g.val))
    (hu : u = (if g.val < 16 then t.clearBit h Reg.FLT_ROT_POSTPONED g.val else t))
    (hp : p = (if x.testing.any (fun i => groveState u h i == 1) then .test else .ret)) (pass : Bool) :
    exec (.selfTestComplete h g pass) s = .next (updateGuar
      (if pass then updFlt u h fun y => { y with
        phase := p
        tested := if pass then SMap.set (fun _ => 0) y.tested g.val (s.elapsed + 1) else y.tested
        testBad := if pass then y.testBad.del g.val else y.testBad.add g.val }
      else groveFault ((updFlt u h fun y => { y with
        phase := p
        tested := if pass then SMap.set (fun _ => 0) y.tested g.val (s.elapsed + 1) else y.tested
        testBad := if pass then y.testBad.del g.val else y.testBad.add g.val }).incFld h Reg.FLT_CNT1_TEST_FAIL) h g.val 0x03 0 false) h) := by
  subst hx ht hu hp
  have hdue : ¬ ((s.half h).flt.phase ≠ .test ∨ (!(s.half h).flt.testing.contains g.val) = true ∨ groveState s h g.val ≠ 1) := by
    rintro (h | h | h)
    · exact h hphase
    · simp [hmem] at h
    · exact h hstate
  have hlast (u : State) (gs : List Nat) : (if (gs.all fun g => groveState u h g != 1) = true then RotPhase.ret else .test) =
      if (gs.any fun i => groveState u h i == 1) = true then .test else .ret := by
    have hnot : (gs.all fun g => groveState u h g != 1) = !(gs.any fun i => groveState u h i == 1) := by
      rw [List.not_any_eq_all_not]
      rfl
    rw [hnot]
    cases gs.any fun i => groveState u h i == 1
    · rfl
    · rfl
  change execSelfTestComplete h g pass s = _
  unfold execSelfTestComplete
  dsimp only
  have helapsed : (if g.val < 16 then (setGroveState s h g.val (testedState s h g.val)).clearBit h Reg.FLT_ROT_POSTPONED g.val
      else setGroveState s h g.val (testedState s h g.val)).elapsed = s.elapsed := by
    split
    all_goals simp [setGroveState]
  rw [if_neg hdue, hlast, helapsed]

@[simp] theorem workOf_noteLate {n : Nat} : workOf (noteLate h s n) = workOf s := by simp [noteLate, updFlt]

/-- The return phase ends, and no grove is tested (R363). -/
theorem exec_returnEnd (hphase : (s.half h).flt.phase ≠ .off) :
    ∃ t, exec (.returnEnd h) s = .next t ∧ (t.half h).flt.phase = .off ∧ (t.half h).flt.testing = [] := by
  change ∃ t, execReturnEnd h s = .next t ∧ _
  unfold execReturnEnd
  dsimp only
  rw [if_neg hphase]
  refine ⟨_, rfl, ?_⟩
  generalize hu : updFlt _ h (fun x => { x with phase := .off, testing := [] }) = u
  have hoff : (u.half h).flt.phase = .off ∧ (u.half h).flt.testing = [] := by
    subst hu
    unfold updFlt
    rw [State.half_upd_self]
    exact ⟨rfl, rfl⟩
  have hlate : workOf ((lateGroves u h).foldl (noteLate h) u) = workOf u := workOf_foldl (fun s n => workOf_noteLate) _
  obtain ⟨hp, htest⟩ := rotation_congr (h := h) (s := u) (t := updateGuar (if u.fld h Reg.FLT_ROT_WINDOW = 7 then
      ((lateGroves u h).foldl (noteLate h) u).setFld h Reg.FLT_ROT_POSTPONED 0 else u) h) (by
    rw [workOf_updateGuar, workOf_ite, workOf_setFld, hlate, ite_self])
  exact ⟨hp.trans hoff.1, htest.trans hoff.2⟩

/-- The rotation of tests (R362–R364). -/
theorem rotationResult : RotationResult := by
  intro h s x hx
  refine ⟨?_, ?_, ?_, ?_, ?_⟩
  · intro gs t hfree hwin hgs ht
    subst hx hgs ht
    have hdue : ¬ ((!windowFree s h) = true ∨ s.fld h Reg.FLT_ROT_WINDOW = 15) := by
      rw [hfree]
      rintro (h | h)
      · cases h
      · exact hwin h
    change (_ → execRotationWindow h s = _) ∧ (∀ g, _ → _ → execRotationWindow h s = _)
    unfold execRotationWindow
    dsimp only
    rw [if_neg hdue]
    cases (windowGroves s h (s.half h).flt.next).filter fun g => !fenced s h g with
    | nil => exact ⟨fun _ => rfl, fun g hg => nomatch hg⟩
    | cons g gs =>
      dsimp only
      refine ⟨fun h16 => congrArg _ (if_pos ?_), fun g' hg' hne => congrArg _ ?_⟩
      · rcases h16 with h16 | h16
        · cases h16
        · exact Option.some.inj h16
      · cases hg'
        exact if_neg hne
  · intro p hfree hwin hp hfenced
    subst hx hp
    have hdue : ¬ ((!windowFree s h) = true ∨ s.fld h Reg.FLT_ROT_WINDOW ≠ 15) := by
      rw [hfree]
      rintro (h | h)
      · cases h
      · exact h hwin
    have hstill (f : Flt → Flt) (p : Nat) : fenced (updFlt s h f) h p = fenced s h p := by
      cases h
      · rfl
      · rfl
    refine (if_neg hdue).trans (congrArg Host.Outcome.next ?_)
    rw [hstill, hfenced, if_neg Bool.false_ne_true]
    cases h
    · rfl
    · rfl
  · intro hphase
    subst hx
    exact if_neg (not_not.mpr hphase)
  · intro g t u p hphase hmem hstate ht hu hp
    exact ⟨exec_selfTestComplete hx hphase hmem hstate ht hu hp true, exec_selfTestComplete hx hphase hmem hstate ht hu hp false⟩
  · intro hphase
    subst hx
    exact exec_returnEnd hphase

/-- Settles O27: the takeover, the copy of a paced grove's areas and the rotation of tests. -/
theorem groveTakeoverResult : Obligations.GroveTakeoverResult := ⟨takeoverResult, pacedAreaResult, rotationResult⟩

/-- Faults that are detected. -/
theorem faultDetectionResult : FaultDetectionResult := by
  intro h s
  refine ⟨fun hmode => ?_, ?_, ?_⟩
  · have hout : ¬ s.inMode h .reset = true := by rw [hmode]; exact Bool.false_ne_true
    exact ⟨fun r i => congrArg _ (if_neg hout), fun r i w => congrArg _ (if_neg hout), if_neg hout, if_neg hout, if_neg hout⟩
  · intro t u v w keep hup hmode hkeep ht hu hv hw
    subst hkeep ht hu hv hw
    have hdue : ¬ ((!s.seamUp) = true ∨ s.east.mode = .reset) := by
      rw [hup]
      rintro (h | h)
      · cases h
      · exact hmode h
    refine (if_neg hdue).trans ?_
    simp only [Bool.and_eq_true, Option.isNone_iff_eq_none]
  · intro hmode htime t ht
    subst ht
    have hup : ¬ s.timeFailed = true := by rw [htime]; exact Bool.false_ne_true
    exact congrArg Host.Outcome.next ((if_neg hmode).trans (if_neg hup))

/-- Retests, and what scrubbers find. -/
theorem scrubAndRetestResult : ScrubAndRetestResult := by
  intro h s
  refine ⟨?_, ?_, ?_, ?_, ?_, ?_, ?_⟩
  · intro t hbusy
    have hdue : ¬ (!s.flag h Reg.FLT_RETEST_BUSY) = true := by rw [hbusy]; exact Bool.false_ne_true
    exact ⟨fun ht => by subst ht; exact if_neg hdue, fun ht => by subst ht; exact if_neg hdue⟩
  · intro a b f hplace
    refine congrArg Host.Outcome.next ?_
    dsimp only
    rw [hplace]
  · intro a b f hplace
    refine ⟨congrArg Host.Outcome.next ?_, fun hheld => congrArg Host.Outcome.next ?_⟩
    · dsimp only
      rw [hplace]
    · have hsram : inSram (s.half h).mem (b / 16) = true := by
        have hline : b / 16 / 4 = b / 64 := by omega
        simp [inSram, hline, hheld]
      dsimp only
      rw [hplace]
      exact if_pos hsram
  · exact fun a f => rfl
  · intro a hmode
    have hout : ¬ s.inMode h .reset = true := by rw [hmode]; exact Bool.false_ne_true
    exact ⟨congrArg Host.Outcome.next (if_neg hout), congrArg Host.Outcome.next (if_neg hout), congrArg Host.Outcome.next (if_neg hout)⟩
  · intro store t ht
    subst ht
    change execScrubLate h store s = _
    unfold execScrubLate
    dsimp only
    rw [apply_ite Prod.fst, apply_ite Prod.snd]
  · intro line e1 e2 t ht
    subst ht
    rfl

/-- Settles O28: detected faults, retests and scrubs. -/
theorem faultAndScrubResult : Obligations.FaultAndScrubResult := ⟨faultDetectionResult, scrubAndRetestResult⟩

end Sys2Proof.Proofs
end

section
/-! The Ethernet statement (O29) fails in its clause on PPS_IN: it asks every state, also one whose register list is not in canonical form, to
read back the word that the edge latches. -/

namespace Sys2Proof.Proofs

open Sys2Proof Sys2Proof.Machine

/-- A state at timebase 0 whose East register list holds TMB_PPSIN twice, which no run from reset reaches (`stepKeepsCanonical`). -/
def doubledPpsIn : State :=
  { State.reset with east := { State.reset.east with regs := [(0xB0020, 1), (0xB0020, 2)] } }

/-- The edge's time, 0, takes the first of the two entries away, and the register reads as the second. -/
theorem reg_ppsIn_doubledPpsIn : ∃ t, exec .ppsIn doubledPpsIn = .next t ∧ t.reg .east 0x0B 0x20 = 2 ∧ doubledPpsIn.timebase = 0 :=
  ⟨_, rfl, by decide +kernel, rfl⟩

/-- Refutes O29: in a state that is not canonical, PPS_IN at timebase 0 leaves TMB_PPSIN reading 2. -/
theorem not_ethernetResult : ¬ Obligations.EthernetResult := by
  rintro ⟨-, -, -, hpps⟩
  obtain ⟨⟨t, ht, hreg⟩, -⟩ := hpps doubledPpsIn
  obtain ⟨u, hu, h2, h0⟩ := reg_ppsIn_doubledPpsIn
  cases ht.symm.trans hu
  have hbad := (h2.symm.trans (hreg .east).1).trans h0
  exact absurd hbad (by decide)

end Sys2Proof.Proofs
end

section
/-! Flume's sessions: landed frames, cold sessions and timers (O30). -/

namespace Sys2Proof.Proofs

open Sys2Proof Sys2Proof.Machine

variable {s w : State} {h : HalfId} {n : Nat}

/-- A command's work that changes nothing holds nothing. -/
theorem unitCmd_of_eq_self {f : State → State} (hf : f s = s) : unitCmd h f s = s :=
  (unitCmd_of_noHold (congrArg (fun t : State => (t.half h).bnd.holds) hf)).trans hf

/-- A command's work with a known outcome that no group holds. -/
theorem unitCmd_eq {f : State → State} {u : State} (hf : f s = u) (hn : NoHold h s u) : unitCmd h f s = u :=
  (unitCmd_of_noHold (hf ▸ hn)).trans hf

/-- Work for a session runs on the state that its fetch leaves. -/
theorem withHot_of_fetched {f : State → State} (hw : fetched s h n = some w) : withHot s h n f = some (f w) := by
  unfold fetched at hw
  unfold withHot
  by_cases hhot : (session s h n).hot = true
  · rw [if_pos hhot] at hw ⊢
    rw [Option.some.inj hw]
  · rw [if_neg hhot] at hw ⊢
    rw [hw]
    rfl

/-- A session's expiry is its work on the fetched state. -/
theorem sessionTimer_of_fetched {f : State → State} {u : State} (hw : fetched s h n = some w) (hf : f w = u) (hn : NoHold h s u) :
    sessionTimer s h n f = .next u :=
  congrArg Host.Outcome.next (unitCmd_eq (by rw [withHot_of_fetched hw]; exact hf) hn)

/-- A time that a session's timer is set to and the wheel has reached does not keep the timer back. -/
theorem timer_due {o : Option Nat} {at_ : Nat} (ho : o = some at_) (hdue : wheelDue s at_ = true) :
    (!(o.map (wheelDue s ·)).getD false) = false := by
  rw [ho]
  exact congrArg not hdue

/-- The retransmission timer of a session runs its expiry. -/
theorem exec_retransmissionTimeout {n : BitVec 16} {t : Tcb} {at_ : Nat} (hstill : timersStill s h = false)
    (ht : (session s h n.toNat).tcb = some t) (hat : t.rtoAt = some at_) (hdue : wheelDue s at_ = true) :
    exec (.retransmissionTimeout h n) s = sessionTimer s h n.toNat (retransmit h n.toNat) := by
  change execRetransmissionTimeout h n s = _
  unfold execRetransmissionTimeout
  rw [ht]
  exact if_neg (by rw [hstill, timer_due hat hdue]; decide)

/-- The acknowledgement timer of a session runs its expiry. -/
theorem exec_delayedAckTimeout {n : BitVec 16} {t : Tcb} {at_ : Nat} (hstill : timersStill s h = false)
    (ht : (session s h n.toNat).tcb = some t) (hat : t.ackAt = some at_) (hdue : wheelDue s at_ = true) :
    exec (.delayedAckTimeout h n) s = sessionTimer s h n.toNat (delayedAck h n.toNat) := by
  change execDelayedAckTimeout h n s = _
  unfold execDelayedAckTimeout
  rw [ht]
  exact if_neg (by rw [hstill, timer_due hat hdue]; decide)

/-- The keepalive timer of a session that is open or closing runs its expiry. -/
theorem exec_keepaliveTimeout {n : BitVec 16} {t : Tcb} {at_ : Nat} (hstill : timersStill s h = false)
    (ht : (session s h n.toNat).tcb = some t) (hst : (session s h n.toNat).state = .opened ∨ (session s h n.toNat).state = .closing)
    (hat : t.kaAt = some at_) (hdue : wheelDue s at_ = true) :
    exec (.keepaliveTimeout h n) s = sessionTimer s h n.toNat (keepAlive h n.toNat) := by
  have hopen : (!((session s h n.toNat).state == .opened || (session s h n.toNat).state == .closing)) = false := by
    rcases hst with hst | hst <;> rw [hst] <;> decide
  change execKeepaliveTimeout h n s = _
  unfold execKeepaliveTimeout
  dsimp only
  rw [ht]
  exact if_neg (by rw [hstill, timer_due hat hdue, hopen]; decide)

/-- The idle timer of an open UDP session closes it. -/
theorem exec_udpIdleTimeout {n : BitVec 16} (hstill : timersStill s h = false) (hst : (session s h n.toNat).state = .opened)
    (hproto : (session s h n.toNat).proto = 17) (hka : (session s h n.toNat).kaS ≠ 0)
    (hdue : wheelDue s ((session s h n.toNat).lastRx +
      (session s h n.toNat).kaS * ((session s h n.toNat).kaProbes + 1) * 1000000000) = true) :
    exec (.udpIdleTimeout h n) s =
      sessionTimer s h n.toNat fun s => mirrorUpdate (closeSession s h n.toNat 0x04 false false) h n.toNat := by
  obtain ⟨hsw, hwk⟩ := Bool.or_eq_false_iff.mp hstill
  obtain ⟨-, hwatch⟩ := Bool.or_eq_false_iff.mp hsw
  exact if_neg (by simp [hwatch, hwk, hst, hproto, hka, hdue])

-- what the retransmission timer does (R229, R234)

/-- The oldest segment goes again, or a closed window is probed, while retries are left. -/
theorem retransmit_again {t : Tcb} {g : Seg} {r : List Seg} (ht : (session w h n).tcb = some t) (hq : t.outq = g :: r)
    (hsyn : ¬ (g.syn && decide (w.fld h Reg.FLM_TCP_SYN_RETRIES + 1 ≤ g.sends)) = true)
    (hdata : ¬ (!g.syn && decide (w.fld h Reg.FLM_TCP_RETRIES + 1 ≤ (if t.sndWnd = 0 then t.probes else g.sends))) = true) :
    retransmit h n w = timerSends w h n (if !g.syn && t.sndWnd = 0 then t.probe w.elapsed else t.timeout w.elapsed) := by
  unfold retransmit
  dsimp only
  rw [ht]
  dsimp only
  rw [hq]
  dsimp only
  rw [if_neg hsyn, if_neg hdata]
  rfl

/-- An opening that has had its retries closes the session. -/
theorem retransmit_syn_over {t : Tcb} {g : Seg} {r : List Seg} (ht : (session w h n).tcb = some t) (hq : t.outq = g :: r)
    (hsyn : g.syn = true) (hover : w.fld h Reg.FLM_TCP_SYN_RETRIES < g.sends) :
    retransmit h n w = mirrorUpdate (closeSession w h n 0x07 false false) h n := by
  unfold retransmit
  dsimp only
  rw [ht]
  dsimp only
  rw [hq]
  dsimp only
  exact if_pos (by rw [hsyn]; exact decide_eq_true hover)

/-- Data that has had its retries closes the session. -/
theorem retransmit_data_over {t : Tcb} {g : Seg} {r : List Seg} (ht : (session w h n).tcb = some t) (hq : t.outq = g :: r)
    (hsyn : g.syn = false) (hover : w.fld h Reg.FLM_TCP_RETRIES < (if t.sndWnd = 0 then t.probes else g.sends))
    (hst : (session w h n).state ≠ .closed) :
    retransmit h n w = mirrorUpdate (closeSession w h n 0x03 false false) h n := by
  unfold retransmit
  dsimp only
  rw [ht]
  dsimp only
  rw [hq]
  dsimp only
  rw [if_neg (by rw [hsyn]; exact Bool.false_ne_true), if_pos (by rw [hsyn]; exact decide_eq_true hover), if_neg hst]

/-- With nothing outstanding and something unsent, one new byte probes the window. -/
theorem retransmit_new_byte {t : Tcb} {b : Byte} {r : List Byte} (ht : (session w h n).tcb = some t) (hq : t.outq = [])
    (hun : t.unsent = b :: r) {g : Seg} (hg : g = ⟨t.sndNxt, [b], false, false, 1, w.elapsed, false⟩) {t' : Tcb}
    (ht' : t' = { t with sndNxt := sqAdd t.sndNxt 1, unsent := r, outq := [g], rtoAt := some (w.elapsed + t.rto), probes := 1 }) :
    retransmit h n w = timerSends w h n (t', [g.out t' true]) := by
  subst ht' hg
  unfold retransmit
  dsimp only
  rw [ht]
  dsimp only
  rw [hq]
  dsimp only
  rw [hun]
  rfl

/-- With nothing to send, the timer is off. -/
theorem retransmit_nothing {t : Tcb} (ht : (session w h n).tcb = some t) (hq : t.outq = []) (hun : t.unsent = []) :
    retransmit h n w = setTcb w h n { t with rtoAt := none } := by
  unfold retransmit
  dsimp only
  rw [ht]
  dsimp only
  rw [hq]
  dsimp only
  rw [hun]

/-- The waiting acknowledgement goes out. -/
theorem delayedAck_of_tcb {t : Tcb} (ht : (session w h n).tcb = some t) :
    delayedAck h n w = mirrorUpdate (sendSegs w h n [ackSeg t]) h n := by
  unfold delayedAck
  rw [ht]

/-- Keepalive closes the session after its probes. -/
theorem keepAlive_over {t : Tcb} (ht : (session w h n).tcb = some t) (hk : (session w h n).kaProbes ≤ t.kaSent) :
    keepAlive h n w = mirrorUpdate (closeSession w h n 0x04 false false) h n := by
  unfold keepAlive
  dsimp only
  rw [ht]
  exact if_pos hk

/-- Keepalive sends a probe while it has some left. -/
theorem keepAlive_probe {t t' : Tcb} (ht : (session w h n).tcb = some t) (hk : t.kaSent < (session w h n).kaProbes)
    (ht' : t' = { t with kaSent := t.kaSent + 1, kaAt := some (w.elapsed + w.fld h Reg.FLM_TCP_KA_INTVL_S * 1000000000) }) :
    keepAlive h n w = timerSends w h n (t', [{ ackSeg t' with seq := sqSub t'.sndNxt 1 }]) := by
  subst ht'
  unfold keepAlive
  dsimp only
  rw [ht]
  exact if_neg (Nat.not_le.mpr hk)

/-- The timers of a session (R226, R229, R230, R234). -/
theorem sessionTimersResult : SessionTimersResult := by
  rintro h n s w x y rfl hw rfl hstill
  refine ⟨fun t t0 at_ hx hat hdue hy => ⟨fun g r u hq => ⟨?_, ?_, ?_, ?_, ?_⟩, ?_, ?_⟩, ?_, ?_, ?_⟩
  · intro hsyn hle hu hn
    refine (exec_retransmissionTimeout hstill hx hat hdue).trans (sessionTimer_of_fetched hw ?_ hn)
    rw [retransmit_again hy hq (by simp; omega) (by simp [hsyn]), hu, hsyn]
    rfl
  · intro hsyn hwnd hle hu hn
    refine (exec_retransmissionTimeout hstill hx hat hdue).trans (sessionTimer_of_fetched hw ?_ hn)
    rw [retransmit_again hy hq (by simp [hsyn]) (by simp [hwnd]; omega), hu, if_neg (by simp [hwnd])]
  · intro hsyn hwnd hle hu hn
    refine (exec_retransmissionTimeout hstill hx hat hdue).trans (sessionTimer_of_fetched hw ?_ hn)
    rw [retransmit_again hy hq (by simp [hsyn]) (by simp [hwnd]; omega), hu, if_pos (by simp [hwnd, hsyn])]
  · intro hsyn hlt hu hn
    exact (exec_retransmissionTimeout hstill hx hat hdue).trans
      (sessionTimer_of_fetched hw ((retransmit_syn_over hy hq hsyn hlt).trans hu.symm) hn)
  · intro hsyn hlt hst hu hn
    exact (exec_retransmissionTimeout hstill hx hat hdue).trans
      (sessionTimer_of_fetched hw ((retransmit_data_over hy hq hsyn hlt hst).trans hu.symm) hn)
  · intro b r g u hq hun hg t' ht' hu hn
    exact (exec_retransmissionTimeout hstill hx hat hdue).trans
      (sessionTimer_of_fetched hw ((retransmit_new_byte hy hq hun hg ht').trans hu.symm) hn)
  · intro u hq hun hu hn
    exact (exec_retransmissionTimeout hstill hx hat hdue).trans
      (sessionTimer_of_fetched hw ((retransmit_nothing hy hq hun).trans hu.symm) hn)
  · intro t t0 at_ u hx hat hdue hy hu hn
    exact (exec_delayedAckTimeout hstill hx hat hdue).trans
      (sessionTimer_of_fetched hw ((delayedAck_of_tcb hy).trans hu.symm) hn)
  · intro t t0 at_ u hx hst hat hdue hy
    refine ⟨fun hk hu hn => ?_, fun t' hk ht' hu hn => ?_⟩
    · exact (exec_keepaliveTimeout hstill hx hst hat hdue).trans
        (sessionTimer_of_fetched hw ((keepAlive_over hy hk).trans hu.symm) hn)
    · exact (exec_keepaliveTimeout hstill hx hst hat hdue).trans
        (sessionTimer_of_fetched hw ((keepAlive_probe hy hk ht').trans hu.symm) hn)
  · intro u hst hproto hka hdue hu hn
    exact (exec_udpIdleTimeout hstill hst hproto hka hdue).trans (sessionTimer_of_fetched hw hu.symm hn)

/-- Landed frames, cold sessions and fragments (R222, R224, R232). -/
theorem sessionLookupResult : SessionLookupResult := by
  refine fun h s => ⟨fun f r hl => ⟨fun hsafe => ?_, fun hsafe hen => ?_⟩, ?_, ?_, ?_, ?_⟩
  · change execFlumeSessionLookup h s = _
    unfold execFlumeSessionLookup
    dsimp only
    rw [if_pos hsafe, hl]
  · change execFlumeSessionLookup h s = _
    unfold execFlumeSessionLookup
    dsimp only
    rw [if_neg (by rw [hsafe]; decide), if_pos (by rw [hen]; rfl), hl]
  · intro l f t hsafe hen hl hft r u hr hu hn
    change execFlumeSessionLookup h s = _
    unfold execFlumeSessionLookup
    dsimp only
    rw [if_neg (by rw [hsafe]; decide), if_neg (by rw [hen]; decide)]
    refine congrArg Host.Outcome.next (unitCmd_eq ?_ hn)
    rw [← hl, hft, hu, hr]
  · intro l hsafe hen hl hft
    change execFlumeSessionLookup h s = _
    unfold execFlumeSessionLookup
    dsimp only
    rw [if_neg (by rw [hsafe]; decide), if_neg (by rw [hen]; decide)]
    refine congrArg Host.Outcome.next (unitCmd_of_eq_self ?_)
    rw [← hl, hft]
  · rintro n x t rfl hst hcold hf hn
    have hfetch : (if (session s h n.toNat).state = .free ∨ (session s h n.toNat).hot then s
        else unitCmd h (fun s => (fetchCold s h n.toNat).getD s) s) = t := by
      rw [if_neg (by rw [hcold]; simp [hst])]
      exact unitCmd_eq (by rw [hf]; rfl) hn
    have hexec : exec (.coldSessionFetch h n) s =
        .next (if commandWaits t h n.toNat then flmCommand t h (t.reg h 6 0x40) else t) := by
      change execColdSessionFetch h n s = _
      unfold execColdSessionFetch
      dsimp only
      rw [hfetch]
    exact ⟨fun hwait => hexec.trans (congrArg Host.Outcome.next (if_neg (by rw [hwait]; decide))),
      fun hwait => hexec.trans (congrArg Host.Outcome.next (if_pos hwait))⟩
  · rintro i c hc t hdue rfl
    change execReassemblyTimeout h i s = _
    unfold execReassemblyTimeout
    rw [hc]
    exact congrArg Host.Outcome.next (if_pos hdue)

/-- Settles O30, clause by clause: landed frames and cold sessions, then the timers. -/
theorem sessionResult : Obligations.SessionResult := ⟨sessionLookupResult, sessionTimersResult⟩

end Sys2Proof.Proofs
end

section
/-! Kiln: records, primitives and entropy (O31). -/

namespace Sys2Proof.Proofs

open Sys2Proof Sys2Proof.Machine

variable {s u : State} {h : HalfId} {n : BitVec 16}

-- inbound records (R246, R247)

/-- What Kiln does with a session's record once the session's keys have been read. -/
def openRecord (h : HalfId) (n : Nat) (r : RxRecord) (w : State) : State :=
  match (recordRead w h n r).1 with
  | .discard t => takeRecord t h r (recordRead w h n r).2
  | .deliver t ty sq plain =>
    match recDest (isDtls w h n) ty with
    | .badType => takeRecord (t.incFld h Reg.KLN_CNT_BAD_TYPE) h r (recordRead w h n r).2
    | .ring => if hringFull w h then w else takeRecord (notDiscarded (hringPut t h n ty sq plain) h n) h r (recordRead w h n r).2
    | .mill =>
      if !millAccepts w h || outHeld w h n then w
      else takeRecord (notDiscarded (updMil t h fun m =>
        { m with jobs := m.jobs ++ [.parse ⟨n, plainTimes (isDtls w h n) r plain, r.path⟩] }) h n) h r (recordRead w h n r).2

/-- RECORD_UNPROTECT opens the session's oldest record where Kiln is enabled and not zeroised. -/
theorem exec_recordUnprotect {r : RxRecord} (hr : (s.half h).kln.rxq.find? (·.session == n.toNat) = some r)
    (hz : s.flag h Reg.KLN_STAT_ZEROED = false) (hen : s.flag h Reg.KLN_CTRL_EN = true)
    (hu : openRecord h n.toNat r (readStore s h n.toNat) = u) (hn : NoHold h s u) :
    exec (.recordUnprotect h n) s = .next u := by
  refine Eq.trans ?_ (congrArg Host.Outcome.next (unitCmd_eq (f := fun s => openRecord h n.toNat r (readStore s h n.toNat)) hu hn))
  change execRecordUnprotect h n s = _
  unfold execRecordUnprotect
  dsimp only
  rw [hr]
  dsimp only
  rw [if_neg (by rw [hz]; decide), if_neg (by rw [hen]; decide)]
  rfl

/-- A record that fails its checks is discarded. -/
theorem openRecord_discard {m : Nat} {r : RxRecord} {w t : State} {rest : List Byte}
    (ho : recordRead w h m r = (.discard t, rest)) : openRecord h m r w = takeRecord t h r rest := by
  unfold openRecord
  rw [ho]

section
variable {m : Nat} {r : RxRecord} {w t : State} {rest : List Byte} {ty : Nat} {sq : Nat} {plain : List Byte}

/-- A record of no known content type is counted. -/
theorem openRecord_badType (ho : recordRead w h m r = (.deliver t ty sq plain, rest)) (hd : recDest (isDtls w h m) ty = .badType) :
    openRecord h m r w = takeRecord (t.incFld h Reg.KLN_CNT_BAD_TYPE) h r rest := by
  unfold openRecord
  rw [ho]
  dsimp only
  rw [hd]

/-- A handshake record goes to the handshake ring. -/
theorem openRecord_ring (ho : recordRead w h m r = (.deliver t ty sq plain, rest)) (hd : recDest (isDtls w h m) ty = .ring)
    (hfull : hringFull w h = false) :
    openRecord h m r w = takeRecord (notDiscarded (hringPut t h m ty sq plain) h m) h r rest := by
  unfold openRecord
  rw [ho]
  dsimp only
  rw [hd]
  exact if_neg (by rw [hfull]; decide)

/-- Application data goes to Mill. -/
theorem openRecord_mill (ho : recordRead w h m r = (.deliver t ty sq plain, rest)) (hd : recDest (isDtls w h m) ty = .mill)
    (hacc : millAccepts w h = true) (hheld : outHeld w h m = false) :
    openRecord h m r w = takeRecord (notDiscarded (updMil t h fun x =>
      { x with jobs := x.jobs ++ [.parse ⟨m, plainTimes (isDtls w h m) r plain, r.path⟩] }) h m) h r rest := by
  unfold openRecord
  rw [ho]
  dsimp only
  rw [hd]
  exact if_neg (by rw [hacc, hheld]; decide)

end

-- outbound records (R256, R442)

/-- A request leaves the transmit queue. -/
def dropTx (h : HalfId) (j : SendJob) (s : State) : State := updKln s h fun k => { k with txq := k.txq.erase j }

/-- What Kiln does with a session's outbound request. -/
def sealRecord (h : HalfId) (n : Nat) (j : SendJob) (s : State) : State :=
  if (sessKeys s h n).txFailed then endRequest (dropTx h j s) h j.src (secWord 0x03)
  else match (sessKeys s h n).tx with
  | some k =>
    match protect s h n k j.kupd j.data with
    | (some b, t) => flumeSubmit (dropTx h j t) h { j with data := b }
    | (none, t) => endRequest (dropTx h j t) h j.src (secWord 0x05)
  | none =>
    if isDtls s h n then flumeSubmit (dropTx h j (plainRecord s h n j.data).2) h { j with data := (plainRecord s h n j.data).1 }
    else endRequest (dropTx h j s) h j.src (secWord 0x03)

section
variable {j : SendJob}

/-- RECORD_PROTECT ends the request where Kiln is zeroised. -/
theorem exec_recordProtect_zeroed (hj : (s.half h).kln.txq.find? (·.session == n.toNat) = some j)
    (hz : s.flag h Reg.KLN_STAT_ZEROED = true) :
    exec (.recordProtect h n) s = .next (endRequest (dropTx h j s) h j.src (secWord 0x0D)) := by
  change execRecordProtect h n s = _
  unfold execRecordProtect
  dsimp only
  rw [hj]
  exact if_pos hz

/-- RECORD_PROTECT ends the request where Kiln is disabled. -/
theorem exec_recordProtect_disabled (hj : (s.half h).kln.txq.find? (·.session == n.toNat) = some j)
    (hz : s.flag h Reg.KLN_STAT_ZEROED = false) (hen : s.flag h Reg.KLN_CTRL_EN = false) :
    exec (.recordProtect h n) s = .next (endRequest (dropTx h j s) h j.src (statusOf 8 0x03)) := by
  change execRecordProtect h n s = _
  unfold execRecordProtect
  dsimp only
  rw [hj]
  exact (if_neg (by rw [hz]; decide)).trans (if_pos (by rw [hen]; decide))

/-- RECORD_PROTECT leaves the request of a silenced session. -/
theorem exec_recordProtect_silenced (hj : (s.half h).kln.txq.find? (·.session == n.toNat) = some j)
    (hz : s.flag h Reg.KLN_STAT_ZEROED = false) (hen : s.flag h Reg.KLN_CTRL_EN = true) (hsil : silenced s h n.toNat = true) :
    exec (.recordProtect h n) s = .next s := by
  change execRecordProtect h n s = _
  unfold execRecordProtect
  dsimp only
  rw [hj]
  exact (if_neg (by rw [hz]; decide)).trans ((if_neg (by rw [hen]; decide)).trans (if_pos hsil))

/-- RECORD_PROTECT protects the request of any other session. -/
theorem exec_recordProtect (hj : (s.half h).kln.txq.find? (·.session == n.toNat) = some j)
    (hz : s.flag h Reg.KLN_STAT_ZEROED = false) (hen : s.flag h Reg.KLN_CTRL_EN = true) (hsil : silenced s h n.toNat = false)
    (hu : sealRecord h n.toNat j s = u) (hn : NoHold h s u) :
    exec (.recordProtect h n) s = .next u := by
  refine Eq.trans ?_ (congrArg Host.Outcome.next (unitCmd_eq hu hn))
  change execRecordProtect h n s = _
  unfold execRecordProtect
  dsimp only
  rw [hj]
  dsimp only
  rw [if_neg (by rw [hz]; decide), if_neg (by rw [hen]; decide), if_neg (by rw [hsil]; decide)]
  rfl

variable {m : Nat} {k : DirKey} {b : List Byte} {t : State}

/-- A request goes out under the session's transmit key. -/
theorem sealRecord_key (hf : (sessKeys s h m).txFailed = false) (hk : (sessKeys s h m).tx = some k)
    (hp : protect s h m k j.kupd j.data = (some b, t)) :
    sealRecord h m j s = flumeSubmit (dropTx h j t) h { j with data := b } := by
  unfold sealRecord
  rw [if_neg (by rw [hf]; decide), hk]
  dsimp only
  rw [hp]

/-- A request ends where the numbers of its key are used up. -/
theorem sealRecord_limit (hf : (sessKeys s h m).txFailed = false) (hk : (sessKeys s h m).tx = some k)
    (hp : protect s h m k j.kupd j.data = (none, t)) :
    sealRecord h m j s = endRequest (dropTx h j t) h j.src (secWord 0x05) := by
  unfold sealRecord
  rw [if_neg (by rw [hf]; decide), hk]
  dsimp only
  rw [hp]

/-- A request ends where its key has failed, or there is none outside DTLS. -/
theorem sealRecord_no_key (hf : (sessKeys s h m).txFailed = true ∨ ((sessKeys s h m).tx = none ∧ isDtls s h m = false)) :
    sealRecord h m j s = endRequest (dropTx h j s) h j.src (secWord 0x03) := by
  unfold sealRecord
  by_cases hfail : (sessKeys s h m).txFailed = true
  · exact if_pos hfail
  · obtain ⟨hk, hd⟩ := hf.resolve_left hfail
    rw [if_neg hfail, hk]
    exact if_neg (by rw [hd]; decide)

/-- A DTLS request without a key goes out unprotected. -/
theorem sealRecord_plain (hf : (sessKeys s h m).txFailed = false) (hk : (sessKeys s h m).tx = none) (hd : isDtls s h m = true)
    (hp : plainRecord s h m j.data = (b, t)) :
    sealRecord h m j s = flumeSubmit (dropTx h j t) h { j with data := b } := by
  unfold sealRecord
  rw [if_neg (by rw [hf]; decide), hk]
  dsimp only
  rw [if_pos hd, hp]

end

/-- Records in and out (R246, R247, R256, R260, R442). -/
theorem recordResult : RecordResult := by
  refine fun h n s => ⟨?_, ?_⟩
  · rintro r w hr rfl
    refine ⟨fun hz => ?_, fun hz hen => ?_, fun hz hen => ⟨fun t rest ho hn => ?_, fun t rest ty sq plain u ho => ⟨?_, ?_, ?_⟩⟩⟩
    · change execRecordUnprotect h n s = _
      unfold execRecordUnprotect
      dsimp only
      rw [hr]
      exact if_pos hz
    · change execRecordUnprotect h n s = _
      unfold execRecordUnprotect
      dsimp only
      rw [hr]
      exact (if_neg (by rw [hz]; decide)).trans (if_pos (by rw [hen]; decide))
    · exact exec_recordUnprotect hr hz hen (openRecord_discard ho) hn
    · exact fun hd hu hn => exec_recordUnprotect hr hz hen ((openRecord_badType ho hd).trans hu.symm) hn
    · exact fun hd hfull hu hn => exec_recordUnprotect hr hz hen ((openRecord_ring ho hd hfull).trans hu.symm) hn
    · exact fun hd hacc hheld hu hn => exec_recordUnprotect hr hz hen ((openRecord_mill ho hd hacc hheld).trans hu.symm) hn
  · rintro j out hj rfl
    refine ⟨exec_recordProtect_zeroed hj, exec_recordProtect_disabled hj, fun hz hen => ⟨exec_recordProtect_silenced hj hz hen,
      fun hsil => ⟨fun k b t u hf hk hp hu => ?_, fun k t u hf hk hp hu => ?_, fun u hu hn hf => ?_, fun b t u hf hk hd hp hu => ?_⟩⟩⟩
    · exact exec_recordProtect hj hz hen hsil ((sealRecord_key hf hk hp).trans hu.symm)
    · exact exec_recordProtect hj hz hen hsil ((sealRecord_limit hf hk hp).trans hu.symm)
    · exact exec_recordProtect hj hz hen hsil ((sealRecord_no_key hf).trans hu.symm) hn
    · exact exec_recordProtect hj hz hen hsil ((sealRecord_plain hf hk hd hp).trans hu.symm)

-- primitives (R253)

section
variable {p : Prim} {op : Nat} {f : State → HalfId → Prim → Nat × State}

/-- A primitive's command carries out the next posted primitive of its OP. -/
theorem primCommand_of_op (hp : nextPrim s h = some p) (hop : p.op = op)
    (hu : u = skipBadOps (primPosted s h) (runPrim s h p (if primUndefined p then fun s _ _ => (secWord 0x0E, s) else f)) h)
    (hn : NoHold h s u) : primCommand h op f s = .next u := by
  refine congrArg Host.Outcome.next (unitCmd_eq ?_ hn)
  rw [hp, hu]
  exact if_neg (not_not.mpr hop)

/-- A primitive's command leaves a primitive of another OP. -/
theorem primCommand_of_ne (hp : nextPrim s h = some p) (hop : p.op ≠ op) : primCommand h op f s = .next s := by
  refine congrArg Host.Outcome.next (unitCmd_of_eq_self ?_)
  rw [hp]
  exact if_pos hop

end

/-- The command of each row is its primitive's, but that an INSTALL may wait. -/
theorem exec_primitive (hw : installWaits s h = false) : ∀ row ∈ primitives h, exec row.1 s = primCommand h row.2.1 row.2.2 s := by
  have hinstall : exec (.install h) s = primCommand h 10 primInstall s := if_neg (by rw [hw]; decide)
  intro row hrow
  simp only [primitives, List.mem_cons, List.not_mem_nil, or_false] at hrow
  rcases hrow with rfl | rfl | rfl | rfl | rfl | rfl | rfl | rfl | rfl | rfl | rfl
  pick_goal 10
  · exact hinstall
  all_goals rfl

/-- Where an INSTALL waits, the next primitive is one. -/
theorem op_of_installWaits {p : Prim} (hp : nextPrim s h = some p) (hw : installWaits s h = true) : p.op = 10 := by
  unfold installWaits at hw
  rw [hp] at hw
  simp only [Bool.and_eq_true, beq_iff_eq] at hw
  exact hw.1.1

/-- The command of every row but INSTALL is its primitive's. -/
theorem exec_primitive_of_ne : ∀ row ∈ primitives h, row.2.1 ≠ 10 → exec row.1 s = primCommand h row.2.1 row.2.2 s := by
  intro row hrow hne
  simp only [primitives, List.mem_cons, List.not_mem_nil, or_false] at hrow
  rcases hrow with rfl | rfl | rfl | rfl | rfl | rfl | rfl | rfl | rfl | rfl | rfl
  pick_goal 10
  · exact absurd rfl hne
  all_goals rfl

/-- The primitives (R232, R253). -/
theorem primitiveResult : PrimitiveResult := by
  refine fun h s p hp row hrow => ⟨fun hop hw t ht hn => ?_, fun hop => ?_, fun hw => if_pos hw⟩
  · exact (exec_primitive hw row hrow).trans (primCommand_of_op hp hop ht hn)
  · by_cases hw : installWaits s h = true
    · have hne : row.2.1 ≠ 10 := fun he => hop ((op_of_installWaits hp hw).trans he.symm)
      exact (exec_primitive_of_ne row hrow hne).trans (primCommand_of_ne hp hop)
    · exact (exec_primitive (Bool.not_eq_true _ ▸ hw) row hrow).trans (primCommand_of_ne hp hop)

/-- The entropy source and the DRBG (R259). -/
theorem entropyResult : EntropyResult := by
  refine fun h s => ⟨fun t ht => ht ▸ rfl, fun hd hdue => congrArg Host.Outcome.next (if_pos ?_)⟩
  rw [hd, Bool.true_and, Bool.or_eq_true, decide_eq_true_eq, decide_eq_true_eq]
  exact hdue

/-- Settles O31, clause by clause: records, primitives, entropy. -/
theorem kilnResult : Obligations.KilnResult := ⟨recordResult, primitiveResult, entropyResult⟩

end Sys2Proof.Proofs
end

section
/-! Mill and Scaler: parses, builds, jobs and period closes (O32). -/

namespace Sys2Proof.Proofs

open Sys2Proof Sys2Proof.Machine

variable {s u : State} {h : HalfId} {n : BitVec 16}

/-- The first frame request of a session is one of that session. -/
theorem session_of_firstBuild {m : Nat} {j : SendJob} (hj : firstBuild s h m = some j) : j.session = m := by
  obtain ⟨x, -, hx⟩ := List.exists_of_findSome?_eq_some hj
  cases x with
  | parse _ => cases hx
  | build i =>
    dsimp only at hx
    split at hx
    case isTrue hs =>
      cases hx
      exact hs
    case isFalse => cases hx

/-- MILL_PARSE_JOB on a parse that is the session's next job. -/
theorem exec_millParseJob {j : ParseJob} (hj : millNext s h n.toNat = some (.parse j)) :
    exec (.millParseJob h n) s =
      .next (if s.flag h Reg.MIL_CTRL_EN && scalerAccepts s h && !outHeld s h n.toNat then unitCmd h (fun s => parseJob s h j) s else s) := by
  change execMillParseJob h n s = _
  unfold execMillParseJob
  rw [hj]

section
variable {j : SendJob} (hj : firstBuild s h n.toNat = some j)
include hj

/-- FRAME_BUILD ends the request where Kiln is zeroised. -/
theorem exec_frameBuild_zeroed (hz : s.flag h Reg.KLN_STAT_ZEROED = true) :
    exec (.frameBuild h n) s = .next (endRequest (dropBuild s h j) h j.src (secWord 0x0D)) := by
  change execFrameBuild h n s = _
  unfold execFrameBuild
  dsimp only
  rw [hj]
  exact if_pos hz

variable (hz : s.flag h Reg.KLN_STAT_ZEROED = false)
include hz

/-- FRAME_BUILD ends the request where a unit is disabled. -/
theorem exec_frameBuild_disabled
    (hen : s.flag h Reg.MIL_CTRL_EN = false ∨ s.flag h Reg.KLN_CTRL_EN = false ∨ s.flag h Reg.FLM_CTRL_EN = false) :
    exec (.frameBuild h n) s = .next (endRequest (dropBuild s h j) h j.src (statusOf 8 0x03)) := by
  change execFrameBuild h n s = _
  unfold execFrameBuild
  dsimp only
  rw [hj]
  refine (if_neg (by rw [hz]; decide)).trans (if_pos ?_)
  simpa only [Bool.not_eq_true'] using hen

variable (hmil : s.flag h Reg.MIL_CTRL_EN = true) (hkln : s.flag h Reg.KLN_CTRL_EN = true) (hflm : s.flag h Reg.FLM_CTRL_EN = true)
include hmil hkln hflm

/-- FRAME_BUILD with every unit enabled. -/
theorem exec_frameBuild_enabled :
    exec (.frameBuild h n) s =
      if (session s h n.toNat).state ≠ .opened then .next (endRequest (dropBuild s h j) h j.src (statusOf 1 0x04))
      else if silenced s h n.toNat ∨ millNext s h n.toNat ≠ some (.build j) then .next s
      else .next (unitCmd h (fun s => (withHot s h n.toNat (buildJob h j)).getD s) s) := by
  change execFrameBuild h n s = _
  unfold execFrameBuild
  dsimp only
  rw [hj]
  exact (if_neg (by rw [hz]; decide)).trans (if_neg (by rw [hmil, hkln, hflm]; decide))

/-- FRAME_BUILD builds the request of an open session whose turn it is, on the state that the session's fetch leaves. -/
theorem exec_frameBuild_build {w : State} (hst : (session s h n.toNat).state = .opened) (hsil : silenced s h n.toNat = false)
    (hnext : millNext s h n.toNat = some (.build j)) (hw : fetched s h n.toNat = some w) (hu : buildJob h j w = u)
    (hn : NoHold h s u) : exec (.frameBuild h n) s = .next u := by
  rw [exec_frameBuild_enabled hj hz hmil hkln hflm, if_neg (not_not.mpr hst), if_neg (by simp [hsil, hnext])]
  exact sessionTimer_of_fetched hw hu hn

end

/-- What follows a build: the request ends, or its frame goes to Kiln. -/
def afterBuild (h : HalfId) (j : SendJob) (c : ParseCtx) : Except Nat (List Byte × List (BitVec 32)) × State → State
  | (.error e, v) => endRequest (dropBuild (v.incFld h Reg.MIL_CNT1_BUILD_FAIL) h j) h j.src (statusOf 1 e)
  | (.ok (f, vs), v) =>
    updKln (dropBuild (setParseCtx v h j.session { c with v := vs }) h j) h fun k => { k with txq := k.txq ++ [{ j with data := f }] }

/-- A build reads the session's binding, builds the frame and does what follows. (The kernel must not run `buildFrame`, whose fuel is a
large literal, while it compares the two sides: it stands as a variable where they are compared.) -/
theorem buildJob_eq {w t : State} {b : Option (List Byte)} {c : ParseCtx} {j : SendJob} (hb : readBinding w h j.session = (b, t))
    (hc : c = readyCtx (parseCtx t h j.session)) : buildJob h j w = afterBuild h j c (buildFrame t h b c j) := by
  refine (congrFun (congrFun (congrFun (?unfolded : buildJob = ?body) h) j) w).trans ?_
  case unfolded => delta buildJob; rfl
  generalize buildFrame = build
  dsimp only
  rw [hb, ← hc]
  rcases build t h b c j with ⟨_ | ⟨_, _⟩, _⟩ <;> rfl

/-- Mill's parses and builds (R220, R263, R273, R440). -/
theorem millResult : MillResult := by
  refine fun h n s => ⟨fun j hj => ⟨fun hen hacc hheld hn => ?_, fun hoff => ?_⟩, fun j hj => ?_, fun hnone => ?_, fun j hj => ?_⟩
  · rw [exec_millParseJob hj, if_pos (by rw [hen, hacc, hheld]; rfl)]
    exact congrArg Host.Outcome.next (unitCmd_of_noHold hn)
  · rw [exec_millParseJob hj, if_neg]
    rcases hoff with hoff | hoff | hoff <;> simp [hoff]
  · change execMillParseJob h n s = _
    unfold execMillParseJob
    rw [hj]
  · change execFrameBuild h n s = _
    unfold execFrameBuild
    dsimp only
    rw [hnone]
  · refine ⟨exec_frameBuild_zeroed hj, fun hz => ⟨exec_frameBuild_disabled hj hz, fun hmil hkln hflm => ⟨fun hst => ?_, fun hst hwait => ?_, ?_⟩⟩⟩
    · rw [exec_frameBuild_enabled hj hz hmil hkln hflm, if_pos hst]
    · rw [exec_frameBuild_enabled hj hz hmil hkln hflm, if_neg (not_not.mpr hst), if_pos hwait]
    · intro w b t c hst hsil hnext hw hb hc
      rw [← session_of_firstBuild hj] at hb hc ⊢
      exact ⟨fun e v u hf hu => exec_frameBuild_build hj hz hmil hkln hflm hst hsil hnext hw ((buildJob_eq hb hc).trans ((congrArg _ hf).trans hu.symm)),
        fun f vs v u hf hu => exec_frameBuild_build hj hz hmil hkln hflm hst hsil hnext hw ((buildJob_eq hb hc).trans ((congrArg _ hf).trans hu.symm))⟩

/-- Scaler's jobs and period closes (R284, R298–R300, R302). -/
theorem scalerResult : ScalerResult := by
  refine fun h s => ⟨?_, ?_⟩
  · rintro n t rfl
    refine ⟨fun hout hn => congrArg Host.Outcome.next (unitCmd_eq (if_pos hout) hn), fun hout hen j hj hn => ?_⟩
    refine congrArg Host.Outcome.next (unitCmd_eq ?_ hn)
    dsimp only
    rw [if_neg (by rw [hout]; decide), hj]
    exact if_pos hen
  · rintro n c k t u v rfl rfl hv hdue rfl rfl rfl hn
    change execSweepClose h n s = _
    unfold execSweepClose
    dsimp only
    rw [if_neg (by rw [hv]; simp; omega)]
    exact congrArg Host.Outcome.next (unitCmd_of_noHold hn)

/-- Settles O32: Mill's part and Scaler's part. -/
theorem marketDataResult : Obligations.MarketDataResult := ⟨millResult, scalerResult⟩

end Sys2Proof.Proofs
end

section
/-! The ring engine, the control ring, records and posts (O33). -/

namespace Sys2Proof.Proofs

open Sys2Proof Sys2Proof.Machine

variable {s u w : State} {h : HalfId} {n : BitVec 17} {tag : BitVec 15} {e : InFlight} {op : Nat}

/-- DOORBELL moves the index of a ring that takes the value. -/
theorem exec_doorbell {v : Word} (hup : pcieUp s h = true) {r r' : Ring} (hr : ringOf s h n.toNat = some r)
    (hb : bell n.toNat r v.toNat = some r') :
    exec (.doorbell h n v) s = .next (doorbellWake (setRing s h n.toNat (some r'))) := by
  change execDoorbell h n v s = _
  unfold execDoorbell
  rw [if_neg (by rw [hup]; decide), hr, Option.bind_some, hb]

/-- DOORBELL counts a value that no ring takes. -/
theorem exec_doorbell_bad {v : Word} (hup : pcieUp s h = true)
    (hb : ((ringOf s h n.toNat).bind fun r => bell n.toNat r v.toNat) = none) :
    exec (.doorbell h n v) s = .next (hifCount s h Reg.HIF_CNT_DB_BAD) := by
  change execDoorbell h n v s = _
  unfold execDoorbell
  rw [if_neg (by rw [hup]; decide), hb]

/-- DESCRIPTOR_FETCH reads the next ring's descriptors. -/
theorem exec_descriptorFetch {k : Nat} {r : Ring} {x : List (List Byte) × State} (hup : pcieUp s h = true) (hon : ringEngineOn s h = true)
    (hmode : s.inMode h .run = true ∨ s.inMode h .safe = true) (hk : nextRing s h = some k) (hq : readRing s h k = (false, w))
    (hr : ringOf w h k = some r) (hx : x = readDescs h r (min 64 (unfetched r)) (r.cons + r.fetched.length) w) :
    exec (.descriptorFetch h) s = .next ((setRing x.2 h k (some { r with fetched := r.fetched ++ x.1 })).upd h fun y =>
      { y with hif := { y.hif with turn := k } }) := by
  subst hx
  change execDescriptorFetch h s = _
  unfold execDescriptorFetch
  rw [if_neg (by rcases hmode with hm | hm <;> simp [hup, hon, hm]), hk]
  dsimp only
  rw [hq, if_neg Bool.false_ne_true, hr]

/-- ACCEPTANCE of the head descriptor of a ring whose reply ring has room. -/
theorem exec_acceptance {r x : Ring} {d : List Byte} {ds : List (List Byte)} (hq : readRing s h n.toNat = (false, w))
    (hr : ringOf w h n.toNat = some r) (hf : r.fetched = d :: ds) (hx : ringOf w h (replyRingOf n.toNat r) = some x)
    (hfly : (w.half h).hif.inflight.length < 32768) (hroom : x.reserved < x.freeSlots)
    (hmode : w.inMode h .run = true ∨ w.inMode h .safe = true)
    (hu : (if (targetTakes w h d).1 then acceptDesc (targetTakes w h d).2 h n.toNat (replyRingOf n.toNat r) r x d else
      (targetTakes w h d).2) = u) (hn : NoHold h w u) : exec (.acceptance h n) s = .next u := by
  have hgo : ¬ (32768 ≤ (w.half h).hif.inflight.length ∨ x.freeSlots ≤ x.reserved ∨
      (!(w.inMode h .run || w.inMode h .safe)) = true) := by
    rintro (hbad | hbad | hbad)
    · omega
    · omega
    · rcases hmode with hm | hm <;> simp [hm] at hbad
  change execAcceptance h n s = _
  unfold execAcceptance
  dsimp only
  rw [hq, if_neg Bool.false_ne_true, hr]
  dsimp only
  rw [hf, hx]
  exact (if_neg hgo).trans (congrArg Host.Outcome.next (unitCmd_eq hu hn))

/-- ACCEPTANCE leaves a ring whose context cannot be read. -/
theorem exec_acceptance_unread (hq : readRing s h n.toNat = (true, w)) : exec (.acceptance h n) s = .next w := by
  change execAcceptance h n s = _
  unfold execAcceptance
  dsimp only
  rw [hq, if_pos rfl]

/-- An operation that may start runs on the state in which it has begun. -/
theorem runOp_of_starts {f : State → InFlight → State} {t : State} (hs : Starts s h tag op e u) (ht : f u e = t) (hn : NoHold h s t) :
    runOp h tag.toNat op f s = .next t := by
  obtain ⟨he, hop, hb, hw, rfl⟩ := hs
  unfold runOp
  rw [he]
  dsimp only
  rw [if_neg (by simp [hop, hb, hw])]
  exact congrArg Host.Outcome.next (unitCmd_eq ht hn)

/-- The ring engine (R311, R317, R318). -/
theorem ringEngineResult : RingEngineResult := by
  refine fun h n s => ⟨fun v hup => ⟨fun r r' hr hb => exec_doorbell hup hr hb, exec_doorbell_bad hup⟩,
    fun k r x w hup hon hmode hk hq hr hx => exec_descriptorFetch hup hon hmode hk hq hr hx, ?_, fun w hq => exec_acceptance_unread hq⟩
  intro w r d ds x b t u hq hr hf hx hfly hroom hmode ht hu hn
  exact exec_acceptance hq hr hf hx hfly hroom hmode (by rw [ht]; exact hu.symm) hn

section
variable {t : State}

/-- CREATE_RING makes the ring, or ends with what refuses it (R316). -/
theorem exec_createRing (hs : Starts s h tag 1 e u)
    (ht : t = (if createForm u h e.desc = 0 then complete (putRing u h (fieldLE e.desc 0x28 4) (newRing e.desc)) h tag.toNat 0
      else complete u h tag.toNat (createForm u h e.desc))) (hn : NoHold h s t) : exec (.createRing h tag) s = .next t := by
  change execCreateRing h tag s = _
  unfold execCreateRing
  refine runOp_of_starts hs ?_ hn
  dsimp only
  rw [ite_not, ht]

/-- DESTROY_RING ends BAD_RING where there is no such ring. -/
theorem exec_destroyRing_none (hs : Starts s h tag 2 e u)
    (hnone : fieldLE e.desc 0x20 4 = 0 ∨ ringOf u h (fieldLE e.desc 0x20 4) = none)
    (hn : NoHold h s (complete u h tag.toNat (statusOf 1 3))) :
    exec (.destroyRing h tag) s = .next (complete u h tag.toNat (statusOf 1 3)) := by
  have hring : (if fieldLE e.desc 0x20 4 = 0 then none else ringOf u h (fieldLE e.desc 0x20 4)) = none := by
    rcases hnone with h0 | hr
    · exact if_pos h0
    · exact (congrArg _ hr).trans (ite_self _)
  change execDestroyRing h tag s = _
  unfold execDestroyRing
  refine runOp_of_starts hs ?_ hn
  dsimp only
  rw [hring]

/-- DESTROY_RING of a ring that is there. -/
theorem exec_destroyRing {r : Ring} (hs : Starts s h tag 2 e u) (h0 : fieldLE e.desc 0x20 4 ≠ 0)
    (hr : ringOf u h (fieldLE e.desc 0x20 4) = some r) {q : Bool × State} (hq : ringBusy u h (fieldLE e.desc 0x20 4) r = q)
    (ht : (if q.1 then complete q.2 h tag.toNat (statusOf 1 8) else
      complete (((q.2.half h).hif.waiting.filter (·.ring == fieldLE e.desc 0x20 4)).foldl
        (fun s _ => hifCount s h Reg.HIF_CNT_NORING) ((setRing q.2 h (fieldLE e.desc 0x20 4) none).upd h fun x =>
          { x with hif := { x.hif with waiting := x.hif.waiting.filter (·.ring != fieldLE e.desc 0x20 4) } })) h tag.toNat 0) = t)
    (hn : NoHold h s t) : exec (.destroyRing h tag) s = .next t := by
  change execDestroyRing h tag s = _
  unfold execDestroyRing
  refine runOp_of_starts hs ?_ hn
  dsimp only
  rw [if_neg h0, hr]
  dsimp only
  rw [hq]
  exact ht

/-- ACK_ATTN clears the causes that stand and were not raised again (R322). -/
theorem exec_ackAttn (hs : Starts s h tag 3 e u) (ht : t = complete ((List.range 15).foldl (fun s v =>
      if (fieldLE e.desc 0x20 2).testBit v && !e.again.testBit v then s.clearBit h Reg.HIF_ATTN_PEND v else s) u) h tag.toNat 0)
    (hn : NoHold h s t) : exec (.ackAttn h tag) s = .next t := by
  change execAckAttn h tag s = _
  unfold execAckAttn
  exact runOp_of_starts hs ht.symm hn

/-- QUERY_RING answers a ring's indices. -/
theorem exec_queryRing {r : Ring} (hs : Starts s h tag 4 e u) (hr : ringOf u h (fieldLE e.desc 0x20 4) = some r)
    (ht : t = completeWith u h tag.toNat 0 (r.prod * 2 ^ 48 + r.cons * 2 ^ 32 + r.reserved % 65536 * 2 ^ 16) 0)
    (hn : NoHold h s t) : exec (.queryRing h tag) s = .next t := by
  change execQueryRing h tag s = _
  unfold execQueryRing
  refine runOp_of_starts hs ?_ hn
  rw [hr, ht]

/-- QUERY_RING ends BAD_RING where there is no such ring. -/
theorem exec_queryRing_none (hs : Starts s h tag 4 e u) (hr : ringOf u h (fieldLE e.desc 0x20 4) = none)
    (hn : NoHold h s (complete u h tag.toNat (statusOf 1 3))) :
    exec (.queryRing h tag) s = .next (complete u h tag.toNat (statusOf 1 3)) := by
  change execQueryRing h tag s = _
  unfold execQueryRing
  refine runOp_of_starts hs ?_ hn
  rw [hr]

/-- NOP completes. -/
theorem exec_nopCommand (hs : Starts s h tag 5 e u) (hn : NoHold h s (complete u h tag.toNat 0)) :
    exec (.nopCommand h tag) s = .next (complete u h tag.toNat 0) := by
  change execNopCommand h tag s = _
  unfold execNopCommand
  exact runOp_of_starts hs rfl hn

end

/-- The operations of the control ring (R315, R316, R322). -/
theorem controlRingResult : ControlRingResult := by
  refine fun h tag s u e => ⟨fun hs t ht hn => exec_createRing hs ht hn, ?_, fun hs t ht hn => exec_ackAttn hs ht hn,
    fun hs => ⟨fun r t hr ht hn => exec_queryRing hs hr ht hn, fun hr hn => exec_queryRing_none hs hr hn⟩,
    fun hs hn => exec_nopCommand hs hn⟩
  rintro hs n rfl
  refine ⟨fun hnone hn => exec_destroyRing_none hs hnone hn, fun r h0 hr => ⟨fun w hw hn => ?_, ?_⟩⟩
  · exact exec_destroyRing hs h0 hr hw (if_pos rfl) hn
  · rintro w hw v t rfl ht hn
    exact exec_destroyRing hs h0 hr hw ((if_neg Bool.false_ne_true).trans ht.symm) hn

/-- A waiting post of a kind is taken. -/
theorem takePost_of_find {b : Bool} {p : Post} (hp : (s.half h).hif.posts.find? (·.frame == b) = some p) :
    takePost s h b = some (p, s.upd h fun x => { x with hif := { x.hif with posts := x.hif.posts.erase p } }) := by
  unfold takePost
  rw [hp]
  rfl

/-- Records, posts and vectors (R319, R321, R325). -/
theorem replyAndPostResult : ReplyAndPostResult := by
  refine fun h s => ⟨fun n hup hon => if_pos ⟨hup, hon⟩, ?_, fun n r t hr ht hvec hdue => ?_, ?_⟩
  · rintro p t rfl
    refine ⟨fun hp => ?_, fun hp => ?_⟩
    · change execReplyPost h s = _
      unfold execReplyPost
      rw [takePost_of_find hp]
    · change execFramePost h s = _
      unfold execFramePost
      rw [takePost_of_find hp]
  · change execMsixModerationTimeout h n s = _
    unfold execMsixModerationTimeout
    rw [hr]
    dsimp only
    rw [ht]
    exact if_pos ⟨hvec, hdue⟩
  · rintro v t hup rfl
    exact if_neg (by rw [hup]; decide)

/-- Settles O33, clause by clause: the ring engine, the control ring, records and posts. -/
theorem ringResult : Obligations.RingResult := ⟨ringEngineResult, controlRingResult, replyAndPostResult⟩

end Sys2Proof.Proofs
end

section
/-! The data operations and the PCIe function (O34). -/

namespace Sys2Proof.Proofs

open Sys2Proof Sys2Proof.Machine

variable {s t u : State} {h : HalfId} {tag : BitVec 15} {e : InFlight}

-- the data operations (R315, R320, R324, R326)

/-- SEND waits for its turn. -/
theorem exec_send_waits (hturn : sendTurn s h tag.toNat = false) : exec (.send h tag) s = .next s := by
  change execSend h tag s = _
  exact if_pos (by rw [hturn]; rfl)

/-- SEND gives its parameters to the session's build. -/
theorem exec_send (hturn : sendTurn s h tag.toNat = true) (hs : Starts s h tag 0x10 e u)
    (ht : t = sendFrame u h (.command tag.toNat none) (dTarget e.desc) (dFormat e.desc) ((dFlags e.desc).testBit 5) e.params)
    (hn : NoHold h s t) : exec (.send h tag) s = .next t := by
  change execSend h tag s = _
  unfold execSend
  rw [if_neg (by rw [hturn]; decide)]
  exact runOp_of_starts hs ht.symm hn

/-- DELIVER by what its thread takes. -/
theorem exec_deliver (hs : Starts s h tag 0x11 e u)
    (ht : (if !threadTakes u h (dTarget e.desc) then complete u h tag.toNat (statusOf 2 1)
      else if mailboxPoison u h (dTarget e.desc) then complete (mailboxHolds u h (dTarget e.desc)).2 h tag.toNat (statusOf 6 2)
      else putMailbox (setInFlight u h tag.toNat fun x => { x with thread := some (dTarget e.desc) }) h (dTarget e.desc)
        (patchB e.desc 8 (leBytes 2 tag.toNat))) = t) (hn : NoHold h s t) : exec (.deliver h tag) s = .next t := by
  change execDeliver h tag s = _
  unfold execDeliver
  exact runOp_of_starts hs ht hn

/-- RAW sends its frame. -/
theorem exec_raw (hs : Starts s h tag 0x12 e u)
    (ht : t = sendRaw u h (.command tag.toNat none) (dTarget e.desc) ((dFlags e.desc).testBit 4) e.params)
    (hn : NoHold h s t) : exec (.raw h tag) s = .next t := by
  change execRaw h tag s = _
  unfold execRaw
  exact runOp_of_starts hs ht.symm hn

/-- GROUP starts its parts in order. -/
theorem exec_group (he : inFlight s h tag.toNat = some e) (hop : dOp e.desc = 0x13)
    (ht : t = (List.range e.parts.length).foldl (startPart h tag.toNat) s) (hn : NoHold h s t) :
    exec (.group h tag) s = .next t := by
  change execGroup h tag s = _
  unfold execGroup
  rw [he]
  dsimp only
  rw [if_neg (not_not.mpr hop)]
  exact congrArg Host.Outcome.next (unitCmd_eq ht.symm hn)

/-- A part sent to another node ends after 10 ms (R326). -/
theorem exec_partTimeout {part : Fin 64} (he : inFlight s h tag.toNat = some e) (hop : dOp e.desc = 0x13)
    (hb : e.begun.testBit part.val = true) (hnode : fieldLE e.partList (32 * part.val) 2 % 512 ≠ 511)
    (hdue : SMap.get (fun _ => 0) e.sentAt part.val + 10000000 ≤ s.elapsed) :
    exec (.partTimeout h tag part) s = .next (partEnd s h tag.toNat part.val (statusOf 5 3)) := by
  change execPartTimeout h tag part s = _
  unfold execPartTimeout
  rw [he]
  exact if_pos ⟨hop, hb, hnode, hdue⟩

/-- The data operations. -/
theorem dataOperationResult : DataOperationResult := by
  refine fun h tag s u e => ⟨exec_send_waits, fun hturn hs t ht hn => exec_send hturn hs ht hn, fun hs => ⟨?_, ?_, ?_⟩,
    fun hs t ht hn => exec_raw hs ht hn, fun he hop => ⟨fun t ht hn => exec_group he hop ht hn,
      fun part hb hnode hdue => exec_partTimeout he hop hb hnode hdue⟩⟩
  · intro t htake hpois ht hn
    exact exec_deliver hs (by rw [htake, hpois, ht]; rfl) hn
  · intro t htake hpois ht hn
    exact exec_deliver hs (by rw [htake, hpois, ht]; rfl) hn
  · intro t htake ht hn
    exact exec_deliver hs (by rw [htake, ht]; rfl) hn

-- the PCIe function (R305, R307–R309, R327)

/-- A number added to a rising list is in it. -/
theorem mem_natSet_add (m : NatSet) (k : Nat) : k ∈ m.add k := by
  induction m with
  | nil => exact List.mem_singleton_self k
  | cons a m ih =>
    unfold NatSet.add
    split
    case isTrue hk => exact hk ▸ List.mem_cons_self
    case isFalse =>
      split
      · exact List.mem_cons_self
      · exact List.mem_cons_of_mem _ ih

/-- PAIR names the half's own function in its low bits. -/
theorem pairWord_own {b : BitVec 16} (hb : (s.half h).hif.ownBdf = some b) : pairWord s h % 65536 = b.toNat := by
  have hlt := b.isLt
  unfold pairWord
  rw [hb]
  dsimp only
  split <;> split <;> omega

/-- PAIR names the other half's function above that, and says that it is known. -/
theorem pairWord_peer {b : BitVec 16} (hb : (s.half h).hif.peerBdf = some b) :
    pairWord s h / 65536 % 65536 = b.toNat ∧ (pairWord s h).testBit 49 = true := by
  have hlt := b.isLt
  obtain ⟨own, hown, hpair⟩ : ∃ own < 65536,
      pairWord s h = own + b.toNat * 0x10000 + (if h = .west then 2 ^ 48 else 0) + 2 ^ 49 := by
    refine ⟨_, ?_, by unfold pairWord; rw [hb]⟩
    split
    · exact BitVec.isLt _
    · decide
  rw [hpair, Nat.testBit_eq_decide_div_mod_eq, decide_eq_true_eq]
  split <;> omega

/-- What the first configuration write leaves, where the other half hears of it. -/
theorem exec_bdfCapture_paired {bdf : BitVec 16} (hup : pcieUp s h = true) (hown : (s.half h).hif.ownBdf = none)
    (ht : t = s.upd h fun x => { x with hif := { x.hif with ownBdf := some bdf } }) (hseam : s.seamUp = true) :
    exec (.bdfCapture h bdf) s = .next (t.upd h.other fun x => { x with hif := { x.hif with peerBdf := some bdf } }) := by
  subst ht
  exact (if_neg (by rw [hup, hown]; decide)).trans (if_neg (by rw [State.seamUp_upd, hseam]; decide))

/-- The PCIe function. -/
theorem hostLinkResult : HostLinkResult := by
  refine fun h s => ⟨?_, ?_, ?_, fun line => ⟨_, rfl, ?_, ?_, ?_⟩, fun cmdid => ⟨_, rfl, fun d => ?_⟩⟩
  · rintro t hp hw hm rfl
    exact if_neg (by rw [hp, hw, hm]; decide)
  · rintro bdf t hup hown ht
    refine ⟨fun hseam => ⟨_, exec_bdfCapture_paired hup hown ht hseam, rfl, ?_⟩, fun hseam => ?_⟩
    · subst ht
      have hother : ∀ (v : State) (f : Half → Half), ((v.upd h.other f).half h) = v.half h := by
        intro v f
        cases h <;> rfl
      exact ⟨pairWord_own (by rw [hother, State.half_upd_self]), pairWord_peer (by rw [State.half_upd_self])⟩
    · subst ht
      exact (if_neg (by rw [hup, hown]; decide)).trans (if_pos (by rw [State.seamUp_upd, hseam]; decide))
  · rintro t rfl
    rfl
  · rw [State.half_upd_self]
    exact List.mem_append_right _ (List.mem_singleton_self _)
  · rw [State.half_upd_self]
    exact mem_natSet_add _ _
  · intro n hn
    rw [State.half_upd_self]
    by_cases hl : n = line.toNat / 64
    · exact List.mem_append_right _ (hl ▸ List.mem_singleton_self _)
    · exact List.mem_append_left _ (List.mem_filter.mpr ⟨hn, by simpa using hl⟩)
  · rw [State.half_upd_self]
    dsimp only
    rw [List.mem_filter]
    refine and_congr_right fun _ => ?_
    cases hd : d.doneAt with
    | none => simp
    | some t =>
      simp only [Bool.not_eq_true', Option.some.injEq, exists_eq_left']
      rw [← Bool.not_eq_true]
      simp [and_assoc]

/-- Settles O34: the data operations, then the PCIe function. -/
theorem dataAndHostLinkResult : Obligations.DataAndHostLinkResult := ⟨dataOperationResult, hostLinkResult⟩

end Sys2Proof.Proofs
end

section
/-! Boom: requests at their home and effects (O35), links and packets (O36). -/

namespace Sys2Proof.Proofs

open Sys2Proof Sys2Proof.Machine

variable {s t u v : State} {h : HalfId} {p : Packet}

-- requests at their home (R335, R341, R346)

section
variable {type : Nat} {f : State → Packet → HomeAns × State} (hp : takePacket s h type = some (p, t))
include hp

/-- A request that screening stops goes no further. -/
theorem homeRequest_screened (hs : screen t h p = some u) : homeRequest h type f s = u := by
  unfold homeRequest
  rw [hp]
  dsimp only
  rw [hs]

variable (hs : screen t h p = none)
include hs

/-- A repeated request gets the kept response again. -/
theorem homeRequest_kept {k : Kept}
    (hk : ((t.half h).bom.kept.find? fun k => k.src == p.src.toNat && k.txn == p.txn.toNat && t.elapsed < k.since + 64000) = some k) :
    homeRequest h type f s = (sendPacket t h k.rsp).2 := by
  unfold homeRequest
  rw [hp]
  dsimp only
  rw [hs]
  dsimp only
  rw [hk]

variable
  (hk : ((t.half h).bom.kept.find? fun k => k.src == p.src.toNat && k.txn == p.txn.toNat && t.elapsed < k.since + 64000) = none)
include hk

/-- A new request in Watch gets BUSY. -/
theorem homeRequest_asleep (ha : boomAsleep t h = true) : homeRequest h type f s = (sendAnswer t h p { status := 0x30 }).2 := by
  unfold homeRequest
  rw [hp]
  dsimp only
  rw [hs]
  dsimp only
  rw [hk]
  exact if_pos ha

/-- A new request is performed, answered and its answer kept. -/
theorem homeRequest_performed {ans : HomeAns} {a : Packet} {w : State} (ha : boomAsleep t h = false) (hf : f t p = (ans, v))
    (hans : sendAnswer v h p ans = (a, w)) :
    homeRequest h type f s = w.upd h fun x => { x with bom := { x.bom with kept :=
      x.bom.kept ++ [⟨p.src.toNat, p.txn.toNat, a, w.elapsed⟩] } } := by
  unfold homeRequest
  rw [hp]
  dsimp only
  rw [hs]
  dsimp only
  rw [hk]
  dsimp only
  rw [if_neg (by rw [ha]; exact Bool.false_ne_true), hf]
  dsimp only
  rw [hans]

end

/-- The command of each row is a request of its type. -/
theorem exec_homeRow : ∀ row ∈ homeRows h, exec row.1 s = .next (unitCmd h (homeRequest h row.2.1 row.2.2) s) := by
  intro row hrow
  simp only [homeRows, List.mem_cons, List.not_mem_nil, or_false] at hrow
  rcases hrow with rfl | rfl | rfl
  · rfl
  · change execWr h s = _
    unfold execWr
    refine congrArg (fun g => Host.Outcome.next (unitCmd h (homeRequest h 2 g) s)) (funext fun t => funext fun p => ?_)
    rcases he : p.eff with _ | sub <;> simp only [he]
  · rfl

/-- Requests at their home. -/
theorem homeRequestResult : HomeRequestResult := by
  intro h s t p row hrow hp
  rw [exec_homeRow row hrow]
  refine ⟨fun u hs hn => ?_, fun hs => ⟨fun k hk hn => ?_, fun hk => ⟨fun ha hn => ?_, ?_⟩⟩⟩
  · exact congrArg Host.Outcome.next (unitCmd_eq (homeRequest_screened hp hs) hn)
  · exact congrArg Host.Outcome.next (unitCmd_eq (homeRequest_kept hp hs hk) hn)
  · exact congrArg Host.Outcome.next (unitCmd_eq (homeRequest_asleep hp hs hk ha) hn)
  · intro ans v a w u ha hf hans hu hn
    exact congrArg Host.Outcome.next (unitCmd_eq ((homeRequest_performed hp hs hk ha hf hans).trans hu.symm) hn)

-- committed effects (R348)

/-- Whether an entry is of a packet's thread. -/
def dupOf (p : Packet) (e : DupEntry) : Bool := e.src == p.src.toNat && e.thread == p.thread.toNat

/-- The table with an entry for a packet's thread behind the others. -/
def putDup (h : HalfId) (p : Packet) (s : State) (ds : List DupEntry) (seq pos : Nat) : State :=
  s.upd h fun x => { x with bom := { x.bom with dups := ds ++ [⟨p.src.toNat, p.thread.toNat, seq, pos, s.elapsed⟩] } }

/-- An effect performed, which notes its step and position where it succeeds. -/
def performOnce (h : HalfId) (p : Packet) (t : State) (ds : List DupEntry) : HomeAns × State :=
  ((homeStore t h p).1,
    if (homeStore t h p).1.status = 0 then putDup h p (homeStore t h p).2 ds p.seq.toNat (p.pos.toNat * 256) else (homeStore t h p).2)

/-- An effect that its thread's entry has passed is counted and answered OK. -/
theorem storeOnce_passed {e : DupEntry} (he : (t.half h).bom.dups.find? (dupOf p) = some e)
    (hold : e.olderThan p.seq.toNat (p.pos.toNat * 256) = false) :
    storeOnce t h p 0 = ({ status := 0 }, putDup h p (t.incFld h Reg.BOM_CNT2_DUP_DROP)
      ((t.half h).bom.dups.filter fun x => !dupOf p x) e.stepseq e.pos) := by
  change (t.half h).bom.dups.find? (fun e => e.src == p.src.toNat && e.thread == p.thread.toNat) = some e at he
  unfold storeOnce
  dsimp only
  rw [he]
  dsimp only
  rw [Nat.add_zero, if_neg (by rw [hold]; exact Bool.false_ne_true)]
  rfl

/-- Any other effect is performed. -/
theorem storeOnce_performed {ds : List DupEntry}
    (hds : ((t.half h).bom.dups.find? (dupOf p) = none ∧ dupRoom (t.half h).bom.dups t.elapsed = some ds) ∨
      (ds = (t.half h).bom.dups.filter (fun x => !dupOf p x) ∧
        ∃ e, (t.half h).bom.dups.find? (dupOf p) = some e ∧ e.olderThan p.seq.toNat (p.pos.toNat * 256) = true)) :
    storeOnce t h p 0 = performOnce h p t ds := by
  have hmine : dupOf p = fun e => e.src == p.src.toNat && e.thread == p.thread.toNat := rfl
  unfold storeOnce
  dsimp only
  rcases hds with ⟨hnone, hroom⟩ | ⟨rfl, e, he, hold⟩
  · rw [hmine] at hnone
    rw [hnone]
    dsimp only
    rw [hroom]
    dsimp only
    rw [Nat.add_zero]
    rfl
  · rw [hmine] at he
    rw [he]
    dsimp only
    rw [Nat.add_zero, if_pos hold]
    rfl

/-- An effect that screening lets through, outside Watch, is answered. -/
theorem effRequest_eq (hp : takePacket s h 4 = some (p, t)) (hs : screen t h p = none) (ha : boomAsleep t h = false) :
    effRequest h s = (sendAnswer (storeOnce t h p 0).2 h p (storeOnce t h p 0).1).2 := by
  unfold effRequest
  rw [hp]
  dsimp only
  rw [hs]
  exact if_neg (by rw [ha]; exact Bool.false_ne_true)

/-- Committed effects. -/
theorem effectResult : EffectResult := by
  rintro h s t p mine put hp hs ha rfl rfl
  refine ⟨fun e u he hold hu hn => ?_, fun ds r v u hds hr hu hn => ?_⟩
  · refine congrArg Host.Outcome.next (unitCmd_eq ?_ hn)
    rw [effRequest_eq hp hs ha, storeOnce_passed he hold, hu]
    rfl
  · refine congrArg Host.Outcome.next (unitCmd_eq ?_ hn)
    rw [effRequest_eq hp hs ha, storeOnce_performed hds, performOnce, hr, hu]
    rfl

/-- Settles O35: requests at their home, then effects. -/
theorem remoteRequestResult : Obligations.RemoteRequestResult := ⟨homeRequestResult, effectResult⟩

-- links (R330–R332, R335)

/-- The links of a node. -/
theorem boomLinkResult : BoomLinkResult := by
  refine fun h l s hrun => ⟨?_, fun htr hdue => ?_, fun hup => ⟨fun flit hlen hcrc => ?_, fun flit hbad => ?_, fun ack => ?_, fun hr => ?_,
    fun hq => ?_⟩⟩
  · rintro t u htr rfl rfl
    exact if_neg (by rw [hrun, htr]; decide)
  · change execLinkTrainRetry h l s = _
    unfold execLinkTrainRetry
    dsimp only
    rw [if_neg (by rw [hrun, htr]; decide)]
    cases hf : (linkOf s h l).failedAt with
    | none => rfl
    | some t => exact if_pos (hdue t hf)
  · exact (if_neg (by rw [hrun, hup]; decide)).trans (if_pos ⟨hlen, hcrc⟩)
  · exact (if_neg (by rw [hrun, hup]; decide)).trans (if_neg fun hgood => hbad.elim (· hgood.1) (· hgood.2))
  · exact if_neg (by rw [hrun, hup]; decide)
  · exact if_neg (by simp [hup, hr])
  · exact if_neg (by simp [hup, hq])

-- packets (R326, R334, R340, R349–R352)

/-- A mirror update that arrives where there are sessions, and is let through, is authenticated. -/
theorem mirrRequest_eq {key : List Byte} {ctr : Nat} (hp : takePacket s h 9 = some (p, t)) (ha : boomAsleep s h = false)
    (hses : noSessions t h = false) (hs : screen t h p = none) (hkey : (t.half h).kln.pairRx = some (key, ctr))
    {o : Option (List Byte)} (ho : aeadOpen 0x1302 key (mirrHeader p) (beBytes 12 ctr) p.payload = o) :
    mirrRequest h s = (o.map fun b => applyMirror (updKln t h fun k => { k with pairRx := some (key, ctr + 1) }) h p b).getD
      (t.incFld h Reg.BOM_CNT2_MIRR_AUTH) := by
  unfold mirrRequest
  rw [if_neg (by rw [ha]; exact Bool.false_ne_true), hp]
  dsimp only
  rw [if_neg (by rw [hses]; exact Bool.false_ne_true), hs]
  dsimp only
  rw [hkey]
  dsimp only
  rw [ho]
  cases o <;> rfl

/-- A heartbeat of the current generation. -/
theorem hbRequest_eq (hp : takePacket s h 13 = some (p, t)) (hd : dropDead t h p = none)
    (hf : fgenOlder t h (fieldLE p.payload 8 2) = false)
    (hv : v = rootHb t h p.src.toNat (fieldLE p.payload 8 2) (fieldLE p.payload 10 1)) :
    hbRequest h s = if v.flag h Reg.BOM_CFG_BV ∧ p.src.toNat = v.fld h Reg.BOM_CFG_BUDDY then buddyHb v h p else v := by
  subst hv
  unfold hbRequest
  rw [hp]
  dsimp only
  rw [hd]
  exact if_neg (by rw [hf]; exact Bool.false_ne_true)

/-- A signal is an event of its thread, and is answered. -/
theorem sigRequest_eq (hp : takePacket s h 5 = some (p, t)) (ha : boomAsleep s h = false) (hs : screen t h p = none) :
    sigRequest h s = (sendAnswer (fmnEvent t h (p.addr.toNat % 2 ^ 17) 5) h p { status := 0 }).2 := by
  unfold sigRequest
  rw [if_neg (by rw [ha]; exact Bool.false_ne_true), hp]
  dsimp only
  rw [hs]

/-- A response ends its request. -/
theorem rspRequest_eq {o : Outstanding} (hp : takePacket s h 6 = some (p, t)) (hd : dropDead t h p = none)
    (ho : ((t.half h).bom.outstanding.find? fun o => o.txn == p.txn.toNat) = some o) : rspRequest h s = takeResponse t h o p := by
  unfold rspRequest
  rw [hp]
  dsimp only
  rw [hd]
  dsimp only
  rw [ho]

/-- A group's part is performed. -/
theorem exec_part (ha : boomAsleep s h = false) (hp : takePacket s h 7 = some (p, t)) (hs : screen t h p = none)
    (hu : partRequest t h p = some u) (hn : NoHold h s u) : exec (.part h) s = .next u := by
  refine congrArg Host.Outcome.next (unitCmd_eq ?_ hn)
  rw [if_neg (by rw [ha]; exact Bool.false_ne_true), hp]
  dsimp only
  rw [hs, hu]
  rfl

/-- A part's answer ends it. -/
theorem presRequest_eq {e : InFlight} (hp : takePacket s h 8 = some (p, t)) (hd : dropDead t h p = none)
    (he : ((t.half h).hif.inflight.find? fun e => dOp e.desc == 0x13 && dCmdid e.desc == p.addr.toNat && e.begun.testBit p.seq.toNat &&
      (e.parts.getD p.seq.toNat (some 0)).isNone && fieldLE e.partList (32 * p.seq.toNat) 2 % 512 == p.src.toNat) = some e) :
    presRequest h s = partEnd t h e.tag p.seq.toNat
      (if p.info = 0x20 then statusOf 5 1 else if p.info = 0x21 then statusOf 5 2 else fieldLE p.payload 0 2) := by
  unfold presRequest
  rw [hp]
  dsimp only
  rw [hd]
  dsimp only
  rw [he]

/-- Whether an acknowledgement covers a frame that waits for one (R351). -/
def mackCovers (t : State) (h : HalfId) (p : Packet) (a : Nat × Nat × TxFrame) : Bool :=
  a.2.1 ≤ p.seq.toNat && ((mirrorBinding t h a.1).map fun b => fieldLE b 2 2 == p.addr.toNat % 65536).getD false

/-- The frames that are covered leave. -/
def releaseFrames (h : HalfId) (t : State) (mine : Nat × Nat × TxFrame → Bool) : State :=
  ((t.half h).bom.awaiting.filter mine).foldl (fun s a => ethSend s h a.2.2)
    (updBom t h fun b => { b with awaiting := b.awaiting.filter fun a => !mine a })

/-- An acknowledgement that is let through, at a half that is silenced or in Safe. -/
theorem mackRequest_kept (hp : takePacket s h 10 = some (p, t)) (hd : dropDead t h p = none)
    (hkeep : (t.half h).bom.silenced = true ∨ t.inMode h .safe = true) : mackRequest h s = t := by
  unfold mackRequest
  rw [hp]
  dsimp only
  rw [hd]
  exact if_pos hkeep

/-- An acknowledgement that is let through, at another half. -/
theorem mackRequest_released (hp : takePacket s h 10 = some (p, t)) (hd : dropDead t h p = none)
    (hsil : (t.half h).bom.silenced = false) (hsafe : t.inMode h .safe = false) :
    mackRequest h s = releaseFrames h t (mackCovers t h p) := by
  unfold mackRequest
  rw [hp]
  dsimp only
  rw [hd]
  refine (if_neg (by rw [hsil, hsafe]; decide)).trans (congrArg (releaseFrames h t) (funext fun a => ?_))
  unfold mackCovers
  cases mirrorBinding t h a.1 <;> rfl

/-- A request that was answered busy goes again, or comes back where it cannot be sent. -/
theorem exec_busyResend {txn : BitVec 11} {o : Outstanding} {at_ : Nat}
    (ho : ((s.half h).bom.outstanding.find? fun o => o.txn == txn.toNat) = some o) (hat : o.busyAt = some at_)
    (hdue : at_ + 10000 ≤ s.elapsed)
    (ht : t = (s.upd h fun x => { x with bom := { x.bom with
      outstanding := x.bom.outstanding.map fun y => if y = o then { o with busyAt := none } else y } }))
    {b : Bool} (hb : sendPacket t h o.pkt = (b, u)) :
    exec (.busyResend h txn) s = .next (if b then u else
      takeResponse u h { o with busyAt := none } { answerTo u h o.pkt 6 0x20 [] with src := o.pkt.dst }) := by
  change execBusyResend h txn s = _
  unfold execBusyResend
  rw [ho]
  dsimp only
  rw [hat]
  dsimp only
  rw [if_neg (by omega), ← ht, hb]
  cases b <;> rfl

/-- The packets of a node. -/
theorem packetResult : PacketResult := by
  refine fun h s => ⟨fun p t key ctr hp ha hses hs hkey => ⟨fun ho hn => ?_, fun b u ho hu hn => ?_⟩, ?_, ?_, ?_, ?_, ?_, ?_, ?_,
    fun src txn => ⟨_, rfl, by rw [State.half_upd_self]⟩⟩
  · exact congrArg Host.Outcome.next (unitCmd_eq (mirrRequest_eq hp ha hses hs hkey ho) hn)
  · exact congrArg Host.Outcome.next (unitCmd_eq ((mirrRequest_eq hp ha hses hs hkey ho).trans hu.symm) hn)
  · intro p t v hp hd hf hv hn
    exact congrArg Host.Outcome.next (unitCmd_eq (hbRequest_eq hp hd hf hv) hn)
  · intro p t u hp ha hs hu hn
    exact congrArg Host.Outcome.next (unitCmd_eq ((sigRequest_eq hp ha hs).trans hu.symm) hn)
  · intro p t o hp hd ho hn
    exact congrArg Host.Outcome.next (unitCmd_eq (rspRequest_eq hp hd ho) hn)
  · intro p t u ha hp hs hu hn
    exact exec_part ha hp hs hu hn
  · rintro p t e st hp hd he rfl hn
    exact congrArg Host.Outcome.next (unitCmd_eq (presRequest_eq hp hd he) hn)
  · intro p t mine u hp hd
    refine ⟨fun hkeep hn => congrArg Host.Outcome.next (unitCmd_eq (mackRequest_kept hp hd hkeep) hn), fun hsil hsafe hmine hu hn => ?_⟩
    have hcovers : mine = mackCovers t h p := by
      rw [hmine]
      funext a
      unfold mackCovers
      cases mirrorBinding t h a.1 <;> rfl
    refine congrArg Host.Outcome.next (unitCmd_eq ((mackRequest_released hp hd hsil hsafe).trans ?_) hn)
    rw [hu, hcovers]
    rfl
  · rintro txn o o' at_ t ho hat hdue rfl ht
    exact ⟨fun u hb => exec_busyResend ho hat hdue ht hb, fun u hb => exec_busyResend ho hat hdue ht hb⟩

/-- Settles O36: links, then packets. -/
theorem boomResult : Obligations.BoomResult := ⟨boomLinkResult, packetResult⟩

end Sys2Proof.Proofs
end

section
/-! Cruise and the buddy (O37). -/

namespace Sys2Proof.Proofs

open Sys2Proof Sys2Proof.Machine

variable {s t u : State} {h : HalfId}

/-- A Cruise message of an older generation is discarded (R336). -/
theorem exec_cru_older {src : BitVec 9} {msg : CruMsg} {g : Nat} (hg : cruFgen msg = some g) (hold : fgenOlder s h g = true) :
    exec (.cru h src msg) s = .next s := by
  change execCru h src msg s = _
  unfold execCru
  exact if_pos (.inr (by rw [hg]; exact hold))

section
variable {src : BitVec 9} (hrun : linksRun s h = true)
include hrun

/-- A Cruise message that names no generation is taken while the links run. -/
theorem not_discarded_of_none {msg : CruMsg} (hg : cruFgen msg = none) :
    ¬ ((!linksRun s h) = true ∨ ((cruFgen msg).map (fgenOlder s h ·)).getD false = true) := by
  rw [hrun, hg]
  simp

/-- A Cruise message of no older generation is taken while the links run. -/
theorem not_discarded_of_some {msg : CruMsg} {g : Nat} (hg : cruFgen msg = some g) (hnew : fgenOlder s h g = false) :
    ¬ ((!linksRun s h) = true ∨ ((cruFgen msg).map (fgenOlder s h ·)).getD false = true) := by
  rw [hrun, hg, Option.map_some, hnew]
  simp

/-- A grant by the half's own state and the device number it grants (R32, R338). -/
theorem exec_cru_grant {d : Byte} {e w : BitVec 4} {root : BitVec 9} {fgen : BitVec 16} (hnew : fgenOlder s h fgen.toNat = false) :
    exec (.cru h src (.grant d e w root fgen)) s =
      if s.fld h Reg.BOM_ID_CSTATE = 2 ∨ d.toNat = 255 then .next s
      else .next (joinDevice s d.toNat (e.toNat, w.toNat) root.toNat fgen.toNat false) :=
  if_neg (not_discarded_of_some hrun (msg := .grant d e w root fgen) rfl hnew)

end

/-- Cruise (R336–R339, R342). -/
theorem cruiseResult : CruiseResult := by
  refine fun h src s => ⟨fun hrun => ⟨fun ser pref => ?_, fun msg g hg hold => exec_cru_older hg hold, ?_, fun root fgen es hnew => ?_,
    fun ser fgen es hnew => ?_, ?_⟩, fun hrun => congrArg Host.Outcome.next (if_pos hrun), fun node hrun hroot hdue => if_pos ⟨hrun, hroot, hdue⟩⟩
  · exact if_neg (not_discarded_of_none hrun (msg := .hello ser pref) rfl)
  · intro d e w root fgen hnew
    rw [exec_cru_grant hrun hnew]
    exact ⟨fun hst hd => if_neg (not_or.mpr ⟨hst, hd⟩), fun hor => if_pos hor⟩
  · exact if_neg (not_discarded_of_some hrun (msg := .table root fgen es) rfl hnew)
  · exact if_neg (not_discarded_of_some hrun (msg := .merge ser fgen es) rfl hnew)
  · exact if_neg (not_discarded_of_none hrun (msg := .excluded) rfl)

/-- A key message of the buddy that checks out, up to what the half has sent itself (R350). -/
theorem exec_keyx {p : Packet} {b : Nat} (hp : takePacket s h 11 = some (p, t)) (hd : dropDead t h p = none)
    (hbv : t.flag h Reg.BOM_CFG_BV = true) (hb : b = t.fld h Reg.BOM_CFG_BUDDY) (hsrc : p.src.toNat = b)
    (hval : Config.keyxValid p.payload = true) (hu : u = (if p.info = 0 then sendKeyx t h true else t)) :
    exec (.keyx h) s = if (u.half h).bom.keyx.isEmpty then .next u else
      .next (joinDone (updBom (updKln u h fun k => { k with
        pairTx := some (Config.pairKey (ownNode u h) b (u.half h).bom.keyx p.payload, 0)
        pairRx := some (Config.pairKey b (ownNode u h) p.payload (u.half h).bom.keyx, 0) }) h fun x =>
          { x with buddyTrip := (updKln u h fun k => { k with
              pairTx := some (Config.pairKey (ownNode u h) b (u.half h).bom.keyx p.payload, 0)
              pairRx := some (Config.pairKey b (ownNode u h) p.payload (u.half h).bom.keyx, 0) }).elapsed, buddyGone := false }) h) := by
  subst hb hu
  change execKeyx h s = _
  unfold execKeyx
  rw [hp]
  dsimp only
  rw [hd]
  dsimp only
  rw [if_neg (by rw [hbv, hval]; simp [hsrc])]

/-- HEARTBEAT_SEND of a member (R340, R342). -/
theorem exec_heartbeatSend (ht : t = electRoot s h) (hst : t.fld h Reg.BOM_ID_CSTATE = 2)
    (hu : u = (if t.fld h Reg.BOM_ID_ROOT = ownNode t h then t else sendHb t h (t.fld h Reg.BOM_ID_ROOT) false 0)) :
    exec (.heartbeatSend h) s = .next (if u.flag h Reg.BOM_CFG_BV then
      sendHb u h (u.fld h Reg.BOM_CFG_BUDDY) true (b2n (u.half h).bom.adopted) else u) := by
  subst ht hu
  change execHeartbeatSend h s = _
  unfold execHeartbeatSend
  exact if_neg (not_not.mpr hst)

/-- The buddy (R340, R342, R350–R352). -/
theorem buddyResult : BuddyResult := by
  refine fun h s => ⟨?_, fun t u ht hst hu => exec_heartbeatSend ht hst hu, fun hbv hsil hdue hst => ?_, fun hbv had hst hdue hn => ?_⟩
  · intro p t u v w b own m hp hd hbv hb hsrc hval hu hown hm hv hw
    rw [exec_keyx hp hd hbv hb hsrc hval hu]
    subst hown hm hv hw
    exact ⟨fun hne => if_neg (by rwa [List.isEmpty_iff]), fun he => if_pos (List.isEmpty_iff.mpr he)⟩
  · exact if_pos ⟨hbv, hst, by rw [hsil]; rfl, hdue⟩
  · exact (if_pos ⟨hbv, by rw [had]; rfl, hst, hdue⟩).trans (congrArg Host.Outcome.next (unitCmd_of_noHold hn))

/-- Settles O37: Cruise, then the buddy. -/
theorem cruiseAndBuddyResult : Obligations.CruiseAndBuddyResult := ⟨cruiseResult, buddyResult⟩

end Sys2Proof.Proofs
end

section
/-! Services of the root firmware and counters (O38), life-cycle transitions and tamper alarms (O39). -/

namespace Sys2Proof.Proofs

open Sys2Proof Sys2Proof.Machine

variable {s t : State} {h : HalfId} {k : CoreId} {n : Nat}

-- services (R381)

/-- A request of a number that is served is the top frame's cause. -/
theorem cause_of_serviceAt {f : RFrame} {fs : List RFrame} (hm : (s.core k).mstack = f :: fs) (hs : serviceAt s k n = some h) :
    f.cause.toNat = n := by
  unfold serviceAt at hs
  dsimp only at hs
  rw [hm] at hs
  split at hs
  case h_1 heq _ =>
    cases heq
    split at hs
    case isTrue hreq => exact hreq.2.2.1
    case isFalse => cases hs
  case h_2 => cases hs

/-- No other number of the same request is served. -/
theorem serviceAt_of_ne {f : RFrame} {fs : List RFrame} {m : Nat} (hm : (s.core k).mstack = f :: fs) (hne : f.cause.toNat ≠ m) :
    serviceAt s k m = none :=
  Option.eq_none_iff_forall_ne_some.mpr fun _ hs => hne (cause_of_serviceAt hm hs)

/-- An unlisted number returns BAD_ARG. -/
theorem otherService_of_unlisted {f : RFrame} {fs : List RFrame} (hm : (s.core k).mstack = f :: fs) (hn : f.cause.toNat = n)
    (hun : n = 0 ∨ 7 < n) (hs : serviceAt s k n = some h) : otherService k s = serviceReturn k (5, s) := by
  unfold otherService
  rw [hm]
  dsimp only
  rw [hn, hs]
  exact if_pos ⟨hun, rfl⟩

/-- A service's command on its own request. -/
theorem service_of_serviceAt {serve : HalfId → State → Nat × State} (hs : serviceAt s k n = some h) :
    service k n serve s = .next (serviceReturn k (serve h s)) := by
  unfold service
  rw [hs]

/-- A service's command on another request. -/
theorem service_of_none {serve : HalfId → State → Nat × State} (hs : serviceAt s k n = none) :
    service k n serve s = .next (otherService k s) := by
  unfold service
  rw [hs]

/-- UPDATE reads the staged image. -/
theorem exec_update (hs : serviceAt s k 4 = some h) (ht : t = serviceReturn k (updateImage s h (serviceArg s k 1) (serviceArg s k 2)))
    (hn : NoHold h s t) : exec (.update k) s = .next t := by
  change execUpdate k s = _
  unfold execUpdate
  rw [hs]
  exact congrArg Host.Outcome.next (unitCmd_eq ht.symm hn)

/-- LC_REQUEST reads its request. -/
theorem exec_lcRequest (hs : serviceAt s k 5 = some h) (ht : t = serviceReturn k (lcRequestAt s h (serviceArg s k 1)))
    (hn : NoHold h s t) : exec (.lcRequest k) s = .next t := by
  change execLcRequest k s = _
  unfold execLcRequest
  rw [hs]
  exact congrArg Host.Outcome.next (unitCmd_eq ht.symm hn)

/-- SAFE takes the device from Run to Safe. -/
theorem exec_safe (hs : serviceAt s k 6 = some h) (hrun : deviceMode s = .run) :
    exec (.safe k) s = .next (enterSafeDevice s 0xFF 0xFF) := by
  change execSafe k s = _
  unfold execSafe
  rw [hs]
  exact congrArg Host.Outcome.next (if_pos hrun)

/-- ACTIVATE that none is under way for. -/
theorem exec_activate_first (hs : serviceAt s k 7 = some h) (ha : s.activating = none) :
    exec (.activate k) s = .next (if activateBad s h (serviceArg s k 1) then serviceReturn k (5, s) else
      activateOwn s h (serviceArg s k 1)) := by
  change execActivate k s = _
  unfold execActivate
  rw [hs]
  dsimp only
  rw [ha]

/-- ACTIVATE while one is between the two dies. -/
theorem exec_activate_rest {d : HalfId} (hs : serviceAt s k 7 = some h) (ha : s.activating = some (d, n)) :
    exec (.activate k) s = .next (if n = serviceArg s k 1 then serviceReturn k (0, activateRest s d n) else serviceReturn k (4, s)) := by
  change execActivate k s = _
  unfold execActivate
  rw [hs]
  dsimp only
  rw [ha]

/-- Each service's command on a request that is not its own. -/
theorem exec_service_other (hnone : ∀ m, 1 ≤ m → m ≤ 7 → serviceAt s k m = none) :
    ∀ c ∈ [Instr.ctrRead k, .ctrAdvance k, .svnCommit k, .update k, .lcRequest k, .safe k, .activate k],
      exec c s = .next (otherService k s) := by
  intro c hc
  simp only [List.mem_cons, List.not_mem_nil, or_false] at hc
  rcases hc with rfl | rfl | rfl | rfl | rfl | rfl | rfl
  · exact service_of_none (hnone 1 (by decide) (by decide))
  · change execCtrAdvance k s = _
    exact service_of_none (hnone 2 (by decide) (by decide))
  · change execSvnCommit k s = _
    exact service_of_none (hnone 3 (by decide) (by decide))
  · change execUpdate k s = _
    unfold execUpdate
    rw [hnone 4 (by decide) (by decide)]
  · change execLcRequest k s = _
    unfold execLcRequest
    rw [hnone 5 (by decide) (by decide)]
  · change execSafe k s = _
    unfold execSafe
    rw [hnone 6 (by decide) (by decide)]
  · change execActivate k s = _
    unfold execActivate
    rw [hnone 7 (by decide) (by decide)]

/-- The services. -/
theorem serviceResult : ServiceResult := by
  refine fun k h s t => ⟨fun hs => service_of_serviceAt hs, fun hs => ?_, fun hs => ?_,
    fun hs ht hn => exec_update hs ht hn, fun hs ht hn => exec_lcRequest hs ht hn, fun hs hrun => exec_safe hs hrun, ?_, ?_⟩
  · change execCtrAdvance k s = _
    exact service_of_serviceAt hs
  · change execSvnCommit k s = _
    exact service_of_serviceAt hs
  · rintro hs slot rfl
    refine ⟨fun ha hbad => ?_, fun ha hok => ?_, fun d ha => ?_, fun d n ha hne => ?_⟩
    · rw [exec_activate_first hs ha, if_pos hbad]
    · rw [exec_activate_first hs ha, if_neg (by rw [hok]; decide)]
    · rw [exec_activate_rest hs ha, if_pos rfl]
    · rw [exec_activate_rest hs ha, if_neg hne]
  · intro f fs n hm hn hun hs c hc
    rw [exec_service_other (fun m h1 h7 => serviceAt_of_ne hm (by omega)) c hc, otherService_of_unlisted hm hn hun hs]

-- counters (R386, R387)

section
variable {c target : Nat}

/-- The value of a counter that is there. -/
theorem counterOf_of_lt {d : Nat} (hd : d < 16) : counterOf s d = s.otp.counters[d] := by
  unfold counterOf Vector.getD Array.getD
  rw [dif_pos (by simpa using hd)]
  rfl

/-- The value of a counter that is none. -/
theorem counterOf_of_le {d : Nat} (hd : 16 ≤ d) : counterOf s d = 0 := by
  unfold counterOf Vector.getD Array.getD
  exact dif_neg (by simpa using hd)

/-- What an advance of a counter to a reachable value leaves of each counter. -/
theorem counterOf_advanceCounter (hc : c ≤ 15) (ht : target ≤ 255) (hlt : counterOf s c < target) (d : Nat) :
    counterOf (advanceCounter s c target) d = if c = d then target else counterOf s d := by
  have hset : advanceCounter s c target = { s with otp := { s.otp with counters := s.otp.counters.setIfInBounds c (min target 255) } } :=
    if_neg (Nat.not_le.mpr hlt)
  rw [hset, Nat.min_eq_left ht]
  by_cases hd : d < 16
  · rw [counterOf_of_lt hd, counterOf_of_lt hd]
    exact Vector.getElem_setIfInBounds hd
  · rw [counterOf_of_le (Nat.not_lt.mp hd), counterOf_of_le (Nat.not_lt.mp hd), if_neg (by omega)]

/-- CTR_ADVANCE that a counter can follow. -/
theorem ctrAdvance_of_lt (h2 : 2 ≤ c) (hc : c ≤ 15) (ht : target ≤ 255) (hlt : counterOf s c < target) :
    ctrAdvance s c target = (0, advanceCounter s c target) := by
  unfold ctrAdvance
  rw [if_neg (by omega), if_neg (Nat.not_le.mpr hlt), if_neg (by omega)]

/-- CTR_ADVANCE leaves the state, or advances a counter to a value that it can follow. -/
theorem ctrAdvance_cases : (ctrAdvance s c target).2 = s ∨
    (c ≤ 15 ∧ target ≤ 255 ∧ counterOf s c < target ∧ (ctrAdvance s c target).2 = advanceCounter s c target) := by
  unfold ctrAdvance
  split
  case isTrue => exact .inl rfl
  case isFalse hrange =>
    split
    case isTrue => exact .inl rfl
    case isFalse hlt =>
      split
      case isTrue => exact .inl rfl
      case isFalse h255 => exact .inr ⟨by omega, by omega, by omega, rfl⟩

end

/-- CTR_ADVANCE and CTR_READ. -/
theorem counterResult : CounterResult := by
  refine fun s c target => ⟨fun h2 hc hle => ?_, fun hr => if_pos hr, fun h2 hc h255 hlt => ?_, fun d => ?_, fun h2 hc ht hlt => ?_,
    fun hc => if_pos hc⟩
  · exact (if_neg (by omega)).trans (if_pos hle)
  · exact (if_neg (by omega)).trans ((if_neg (Nat.not_le.mpr hlt)).trans (if_pos h255))
  · rcases ctrAdvance_cases (s := s) (c := c) (target := target) with he | ⟨hc, ht, hlt, he⟩
    · rw [he]
    · rw [he, counterOf_advanceCounter hc ht hlt]
      split
      case isTrue hcd => exact hcd ▸ hlt.le
      case isFalse => exact le_rfl
  · rw [ctrAdvance_of_lt h2 hc ht hlt, counterOf_advanceCounter hc ht hlt, if_pos rfl]
    exact ⟨rfl, rfl⟩

/-- Settles O38: the services, then the counters. -/
theorem firmwareServiceResult : Obligations.FirmwareServiceResult := ⟨serviceResult, counterResult⟩

-- life cycle and tamper (R392–R397)

/-- The identity key made in vault slot 0 of a half. -/
def makeIdentity (s : State) (h : HalfId) : State :=
  setVault (drbgBytes s h 48).2.takeFree.2 h 0 (some ⟨(drbgBytes s h 48).2.takeFree.1.toNat % 256, 1, (drbgBytes s h 48).1⟩)

/-- What making the identity key leaves: OTP, the transition, and the other half's keys. -/
theorem otp_makeIdentity : (makeIdentity s h).otp = s.otp := by
  simp [makeIdentity, setVault, drbgBytes, updKln]

/-- Making the identity key leaves the transition. -/
theorem xfer_makeIdentity : (makeIdentity s h).xfer = s.xfer := by
  simp [makeIdentity, setVault, drbgBytes, updKln]

/-- The identity key is in vault slot 0. -/
theorem vault_makeIdentity : (SMap.get vaultDefault ((makeIdentity s h).half h).kln.vault 0).isSome = true := by
  have hget : ∀ (m : SMap (Option VaultKey)) (x : VaultKey), SMap.get vaultDefault (SMap.set vaultDefault m 0 (some x)) 0 = some x :=
    fun m x => SMap.get_set_of_ne (by simp [vaultDefault])
  simp [makeIdentity, setVault, updKln, hget]

/-- The other half keeps its keys. -/
theorem kln_makeIdentity_other : ((makeIdentity s h).half h.other).kln = (s.half h.other).kln := by
  simp only [makeIdentity, setVault, drbgBytes, updKln, Option.isSome_some, if_true, State.kln_half_setBit, State.half_upd_other]
  cases h <;> rfl

/-- A transition that completes. -/
theorem exec_lifeCycleTransitionComplete {x : Transition} (hx : s.xfer = some x)
    (ht : t = ({ s with otp := programOtp s.otp x x.steps, xfer := none }.setFld .east Reg.LCS_XRES_BUSY 0).setFld .east
      Reg.LCS_XRES_RESULT 0) :
    exec (.lifeCycleTransitionComplete true) s =
      if x.target ≠ 2 then .next t else .next (makeIdentity (makeIdentity t .east) .west) := by
  subst ht
  change execLifeCycleTransitionComplete true s = _
  unfold execLifeCycleTransitionComplete
  rw [hx]
  rfl

/-- A transition whose programming fails. -/
theorem exec_lifeCycleTransitionComplete_failed {x : Transition} (hx : s.xfer = some x) :
    exec (.lifeCycleTransitionComplete false) s = .next ((stopTransition s).setFld .east Reg.LCS_XRES_RESULT 3) := by
  change execLifeCycleTransitionComplete false s = _
  unfold execLifeCycleTransitionComplete
  rw [hx]
  rfl

/-- Settles O39, clause by clause. -/
theorem lifeCycleAndTamperResult : Obligations.LifeCycleAndTamperResult := by
  refine fun s => ⟨fun x t hx ht => ⟨fun hne => ?_, fun h2 => ⟨makeIdentity (makeIdentity t .east) .west, ?_, ?_, ?_, ?_⟩, exec_lifeCycleTransitionComplete_failed hx⟩,
    fun c hon => congrArg Host.Outcome.next (if_neg (by rw [hon]; decide)),
    fun c hoff => congrArg Host.Outcome.next (if_pos (by rw [hoff]; decide))⟩
  · rw [exec_lifeCycleTransitionComplete hx ht, if_pos hne]
  · rw [exec_lifeCycleTransitionComplete hx ht, if_neg (not_not.mpr h2)]
  · rw [otp_makeIdentity, otp_makeIdentity]
  · rw [xfer_makeIdentity, xfer_makeIdentity, ht]
    simp
  · intro h
    cases h with
    | east =>
      have hother := kln_makeIdentity_other (s := makeIdentity t .east) (h := .west)
      exact (congrArg (fun y : Kiln => (SMap.get vaultDefault y.vault 0).isSome) hother).trans vault_makeIdentity
    | west => exact vault_makeIdentity

end Sys2Proof.Proofs
end

section
/-! Modes and power: resets, start-up and DDR (O40), Watch, wakes and voltage (O41), low-speed I/O and the BMC's reads (O42). -/

namespace Sys2Proof.Proofs

open Sys2Proof Sys2Proof.Machine

variable {s t : State} {h k : HalfId}

-- resets (R394, R403, R406, R407)

/-- Resets and rails. -/
theorem resetResult : ResetResult := by
  refine fun s => ⟨rfl, fun hp => congrArg Host.Outcome.next (if_pos hp), fun hp => congrArg Host.Outcome.next (if_neg (by rw [hp]; decide)),
    ?_, fun hp => ?_⟩
  · rintro t rfl
    exact ⟨fun hm => congrArg Host.Outcome.next (if_pos hm), fun hm => congrArg Host.Outcome.next (if_neg hm)⟩
  · have hup : ¬ (!s.porst) = true := by rw [hp]; decide
    refine ⟨if_neg hup, if_neg hup, if_neg hup, if_neg hup, fun r hr => (if_neg hup).trans ?_⟩
    simp only [List.mem_cons, List.not_mem_nil, or_false] at hr
    rcases hr with rfl | rfl | rfl | rfl | rfl <;> rfl

-- start-up (R385, R404)

/-- A boot stage's completion at the latch holder, in Boot. -/
theorem exec_bootStageComplete {n : Fin 6} {ok : Bool} (hl : s.latch = some h) (hb : deviceMode s = .boot) :
    exec (.bootStageComplete n ok) s = if s.bootStage = n.val then .next (bootStageWork s h (n.val + 1) ok) else .next s := by
  change execBootStageComplete n ok s = _
  unfold execBootStageComplete
  rw [hl]
  simp only [hb, true_and]

/-- Start-up. -/
theorem bootResult : BootResult := by
  refine fun s hb => ⟨fun h n ok hl => ⟨fun hs => ?_, fun hs => ?_⟩, ?_⟩
  · rw [exec_bootStageComplete hl hb, if_pos hs]
  · rw [exec_bootStageComplete hl hb, if_neg hs]
  · rintro hs hl hE hW t rfl
    exact if_pos ⟨hb, hs, hl, hE, hW⟩

-- DDR (R175, R176)

/-- An address below a bound reads as before when the entries at and above it go. -/
theorem get_filter_lt {b a : Nat} (m : List Host.Cell) :
    SMap.get memDefault (m.filter fun c => c.1 < b) a = if a < b then SMap.get memDefault m a else 0 := by
  induction m with
  | nil => simp [SMap.get, memDefault]
  | cons c m ih =>
    by_cases hc : c.1 < b
    · rw [List.filter_cons_of_pos (by simpa using hc)]
      simp only [SMap.get, ih]
      by_cases ha : a = c.1
      · rw [if_pos ha, if_pos ha, if_pos (ha ▸ hc)]
      · rw [if_neg ha, if_neg ha]
    · rw [List.filter_cons_of_neg (by simpa using hc), ih]
      by_cases ha : a < b
      · rw [if_pos ha, if_pos ha]
        exact (if_neg fun (he : a = c.1) => hc (he ▸ ha)).symm
      · rw [if_neg ha, if_neg ha]

/-- Training of a half's DIMMs. -/
theorem exec_ddrTrainingComplete {p : DdrPopulation} (hm : (s.half h).mode ≠ .reset) (htr : s.flag h Reg.DDR_STAT_TRAINED = false)
    (hce : s.flag h Reg.DDR_STAT_CFG_ERR = false)
    (ht : t = ((s.setFld h Reg.DDR_STAT_DIMMS p.slots.toNat).setFld h Reg.DDR_STAT_CAP_GIB p.capGib.toNat).setFld h Reg.DDR_STAT_RATE
      (if p.dimmsPerChannel.toNat = 1 then 64 else if p.dimmsPerChannel.toNat = 2 then 56 else 0)) :
    exec (.ddrTrainingComplete h p) s = if ddrSupported p then
        .next ((t.setFld h Reg.DDR_STAT_TRAINED 1).upd h fun x => { x with ddrGib := 4 * p.capGib.toNat })
      else .next (if ((t.setFld h Reg.DDR_STAT_CFG_ERR 1).half h).mode = .boot then
        enterSafeDevice (t.setFld h Reg.DDR_STAT_CFG_ERR 1) 0xFF 0xFF else t.setFld h Reg.DDR_STAT_CFG_ERR 1) := by
  subst ht
  exact if_neg (by simp [hm, htr, hce])

/-- Initialisation of a trained half's DDR: its memory holds nothing at and above DDR's base. -/
theorem exec_ddrInitComplete (htr : s.flag h Reg.DDR_STAT_TRAINED = true) (hin : s.flag h Reg.DDR_STAT_INIT_DONE = false) :
    ∃ t, exec (.ddrInitComplete h) s = .next t ∧
      (t.half h).mem.cells = (s.half h).mem.cells.filter (fun c => c.1 < ddrBase) ∧
      (t.half h).mem.tags = (s.half h).mem.tags.filter (fun g => !isDdrGranule g) ∧
      (t.half h).mem.poison = (s.half h).mem.poison.filter (fun g => !isDdrGranule g) := by
  refine ⟨_, if_neg (by rw [htr, hin]; decide), ?_⟩
  simp only [State.mem_half_setFld, State.half_upd_self, and_self]

/-- Training and initialisation. -/
theorem ddrResult : DdrResult := by
  refine fun h s => ⟨fun p t hm htr hce ht => ⟨fun hs => ?_, fun hs u hu => ?_⟩, fun htr hin _ => ?_⟩
  · rw [exec_ddrTrainingComplete hm htr hce ht, if_pos hs]
  · rw [exec_ddrTrainingComplete hm htr hce ht, if_neg (by rw [hs]; decide), hu]
  · obtain ⟨t, hexec, hcells, htags, hpoison⟩ := exec_ddrInitComplete htr hin
    have hread : ∀ a, readCells (t.half h).mem.cells a 1 = [if a < ddrBase then SMap.get memDefault (s.half h).mem.cells a else 0] :=
      fun a => by rw [hcells]; exact congrArg (fun b => [b]) (get_filter_lt _)
    refine ⟨t, hexec, fun a ha => ?_, fun a ha => ?_, fun g hg => ?_, fun g hg => ?_⟩
    · rw [hread, if_neg (Nat.not_lt.mpr ha)]
    · rw [hread, if_pos ha]
      rfl
    · rw [htags, hpoison]
      simp [hg]
    · rw [htags]
      simp [hg]

/-- Settles O40: resets, start-up, DDR. -/
theorem startUpResult : Obligations.StartUpResult := ⟨resetResult, bootResult, ddrResult⟩

-- set-up registers in any state

/-- A register that is not the one written reads as before. -/
theorem reg_setReg_ne {blk off b o : Nat} {w : Word} (hne : regHome k b ≠ regHome h blk ∨ b * 0x10000 + o ≠ blk * 0x10000 + off) :
    (s.setReg h blk off w).reg k b o = s.reg k b o := by
  unfold State.reg State.setReg
  by_cases hhome : regHome k b = regHome h blk
  · rw [hhome, State.half_upd_self]
    exact SMap.get_set_ne (hne.resolve_left (not_not.mpr hhome))
  · rw [State.half_upd_ne _ _ hhome]

/-- A register written with a word that is not its reset value reads as that word. -/
theorem reg_setReg_of_ne {blk off : Nat} {w : Word} (hw : w ≠ regReset (regHome h blk) (blk * 0x10000 + off)) :
    (s.setReg h blk off w).reg h blk off = w := by
  unfold State.reg State.setReg
  rw [State.half_upd_self]
  exact SMap.get_set_of_ne hw

/-- A field that is written reads as what was written, cut to its width. -/
theorem nbits_putBits (w : Word) {hi lo v : Nat} (hlo : lo ≤ hi) (hhi : hi < 64) :
    nbits (putBits w hi lo v).toNat hi lo = v % 2 ^ (hi + 1 - lo) := by
  apply Nat.eq_of_testBit_eq
  intro j
  rw [Nat.testBit_mod_two_pow]
  by_cases hj : lo + j ≤ hi
  · rw [testBit_nbits _ _ _ _ hj, testBit_putBits _ _ _ hlo (by omega), if_pos ⟨by omega, hj⟩,
      decide_eq_true (by omega), Bool.true_and, Nat.add_sub_cancel_left]
  · rw [decide_eq_false (by omega), Bool.false_and]
    exact Nat.testBit_lt_two_pow (lt_of_lt_of_le (Nat.mod_lt _ (by positivity)) (Nat.pow_le_pow_right (by decide) (by omega)))

/-- A field written with what is not its reset value reads so, in any state. -/
theorem fld_setFld_of_ne {f : Fld} {v : Nat} (hlo : f.lo ≤ f.hi) (hhi : f.hi < 64) (hv : v < 2 ^ (f.hi + 1 - f.lo))
    (hne : nbits (regReset (regHome h f.blk) (f.blk * 0x10000 + f.off)).toNat f.hi f.lo ≠ v) :
    (s.setFld h f v).fld h f = v := by
  have hval : nbits (putBits (s.reg h f.blk f.off) f.hi f.lo v).toNat f.hi f.lo = v := by
    rw [nbits_putBits _ hlo hhi, Nat.mod_eq_of_lt hv]
  unfold State.fld State.setFld
  rw [reg_setReg_of_ne fun he => hne (by rw [← he]; exact hval), hval]

/-- A field of another register reads as before. -/
theorem fld_setFld_ne {f g : Fld} {v : Nat}
    (hne : regHome k g.blk ≠ regHome h f.blk ∨ g.blk * 0x10000 + g.off ≠ f.blk * 0x10000 + f.off) :
    (s.setFld h f v).fld k g = s.fld k g := by
  unfold State.fld State.setFld
  rw [reg_setReg_ne hne]

-- wakes (R410)

/-- A wake's code and counter on one half. -/
def noteWake (src : WakeSource) (s : State) (h : HalfId) : State :=
  (s.setFld h Reg.PWR_STAT_WAKE (wakeCode src)).incFld h Reg.PWR_CNT_WAKES

/-- PWR_STAT.WAKE resets to 0. -/
theorem wake_regReset : ∀ h : HalfId, nbits (regReset (regHome h Reg.PWR_STAT_WAKE.blk)
    (Reg.PWR_STAT_WAKE.blk * 0x10000 + Reg.PWR_STAT_WAKE.off)).toNat Reg.PWR_STAT_WAKE.hi Reg.PWR_STAT_WAKE.lo = 0 := by
  intro h
  cases h <;> decide +kernel

/-- Every source has a code that is not 0. -/
theorem wakeCode_bounds (src : WakeSource) : wakeCode src ≠ 0 ∧ wakeCode src < 16 := by
  cases src <;> decide

/-- The half that a wake is noted on shows its source. -/
theorem wake_noteWake_self {src : WakeSource} : (noteWake src s h).fld h Reg.PWR_STAT_WAKE = wakeCode src := by
  obtain ⟨hne, hlt⟩ := wakeCode_bounds src
  refine (fld_setFld_ne (.inr (by decide))).trans (fld_setFld_of_ne (by decide) (by decide) hlt ?_)
  rw [wake_regReset]
  exact hne.symm

/-- PWR_STAT and PWR_CNT are each half's own (R31). -/
theorem regHome_power (h : HalfId) : regHome h 0x11 = h := if_neg (by decide)

/-- The other half keeps what it shows. -/
theorem wake_noteWake_ne {src : WakeSource} (hne : k ≠ h) :
    (noteWake src s h).fld k Reg.PWR_STAT_WAKE = s.fld k Reg.PWR_STAT_WAKE := by
  have hhome : regHome k 0x11 ≠ regHome h 0x11 := by rwa [regHome_power, regHome_power]
  exact (fld_setFld_ne (.inl hhome)).trans (fld_setFld_ne (.inl hhome))

/-- Registers do not depend on whether the device wakes. -/
theorem fld_waking {b : Bool} {f : Fld} : ({ s with waking := b } : State).fld h f = s.fld h f := by
  unfold State.fld State.reg
  cases regHome h f.blk <;> rfl

/-- A wake begins: it is noted on both halves. -/
theorem beginWake_spec {src : WakeSource} :
    (beginWake s src).waking = true ∧ ∀ h, (beginWake s src).fld h Reg.PWR_STAT_WAKE = wakeCode src := by
  refine ⟨rfl, fun h => ?_⟩
  have hbegin : beginWake s src = { noteWake src (noteWake src s .east) .west with waking := true } := rfl
  rw [hbegin, fld_waking]
  cases h with
  | east => rw [wake_noteWake_ne (by decide), wake_noteWake_self]
  | west => exact wake_noteWake_self

/-- A source that is there starts a wake in Watch. -/
theorem startWake_of_watch {src : WakeSource} (hm : deviceMode s = .watch) (hw : s.waking = false)
    (hthere : wakeThere s src .east = true ∨ wakeThere s src .west = true) : startWake s src = beginWake s src := by
  unfold startWake
  rw [if_neg (by simp [hm, hw]), if_pos hthere]

/-- Nothing wakes outside Watch. -/
theorem startWake_of_ne {src : WakeSource} (hm : deviceMode s ≠ .watch) : startWake s src = s := if_pos (.inl hm)

-- the return to Run (R410)

/-- A half's return to Run from Watch. -/
def wakeHalf (s : State) (h : HalfId) : State :=
  if (s.half h).mode = .watch then setMode (setVolts s h (s.half h).vrun) h .run else s

/-- The pins do not touch the halves. -/
theorem half_refreshPins : (refreshPins s).half k = s.half k := by cases k <;> rfl

/-- A half in Watch goes to Run at the voltage that it had there. -/
theorem wakeHalf_of_watch (hm : (s.half h).mode = .watch) :
    wakeHalf s h = refreshPins (((setVolts s h (s.half h).vrun).upd h fun x => { x with mode := .run }).setFld h Reg.PWR_STAT_MODE 2) := by
  have hboot : ¬ (((setVolts s h (s.half h).vrun).half h).mode = .boot ∧ Mode.run ≠ .boot ∧ Mode.run ≠ .reset) := by
    rintro ⟨hb, -⟩
    rw [setVolts, State.half_upd_self] at hb
    cases hm.symm.trans hb
  unfold wakeHalf
  rw [if_pos hm]
  unfold setMode
  rw [if_neg hboot]

/-- What a half's return to Run leaves of it. -/
theorem wakeHalf_self (hm : (s.half h).mode = .watch) :
    ((wakeHalf s h).half h).mode = .run ∧ ((wakeHalf s h).half h).vset = (s.half h).vrun ∧
      ((wakeHalf s h).half h).safeDue = (s.half h).safeDue := by
  rw [wakeHalf_of_watch hm, half_refreshPins]
  simp [setVolts]

/-- What a half's return to Run leaves of the other. -/
theorem wakeHalf_ne (hm : (s.half h).mode = .watch) (hne : k ≠ h) :
    ((wakeHalf s h).half k).mode = (s.half k).mode ∧ ((wakeHalf s h).half k).vset = (s.half k).vset ∧
      ((wakeHalf s h).half k).vrun = (s.half k).vrun ∧ ((wakeHalf s h).half k).safeDue = (s.half k).safeDue := by
  rw [wakeHalf_of_watch hm, half_refreshPins]
  simp [setVolts, State.half_upd_ne _ _ hne]

/-- No Safe entry is due: nothing happens. -/
theorem safeNow_of_none (hn : (s.half h).safeDue = none) : safeNow s h = s := by
  unfold safeNow
  rw [hn]

/-- WAKE_COMPLETE in Watch, with no Safe entry due. -/
theorem exec_wakeComplete (hw : s.waking = true) (hE : (s.half .east).mode = .watch) (hW : (s.half .west).mode = .watch)
    (hdE : (s.half .east).safeDue = none) (hdW : (s.half .west).safeDue = none) :
    exec .wakeComplete s = .next { wakeHalf (wakeHalf s .east) .west with waking := false } := by
  obtain ⟨-, -, heE⟩ := wakeHalf_self hE
  obtain ⟨hmW, -, -, hsW⟩ := wakeHalf_ne hE (k := .west) (by decide)
  obtain ⟨-, -, heW⟩ := wakeHalf_self (hmW.trans hW)
  obtain ⟨-, -, -, hsE⟩ := wakeHalf_ne (hmW.trans hW) (k := .east) (by decide)
  have heast : safeNow { wakeHalf (wakeHalf s .east) .west with waking := false } .east =
      { wakeHalf (wakeHalf s .east) .west with waking := false } := safeNow_of_none (hsE.trans (heE.trans hdE))
  have hwest : safeNow { wakeHalf (wakeHalf s .east) .west with waking := false } .west =
      { wakeHalf (wakeHalf s .east) .west with waking := false } := safeNow_of_none (heW.trans (hsW.trans hdW))
  refine (if_neg (by rw [hw]; decide)).trans (congrArg Host.Outcome.next ?_)
  exact (congrArg (safeNow · .west) heast).trans hwest

/-- Settles O41, clause by clause. -/
theorem powerResult : Obligations.PowerResult := by
  refine fun h s => ⟨fun l hl hE hW hen hiE hiW hlong => ?_, fun src hm hw hthere => ?_, fun hw hE hW hdE hdW => ?_,
    fun mv hs => if_pos hs, fun vout tj ps hm => ⟨?_, ?_⟩⟩
  · change execWatchEntry s = _
    unfold execWatchEntry
    rw [hl]
    exact if_pos ⟨hE, hW, hen, hiE, hiW, hlong⟩
  · exact ⟨_, congrArg Host.Outcome.next (startWake_of_watch hm hw hthere), beginWake_spec⟩
  · obtain ⟨hmE, hvE, -⟩ := wakeHalf_self (h := .east) hE
    obtain ⟨hmW, -, hrW, -⟩ := wakeHalf_ne (h := .east) hE (k := .west) (by decide)
    obtain ⟨hmW', hvW, -⟩ := wakeHalf_self (hmW.trans hW)
    obtain ⟨hmE', hvE', -, -⟩ := wakeHalf_ne (hmW.trans hW) (k := .east) (by decide)
    exact ⟨_, exec_wakeComplete hw hE hW hdE hdW, rfl, hmE'.trans hmE, hmW', hvE'.trans hvE, hvW.trans hrW⟩
  · rintro t rfl
    exact (if_neg hm).trans (if_pos rfl)
  · rintro t rfl
    refine (if_neg hm).trans ((if_neg Bool.false_ne_true).trans (congrArg Host.Outcome.next ?_))
    exact if_congr (by omega) rfl rfl

-- low-speed I/O (R433)

/-- An output pin's level is its bit of OUT. -/
theorem testBit_gpioLevels {j : Nat} (hj : j < 16) (hdir : (s.fld .east Reg.LIO_GPIO_DIR_DIR).testBit j = true) :
    (gpioLevels s).testBit j = (s.fld .east Reg.LIO_GPIO_OUT_OUT).testBit j := by
  have hout : ∀ m : Nat, (BitVec.ofNat 16 m).getLsbD j = m.testBit j := fun m => by
    rw [BitVec.getLsbD_ofNat, decide_eq_true hj, Bool.true_and]
  unfold gpioLevels
  dsimp only
  rw [BitVec.testBit_toNat, BitVec.getLsbD_or, BitVec.getLsbD_and, BitVec.getLsbD_and, BitVec.getLsbD_not, hout, hout, hdir]
  simp

/-- A read of LIO_GPIO_IN gives the levels of the 16 pins. -/
theorem testBit_regWord_gpio {j : Nat} (hj : j < 16) : (regWord s .east 0x13 0x10).testBit j = (gpioLevels s).testBit j := by
  have hreg : ∃ d, regAt 0x13 0x10 = some d ∧ (d.maskOf fun a => a != .wo) = 2 ^ 16 - 1 := by decide +kernel
  obtain ⟨d, hd, hmask⟩ := hreg
  have hlive : ∀ w, liveWord s .east 0x13 0x10 w = gpioLevels s := fun _ => rfl
  unfold regWord
  rw [if_neg (by decide), hd]
  dsimp only
  rw [hlive, hmask, Nat.testBit_and, Nat.testBit_two_pow_sub_one, decide_eq_true hj, Bool.and_true]

/-- SPI, the UARTs and the pins. -/
theorem lowSpeedResult : LowSpeedResult := by
  refine fun n s => ⟨fun j hj hdir => ?_, fun w rx hs => ⟨fun hw => ?_, fun hw => ?_⟩, fun b hen hroom => if_pos ⟨hen, hroom⟩,
    fun b hfull => if_neg fun hroom => absurd hroom.2 (Nat.not_lt.mpr hfull), fun b q hen hq => ?_⟩
  · rw [testBit_regWord_gpio hj, testBit_gpioLevels hj hdir]
  · change execSpiTransferComplete rx s = _
    unfold execSpiTransferComplete
    rw [hs]
    dsimp only
    rw [if_pos hw]
  · change execSpiTransferComplete rx s = _
    unfold execSpiTransferComplete
    rw [hs]
    dsimp only
    rw [if_neg (by rw [hw]; exact Bool.false_ne_true)]
  · change execUartTransmit n s = _
    unfold execUartTransmit
    rw [hq]
    exact if_pos hen

-- the BMC (R432)

/-- A block read outside Reset. -/
theorem smbRead_of_ne {w : Nat} (hm : deviceMode s ≠ .reset) : smbRead s w = .next (s.emit (.smbBlock (BitVec.ofNat 64 w))) :=
  congrArg Host.Outcome.next (if_neg hm)

/-- The BMC's reads and its wake. -/
theorem smbusResult : SmbusResult := by
  refine fun h s => ⟨fun hm => ⟨smbRead_of_ne hm, smbRead_of_ne hm, smbRead_of_ne hm, smbRead_of_ne hm, smbRead_of_ne hm⟩,
    fun hm hw => ?_, fun hm => congrArg Host.Outcome.next (startWake_of_ne hm)⟩
  exact ⟨_, congrArg Host.Outcome.next (startWake_of_watch hm hw (.inl rfl)), beginWake_spec⟩

/-- Settles O42: low-speed I/O, then the BMC. -/
theorem lowSpeedAndBmcResult : Obligations.LowSpeedAndBmcResult := ⟨lowSpeedResult, smbusResult⟩

end Sys2Proof.Proofs
end

section
/-! Returns: RET and RETI (O12). A fill of the frame cache from the return stack keeps the core's level. -/

namespace Sys2Proof.Proofs

open Sys2Proof Sys2Proof.Machine

variable {k : CoreId} {s t : State} {R : TCap} {L : Nat}

-- what a fill keeps

/-- A core's return-stack capability and level. -/
def StackAt (k : CoreId) (R : TCap) (L : Nat) (s : State) : Prop := (s.core k).rsc = R ∧ (s.core k).level = L

/-- A part of an instruction that, where it succeeds, keeps them. -/
def KeepsStack (k : CoreId) (R : TCap) (L : Nat) {α : Type} (m : Exec α) : Prop :=
  ∀ s a t, StackAt k R L s → m.run s = .ok a t → StackAt k R L t

/-- A state that differs outside the cores. -/
theorem StackAt.of_workOf (h : StackAt k R L s) (hw : workOf t = workOf s) : StackAt k R L t := by
  unfold StackAt
  rw [core_congr hw]
  exact h

/-- A core changed elsewhere: a tagged capability tells it from a core at reset, so the change reads back. -/
theorem StackAt.setCore (hR : R.tag = true) {c : Core} (hrsc : c.rsc = R) (hlevel : c.level = L) : StackAt k R L (s.setCore k c) := by
  have hne : c ≠ coreDefault k.num := by
    rintro rfl
    rw [← hrsc] at hR
    cases hR
  have hback : (s.setCore k c).core k = c := by
    simp only [State.setCore, State.setCoreN, State.core, State.coreN, State.half_upd_self]
    exact SMap.get_set_of_ne hne
  unfold StackAt
  rw [hback]
  exact ⟨hrsc, hlevel⟩

theorem KeepsStack.pure {α : Type} (a : α) : KeepsStack k R L (Pure.pure a : Exec α) := by
  intro s b t hs h
  cases h
  exact hs

theorem KeepsStack.bind {α β : Type} {m : Exec α} {f : α → Exec β} (hm : KeepsStack k R L m) (hf : ∀ a, KeepsStack k R L (f a)) :
    KeepsStack k R L (m >>= f) := by
  intro s b t hs h
  obtain ⟨a, u, h1, h2⟩ := run_bind_elim h
  exact hf a u b t (hm s a u hs h1) h2

/-- A part that never succeeds. -/
theorem KeepsStack.of_ne_ok {α : Type} {m : Exec α} (hm : ∀ s a t, m.run s ≠ .ok a t) : KeepsStack k R L m :=
  fun s a t _ h => absurd h (hm s a t)

theorem KeepsStack.ite {α : Type} {g : Prop} [Decidable g] {m r : Exec α} (hm : g → KeepsStack k R L m) (hr : ¬ g → KeepsStack k R L r) :
    KeepsStack k R L (if g then m else r) := by
  by_cases hg : g
  · rw [if_pos hg]
    exact hm hg
  · rw [if_neg hg]
    exact hr hg

/-- A branch that never succeeds was not taken. -/
theorem run_if_elim {α : Type} {g : Prop} [Decidable g] {m r : Exec α} {b : α} (hm : ∀ s a t, m.run s ≠ .ok a t)
    (h : (if g then m else r).run s = .ok b t) : ¬ g ∧ r.run s = .ok b t := by
  split at h
  · exact absurd h (hm s b t)
  · next hg => exact ⟨hg, h⟩

/-- A guard before the rest. -/
theorem KeepsStack.guard {α β : Type} {g : Prop} [Decidable g] {m : Exec α} {f : α → Exec β} {r : Exec β}
    (hm : ∀ s a t, m.run s ≠ .ok a t) (hr : KeepsStack k R L r) : KeepsStack k R L (if g then m >>= f else r) := by
  refine .ite (fun _ s b t _ h => ?_) fun _ => hr
  obtain ⟨a, u, h1, -⟩ := run_bind_elim h
  exact absurd h1 (hm s a u)

/-- What reads the state first. -/
theorem KeepsStack.get_bind {β : Type} {f : State → Exec β}
    (hf : ∀ s b t, StackAt k R L s → (f s).run s = .ok b t → StackAt k R L t) : KeepsStack k R L (get >>= f) := by
  intro s b t hs h
  rw [run_bind_ok run_get] at h
  exact hf s b t hs h

/-- What reads the core first. -/
theorem KeepsStack.getCore_bind {β : Type} {f : Core → Exec β} (hf : ∀ c, KeepsStack k R L (f c)) :
    KeepsStack k R L (getCore k >>= f) := by
  intro s b t hs h
  rw [run_bind_ok run_getCore] at h
  exact hf _ s b t hs h

/-- A part for each member of a list. -/
theorem KeepsStack.mapM {α β : Type} {f : α → Exec β} (hf : ∀ a, KeepsStack k R L (f a)) : ∀ xs : List α, KeepsStack k R L (xs.mapM f)
  | [] => by
    rw [List.mapM_nil]
    exact .pure []
  | x :: xs => by
    rw [List.mapM_cons]
    exact .bind (hf x) fun _ => .bind (KeepsStack.mapM hf xs) fun _ => .pure _

/-- What a handler that never succeeds guards. -/
theorem run_tryCatch_elim {α : Type} {m : Exec α} {f : Stop → Exec α} {a : α} (hf : ∀ e s a t, (f e).run s ≠ .ok a t)
    (h : (tryCatch m f : Exec α).run s = .ok a t) : m.run s = .ok a t := by
  change EStateM.tryCatch m f s = .ok a t at h
  unfold EStateM.tryCatch at h
  cases hr : m s with
  | ok b u =>
    rw [hr] at h
    cases h
    exact hr
  | error e u =>
    rw [hr] at h
    exact absurd h (hf e u a t)

section

variable (hR : R.tag = true)
include hR

/-- A change of the core elsewhere. -/
theorem KeepsStack.modCore {f : Core → Core} (hrsc : ∀ c, (f c).rsc = c.rsc) (hlevel : ∀ c, (f c).level = c.level) :
    KeepsStack k R L (modCore k f) := by
  intro s a t hs h
  rw [run_modCore] at h
  cases h
  exact StackAt.setCore hR ((hrsc _).trans hs.1) ((hlevel _).trans hs.2)

-- the parts of a fill

omit hR in
@[simp] theorem workOf_walkRead {h : HalfId} {mid a : Nat} : workOf (walkRead s h mid a).2 = workOf s := by
  unfold walkRead
  split
  · split
    · dsimp only
      split <;> simp
    · simp
    · simp
    · simp
  · split
    · dsimp only
      split <;> simp
    · simp
    · simp
    · simp
  · simp
  · rfl

omit hR in
@[simp] theorem workOf_walkFrom {c : WalkCtx} {va n level table : Nat} {ws : List WalkEntry} :
    workOf (walkFrom c va n level table ws s).2.2 = workOf s := by
  induction n generalizing level table ws s with
  | zero => rfl
  | succ n ih =>
    unfold walkFrom
    dsimp only
    split
    · exact ih
    · have hread := workOf_walkRead (s := s) (h := c.half) (mid := c.mid)
        (a := table + 8 * (va >>> walkShift level % if level = 4 then 128 else 512))
      split
      next u hu =>
        rw [hu] at hread
        exact hread
      next e u hu =>
        rw [hu] at hread
        split_ifs
        · exact hread
        · exact hread
        · exact hread
        · exact hread
        · exact hread
        · exact ih.trans hread

omit hR in
@[simp] theorem workOf_translateVia {h : HalfId} {mid root : Nat} {ctx : BitVec 16} {x : Tlb} {level va : Nat} {kind : AccKind} :
    workOf (translateVia s h mid root ctx x level va kind).2.2 = workOf s := by
  unfold translateVia
  dsimp only
  split
  · split_ifs <;> rfl
  · have hwalk := workOf_walkFrom (s := s) (c := ⟨h, mid, root, ctx, x.walk⟩) (va := va) (n := 5) (level := 4) (table := root) (ws := [])
    split
    next hw =>
      rw [hw] at hwalk
      exact hwalk
    next hw =>
      rw [hw] at hwalk
      split_ifs
      · exact hwalk
      · exact hwalk

omit hR in
@[simp] theorem workOf_physRead {mid phys n : Nat} {cap cached : Bool} : workOf (physRead s k mid phys n cap cached).2.2.2 = workOf s := by
  unfold physRead
  dsimp only
  split
  · exact workOf_homeBytes
  · exact workOf_homeBytes
  · split
    · rfl
    · exact workOf_codeRead
  · exact workOf_hostRead
  · exact workOf_busRead
  · rfl

theorem KeepsStack.translate {level va origin : Nat} {kind : AccKind} : KeepsStack k R L (translate k level va kind origin) := by
  unfold Machine.translate
  refine .ite (fun _ => .guard run_memFault_ne_ok (.pure _)) fun _ => .getCore_bind fun c => ?_
  split
  · exact .ite (fun _ => .pure _) fun _ => .of_ne_ok run_memFault_ne_ok
  · refine .get_bind fun s b t hs h => ?_
    obtain ⟨-, h⟩ := run_guard_elim run_memFault_ne_ok h
    dsimp only at h
    have hvia := workOf_translateVia (s := s) (h := k.half) (mid := 0x33 + k.grove.val) (root := c.root) (ctx := c.ctx)
      (x := ⟨c.tlb, c.walk, 96, 32⟩) (level := level) (va := va) (kind := kind)
    obtain ⟨_, u, hset, h⟩ := run_bind_elim h
    cases hset
    obtain ⟨_, v, hmod, h⟩ := run_bind_elim h
    have hv := KeepsStack.modCore hR (by intro; rfl) (by intro; rfl) _ _ _ (hs.of_workOf hvia) hmod
    split at h
    · cases h
      exact hv
    · split at h
      · exact absurd h (run_memFault_ne_ok _ _ _)
      · cases h

omit hR in
theorem KeepsStack.boundary {mid phys n va origin : Nat} {kind : AccKind} : KeepsStack k R L (boundary k mid kind phys n va origin) := by
  unfold Machine.boundary
  refine .get_bind fun s b t hs h => ?_
  split at h
  · cases h
    exact hs
  · cases h
  · cases h
  · unfold boundaryFault at h
    cases h

theorem KeepsStack.resolvePart {level : Nat} {x : AccReq} {p : Nat × Nat} : KeepsStack k R L (resolvePart k level x p) := by
  unfold Machine.resolvePart
  refine .guard run_memFault_ne_ok (.bind (.translate hR) fun y => .getCore_bind fun c => .guard run_memFault_ne_ok ?_)
  refine .get_bind fun s b t hs h => ?_
  exact KeepsStack.guard run_memFault_ne_ok (.guard run_misaligned_ne_ok (.bind .boundary fun _ => .pure _)) s b t hs h

omit hR in
theorem KeepsStack.resolveRemote {level : Nat} {x : AccReq} {p : Nat × Nat} : KeepsStack k R L (resolveRemote k level x p) := by
  unfold Machine.resolveRemote
  refine .guard run_memFault_ne_ok (.guard run_memFault_ne_ok (.get_bind fun s b t hs h => ?_))
  dsimp only at h
  split at h
  · cases h
  · obtain ⟨-, h⟩ := run_guard_elim run_memFault_ne_ok h
    obtain ⟨-, h⟩ := run_guard_elim run_memFault_ne_ok h
    obtain ⟨-, h⟩ := run_if_elim (fun s a t h => by cases h) h
    cases h
    exact hs

theorem KeepsStack.resolve {cap stored : TCap} {ea : Int} {n origin : Nat} {kind : AccKind} {capWidth : Bool} :
    KeepsStack k R L (resolve k cap ea n kind capWidth origin stored) := by
  unfold Machine.resolve
  refine .getCore_bind fun c => .guard run_memFault_ne_ok (.guard run_memFault_ne_ok (.guard run_memFault_ne_ok
    (.guard run_memFault_ne_ok (.guard run_memFault_ne_ok ?_))))
  have hparts : ∀ ps : List (Nat × Nat), KeepsStack k R L (if cap.node = 511 then
      ps.mapM (Machine.resolvePart k c.level ⟨cap, ea, n, kind, origin, stored⟩) else do
        let _ ← ps.mapM (Machine.resolveRemote k c.level ⟨cap, ea, n, kind, origin, stored⟩)
        return [⟨unsignedOf 55 ea, n, unsignedOf 55 ea, false, true, false, none, true, true, origin⟩]) := fun ps =>
    .ite (fun _ => .mapM (fun p => .resolvePart hR) ps) fun _ => .bind (.mapM (fun p => .resolveRemote) ps) fun _ => .pure _
  exact .ite (fun _ => .bind (.modCore hR (by intro; rfl) (by intro; rfl)) fun _ => hparts _) fun _ => hparts _

theorem KeepsStack.paceTicks {n : Nat} : KeepsStack k R L (paceTicks k n) := by
  unfold Machine.paceTicks
  refine .get_bind fun s b t hs h => ?_
  split at h
  · dsimp only at h
    split at h
    · cases h
    · exact KeepsStack.modCore hR (by intro; rfl) (by intro; rfl) _ _ _ hs h
  · cases h
    exact hs

omit hR in
theorem KeepsStack.awaitDest {p : LongDest → Bool} : KeepsStack k R L (awaitDest k p) := by
  unfold Machine.awaitDest
  refine .getCore_bind fun c => ?_
  split
  · exact .of_ne_ok fun s a t h => by cases h
  · exact .ite (fun _ => .of_ne_ok fun s a t h => by cases h) fun _ => .pure _

omit hR in
theorem KeepsStack.awaitSide {side : Bool} : KeepsStack k R L (awaitSide k side) := by
  unfold Machine.awaitSide Machine.awaitWrite
  refine .ite (fun _ => .getCore_bind fun c => ?_) fun _ => .pure _
  split
  · exact .of_ne_ok fun s a t h => by cases h
  · exact .pure _

omit hR in
/-- A request to another node succeeds where its response has come, and changes nothing then. -/
theorem KeepsStack.remoteCall {p : Packet} {va : Nat} : KeepsStack k R L (remoteCall k p va) := by
  unfold Machine.remoteCall
  refine .getCore_bind fun c => ?_
  split
  · refine .ite (fun _ => .pure _) fun _ => .ite (fun _ => .of_ne_ok run_memFault_ne_ok) fun _ => .ite (fun _ => ?_) fun _ =>
      .ite (fun _ => .of_ne_ok run_memFault_ne_ok) fun _ => .of_ne_ok run_memFault_ne_ok
    exact .of_ne_ok fun s a t h => by cases h
  · refine .get_bind fun s b t hs h => ?_
    split at h
    · cases h
    · dsimp only at h
      split at h
      · cases h
      · cases h

omit hR in
theorem KeepsStack.awaitOverlap {node va n : Nat} : KeepsStack k R L (awaitOverlap k node va n) := by
  unfold Machine.awaitOverlap
  refine .get_bind fun s b t hs h => ?_
  obtain ⟨-, h⟩ := run_if_elim (fun s a t h => by cases h) h
  cases h
  exact hs

omit hR in
theorem KeepsStack.loadRemote {cap : TCap} {capWidth : Bool} {p : Part} : KeepsStack k R L (loadRemote k cap capWidth p) := by
  unfold Machine.loadRemote
  refine .bind .awaitOverlap fun _ => .get_bind fun s b t hs h => ?_
  refine KeepsStack.bind .remoteCall (fun r => ?_) s b t hs h
  refine .ite (fun _ => .ite (fun _ => .bind (fun s b t hs h => ?_) fun _ => .pure _) fun _ => .pure _) fun _ => .pure _
  cases h
  exact hs.of_workOf workOf_incFld

theorem KeepsStack.loadPart {cap : TCap} {capWidth : Bool} {origin : Nat} {p : Part} :
    KeepsStack k R L (loadPart k cap capWidth origin p) := by
  unfold Machine.loadPart
  refine .get_bind fun s b t hs h => ?_
  dsimp only at h
  obtain ⟨_, s1, h1, h⟩ := run_bind_elim h
  replace h1 := KeepsStack.awaitDest _ _ _ hs h1
  obtain ⟨_, s2, h2, h⟩ := run_bind_elim h
  replace h2 := KeepsStack.awaitSide _ _ _ h1 h2
  split at h
  · exact KeepsStack.loadRemote _ _ _ h2 h
  · split at h
    · cases h
      exact h2
    · obtain ⟨-, h⟩ := run_guard_elim (fun s a t h => by cases h) h
      obtain ⟨-, h⟩ := run_if_elim (fun s a t h => by cases h) h
      obtain ⟨_, s3, h3, h⟩ := run_bind_elim h
      cases h3
      have h3 := hs.of_workOf (workOf_physRead (k := k) (mid := coreMid k (s.core k).level) (phys := p.phys) (n := p.n) (cap := capWidth)
        (cached := p.cached))
      split at h
      · obtain ⟨_, s4, h4, h⟩ := run_bind_elim h
        cases h
        exact KeepsStack.modCore hR (by intro; rfl) (by intro; rfl) _ _ _ h3 h4
      · cases h
        exact h3

theorem KeepsStack.loadUnpaced {cap : TCap} {capWidth : Bool} {origin : Nat} {ps : List Part} :
    KeepsStack k R L (loadUnpaced k cap capWidth origin ps) := by
  unfold Machine.loadUnpaced noteMarks
  exact .bind (.mapM (fun p => .loadPart hR) ps) fun _ => .bind (.modCore hR (by intro; rfl) (by intro; rfl)) fun _ => .pure _

theorem KeepsStack.paceStack {ps : List Part} : KeepsStack k R L (paceStack k ps) := by
  unfold Machine.paceStack
  exact .get_bind fun s b t hs h => KeepsStack.paceTicks hR s b t hs h

end

/-- A capability without its tag gives no access. -/
theorem tag_of_resolve {cap : TCap} {ea : Int} {n origin : Nat} {kind : AccKind} {capWidth : Bool} {ps : List Part}
    (h : (Machine.resolve k cap ea n kind capWidth origin).run s = .ok ps t) : cap.tag = true := by
  unfold Machine.resolve at h
  obtain ⟨c, u, -, h⟩ := run_bind_elim h
  obtain ⟨htag, -⟩ := run_guard_elim run_memFault_ne_ok h
  simpa using htag

/-- A core that holds a frame is none at reset, so it reads back. -/
theorem core_setCore_of_rstack {c : Core} (hc : c.rstack ≠ []) : (s.setCore k c).core k = c := by
  have hne : c ≠ coreDefault k.num := fun he => hc (congrArg Core.rstack he)
  simp only [State.setCore, State.setCoreN, State.core, State.coreN, State.half_upd_self]
  exact SMap.get_set_of_ne hne

/-- A fill of the frame cache keeps the core's level. -/
theorem level_of_topFrame {f : RFrame} (h : (topFrame k).run s = .ok f t) : (t.core k).level = (s.core k).level := by
  unfold topFrame at h
  rw [run_bind_ok run_getCore] at h
  split at h
  · cases h
    rfl
  · obtain ⟨-, h⟩ := run_guard_elim (fun s a t h => by cases h) h
    obtain ⟨⟨a, b⟩, u, hfill, h⟩ := run_bind_elim h
    replace hfill := run_tryCatch_elim (fun e s a t h => by
      cases e with
      | trap v x =>
        obtain ⟨-, h⟩ := run_if_elim (fun s a t h => by cases h) h
        cases h
      | wait => cases h
      | need i => cases h
      | stale x => cases h) hfill
    obtain ⟨-, hfill⟩ := run_guard_elim run_memFault_ne_ok hfill
    have htag : (s.core k).rsc.tag = true := by
      obtain ⟨pa, v, hpa, -⟩ := run_bind_elim hfill
      exact tag_of_resolve hpa
    have hkeeps : StackAt k (s.core k).rsc (s.core k).level u := by
      refine KeepsStack.bind (.resolve htag) (fun pa => .bind (.resolve htag) fun pb => .bind (.paceStack htag) fun _ =>
        .bind (.loadUnpaced htag) fun a => .bind (.loadUnpaced htag) fun b => .pure _) _ _ _ ⟨rfl, rfl⟩ hfill
    obtain ⟨_, v, hset, h⟩ := run_bind_elim h
    cases h
    rw [run_modCore] at hset
    cases hset
    rw [core_setCore_of_rstack (List.cons_ne_nil _ _)]
    exact hkeeps.2

/-- RET pops a call frame of its own level (R109, R111). -/
theorem exec_ret {e : Enc} {u v w : State} {i : Inst} {f : RFrame} (h : Issues k retRow e anyLevel s i u)
    (hf : (topFrame k).run (opened k i u) = .ok f v) (hkind : f.kind = kindCall) (hlevel : f.level = (v.core k).level)
    (hw : w = after (dropFrame k) v) (hm : Marked k w) : exec (.ret k e) s = .next (jumpEnd s (ctxOf k i u) f.rpcc w) := by
  subst hw
  have hown : ¬ (f.kind ≠ kindCall ∨ f.level ≠ ((opened k i u).core k).level) := by
    rw [hlevel, level_of_topFrame hf, hkind]
    simp
  exact h.exec_jump ((run_bind_ok run_getCore).trans ((run_bind_ok hf).trans ((run_if_neg hown).trans rfl))) hm

/-- RETI at level M pops the machine return stack (R113). -/
theorem exec_reti_machine {e : Enc} {u w : State} {i : Inst} {f : RFrame} {fs : List RFrame} (h : Issues k retiRow e notAtC s i u)
    (hlong : ((opened k i u).core k).longOps = []) (hM : ((opened k i u).core k).level = levelM)
    (hstack : ((opened k i u).core k).mstack = f :: fs) (hlow : levelTooHigh ((opened k i u).core k) f = false)
    (hret : (retire (ctxOf k i u) true).run (opened k i u) = .ok () w) :
    exec (.reti k e) s = .next (traced k (w.setCore k ({ w.core k with mstack := fs }.returnTo f))) := by
  refine h.exec_done (m := true) ?_
  refine (run_bind_ok run_getCore).trans ((run_if_neg (by rw [hlong]; decide)).trans ?_)
  rw [if_pos hM]
  rw [hstack]
  exact (run_if_neg (by rw [hlow]; decide)).trans ((run_bind_ok hret).trans ((run_bind_ok (run_modCore _)).trans rfl))

section
variable {e : Enc} {u v w : State} {i : Inst} {f : RFrame} (h : Issues k retiRow e notAtC s i u)
  (hlong : ((opened k i u).core k).longOps = []) (hM : ((opened k i u).core k).level ≠ levelM)
  (hf : (topFrame k).run (opened k i u) = .ok f v) (hkind : f.kind = kindTrap)
  (hlow : levelTooHigh ((opened k i u).core k) f = false) (hret : (retire (ctxOf k i u) true).run v = .ok () w)
include h hlong hM hf hkind hlow hret

/-- RETI at another level pops a trap frame where no interrupt waits (R121). -/
theorem exec_reti_returns (hirq : nextIrq ((w.core k).returnTo f) = none) :
    exec (.reti k e) s = .next (traced k (after (do dropFrame k; modCore k fun c => c.returnTo f) w)) := by
  refine h.exec_done (m := true) ?_
  refine (run_bind_ok run_getCore).trans ((run_if_neg (by rw [hlong]; decide)).trans ?_)
  rw [if_neg hM]
  refine (run_bind_ok hf).trans ((run_if_neg (not_not.mpr hkind)).trans ((run_if_neg (by rw [hlow]; decide)).trans
    ((run_bind_ok hret).trans ((run_bind_ok run_getCore).trans ?_))))
  rw [hirq]
  rfl

/-- RETI at another level chains into the interrupt that waits (R122). -/
theorem exec_reti_chains {q : Nat × Word} (hirq : nextIrq ((w.core k).returnTo f) = some q) (himp : (w.core k).imprecise = []) :
    exec (.reti k e) s = .next (traced k (after (chainInto k f q) w)) := by
  refine h.exec_done (m := true) ?_
  refine (run_bind_ok run_getCore).trans ((run_if_neg (by rw [hlong]; decide)).trans ?_)
  rw [if_neg hM]
  refine (run_bind_ok hf).trans ((run_if_neg (not_not.mpr hkind)).trans ((run_if_neg (by rw [hlow]; decide)).trans
    ((run_bind_ok hret).trans ((run_bind_ok run_getCore).trans ?_))))
  rw [hirq]
  exact (run_if_neg (by rw [himp]; decide)).trans rfl

end

/-- Settles O12: RET, and RETI at level S and at level M. -/
theorem returnResult : Obligations.ReturnResult :=
  ⟨fun _ _ _ _ _ _ _ _ h hf hkind hlevel hw hm => exec_ret h hf hkind hlevel hw hm,
    fun _ _ _ _ _ _ _ _ h hlong hM hf hkind hlow hret => ⟨fun hirq => exec_reti_returns h hlong hM hf hkind hlow hret hirq,
      fun _ hirq himp => exec_reti_chains h hlong hM hf hkind hlow hret hirq himp⟩,
    fun _ _ _ _ _ _ _ _ h hlong hM hstack hlow hret => exec_reti_machine h hlong hM hstack hlow hret⟩

end Sys2Proof.Proofs
end

section
/-! The canonical form of the state (O53): what its parts' own updates keep, and how the form passes through the ways in which the model
puts steps together: choices, walks over lists, parts of instructions and commands. -/

namespace Sys2Proof.Proofs

open Sys2Proof Sys2Proof.Machine

variable {s t : State} {h : HalfId}

-- halves and states

/-- Either half of a canonical state is canonical. -/
theorem canonical_half (hs : Canonical s) (h : HalfId) : HalfCanonical h (s.half h) := by
  cases h with
  | east => exact hs.east
  | west => exact hs.west

/-- A state with the same halves and host memory. -/
theorem canonical_of_parts (hs : Canonical s) (he : t.east = s.east) (hw : t.west = s.west) (hm : t.host = s.host) : Canonical t :=
  ⟨he ▸ hs.east, hw ▸ hs.west, hm ▸ hs.host⟩

/-- A half with the same memory bytes, registers and cores. -/
theorem halfCanonical_of_parts {x y : Half} (hx : HalfCanonical h x) (hm : y.mem.cells = x.mem.cells) (hr : y.regs = x.regs)
    (hc : y.cores = x.cores) : HalfCanonical h y :=
  ⟨hm ▸ hx.mem, hr ▸ hx.regs, hc ▸ hx.cores⟩

/-- A half replaced by a canonical one. -/
theorem canonical_setHalf {x : Half} (hs : Canonical s) (hx : HalfCanonical h x) : Canonical (s.setHalf h x) := by
  cases h with
  | east => exact ⟨hx, hs.west, hs.host⟩
  | west => exact ⟨hs.east, hx, hs.host⟩

/-- A change of a half that keeps its canonical form. -/
theorem canonical_change {f : Half → Half} (hs : Canonical s) (hf : ∀ x, HalfCanonical h x → HalfCanonical h (f x)) :
    Canonical (s.upd h f) := canonical_setHalf hs (hf _ (canonical_half hs h))

/-- A change of a half outside its memory bytes, registers and cores. -/
theorem canonical_upd {f : Half → Half} (hs : Canonical s) (hm : ∀ x, (f x).mem.cells = x.mem.cells := by intro; rfl)
    (hr : ∀ x, (f x).regs = x.regs := by intro; rfl) (hc : ∀ x, (f x).cores = x.cores := by intro; rfl) : Canonical (s.upd h f) :=
  canonical_change hs fun x hx => halfCanonical_of_parts hx (hm x) (hr x) (hc x)

/-- A register's write. -/
theorem canonical_setReg {blk off : Nat} {w : Word} (hs : Canonical s) : Canonical (s.setReg h blk off w) :=
  canonical_change hs fun _ hx => ⟨hx.mem, SMap.wf_set hx.regs, hx.cores⟩

/-- A core's change. -/
theorem canonical_setCoreN {n : Nat} {c : Core} (hs : Canonical s) : Canonical (s.setCoreN h n c) :=
  canonical_change hs fun _ hx => ⟨hx.mem, hx.regs, SMap.wf_set hx.cores⟩

/-- Bytes of host memory written. -/
theorem canonical_writeHost {a : Nat} {bs : List Byte} (hs : Canonical s) : Canonical { s with host := writeCells s.host a bs } :=
  ⟨hs.east, hs.west, wf_writeCells hs.host⟩

section
variable {β : Type} [DecidableEq β] {d : Nat → β} {lo : Option Nat} {a : Nat} {m : SMap β}

/-- Entries above a key are above what the key is above. -/
theorem wfFrom_below (hlo : (match lo with | none => true | some b => decide (b < a)) = true) (hm : SMap.wfFrom d (some a) m = true) :
    SMap.wfFrom d lo m = true := by
  cases lo with
  | none => exact SMap.wf_of_wfFrom hm
  | some b => exact SMap.wfFrom_mono hm (Nat.le_of_lt (of_decide_eq_true hlo))

theorem wfFrom_filter {f : Nat × β → Bool} (hm : SMap.wfFrom d lo m = true) : SMap.wfFrom d lo (m.filter f) = true := by
  induction m generalizing lo with
  | nil => rfl
  | cons p m ih =>
    obtain ⟨a, v⟩ := p
    unfold SMap.wfFrom at hm
    rw [Bool.and_eq_true, Bool.and_eq_true] at hm
    obtain ⟨⟨hlo, hv⟩, hm⟩ := hm
    rw [List.filter_cons]
    split
    · unfold SMap.wfFrom
      rw [hlo, hv, ih hm]
      rfl
    · exact wfFrom_below hlo (ih hm)

theorem wfFrom_change {f : Nat → β → β} (hm : SMap.wfFrom d lo m = true) : SMap.wfFrom d lo (SMap.change d f m) = true := by
  induction m generalizing lo with
  | nil => rfl
  | cons p m ih =>
    obtain ⟨a, v⟩ := p
    unfold SMap.wfFrom at hm
    rw [Bool.and_eq_true, Bool.and_eq_true] at hm
    obtain ⟨⟨hlo, -⟩, hm⟩ := hm
    unfold SMap.change
    rw [List.map_cons, List.filter_cons]
    split
    next hv =>
      unfold SMap.wfFrom
      rw [hlo, hv]
      exact ih hm
    · exact wfFrom_below hlo (ih hm)

/-- Some of the entries. -/
theorem wf_filter {f : Nat × β → Bool} (hm : SMap.wf d m = true) : SMap.wf d (m.filter f) = true := wfFrom_filter hm

/-- The entries changed. -/
theorem wf_change {f : Nat → β → β} (hm : SMap.wf d m = true) : SMap.wf d (SMap.change d f m) = true := wfFrom_change hm

/-- Bytes written over some granules and lines. -/
theorem wf_putWhole {m : Mem} {bs : List Byte} (hm : SMap.wf memDefault m.cells = true) :
    SMap.wf memDefault (putWhole m a bs).cells = true := by
  unfold putWhole
  split <;> exact wf_writeCells hm

/-- A change of a half's memory bytes that keeps their canonical form. -/
theorem canonical_updMem {f : Half → Half} (hs : Canonical s)
    (hm : ∀ x, SMap.wf memDefault x.mem.cells = true → SMap.wf memDefault (f x).mem.cells = true)
    (hr : ∀ x, (f x).regs = x.regs := by intro; rfl) (hc : ∀ x, (f x).cores = x.cores := by intro; rfl) : Canonical (s.upd h f) :=
  canonical_change hs fun x hx => ⟨hm x hx.mem, hr x ▸ hx.regs, hc x ▸ hx.cores⟩

/-- A change of the cores of a half. -/
theorem canonical_updCores {f : Half → Half} (hs : Canonical s) (hc : ∀ x, SMap.wf coreDefault x.cores = true → SMap.wf coreDefault (f x).cores = true)
    (hm : ∀ x, (f x).mem.cells = x.mem.cells := by intro; rfl) (hr : ∀ x, (f x).regs = x.regs := by intro; rfl) : Canonical (s.upd h f) :=
  canonical_change hs fun x hx => ⟨hm x ▸ hx.mem, hr x ▸ hx.regs, hc x hx.cores⟩

end

-- choices and walks

/-- Either of two canonical states. -/
theorem canonical_ite {c : Prop} [Decidable c] (hs : Canonical s) (ht : Canonical t) : Canonical (if c then s else t) := by
  split
  · exact hs
  · exact ht

/-- What an answer that may be missing holds is canonical. -/
def Offers {σ : Type} (p : σ → State) (o : Option σ) : Prop := ∀ x, o = some x → Canonical (p x)

section
variable {σ τ : Type} {p : σ → State} {q : τ → State} {o : Option σ}

theorem Offers.none : Offers p Option.none := nofun

theorem Offers.some {x : σ} (hx : Canonical (p x)) : Offers p (Option.some x) := fun _ he => Option.some.inj he ▸ hx

theorem Offers.ite {c : Prop} [Decidable c] {r : Option σ} (ho : Offers p o) (hr : Offers p r) : Offers p (if c then o else r) := by
  split
  · exact ho
  · exact hr

theorem Offers.map {f : σ → τ} (ho : Offers p o) (hf : ∀ x, Canonical (p x) → Canonical (q (f x))) : Offers q (o.map f) := by
  intro y hy
  obtain ⟨x, hx, rfl⟩ := Option.map_eq_some_iff.mp hy
  exact hf x (ho x hx)

/-- An answer made from what holds no state. -/
theorem Offers.map_of {α : Type} {a : Option α} {f : α → σ} (hf : ∀ x, Canonical (p (f x))) : Offers p (a.map f) := by
  intro y hy
  obtain ⟨x, -, rfl⟩ := Option.map_eq_some_iff.mp hy
  exact hf x

/-- An answer, or the state that stands. -/
theorem canonical_getD {o : Option State} (ho : Offers id o) (hs : Canonical s) : Canonical (o.getD s) := by
  cases ho' : o with
  | none => exact hs
  | some t => exact ho t ho'

end

/-- The state of an answer that is named. -/
theorem canonical_of_eq {σ : Type} {x y : σ} (p : σ → State) (he : x = y) (hx : Canonical (p x)) : Canonical (p y) := he ▸ hx

theorem canonical_fst {α : Type} {a : α} (hs : Canonical s) : Canonical (s, a).1 := hs

theorem canonical_snd {α : Type} {a : α} (hs : Canonical s) : Canonical (a, s).2 := hs

theorem canonical_snd_snd {α β : Type} {a : α} {x : β × State} (hx : Canonical x.2) : Canonical (a, x).2.2 := hx

theorem canonical_snd_snd_snd {α β γ : Type} {a : α} {x : β × γ × State} (hx : Canonical x.2.2) : Canonical (a, x).2.2.2 := hx

theorem canonical_snd_s {α : Type} {a : α} {x : SRun} (hx : Canonical x.s) : Canonical (a, x).2.s := hx

theorem canonical_sRun {r : List Byte} {out : List Rec} (hs : Canonical s) : Canonical (SRun.mk s r out).s := hs

theorem canonical_pAcc {c : ParseCtx} {out : List (Word × List Rec)} {malformed noTable : Nat} {skipAll : Bool} (hs : Canonical s) :
    Canonical (PAcc.mk s c out malformed noTable skipAll).s := hs

/-- Either of two canonical states, within what is answered. -/
theorem canonical_ite_of {σ : Type} (p : σ → State) {c : Prop} [Decidable c] {x y : σ} (hx : Canonical (p x)) (hy : Canonical (p y)) :
    Canonical (p (if c then x else y)) := by
  split
  · exact hx
  · exact hy

/-- The state of an answer under its name. -/
theorem canonical_via {σ : Type} (p : σ → State) {x y : σ} (hx : Canonical (p x)) (he : x = y) : Canonical (p y) := he ▸ hx

/-- A walk over a list that carries what holds a state. -/
theorem canonical_foldl_of {σ α : Type} (p : σ → State) {f : σ → α → σ} (hf : ∀ b x, Canonical (p b) → Canonical (p (f b x))) {b : σ}
    {xs : List α} (hb : Canonical (p b)) : Canonical (p (xs.foldl f b)) := by
  induction xs generalizing b with
  | nil => exact hb
  | cons x xs ih => exact ih (hf b x hb)

/-- A walk over a list. -/
theorem canonical_foldl {α : Type} {f : State → α → State} (hf : ∀ s x, Canonical s → Canonical (f s x)) {xs : List α} (hs : Canonical s) :
    Canonical (xs.foldl f s) := canonical_foldl_of id hf hs

section
variable {α β γ : Type} {xs : List α}

theorem canonical_foldl_fst {f : State × β → α → State × β} {b : State × β} (hf : ∀ b x, Canonical b.1 → Canonical (f b x).1)
    (hb : Canonical b.1) : Canonical (xs.foldl f b).1 := canonical_foldl_of Prod.fst hf hb

theorem canonical_foldl_snd {f : β × State → α → β × State} {b : β × State} (hf : ∀ b x, Canonical b.2 → Canonical (f b x).2)
    (hb : Canonical b.2) : Canonical (xs.foldl f b).2 := canonical_foldl_of Prod.snd hf hb

theorem canonical_foldl_snd_snd {f : β × γ × State → α → β × γ × State} {b : β × γ × State}
    (hf : ∀ b x, Canonical b.2.2 → Canonical (f b x).2.2) (hb : Canonical b.2.2) : Canonical (xs.foldl f b).2.2 :=
  canonical_foldl_of (σ := β × γ × State) (fun b => b.2.2) hf hb

theorem canonical_foldl_snd_snd_snd {δ : Type} {f : β × γ × δ × State → α → β × γ × δ × State} {b : β × γ × δ × State}
    (hf : ∀ b x, Canonical b.2.2.2 → Canonical (f b x).2.2.2) (hb : Canonical b.2.2.2) : Canonical (xs.foldl f b).2.2.2 :=
  canonical_foldl_of (σ := β × γ × δ × State) (fun b => b.2.2.2) hf hb

theorem canonical_foldl_sRun {f : SRun → α → SRun} {b : SRun} (hf : ∀ b x, Canonical b.s → Canonical (f b x).s)
    (hb : Canonical b.s) : Canonical (xs.foldl f b).s := canonical_foldl_of SRun.s hf hb

end

-- parts of instructions

/-- A part of an instruction that keeps the canonical form, however it ends. -/
def Keeps {α : Type} (m : Exec α) : Prop := ∀ s, Canonical s → Canonical (after m s)

section
variable {α β : Type} {m : Exec α}

theorem Keeps.pure {a : α} : Keeps (Pure.pure a : Exec α) := fun _ hs => hs

theorem Keeps.throw {e : Stop} : Keeps (MonadExcept.throw e : Exec α) := fun _ hs => hs

theorem Keeps.set (ht : Canonical t) : Keeps (MonadStateOf.set t : Exec PUnit) := fun _ _ => ht

theorem Keeps.modify {f : State → State} (hf : ∀ s, Canonical s → Canonical (f s)) : Keeps (modify f : Exec PUnit) := hf

theorem Keeps.bind {f : α → Exec β} (hm : Keeps m) (hf : ∀ a, Keeps (f a)) : Keeps (m >>= f) := by
  intro s hs
  have hm := hm s hs
  unfold after at hm ⊢
  rw [run_bind]
  cases hr : m.run s with
  | ok a t =>
    rw [hr] at hm
    exact hf a t hm
  | error e t =>
    rw [hr] at hm
    exact hm

/-- What reads the state first. -/
theorem Keeps.get_bind {f : State → Exec β} (hf : ∀ s, Canonical s → Keeps (f s)) : Keeps (get >>= f) :=
  fun s hs => hf s hs s hs

theorem Keeps.ite {c : Prop} [Decidable c] {r : Exec α} (hm : Keeps m) (hr : Keeps r) : Keeps (if c then m else r) := by
  split
  · exact hm
  · exact hr

/-- A step made under a condition, before what follows either way. -/
theorem Keeps.guard {c : Prop} [Decidable c] {m : Exec PUnit} {f : PUnit → Exec β} (hm : Keeps m) (hf : ∀ a, Keeps (f a)) :
    Keeps (if c then m >>= f else f ⟨⟩) :=
  .ite (.bind hm hf) (hf _)

theorem Keeps.map {f : α → β} (hm : Keeps m) : Keeps (f <$> m) := .bind hm fun _ => .pure

theorem Keeps.of_ok {a : α} (hm : Keeps m) (hs : Canonical s) (hr : m.run s = .ok a t) : Canonical t := by
  have h := hm s hs
  unfold after at h
  rwa [hr] at h

theorem Keeps.of_error {e : Stop} (hm : Keeps m) (hs : Canonical s) (hr : m.run s = .error e t) : Canonical t := by
  have h := hm s hs
  unfold after at h
  rwa [hr] at h

theorem Keeps.tryCatch {f : Stop → Exec α} (hm : Keeps m) (hf : ∀ e, Keeps (f e)) : Keeps (tryCatch m f) := by
  intro s hs
  have hm := hm s hs
  change Canonical (match EStateM.tryCatch m f s with | .ok _ t => t | .error _ t => t)
  unfold after at hm
  unfold EStateM.tryCatch
  change Canonical (match m s with | .ok _ t => t | .error _ t => t) at hm
  cases hr : m s with
  | ok a t =>
    rw [hr] at hm
    exact hm
  | error e t =>
    rw [hr] at hm
    exact hf e t hm

theorem Keeps.mapM {f : α → Exec β} (hf : ∀ a, Keeps (f a)) : ∀ {xs : List α}, Keeps (xs.mapM f)
  | [] => by
    rw [List.mapM_nil]
    exact .pure
  | _ :: _ => by
    rw [List.mapM_cons]
    exact .bind (hf _) fun _ => .bind (Keeps.mapM hf) fun _ => .pure

theorem Keeps.forIn {xs : List α} {b : β} {f : α → β → Exec (ForInStep β)} (hf : ∀ a b, Keeps (f a b)) : Keeps (forIn xs b f) := by
  induction xs generalizing b with
  | nil => exact .pure
  | cons x xs ih =>
    rw [List.forIn_cons]
    refine .bind (hf x b) fun r => ?_
    cases r with
    | done b => exact .pure
    | yield b => exact ih

end

/-- A core changed. -/
theorem keeps_modCore {k : CoreId} {f : Core → Core} : Keeps (modCore k f) := fun _ hs => canonical_setCoreN hs

/-- A core read. -/
theorem keeps_getCore {k : CoreId} : Keeps (getCore k) := fun _ hs => hs

-- commands

/-- A command that answers a next state, and keeps the canonical form. -/
def Answers (o : Host.Outcome State Fault Refusal) (s : State) : Prop := ∃ t, o = .next t ∧ (Canonical s → Canonical t)

theorem Answers.next (ht : Canonical s → Canonical t) : Answers (.next t) s := ⟨t, rfl, ht⟩

/-- A command that goes on from a changed state. -/
theorem Answers.of_canonical {o : Host.Outcome State Fault Refusal} (ho : Answers o t) (ht : Canonical s → Canonical t) : Answers o s := by
  obtain ⟨u, rfl, hu⟩ := ho
  exact ⟨u, rfl, fun hs => hu (ht hs)⟩

theorem Answers.ite {c : Prop} [Decidable c] {o r : Host.Outcome State Fault Refusal} (ho : Answers o s) (hr : Answers r s) :
    Answers (if c then o else r) s := by
  split
  · exact ho
  · exact hr

end Sys2Proof.Proofs
end

section
/-! What every step is put together from keeps the canonical form: updates of registers and records, error records and their reports, packets
and posts, reads and writes of memory and registers past the boundary table, an abort of a thread or a grove, and the entry of a mode. -/

namespace Sys2Proof.Proofs

open Sys2Proof Sys2Proof.Machine

-- one theorem after another: in parallel their stacks take the memory that a check of the whole text has
set_option Elab.async false

variable {s t : State} {h : HalfId} {k : CoreId} {n : Nat}

theorem canonical_takeFree (hs : Canonical s) : Canonical (State.takeFree s).2 := by
  unfold State.takeFree
  exact canonical_snd (canonical_of_parts hs rfl rfl rfl)

theorem canonical_takeInjected {gs : List Nat} (hs : Canonical s) : Canonical (takeInjected s h gs).2 := by
  unfold takeInjected
  exact canonical_snd (canonical_upd hs)

theorem canonical_granuleRegion {g : Nat} {line : Bool} (hs : Canonical s) : Canonical (granuleRegion s g line).2 := by
  unfold granuleRegion
  exact canonical_ite_of Prod.snd (canonical_snd (canonical_takeFree hs)) (canonical_snd hs)

theorem canonical_setFld {f : Fld} {v : Nat} (hs : Canonical s) : Canonical (State.setFld s h f v) := by
  unfold State.setFld
  exact canonical_setReg hs

theorem canonical_setBit {f : Fld} {i : Nat} (hs : Canonical s) : Canonical (State.setBit s h f i) := by
  unfold State.setBit
  exact canonical_setFld hs

theorem canonical_noteHeld {g mid a : Nat} {core : Option Nat} (hs : Canonical s) : Canonical (noteHeld s h g mid a core) := by
  unfold noteHeld
  exact canonical_upd (canonical_setBit hs)

theorem canonical_notePosted {g mid a : Nat} {bs : List Byte} (hs : Canonical s) : Canonical (notePosted s h g mid a bs) := by
  unfold notePosted
  exact canonical_upd (canonical_noteHeld hs)

theorem canonical_errWr {blk : Nat} (hs : Canonical s) : Canonical (State.errWr s h blk) := by
  unfold State.errWr
  exact canonical_setFld hs

theorem canonical_putLog {a : Nat} {bs : List Byte} (hs : Canonical s) : Canonical (putLog s h a bs).1 := by
  have hput : ∀ b, Canonical (s.upd h fun x => { x with mem := putWhole x.mem b bs }) := by
    intro b
    refine canonical_updMem hs fun _ hm => ?_
    dsimp only
    exact wf_putWhole hm
  unfold putLog
  split
  · exact hput _
  · exact hput _
  · exact canonical_notePosted hs
  · exact canonical_errWr hs
  · exact hs
  · exact hs

theorem canonical_addFld {f : Fld} (hs : Canonical s) : Canonical (State.addFld s h f n) := by
  unfold State.addFld
  exact canonical_setFld hs

theorem canonical_incFld {f : Fld} (hs : Canonical s) : Canonical (State.incFld s h f) := by
  unfold State.incFld
  exact canonical_addFld hs

theorem canonical_advanceLog (hs : Canonical s) : Canonical (advanceLog s h) := by
  unfold advanceLog
  exact canonical_ite (canonical_incFld (canonical_setFld (canonical_setFld hs))) (canonical_setFld hs)

theorem canonical_raiseAttn {v : Nat} (hs : Canonical s) : Canonical (raiseAttn s h v) := by
  unfold raiseAttn
  exact canonical_ite (canonical_upd hs) (canonical_upd (canonical_setBit (canonical_upd hs)))

theorem canonical_raiseAttnBoth {v : Nat} (hs : Canonical s) : Canonical (raiseAttnBoth s v) := by
  unfold raiseAttnBoth
  exact canonical_raiseAttn (canonical_raiseAttn hs)

theorem canonical_recordOnce {r : ErrRec} (hs : Canonical s) : Canonical (recordOnce s h r).1 := by
  unfold recordOnce
  extract_lets _ _ t _ _ t1
  have ht2 : Canonical (Prod.fst t) := canonical_via Prod.fst (canonical_putLog hs) rfl
  have ht3 : Canonical t1 := canonical_raiseAttnBoth (canonical_upd (canonical_advanceLog ht2))
  exact canonical_fst (canonical_ite (canonical_upd (canonical_writeHost ht3)) ht3)

theorem canonical_countRefusal {overlap : Bool} (hs : Canonical s) : Canonical (countRefusal s h overlap) := by
  unfold countRefusal
  exact canonical_ite (canonical_incFld (canonical_incFld hs)) (canonical_incFld hs)

theorem canonical_record {r : ErrRec} (hs : Canonical s) : Canonical (record s h r) := by
  unfold record
  extract_lets t
  have ht1 : Canonical (Prod.fst t) := canonical_via Prod.fst (canonical_recordOnce hs) rfl
  split
  · exact ht1
  · exact ht1
  · extract_lets _ _ t9
    have ht10 : Canonical (Prod.fst t9) := canonical_via Prod.fst (canonical_recordOnce (canonical_upd (canonical_countRefusal ht1))) rfl
    refine canonical_ite (canonical_countRefusal ht1) ?_
    split
    · exact ht10
    · exact ht10
    · exact canonical_countRefusal ht10

theorem canonical_touchSram {g : Nat} (hs : Canonical s) : Canonical (touchSram s h g) := by
  unfold touchSram
  refine canonical_ite ?_ (canonical_ite (canonical_incFld (canonical_takeInjected (canonical_upd hs))) hs)
  extract_lets _ t t1
  have ht2 : Canonical (Prod.snd t) := canonical_via Prod.snd (canonical_takeInjected (canonical_upd hs)) rfl
  have ht3 : Canonical (Prod.snd t1) := canonical_via Prod.snd (canonical_granuleRegion ht2) rfl
  exact canonical_record (canonical_incFld ht3)

theorem canonical_evictLine {l : Nat} (hs : Canonical s) : Canonical (evictLine s h l) := by
  unfold evictLine
  exact canonical_upd (canonical_foldl (fun _ _ hs => canonical_touchSram hs) hs)

theorem canonical_evictAny (hs : Canonical s) : Canonical (evictAny h s) := by
  unfold evictAny
  dsimp only
  split
  · exact canonical_ite (canonical_evictLine (canonical_takeFree hs)) (canonical_takeFree hs)
  · exact hs

theorem canonical_takeTxn (hs : Canonical s) : Canonical (takeTxn s h).2 := by
  unfold takeTxn
  exact canonical_snd (canonical_upd hs)

theorem canonical_emit {o : Output} (hs : Canonical s) : Canonical (State.emit s o) := by
  unfold State.emit
  exact canonical_of_parts hs rfl rfl rfl

theorem canonical_updLink {l : Nat} {f : Link → Link} (hs : Canonical s) : Canonical (updLink s h l f) := by
  unfold updLink
  exact canonical_upd hs

theorem canonical_pumpLink {l : Nat} (hs : Canonical s) : Canonical (pumpLink s h l) := by
  unfold pumpLink
  exact canonical_foldl (fun _ _ hs => canonical_emit hs) (canonical_updLink hs)

theorem canonical_putOnLink {port : Nat} {p : Packet} (hs : Canonical s) : Canonical (putOnLink s h port p) := by
  unfold putOnLink
  exact canonical_ite hs (canonical_pumpLink (canonical_updLink hs))

theorem canonical_sendCruise {dst : Nat} {msg : CruMsg} (hs : Canonical s) : Canonical (sendCruise s h dst msg) := by
  unfold sendCruise
  exact canonical_ite (canonical_emit hs) hs

theorem canonical_arrivePacket : ∀ {f : Nat} {s : State} {h : HalfId} {p : Packet}, Canonical s → Canonical (arrivePacket f s h p)
  | 0, _, _, _, hs => hs
  | f + 1, s, h, p, hs => by
    have hrefuse : ∀ {t : State}, Canonical t → Canonical (match unreachable t h p with
        | some q => arrivePacket f t h { q with hops := 16, port := 5 }
        | none => t) := by
      intro t ht
      split
      · exact canonical_arrivePacket ht
      · exact ht
    unfold arrivePacket
    refine canonical_ite (hrefuse (canonical_incFld hs)) (canonical_ite (canonical_upd hs) (canonical_ite hs
      (canonical_ite (canonical_sendCruise (canonical_incFld hs)) ?_)))
    split
    · exact hrefuse hs
    · exact canonical_ite (canonical_putOnLink hs) (canonical_arrivePacket hs)

theorem canonical_putOnPort {port : Nat} {p : Packet} (hs : Canonical s) : Canonical (putOnPort s h port p) := by
  unfold putOnPort
  exact canonical_ite (canonical_putOnLink hs) (canonical_arrivePacket hs)

theorem canonical_sendPacket {p : Packet} (hs : Canonical s) : Canonical (sendPacket s h p).2 := by
  unfold sendPacket
  refine canonical_ite_of Prod.snd (canonical_snd (canonical_upd hs)) ?_
  refine canonical_ite_of Prod.snd (canonical_snd hs) ?_
  split
  · exact canonical_snd hs
  · exact canonical_snd (canonical_putOnPort hs)

theorem canonical_noteRefusedEffect {thread vec origin detail va : Nat} (hs : Canonical s) :
    Canonical (noteRefusedEffect s h thread vec origin detail va) := by
  unfold noteRefusedEffect
  exact canonical_upd hs

theorem canonical_pumpEffects : ∀ {n : Nat} {s : State} {h : HalfId}, Canonical s → Canonical (pumpEffects n s h)
  | 0, _, _, hs => hs
  | n + 1, s, h, hs => by
    unfold pumpEffects
    dsimp only
    split
    · exact hs
    · split
      next heq => exact canonical_pumpEffects (canonical_upd (canonical_of_eq Prod.snd heq (canonical_sendPacket (canonical_takeTxn hs))))
      next heq =>
        have ht := canonical_of_eq Prod.snd heq (canonical_sendPacket (canonical_takeTxn hs))
        exact canonical_pumpEffects (canonical_ite (canonical_upd ht) (canonical_noteRefusedEffect (canonical_upd ht)))

theorem canonical_queueEffect {e : Effect} (hs : Canonical s) : Canonical (queueEffect s h e) := by
  unfold queueEffect
  exact canonical_pumpEffects (canonical_upd hs)

theorem canonical_handPost {frame : Bool} {thread stepseq pos : Nat} {bs : List Byte} (hs : Canonical s) :
    Canonical (handPost s h frame thread stepseq pos bs) := by
  unfold handPost
  exact canonical_upd hs

theorem canonical_hostWrite {a : Nat} {bs : List Byte} (hs : Canonical s) : Canonical (hostWrite s a bs) := by
  unfold hostWrite
  exact canonical_writeHost hs

theorem canonical_touchLine {l : Nat} (hs : Canonical s) : Canonical (touchLine s h l) := by
  unfold touchLine
  refine canonical_ite ?_ (canonical_ite (canonical_incFld (canonical_takeInjected (canonical_upd hs))) hs)
  extract_lets _ t
  have ht1 : Canonical (Prod.snd t) := canonical_via Prod.snd (canonical_takeInjected (canonical_upd hs)) rfl
  exact canonical_record (canonical_incFld ht1)

theorem canonical_fillLines {a : Nat} (hs : Canonical s) : Canonical (fillLines s h a n) := by
  unfold fillLines
  refine canonical_foldl (fun _ l hs => canonical_ite hs (canonical_upd (canonical_touchLine hs) fun x => ?_)) hs
  change (x.mem.fill l).cells = x.mem.cells
  unfold Mem.fill
  split <;> rfl

theorem canonical_mergeReport {mid : Nat} {line : Bool} {gm : Nat × Merge} (hs : Canonical s) :
    Canonical (mergeReport h mid line s gm) := by
  unfold mergeReport
  dsimp only
  split
  · exact hs
  · exact canonical_ite (canonical_incFld hs) (canonical_incFld hs)
  · exact canonical_ite (canonical_incFld hs) (canonical_incFld hs)
  · exact canonical_record (canonical_granuleRegion (canonical_takeInjected hs))

theorem canonical_memWritePart {mid a : Nat} {bs : List Byte} (hs : Canonical s) : Canonical (memWritePart h mid s a bs) := by
  unfold memWritePart
  refine canonical_foldl (fun _ _ hs => canonical_mergeReport hs) (canonical_updMem hs fun _ _ => ?_)
  dsimp only
  split <;> exact wf_writeCells (canonical_half hs h).mem

theorem canonical_memWrite {mid a : Nat} {bs : List Byte} {core : Bool} (hs : Canonical s) : Canonical (memWrite s h mid a bs core) := by
  unfold memWrite
  exact canonical_foldl (fun _ _ hs => canonical_memWritePart hs) (canonical_ite (canonical_fillLines hs) hs)

theorem canonical_memPutCap {mid a : Nat} {bs : List Byte} {tag core : Bool} (hs : Canonical s) :
    Canonical (memPutCap s h mid a bs tag core) := by
  unfold memPutCap
  exact canonical_ite (canonical_upd (canonical_memWrite hs)) (canonical_memWrite hs)

theorem canonical_setGranule {hm : HalfId} {g : Nat} {c : TCap} (hs : Canonical s) : Canonical (setGranule s hm g c) := by
  unfold setGranule
  exact canonical_updMem hs fun _ hm => wf_writeCells hm

theorem canonical_seamMerge {hm : HalfId} {a : Nat} (hs : Canonical s) : Canonical (seamMerge s hm a n) := by
  unfold seamMerge
  exact canonical_foldl (fun _ _ hs => canonical_ite hs (canonical_ite (canonical_setGranule hs) (canonical_setGranule hs))) hs

theorem canonical_latchDrop {mid addr : Nat} (hs : Canonical s) : Canonical (latchDrop s h mid addr) := by
  unfold latchDrop
  exact canonical_record (canonical_incFld hs)

theorem canonical_blkstatWrite {blk raw : Nat} (hs : Canonical s) : Canonical (blkstatWrite s h blk raw) := by
  unfold blkstatWrite
  exact canonical_ite (canonical_errWr hs) (canonical_ite (canonical_setFld (canonical_ite (canonical_setFld hs) hs)) (canonical_ite
    (canonical_setFld hs) hs))

theorem canonical_uartQueue {b : Byte} (hs : Canonical s) : Canonical (uartQueue s n b) := by
  unfold uartQueue
  exact canonical_ite (canonical_errWr hs) (canonical_of_parts hs rfl rfl rfl)

theorem canonical_updFlt {f : Flt → Flt} (hs : Canonical s) : Canonical (updFlt s h f) := by
  unfold updFlt
  exact canonical_upd hs

theorem canonical_endRecovery {r : Region} {g : Nat} (hs : Canonical s) : Canonical (endRecovery s h r g) := by
  unfold endRecovery
  exact canonical_updFlt hs

theorem canonical_updateGuar (hs : Canonical s) : Canonical (updateGuar s h) := by
  unfold updateGuar
  exact canonical_foldl (fun _ _ hs => canonical_ite (canonical_record hs) hs) (canonical_setFld hs)

theorem canonical_restartCounts (hs : Canonical s) : Canonical (restartCounts s h) := by
  unfold restartCounts
  exact canonical_upd hs

theorem canonical_nameRoot (hs : Canonical s) : Canonical (nameRoot s n) := by
  unfold nameRoot
  exact canonical_foldl (fun _ _ hs => canonical_ite (canonical_setFld hs) hs) hs

theorem canonical_assumeRoot (hs : Canonical s) : Canonical (assumeRoot s h) := by
  unfold assumeRoot
  exact canonical_ite hs (canonical_restartCounts (canonical_nameRoot hs))

theorem canonical_takeCharge (hs : Canonical s) : Canonical (takeCharge s h) := by
  unfold takeCharge
  extract_lets _ t
  have ht1 : Canonical t := canonical_upd (canonical_of_parts hs rfl rfl rfl)
  exact canonical_updateGuar (canonical_updateGuar (canonical_assumeRoot (canonical_ite (canonical_record (canonical_endRecovery ht1))
    ht1)))

theorem canonical_claimLatch (hs : Canonical s) : Canonical (claimLatch s h) := by
  unfold claimLatch
  exact canonical_ite hs (canonical_takeCharge hs)

theorem canonical_demote (hs : Canonical s) : Canonical (demote s h) := by
  unfold demote
  exact canonical_ite hs (canonical_record (canonical_upd hs))

theorem canonical_renewLatch (hs : Canonical s) : Canonical (renewLatch s h) := by
  unfold renewLatch
  exact canonical_ite hs (canonical_ite (canonical_of_parts hs rfl rfl rfl) (canonical_demote hs))

theorem canonical_freeLatch (hs : Canonical s) : Canonical (freeLatch s) := by
  unfold freeLatch
  exact canonical_ite hs (canonical_updateGuar (canonical_updateGuar (canonical_of_parts hs rfl rfl rfl)))

theorem canonical_releaseLatch (hs : Canonical s) : Canonical (releaseLatch s h) := by
  unfold releaseLatch
  exact canonical_ite (canonical_freeLatch (canonical_upd hs)) hs

theorem canonical_latchWrite {raw : Nat} (hs : Canonical s) : Canonical (latchWrite s h raw) := by
  unfold latchWrite
  extract_lets _ t
  have ht1 : Canonical t := canonical_ite (canonical_renewLatch (canonical_ite (canonical_claimLatch hs) hs)) (canonical_ite
    (canonical_claimLatch hs) hs)
  exact canonical_ite (canonical_releaseLatch ht1) ht1

theorem canonical_startRetest {g : Nat} (hs : Canonical s) : Canonical (startRetest s h g) := by
  unfold startRetest
  exact canonical_setFld (canonical_setFld (canonical_setFld hs))

theorem canonical_noteFenced {mid a : Nat} (hs : Canonical s) : Canonical (noteFenced s h mid a) := by
  unfold noteFenced
  dsimp only
  split
  · exact canonical_incFld hs
  · exact canonical_ite (canonical_incFld hs) (canonical_record (canonical_upd (canonical_incFld hs)))

theorem canonical_noteRefusalAt {mid a : Nat} {overlap : Bool} {reg : Nat × Nat} {core : Option Nat} (hs : Canonical s) :
    Canonical (noteRefusalAt s h mid a overlap reg core) := by
  unfold noteRefusalAt
  exact canonical_ite (canonical_upd (canonical_countRefusal hs)) (canonical_ite (canonical_upd (canonical_countRefusal hs))
    (canonical_record (canonical_upd (canonical_upd (canonical_countRefusal hs)))))

theorem canonical_noteRefusal {mid a : Nat} {overlap : Bool} {core : Option Nat} (hs : Canonical s) :
    Canonical (noteRefusal s h mid a overlap core) := by
  unfold noteRefusal
  exact canonical_noteRefusalAt hs

theorem canonical_unitRefused {mid a detail : Nat} {overlap : Bool} (hs : Canonical s) :
    Canonical (unitRefused s h mid a detail overlap) := by
  unfold unitRefused
  dsimp only
  split
  · exact canonical_errWr (canonical_noteRefusal hs)
  · exact canonical_noteRefusal hs

theorem canonical_touchGranule {g : Nat} (hs : Canonical s) : Canonical (touchGranule s h g) := by
  unfold touchGranule
  exact canonical_ite (canonical_touchSram hs) (canonical_touchLine hs)

theorem canonical_memRead {a : Nat} {core : Bool} (hs : Canonical s) : Canonical (memRead s h a n core).2.2 := by
  unfold memRead
  extract_lets _ t1
  have ht3 : Canonical t1 := canonical_foldl (fun _ _ hs2 => canonical_touchGranule hs2) (canonical_ite (canonical_fillLines hs) hs)
  exact canonical_snd_snd (canonical_snd ht3)

theorem canonical_homeBytes {own : Bool} {a : Nat} {core : Bool} (hs : Canonical s) : Canonical (homeBytes s h own a n core).2.2.2 := by
  unfold homeBytes
  extract_lets _ t
  have ht1 : Canonical (Prod.snd (Prod.snd t)) := canonical_via (Prod.snd ∘ Prod.snd) (canonical_memRead hs) rfl
  exact canonical_ite_of (Prod.snd ∘ Prod.snd ∘ Prod.snd) (canonical_snd_snd_snd (canonical_snd_snd (canonical_snd ht1)))
    (canonical_snd_snd_snd (canonical_snd_snd (canonical_snd ht1)))

theorem canonical_codeLine {die : HalfId} {line : Nat} (hs : Canonical s) : Canonical (codeLine s die line).2 := by
  unfold codeLine
  refine canonical_ite_of Prod.snd (canonical_snd hs) ?_
  exact canonical_ite_of Prod.snd (canonical_snd (canonical_upd hs)) (canonical_ite_of Prod.snd (canonical_snd (canonical_ite
    (canonical_upd hs) (canonical_record (canonical_upd (canonical_upd hs))))) (canonical_snd (canonical_record hs)))

theorem canonical_codeLineBoth {die : HalfId} {line : Nat} (hs : Canonical s) : Canonical (codeLineBoth s die line).2 := by
  unfold codeLineBoth
  split
  next _ _ heq2 =>
    exact canonical_snd (canonical_of_eq Prod.snd heq2 (canonical_codeLine hs))
  next _ _ heq5 =>
    split
    next _ _ heq8 =>
      exact canonical_snd (canonical_of_eq Prod.snd heq8 (canonical_codeLine (canonical_of_eq Prod.snd heq5 (canonical_codeLine hs))))
    next _ _ heq11 =>
      exact canonical_snd (canonical_record (canonical_of_eq Prod.snd heq11 (canonical_codeLine (canonical_of_eq Prod.snd heq5
        (canonical_codeLine hs)))))

theorem canonical_codeRead {die : HalfId} {off : Nat} (hs : Canonical s) : Canonical (codeRead s die off n).2.2 := by
  unfold codeRead
  refine canonical_snd_snd ?_
  refine canonical_snd ?_
  refine canonical_foldl_snd (fun _ _ hs7 => ?_) (canonical_snd hs)
  split
  next _ _ heq10 =>
    exact canonical_snd (canonical_of_eq Prod.snd heq10 (canonical_codeLineBoth hs7))
  next _ _ heq13 =>
    exact canonical_snd (canonical_of_eq Prod.snd heq13 (canonical_codeLineBoth hs7))

theorem canonical_hostRead {a : Nat} (hs : Canonical s) : Canonical (hostRead s h a n).2.2 := by
  unfold hostRead
  exact canonical_snd_snd (canonical_snd (canonical_upd hs))

theorem canonical_popStamp (hs : Canonical s) : Canonical (popStamp s h).2 := by
  unfold popStamp
  split
  · exact canonical_snd (canonical_setReg hs)
  · exact canonical_snd (canonical_setReg (canonical_upd hs))

theorem canonical_uartPop (hs : Canonical s) : Canonical (uartPop s n) := by
  unfold uartPop
  exact canonical_of_parts hs rfl rfl rfl

theorem canonical_busRead {_mid blk off : Nat} {_core : Option Nat} (hs : Canonical s) :
    Canonical (busRead s h _mid blk off n _core).2 := by
  unfold busRead
  refine canonical_ite_of Prod.snd (canonical_snd (canonical_errWr hs)) ?_
  refine canonical_ite_of Prod.snd (canonical_snd hs) ?_
  refine canonical_ite_of Prod.snd ?_ ?_
  · extract_lets t
    have ht1 : Canonical (Prod.snd t) := canonical_via Prod.snd (canonical_popStamp hs) rfl
    exact canonical_snd ht1
  · exact canonical_ite_of Prod.snd (canonical_snd (canonical_uartPop hs)) (canonical_ite_of Prod.snd (canonical_snd (canonical_uartPop
      hs)) (canonical_snd hs))

theorem canonical_unitReadPart {mid a : Nat} (hs : Canonical s) : Canonical (unitReadPart s h mid a n).2.2.2 := by
  unfold unitReadPart
  dsimp only
  split
  · exact canonical_snd_snd_snd (canonical_snd_snd (canonical_snd (canonical_noteFenced hs)))
  · exact canonical_snd_snd_snd (canonical_snd_snd (canonical_snd (canonical_noteHeld hs)))
  · exact canonical_snd_snd_snd (canonical_snd_snd (canonical_snd (canonical_unitRefused hs)))
  · split
    · exact canonical_snd_snd_snd (canonical_snd_snd (canonical_snd (canonical_homeBytes hs)))
    · exact canonical_snd_snd_snd (canonical_snd_snd (canonical_snd (canonical_homeBytes hs)))
    · exact canonical_snd_snd_snd (canonical_snd_snd (canonical_snd (canonical_codeRead hs)))
    · exact canonical_snd_snd_snd (canonical_snd_snd (canonical_snd (canonical_hostRead hs)))
    · exact canonical_snd_snd_snd (canonical_snd_snd (canonical_snd (canonical_busRead hs)))
    · exact canonical_snd_snd_snd (canonical_snd_snd (canonical_snd hs))

theorem canonical_unitRead {mid a : Nat} (hs : Canonical s) : Canonical (unitRead s h mid a n).2 := by
  unfold unitRead
  refine canonical_foldl_snd (fun _ _ hs => ?_) (canonical_snd hs)
  extract_lets t1
  have ht2 : Canonical (Prod.snd (Prod.snd (Prod.snd t1))) := canonical_via (Prod.snd ∘ Prod.snd ∘ Prod.snd) (canonical_unitReadPart hs)
    rfl
  exact canonical_snd ht2

theorem canonical_unitWritePart {mid a : Nat} {bs : List Byte} (hs : Canonical s) : Canonical (unitWritePart s h mid a bs).2 := by
  unfold unitWritePart
  split
  · exact canonical_snd (canonical_noteFenced hs)
  · exact canonical_snd (canonical_noteHeld hs)
  · exact canonical_snd (canonical_unitRefused hs)
  · split
    · exact canonical_snd (canonical_memWrite hs)
    · exact canonical_snd (canonical_memWrite hs)
    · exact canonical_snd (canonical_writeHost hs)
    · exact canonical_snd (canonical_upd hs)
    · exact canonical_snd hs
    · exact canonical_snd hs

theorem canonical_unitWrite {mid a : Nat} {bs : List Byte} (hs : Canonical s) : Canonical (unitWrite s h mid a bs) := by
  unfold unitWrite
  exact canonical_foldl (fun _ _ hs => canonical_unitWritePart hs) hs

theorem canonical_writeThreadFields {t : Nat} {st pd : Bool} (hs : Canonical s) : Canonical (writeThreadFields s h t st pd) := by
  unfold writeThreadFields
  extract_lets _ _ _ t _ t1 t2
  have ht3 : Canonical (Prod.snd t) := canonical_via Prod.snd (canonical_unitRead hs) rfl
  have ht4 : Canonical t1 := canonical_ite hs (canonical_unitWrite (canonical_takeFree ht3))
  have ht5 : Canonical t2 := canonical_ite (canonical_unitWrite ht4) ht4
  exact canonical_ite ht5 (canonical_upd ht5)

theorem canonical_setThread {t : Nat} {x : Thread} (hs : Canonical s) : Canonical (State.setThread s h t x) := by
  unfold State.setThread
  exact canonical_writeThreadFields (canonical_upd hs)

theorem canonical_makeReady {t : Nat} {x : Thread} (hs : Canonical s) : Canonical (makeReady s h t x) := by
  unfold makeReady
  exact canonical_setThread (canonical_upd hs)

theorem canonical_fmnEvent {t src : Nat} (hs : Canonical s) : Canonical (fmnEvent s h t src) := by
  unfold fmnEvent
  exact canonical_ite (canonical_incFld hs) (canonical_ite (canonical_makeReady hs) (canonical_setThread hs))

theorem canonical_tellCompartment {t : Nat} (hs : Canonical s) : Canonical (tellCompartment s h t) := by
  unfold tellCompartment
  exact canonical_foldl (fun _ _ hs => canonical_fmnEvent hs) hs

theorem canonical_hifCount {f : Fld} (hs : Canonical s) : Canonical (hifCount s h f) := by
  unfold hifCount
  exact canonical_raiseAttn (canonical_incFld hs)

theorem canonical_dedupUpd {cmdid : Nat} {origin : Option (Nat × Nat)} {f : Dedup → Dedup} (hs : Canonical s) :
    Canonical (dedupUpd s h cmdid origin f) := by
  unfold dedupUpd
  exact canonical_upd hs

theorem canonical_dropInFlight {tag : Nat} (hs : Canonical s) : Canonical (dropInFlight s h tag) := by
  unfold dropInFlight
  extract_lets t5
  have ht11 : Canonical t5 := by
    unfold t5
    split
    · exact canonical_ite (canonical_dedupUpd hs) hs
    · exact hs
  exact canonical_upd ht11

theorem canonical_setRing {r : Option Machine.Ring} (hs : Canonical s) : Canonical (setRing s h n r) := by
  unfold setRing
  exact canonical_upd hs

theorem canonical_queueRecord {r : WaitRec} (hs : Canonical s) : Canonical (queueRecord s h r) := by
  unfold queueRecord
  split
  · exact canonical_ite (canonical_upd hs) (canonical_hifCount hs)
  · exact canonical_hifCount hs

theorem canonical_completeRecord {tag status part : Nat} {bytes : List Byte} (hs : Canonical s) :
    Canonical (completeRecord s h tag status part bytes) := by
  unfold completeRecord
  split
  · exact canonical_hifCount hs
  · dsimp only
    split
    · exact canonical_hifCount (canonical_dropInFlight (canonical_ite hs (canonical_dedupUpd hs)))
    · refine canonical_ite ?_ (canonical_queueRecord (canonical_ite hs (canonical_dedupUpd hs)))
      split
      · exact canonical_dropInFlight (canonical_setRing (canonical_ite hs (canonical_dedupUpd hs)))
      · exact canonical_dropInFlight (canonical_ite hs (canonical_dedupUpd hs))

theorem canonical_completeWith {tag status part result : Nat} (hs : Canonical s) :
    Canonical (completeWith s h tag status part result) := by
  unfold completeWith
  split
  · exact canonical_hifCount hs
  · exact canonical_completeRecord hs

theorem canonical_complete {tag status : Nat} (hs : Canonical s) : Canonical (complete s h tag status) := by
  unfold complete
  exact canonical_completeWith hs

theorem canonical_endDelivers {t status : Nat} (hs : Canonical s) : Canonical (endDelivers s h t status) := by
  unfold endDelivers
  exact canonical_foldl (fun _ _ hs => canonical_complete hs) hs

theorem canonical_becomeAborted {t status : Nat} (hs : Canonical s) : Canonical (becomeAborted s h t status) := by
  unfold becomeAborted
  exact canonical_tellCompartment (canonical_endDelivers (canonical_setThread hs))

theorem canonical_abortGrove {g : Nat} (hs : Canonical s) : Canonical (abortGrove s h g) := by
  unfold abortGrove
  exact canonical_foldl (fun _ _ hs => canonical_setCoreN (canonical_becomeAborted hs)) hs

theorem canonical_abandonGrove {g syndrome : Nat} {inj : Bool} (hs : Canonical s) : Canonical (abandonGrove s h g syndrome inj) := by
  unfold abandonGrove
  extract_lets t1
  have ht2 : Canonical t1 := canonical_endRecovery (canonical_abortGrove hs)
  exact canonical_record (canonical_ite ht2 (canonical_updFlt (canonical_foldl (fun _ _ hs3 => canonical_becomeAborted hs3) ht2)))

theorem canonical_holdGrove {g : Nat} (hs : Canonical s) : Canonical (holdGrove s h g) := by
  unfold holdGrove
  refine canonical_updCores hs fun _ hc => ?_
  dsimp only
  exact wf_change hc

theorem canonical_setGroveState {g v : Nat} (hs : Canonical s) : Canonical (setGroveState s h g v) := by
  unfold setGroveState
  exact canonical_setFld hs

theorem canonical_fenceGrove {g : Nat} (hs : Canonical s) : Canonical (fenceGrove s h g) := by
  unfold fenceGrove
  exact canonical_setBit (canonical_setGroveState (canonical_setFld (canonical_setBit hs)))

theorem canonical_suspendRotation (hs : Canonical s) : Canonical (suspendRotation s h) := by
  unfold suspendRotation
  exact canonical_setFld (canonical_updFlt hs)

theorem canonical_groveFault {g code syndrome : Nat} {inj : Bool} (hs : Canonical s) :
    Canonical (groveFault s h g code syndrome inj) := by
  unfold groveFault
  refine canonical_ite (canonical_abandonGrove hs) ?_
  refine canonical_ite hs ?_
  extract_lets _ _ _ _ t1 t2
  have ht4 : Canonical t1 := canonical_foldl (fun _ _ hs3 => canonical_abandonGrove hs3) (canonical_record (canonical_holdGrove
    (canonical_fenceGrove hs)))
  have ht5 : Canonical t2 := canonical_ite (canonical_abortGrove ht4) (canonical_updFlt ht4)
  exact canonical_updateGuar (canonical_ite (canonical_suspendRotation ht5) ht5)

theorem canonical_sendHb {dst : Nat} {toBuddy : Bool} {flags : Nat} (hs : Canonical s) : Canonical (sendHb s h dst toBuddy flags) := by
  unfold sendHb
  exact canonical_sendPacket (canonical_upd hs)

theorem canonical_announceSafe (hs : Canonical s) : Canonical (announceSafe s h) := by
  unfold announceSafe
  exact canonical_ite hs (canonical_ite (canonical_sendHb (canonical_sendHb hs)) (canonical_sendHb hs))

theorem canonical_haltCores (hs : Canonical s) : Canonical (haltCores s h) := by
  unfold haltCores
  refine canonical_updCores hs fun _ hc => ?_
  dsimp only
  exact wf_change hc

theorem canonical_drawEvictKey (hs : Canonical s) : Canonical (drawEvictKey s h) := by
  unfold drawEvictKey
  exact canonical_ite (canonical_upd (canonical_of_parts hs rfl rfl rfl)) hs

theorem canonical_refreshPins (hs : Canonical s) : Canonical (refreshPins s) := by
  unfold refreshPins
  exact canonical_of_parts hs rfl rfl rfl

theorem canonical_setMode {m : Mode} (hs : Canonical s) : Canonical (setMode s h m) := by
  unfold setMode
  exact canonical_refreshPins (canonical_setFld (canonical_upd (canonical_ite (canonical_drawEvictKey hs) hs)))

theorem canonical_enterSafe {region index outcome : Nat} (hs : Canonical s) : Canonical (enterSafe s h region index outcome) := by
  unfold enterSafe
  exact canonical_ite hs (canonical_record (canonical_announceSafe (canonical_haltCores (canonical_setMode (canonical_upd hs)))))

theorem canonical_faultSafe {region index outcome : Nat} (hs : Canonical s) : Canonical (faultSafe s h region index outcome) := by
  unfold faultSafe
  exact canonical_ite (canonical_enterSafe hs) (canonical_ite (canonical_upd hs) hs)

theorem canonical_faultSafeDevice {region index : Nat} (hs : Canonical s) : Canonical (faultSafeDevice s region index) := by
  unfold faultSafeDevice
  exact canonical_faultSafe (canonical_faultSafe hs)

theorem canonical_wardenFault {code syndrome : Nat} {inj : Bool} (hs : Canonical s) : Canonical (wardenFault s h code syndrome inj) := by
  unfold wardenFault
  refine canonical_ite hs ?_
  extract_lets _ _ _ t _ t1
  have ht2 : Canonical t := canonical_updFlt (canonical_upd (canonical_record hs))
  have ht3 : Canonical t1 := canonical_updateGuar (canonical_updateGuar (canonical_ite (canonical_of_parts ht2 rfl rfl rfl) (canonical_upd
    (canonical_record hs))))
  exact canonical_ite (canonical_faultSafeDevice ht3) ht3

theorem canonical_regionFault {r : Region} {index code syndrome : Nat} {inj : Bool} (hs : Canonical s) :
    Canonical (regionFault s h r index code syndrome inj) := by
  unfold regionFault
  extract_lets t24 t25 t26
  have ht27 : Canonical t24 := canonical_incFld hs
  have ht28 : ∀ (outcome i : ℕ), Canonical (t25 outcome i) := fun _ _ => canonical_record ht27
  have ht29 : Canonical t26 := ht28 _ _
  split
  · exact canonical_ite (canonical_groveFault ht27) ht27
  · exact canonical_wardenFault ht27
  · exact canonical_faultSafe (ht28 _ _)
  · exact canonical_faultSafe (ht28 _ _)
  · exact canonical_faultSafeDevice (canonical_ite (canonical_of_parts ht29 rfl rfl rfl) ht29)
  · exact canonical_faultSafeDevice (canonical_ite (canonical_of_parts ht29 rfl rfl rfl) ht29)
  · exact ht28 _ _
  · exact ht28 _ _
  · exact ht28 _ _
  · exact ht28 _ _
  · exact ht28 _ _

theorem canonical_injectGranule {ddr hard : Bool} {target : Nat} (hs : Canonical s) : Canonical (injectGranule s h ddr target hard) := by
  unfold injectGranule
  refine canonical_upd (canonical_takeFree hs) fun _ => ?_
  dsimp only
  split
  · rfl
  · split <;> rfl

theorem canonical_replayLink {l : Nat} (hs : Canonical s) : Canonical (replayLink s h l) := by
  unfold replayLink
  exact canonical_pumpLink (canonical_incFld (canonical_foldl (fun _ _ hs1 => canonical_emit hs1) (canonical_updLink hs)))

theorem canonical_oscFailure {inj : Bool} (hs : Canonical s) : Canonical (oscFailure s inj) := by
  unfold oscFailure
  refine canonical_ite hs ?_
  refine canonical_faultSafeDevice ?_
  extract_lets t
  have ht1 : Canonical t := canonical_record hs
  exact canonical_of_parts ht1 rfl rfl rfl

theorem canonical_inject {cls target : Nat} (hs : Canonical s) : Canonical (inject s h cls target) := by
  unfold inject
  split
  · exact canonical_regionFault hs
  · exact canonical_regionFault hs
  · exact canonical_groveFault (canonical_incFld hs)
  · exact canonical_wardenFault hs
  · exact canonical_injectGranule hs
  · exact canonical_injectGranule hs
  · exact canonical_injectGranule hs
  · exact canonical_ite (canonical_replayLink hs) hs
  · exact canonical_incFld hs
  · exact canonical_oscFailure hs
  · exact hs

theorem canonical_clearBit {f : Fld} {i : Nat} (hs : Canonical s) : Canonical (State.clearBit s h f i) := by
  unfold State.clearBit
  exact canonical_ite (canonical_setFld hs) hs

theorem canonical_disableGroup {g : Nat} (hs : Canonical s) : Canonical (disableGroup h s g) := by
  unfold disableGroup
  exact canonical_clearBit (canonical_upd hs)

end Sys2Proof.Proofs
end

section
/-! Units, translation and a core's accesses keep the canonical form: Flume's and Scaler's sessions, the commands of the units, resets,
the walk of the page table, and an operand's accesses with what they leave owed. -/

namespace Sys2Proof.Proofs

open Sys2Proof Sys2Proof.Machine

-- one theorem after another: in parallel their stacks take the memory that a check of the whole text has
set_option Elab.async false

variable {s t : State} {h : HalfId} {k : CoreId} {n : Nat}

theorem canonical_writeOwed (hs : Canonical s) : Canonical (writeOwed h s) := by
  unfold writeOwed
  exact canonical_foldl (fun _ _ hs => canonical_writeThreadFields hs) (canonical_upd hs)

theorem canonical_refreshThread {t : Nat} (hs : Canonical s) : Canonical (refreshThread s h t) := by
  unfold refreshThread
  extract_lets t
  have ht1 : Canonical (Prod.snd t) := canonical_via Prod.snd (canonical_unitRead hs) rfl
  exact canonical_upd ht1

theorem canonical_keepHolds (hs : Canonical s) : Canonical (keepHolds h s t) := by
  unfold keepHolds
  exact canonical_upd (canonical_setFld hs)

theorem canonical_unitCmd {f : State → State} (hf : ∀ (a : State), Canonical a → Canonical (f a)) (hs : Canonical s) :
    Canonical (unitCmd h f s) := by
  unfold unitCmd
  exact canonical_ite (hf _ hs) (canonical_keepHolds hs)

theorem canonical_startThread {t : Nat} (hs : Canonical s) : Canonical (startThread s h t) := by
  unfold startThread
  exact canonical_ite (canonical_ite (canonical_makeReady (canonical_upd (canonical_refreshThread hs))) (canonical_upd (canonical_unitCmd
    (fun _ hs => canonical_refreshThread hs) hs))) (canonical_incFld hs)

theorem canonical_abortOne {t : Nat} (hs : Canonical s) : Canonical (abortOne s h t) := by
  unfold abortOne
  dsimp only
  split
  · exact canonical_becomeAborted hs
  · exact canonical_becomeAborted hs
  · exact canonical_upd hs
  · exact hs
  · exact hs

theorem canonical_abortThreadCmd {t : Nat} (hs : Canonical s) : Canonical (abortThreadCmd s h t) := by
  unfold abortThreadCmd
  exact canonical_ite (canonical_incFld hs) (canonical_abortOne hs)

theorem canonical_abortCompartmentCmd {c : Nat} (hs : Canonical s) : Canonical (abortCompartmentCmd s h c) := by
  unfold abortCompartmentCmd
  exact canonical_foldl (fun _ _ hs => canonical_abortOne hs) hs

theorem canonical_freeThread {t : Nat} (hs : Canonical s) : Canonical (freeThread s h t) := by
  unfold freeThread
  exact canonical_ite (canonical_setThread hs) (canonical_incFld hs)

theorem canonical_fmnCommand {op arg : Nat} (hs : Canonical s) : Canonical (fmnCommand s h op arg) := by
  unfold fmnCommand
  split
  · exact canonical_startThread hs
  · exact canonical_abortThreadCmd hs
  · exact canonical_abortCompartmentCmd hs
  · exact canonical_freeThread hs
  · exact hs

theorem canonical_retryForeman (hs : Canonical s) : Canonical (retryForeman h s) := by
  unfold retryForeman
  exact canonical_foldl (fun _ _ hs => canonical_fmnCommand hs) (canonical_upd (canonical_writeOwed hs))

theorem canonical_readListener (hs : Canonical s) : Canonical (readListener s h n).2 := by
  unfold readListener
  extract_lets t
  have ht1 : Canonical (Prod.snd t) := canonical_via Prod.snd (canonical_unitRead hs) rfl
  exact canonical_ite_of Prod.snd (canonical_snd ht1) (canonical_ite_of Prod.snd (canonical_snd (canonical_incFld ht1)) (canonical_snd
    ht1))

theorem canonical_readBinding (hs : Canonical s) : Canonical (readBinding s h n).2 := by
  unfold readBinding
  extract_lets t
  have ht1 : Canonical (Prod.snd t) := canonical_via Prod.snd (canonical_unitRead hs) rfl
  exact canonical_snd ht1

theorem canonical_updMil {f : Mill → Mill} (hs : Canonical s) : Canonical (updMil s h f) := by
  unfold updMil
  exact canonical_upd hs

theorem canonical_freeRetired (hs : Canonical s) : Canonical (freeRetired s h) := by
  unfold freeRetired
  exact canonical_updMil hs

theorem canonical_setParseCtx {x : ParseCtx} (hs : Canonical s) : Canonical (setParseCtx s h n x) := by
  unfold setParseCtx
  exact canonical_updMil hs

theorem canonical_openContext (hs : Canonical s) : Canonical (openContext s h n) := by
  unfold openContext
  extract_lets t
  have ht1 : Canonical (Prod.snd t) := canonical_via Prod.snd (canonical_readBinding hs) rfl
  exact canonical_freeRetired (canonical_setParseCtx ht1)

theorem canonical_updKln {f : Kiln → Kiln} (hs : Canonical s) : Canonical (updKln s h f) := by
  unfold updKln
  exact canonical_upd hs

theorem canonical_setKeys {x : SessKeys} (hs : Canonical s) : Canonical (setKeys s h n x) := by
  unfold setKeys
  exact canonical_updKln hs

theorem canonical_setUnitMark {i v : Nat} (hs : Canonical s) : Canonical (setUnitMark s h i v) := by
  unfold setUnitMark
  exact canonical_upd hs

theorem canonical_touchUnit {i : Nat} (hs : Canonical s) : Canonical (touchUnit s h i).2 := by
  unfold touchUnit
  split
  · exact canonical_snd hs
  · exact canonical_snd (canonical_incFld (canonical_setUnitMark hs))
  · exact canonical_snd (canonical_record (canonical_incFld (canonical_setUnitMark hs)))
  · exact canonical_snd hs

theorem canonical_readUnit {store a : Nat} (hs : Canonical s) : Canonical (readUnit s h store a n).2 := by
  unfold readUnit
  refine canonical_foldl_snd (fun _ _ hs => ?_) (canonical_snd hs)
  extract_lets t1
  have ht2 : Canonical (Prod.snd t1) := canonical_via Prod.snd (canonical_touchUnit hs) rfl
  exact canonical_snd ht2

theorem canonical_mergeUnit {mid : Nat} {full : Bool} {i : Nat} (hs : Canonical s) : Canonical (mergeUnit h mid full s i) := by
  unfold mergeUnit
  refine canonical_ite (canonical_setUnitMark hs) ?_
  split
  · exact hs
  · exact canonical_incFld (canonical_setUnitMark hs)
  · exact canonical_record (canonical_setUnitMark hs)
  · exact canonical_incFld hs

theorem canonical_writeUnit {mid store a : Nat} (hs : Canonical s) : Canonical (writeUnit s h mid store a n) := by
  unfold writeUnit
  exact canonical_ite hs (canonical_foldl (fun _ _ hs => canonical_mergeUnit hs) hs)

theorem canonical_sessionStatus {mid status : Nat} (hs : Canonical s) : Canonical (sessionStatus s h mid n status) := by
  unfold sessionStatus
  extract_lets _ _ t5
  have ht11 : Canonical t5 := by
    unfold t5
    split
    · exact canonical_fmnEvent (canonical_unitWrite hs)
    · exact canonical_unitWrite hs
  exact canonical_ite ht11 (canonical_queueRecord ht11)

theorem canonical_keysLost (hs : Canonical s) : Canonical (keysLost s h n) := by
  unfold keysLost
  extract_lets _ _ t
  have ht1 : Canonical t := canonical_sessionStatus (canonical_setKeys hs)
  exact canonical_record ht1

theorem canonical_readStore (hs : Canonical s) : Canonical (readStore s h n) := by
  unfold readStore
  refine canonical_ite hs ?_
  extract_lets t
  have ht1 : Canonical (Prod.snd t) := canonical_via Prod.snd (canonical_readUnit hs) rfl
  exact canonical_ite (canonical_writeUnit (canonical_keysLost ht1)) ht1

theorem canonical_updFlm {f : Flume → Flume} (hs : Canonical s) : Canonical (updFlm s h f) := by
  unfold updFlm
  exact canonical_upd hs

theorem canonical_setSession {x : Session} (hs : Canonical s) : Canonical (setSession s h n x) := by
  unfold setSession
  exact canonical_updFlm hs

theorem canonical_touchSession (hs : Canonical s) : Canonical (touchSession s h n) := by
  unfold touchSession
  exact canonical_setSession (canonical_updFlm (canonical_readStore hs))

theorem canonical_readMirror (hs : Canonical s) : Canonical (readMirror s h n).2 := by
  unfold readMirror
  extract_lets t
  have ht1 : Canonical (Prod.snd t) := canonical_via Prod.snd (canonical_unitRead hs) rfl
  exact canonical_snd ht1

theorem canonical_readRecord {p : Nat} (hs : Canonical s) : Canonical (readRecord s h p).2 := by
  unfold readRecord
  dsimp only
  split
  · exact canonical_snd (canonical_ite_of Prod.snd (canonical_snd hs) (canonical_readUnit hs))
  · exact canonical_snd (canonical_unitRead hs)

theorem canonical_readRecords {ps : List Nat} (hs : Canonical s) : Canonical (readRecords s h ps).2 := by
  unfold readRecords
  refine canonical_foldl_snd (fun _ _ hs => ?_) (canonical_snd hs)
  extract_lets t1
  have ht2 : Canonical (Prod.snd t1) := canonical_via Prod.snd (canonical_readRecord hs) rfl
  exact canonical_snd ht2

theorem canonical_updBom {f : Boom → Boom} (hs : Canonical s) : Canonical (updBom s h f) := by
  unfold updBom
  exact canonical_upd hs

theorem canonical_sendMirr {b : List Byte} {points : List Nat} (hs : Canonical s) : Canonical (sendMirr s h n b points) := by
  unfold sendMirr
  split
  · exact hs
  · extract_lets _ _ t6
    have ht7 : Canonical (Prod.snd t6) := canonical_via Prod.snd (canonical_readRecords hs) rfl
    exact canonical_sendPacket (canonical_updBom (canonical_updKln ht7))

theorem canonical_mirrorUpdate (hs : Canonical s) : Canonical (mirrorUpdate s h n) := by
  unfold mirrorUpdate
  refine canonical_ite hs ?_
  split
  next _ _ heq2 =>
    exact canonical_of_eq Prod.snd heq2 (canonical_readMirror hs)
  next _ _ _ heq6 =>
    exact canonical_foldl (fun _ _ hs7 => canonical_sendMirr hs7) (canonical_of_eq Prod.snd heq6 (canonical_readMirror hs))

theorem canonical_updEth {f : Eth → Eth} (hs : Canonical s) : Canonical (updEth s h f) := by
  unfold updEth
  exact canonical_upd hs

theorem canonical_ethCount {f : Fld} {kind sub : Nat} (hs : Canonical s) : Canonical (ethCount s h f kind sub n) := by
  unfold ethCount
  exact canonical_updEth (canonical_addFld hs)

theorem canonical_countTxDrop {sub : Nat} (hs : Canonical s) : Canonical (countTxDrop s h sub n) := by
  unfold countTxDrop
  exact canonical_ethCount hs

theorem canonical_ethSend {x : TxFrame} (hs : Canonical s) : Canonical (ethSend s h x) := by
  unfold ethSend
  exact canonical_ite (canonical_updEth hs) (canonical_countTxDrop hs)

theorem canonical_flumeFrame {x : TxFrame} (hs : Canonical s) : Canonical (flumeFrame s h n x) := by
  unfold flumeFrame
  exact canonical_ite hs (canonical_ite (canonical_updBom hs) (canonical_ethSend hs))

theorem canonical_sendL4 {proto co : Nat} {b : List Byte} (hs : Canonical s) : Canonical (sendL4 s h n proto co b) := by
  unfold sendL4
  exact canonical_flumeFrame hs

theorem canonical_areaWrite {a seq : Nat} {bs : List Byte} (hs : Canonical s) : Canonical (areaWrite s h a seq bs) := by
  unfold areaWrite
  exact canonical_ite (canonical_ite hs (canonical_unitWrite hs)) (canonical_unitWrite (canonical_ite hs (canonical_unitWrite hs)))

theorem canonical_sendSegs {os : List OutSeg} (hs : Canonical s) : Canonical (sendSegs s h n os) := by
  unfold sendSegs
  split
  · exact hs
  · exact canonical_foldl (fun _ _ hs5 => canonical_sendL4 (canonical_areaWrite hs5)) (canonical_ite (canonical_setSession hs) hs)

theorem canonical_putCold (hs : Canonical s) : Canonical (putCold s h n) := by
  unfold putCold
  extract_lets _ _ _ t
  have ht1 : Canonical t := canonical_updKln (canonical_unitWrite (canonical_readStore hs))
  exact canonical_setSession ht1

theorem offers_evictOne (hs : Canonical s) : Offers id (evictOne s h) := by
  unfold evictOne
  exact .map_of fun _ => canonical_putCold hs

theorem offers_roomForHot (hs : Canonical s) : Offers id (roomForHot s h) := by
  unfold roomForHot
  exact .ite (.some hs) (offers_evictOne hs)

theorem offers_flmOpen {addr : Nat} (hs : Canonical s) : Offers Prod.snd (flmOpen s h addr n) := by
  unfold flmOpen
  refine .ite (.some (canonical_snd hs)) ?_
  extract_lets t _ t1
  have ht2 : Canonical (Prod.snd t) := canonical_via Prod.snd (canonical_unitRead hs) rfl
  have ht3 : Canonical (Prod.snd t1) := canonical_via Prod.snd (canonical_ite_of Prod.snd (canonical_readListener ht2) (canonical_snd
    ht2)) rfl
  refine .ite (.some (canonical_snd ht2)) ?_
  refine .ite (.some (canonical_snd ht2)) ?_
  split
  · exact .some (canonical_snd ht3)
  · refine .ite (.some (canonical_snd ht3)) ?_
    refine .ite (.some (canonical_snd ht3)) ?_
    refine .map (offers_roomForHot ht3) fun _ hs9 => ?_
    extract_lets _ _ _ t10
    have ht11 : Canonical t10 := canonical_takeFree (canonical_openContext (canonical_setKeys hs9))
    refine canonical_ite_of Prod.snd ?_ ?_
    · exact canonical_snd (canonical_mirrorUpdate (canonical_sessionStatus (canonical_touchSession (canonical_setSession
        (canonical_openContext (canonical_setKeys hs9))))))
    · exact canonical_snd (canonical_mirrorUpdate (canonical_sendSegs (canonical_sessionStatus (canonical_touchSession
        (canonical_setSession ht11)))))

theorem canonical_flmRelease (hs : Canonical s) : Canonical (flmRelease s h n).2 := by
  unfold flmRelease
  dsimp only
  split
  · exact canonical_snd hs
  · exact canonical_snd hs
  · exact canonical_snd hs
  · exact canonical_snd hs
  · exact canonical_ite_of Prod.snd (canonical_snd hs) (canonical_snd (canonical_setSession (canonical_sessionStatus (canonical_setSession
      (canonical_setKeys hs)))))

theorem canonical_coldRestore {b : List Byte} (hs : Canonical s) : Canonical (coldRestore s h n b) := by
  unfold coldRestore
  exact canonical_ite hs (canonical_setParseCtx (canonical_setSession hs))

theorem offers_fetchCold (hs : Canonical s) : Offers id (fetchCold s h n) := by
  unfold fetchCold
  split
  · exact .none
  next _ _ heq4 =>
    extract_lets t5 _ _ t6 _ t7
    have ht8 : Canonical (Prod.snd t5) := canonical_via Prod.snd (canonical_unitRead (offers_roomForHot hs _ heq4)) rfl
    have ht9 : Canonical t6 := canonical_writeUnit (canonical_coldRestore ht8)
    have ht10 : Canonical t7 := canonical_touchSession (canonical_setSession ht9)
    exact .some (canonical_ite ht10 (canonical_keysLost ht10))

theorem offers_onHot {f : State → Nat × State} (hs : Canonical s) (hf : ∀ (a : State), Canonical a → Canonical (f a).2) :
    Offers Prod.snd (onHot s h n f) := by
  unfold onHot
  exact .ite (.some (hf _ hs)) (.map (offers_fetchCold hs) fun _ hs => hf _ hs)

theorem canonical_setInFlight {tag : Nat} {f : InFlight → InFlight} (hs : Canonical s) : Canonical (setInFlight s h tag f) := by
  unfold setInFlight
  exact canonical_upd hs

theorem canonical_partEnd {tag k status : Nat} (hs : Canonical s) : Canonical (partEnd s h tag k status) := by
  unfold partEnd
  split
  · exact canonical_hifCount hs
  · split
    · extract_lets _ _ t7
      have ht8 : Canonical t7 := canonical_setInFlight (canonical_hostWrite hs)
      exact canonical_ite (canonical_completeWith ht8) ht8
    · exact hs

theorem canonical_endRequest {src : ReqFrom} {status : Nat} (hs : Canonical s) : Canonical (endRequest s h src status) := by
  unfold endRequest
  split
  · exact canonical_complete hs
  · exact canonical_partEnd hs
  · exact canonical_ite hs (canonical_queueRecord hs)
  · exact canonical_sendPacket (canonical_dedupUpd hs)

theorem canonical_dropWaiting (hs : Canonical s) : Canonical (dropWaiting s h n) := by
  unfold dropWaiting
  exact canonical_foldl (fun _ _ hs => canonical_endRequest hs) (canonical_updFlm hs)

theorem canonical_closeSession {detail : Nat} {own keep : Bool} (hs : Canonical s) : Canonical (closeSession s h n detail own keep) := by
  unfold closeSession
  exact canonical_sessionStatus (canonical_dropWaiting (canonical_setSession hs))

theorem canonical_setTcb {t : Tcb} (hs : Canonical s) : Canonical (setTcb s h n t) := by
  unfold setTcb
  exact canonical_setSession hs

theorem canonical_fillSend : ∀ {f : Nat} {s : State} {h : HalfId} {n : Nat}, Canonical s → Canonical (fillSend f s h n)
  | 0, _, _, _, hs => hs
  | f + 1, s, h, n, hs => by
    unfold fillSend
    split
    · exact canonical_ite (canonical_fillSend (canonical_endRequest (canonical_setTcb (canonical_updFlm hs)))) hs
    · exact hs

theorem canonical_tcpPush (hs : Canonical s) : Canonical (tcpPush s h n) := by
  unfold tcpPush
  dsimp only
  split
  · exact canonical_fillSend hs
  · exact canonical_ite (canonical_fillSend hs) (canonical_sendSegs (canonical_setTcb (canonical_fillSend hs)))

theorem canonical_flmClose (hs : Canonical s) : Canonical (flmClose s h n).2 := by
  unfold flmClose
  refine canonical_ite_of Prod.snd (canonical_snd (canonical_closeSession hs)) ?_
  refine canonical_ite_of Prod.snd (canonical_snd hs) ?_
  extract_lets _ t
  have ht1 : Canonical t := canonical_sessionStatus (canonical_setSession hs)
  split
  · exact canonical_ite_of Prod.snd (canonical_snd (canonical_closeSession ht1)) (canonical_snd (canonical_tcpPush ht1))
  · exact canonical_snd ht1

theorem canonical_flmAbort (hs : Canonical s) : Canonical (flmAbort s h n).2 := by
  unfold flmAbort
  extract_lets t5
  have ht11 : Canonical t5 := by
    unfold t5
    split
    · exact canonical_sendSegs hs
    · exact hs
  exact canonical_snd (canonical_closeSession ht11)

theorem canonical_flmLive {op : Nat} (hs : Canonical s) : Canonical (flmLive s h op n).2 := by
  unfold flmLive
  extract_lets _ _ t
  have ht1 : Canonical (Prod.snd t) := canonical_via Prod.snd (canonical_ite_of Prod.snd (canonical_flmClose (canonical_touchSession hs))
    (canonical_ite_of Prod.snd (canonical_flmAbort (canonical_touchSession hs)) (canonical_snd (canonical_setSession
    (canonical_touchSession hs))))) rfl
  exact canonical_snd (canonical_mirrorUpdate ht1)

theorem offers_flmOp {op addr : Nat} (hs : Canonical s) : Offers Prod.snd (flmOp s h op addr n) := by
  unfold flmOp
  exact .ite (offers_flmOpen hs) (.ite (.ite (.some (canonical_flmRelease hs)) (offers_onHot hs fun _ hs => canonical_flmRelease hs))
    (.ite (.some (canonical_snd hs)) (offers_onHot hs fun _ hs1 => canonical_flmLive hs1)))

theorem canonical_flmCommand {w : Word} (hs : Canonical s) : Canonical (flmCommand s h w) := by
  unfold flmCommand
  extract_lets _ t6
  have ht13 : ∀ (s : State), Canonical s → Canonical (t6 s) := by
    unfold t6
    intro _ hs7
    split
    next _ _ heq10 =>
      exact canonical_setReg (offers_flmOp hs7 _ heq10)
    · exact canonical_setFld hs7
  exact canonical_ite (canonical_setReg (canonical_setReg hs)) (canonical_ite (canonical_unitCmd ht13 (canonical_setReg hs))
    (canonical_setFld (canonical_unitCmd ht13 (canonical_setReg hs))))

theorem canonical_setMillTable {x : Option MTable} (hs : Canonical s) : Canonical (setMillTable s h n x) := by
  unfold setMillTable
  exact canonical_updMil hs

theorem canonical_wipePages {ps : List Nat} (hs : Canonical s) : Canonical (wipePages s h ps) := by
  unfold wipePages
  exact canonical_upd hs

theorem canonical_millLoad {addr : Nat} (hs : Canonical s) : Canonical (millLoad s h n addr).2 := by
  unfold millLoad
  refine canonical_ite_of Prod.snd (canonical_snd hs) ?_
  extract_lets t _ t1
  have ht2 : Canonical (Prod.snd t) := canonical_via Prod.snd (canonical_unitRead hs) rfl
  have ht3 : Canonical (Prod.snd t1) := canonical_via Prod.snd (canonical_unitRead ht2) rfl
  refine canonical_ite_of Prod.snd (canonical_snd ht2) ?_
  split
  · exact canonical_snd ht2
  · refine canonical_ite_of Prod.snd (canonical_snd ht3) ?_
    split
    · exact canonical_snd ht3
    · exact canonical_ite_of Prod.snd (canonical_snd ht3) (canonical_snd (canonical_setMillTable (canonical_wipePages ht3)))

theorem canonical_millUnload (hs : Canonical s) : Canonical (millUnload s h n) := by
  unfold millUnload
  split
  · exact canonical_freeRetired (canonical_setMillTable hs)
  · exact hs

theorem canonical_millCommand {w : Word} (hs : Canonical s) : Canonical (millCommand s h w) := by
  unfold millCommand
  extract_lets _ _ t3
  have ht7 : ∀ (s : State), Canonical s → Canonical (t3 s) := by
    unfold t3
    intro _ hs4
    refine canonical_ite ?_ (canonical_setReg (canonical_millUnload hs4))
    extract_lets t5
    have ht6 : Canonical (Prod.snd t5) := canonical_via Prod.snd (canonical_millLoad hs4) rfl
    exact canonical_setReg ht6
  exact canonical_ite (canonical_unitCmd ht7 (canonical_setReg hs)) (canonical_setFld (canonical_unitCmd ht7 (canonical_setReg hs)))

theorem canonical_updScl {f : Scaler → Scaler} (hs : Canonical s) : Canonical (updScl s h f) := by
  unfold updScl
  exact canonical_upd hs

theorem canonical_readScaler {place : Nat} (hs : Canonical s) : Canonical (readScaler s h place n).2 := by
  unfold readScaler
  exact canonical_ite_of Prod.snd (canonical_snd hs) (canonical_readUnit hs)

theorem canonical_usePoint {p : Nat} {r : List Byte} (hs : Canonical s) : Canonical (usePoint s h p r) := by
  unfold usePoint
  exact canonical_updScl hs

theorem canonical_putPoint {p : Nat} {r : List Byte} (hs : Canonical s) : Canonical (putPoint s h p r) := by
  unfold putPoint
  exact canonical_writeUnit (canonical_usePoint hs)

theorem canonical_fetchPoint {p : Nat} (hs : Canonical s) : Canonical (fetchPoint s h p).2 := by
  unfold fetchPoint
  dsimp only
  split
  · exact canonical_snd (canonical_usePoint (canonical_readScaler hs))
  · exact canonical_ite_of Prod.snd (canonical_snd (canonical_unitRead hs)) (canonical_snd (canonical_putPoint (canonical_unitRead hs)))

theorem canonical_poisonAt {a : Nat} (hs : Canonical s) : Canonical (poisonAt s h a n) := by
  unfold poisonAt
  refine canonical_foldl (fun _ _ hs => ?_) hs
  dsimp only
  split
  · exact canonical_upd hs
  · exact canonical_upd hs
  · exact hs

theorem canonical_evictPoint {p : Nat × List Byte} (hs : Canonical s) : Canonical (evictPoint h s p) := by
  unfold evictPoint
  extract_lets t
  have ht1 : Canonical (Prod.snd t) := canonical_via Prod.snd (canonical_readScaler hs) rfl
  exact canonical_ite (canonical_poisonAt (canonical_unitWrite ht1)) (canonical_unitWrite ht1)

theorem canonical_trimStores (hs : Canonical s) : Canonical (trimStores s h) := by
  unfold trimStores
  exact canonical_updScl (canonical_foldl (fun _ _ hs1 => canonical_evictPoint hs1) hs)

theorem canonical_sRunFlushPend {x : SRun} {p : Nat} (hx : Canonical x.s) : Canonical (SRun.flushPend x h p).s := by
  unfold SRun.flushPend
  exact canonical_ite_of SRun.s hx (canonical_sRun hx)

theorem canonical_takeClass (hs : Canonical s) : Canonical (takeClass s h n) := by
  unfold takeClass
  exact canonical_updScl hs

theorem canonical_sRunRereadClass {x : SRun} {cls : Nat} {closed : Bool} (hx : Canonical x.s) :
    Canonical (SRun.rereadClass x h cls closed).s := by
  unfold SRun.rereadClass
  exact canonical_ite_of SRun.s (canonical_sRun (canonical_takeClass hx)) hx

theorem canonical_freeValue (hs : Canonical s) : Canonical (freeValue s).2 := by
  unfold freeValue
  extract_lets t t1
  have ht2 : Canonical (Prod.snd t) := canonical_via Prod.snd (canonical_takeFree hs) rfl
  have ht3 : Canonical (Prod.snd t1) := canonical_via Prod.snd (canonical_takeFree ht2) rfl
  exact canonical_snd ht3

theorem canonical_sRunAggOne {r : List Byte} {p off : Nat} {start : Int} {vt : Option Nat} {extra : Nat} {x : SRun} {f : Nat} (hx :
    Canonical x.s) :
    Canonical (SRun.aggOne r p off start vt extra x f).s := by
  unfold SRun.aggOne
  extract_lets t
  have ht1 : Canonical (Prod.snd t) := canonical_via Prod.snd (canonical_ite_of Prod.snd (canonical_freeValue hx) (canonical_snd hx)) rfl
  exact canonical_sRun ht1

theorem canonical_sRunAggregates {x : SRun} {p off : Nat} {start : Int} {vt : Option Nat} {extra : Nat} (hx : Canonical x.s) :
    Canonical (SRun.aggregates x p off start vt extra).s := by
  unfold SRun.aggregates
  extract_lets _ _ t1
  have ht3 : Canonical (SRun.s t1) := canonical_via SRun.s (canonical_foldl_sRun (fun _ _ hs2 => canonical_sRunAggOne hs2) hx) rfl
  exact canonical_sRun ht3

theorem canonical_sRunClose {x : SRun} {p : Nat} {c : PClass} {off : Nat} {k : Int} {cut : Bool} (hx : Canonical x.s) :
    Canonical (SRun.close x h p c off k cut).s := by
  unfold SRun.close
  extract_lets _ t t1
  have ht2 : Canonical (SRun.s t) := canonical_via SRun.s (canonical_ite_of SRun.s (canonical_sRunFlushPend hx) hx) rfl
  have ht3 : Canonical (SRun.s t1) := canonical_via SRun.s (canonical_sRunAggregates ht2) rfl
  exact canonical_sRun ht3

theorem canonical_inboxBusy (hs : Canonical s) : Canonical (inboxBusy s h n).2 := by
  unfold inboxBusy
  refine canonical_ite_of Prod.snd (canonical_snd hs) ?_
  extract_lets t
  have ht1 : Canonical (Prod.snd t) := canonical_via Prod.snd (canonical_unitRead hs) rfl
  exact canonical_snd ht1

theorem canonical_deliverOuts : ∀ {os : List ScalerOut} {told : Bool} {s : State}, Canonical s → Canonical (deliverOuts h n os told s).2
  | [], _, _, hs => hs
  | o :: rest, told, s, hs => by
    unfold deliverOuts
    dsimp only
    split
    · have ht := canonical_unitRead (h := h) (mid := mScaler) (a := inboxAddr s h n) (n := 32) hs
      split
      · exact canonical_deliverOuts (canonical_updScl ht)
      · split
        · exact ht
        · exact canonical_deliverOuts (canonical_updScl (canonical_updScl (canonical_unitWrite (canonical_unitWrite ht))))
    · split
      · exact canonical_inboxBusy hs
      · exact canonical_deliverOuts (canonical_updScl (canonical_queueRecord (canonical_updScl (canonical_inboxBusy hs))))

theorem canonical_deliver (hs : Canonical s) : Canonical (deliver s h n) := by
  unfold deliver
  extract_lets t
  have ht1 : Canonical (Prod.snd t) := canonical_via Prod.snd (canonical_deliverOuts hs) rfl
  refine canonical_ite ?_ ht1
  split
  · exact canonical_fmnEvent ht1
  · exact ht1

theorem canonical_putOuts {path : Bool} {arrival : Option Word} {out : List Rec} (hs : Canonical s) :
    Canonical (putOuts s h n path arrival out) := by
  unfold putOuts
  exact canonical_deliver (canonical_updScl hs)

theorem canonical_finishCmd {x : SRun} {p : Nat} (hx : Canonical x.s) : Canonical (finishCmd x h p n) := by
  unfold finishCmd
  exact canonical_putOuts (canonical_putPoint hx)

theorem canonical_setPoint {p : Nat} {r b : List Byte} (hs : Canonical s) : Canonical (setPoint s h p r b) := by
  unfold setPoint
  extract_lets t1 _ _ t2
  have ht3 : Canonical (SRun.s t1) := canonical_via SRun.s (canonical_sRunFlushPend (canonical_sRun hs)) rfl
  have ht5 : Canonical (SRun.s t2) := canonical_via SRun.s (canonical_sRunRereadClass (canonical_foldl_sRun (fun _ _ hs4 =>
    canonical_sRunClose hs4) ht3)) rfl
  exact canonical_updScl (canonical_putPoint (canonical_finishCmd ht5))

theorem canonical_pointCommand {w : Nat} (hs : Canonical s) : Canonical (pointCommand s h w).2 := by
  unfold pointCommand
  extract_lets _ _ _ _ t t1 t2
  have ht3 : Canonical (Prod.snd t) := canonical_via Prod.snd (canonical_unitRead hs) rfl
  have ht4 : Canonical (Prod.snd t1) := canonical_via Prod.snd (canonical_fetchPoint ht3) rfl
  have ht5 : Canonical (Prod.snd t2) := canonical_via Prod.snd (canonical_fetchPoint hs) rfl
  split
  · refine canonical_ite_of Prod.snd (canonical_snd ht3) ?_
    refine canonical_ite_of Prod.snd (canonical_snd ht3) ?_
    split
    · exact canonical_snd (canonical_incFld ht4)
    · exact canonical_snd (canonical_trimStores (canonical_setPoint ht4))
  · split
    · exact canonical_snd (canonical_incFld ht5)
    · exact canonical_snd (canonical_trimStores (canonical_unitWrite ht5))
  · split
    · exact canonical_snd (canonical_incFld ht5)
    · exact canonical_snd (canonical_trimStores (canonical_finishCmd (canonical_sRunFlushPend (canonical_sRun ht5))))
  · exact canonical_snd (canonical_updScl hs)
  · exact canonical_snd (canonical_updScl hs)
  · exact canonical_snd hs

theorem canonical_sclCommand {w : Word} (hs : Canonical s) : Canonical (sclCommand s h w) := by
  unfold sclCommand
  extract_lets _ t3
  have ht7 : ∀ (s : State), Canonical s → Canonical (t3 s) := by
    unfold t3
    intro _ hs4
    extract_lets t5
    have ht6 : Canonical (Prod.snd t5) := canonical_via Prod.snd (canonical_pointCommand hs4) rfl
    exact canonical_setReg ht6
  exact canonical_ite (canonical_unitCmd ht7 (canonical_setReg hs)) (canonical_setFld (canonical_unitCmd ht7 (canonical_setReg hs)))

theorem canonical_retryHeld {x : Held} (hs : Canonical s) : Canonical (retryHeld h s x) := by
  unfold retryHeld
  exact canonical_ite (canonical_retryForeman hs) (canonical_ite (canonical_flmCommand hs) (canonical_ite (canonical_millCommand hs)
    (canonical_ite (canonical_sclCommand hs) hs)))

theorem canonical_enableGroup {g : Nat} (hs : Canonical s) : Canonical (enableGroup h s g) := by
  unfold enableGroup
  exact canonical_foldl (fun _ _ hs => canonical_retryHeld hs) (canonical_clearBit (canonical_upd hs))

theorem canonical_setGroups {old new : Nat} (hs : Canonical s) : Canonical (setGroups s h old new) := by
  unfold setGroups
  exact canonical_foldl (fun _ _ hs1 => canonical_enableGroup hs1) (canonical_foldl (fun _ _ hs2 => canonical_disableGroup hs2) hs)

theorem canonical_fenceMask {mask : Nat} (hs : Canonical s) : Canonical (fenceMask s h mask) := by
  unfold fenceMask
  exact canonical_foldl (fun _ _ hs => canonical_updateGuar (canonical_fenceGrove hs)) hs

theorem canonical_putRing {r : Machine.Ring} (hs : Canonical s) : Canonical (putRing s h n r) := by
  unfold putRing
  exact canonical_writeUnit (canonical_upd (canonical_setRing hs))

theorem canonical_createRing0 (hs : Canonical s) : Canonical (createRing0 s h) := by
  unfold createRing0
  exact canonical_putRing hs

theorem canonical_destroyRings (hs : Canonical s) : Canonical (destroyRings s h) := by
  unfold destroyRings
  exact canonical_foldl (fun _ _ hs => canonical_hifCount hs) (canonical_upd hs)

theorem canonical_hifEnable {old new : Nat} (hs : Canonical s) : Canonical (hifEnable s h old new) := by
  unfold hifEnable
  exact canonical_ite (canonical_createRing0 hs) (canonical_ite (canonical_destroyRings hs) hs)

theorem canonical_ethDown {subs : List Nat} (hs : Canonical s) : Canonical (ethDown s h subs) := by
  unfold ethDown
  exact canonical_foldl (fun _ _ hs2 => canonical_clearBit hs2) (canonical_updEth (canonical_foldl (fun _ _ hs3 => canonical_countTxDrop
    hs3) hs))

theorem canonical_ethRestart (hs : Canonical s) : Canonical (ethRestart s h) := by
  unfold ethRestart
  exact canonical_setFld (canonical_ethDown hs)

theorem canonical_sendPause {sub p quanta : Nat} (hs : Canonical s) : Canonical (sendPause s h sub p quanta) := by
  unfold sendPause
  exact canonical_ite hs (canonical_emit hs)

theorem canonical_flowPrio {p : Nat} (hs : Canonical s) : Canonical (flowPrio h s p) := by
  unfold flowPrio
  exact canonical_ite (canonical_ite (canonical_foldl (fun _ _ hs => canonical_updEth (canonical_ite (canonical_sendPause hs) hs)) hs) hs)
    (canonical_ite (canonical_foldl (fun _ _ hs1 => canonical_sendPause hs1) (canonical_updEth hs)) hs)

theorem canonical_flowCheck (hs : Canonical s) : Canonical (flowCheck s h) := by
  unfold flowCheck
  exact canonical_foldl (fun _ _ hs => canonical_flowPrio hs) hs

theorem canonical_pfcWritten {flowChanged : Bool} (hs : Canonical s) : Canonical (pfcWritten s h flowChanged) := by
  unfold pfcWritten
  exact canonical_flowCheck (canonical_ite (canonical_updEth hs) hs)

theorem canonical_readSlots {p : Prim} (hs : Canonical s) : Canonical (readSlots s h p).2 := by
  unfold readSlots
  refine canonical_ite_of Prod.snd (canonical_snd hs) ?_
  refine canonical_foldl_snd (fun _ _ hs => ?_) (canonical_snd hs)
  extract_lets t1
  have ht2 : Canonical (Prod.snd t1) := canonical_via Prod.snd (canonical_readUnit hs) rfl
  exact canonical_snd ht2

theorem canonical_signal {t src : Nat} (hs : Canonical s) : Canonical (signal s h t src) := by
  unfold signal
  exact canonical_ite (canonical_fmnEvent hs) (canonical_upd hs)

theorem canonical_runPrim {p : Prim} {f : State → HalfId → Prim → Nat × State} (hs : Canonical s) (hf : ∀ (a : State) (a_1 : HalfId) (a_2
    : Prim), Canonical a → Canonical (f a a_1 a_2).2) :
    Canonical (runPrim s h p f) := by
  unfold runPrim
  extract_lets _ t t1 t2
  have ht3 : Canonical (Prod.snd t) := canonical_via Prod.snd (canonical_unitRead hs) rfl
  have ht4 : Canonical (Prod.snd t1) := canonical_via Prod.snd (canonical_readSlots ht3) rfl
  have ht5 : Canonical (Prod.snd t2) := canonical_via Prod.snd (canonical_ite_of Prod.snd (canonical_snd hs) (canonical_ite_of Prod.snd
    (canonical_snd ht3) (canonical_ite_of Prod.snd (canonical_snd ht4) (hf _ _ _ ht4)))) rfl
  exact canonical_setFld (canonical_ite (canonical_unitWrite ht5) (canonical_signal (canonical_unitWrite ht5)))

theorem canonical_skipBadOps : ∀ {n : Nat} {s : State} {h : HalfId}, Canonical s → Canonical (skipBadOps n s h)
  | 0, _, _, hs => hs
  | n + 1, s, h, hs => by
    unfold skipBadOps
    split
    · exact canonical_ite (canonical_skipBadOps (canonical_runPrim hs fun _ _ _ hs => hs)) hs
    · exact hs

theorem canonical_setVault {x : Option VaultKey} (hs : Canonical s) : Canonical (setVault s h n x) := by
  unfold setVault
  exact canonical_ite (canonical_setBit (canonical_updKln hs)) (canonical_clearBit (canonical_updKln hs))

theorem canonical_vaultUnwrap {addr : Nat} (hs : Canonical s) : Canonical (vaultUnwrap s h n addr) := by
  unfold vaultUnwrap
  refine canonical_ite hs ?_
  extract_lets t
  have ht1 : Canonical (Prod.snd t) := canonical_via Prod.snd (canonical_unitRead hs) rfl
  split
  · exact canonical_setVault ht1
  · exact canonical_record (canonical_setVault ht1)

theorem canonical_klnVault {w : Word} (hs : Canonical s) : Canonical (klnVault s h w) := by
  unfold klnVault
  dsimp only
  split
  · exact canonical_unitCmd (fun _ hs13 => canonical_vaultUnwrap hs13) hs
  · exact canonical_setVault hs
  · exact canonical_setFld hs
  · exact hs

theorem canonical_stepTimebase {v : Word} (hs : Canonical s) : Canonical (stepTimebase s v) := by
  unfold stepTimebase
  exact canonical_ite hs (canonical_of_parts hs rfl rfl rfl)

theorem canonical_linksOff (hs : Canonical s) : Canonical (linksOff s h) := by
  unfold linksOff
  exact canonical_setFld (canonical_foldl (fun _ _ hs1 => canonical_clearBit (canonical_clearBit (canonical_updLink hs1))) hs)

theorem canonical_dropHomeTlb (hs : Canonical s) : Canonical (dropHomeTlb s h) := by
  unfold dropHomeTlb
  exact canonical_upd hs

theorem canonical_crossSignal {new : Nat} (hs : Canonical s) : Canonical (crossSignal s h new) := by
  unfold crossSignal
  exact canonical_ite (canonical_fmnEvent hs) (canonical_queueEffect hs)

theorem canonical_lcRequestAt {addr : Nat} (hs : Canonical s) : Canonical (lcRequestAt s h addr).2 := by
  unfold lcRequestAt
  refine canonical_ite_of Prod.snd (canonical_snd (canonical_setFld hs)) ?_
  extract_lets t
  have ht1 : Canonical (Prod.snd t) := canonical_via Prod.snd (canonical_unitRead hs) rfl
  split
  · exact canonical_snd (canonical_setFld ht1)
  · exact canonical_snd (canonical_setFld (canonical_of_parts ht1 rfl rfl rfl))

theorem canonical_advanceCounter {c target : Nat} (hs : Canonical s) : Canonical (advanceCounter s c target) := by
  unfold advanceCounter
  exact canonical_ite hs (canonical_of_parts hs rfl rfl rfl)

theorem canonical_stopTransition (hs : Canonical s) : Canonical (stopTransition s) := by
  unfold stopTransition
  split
  · exact hs
  · extract_lets t5
    have ht6 : Canonical (Prod.snd t5) := canonical_via Prod.snd (canonical_takeFree hs) rfl
    exact canonical_setFld (canonical_of_parts ht6 rfl rfl rfl)

theorem canonical_loadLcs (hs : Canonical s) : Canonical (loadLcs s) := by
  unfold loadLcs
  exact canonical_setReg hs

theorem wf_keptRegs {m : List (Nat × Word)} (hm : SMap.wf (regReset h) m = true) : SMap.wf (regReset h) (keptRegs h m) = true := by
  have he : keptRegs h m = SMap.change (regReset h) (fun a w => (w &&& rosMask a) ||| (regReset h a &&& ~~~rosMask a)) m := by
    unfold keptRegs SMap.change
    congr 1
    funext p
    exact decide_not.symm
  rw [he]
  exact wf_change hm

/-- A half after a reset. -/
theorem halfCanonical_resetHalf {warm : Bool} (hs : Canonical s) : HalfCanonical h (resetHalf s h warm) := by
  refine ⟨rfl, ?_, rfl⟩
  unfold resetHalf
  dsimp only
  split
  · exact wf_keptRegs (canonical_half hs h).regs
  · rfl

theorem canonical_resetPackage {warm : Bool} (hs : Canonical s) : Canonical (resetPackage s warm) := by
  unfold resetPackage
  have ht := canonical_stopTransition hs
  exact canonical_loadLcs ⟨halfCanonical_resetHalf ht, halfCanonical_resetHalf ht, ht.host⟩

theorem canonical_warmResetPackage (hs : Canonical s) : Canonical (warmResetPackage s) := by
  unfold warmResetPackage
  exact canonical_resetPackage (canonical_announceSafe (canonical_announceSafe hs))

theorem canonical_spiStart {w : Word} (hs : Canonical s) : Canonical (spiStart s w) := by
  unfold spiStart
  extract_lets _ t
  have ht1 : Canonical t := canonical_emit hs
  exact canonical_setFld (canonical_of_parts ht1 rfl rfl rfl)

theorem canonical_classWritten (hs : Canonical s) : Canonical (classWritten s h n) := by
  unfold classWritten
  exact canonical_ite hs (canonical_ite (canonical_updScl (canonical_takeClass hs)) (canonical_takeClass hs))

theorem canonical_pacedWrite {blk old new : Nat} (hs : Canonical s) : Canonical (pacedWrite s h blk old new) := by
  unfold pacedWrite
  exact canonical_ite (canonical_upd (canonical_setFld (canonical_setFld hs))) (canonical_ite (canonical_upd (canonical_setFld
    (canonical_setFld hs))) hs)

theorem canonical_writeEffect {blk off old new raw : Nat} (hs : Canonical s) : Canonical (writeEffect s h blk off old new raw) := by
  unfold writeEffect
  dsimp only
  split
  · exact canonical_latchWrite hs
  · exact canonical_updateGuar hs
  · exact canonical_startRetest hs
  · exact canonical_ite (canonical_updFlt hs) hs
  · exact canonical_updateGuar hs
  · exact canonical_inject hs
  · exact canonical_setGroups hs
  · exact canonical_fenceMask hs
  · exact canonical_fmnEvent hs
  · exact canonical_fmnCommand hs
  · exact canonical_hifEnable hs
  · exact canonical_ite (canonical_raiseAttn hs) hs
  · exact canonical_flmCommand hs
  · exact canonical_ite hs (canonical_ethRestart hs)
  · exact canonical_ite hs (canonical_pfcWritten hs)
  · exact canonical_skipBadOps hs
  · exact canonical_skipBadOps hs
  · exact canonical_klnVault hs
  · exact canonical_millCommand hs
  · exact canonical_sclCommand hs
  · exact canonical_stepTimebase hs
  · exact canonical_setReg hs
  · exact canonical_ite (canonical_linksOff hs) hs
  · exact canonical_ite (canonical_upd hs) hs
  · exact canonical_ite (canonical_dropHomeTlb hs) hs
  · exact canonical_crossSignal hs
  · exact canonical_lcRequestAt hs
  · exact canonical_advanceCounter hs
  · exact canonical_ite (canonical_warmResetPackage hs) hs
  · exact canonical_ite (canonical_spiStart hs) hs
  · exact canonical_ite (canonical_classWritten hs) (canonical_ite (canonical_updateGuar (canonical_pacedWrite hs)) (canonical_ite
      (canonical_updateGuar hs) hs))

theorem canonical_regWrite {d : RegDesc} {blk off raw lanes : Nat} (hs : Canonical s) : Canonical (regWrite s h d blk off raw lanes) := by
  unfold regWrite
  exact canonical_ite (canonical_errWr hs) (canonical_ite (canonical_errWr hs) (canonical_writeEffect (canonical_setReg hs)))

theorem canonical_busWrite {mid blk off : Nat} {bs : List Byte} {_core : Option Nat} (hs : Canonical s) :
    Canonical (busWrite s h mid blk off bs _core) := by
  unfold busWrite
  refine canonical_ite (canonical_errWr hs) ?_
  refine canonical_ite hs ?_
  dsimp only
  split
  · exact hs
  · exact canonical_latchDrop hs
  · refine canonical_ite (canonical_blkstatWrite hs) ?_
    refine canonical_ite (canonical_ite hs (canonical_uartQueue hs)) ?_
    split
    · exact canonical_ite hs (canonical_errWr hs)
    · exact canonical_regWrite hs

theorem canonical_physWrite {mid phys : Nat} {bs : List Byte} {tag cached : Bool} (hs : Canonical s) :
    Canonical (physWrite s k mid phys bs tag cached) := by
  unfold physWrite
  dsimp only
  split
  · exact canonical_memPutCap hs
  · exact canonical_memPutCap hs
  · exact canonical_ite (canonical_memPutCap (canonical_seamMerge hs)) (canonical_memWrite (canonical_seamMerge hs))
  · exact canonical_hostWrite hs
  · exact canonical_busWrite hs
  · exact hs
  · exact hs

theorem canonical_performEffect {e : Effect} (hs : Canonical s) : Canonical (performEffect s k e) := by
  unfold performEffect
  refine canonical_ite ?_ (canonical_physWrite hs)
  refine canonical_foldl (fun _ _ hs => ?_) hs
  split
  · exact canonical_hostWrite hs
  · exact hs

theorem canonical_releaseOne {e : Effect} (hs : Canonical s) : Canonical (releaseOne k s e) := by
  unfold releaseOne
  split
  · exact canonical_queueEffect hs
  · exact canonical_handPost hs
  · exact canonical_handPost hs
  · exact canonical_performEffect hs
  · exact canonical_ite (canonical_record (canonical_incFld hs)) (canonical_performEffect hs)
  · exact canonical_ite (canonical_record (canonical_incFld hs)) (canonical_performEffect hs)

theorem canonical_handEffect {e : Effect} (hs : Canonical s) : Canonical (handEffect s k e).2 := by
  unfold handEffect
  refine canonical_ite_of Prod.snd (canonical_snd hs) ?_
  split
  · exact canonical_snd (canonical_queueEffect hs)
  · exact canonical_ite_of Prod.snd (canonical_snd hs) (canonical_snd (canonical_handPost hs))
  · exact canonical_ite_of Prod.snd (canonical_snd hs) (canonical_snd (canonical_handPost hs))
  · split
    · exact canonical_snd (canonical_performEffect hs)
    · exact canonical_snd (canonical_noteHeld hs)
    · exact canonical_snd (canonical_noteFenced hs)
    · exact canonical_snd (canonical_noteRefusedEffect (canonical_noteRefusal hs))
  · split
    · exact canonical_snd (canonical_performEffect hs)
    · exact canonical_snd (canonical_noteHeld hs)
    · exact canonical_snd (canonical_noteFenced hs)
    · exact canonical_snd (canonical_noteRefusedEffect (canonical_noteRefusal hs))
  · split
    · exact canonical_snd (canonical_performEffect hs)
    · exact canonical_snd (canonical_noteHeld hs)
    · exact canonical_snd (canonical_noteFenced hs)
    · exact canonical_snd (canonical_noteRefusedEffect (canonical_noteRefusal hs))

theorem canonical_setCore {c : Core} (hs : Canonical s) : Canonical (State.setCore s k c) := by
  unfold State.setCore
  exact canonical_setCoreN hs

theorem canonical_drainHanded : ∀ {n : Nat} {s : State}, Canonical s → Canonical (drainHanded k n s)
  | 0, _, hs => hs
  | n + 1, s, hs => by
    unfold drainHanded
    split
    · exact hs
    · split
      next heq => exact canonical_setCore (canonical_of_eq Prod.snd heq (canonical_handEffect (canonical_setCore hs)))
      next heq => exact canonical_drainHanded (canonical_of_eq Prod.snd heq (canonical_handEffect (canonical_setCore hs)))

theorem canonical_drainCore (hs : Canonical s) : Canonical (drainCore k s) := by
  unfold drainCore
  exact canonical_drainHanded hs

theorem canonical_drainOne (hs : Canonical s) : Canonical (drainOne h s n) := by
  unfold drainOne
  exact canonical_ite hs (canonical_ite (canonical_foldl (fun _ _ hs => canonical_releaseOne hs) (canonical_setCoreN hs))
    (canonical_drainCore hs))

theorem canonical_drainCores (hs : Canonical s) : Canonical (drainCores h s) := by
  unfold drainCores
  exact canonical_foldl (fun _ _ hs => canonical_drainOne hs) hs

theorem canonical_raiseSignals (hs : Canonical s) : Canonical (raiseSignals h s) := by
  unfold raiseSignals
  exact canonical_ite hs (canonical_foldl (fun _ _ hs => canonical_fmnEvent hs) (canonical_upd hs))

theorem canonical_postHeld {m addr : Nat} {bs : List Byte} {v : Verdict} (hs : Canonical s) : Canonical (postHeld s h m addr bs v) := by
  unfold postHeld
  split
  · exact canonical_upd hs
  · exact hs

theorem canonical_putOne {p : PutPart} (hs : Canonical s) : Canonical (putOne k s p) := by
  unfold putOne
  refine canonical_ite ?_ ?_
  · split
    · refine canonical_ite hs ?_
      dsimp only
      split
      · exact canonical_ite (canonical_setCore hs) (canonical_ite (canonical_setCore hs) (canonical_handPost (canonical_setCore hs)))
      · exact canonical_setCore hs
    · exact hs
  · refine canonical_ite ?_ (canonical_ite hs (canonical_physWrite hs))
    split
    · exact canonical_setCore hs
    · exact canonical_physWrite (canonical_setCore hs)

theorem canonical_completePart {p : PutPart} (hs : Canonical s) : Canonical (completePart k s p) := by
  unfold completePart
  refine canonical_ite (canonical_noteFenced hs) ?_
  refine canonical_ite ?_ (canonical_putOne hs)
  split
  · exact canonical_queueEffect (canonical_setCore hs)
  · exact hs

theorem canonical_completeLong {i : Nat} (hs : Canonical s) : Canonical (completeLong k i s) := by
  unfold completeLong
  dsimp only
  split
  · exact hs
  · split
    · exact canonical_setCore hs
    · split
      · exact canonical_setCore hs
      · exact canonical_setCore hs
      · exact canonical_setCore hs
      · exact canonical_foldl (fun _ _ hs76 => canonical_completePart hs76) (canonical_setCore hs)

theorem canonical_completeAllLong (hs : Canonical s) : Canonical (completeAllLong k s) := by
  unfold completeAllLong
  exact canonical_foldl (fun _ _ hs => canonical_completeLong hs) hs

theorem canonical_undoEntry {e : JEntry} (hs : Canonical s) : Canonical (undoEntry s e) := by
  unfold undoEntry
  exact canonical_updMem (canonical_ite (canonical_fillLines hs) hs) fun _ hm => wf_writeCells hm

theorem canonical_undoStep (hs : Canonical s) : Canonical (undoStep k s) := by
  unfold undoStep
  extract_lets _ t1
  have ht3 : Canonical t1 := canonical_foldl (fun _ _ hs2 => canonical_undoEntry hs2) hs
  exact canonical_setCore ht3

theorem canonical_stopThread (hs : Canonical s) : Canonical (stopThread k s) := by
  unfold stopThread
  extract_lets _ _ _ t5
  have ht11 : Canonical t5 := by
    unfold t5
    split
    · exact canonical_becomeAborted (canonical_record (canonical_undoStep hs))
    · exact canonical_record (canonical_undoStep hs)
  exact canonical_setCore ht11

theorem canonical_enterM {vec : Nat} {cause : Word} {rpcc : TCap} (hs : Canonical s) : Canonical (enterM k vec cause rpcc s) := by
  unfold enterM
  exact canonical_ite (canonical_stopThread hs) (canonical_setCore hs)

theorem canonical_overflowM {rpcc : TCap} (hs : Canonical s) : Canonical (overflowM k rpcc s) := by
  unfold overflowM
  exact canonical_enterM (canonical_takeFree hs)

theorem canonical_commitEffects (hs : Canonical s) : Canonical (commitEffects k s) := by
  unfold commitEffects
  exact canonical_setCore hs

theorem canonical_releaseEffects (hs : Canonical s) : Canonical (releaseEffects k s) := by
  unfold releaseEffects
  exact canonical_drainCore (canonical_commitEffects hs)

theorem canonical_convertStep (hs : Canonical s) : Canonical (convertStep k s) := by
  unfold convertStep
  exact canonical_setCore (canonical_releaseEffects hs)

theorem canonical_reserveEntry {cause : Word} {rpcc : TCap} (hs : Canonical s) : Canonical (reserveEntry k cause rpcc s) := by
  unfold reserveEntry
  exact canonical_ite (canonical_overflowM hs) (canonical_setCore hs)

theorem keeps_memFault {α : Type} {vec origin detail addr : Nat} : Keeps (memFault (α := α) vec origin detail addr) := by
  unfold memFault
  exact .throw

theorem canonical_walkRead {mid a : Nat} (hs : Canonical s) : Canonical (walkRead s h mid a).2 := by
  unfold walkRead
  dsimp only
  split
  · split
    · exact canonical_ite_of Prod.snd (canonical_snd (canonical_memRead hs)) (canonical_snd (canonical_memRead hs))
    · exact canonical_snd (canonical_noteRefusal hs)
    · exact canonical_snd (canonical_noteFenced hs)
    · exact canonical_snd (canonical_noteHeld hs)
  · split
    · exact canonical_ite_of Prod.snd (canonical_snd (canonical_memRead hs)) (canonical_snd (canonical_memRead hs))
    · exact canonical_snd (canonical_noteRefusal hs)
    · exact canonical_snd (canonical_noteFenced hs)
    · exact canonical_snd (canonical_noteHeld hs)
  · exact canonical_snd (canonical_noteRefusal hs)
  · exact canonical_snd hs

theorem canonical_walkFrom {c : WalkCtx} {va : Nat} : ∀ {f level table : Nat} {ws : List WalkEntry} {s : State},
    Canonical s → Canonical (walkFrom c va f level table ws s).2.2
  | 0, _, _, _, _, hs => hs
  | f + 1, level, table, ws, s, hs => by
    have hread : Canonical (walkRead s c.half c.mid (table + 8 * ((va >>> walkShift level) % (if level = 4 then 128 else 512)))).2 :=
      canonical_walkRead hs
    unfold walkFrom
    dsimp only
    split
    · exact canonical_walkFrom hs
    · split
      next heq => exact canonical_snd_snd (canonical_snd (canonical_of_eq Prod.snd heq hread))
      next e t heq =>
        have ht : Canonical t := canonical_of_eq Prod.snd heq hread
        split
        · exact ht
        · split
          · split <;> exact ht
          · split
            · exact ht
            · exact canonical_walkFrom ht

theorem canonical_translateVia {mid root : Nat} {ctx : BitVec 16} {t : Tlb} {level va : Nat} {kind : AccKind} (hs : Canonical s) :
    Canonical (translateVia s h mid root ctx t level va kind).2.2 := by
  unfold translateVia
  dsimp only
  split
  · exact canonical_ite_of (Prod.snd ∘ Prod.snd) (canonical_snd_snd (canonical_snd hs)) (canonical_snd_snd (canonical_snd hs))
  · split
    next _ _ _ heq8 =>
      exact canonical_snd_snd (canonical_snd (canonical_takeFree (canonical_of_eq (Prod.snd ∘ Prod.snd) heq8 (canonical_walkFrom hs))))
    next _ _ _ _ heq13 =>
      refine canonical_ite_of (Prod.snd ∘ Prod.snd) ?_ ?_
      · exact canonical_snd_snd (canonical_snd (canonical_takeFree (canonical_of_eq (Prod.snd ∘ Prod.snd) heq13 (canonical_walkFrom hs))))
      · exact canonical_snd_snd (canonical_snd (canonical_takeFree (canonical_of_eq (Prod.snd ∘ Prod.snd) heq13 (canonical_walkFrom hs))))

theorem keeps_translate {level va : Nat} {kind : AccKind} {origin : Nat} : Keeps (translate k level va kind origin) := by
  unfold Machine.translate
  refine .ite (.guard keeps_memFault fun _ => .pure) ?_
  refine .bind keeps_getCore fun _ => ?_
  split
  · exact .ite .pure keeps_memFault
  · refine .get_bind fun _ hs11 => ?_
    refine .guard keeps_memFault fun _ => ?_
    dsimp only
    refine .bind (.set (canonical_translateVia hs11)) fun _ => ?_
    refine .bind keeps_modCore fun _ => ?_
    split
    · exact .pure
    · exact .ite keeps_memFault .throw

theorem keeps_boundaryFault {α : Type} {mid phys va origin detail : Nat} {overlap : Bool} :
    Keeps (boundaryFault (α := α) k mid phys va origin detail overlap) := by
  unfold boundaryFault
  refine .get_bind fun _ hs => ?_
  refine .bind ?_ (fun _ => keeps_memFault)
  refine .set ?_
  split
  · exact canonical_errWr (canonical_noteRefusal hs)
  · exact canonical_noteRefusal hs

theorem keeps_boundary {mid : Nat} {kind : AccKind} {phys va origin : Nat} : Keeps (boundary k mid kind phys n va origin) := by
  unfold boundary
  refine .get_bind fun _ hs => ?_
  split
  · exact .pure
  · exact .bind (.set (canonical_noteFenced hs)) fun _ => .throw
  · exact .bind (.set (canonical_noteHeld hs)) fun _ => .throw
  · exact keeps_boundaryFault

theorem keeps_misaligned {α : Type} {mid va phys origin : Nat} : Keeps (misaligned (α := α) k mid va phys origin) := by
  unfold misaligned
  refine .get_bind fun _ hs => ?_
  split
  · exact .ite (.bind (.set (canonical_noteFenced hs)) fun _ => .bind .throw fun _ => keeps_boundaryFault) keeps_boundaryFault
  · exact keeps_memFault

theorem keeps_resolvePart {level : Nat} {x : AccReq} {p : Nat × Nat} : Keeps (resolvePart k level x p) := by
  unfold resolvePart
  split
  exact .guard keeps_memFault fun _ => .bind keeps_translate fun _ => .bind keeps_getCore fun _ => .guard keeps_memFault fun _ =>
    .get_bind fun _ _ => .guard keeps_memFault fun _ => .guard keeps_misaligned fun _ => .bind keeps_boundary fun _ => .pure

theorem keeps_resolveRemote {level : Nat} {x : AccReq} {p : Nat × Nat} : Keeps (resolveRemote k level x p) := by
  unfold resolveRemote
  split
  · refine .guard keeps_memFault fun _ => ?_
    refine .guard keeps_memFault fun _ => ?_
    refine .get_bind fun _ hs3 => ?_
    refine .ite ?_ ?_
    · refine .bind (.set (canonical_noteFenced hs3)) fun _ => ?_
      refine .bind .throw fun _ => ?_
      dsimp only
      exact .guard keeps_memFault fun _ => .guard keeps_memFault fun _ => .ite (.bind (.set (canonical_noteRefusal hs3)) fun _ =>
        keeps_memFault) .pure
    · dsimp only
      exact .guard keeps_memFault fun _ => .guard keeps_memFault fun _ => .ite (.bind (.set (canonical_noteRefusal hs3)) fun _ =>
        keeps_memFault) .pure

theorem keeps_resolve {cap : TCap} {ea : Int} {kind : AccKind} {capWidth : Bool} {origin : Nat} {stored : TCap} :
    Keeps (resolve k cap ea n kind capWidth origin stored) := by
  unfold resolve
  refine .bind keeps_getCore fun _ => ?_
  refine .guard keeps_memFault fun _ => ?_
  refine .guard keeps_memFault fun _ => ?_
  exact .guard keeps_memFault fun _ => .guard keeps_memFault fun _ => .guard keeps_memFault fun _ => .guard keeps_modCore fun _ => .ite
    (.mapM fun _ => keeps_resolvePart) (.bind (.mapM fun _ => keeps_resolveRemote) fun _ => .pure)

theorem keeps_spillPart {ea : Int} {c : TCap} {origin : Nat} : Keeps (spillPart k ea c origin) := by
  unfold spillPart
  refine .bind keeps_getCore fun _ => ?_
  refine .guard keeps_memFault fun _ => ?_
  refine .bind keeps_resolve fun _ => ?_
  split
  · exact .pure
  · exact keeps_memFault

end Sys2Proof.Proofs
end

section
/-! The frame of an instruction keeps the canonical form: the tick of the clock, the fetch, what each instruction does before and after its
row, and how operands and contexts are read. -/

namespace Sys2Proof.Proofs

open Sys2Proof Sys2Proof.Machine

-- one theorem after another: in parallel their stacks take the memory that a check of the whole text has
set_option Elab.async false

variable {s t : State} {h : HalfId} {k : CoreId} {n : Nat}

theorem keeps_paceTicks : Keeps (paceTicks k n) := by
  unfold paceTicks
  exact .get_bind fun _ _ => .ite (.guard .throw fun _ => keeps_modCore) .pure

theorem keeps_paceStack {ps : List Machine.Part} : Keeps (paceStack k ps) := by
  unfold paceStack
  exact .get_bind fun _ _ => keeps_paceTicks

theorem keeps_journalFull {α : Type} {kind addr : Nat} : Keeps (journalFull (α := α) kind addr) := by
  unfold journalFull
  exact .throw

theorem keeps_checkRoom {ps : List PutPart} : Keeps (checkRoom k ps) := by
  unfold checkRoom
  refine .get_bind fun _ _ => ?_
  refine .ite ?_ .pure
  refine .bind ?_ (fun _ => .pure)
  refine .forIn fun _ _ => ?_
  refine .guard keeps_journalFull fun _ => ?_
  split
  · exact .pure
  · exact .guard keeps_journalFull fun _ => .pure

theorem keeps_awaitWrite {p : LongDest → Bool} : Keeps (awaitWrite k p) := by
  unfold awaitWrite
  refine .bind keeps_getCore fun _ => ?_
  split
  · exact .throw
  · exact .pure

theorem keeps_awaitSide {side : Bool} : Keeps (awaitSide k side) := by
  unfold awaitSide
  exact .ite keeps_awaitWrite .pure

theorem keeps_noteMarks {ps : List Machine.Part} : Keeps (noteMarks k ps) := by
  unfold noteMarks
  exact keeps_modCore

theorem canonical_reread {mid : Nat} {x : TlbSlot} {va : Nat} (hs : Canonical s) : Canonical (reread s h mid x va).2 := by
  unfold reread
  extract_lets t
  have ht1 : Canonical (Prod.snd t) := canonical_via Prod.snd (canonical_walkRead hs) rfl
  exact canonical_snd ht1

theorem keeps_rereadLeaf {m : Nat × TlbSlot × Bool} : Keeps (rereadLeaf k m) := by
  unfold rereadLeaf
  refine .get_bind fun _ hs => ?_
  extract_lets t1
  have ht2 : Canonical (Prod.snd t1) := canonical_via Prod.snd (canonical_reread hs) rfl
  refine .bind (.set ht2) fun _ => ?_
  split
  · exact .pure
  · exact .ite .throw .throw

theorem keeps_awaitOverlap {node va : Nat} : Keeps (awaitOverlap k node va n) := by
  unfold awaitOverlap
  exact .get_bind fun _ _ => .ite .throw .pure

theorem keeps_remoteCall {p : Packet} {va : Nat} : Keeps (remoteCall k p va) := by
  unfold remoteCall
  refine .bind keeps_getCore fun _ => ?_
  split
  · exact .ite .pure (.ite keeps_memFault (.ite (.bind (.modify fun _ hs3 => canonical_record hs3) fun _ => keeps_memFault) (.ite
      keeps_memFault keeps_memFault)))
  · refine .get_bind fun _ hs6 => ?_
    refine .ite .throw ?_
    split
    next _ _ _ heq10 =>
      dsimp only
      split
      next _ _ heq19 =>
        exact .bind (.set (canonical_of_eq Prod.snd heq19 (canonical_sendPacket (canonical_of_eq Prod.snd heq10 (canonical_takeTxn
          hs6))))) fun _ => keeps_memFault
      next _ _ heq22 =>
        exact .bind (.set (canonical_upd (canonical_of_eq Prod.snd heq22 (canonical_sendPacket (canonical_of_eq Prod.snd heq10
          (canonical_takeTxn hs6)))))) fun _ => .throw

theorem keeps_markLeaf {m : Nat × TlbSlot × Bool} : Keeps (markLeaf k m) := by
  unfold markLeaf
  exact .bind keeps_rereadLeaf fun _ => .get_bind fun _ hs => .bind (.set (canonical_unitWrite hs)) fun _ => .guard .throw fun _ =>
    keeps_modCore

theorem keeps_flushMarks : Keeps (flushMarks k) := by
  unfold flushMarks
  exact .bind keeps_getCore fun _ => .bind (.forIn fun _ _ => .bind keeps_markLeaf fun _ => .pure) fun _ => keeps_modCore

theorem keeps_putUnpaced {ps : List PutPart} : Keeps (putUnpaced k ps) := by
  unfold putUnpaced
  refine .bind keeps_checkRoom fun _ => ?_
  refine .bind ?_ fun _ => ?_
  · exact .forIn fun _ _ => .bind keeps_awaitSide fun _ => .get_bind fun _ _ => .get_bind fun _ _ => .bind keeps_awaitWrite fun _ => .pure
  · refine .bind keeps_noteMarks fun _ => ?_
    refine .bind keeps_getCore fun _ => ?_
    refine .bind (.forIn fun _ _ => .bind keeps_rereadLeaf fun _ => .pure) fun _ => ?_
    refine .bind ?_ fun _ => ?_
    · exact .forIn fun _ _ => .get_bind fun _ _ => .ite (.bind keeps_awaitOverlap fun _ => .bind keeps_remoteCall fun _ => .pure) .pure
    · exact .bind keeps_flushMarks fun _ => .bind (.forIn fun _ _ => .bind (.modify fun _ hs3 => canonical_setCore hs3) fun _ => .bind
        (.modify fun _ hs4 => canonical_putOne hs4) fun _ => .pure) fun _ => .pure

theorem keeps_spillOldest : Keeps (spillOldest k) := by
  unfold spillOldest
  refine .bind keeps_getCore fun _ => ?_
  split
  · exact .pure
  · refine .bind ?_ (fun _ => .bind keeps_modCore fun _ => .bind keeps_paceStack fun _ => keeps_putUnpaced)
    refine .tryCatch (.bind keeps_spillPart fun _ => .bind keeps_spillPart fun _ => .pure) fun _ => ?_
    split <;> exact .throw

theorem keeps_pushFrame {f : RFrame} : Keeps (pushFrame k f) := by
  unfold pushFrame
  exact .bind keeps_getCore fun _ => .guard .throw fun _ => .guard keeps_spillOldest fun _ => keeps_modCore

theorem canonical_dropSlot {x : TlbSlot} (hs : Canonical s) : Canonical (dropSlot k x s) := by
  unfold dropSlot
  exact canonical_setCore hs

theorem canonical_enterS : ∀ {n vec : Nat} {cause : Word} {rpcc : TCap} {s : State},
    Canonical s → Canonical (enterS k n vec cause rpcc s)
  | 0, _, _, _, _, hs => hs
  | n + 1, vec, cause, rpcc, s, hs => by
    unfold enterS
    dsimp only
    split
    next heq =>
      have ht := Keeps.of_ok keeps_pushFrame (canonical_setCore hs) heq
      exact canonical_setCore (canonical_ite (canonical_convertStep ht) ht)
    · exact canonical_enterS (canonical_dropSlot hs)
    next heq => exact canonical_overflowM (canonical_setCore (Keeps.of_error keeps_pushFrame (canonical_setCore hs) heq))
    next heq => exact canonical_reserveEntry (canonical_setCore (Keeps.of_error keeps_pushFrame (canonical_setCore hs) heq))
    next heq => exact canonical_enterS (canonical_setCore (Keeps.of_error keeps_pushFrame (canonical_setCore hs) heq))
    · exact canonical_keepHolds hs

theorem canonical_enterVector {vec : Nat} {cause : Word} {rpcc : TCap} (hs : Canonical s) :
    Canonical (enterVector k vec cause rpcc s) := by
  unfold enterVector
  exact canonical_ite (canonical_overflowM hs) (canonical_ite (canonical_enterM (canonical_ite (canonical_convertStep hs) hs))
    (canonical_ite (canonical_reserveEntry hs) (canonical_enterS hs)))

theorem canonical_takeTrap {vec : Nat} {cause : Word} {rpcc : TCap} (hs : Canonical s) : Canonical (takeTrap k vec cause rpcc s) := by
  unfold takeTrap
  exact canonical_ite (canonical_enterVector (canonical_completeAllLong hs)) (canonical_enterVector (canonical_completeAllLong hs))

theorem canonical_setupFault {m addr detail : Nat} {overlap : Bool} (hs : Canonical s) :
    Canonical (setupFault s h m addr detail overlap) := by
  unfold setupFault
  dsimp only
  split
  · exact canonical_takeTrap (canonical_unitRefused hs)
  · exact canonical_unitRefused hs

theorem canonical_setupRefused {m addr : Nat} {v : Verdict} (hs : Canonical s) : Canonical (setupRefused s h m addr v) := by
  unfold setupRefused
  split
  · exact canonical_noteFenced hs
  · exact canonical_noteHeld hs
  · exact canonical_setupFault hs
  · exact hs

theorem canonical_setupWrite {m addr : Nat} {bs : List Byte} (hs : Canonical s) : Canonical (setupWrite s h m addr bs) := by
  unfold setupWrite
  refine canonical_ite hs ?_
  split
  · exact canonical_busWrite hs
  · exact canonical_postHeld (canonical_setupRefused hs)

theorem canonical_retryPosted {p : Nat × Nat × List Byte} (hs : Canonical s) : Canonical (retryPosted h s p) := by
  unfold retryPosted
  refine canonical_ite (canonical_setupWrite hs) ?_
  split
  · exact canonical_postHeld (canonical_noteHeld hs)
  · exact canonical_unitWrite hs

theorem canonical_pumpPosted (hs : Canonical s) : Canonical (pumpPosted h s) := by
  unfold pumpPosted
  exact canonical_raiseSignals (canonical_foldl (fun _ _ hs => canonical_retryPosted hs) (canonical_upd hs))

theorem canonical_holderRead (hs : Canonical s) : Canonical (holderRead h s) := by
  unfold holderRead
  exact canonical_ite (canonical_demote hs) hs

theorem canonical_halfTick (hs : Canonical s) : Canonical (halfTick h s) := by
  unfold halfTick
  exact canonical_evictAny (canonical_drainCores (canonical_pumpPosted (canonical_holderRead hs)))

theorem canonical_advanceTime : ∀ {n : Nat} {s : State}, Canonical s → Canonical (advanceTime n s)
  | 0, _, hs => hs
  | n + 1, s, hs => by
    unfold advanceTime
    exact canonical_advanceTime (canonical_of_parts hs rfl rfl rfl)

theorem canonical_countAwake (hs : Canonical s) : Canonical (countAwake n h s) := by
  unfold countAwake
  refine canonical_ite hs (canonical_updCores hs fun _ hc => ?_)
  dsimp only
  exact wf_change hc

theorem canonical_findListener {e : EthHdr} {dst : List Byte} {port proto : Nat} {named : Option Nat} (hs : Canonical s) :
    Canonical (findListener s h e dst port proto named).2 := by
  unfold findListener
  dsimp only
  split
  · exact canonical_snd (canonical_readListener hs)
  · refine canonical_foldl_snd (fun _ _ hs3 => ?_) (canonical_snd hs)
    split
    · exact hs3
    · exact canonical_ite_of Prod.snd (canonical_readListener hs3) (canonical_snd (canonical_unitRead hs3))

theorem canonical_lookup {f : LandFrame} {ip : IpInfo} (hs : Canonical s) : Canonical (lookup s h f ip).2 := by
  unfold lookup
  refine canonical_ite_of Prod.snd (canonical_snd hs) ?_
  extract_lets _ _ t
  have ht1 : Canonical (Prod.snd t) := canonical_via Prod.snd (canonical_findListener hs) rfl
  dsimp only
  split
  · exact canonical_snd ht1
  · split
    · exact canonical_snd ht1
    · split
      · exact canonical_snd ht1
      · refine canonical_ite_of Prod.snd ?_ (canonical_snd ht1)
        split <;> exact canonical_snd ht1

theorem canonical_noteIdle (hs : Canonical s) : Canonical (noteIdle s) := by
  unfold noteIdle
  exact canonical_of_parts hs rfl rfl rfl

theorem canonical_clockTick (hs : Canonical s) : Canonical (clockTick s) := by
  unfold clockTick
  exact canonical_noteIdle (canonical_updateGuar (canonical_updateGuar (canonical_countAwake (canonical_countAwake (canonical_advanceTime
    (canonical_of_parts hs rfl rfl rfl))))))

theorem canonical_tick (hs : Canonical s) : Canonical (tick s) := by
  unfold tick
  exact canonical_ite hs (canonical_halfTick (canonical_halfTick (canonical_ite hs (canonical_clockTick hs))))

theorem keeps_beforeInstr : Keeps (beforeInstr k) := by
  unfold beforeInstr
  refine .get_bind fun _ hs => ?_
  dsimp only
  split
  · exact .bind (.set (canonical_upd hs)) fun _ => keeps_memFault
  · exact .guard .throw fun _ => .guard .throw fun _ => keeps_modCore

theorem keeps_resolveCode {cap : TCap} {ea : Int} {kind : AccKind} {origin : Nat} : Keeps (resolveCode k cap ea n kind origin) := by
  unfold resolveCode
  refine .guard keeps_memFault fun _ => ?_
  refine .guard keeps_memFault fun _ => ?_
  refine .guard keeps_memFault fun _ => ?_
  refine .guard keeps_modCore fun _ => ?_
  refine .mapM fun _ => ?_
  split
  exact .guard keeps_memFault fun _ => .guard keeps_memFault fun _ => .bind keeps_getCore fun _ => .bind keeps_boundary fun _ => .pure

theorem keeps_fetchBytes {p : TCap} : ∀ {f i : Nat}, Keeps (fetch.bytes k p f i)
  | 0, _ => .pure
  | f + 1, i => by
    unfold fetch.bytes
    exact .bind keeps_resolveCode fun _ => keeps_fetchBytes

theorem keeps_fetch : Keeps (fetch k n) := by
  unfold fetch
  refine .bind keeps_getCore fun _ => ?_
  refine .bind keeps_fetchBytes fun _ => ?_
  refine .get_bind fun _ _ => ?_
  split
  · refine .bind ?_ (fun _ => .ite keeps_paceTicks .pure)
    refine .forIn fun _ _ => ?_
    split
    · refine .ite ?_ .pure
      refine .get_bind fun _ hs8 => ?_
      extract_lets t9
      have ht10 : Canonical (Prod.snd (Prod.snd t9)) := canonical_via (Prod.snd ∘ Prod.snd) (canonical_codeRead hs8) rfl
      exact .bind (.set ht10) fun _ => .guard keeps_memFault fun _ => .pure
  · exact .pure

theorem keeps_newSlot {opens : Bool} : Keeps (newSlot k opens) := by
  unfold newSlot
  exact keeps_modCore

theorem keeps_issueChecks {i : Inst} {deny : State → Core → Inst → Bool} : Keeps (issueChecks k i deny) := by
  unfold issueChecks
  exact .get_bind fun _ _ => .ite (.guard .throw fun _ => .guard .throw fun _ => .guard .throw fun _ => .ite .throw .pure) (.guard .throw
    fun _ => .ite .throw .pure)

theorem keeps_openHold {x : Ctx} : Keeps (openHold x) := by
  unfold openHold
  refine .get_bind fun _ _ => ?_
  dsimp only
  split
  · exact keeps_modCore
  · exact .pure

theorem keeps_awaitOlder : Keeps (awaitOlder k) := by
  unfold awaitOlder
  exact .bind keeps_awaitWrite fun _ => .get_bind fun _ _ => .ite .throw .pure

theorem keeps_awaitPrefix {i : Inst} : Keeps (awaitPrefix k i) := by
  unfold awaitPrefix
  exact .ite keeps_awaitOlder .pure

theorem keeps_retire {x : Ctx} {taken : Bool} : Keeps (retire x taken) := by
  unfold retire
  exact .bind keeps_flushMarks fun _ => .get_bind fun _ _ => .bind keeps_paceTicks fun _ => keeps_modCore

theorem keeps_instrEnd {x : Ctx} {f : Machine.Flow} : Keeps (instrEnd x f) := by
  unfold instrEnd
  split
  · exact .bind keeps_retire fun _ => .bind keeps_modCore fun _ => .pure
  · exact .bind keeps_retire fun _ => .bind keeps_modCore fun _ => .pure
  · exact .bind keeps_retire fun _ => .pure
  · exact .pure

theorem keeps_instrBody {info : OpInfo} {e : Enc} {deny : State → Core → Inst → Bool} {body : Ctx → Exec Machine.Flow} (hbody : ∀ (a :
    Ctx), Keeps (body a)) :
    Keeps (instrBody k info e deny body) := by
  unfold instrBody
  refine .bind keeps_beforeInstr fun _ => ?_
  refine .bind keeps_getCore fun _ => ?_
  split
  · exact .bind keeps_fetch fun _ => .throw
  · exact .bind keeps_newSlot fun _ => .bind keeps_fetch fun _ => .bind keeps_issueChecks fun _ => .bind keeps_getCore fun _ => .bind
      keeps_openHold fun _ => .bind keeps_awaitPrefix fun _ => .bind (hbody _) fun _ => keeps_instrEnd

theorem canonical_unitPost {mid a : Nat} {bs : List Byte} (hs : Canonical s) : Canonical (unitPost s h mid a bs) := by
  unfold unitPost
  refine canonical_foldl (fun _ _ hs => ?_) hs
  split
  · exact canonical_notePosted hs
  · exact canonical_unitWritePart hs

theorem canonical_traceEntry {target : Nat} (hs : Canonical s) : Canonical (traceEntry k target s) := by
  unfold traceEntry
  exact canonical_ite hs (canonical_ite (canonical_incFld (canonical_setFld (canonical_unitPost hs))) (canonical_setFld
    (canonical_unitPost hs)))

theorem canonical_traced (hs : Canonical s) : Canonical (traced k s) := by
  unfold traced
  exact canonical_traceEntry hs

theorem canonical_stopped {before after : State} (hafter : Canonical after) : Canonical (stopped k before after) := by
  unfold stopped
  exact canonical_setCore hafter

theorem canonical_stoppedBy {before : State} {vec : Nat} {cause : Word} (hbefore : Canonical before) (ht : Canonical t) :
    Canonical (stoppedBy k before vec cause t) := by
  unfold stoppedBy
  extract_lets _ _ t
  have ht1 : Canonical t := canonical_ite (canonical_setCore (canonical_ite hbefore (canonical_stopped ht))) (canonical_ite hbefore
    (canonical_stopped ht))
  exact canonical_traced (canonical_takeTrap (canonical_ite (canonical_setCore ht1) ht1))

theorem canonical_waiting {before after : State} (hafter : Canonical after) : Canonical (waiting k before after) := by
  unfold waiting
  exact canonical_setCore (canonical_stopped hafter)

theorem canonical_execFuel {info : OpInfo} {e : Enc} {deny : State → Core → Inst → Bool} {body : Ctx → Exec Flow}
    (hbody : ∀ x, Keeps (body x)) : ∀ {n : Nat} {s : State}, Canonical s → Canonical (execFuel k info e deny body n s)
  | 0, _, hs => hs
  | n + 1, s, hs => by
    have hi : Keeps (instrBody k info e deny body) := keeps_instrBody hbody
    unfold execFuel
    dsimp only
    split
    next heq =>
      have ht := hi.of_ok hs heq
      exact canonical_traced (canonical_ite (canonical_takeTrap ht) (canonical_takeTrap (canonical_stopped ht)))
    next heq => exact hi.of_ok hs heq
    next heq => exact canonical_traceEntry (hi.of_ok hs heq)
    next heq => exact canonical_ite (canonical_traced (hi.of_ok hs heq)) (hi.of_ok hs heq)
    next heq => exact canonical_stoppedBy hs (hi.of_error hs heq)
    · exact canonical_execFuel hbody (canonical_completeLong hs)
    · exact canonical_execFuel hbody (canonical_dropSlot hs)
    next heq => exact canonical_waiting (hi.of_error hs heq)

theorem canonical_runIllegal {d : DecErr} (hs : Canonical s) : Canonical (runIllegal k d s) := by
  have hm : Keeps (do beforeInstr k; fetch k d.seen; throw (.trap 9 (illegalCause d.off d.reason)) : Exec Unit) :=
    .bind keeps_beforeInstr fun _ => .bind keeps_fetch fun _ => .throw
  unfold runIllegal
  split
  next heq => exact hm.of_ok hs heq
  next heq => exact canonical_stoppedBy hs (hm.of_error hs heq)
  · exact canonical_completeLong hs
  · exact canonical_dropSlot hs
  next heq => exact canonical_stopped (hm.of_error hs heq)

theorem answers_runInstr {info : OpInfo} {e : Enc} {deny : State → Core → Inst → Bool} {body : Ctx → Exec Machine.Flow} (hbody : ∀ (a :
    Ctx), Keeps (body a)) :
    Answers (runInstr k info e deny body s) s := by
  unfold runInstr
  refine .ite (.next fun hs => hs) ?_
  refine .ite (.next fun hs1 => canonical_execFuel hbody (canonical_drainCore hs1)) ?_
  split
  · exact .next fun hs5 => canonical_runIllegal (canonical_drainCore hs5)
  · exact .next fun hs8 => hs8

theorem answers_execNop {e : Enc} : Answers (execNop k e s) s := by
  unfold execNop
  exact answers_runInstr fun _ => .pure

theorem keeps_reportImprecise : Keeps (reportImprecise k) := by
  unfold reportImprecise
  exact .bind keeps_getCore fun _ => .guard .throw fun _ => .ite .throw .pure

theorem keeps_spillAll : Keeps (spillAll k) := by
  unfold spillAll
  refine .bind keeps_getCore fun _ => ?_
  refine .bind ?_ (fun _ => .bind keeps_modCore fun _ => .pure)
  refine .forIn fun _ _ => ?_
  refine .bind keeps_getCore fun _ => ?_
  refine .bind ?_ (fun _ => .bind keeps_modCore fun _ => .pure)
  refine .tryCatch (.bind keeps_spillPart fun _ => .bind keeps_spillPart fun _ => .pure) fun _ => ?_
  split <;> exact .throw

theorem canonical_deliverEvents {t : Nat} (hs : Canonical s) : Canonical (deliverEvents s k t) := by
  unfold deliverEvents
  extract_lets _ _ _ _ t
  have ht1 : Canonical t := canonical_setThread (canonical_ite hs (canonical_unitWrite hs))
  exact canonical_setCore ht1

theorem canonical_finishStep (hs : Canonical s) : Canonical (finishStep k s) := by
  unfold finishStep
  dsimp only
  split
  · exact canonical_setCore hs
  · refine canonical_ite (canonical_setCore (canonical_becomeAborted (canonical_upd hs))) ?_
    exact canonical_ite (canonical_ite (canonical_setCore (canonical_makeReady (canonical_upd hs))) (canonical_deliverEvents
      (canonical_upd hs))) (canonical_setCore (canonical_setThread (canonical_upd hs)))

theorem canonical_recordPutCap {a : Nat} {c : TCap} (hs : Canonical s) : Canonical (recordPutCap s h a c) := by
  unfold recordPutCap
  split
  · exact canonical_memPutCap hs
  · exact canonical_noteRefusal hs
  · exact canonical_noteFenced hs
  · exact canonical_noteHeld hs
  · exact hs

theorem canonical_writeRecordFields {t : Nat} {pcc : TCap} (hs : Canonical s) : Canonical (writeRecordFields s k t pcc) := by
  unfold writeRecordFields
  exact canonical_unitWrite (canonical_recordPutCap (canonical_recordPutCap (canonical_foldl (fun _ _ hs3 => canonical_recordPutCap hs3)
    (canonical_recordPutCap hs))))

theorem canonical_writeBackDecimal (hs : Canonical s) : Canonical (writeBackDecimal s k) := by
  unfold writeBackDecimal
  exact canonical_ite (canonical_unitWrite hs) hs

theorem canonical_commitPoint {next : TCap} (hs : Canonical s) : Canonical (commitPoint k next s) := by
  unfold commitPoint
  split
  · exact canonical_finishStep hs
  · extract_lets _ t5 _ t6 _ _ t7
    have ht8 : Canonical t5 := canonical_writeRecordFields (canonical_writeBackDecimal hs)
    have ht9 : Canonical t6 := canonical_refreshThread (canonical_unitWrite ht8)
    have ht10 : Canonical t7 := canonical_commitEffects (canonical_setThread ht9)
    exact canonical_drainCore (canonical_finishStep (canonical_setCore ht10))

theorem keeps_checkRecordEach : ∀ {ps : List (Nat × Nat)}, Keeps (checkRecord.each k ps)
  | [] => .pure
  | (a, n) :: ps => by
    unfold checkRecord.each
    refine .get_bind fun s hs => ?_
    split
    · exact keeps_checkRecordEach
    · exact .bind (.set (canonical_noteHeld hs)) fun _ => .throw
    · exact .bind (.set (canonical_noteFenced hs)) fun _ => .throw
    · exact .bind (.set (canonical_noteRefusal hs)) fun _ => keeps_memFault

theorem keeps_checkRecord {t : Nat} : Keeps (checkRecord k t) := by
  unfold checkRecord
  exact .bind keeps_getCore fun _ => .get_bind fun _ _ => keeps_checkRecordEach

theorem keeps_commitStep {x : Ctx} : Keeps (commitStep k x) := by
  unfold commitStep
  refine .bind keeps_reportImprecise fun _ => ?_
  refine .bind keeps_awaitOlder fun _ => ?_
  refine .bind keeps_spillAll fun _ => ?_
  refine .bind keeps_getCore fun _ => ?_
  dsimp only
  split
  · exact .bind keeps_checkRecord fun _ => .bind keeps_putUnpaced fun _ => .bind keeps_retire fun _ => .modify fun _ hs10 =>
      canonical_commitPoint hs10
  · exact .bind keeps_putUnpaced fun _ => .bind keeps_retire fun _ => .modify fun _ hs13 => canonical_commitPoint hs13

theorem answers_execWait {e : Enc} : Answers (execWait k e s) s := by
  unfold execWait
  exact answers_runInstr fun _ => .bind keeps_getCore fun _ => .guard .throw fun _ => .bind keeps_commitStep fun _ => .pure

theorem answers_execFence {e : Enc} : Answers (execFence k e s) s := by
  unfold execFence
  exact answers_runInstr fun _ => .bind keeps_awaitOlder fun _ => .pure

theorem answers_execFenceE {e : Enc} : Answers (execFenceE k e s) s := by
  unfold execFenceE
  exact answers_runInstr fun _ => .bind keeps_reportImprecise fun _ => .bind keeps_awaitOlder fun _ => .pure

theorem keeps_awaitDest {p : LongDest → Bool} : Keeps (awaitDest k p) := by
  unfold awaitDest
  refine .bind keeps_getCore fun _ => ?_
  split
  · exact .throw
  · exact .ite .throw .pure

theorem keeps_readX : Keeps (readX k n) := by
  unfold readX
  exact .bind keeps_awaitDest fun _ => .bind keeps_getCore fun _ => .pure

theorem keeps_readD : Keeps (readD k n) := by
  unfold readD
  exact .bind keeps_awaitDest fun _ => .bind keeps_getCore fun _ => .pure

theorem keeps_readC : Keeps (readC k n) := by
  unfold readC
  exact .bind keeps_getCore fun _ => .pure

theorem keeps_writeX {w v : Nat} : Keeps (writeX k n w v) := by
  unfold writeX
  exact .guard keeps_awaitWrite fun _ => keeps_modCore

theorem keeps_scaledIndex {sp : Spec} : Keeps (scaledIndex k sp) := by
  unfold scaledIndex
  exact .bind keeps_readX fun _ => .pure

theorem keeps_foreLoc {x : Ctx} {sp : Spec} {push : Bool} : Keeps (foreLoc x sp n push) := by
  unfold foreLoc
  refine .bind keeps_readC fun _ => ?_
  dsimp only
  split
  · exact .bind keeps_readX fun _ => .pure
  · exact .bind keeps_readX fun _ => .pure
  · exact .bind keeps_readX fun _ => .pure
  · exact .bind keeps_readX fun _ => .bind keeps_writeX fun _ => .pure
  · exact .bind keeps_readX fun _ => .bind keeps_writeX fun _ => .pure
  · exact .bind keeps_readX fun _ => .bind keeps_scaledIndex fun _ => .pure
  · exact .bind keeps_readX fun _ => .bind keeps_scaledIndex fun _ => .pure
  · exact .bind keeps_getCore fun _ => .pure
  · exact .bind keeps_readX fun _ => .ite (.bind keeps_writeX fun _ => .pure) (.bind keeps_writeX fun _ => .pure)

theorem keeps_writeC {v : TCap} : Keeps (writeC k n v) := by
  unfold writeC
  exact keeps_modCore

theorem keeps_nativeLoc {x : Ctx} {sp : Spec} {push : Bool} : Keeps (nativeLoc x sp n push) := by
  unfold nativeLoc
  refine .bind keeps_readC fun _ => ?_
  dsimp only
  split
  · exact .pure
  · exact .pure
  · exact .pure
  · exact .pure
  · exact .bind keeps_writeC fun _ => .pure
  · exact .bind keeps_writeC fun _ => .pure
  · exact .bind keeps_scaledIndex fun _ => .pure
  · exact .bind keeps_scaledIndex fun _ => .pure
  · exact .bind keeps_getCore fun _ => .pure
  · exact .bind keeps_getCore fun _ => .pure
  · exact .bind keeps_readC fun _ => .ite (.bind keeps_writeC fun _ => .pure) (.bind keeps_writeC fun _ => .pure)

theorem keeps_ctxLoc {x : Ctx} {i : Nat} {push : Bool} : Keeps (Ctx.loc x i push) := by
  unfold Ctx.loc
  split
  exact .ite keeps_foreLoc keeps_nativeLoc

theorem keeps_ctxCheck {x : Ctx} {l : Loc} {kind : AccKind} {capWidth : Bool} {origin : Nat} :
    Keeps (Ctx.check x l n kind capWidth origin) := by
  unfold Ctx.check
  exact .ite keeps_resolveCode keeps_resolve

theorem keeps_paceAccess {ps : List Machine.Part} : Keeps (paceAccess k ps) := by
  unfold paceAccess
  exact .get_bind fun _ _ => keeps_paceTicks

theorem keeps_loadRemote {cap : TCap} {capWidth : Bool} {p : Machine.Part} : Keeps (loadRemote k cap capWidth p) := by
  unfold loadRemote
  exact .bind keeps_awaitOverlap fun _ => .get_bind fun _ _ => .bind keeps_remoteCall fun _ => .ite (.guard (.modify fun _ hs1 =>
    canonical_incFld hs1) fun _ => .pure) .pure

theorem canonical_physRead {mid phys : Nat} {cap cached : Bool} (hs : Canonical s) :
    Canonical (physRead s k mid phys n cap cached).2.2.2 := by
  unfold physRead
  extract_lets _ t2
  have ht5 : ∀ (own : Bool) (a : ℕ), Canonical (Prod.snd (Prod.snd (Prod.snd (t2 own a)))) := by
    unfold t2
    intro _ _
    extract_lets t3
    have ht4 : Canonical (Prod.snd (Prod.snd (Prod.snd t3))) := canonical_via (Prod.snd ∘ Prod.snd ∘ Prod.snd) (canonical_homeBytes hs)
      rfl
    exact canonical_snd_snd_snd (canonical_snd_snd (canonical_snd ht4))
  dsimp only
  split
  · exact ht5 _ _
  · exact ht5 _ _
  · split
    · exact canonical_snd_snd_snd (canonical_snd_snd (canonical_snd hs))
    · exact canonical_snd_snd_snd (canonical_snd_snd (canonical_snd (canonical_codeRead hs)))
  · exact canonical_snd_snd_snd (canonical_snd_snd (canonical_snd (canonical_hostRead hs)))
  · exact canonical_snd_snd_snd (canonical_snd_snd (canonical_snd (canonical_busRead hs)))
  · exact canonical_snd_snd_snd (canonical_snd_snd (canonical_snd hs))

theorem keeps_loadPart {cap : TCap} {capWidth : Bool} {origin : Nat} {p : Machine.Part} : Keeps (loadPart k cap capWidth origin p) := by
  unfold loadPart
  refine .get_bind fun _ hs => ?_
  refine .bind keeps_awaitDest fun _ => ?_
  refine .bind keeps_awaitSide fun _ => ?_
  refine .ite keeps_loadRemote ?_
  refine .ite .pure ?_
  refine .guard keeps_journalFull fun _ => ?_
  split
  next _ _ _ _ _ heq6 =>
    refine .ite ?_ ?_
    · dsimp only
      refine .bind ?_ fun _ => ?_
      · exact .set (canonical_record (canonical_of_eq (Prod.snd ∘ Prod.snd ∘ Prod.snd) heq6 (canonical_physRead hs)))
      · exact .bind keeps_memFault fun _ => .bind (.set (canonical_of_eq (Prod.snd ∘ Prod.snd ∘ Prod.snd) heq6 (canonical_physRead hs)))
          fun _ => .guard keeps_modCore fun _ => .pure
    · exact .bind (.set (canonical_of_eq (Prod.snd ∘ Prod.snd ∘ Prod.snd) heq6 (canonical_physRead hs))) fun _ => .guard keeps_modCore fun
        _ => .pure

end Sys2Proof.Proofs
end

section
/-! Every instruction keeps the canonical form and answers a next state: its row's part keeps the form, and `answers_execX` is the command. -/

namespace Sys2Proof.Proofs

open Sys2Proof Sys2Proof.Machine

-- one theorem after another: in parallel their stacks take the memory that a check of the whole text has
set_option Elab.async false

variable {s t : State} {h : HalfId} {k : CoreId} {n : Nat}

theorem keeps_loadUnpaced {cap : TCap} {capWidth : Bool} {origin : Nat} {ps : List Machine.Part} :
    Keeps (loadUnpaced k cap capWidth origin ps) := by
  unfold loadUnpaced
  exact .bind (.mapM fun _ => keeps_loadPart) fun _ => .bind keeps_noteMarks fun _ => .pure

theorem keeps_loadParts {cap : TCap} {capWidth : Bool} {origin : Nat} {ps : List Machine.Part} :
    Keeps (loadParts k cap capWidth origin ps) := by
  unfold loadParts
  exact .bind keeps_paceAccess fun _ => keeps_loadUnpaced

theorem keeps_ctxLoad {x : Ctx} {i : Nat} : Keeps (Ctx.load x i) := by
  unfold Ctx.load
  exact .bind keeps_ctxLoc fun _ => .bind keeps_ctxCheck fun _ => .bind keeps_loadParts fun _ => .pure

theorem keeps_ctxSrc {x : Ctx} {i : Nat} : Keeps (Ctx.src x i) := by
  unfold Ctx.src
  split
  · dsimp only
    split
    · exact .bind keeps_readX fun _ => .pure
    · exact .bind keeps_readD fun _ => .pure
    · exact .pure
    · exact .pure
    · exact .bind keeps_ctxLoad fun _ => .pure

theorem answers_execSvc {e : Enc} : Answers (execSvc k e s) s := by
  unfold execSvc
  exact answers_runInstr fun _ => .bind keeps_ctxSrc fun _ => .pure

theorem answers_execMcall {e : Enc} : Answers (execMcall k e s) s := by
  unfold execMcall
  exact answers_runInstr fun _ => .bind keeps_ctxSrc fun _ => .pure

theorem keeps_underflow {α : Type} {cursor detail : Nat} : Keeps (underflow (α := α) cursor detail) := by
  unfold underflow
  exact .throw

theorem keeps_topFrame : Keeps (topFrame k) := by
  unfold topFrame
  refine .bind keeps_getCore fun _ => ?_
  split
  · exact .pure
  · refine .guard keeps_underflow fun _ => ?_
    refine .bind ?_ fun _ => ?_
    · refine .tryCatch ?_ fun _ => ?_
      · exact .guard keeps_memFault fun _ => .bind keeps_resolve fun _ => .bind keeps_resolve fun _ => .bind keeps_paceStack fun _ =>
          .bind keeps_loadUnpaced fun _ => .bind keeps_loadUnpaced fun _ => .pure
      · split
        · exact .ite .throw keeps_underflow
        · exact .throw
    · split
      exact .bind keeps_modCore fun _ => .pure

theorem keeps_dropFrame : Keeps (dropFrame k) := by
  unfold dropFrame
  exact keeps_modCore

theorem answers_execRet {e : Enc} : Answers (execRet k e s) s := by
  unfold execRet
  exact answers_runInstr fun _ => .bind keeps_getCore fun _ => .bind keeps_topFrame fun _ => .guard keeps_underflow fun _ => .bind
    keeps_dropFrame fun _ => .pure

theorem keeps_chainInto {f : RFrame} {i : Nat × Word} : Keeps (chainInto k f i) := by
  unfold chainInto
  exact .get_bind fun _ _ => keeps_modCore

theorem answers_execReti {e : Enc} : Answers (execReti k e s) s := by
  unfold execReti
  refine answers_runInstr fun _ => ?_
  refine .bind keeps_getCore fun _ => ?_
  refine .guard .throw fun _ => ?_
  refine .ite ?_ ?_
  · split
    · exact keeps_underflow
    · exact .guard .throw fun _ => .bind keeps_retire fun _ => .bind keeps_modCore fun _ => .pure
  · refine .bind keeps_topFrame fun _ => ?_
    refine .guard keeps_underflow fun _ => ?_
    refine .guard .throw fun _ => ?_
    refine .bind keeps_retire fun _ => ?_
    refine .bind keeps_getCore fun _ => ?_
    dsimp only
    split
    · exact .guard .throw fun _ => .bind keeps_chainInto fun _ => .pure
    · exact .bind keeps_dropFrame fun _ => .bind keeps_modCore fun _ => .pure

theorem answers_execBpt {e : Enc} : Answers (execBpt k e s) s := by
  unfold execBpt
  exact answers_runInstr fun _ => .pure

theorem keeps_ctxDst {x : Ctx} {i : Nat} : Keeps (Ctx.dst x i) := by
  unfold Ctx.dst
  split
  · split
    · exact .pure
    · exact .pure
    · exact .bind keeps_ctxLoc fun _ => .bind keeps_resolve fun _ => .pure

theorem keeps_putAll {pss : List (List PutPart)} : Keeps (putAll k pss) := by
  unfold putAll
  exact .bind (.forIn fun _ _ => .bind keeps_paceAccess fun _ => .pure) fun _ => keeps_putUnpaced

theorem keeps_writeD {v : Nat} : Keeps (writeD k n v) := by
  unfold writeD
  exact keeps_modCore

theorem keeps_ctxWriteReg {x : Ctx} {r : Dest × Nat × Nat} : Keeps (Ctx.writeReg x r) := by
  unfold Ctx.writeReg
  split
  · exact keeps_writeX
  · exact keeps_writeD
  · exact .pure

theorem keeps_ctxWrite {x : Ctx} {rs : List (Dest × Nat × Nat)} : Keeps (Ctx.write x rs) := by
  unfold Ctx.write
  exact .bind keeps_putAll fun _ => .bind (.forIn fun _ _ => .bind keeps_ctxWriteReg fun _ => .pure) fun _ => .pure

theorem keeps_ctxPut {x : Ctx} {i : Nat} {d : Dest} {v : Nat} : Keeps (Ctx.put x i d v) := by
  unfold Ctx.put
  exact keeps_ctxWrite

theorem keeps_setFlags {fs : List (Nat × Bool)} : Keeps (setFlags k fs) := by
  unfold setFlags
  exact keeps_modCore

theorem keeps_ctxResult {x : Ctx} {i : Nat} {d : Dest} {r : Res} : Keeps (Ctx.result x i d r) := by
  unfold Ctx.result
  exact .bind keeps_ctxPut fun _ => .bind keeps_setFlags fun _ => .pure

theorem keeps_unaryOp {f : Nat → Nat → Res} {x : Ctx} : Keeps (unaryOp f x) := by
  unfold unaryOp
  exact .bind keeps_ctxSrc fun _ => .bind keeps_ctxDst fun _ => keeps_ctxResult

theorem answers_execMov {e : Enc} : Answers (execMov k e s) s := by
  unfold execMov
  exact answers_runInstr fun _ => keeps_unaryOp

theorem answers_execMovz {e : Enc} : Answers (execMovz k e s) s := by
  unfold execMovz
  exact answers_runInstr fun _ => .bind keeps_ctxSrc fun _ => .bind keeps_ctxDst fun _ => keeps_ctxResult

theorem answers_execMovs {e : Enc} : Answers (execMovs k e s) s := by
  unfold execMovs
  exact answers_runInstr fun _ => .bind keeps_ctxSrc fun _ => .bind keeps_ctxDst fun _ => keeps_ctxResult

theorem answers_execClr {e : Enc} : Answers (execClr k e s) s := by
  unfold execClr
  exact answers_runInstr fun _ => .bind keeps_ctxDst fun _ => keeps_ctxResult

theorem keeps_ctxLocBoth {x : Ctx} {i : Nat} : Keeps (Ctx.locBoth x i) := by
  unfold Ctx.locBoth
  exact .ite (.ite (.bind keeps_readC fun _ => .bind keeps_readX fun _ => .pure) (.bind keeps_readC fun _ => .pure)) keeps_ctxLoc

theorem keeps_ctxBoth {x : Ctx} {i : Nat} : Keeps (Ctx.both x i) := by
  unfold Ctx.both
  split
  · dsimp only
    split
    · exact .bind keeps_readX fun _ => .pure
    · exact .bind keeps_ctxLocBoth fun _ => .bind keeps_resolve fun _ => .guard keeps_paceAccess fun _ => .bind keeps_loadUnpaced fun _ =>
        .bind keeps_resolve fun _ => .pure

theorem keeps_ctxAtomicRmw {x : Ctx} {i operand expected : Nat} {l : Loc} {f : Nat → Option Nat} {also : Nat → List (Dest × Nat × Nat)} :
    Keeps (Ctx.atomicRmw x i operand expected l f also) := by
  unfold Ctx.atomicRmw
  refine .bind keeps_resolve fun _ => ?_
  split
  · refine .bind keeps_paceAccess fun _ => ?_
    refine .get_bind fun _ _ => ?_
    refine .get_bind fun _ _ => ?_
    refine .bind keeps_awaitDest fun _ => ?_
    refine .bind ?_ fun _ => ?_
    · exact .ite (.bind keeps_getCore fun _ => .guard keeps_journalFull fun _ => .bind keeps_awaitOverlap fun _ => .bind keeps_paceAccess
        fun _ => .get_bind fun _ _ => .bind keeps_remoteCall fun _ => .pure) (.bind keeps_loadUnpaced fun _ => .pure)
    · exact .guard keeps_paceAccess fun _ => .bind keeps_putAll fun _ => .bind (.forIn fun _ _ => .bind keeps_ctxWriteReg fun _ => .pure)
        fun _ => .pure
  · exact keeps_memFault

theorem answers_execXchg {e : Enc} : Answers (execXchg k e s) s := by
  unfold execXchg
  refine answers_runInstr fun _ => ?_
  refine .ite ?_ ?_
  · refine .ite ?_ ?_
    · refine .bind keeps_ctxBoth fun _ => ?_
      split
      exact .bind keeps_ctxLocBoth fun _ => .bind keeps_ctxAtomicRmw fun _ => .pure
    · refine .bind keeps_ctxLocBoth fun _ => ?_
      refine .bind keeps_ctxBoth fun _ => ?_
      split
      exact .bind keeps_ctxAtomicRmw fun _ => .pure
  · exact .bind keeps_ctxBoth fun _ => .bind keeps_ctxBoth fun _ => .bind keeps_ctxWrite fun _ => .pure

theorem answers_execSwapb {e : Enc} : Answers (execSwapb k e s) s := by
  unfold execSwapb
  exact answers_runInstr fun _ => keeps_unaryOp

theorem keeps_binaryOp {f : Nat → Nat → Nat → Res} {x : Ctx} : Keeps (binaryOp f x) := by
  unfold binaryOp
  exact .ite (.bind keeps_ctxSrc fun _ => .bind keeps_ctxLoc fun _ => .bind keeps_ctxAtomicRmw fun _ => .bind keeps_setFlags fun _ =>
    .pure) (.bind keeps_ctxSrc fun _ => .bind keeps_ctxSrc fun _ => .bind keeps_ctxDst fun _ => keeps_ctxResult)

theorem answers_execAdd {e : Enc} : Answers (execAdd k e s) s := by
  unfold execAdd
  exact answers_runInstr fun _ => keeps_binaryOp

theorem keeps_readFlag {i : Nat} : Keeps (readFlag k i) := by
  unfold readFlag
  refine .bind keeps_getCore fun _ => ?_
  split
  · exact .throw
  · exact .pure

theorem answers_execAdc {e : Enc} : Answers (execAdc k e s) s := by
  unfold execAdc
  exact answers_runInstr fun _ => .bind keeps_readFlag fun _ => keeps_binaryOp

theorem answers_execSub {e : Enc} : Answers (execSub k e s) s := by
  unfold execSub
  exact answers_runInstr fun _ => keeps_binaryOp

theorem answers_execSbc {e : Enc} : Answers (execSbc k e s) s := by
  unfold execSbc
  exact answers_runInstr fun _ => .bind keeps_readFlag fun _ => keeps_binaryOp

theorem answers_execNeg {e : Enc} : Answers (execNeg k e s) s := by
  unfold execNeg
  exact answers_runInstr fun _ => keeps_unaryOp

theorem keeps_stepOp {f : Nat → Nat → Res} {x : Ctx} : Keeps (stepOp f x) := by
  unfold stepOp
  refine .ite ?_ ?_
  · exact .bind keeps_ctxLocBoth fun _ => .bind keeps_ctxAtomicRmw fun _ => .bind keeps_setFlags fun _ => .pure
  · refine .bind keeps_ctxBoth fun _ => ?_
    split
    exact keeps_ctxResult

theorem answers_execInc {e : Enc} : Answers (execInc k e s) s := by
  unfold execInc
  exact answers_runInstr fun _ => keeps_stepOp

theorem answers_execDec {e : Enc} : Answers (execDec k e s) s := by
  unfold execDec
  exact answers_runInstr fun _ => keeps_stepOp

theorem keeps_compareOp {f : Nat → Nat → Nat → Res} {x : Ctx} : Keeps (compareOp f x) := by
  unfold compareOp
  exact .bind keeps_ctxSrc fun _ => .bind keeps_ctxSrc fun _ => .bind keeps_setFlags fun _ => .pure

theorem answers_execCmp {e : Enc} : Answers (execCmp k e s) s := by
  unfold execCmp
  exact answers_runInstr fun _ => keeps_compareOp

theorem answers_execAnd {e : Enc} : Answers (execAnd k e s) s := by
  unfold execAnd
  exact answers_runInstr fun _ => keeps_binaryOp

theorem answers_execOr {e : Enc} : Answers (execOr k e s) s := by
  unfold execOr
  exact answers_runInstr fun _ => keeps_binaryOp

theorem answers_execXor {e : Enc} : Answers (execXor k e s) s := by
  unfold execXor
  exact answers_runInstr fun _ => keeps_binaryOp

theorem answers_execNot {e : Enc} : Answers (execNot k e s) s := by
  unfold execNot
  exact answers_runInstr fun _ => keeps_unaryOp

theorem answers_execTst {e : Enc} : Answers (execTst k e s) s := by
  unfold execTst
  exact answers_runInstr fun _ => keeps_compareOp

theorem answers_execShl {e : Enc} : Answers (execShl k e s) s := by
  unfold execShl
  exact answers_runInstr fun _ => keeps_binaryOp

theorem answers_execShr {e : Enc} : Answers (execShr k e s) s := by
  unfold execShr
  exact answers_runInstr fun _ => keeps_binaryOp

theorem answers_execSar {e : Enc} : Answers (execSar k e s) s := by
  unfold execSar
  exact answers_runInstr fun _ => keeps_binaryOp

theorem answers_execRol {e : Enc} : Answers (execRol k e s) s := by
  unfold execRol
  exact answers_runInstr fun _ => keeps_binaryOp

theorem answers_execRor {e : Enc} : Answers (execRor k e s) s := by
  unfold execRor
  exact answers_runInstr fun _ => keeps_binaryOp

theorem answers_execMul {e : Enc} : Answers (execMul k e s) s := by
  unfold execMul
  exact answers_runInstr fun _ => keeps_binaryOp

theorem answers_execMuluH {e : Enc} : Answers (execMuluH k e s) s := by
  unfold execMuluH
  exact answers_runInstr fun _ => keeps_binaryOp

theorem answers_execMulsH {e : Enc} : Answers (execMulsH k e s) s := by
  unfold execMulsH
  exact answers_runInstr fun _ => keeps_binaryOp

theorem keeps_ctxIssueLong {x : Ctx} {d : Option Dest} {v : Nat} {fl : List (Nat × Bool)} {raised : Nat} {fault : Option Nat} :
    Keeps (Ctx.issueLong x d n v fl raised fault) := by
  unfold Ctx.issueLong
  refine .bind keeps_getCore fun _ => ?_
  refine .guard .throw fun _ => ?_
  dsimp only
  split
  · exact .guard keeps_awaitWrite fun _ => keeps_modCore
  · refine .bind keeps_checkRoom fun _ => ?_
    exact .bind (.forIn fun _ _ => .get_bind fun _ _ => .get_bind fun _ _ => .bind keeps_awaitWrite fun _ => .pure) fun _ => .ite (.bind
      keeps_noteMarks fun _ => .get_bind fun _ _ => .guard keeps_modCore fun _ => keeps_modCore) keeps_modCore
  · exact keeps_modCore

theorem keeps_ctxFinishLong {x : Ctx} {d : Option Dest} {v : Nat} {fl : List (Nat × Bool)} {raised : Nat} {fault : Option (Nat × Word)} :
    Keeps (Ctx.finishLong x d n v fl raised fault) := by
  unfold Ctx.finishLong
  refine .get_bind fun _ _ => ?_
  refine .bind keeps_getCore fun _ => ?_
  refine .bind keeps_modCore fun _ => ?_
  refine .ite (.bind keeps_ctxIssueLong fun _ => .pure) ?_
  split
  · exact .throw
  · dsimp only
    split
    · exact .bind keeps_ctxWrite fun _ => .bind keeps_modCore fun _ => .pure
    · exact .bind keeps_modCore fun _ => .pure

theorem keeps_divideOp {f : Nat → Nat → Nat → Res} {x : Ctx} : Keeps (divideOp f x) := by
  unfold divideOp
  exact .bind keeps_ctxSrc fun _ => .bind keeps_ctxSrc fun _ => .bind keeps_ctxDst fun _ => .bind keeps_getCore fun _ =>
    keeps_ctxFinishLong

theorem answers_execDiv {e : Enc} : Answers (execDiv k e s) s := by
  unfold execDiv
  exact answers_runInstr fun _ => keeps_divideOp

theorem answers_execDivu {e : Enc} : Answers (execDivu k e s) s := by
  unfold execDivu
  exact answers_runInstr fun _ => keeps_divideOp

theorem answers_execRem {e : Enc} : Answers (execRem k e s) s := by
  unfold execRem
  exact answers_runInstr fun _ => keeps_divideOp

theorem answers_execRemu {e : Enc} : Answers (execRemu k e s) s := by
  unfold execRemu
  exact answers_runInstr fun _ => keeps_divideOp

theorem answers_execLongOperationComplete {i : Nat} : Answers (execLongOperationComplete k i s) s := by
  unfold execLongOperationComplete
  exact .next fun hs => canonical_completeLong hs

theorem answers_execDaa {e : Enc} : Answers (execDaa k e s) s := by
  unfold execDaa
  exact answers_runInstr fun _ => .bind keeps_readFlag fun _ => .bind keeps_readFlag fun _ => .bind keeps_readFlag fun _ => .bind
    keeps_ctxSrc fun _ => .bind keeps_ctxDst fun _ => keeps_ctxResult

theorem keeps_ctxPackedBytesOk {x : Ctx} {bs : List Byte} : Keeps (Ctx.packedBytesOk x bs) := by
  unfold Ctx.packedBytesOk
  exact .ite .pure .throw

theorem keeps_ctxEndPacked {x : Ctx} {long : Bool} {d : Option Dest} {v : Nat} {fl : List (Nat × Bool)} :
    Keeps (Ctx.endPacked x long d n v fl) := by
  unfold Ctx.endPacked
  refine .ite keeps_ctxFinishLong ?_
  dsimp only
  split
  · exact .bind keeps_ctxWrite fun _ => .bind keeps_setFlags fun _ => .pure
  · exact .bind keeps_setFlags fun _ => .pure

theorem keeps_packedArith {f : Int → Int → Int} {x : Ctx} : Keeps (packedArith f x) := by
  unfold packedArith
  refine .bind keeps_ctxLoad fun _ => ?_
  refine .bind keeps_ctxBoth fun _ => ?_
  split
  exact .bind keeps_ctxPackedBytesOk fun _ => .bind keeps_ctxPackedBytesOk fun _ => keeps_ctxEndPacked

theorem answers_execAddp {e : Enc} : Answers (execAddp k e s) s := by
  unfold execAddp
  exact answers_runInstr fun _ => keeps_packedArith

theorem answers_execSubp {e : Enc} : Answers (execSubp k e s) s := by
  unfold execSubp
  exact answers_runInstr fun _ => keeps_packedArith

theorem answers_execCmpp {e : Enc} : Answers (execCmpp k e s) s := by
  unfold execCmpp
  exact answers_runInstr fun _ => .bind keeps_ctxLoad fun _ => .bind keeps_ctxLoad fun _ => .bind keeps_ctxPackedBytesOk fun _ => .bind
    keeps_ctxPackedBytesOk fun _ => keeps_ctxEndPacked

theorem answers_execCvtpb {e : Enc} : Answers (execCvtpb k e s) s := by
  unfold execCvtpb
  exact answers_runInstr fun _ => .bind keeps_ctxLoad fun _ => .bind keeps_ctxDst fun _ => .bind keeps_ctxPackedBytesOk fun _ =>
    keeps_ctxEndPacked

theorem answers_execCvtbp {e : Enc} : Answers (execCvtbp k e s) s := by
  unfold execCvtbp
  exact answers_runInstr fun _ => .bind keeps_ctxSrc fun _ => .bind keeps_ctxDst fun _ => keeps_ctxEndPacked

theorem keeps_ctxFmode {x : Ctx} : Keeps (Ctx.fmode x) := by
  unfold Ctx.fmode
  exact .bind keeps_getCore fun _ => .pure

theorem keeps_ctxDecFault {x : Ctx} {raised : Nat} : Keeps (Ctx.decFault x raised) := by
  unfold Ctx.decFault
  exact .bind keeps_getCore fun _ => .pure

theorem keeps_ctxEndFloat {x : Ctx} {d : Dest} {v raised : Nat} : Keeps (Ctx.endFloat x d n v raised) := by
  unfold Ctx.endFloat
  exact .bind keeps_ctxDecFault fun _ => keeps_ctxFinishLong

theorem answers_execCvtpd {e : Enc} : Answers (execCvtpd k e s) s := by
  unfold execCvtpd
  exact answers_runInstr fun _ => .bind keeps_ctxLoad fun _ => .bind keeps_ctxDst fun _ => .bind keeps_ctxPackedBytesOk fun _ => .bind
    keeps_ctxFmode fun _ => keeps_ctxEndFloat

theorem keeps_ctxSrcDec {x : Ctx} {i : Nat} : Keeps (Ctx.srcDec x i) := by
  unfold Ctx.srcDec
  split
  exact .ite .pure (.bind keeps_ctxSrc fun _ => .pure)

theorem keeps_ctxPackedInvalid {x : Ctx} {d : Dest} : Keeps (Ctx.packedInvalid x d n) := by
  unfold Ctx.packedInvalid
  exact .bind keeps_ctxDecFault fun _ => keeps_ctxFinishLong

theorem answers_execCvtdp {e : Enc} : Answers (execCvtdp k e s) s := by
  unfold execCvtdp
  refine answers_runInstr fun _ => ?_
  refine .bind keeps_ctxSrcDec fun _ => ?_
  refine .bind keeps_ctxDst fun _ => ?_
  refine .bind keeps_ctxFmode fun _ => ?_
  split
  · exact .ite keeps_ctxPackedInvalid keeps_ctxEndFloat
  · exact keeps_ctxPackedInvalid

theorem keeps_readSW : Keeps (readSW k) := by
  unfold readSW
  refine .bind keeps_getCore fun _ => ?_
  split
  · exact .throw
  · exact .pure

theorem answers_execBcc {cc : BitVec 4} {wide : Bool} {e : Enc} : Answers (execBcc k cc wide e s) s := by
  unfold execBcc
  exact answers_runInstr fun _ => .ite .pure (.ite .pure (.bind keeps_readSW fun _ => .pure))

theorem answers_execBrl {e : Enc} : Answers (execBrl k e s) s := by
  unfold execBrl
  exact answers_runInstr fun _ => .pure

theorem keeps_ctxTargetCap {x : Ctx} : Keeps (Ctx.targetCap x) := by
  unfold Ctx.targetCap
  exact .bind keeps_readC fun _ => .guard keeps_memFault fun _ => .guard keeps_memFault fun _ => .guard keeps_memFault fun _ => .pure

theorem answers_execJmp {e : Enc} : Answers (execJmp k e s) s := by
  unfold execJmp
  exact answers_runInstr fun _ => .bind keeps_ctxTargetCap fun _ => .pure

theorem keeps_ctxPushCall {x : Ctx} : Keeps (Ctx.pushCall x) := by
  unfold Ctx.pushCall
  exact .bind keeps_readSW fun _ => .bind keeps_getCore fun _ => keeps_pushFrame

theorem answers_execCall {e : Enc} : Answers (execCall k e s) s := by
  unfold execCall
  exact answers_runInstr fun _ => .bind keeps_ctxTargetCap fun _ => .bind keeps_ctxPushCall fun _ => .pure

theorem answers_execJmpa {e : Enc} : Answers (execJmpa k e s) s := by
  unfold execJmpa
  exact answers_runInstr fun _ => .bind keeps_ctxSrc fun _ => .pure

theorem answers_execCalla {e : Enc} : Answers (execCalla k e s) s := by
  unfold execCalla
  exact answers_runInstr fun _ => .bind keeps_ctxSrc fun _ => .bind keeps_ctxPushCall fun _ => .pure

theorem answers_execCallr {e : Enc} : Answers (execCallr k e s) s := by
  unfold execCallr
  exact answers_runInstr fun _ => .bind keeps_ctxPushCall fun _ => .pure

theorem answers_execCallrl {e : Enc} : Answers (execCallrl k e s) s := by
  unfold execCallrl
  exact answers_runInstr fun _ => .bind keeps_ctxPushCall fun _ => .pure

theorem keeps_readDsr : Keeps (readDsr k) := by
  unfold readDsr
  refine .bind keeps_getCore fun _ => ?_
  split
  · exact .throw
  · exact .pure

theorem keeps_sysRead : Keeps (sysRead k n) := by
  unfold sysRead
  refine .get_bind fun _ _ => ?_
  dsimp only
  split
  · exact .pure
  · exact .pure
  · exact keeps_readDsr
  · exact .pure
  · exact .pure

theorem answers_execRdsr {e : Enc} : Answers (execRdsr k e s) s := by
  unfold execRdsr
  exact answers_runInstr fun _ => .bind keeps_sysRead fun _ => .bind keeps_ctxDst fun _ => .bind keeps_ctxPut fun _ => .pure

theorem answers_execWrsr {e : Enc} : Answers (execWrsr k e s) s := by
  unfold execWrsr
  refine answers_runInstr fun _ => ?_
  refine .ite ?_ ?_
  · refine .bind keeps_readDsr fun _ => ?_
    refine .bind keeps_ctxSrc fun _ => ?_
    refine .get_bind fun _ _ => ?_
    split
    · exact .bind keeps_modCore fun _ => .pure
    · exact .throw
  · refine .bind keeps_ctxSrc fun _ => ?_
    refine .get_bind fun _ _ => ?_
    split
    · exact .bind keeps_modCore fun _ => .pure
    · exact .throw

theorem keeps_needUnsealed {c : TCap} : Keeps (needUnsealed c) := by
  unfold needUnsealed
  exact .ite keeps_memFault .pure

theorem answers_execRdsc {e : Enc} : Answers (execRdsc k e s) s := by
  unfold execRdsc
  exact answers_runInstr fun _ => .bind keeps_getCore fun _ => .bind keeps_needUnsealed fun _ => .bind keeps_writeC fun _ => .pure

theorem answers_execWrsc {e : Enc} : Answers (execWrsc k e s) s := by
  unfold execWrsc
  exact answers_runInstr fun _ => .bind keeps_readC fun _ => .bind keeps_needUnsealed fun _ => .bind keeps_modCore fun _ => .pure

theorem answers_execRdsw {e : Enc} : Answers (execRdsw k e s) s := by
  unfold execRdsw
  exact answers_runInstr fun _ => .bind keeps_readSW fun _ => .bind keeps_ctxDst fun _ => .bind keeps_ctxPut fun _ => .pure

theorem answers_execWrsw {e : Enc} : Answers (execWrsw k e s) s := by
  unfold execWrsw
  exact answers_runInstr fun _ => .bind keeps_ctxSrc fun _ => .bind keeps_modCore fun _ => .pure

theorem answers_execEi {e : Enc} : Answers (execEi k e s) s := by
  unfold execEi
  exact answers_runInstr fun _ => .bind keeps_modCore fun _ => .pure

theorem answers_execDi {e : Enc} : Answers (execDi k e s) s := by
  unfold execDi
  exact answers_runInstr fun _ => .bind keeps_modCore fun _ => .pure

theorem answers_execCas {e : Enc} : Answers (execCas k e s) s := by
  unfold execCas
  exact answers_runInstr fun _ => .bind keeps_ctxLoc fun _ => .bind keeps_ctxSrc fun _ => .bind keeps_readX fun _ => .bind
    keeps_ctxAtomicRmw fun _ => .bind keeps_writeX fun _ => .bind keeps_setFlags fun _ => .pure

theorem keeps_ctxCap {x : Ctx} {i : Nat} : Keeps (Ctx.cap x i) := by
  unfold Ctx.cap
  exact keeps_readC

theorem keeps_ctxPutCap {x : Ctx} {i : Nat} {c : TCap} : Keeps (Ctx.putCap x i c) := by
  unfold Ctx.putCap
  exact .bind keeps_writeC fun _ => .pure

theorem answers_execCcopy {e : Enc} : Answers (execCcopy k e s) s := by
  unfold execCcopy
  exact answers_runInstr fun _ => .bind keeps_ctxCap fun _ => keeps_ctxPutCap

theorem keeps_capFault {α : Type} {vec operand : Nat} {c : TCap} : Keeps (capFault (α := α) vec operand c) := by
  unfold capFault
  exact keeps_memFault

theorem answers_execCstep {e : Enc} : Answers (execCstep k e s) s := by
  unfold execCstep
  exact answers_runInstr fun _ => .bind keeps_ctxCap fun _ => .bind keeps_ctxSrc fun _ => .guard keeps_capFault fun _ => keeps_ctxPutCap

theorem answers_execCplace {e : Enc} : Answers (execCplace k e s) s := by
  unfold execCplace
  exact answers_runInstr fun _ => .bind keeps_ctxCap fun _ => .bind keeps_ctxSrc fun _ => .guard keeps_capFault fun _ => keeps_ctxPutCap

theorem keeps_needPlain {operand : Nat} {c : TCap} : Keeps (needPlain operand c) := by
  unfold needPlain
  exact .guard keeps_capFault fun _ => .ite keeps_capFault .pure

theorem keeps_fitCap {exact : Bool} {x : Ctx} : Keeps (fitCap exact x) := by
  unfold fitCap
  refine .bind keeps_ctxCap fun _ => ?_
  refine .bind keeps_ctxSrc fun _ => ?_
  refine .bind keeps_needPlain fun _ => ?_
  split
  · exact keeps_capFault
  · exact .guard keeps_capFault fun _ => .guard keeps_capFault fun _ => keeps_ctxPutCap

theorem answers_execCfit {e : Enc} : Answers (execCfit k e s) s := by
  unfold execCfit
  exact answers_runInstr fun _ => keeps_fitCap

theorem answers_execCfitx {e : Enc} : Answers (execCfitx k e s) s := by
  unfold execCfitx
  exact answers_runInstr fun _ => keeps_fitCap

theorem answers_execCdrop {e : Enc} : Answers (execCdrop k e s) s := by
  unfold execCdrop
  exact answers_runInstr fun _ => .bind keeps_ctxCap fun _ => .bind keeps_ctxSrc fun _ => .guard keeps_capFault fun _ => keeps_ctxPutCap

theorem answers_execCmode {e : Enc} : Answers (execCmode k e s) s := by
  unfold execCmode
  exact answers_runInstr fun _ => .bind keeps_ctxCap fun _ => .bind keeps_ctxSrc fun _ => .bind keeps_needPlain fun _ => .guard
    keeps_capFault fun _ => keeps_ctxPutCap

theorem keeps_needAuthority {a : TCap} {perm : Nat} : Keeps (needAuthority a perm) := by
  unfold needAuthority
  exact .bind keeps_needPlain fun _ => .guard keeps_capFault fun _ => .ite keeps_capFault .pure

theorem answers_execCbrand {e : Enc} : Answers (execCbrand k e s) s := by
  unfold execCbrand
  exact answers_runInstr fun _ => .bind keeps_ctxCap fun _ => .bind keeps_ctxCap fun _ => .bind keeps_needPlain fun _ => .bind
    keeps_needAuthority fun _ => .guard keeps_capFault fun _ => .guard keeps_capFault fun _ => keeps_ctxPutCap

theorem answers_execCunbr {e : Enc} : Answers (execCunbr k e s) s := by
  unfold execCunbr
  refine answers_runInstr fun _ => ?_
  exact .bind keeps_ctxCap fun _ => .bind keeps_ctxCap fun _ => .guard keeps_capFault fun _ => .guard keeps_capFault fun _ => .bind
    keeps_needAuthority fun _ => .guard keeps_capFault fun _ => .guard keeps_capFault fun _ => keeps_ctxPutCap

theorem answers_execCsent {e : Enc} : Answers (execCsent k e s) s := by
  unfold execCsent
  exact answers_runInstr fun _ => .bind keeps_ctxCap fun _ => .bind keeps_needPlain fun _ => .guard keeps_capFault fun _ =>
    keeps_ctxPutCap

theorem answers_execCvoid {e : Enc} : Answers (execCvoid k e s) s := by
  unfold execCvoid
  exact answers_runInstr fun _ => .bind keeps_ctxCap fun _ => keeps_ctxPutCap

theorem answers_execCldc {e : Enc} : Answers (execCldc k e s) s := by
  unfold execCldc
  refine answers_runInstr fun _ => ?_
  refine .bind keeps_ctxLoc fun _ => ?_
  refine .bind keeps_resolve fun _ => ?_
  refine .bind keeps_loadParts fun _ => ?_
  split
  exact keeps_ctxPutCap

theorem answers_execCstc {e : Enc} : Answers (execCstc k e s) s := by
  unfold execCstc
  exact answers_runInstr fun _ => .bind keeps_ctxCap fun _ => .bind keeps_ctxLoc fun _ => .bind keeps_resolve fun _ => .bind keeps_putAll
    fun _ => .pure

theorem keeps_capRead {f : TCap → Nat} {x : Ctx} : Keeps (capRead f x) := by
  unfold capRead
  exact .bind keeps_ctxCap fun _ => .bind keeps_ctxDst fun _ => .bind keeps_ctxPut fun _ => .pure

theorem answers_execCrbase {e : Enc} : Answers (execCrbase k e s) s := by
  unfold execCrbase
  exact answers_runInstr fun _ => keeps_capRead

theorem answers_execCrtop {e : Enc} : Answers (execCrtop k e s) s := by
  unfold execCrtop
  exact answers_runInstr fun _ => keeps_capRead

theorem answers_execCrspan {e : Enc} : Answers (execCrspan k e s) s := by
  unfold execCrspan
  exact answers_runInstr fun _ => keeps_capRead

theorem answers_execCrperm {e : Enc} : Answers (execCrperm k e s) s := by
  unfold execCrperm
  exact answers_runInstr fun _ => keeps_capRead

theorem answers_execCrotype {e : Enc} : Answers (execCrotype k e s) s := by
  unfold execCrotype
  exact answers_runInstr fun _ => keeps_capRead

theorem answers_execCrtag {e : Enc} : Answers (execCrtag k e s) s := by
  unfold execCrtag
  exact answers_runInstr fun _ => keeps_capRead

theorem answers_execCrnode {e : Enc} : Answers (execCrnode k e s) s := by
  unfold execCrnode
  exact answers_runInstr fun _ => keeps_capRead

theorem answers_execCrepoch {e : Enc} : Answers (execCrepoch k e s) s := by
  unfold execCrepoch
  exact answers_runInstr fun _ => keeps_capRead

theorem keeps_decBinary {f : FFmt → FMode → FVal → FVal → FRes} {x : Ctx} : Keeps (decBinary f x) := by
  unfold decBinary
  exact .bind keeps_ctxSrcDec fun _ => .bind keeps_ctxSrcDec fun _ => .bind keeps_ctxDst fun _ => .bind keeps_ctxFmode fun _ =>
    keeps_ctxEndFloat

theorem answers_execDadd {e : Enc} : Answers (execDadd k e s) s := by
  unfold execDadd
  exact answers_runInstr fun _ => keeps_decBinary

theorem answers_execDsub {e : Enc} : Answers (execDsub k e s) s := by
  unfold execDsub
  exact answers_runInstr fun _ => keeps_decBinary

theorem answers_execDmul {e : Enc} : Answers (execDmul k e s) s := by
  unfold execDmul
  exact answers_runInstr fun _ => keeps_decBinary

theorem answers_execDdiv {e : Enc} : Answers (execDdiv k e s) s := by
  unfold execDdiv
  exact answers_runInstr fun _ => keeps_decBinary

theorem answers_execDcmp {e : Enc} : Answers (execDcmp k e s) s := by
  unfold execDcmp
  refine answers_runInstr fun _ => ?_
  refine .bind keeps_ctxSrcDec fun _ => ?_
  refine .bind keeps_ctxSrcDec fun _ => ?_
  refine .bind keeps_ctxDecFault fun _ => ?_
  split
  · exact .throw
  · exact .bind keeps_modCore fun _ => .pure

theorem answers_execDquant {e : Enc} : Answers (execDquant k e s) s := by
  unfold execDquant
  exact answers_runInstr fun _ => keeps_decBinary

theorem answers_execDrnd {e : Enc} : Answers (execDrnd k e s) s := by
  unfold execDrnd
  exact answers_runInstr fun _ => .bind keeps_ctxSrcDec fun _ => .bind keeps_ctxDst fun _ => .bind keeps_ctxFmode fun _ =>
    keeps_ctxEndFloat

theorem keeps_decSign {f : Bool → Bool} {x : Ctx} : Keeps (decSign f x) := by
  unfold decSign
  exact .bind keeps_ctxSrcDec fun _ => .bind keeps_ctxDst fun _ => .bind keeps_ctxPut fun _ => .pure

theorem answers_execDneg {e : Enc} : Answers (execDneg k e s) s := by
  unfold execDneg
  exact answers_runInstr fun _ => keeps_decSign

theorem answers_execDabs {e : Enc} : Answers (execDabs k e s) s := by
  unfold execDabs
  exact answers_runInstr fun _ => keeps_decSign

theorem answers_execDcvti {e : Enc} : Answers (execDcvti k e s) s := by
  unfold execDcvti
  refine answers_runInstr fun _ => ?_
  refine .bind keeps_ctxSrcDec fun _ => ?_
  refine .bind keeps_ctxDst fun _ => ?_
  refine .bind keeps_ctxFmode fun _ => ?_
  split
  exact keeps_ctxEndFloat

theorem answers_execDcvtf {e : Enc} : Answers (execDcvtf k e s) s := by
  unfold execDcvtf
  exact answers_runInstr fun _ => .bind keeps_ctxSrc fun _ => .bind keeps_ctxDst fun _ => .bind keeps_ctxFmode fun _ => keeps_ctxEndFloat

theorem answers_execDcvtw {e : Enc} : Answers (execDcvtw k e s) s := by
  unfold execDcvtw
  exact answers_runInstr fun _ => .bind keeps_ctxSrcDec fun _ => .bind keeps_ctxDst fun _ => .bind keeps_ctxFmode fun _ =>
    keeps_ctxEndFloat

theorem keeps_binBinary {f : FFmt → FMode → FVal → FVal → FRes} {x : Ctx} : Keeps (binBinary f x) := by
  unfold binBinary
  exact .bind keeps_ctxSrc fun _ => .bind keeps_ctxSrc fun _ => .bind keeps_ctxDst fun _ => .bind keeps_ctxFmode fun _ =>
    keeps_ctxEndFloat

theorem answers_execFadd {e : Enc} : Answers (execFadd k e s) s := by
  unfold execFadd
  exact answers_runInstr fun _ => keeps_binBinary

theorem answers_execFsub {e : Enc} : Answers (execFsub k e s) s := by
  unfold execFsub
  exact answers_runInstr fun _ => keeps_binBinary

theorem answers_execFmul {e : Enc} : Answers (execFmul k e s) s := by
  unfold execFmul
  exact answers_runInstr fun _ => keeps_binBinary

theorem answers_execFdiv {e : Enc} : Answers (execFdiv k e s) s := by
  unfold execFdiv
  exact answers_runInstr fun _ => keeps_binBinary

theorem answers_execFcmp {e : Enc} : Answers (execFcmp k e s) s := by
  unfold execFcmp
  exact answers_runInstr fun _ => .bind keeps_ctxSrc fun _ => .bind keeps_ctxSrc fun _ => .bind keeps_ctxDecFault fun _ =>
    keeps_ctxFinishLong

theorem answers_execFcvtd {e : Enc} : Answers (execFcvtd k e s) s := by
  unfold execFcvtd
  exact answers_runInstr fun _ => .bind keeps_ctxSrc fun _ => .bind keeps_ctxDst fun _ => .bind keeps_ctxFmode fun _ => keeps_ctxEndFloat

theorem answers_execFcvtb {e : Enc} : Answers (execFcvtb k e s) s := by
  unfold execFcvtb
  exact answers_runInstr fun _ => .bind keeps_ctxSrcDec fun _ => .bind keeps_ctxDst fun _ => .bind keeps_ctxFmode fun _ =>
    keeps_ctxEndFloat

theorem keeps_dropSlots {p : TlbSlot → Bool} : Keeps (dropSlots k p) := by
  unfold dropSlots
  exact keeps_modCore

theorem answers_execTlbi {e : Enc} : Answers (execTlbi k e s) s := by
  unfold execTlbi
  exact answers_runInstr fun _ => .bind keeps_ctxSrc fun _ => .bind keeps_awaitOlder fun _ => .bind keeps_dropSlots fun _ => .pure

theorem answers_execTlbia {e : Enc} : Answers (execTlbia k e s) s := by
  unfold execTlbia
  exact answers_runInstr fun _ => .bind keeps_awaitOlder fun _ => .bind keeps_dropSlots fun _ => .pure

theorem answers_execTlbik {e : Enc} : Answers (execTlbik k e s) s := by
  unfold execTlbik
  exact answers_runInstr fun _ => .bind keeps_ctxSrc fun _ => .guard .throw fun _ => .bind keeps_awaitOlder fun _ => .bind keeps_dropSlots
    fun _ => .pure

theorem answers_execWci {e : Enc} : Answers (execWci k e s) s := by
  unfold execWci
  exact answers_runInstr fun _ => .bind keeps_awaitOlder fun _ => .bind keeps_modCore fun _ => .pure

theorem answers_execPmcrd {e : Enc} : Answers (execPmcrd k e s) s := by
  unfold execPmcrd
  refine answers_runInstr fun _ => ?_
  refine .bind keeps_ctxSrc fun _ => ?_
  exact .guard .throw fun _ => .bind keeps_ctxDst fun _ => .get_bind fun _ hs => .ite (.bind (.set (canonical_takeFree hs)) fun _ => .bind
    keeps_ctxPut fun _ => .bind keeps_modCore fun _ => .pure) (.bind keeps_ctxPut fun _ => .pure)

theorem canonical_irqTraced (ht : Canonical t) : Canonical (irqTraced k s t) := by
  unfold irqTraced
  exact canonical_ite (canonical_traced ht) ht

theorem canonical_takeIrq (hs : Canonical s) : Canonical (takeIrq k s) := by
  unfold takeIrq
  dsimp only
  split
  · exact hs
  · split
    · exact canonical_ite (canonical_setCore (canonical_takeTrap hs)) (canonical_takeTrap hs)
    · exact canonical_takeTrap hs

theorem answers_execInterruptEntry : Answers (execInterruptEntry k s) s := by
  unfold execInterruptEntry
  exact .ite (.next fun hs => canonical_irqTraced (canonical_takeIrq hs)) (.next fun hs1 => hs1)

theorem answers_execHoldOverrun : Answers (execHoldOverrun k s) s := by
  unfold execHoldOverrun
  exact .ite (.next fun hs => canonical_traced (canonical_takeTrap hs)) (.next fun hs1 => hs1)

theorem answers_execPaceMiss {late : Nat} : Answers (execPaceMiss k late s) s := by
  unfold execPaceMiss
  exact .next fun hs => canonical_ite (canonical_unitCmd (fun _ hs1 => canonical_traced (canonical_takeTrap (canonical_setCore
    (canonical_incFld (canonical_setFld hs1))))) hs) hs

theorem answers_putReg {m : BitVec 7} {blk off v : Nat} : Answers (putReg h m blk off v s) s := by
  unfold putReg
  exact .next fun hs => canonical_setupWrite hs

end Sys2Proof.Proofs
end

section
/-! Commands of the Foreman, the boundary table, faults, Flume and Kiln answer a next state and keep the canonical form. -/

namespace Sys2Proof.Proofs

open Sys2Proof Sys2Proof.Machine

-- one theorem after another: in parallel their stacks take the memory that a check of the whole text has
set_option Elab.async false

variable {s t : State} {h : HalfId} {k : CoreId} {n : Nat}

theorem answers_execPacedEnable {m : BitVec 7} {g : Fin 17} {v : Word} : Answers (execPacedEnable h m g v s) s := by
  unfold execPacedEnable
  exact answers_putReg

theorem canonical_copyCode {g : Nat} (hs : Canonical s) : Canonical (copyCode s h g) := by
  unfold copyCode
  exact canonical_upd (canonical_foldl (fun _ _ hs => canonical_codeLineBoth hs) hs)

theorem answers_execPacedCopyComplete {g : Fin 17} : Answers (execPacedCopyComplete h g s) s := by
  unfold execPacedCopyComplete
  exact .next fun hs => canonical_ite (canonical_setFld (canonical_setFld (canonical_copyCode hs))) hs

theorem answers_execStart {m : BitVec 7} {thread : BitVec 17} : Answers (execStart h m thread s) s := by
  unfold execStart
  exact answers_putReg

theorem answers_execAbortThread {m : BitVec 7} {thread : BitVec 17} : Answers (execAbortThread h m thread s) s := by
  unfold execAbortThread
  exact answers_putReg

theorem answers_execAbortCompartment {m : BitVec 7} {comp : BitVec 17} : Answers (execAbortCompartment h m comp s) s := by
  unfold execAbortCompartment
  exact answers_putReg

theorem answers_execFree {m : BitVec 7} {thread : BitVec 17} : Answers (execFree h m thread s) s := by
  unfold execFree
  exact answers_putReg

theorem answers_execSignal {m : BitVec 7} {thread : BitVec 17} : Answers (execSignal h m thread s) s := by
  unfold execSignal
  exact answers_putReg

theorem answers_execTimer {thread : BitVec 17} : Answers (execTimer h thread s) s := by
  unfold execTimer
  dsimp only
  split
  · exact .ite (.next fun hs11 => canonical_fmnEvent (canonical_upd hs11)) (.next fun hs12 => hs12)
  · exact .next fun hs15 => hs15

theorem canonical_recordGetCap {a : Nat} (hs : Canonical s) : Canonical (recordGetCap s h a).2.2 := by
  unfold recordGetCap
  extract_lets t
  have ht1 : Canonical (Prod.snd t) := canonical_via Prod.snd (canonical_unitRead hs) rfl
  exact canonical_snd_snd (canonical_snd ht1)

theorem canonical_poisonedRecord {t : Nat} (hs : Canonical s) : Canonical (poisonedRecord s h t) := by
  unfold poisonedRecord
  exact canonical_noteRefusedEffect (canonical_record hs)

theorem canonical_recordCaps {a : Nat} {is : List Nat} {acc : List TCap × Bool × State} (hs : Canonical acc.2.2) :
    Canonical (is.foldl (fun acc i =>
      let r := recordGetCap acc.2.2 h (a + 0x10 + 16 * i)
      (acc.1 ++ [r.1], acc.2.1 || r.2.1, r.2.2)) acc).2.2 :=
  canonical_foldl_snd_snd (fun _ _ hs => canonical_snd_snd (canonical_snd (canonical_recordGetCap hs))) hs

theorem canonical_switchInto {t : Nat} (hs : Canonical s) : Canonical (switchInto s k t) := by
  unfold switchInto
  dsimp only
  have hr := canonical_unitRead (h := k.half) (mid := midForeman) (a := recordAddr s k.half t + 0xB0) (n := 80)
    (canonical_recordGetCap (h := k.half) (a := recordAddr s k.half t + 0xA0) (canonical_recordGetCap (h := k.half) (a := recordAddr s k.half t + 0x90)
      (canonical_recordCaps (h := k.half) (a := recordAddr s k.half t) (is := List.range 8) (acc := ([], false, _))
        (canonical_recordGetCap (h := k.half) (a := recordAddr s k.half t) hs))))
  exact canonical_deliverEvents (canonical_setCore (canonical_upd (canonical_ite (canonical_poisonedRecord hr) hr)))

theorem answers_execSwitchIn : Answers (execSwitchIn k s) s := by
  unfold execSwitchIn
  refine .ite ?_ (.next fun hs8 => hs8)
  split
  · exact .next fun hs3 => canonical_unitCmd (fun _ hs4 => canonical_switchInto hs4) hs3
  · exact .next fun hs7 => hs7

theorem answers_execStepLimit : Answers (execStepLimit k s) s := by
  unfold execStepLimit
  dsimp only
  split
  · exact .ite (.next fun hs11 => canonical_incFld (canonical_setCore hs11)) (.next fun hs12 => hs12)
  · exact .next fun hs15 => hs15

theorem canonical_updHif {f : Hif → Hif} (hs : Canonical s) : Canonical (updHif s h f) := by
  unfold updHif
  exact canonical_upd hs

theorem canonical_sendMsix {vec : Nat} (hs : Canonical s) : Canonical (sendMsix s h vec) := by
  unfold sendMsix
  exact canonical_emit hs

theorem canonical_unmask {v : Nat} (hs : Canonical s) : Canonical (unmask s h v) := by
  unfold unmask
  exact canonical_ite (canonical_sendMsix (canonical_upd hs)) (canonical_upd hs)

theorem canonical_msixWrite {off : Nat} {bs : List Byte} (hs : Canonical s) : Canonical (msixWrite s h off bs) := by
  unfold msixWrite
  exact canonical_ite hs (canonical_ite (canonical_updHif hs) (canonical_ite (canonical_updHif (canonical_updHif hs)) (canonical_unmask
    (canonical_updHif hs))))

theorem canonical_bar0Write {off : Nat} {bs : List Byte} (hs : Canonical s) : Canonical (bar0Write s h off bs) := by
  unfold bar0Write
  exact canonical_ite (canonical_setupWrite hs) (canonical_ite (canonical_msixWrite hs) hs)

theorem answers_execRegisterWrite {m : BitVec 7} {addr : BitVec 46} {size : Nat} {v : Word} :
    Answers (execRegisterWrite h m addr size v s) s := by
  unfold execRegisterWrite
  exact .next fun hs => canonical_ite (canonical_ite (canonical_bar0Write hs) hs) (canonical_setupWrite hs)

theorem answers_execBoundaryEntryWrite {m : BitVec 7} {n : Fin 256} {word : Fin 3} {v : Word} :
    Answers (execBoundaryEntryWrite h m n word v s) s := by
  unfold execBoundaryEntryWrite
  exact answers_putReg

theorem answers_execGroupDisable {m : BitVec 7} {g : Fin 16} : Answers (execGroupDisable h m g s) s := by
  unfold execGroupDisable
  exact answers_putReg

theorem answers_execGroupDrained {g : Fin 16} : Answers (execGroupDrained h g s) s := by
  unfold execGroupDrained
  exact .next fun hs => canonical_ite hs (canonical_setBit hs)

theorem answers_execGroupEnable {m : BitVec 7} {g : Fin 16} : Answers (execGroupEnable h m g s) s := by
  unfold execGroupEnable
  exact answers_putReg

theorem canonical_expireHeld {x : Held} (hs : Canonical s) : Canonical (expireHeld h s x) := by
  unfold expireHeld
  exact canonical_retryHeld (canonical_ite (canonical_incFld (canonical_upd hs)) (canonical_clearBit (canonical_incFld (canonical_upd
    hs))))

theorem answers_execBoundaryHoldTimeout : Answers (execBoundaryHoldTimeout h s) s := by
  unfold execBoundaryHoldTimeout
  exact .next fun hs => canonical_foldl (fun _ _ hs1 => canonical_expireHeld hs1) hs

theorem answers_execBndFence {m : BitVec 7} {mask : BitVec 17} : Answers (execBndFence h m mask s) s := by
  unfold execBndFence
  exact answers_putReg

theorem answers_execCodewordViolation {r : Region} {index : Byte} : Answers (execCodewordViolation h r index s) s := by
  unfold execCodewordViolation
  exact .next fun hs => canonical_ite hs (canonical_regionFault hs)

theorem canonical_markFault {t : Nat} (hs : Canonical s) : Canonical (markFault s h t) := by
  unfold markFault
  exact canonical_unitPost hs

theorem canonical_clearCore (hs : Canonical s) : Canonical (clearCore k s) := by
  unfold clearCore
  exact canonical_setCore (canonical_upd hs)

theorem canonical_rollBack {fault : Bool} (hs : Canonical s) : Canonical (rollBack fault k s) := by
  unfold rollBack
  split
  · exact hs
  · extract_lets _ _ t5
    have ht6 : Canonical t5 := canonical_ite (canonical_markFault (canonical_undoStep hs)) (canonical_undoStep hs)
    exact canonical_incFld (canonical_clearCore (canonical_makeReady ht6))

theorem canonical_endWindow {g : Nat} (hs : Canonical s) : Canonical (endWindow s h g) := by
  unfold endWindow
  refine canonical_ite hs ?_
  extract_lets t4 t5
  have ht7 : Canonical t4 := canonical_foldl (fun _ _ hs6 => canonical_ite (canonical_rollBack hs6) hs6) hs
  have ht11 : Canonical t5 := by
    unfold t5
    refine canonical_foldl (fun _ _ hs8 => ?_) ht7
    extract_lets t9
    have ht10 : Canonical t9 := canonical_ite (canonical_setGroveState hs8) hs8
    exact canonical_ite (canonical_setBit ht10) ht10
  exact canonical_updFlt ht11

theorem canonical_resolveCore {unreadable : Bool} (hs : Canonical s) : Canonical (resolveCore unreadable k s) := by
  unfold resolveCore
  extract_lets _ t1
  have ht3 : Canonical t1 := canonical_foldl (fun _ _ hs2 => canonical_releaseOne hs2) (canonical_setCore hs)
  split
  · exact canonical_clearCore ht3
  · exact canonical_ite (canonical_rollBack ht3) (canonical_clearCore (canonical_becomeAborted (canonical_record (canonical_incFld ht3))))

theorem canonical_copyClass {src dst : Nat} (hs : Canonical s) : Canonical (copyClass s h src dst) := by
  unfold copyClass
  exact canonical_setFld hs

theorem canonical_copyAttribute {g : Nat} (hs : Canonical s) : Canonical (copyAttribute s h g) := by
  unfold copyAttribute
  extract_lets t1
  have ht3 : Canonical t1 := canonical_foldl (fun _ _ hs2 => canonical_setReg hs2) hs
  exact canonical_upd (canonical_setFld ht3)

theorem canonical_finishTakeover {g aux : Nat} (hs : Canonical s) : Canonical (finishTakeover s h g aux) := by
  unfold finishTakeover
  extract_lets _ _ t5
  have ht8 : Canonical t5 := canonical_setFld (canonical_copyAttribute (canonical_foldl (fun _ _ hs6 => canonical_copyClass hs6)
    (canonical_foldl (fun _ _ hs7 => canonical_setCore hs7) hs)))
  exact canonical_updateGuar (canonical_record (canonical_suspendRotation (canonical_updFlt (canonical_endRecovery (canonical_ite ht8
    (canonical_setGroveState ht8))))))

theorem answers_execGroveTakeover {g : Fin 17} {unreadable : List (Fin 8)} : Answers (execGroveTakeover h g unreadable s) s := by
  unfold execGroveTakeover
  refine .ite (.next fun hs => hs) ?_
  refine .ite (.next fun hs1 => hs1) ?_
  refine .ite ?_ ?_
  · refine .next fun hs2 => ?_
    refine canonical_ite ?_ ?_
    · exact canonical_record (canonical_endRecovery (canonical_foldl (fun _ _ hs3 => canonical_resolveCore hs3) (canonical_endWindow
        hs2)))
    · exact canonical_endRecovery (canonical_foldl (fun _ _ hs4 => canonical_resolveCore hs4) (canonical_endWindow hs2))
  · refine .ite ?_ ?_
    · exact .next fun hs5 => canonical_updFlt (canonical_foldl (fun _ _ hs6 => canonical_resolveCore hs6) (canonical_endWindow hs5))
    · exact .next fun hs7 => canonical_finishTakeover (canonical_foldl (fun _ _ hs8 => canonical_resolveCore hs8) (canonical_endWindow
        hs7))

theorem canonical_refetchCode {g : Nat} (hs : Canonical s) : Canonical (refetchCode s h g) := by
  unfold refetchCode
  refine canonical_ite (canonical_takeFree hs) ?_
  refine canonical_foldl (fun _ _ hs => ?_) (canonical_takeFree hs)
  split
  next _ _ heq3 =>
    exact canonical_of_eq Prod.snd heq3 (canonical_codeLineBoth hs)
  next _ _ heq6 =>
    exact canonical_upd (canonical_of_eq Prod.snd heq6 (canonical_codeLineBoth hs))

theorem answers_execPacedAreaCopyComplete {g : Fin 17} {fromCodeStore : Bool} :
    Answers (execPacedAreaCopyComplete h g fromCodeStore s) s := by
  unfold execPacedAreaCopyComplete
  refine .ite (.next fun hs => hs) ?_
  exact .next fun hs1 => canonical_finishTakeover (canonical_updFlt (canonical_ite (canonical_refetchCode (canonical_foldl (fun _ _ hs2 =>
    canonical_touchGranule hs2) hs1)) (canonical_foldl (fun _ _ hs3 => canonical_touchGranule hs3) hs1)))

theorem answers_execStall {r : Region} {index : Byte} {handshake : Word} : Answers (execStall h r index handshake s) s := by
  unfold execStall
  exact .next fun hs => canonical_ite hs (canonical_regionFault hs)

theorem answers_execRotationWindow : Answers (execRotationWindow h s) s := by
  unfold execRotationWindow
  refine .ite (.next fun hs => hs) ?_
  dsimp only
  split
  · exact .next fun hs13 => canonical_ite (canonical_setFld (canonical_updFlt hs13)) (canonical_setFld (canonical_setReg (canonical_setFld
      (canonical_updFlt hs13))))
  · exact .next fun hs16 => canonical_setFld (canonical_updFlt hs16)

theorem canonical_drainGrove {g : Nat} (hs : Canonical s) : Canonical (drainGrove h s g) := by
  unfold drainGrove
  extract_lets t1
  have ht3 : Canonical t1 := canonical_foldl (fun _ _ hs2 => canonical_ite (canonical_rollBack hs2) hs2) hs
  exact canonical_ite (canonical_setGroveState ht3) (canonical_ite (canonical_setBit (canonical_updFlt ht3)) (canonical_updFlt ht3))

theorem answers_execDrainEnd : Answers (execDrainEnd h s) s := by
  unfold execDrainEnd
  exact .ite (.next fun hs => hs) (.next fun hs1 => canonical_updFlt (canonical_foldl (fun _ _ hs2 => canonical_drainGrove hs2) hs1))

theorem answers_execSelfTestComplete {g : Fin 17} {pass : Bool} : Answers (execSelfTestComplete h g pass s) s := by
  unfold execSelfTestComplete
  refine .ite (.next fun hs => hs) ?_
  refine .next fun hs1 => ?_
  refine canonical_updateGuar ?_
  refine canonical_ite ?_ ?_
  · exact canonical_updFlt (canonical_ite (canonical_clearBit (canonical_setGroveState hs1)) (canonical_setGroveState hs1))
  · exact canonical_groveFault (canonical_incFld (canonical_updFlt (canonical_ite (canonical_clearBit (canonical_setGroveState hs1))
      (canonical_setGroveState hs1))))

theorem canonical_noteLate {g : Nat} (hs : Canonical s) : Canonical (noteLate h s g) := by
  unfold noteLate
  exact canonical_record (canonical_incFld (canonical_updFlt hs))

theorem answers_execReturnEnd : Answers (execReturnEnd h s) s := by
  unfold execReturnEnd
  refine .ite (.next fun hs => hs) ?_
  refine .next fun hs1 => ?_
  refine canonical_updateGuar ?_
  refine canonical_ite ?_ ?_
  · refine canonical_setFld ?_
    refine canonical_foldl (fun _ _ hs2 => canonical_noteLate hs2) ?_
    refine canonical_updFlt ?_
    refine canonical_foldl (fun _ _ hs3 => ?_) ?_
    · extract_lets t4
      have ht5 : Canonical t4 := canonical_ite (canonical_setGroveState hs3) hs3
      exact canonical_ite (canonical_setBit ht5) ht5
    · exact canonical_ite hs1 (canonical_foldl (fun _ _ hs6 => canonical_ite (canonical_rollBack hs6) hs6) hs1)
  · refine canonical_updFlt ?_
    refine canonical_foldl (fun _ _ hs7 => ?_) ?_
    · extract_lets t8
      have ht9 : Canonical t8 := canonical_ite (canonical_setGroveState hs7) hs7
      exact canonical_ite (canonical_setBit ht9) ht9
    · exact canonical_ite hs1 (canonical_foldl (fun _ _ hs10 => canonical_ite (canonical_rollBack hs10) hs10) hs1)

theorem answers_execSuspensionWindow : Answers (execSuspensionWindow h s) s := by
  unfold execSuspensionWindow
  exact .ite (.next fun hs => hs) (.next fun hs1 => canonical_ite (canonical_updFlt hs1) (canonical_updFlt (canonical_updFlt hs1)))

theorem answers_execFaultInject {m : BitVec 7} {v : Word} : Answers (execFaultInject h m v s) s := by
  unfold execFaultInject
  exact answers_putReg

theorem answers_execFltRetest {m : BitVec 7} {grove : BitVec 5} : Answers (execFltRetest h m grove s) s := by
  unfold execFltRetest
  exact answers_putReg

theorem answers_execRetestComplete {pass : Bool} : Answers (execRetestComplete h pass s) s := by
  unfold execRetestComplete
  exact .ite (.next fun hs => hs) (.next fun hs1 => canonical_ite (canonical_clearBit (canonical_setFld (canonical_setFld hs1)))
    (canonical_setFld (canonical_setFld hs1)))

theorem answers_execClaim {both : Bool} : Answers (execClaim h both s) s := by
  unfold execClaim
  exact .next fun hs => canonical_ite (canonical_claimLatch (canonical_claimLatch hs)) (canonical_claimLatch hs)

theorem answers_execRenew : Answers (execRenew h s) s := by
  unfold execRenew
  exact .next fun hs => canonical_renewLatch hs

theorem answers_execLatchRelease : Answers (execLatchRelease h s) s := by
  unfold execLatchRelease
  exact .next fun hs => canonical_releaseLatch hs

theorem answers_execLeaseExpiry : Answers (execLeaseExpiry s) s := by
  unfold execLeaseExpiry
  exact .next fun hs => canonical_ite (canonical_freeLatch hs) hs

theorem answers_execLockstep {cause : WardenFault} : Answers (execLockstep h cause s) s := by
  unfold execLockstep
  refine .ite (.next fun hs => hs) ?_
  split
  · exact .next fun hs2 => canonical_wardenFault hs2
  · exact .next fun hs4 => canonical_wardenFault (canonical_incFld hs4)
  · exact .next fun hs6 => canonical_wardenFault (canonical_incFld hs6)

theorem answers_execSeamLoss : Answers (execSeamLoss s) s := by
  unfold execSeamLoss
  refine .ite (.next fun hs => hs) ?_
  refine .next fun hs1 => ?_
  refine canonical_updateGuar ?_
  refine canonical_updateGuar ?_
  refine canonical_ite ?_ ?_
  · exact canonical_faultSafe (canonical_record (canonical_faultSafe (canonical_setFld (canonical_setFld (canonical_of_parts hs1 rfl rfl
      rfl)))))
  · exact canonical_record (canonical_faultSafe (canonical_setFld (canonical_setFld (canonical_of_parts hs1 rfl rfl rfl))))

theorem answers_execOscFail : Answers (execOscFail s) s := by
  unfold execOscFail
  exact .next fun hs => canonical_ite hs (canonical_oscFailure hs)

theorem canonical_markUnit {i : Nat} {f : ScrubFind} (hs : Canonical s) : Canonical (markUnit s h i f) := by
  unfold markUnit
  split
  · exact hs
  · exact canonical_setUnitMark hs
  · exact canonical_setUnitMark hs

theorem cells_markGranule {e : ScrubFind} {m : Mem} {g : Nat} : (markGranule e m g).cells = m.cells := by
  cases e <;> rfl

theorem cells_markLine {e : ScrubFind} {m : Mem} {l : Nat} : (markLine e m l).cells = m.cells := by
  cases e <;> rfl

theorem answers_execScrubRead {st : ScrubStore} {place : ScrubPlace} : Answers (execScrubRead h st place s) s := by
  unfold execScrubRead
  cases st with
  | canopy =>
    refine .next fun hs => ?_
    split
    · exact canonical_touchSram (canonical_upd hs fun _ => cells_markGranule)
    · exact hs
  | ddr =>
    refine .next fun hs => ?_
    split
    · exact canonical_touchLine (canonical_upd hs fun _ => cells_markLine)
    · exact hs
  | groveL2 =>
    refine .next fun hs => ?_
    split
    · exact canonical_ite (canonical_touchSram (canonical_upd hs fun _ => cells_markGranule)) hs
    · exact hs
  | unitSram => exact .next fun hs => canonical_touchUnit (canonical_markUnit hs)
  | wardenSram =>
    refine .next fun hs => canonical_ite hs ?_
    split
    · exact hs
    · exact canonical_incFld hs
    · exact canonical_wardenFault (canonical_incFld hs)

theorem answers_execScrubLate {store : Fin 3} : Answers (execScrubLate h store s) s := by
  unfold execScrubLate
  exact .next fun hs => canonical_updateGuar (canonical_record (canonical_setBit hs))

theorem answers_execCodestorePatrolRead {line : BitVec 28} {errs otherErrs : Nat} :
    Answers (execCodestorePatrolRead h line errs otherErrs s) s := by
  unfold execCodestorePatrolRead
  exact .next fun hs => canonical_codeLineBoth (canonical_upd (canonical_upd hs))

theorem canonical_countLen {sub : Nat} (hs : Canonical s) : Canonical (countLen s h sub) := by
  unfold countLen
  exact canonical_ethCount hs

theorem canonical_countFcs {sub : Nat} (hs : Canonical s) : Canonical (countFcs s h sub) := by
  unfold countFcs
  exact canonical_ethCount hs

theorem canonical_takePause {sub : Nat} {times : List (Nat × Nat)} (hs : Canonical s) : Canonical (takePause s h sub times) := by
  unfold takePause
  exact canonical_foldl (fun _ _ hs => canonical_updEth hs) hs

theorem canonical_pauseRx {sub quanta : Nat} (hs : Canonical s) : Canonical (pauseRx s h sub quanta) := by
  unfold pauseRx
  exact canonical_ite (canonical_takePause hs) hs

theorem canonical_pfcRx {sub enable : Nat} {times : List Nat} (hs : Canonical s) : Canonical (pfcRx s h sub enable times) := by
  unfold pfcRx
  exact canonical_ite (canonical_takePause hs) hs

theorem canonical_macControl {sub : Nat} {f : List Byte} (hs : Canonical s) : Canonical (macControl s h sub f) := by
  unfold macControl
  split
  · exact canonical_pauseRx hs
  · exact canonical_pfcRx hs
  · exact hs

theorem canonical_landFrame {sub : Nat} {f : List Byte} (hs : Canonical s) : Canonical (landFrame s h sub f) := by
  unfold landFrame
  refine canonical_ite (canonical_incFld hs) ?_
  split
  · exact hs
  · exact canonical_flowCheck (canonical_updEth (canonical_writeUnit hs))

theorem answers_execFrameReceive {sub : Fin 4} {frame : List Byte} : Answers (execFrameReceive h sub frame s) s := by
  unfold execFrameReceive
  refine .ite (.next fun hs => hs) ?_
  exact .ite (.next fun hs1 => canonical_countLen hs1) (.ite (.next fun hs2 => canonical_countFcs hs2) (.ite (.next fun hs3 =>
    canonical_countLen hs3) (.ite (.next fun hs4 => canonical_macControl hs4) (.next fun hs5 => canonical_landFrame hs5))))

theorem answers_execPfcRepeat {sub : Fin 4} {prio : Fin 8} : Answers (execPfcRepeat h sub prio s) s := by
  unfold execPfcRepeat
  split
  · exact .next fun hs2 => hs2
  · exact .ite (.next fun hs6 => canonical_updEth (canonical_sendPause hs6)) (.next fun hs7 => hs7)

theorem answers_execPauseFrame {sub : Fin 4} {quanta : BitVec 16} : Answers (execPauseFrame h sub quanta s) s := by
  unfold execPauseFrame
  exact .next fun hs => canonical_ite (canonical_pauseRx hs) hs

theorem answers_execPfcFrame {sub : Fin 4} {enable : Byte} {times : List (BitVec 16)} :
    Answers (execPfcFrame h sub enable times s) s := by
  unfold execPfcFrame
  exact .next fun hs => canonical_ite (canonical_pfcRx hs) hs

theorem answers_execPauseTimeExpiry {sub : Fin 4} {prio : Fin 8} : Answers (execPauseTimeExpiry h sub prio s) s := by
  unfold execPauseTimeExpiry
  exact .next fun hs => canonical_updEth hs

theorem answers_execEthModeWrite {m : BitVec 7} {v : Word} : Answers (execEthModeWrite h m v s) s := by
  unfold execEthModeWrite
  exact answers_putReg

theorem answers_execAutoNegotiationComplete {sub : Fin 4} {common : Bool} : Answers (execAutoNegotiationComplete h sub common s) s := by
  unfold execAutoNegotiationComplete
  exact .ite (.ite (.next fun hs => canonical_updEth (canonical_clearBit hs)) (.next fun hs1 => canonical_updEth (canonical_setBit hs1)))
    (.next fun hs2 => hs2)

theorem answers_execLinkUp {sub : Fin 4} : Answers (execLinkUp h sub s) s := by
  unfold execLinkUp
  exact .ite (.next fun hs => canonical_setBit hs) (.next fun hs1 => hs1)

theorem answers_execLinkLoss {sub : Fin 4} : Answers (execLinkLoss h sub s) s := by
  unfold execLinkLoss
  exact .next fun hs => canonical_ite (canonical_ethDown hs) hs

theorem canonical_dropLanding {f : LandFrame} (hs : Canonical s) : Canonical (dropLanding s h f) := by
  unfold dropLanding
  exact canonical_flowCheck (canonical_updEth hs)

theorem canonical_slowPath {f : LandFrame} {reason : Nat} (hs : Canonical s) : Canonical (slowPath s h f reason) := by
  unfold slowPath
  exact canonical_ite (canonical_incFld hs) (canonical_fmnEvent (canonical_setFld (canonical_unitWrite hs)))

theorem canonical_setReasm {c c' : Reasm} (hs : Canonical s) : Canonical (setReasm s h c c') := by
  unfold setReasm
  exact canonical_updFlm hs

theorem canonical_dropReasm {c : Reasm} (hs : Canonical s) : Canonical (dropReasm s h c) := by
  unfold dropReasm
  exact canonical_incFld (canonical_setReasm hs)

theorem canonical_takeFragment {f : LandFrame} {ip : IpInfo} (hs : Canonical s) : Canonical (takeFragment s h f ip).2 := by
  unfold takeFragment
  refine canonical_ite_of Prod.snd (canonical_snd (canonical_incFld hs)) ?_
  refine canonical_ite_of Prod.snd (canonical_snd (canonical_updFlm hs)) ?_
  exact canonical_ite_of Prod.snd (canonical_snd (canonical_dropReasm (canonical_updFlm hs))) (canonical_ite_of Prod.snd (canonical_snd
    (canonical_updFlm (canonical_updFlm hs))) (canonical_snd (canonical_setReasm (canonical_updFlm hs))))

theorem canonical_answerRst {f : LandFrame} {ip : IpInfo} {g : TcpSeg} (hs : Canonical s) : Canonical (answerRst s h f ip g) := by
  unfold answerRst
  exact canonical_ite hs (canonical_ethSend (canonical_incFld hs))

theorem canonical_enterOpen (hs : Canonical s) : Canonical (enterOpen s h n) := by
  unfold enterOpen
  exact canonical_ite (canonical_setSession hs) (canonical_sessionStatus (canonical_setSession hs))

theorem canonical_synSent {x : Session} {t : Tcb} {g : TcpSeg} (hs : Canonical s) : Canonical (synSent s h n x t g) := by
  unfold synSent
  refine canonical_ite (canonical_ite hs (canonical_sendSegs hs)) ?_
  exact canonical_ite (canonical_ite (canonical_closeSession hs) hs) (canonical_ite hs (canonical_ite (canonical_tcpPush
    (canonical_sendSegs (canonical_enterOpen (canonical_setTcb hs)))) (canonical_sendSegs (canonical_setTcb hs))))

theorem canonical_passRecords (hs : Canonical s) : Canonical (passRecords s h n) := by
  unfold passRecords
  split
  · exact hs
  · exact canonical_ite hs (canonical_updKln (canonical_setTcb hs))

theorem canonical_tcpSettle {ackNow : Bool} (hs : Canonical s) : Canonical (tcpSettle s h n ackNow) := by
  unfold tcpSettle
  dsimp only
  split
  · exact canonical_passRecords hs
  · split
    · refine canonical_ite ?_ ?_
      · exact canonical_tcpPush (canonical_closeSession (canonical_ite (canonical_sendSegs (canonical_passRecords hs))
          (canonical_passRecords hs)))
      · exact canonical_tcpPush (canonical_ite (canonical_sendSegs (canonical_passRecords hs)) (canonical_passRecords hs))
    · exact canonical_ite (canonical_closeSession (canonical_ite (canonical_sendSegs (canonical_passRecords hs)) (canonical_passRecords
        hs))) (canonical_tcpPush (canonical_ite (canonical_sendSegs (canonical_passRecords hs)) (canonical_passRecords hs)))
    · exact canonical_ite (canonical_setSession (canonical_ite (canonical_sendSegs (canonical_passRecords hs)) (canonical_passRecords
        hs))) (canonical_tcpPush (canonical_ite (canonical_sendSegs (canonical_passRecords hs)) (canonical_passRecords hs)))
    · exact canonical_ite (canonical_sendSegs (canonical_passRecords hs)) (canonical_passRecords hs)
    · exact canonical_ite (canonical_sendSegs (canonical_passRecords hs)) (canonical_passRecords hs)

theorem canonical_tcpSegment {x : Session} {t : Tcb} {g : TcpSeg} {time : Word} (hs : Canonical s) :
    Canonical (tcpSegment s h n x t g time) := by
  unfold tcpSegment
  extract_lets _ t1 _ _ _ _ _ _ _ t2 _ _ _ t3
  have ht5 : ∀ (s : State), Canonical s → Canonical (t1 s) := fun _ hs4 => canonical_ite hs4 (canonical_sendSegs hs4)
  have ht6 : Canonical t2 := canonical_sendSegs (canonical_ite (canonical_enterOpen (canonical_setTcb hs)) (canonical_setTcb hs))
  have ht7 : Canonical t3 := canonical_ite (canonical_areaWrite ht6) ht6
  refine canonical_ite (ht5 _ hs) ?_
  refine canonical_ite (ht5 _ hs) ?_
  refine canonical_ite ?_ ?_
  · exact canonical_ite (canonical_ite (canonical_setSession hs) (canonical_closeSession hs)) (canonical_sendSegs hs)
  · exact canonical_ite (ht5 _ hs) (canonical_ite hs (canonical_ite (canonical_sendSegs hs) (canonical_ite (ht5 _ hs) (canonical_tcpSettle
      (canonical_setTcb ht7)))))

theorem canonical_tcpInput {g : TcpSeg} {time : Word} (hs : Canonical s) : Canonical (tcpInput s h n g time) := by
  unfold tcpInput
  dsimp only
  split
  · exact canonical_ite (canonical_incFld hs) hs
  · exact canonical_ite (canonical_synSent (canonical_setTcb (canonical_ite (canonical_incFld hs) hs))) (canonical_tcpSegment
      (canonical_setTcb (canonical_ite (canonical_incFld hs) hs)))

theorem canonical_learnPeer {f : LandFrame} (hs : Canonical s) : Canonical (learnPeer s h n f) := by
  unfold learnPeer
  exact canonical_touchSession (canonical_setSession hs)

theorem canonical_sessionInput {prov : Bool} {f : LandFrame} {ip : IpInfo} (hs : Canonical s) :
    Canonical (sessionInput s h n prov f ip) := by
  unfold sessionInput
  refine canonical_ite hs ?_
  refine canonical_ite ?_ ?_
  · split
    · exact canonical_mirrorUpdate (canonical_tcpInput (canonical_learnPeer hs))
    · exact hs
  · exact canonical_updKln (canonical_ite (canonical_touchSession hs) (canonical_mirrorUpdate (canonical_learnPeer hs)))

theorem canonical_passiveOpen {l : Listener} {f : LandFrame} {ip : IpInfo} {g : TcpSeg} (hs : Canonical s) :
    Canonical (passiveOpen s h l f ip g) := by
  unfold passiveOpen
  split
  · exact canonical_answerRst (canonical_updFlm hs)
  · exact canonical_mirrorUpdate (canonical_sendSegs (canonical_sessionStatus (canonical_openContext (canonical_touchSession
      (canonical_setKeys (canonical_setSession (canonical_takeFree hs)))))))

theorem offers_flumePacket {f : LandFrame} {ip : IpInfo} (hs : Canonical s) : Offers id (flumePacket s h f ip) := by
  unfold flumePacket
  extract_lets t
  have ht1 : Canonical (Prod.snd t) := canonical_via Prod.snd (canonical_lookup hs) rfl
  split
  · exact .some (canonical_incFld ht1)
  · exact .some (canonical_slowPath ht1)
  · refine .some ?_
    split
    · exact canonical_answerRst ht1
    · exact ht1
  · exact .ite .none (.some (canonical_sessionInput ht1))
  · split
    next _ _ _ _ heq25 _ =>
      exact .some (canonical_passiveOpen (offers_roomForHot ht1 _ heq25))
    · exact .none

theorem offers_flumeTake {f : LandFrame} (hs : Canonical s) : Offers id (flumeTake s h f) := by
  unfold flumeTake
  split
  · exact .some (canonical_slowPath hs)
  · exact .some (canonical_slowPath hs)
  · refine .ite (.some (canonical_incFld hs)) ?_
    refine .ite ?_ (offers_flumePacket hs)
    split
    next _ _ heq15 =>
      exact .some (canonical_of_eq Prod.snd heq15 (canonical_takeFragment hs))
    next _ _ _ heq19 =>
      extract_lets t20
      have ht21 : ∀ (g : LandFrame), Canonical (t20 g) := fun _ => canonical_updEth (canonical_of_eq Prod.snd heq19
        (canonical_takeFragment hs))
      split
      · exact .some (canonical_of_eq Prod.snd heq19 (canonical_takeFragment hs))
      · exact .some (canonical_slowPath (canonical_of_eq Prod.snd heq19 (canonical_takeFragment hs)))
      · exact .some (ht21 _)
      · exact .some (ht21 _)

theorem offers_firstTaken : ∀ {fs : List LandFrame}, Canonical s → Offers Prod.snd (firstTaken s h fs)
  | [], _ => .none
  | f :: fs, hs => by
    unfold firstTaken
    split
    next heq => exact .some (canonical_snd (offers_flumeTake hs _ heq))
    · exact offers_firstTaken hs

theorem canonical_readLanding {f : LandFrame} (hs : Canonical s) : Canonical (readLanding s h f).2 := by
  unfold readLanding
  exact canonical_ite_of Prod.snd (canonical_snd hs) (canonical_readUnit hs)

theorem answers_execFlumeSessionLookup : Answers (execFlumeSessionLookup h s) s := by
  unfold execFlumeSessionLookup
  refine .ite ?_ ?_
  · refine .next fun hs => ?_
    split
    · exact canonical_dropLanding hs
    · exact hs
  · refine .ite ?_ ?_
    · refine .next fun hs7 => ?_
      split
      · exact canonical_incFld (canonical_dropLanding hs7)
      · exact hs7
    · refine .next fun hs14 => ?_
      refine canonical_unitCmd (fun _ hs15 => ?_) hs14
      dsimp only
      split
      next _ _ _ heq27 =>
        exact canonical_dropLanding (canonical_ite (canonical_readLanding hs15) (canonical_ite (offers_firstTaken hs15 _ heq27)
          (canonical_getD (offers_flumeTake (canonical_readLanding hs15)) (offers_firstTaken hs15 _ heq27))))
      · exact hs15

theorem answers_execReassemblyTimeout {i : Nat} : Answers (execReassemblyTimeout h i s) s := by
  unfold execReassemblyTimeout
  split
  · exact .next fun hs2 => hs2
  · exact .next fun hs6 => canonical_ite (canonical_ite (canonical_updFlm hs6) (canonical_incFld (canonical_updFlm hs6))) hs6

theorem offers_withHot {f : State → State} (hs : Canonical s) (hf : ∀ (a : State), Canonical a → Canonical (f a)) :
    Offers id (withHot s h n f) := by
  unfold withHot
  exact .ite (.some (hf _ (canonical_readStore hs))) (.map (offers_fetchCold hs) fun _ hs => hf _ hs)

theorem answers_sessionTimer {f : State → State} (hf : ∀ (a : State), Canonical a → Canonical (f a)) :
    Answers (sessionTimer s h n f) s := by
  unfold sessionTimer
  exact .next fun hs => canonical_unitCmd (fun _ hs1 => canonical_getD (offers_withHot hs1 hf) hs1) hs

theorem canonical_retransmit (hs : Canonical s) : Canonical (retransmit h n s) := by
  unfold retransmit
  dsimp only
  split
  · exact hs
  · split
    · split
      · exact canonical_setTcb hs
      · exact canonical_mirrorUpdate (canonical_sendSegs (canonical_setTcb hs))
    · exact canonical_ite (canonical_mirrorUpdate (canonical_closeSession hs)) (canonical_ite (canonical_mirrorUpdate (canonical_ite
        (canonical_setSession hs) (canonical_closeSession hs))) (canonical_mirrorUpdate (canonical_sendSegs (canonical_setTcb hs))))

theorem answers_execRetransmissionTimeout {session : BitVec 16} : Answers (execRetransmissionTimeout h session s) s := by
  unfold execRetransmissionTimeout
  split
  · exact .next fun hs2 => hs2
  · exact .ite (.next fun hs6 => hs6) (answers_sessionTimer fun _ hs7 => canonical_retransmit hs7)

theorem canonical_delayedAck (hs : Canonical s) : Canonical (delayedAck h n s) := by
  unfold delayedAck
  split
  · exact hs
  · exact canonical_mirrorUpdate (canonical_sendSegs hs)

theorem answers_execDelayedAckTimeout {session : BitVec 16} : Answers (execDelayedAckTimeout h session s) s := by
  unfold execDelayedAckTimeout
  split
  · exact .next fun hs2 => hs2
  · exact .ite (.next fun hs6 => hs6) (answers_sessionTimer fun _ hs7 => canonical_delayedAck hs7)

theorem canonical_keepAlive (hs : Canonical s) : Canonical (keepAlive h n s) := by
  unfold keepAlive
  dsimp only
  split
  · exact hs
  · exact canonical_ite (canonical_mirrorUpdate (canonical_closeSession hs)) (canonical_mirrorUpdate (canonical_sendSegs (canonical_setTcb
      hs)))

theorem answers_execKeepaliveTimeout {session : BitVec 16} : Answers (execKeepaliveTimeout h session s) s := by
  unfold execKeepaliveTimeout
  dsimp only
  split
  · exact .next fun hs10 => hs10
  · exact .ite (.next fun hs14 => hs14) (answers_sessionTimer fun _ hs15 => canonical_keepAlive hs15)

theorem answers_execUdpIdleTimeout {session : BitVec 16} : Answers (execUdpIdleTimeout h session s) s := by
  unfold execUdpIdleTimeout
  exact .ite (.next fun hs => hs) (answers_sessionTimer fun _ hs1 => canonical_mirrorUpdate (canonical_closeSession hs1))

theorem answers_execColdSessionFetch {session : BitVec 16} : Answers (execColdSessionFetch h session s) s := by
  unfold execColdSessionFetch
  exact .next fun hs => canonical_ite (canonical_flmCommand (canonical_ite hs (canonical_unitCmd (fun _ hs1 => canonical_getD
    (offers_fetchCold hs1) hs1) hs))) (canonical_ite hs (canonical_unitCmd (fun _ hs2 => canonical_getD (offers_fetchCold hs2) hs2) hs))

theorem answers_execOpenSession {m : BitVec 7} {addr : BitVec 40} {session : BitVec 16} :
    Answers (execOpenSession h m addr session s) s := by
  unfold execOpenSession
  exact answers_putReg

theorem answers_execClose {m : BitVec 7} {session : BitVec 16} : Answers (execClose h m session s) s := by
  unfold execClose
  exact answers_putReg

theorem answers_execAbort {m : BitVec 7} {session : BitVec 16} : Answers (execAbort h m session s) s := by
  unfold execAbort
  exact answers_putReg

theorem answers_execPath0 {m : BitVec 7} {session : BitVec 16} : Answers (execPath0 h m session s) s := by
  unfold execPath0
  exact answers_putReg

theorem answers_execPath1 {m : BitVec 7} {session : BitVec 16} : Answers (execPath1 h m session s) s := by
  unfold execPath1
  exact answers_putReg

theorem answers_execRelease {m : BitVec 7} {session : BitVec 16} : Answers (execRelease h m session s) s := by
  unfold execRelease
  exact answers_putReg

theorem canonical_pushStamp {x : TxFrame} (hs : Canonical s) : Canonical (pushStamp s h x) := by
  unfold pushStamp
  exact canonical_ite (canonical_incFld hs) (canonical_upd hs)

theorem answers_execFrameTransmit {sub : Fin 4} : Answers (execFrameTransmit h sub s) s := by
  unfold execFrameTransmit
  refine .ite (.next fun hs => hs) ?_
  split
  · exact .next fun hs3 => hs3
  · exact .next fun hs7 => canonical_ite (canonical_pushStamp (canonical_emit (canonical_updEth hs7))) (canonical_emit (canonical_updEth
      hs7))

theorem answers_execTmbStep {m : BitVec 7} {v : Word} : Answers (execTmbStep h m v s) s := by
  unfold execTmbStep
  exact answers_putReg

theorem canonical_setupRead {m addr : Nat} (hs : Canonical s) : Canonical (setupRead s h m addr n) := by
  unfold setupRead
  refine canonical_ite hs ?_
  split
  · extract_lets t6
    have ht7 : Canonical (Prod.snd t6) := canonical_via Prod.snd (canonical_busRead hs) rfl
    exact canonical_emit ht7
  · exact canonical_noteHeld hs
  · exact canonical_noteFenced hs
  · exact canonical_emit (canonical_setupRefused hs)

theorem answers_execTmbTxts0Read {m : BitVec 7} : Answers (execTmbTxts0Read h m s) s := by
  unfold execTmbTxts0Read
  exact .next fun hs => canonical_setupRead hs

theorem answers_execPpsIn : Answers (execPpsIn s) s := by
  unfold execPpsIn
  exact .next fun hs => canonical_foldl (fun _ _ hs1 => canonical_setFld (canonical_setReg hs1)) hs

theorem answers_execPpsOut : Answers (execPpsOut s) s := by
  unfold execPpsOut
  exact .next fun hs => canonical_ite (canonical_of_parts hs rfl rfl rfl) hs

theorem answers_execPpsOutFall : Answers (execPpsOutFall s) s := by
  unfold execPpsOutFall
  exact .next fun hs => canonical_ite (canonical_of_parts hs rfl rfl rfl) hs

theorem canonical_passWaiting (hs : Canonical s) : Canonical (passWaiting s h) := by
  unfold passWaiting
  exact canonical_foldl (fun _ _ hs => canonical_ite hs (canonical_passRecords hs)) hs

theorem canonical_takeRecord {r : RxRecord} {rest : List Byte} (hs : Canonical s) : Canonical (takeRecord s h r rest) := by
  unfold takeRecord
  exact canonical_passWaiting (canonical_updKln hs)

/-- The state of a record's outcome. -/
def recState : RecOut → State
  | .discard s => s
  | .deliver s _ _ _ => s

theorem canonical_countOut {f : Fld} (hs : Canonical s) : Canonical (recState (countOut s h f)) := canonical_incFld hs

theorem canonical_rxAccepted {seq : Nat} {k : DirKey} (hs : Canonical s) : Canonical (rxAccepted s h n seq k).2 := by
  unfold rxAccepted
  exact canonical_ite_of Prod.snd (canonical_snd (canonical_sessionStatus hs)) (canonical_snd hs)

theorem canonical_rebind {p : List Byte × Nat × Nat × List Byte} (hs : Canonical s) : Canonical (rebind s h n p) := by
  unfold rebind
  refine canonical_ite hs ?_
  extract_lets t5
  have ht11 : Canonical t5 := by
    unfold t5
    split
    · exact canonical_ite hs (canonical_setSession hs)
    · exact hs
  exact canonical_mirrorUpdate (canonical_sessionStatus (canonical_setSession ht11))

theorem canonical_dtlsUnder {r : RxRecord} {b : List Byte} {u : UniHdr} {k : DirKey} {isNext : Bool} (hs : Canonical s) :
    Canonical (recState (dtlsUnder s h n r b u k isNext)) := by
  unfold dtlsUnder
  dsimp only
  split
  · exact canonical_countOut hs
  · split
    · change Canonical (if k.exhausted then s else _)
      exact canonical_ite hs (canonical_sessionStatus (canonical_setKeys hs))
    · split
      · exact canonical_countOut hs
      · split
        · exact canonical_countOut hs
        · have ha : ∀ {seq k'}, Canonical (rxAccepted s h n seq k').2 := canonical_rxAccepted hs
          unfold recState
          dsimp only
          split
          · exact canonical_ite (canonical_rebind (canonical_setKeys ha)) (canonical_setKeys ha)
          · exact canonical_setKeys ha

theorem canonical_dtlsRecord {r : RxRecord} (hs : Canonical s) : Canonical (recState (dtlsRecord s h n r).1) := by
  unfold dtlsRecord
  dsimp only
  split
  · exact hs
  · split
    · split
      · exact canonical_countOut hs
      · split
        · exact canonical_countOut hs
        · split
          · exact canonical_dtlsUnder hs
          · split
            · exact canonical_dtlsUnder hs
            · split <;> exact canonical_countOut hs
    · split
      · exact canonical_countOut hs
      · split
        · exact hs
        · split
          · exact hs
          · exact canonical_countOut hs

theorem canonical_rxFail {word : Nat} (hs : Canonical s) : Canonical (rxFail s h n word) := by
  unfold rxFail
  exact canonical_sessionStatus (canonical_setKeys hs)

theorem canonical_tlsRecord {b : List Byte} (hs : Canonical s) : Canonical (recState (tlsRecord s h n b)) := by
  unfold tlsRecord
  dsimp only
  split
  · exact hs
  · split
    · exact canonical_takeFree hs
    · split
      · split
        · exact canonical_countOut hs
        · exact canonical_rxFail hs
      · split
        · unfold recState
          exact canonical_ite hs (canonical_sessionStatus (canonical_setKeys hs))
        · split
          · exact canonical_rxFail hs
          · split
            · exact canonical_rxFail hs
            · exact canonical_setKeys (canonical_rxAccepted hs)

theorem canonical_notDiscarded (hs : Canonical s) : Canonical (notDiscarded s h n) := by
  unfold notDiscarded
  exact canonical_setSession hs

theorem canonical_hringPut {type seq : Nat} {plain : List Byte} (hs : Canonical s) : Canonical (hringPut s h n type seq plain) := by
  unfold hringPut
  exact canonical_fmnEvent (canonical_setFld (canonical_unitWrite hs))

theorem answers_execRecordUnprotect {session : BitVec 16} : Answers (execRecordUnprotect h session s) s := by
  unfold execRecordUnprotect
  dsimp only
  split
  · exact .next id
  next r _ =>
    refine .ite (.next fun hs => canonical_takeRecord hs) (.ite (.next id) (.next fun hs => canonical_unitCmd (fun s hs => ?_) hs))
    have ho : Canonical (recState (if isDtls (readStore s h session.toNat) h session.toNat = true
        then dtlsRecord (readStore s h session.toNat) h session.toNat r
        else (tlsRecord (readStore s h session.toNat) h session.toNat r.bytes, [])).1) :=
      canonical_ite_of (fun o : RecOut × List Byte => recState o.1) (canonical_dtlsRecord (canonical_readStore hs))
        (canonical_tlsRecord (canonical_readStore hs))
    split
    next heq =>
      rw [heq] at ho
      exact canonical_takeRecord ho
    next heq =>
      rw [heq] at ho
      split
      · exact canonical_takeRecord (canonical_incFld ho)
      · exact canonical_ite (canonical_readStore hs) (canonical_takeRecord (canonical_notDiscarded (canonical_hringPut ho)))
      · exact canonical_ite (canonical_readStore hs) (canonical_takeRecord (canonical_notDiscarded (canonical_updMil ho)))

theorem canonical_sendUdp {d : List Byte} (hs : Canonical s) : Canonical (sendUdp s h n d) := by
  unfold sendUdp
  exact canonical_sendL4 hs

theorem canonical_flumeSubmit {j : SendJob} (hs : Canonical s) : Canonical (flumeSubmit s h j) := by
  unfold flumeSubmit
  exact canonical_ite (canonical_endRequest hs) (canonical_ite (canonical_endRequest hs) (canonical_ite (canonical_mirrorUpdate
    (canonical_endRequest (canonical_sendUdp hs))) (canonical_mirrorUpdate (canonical_tcpPush (canonical_updFlm hs)))))

theorem canonical_protect {k : DirKey} {kupd : Bool} {plain : List Byte} (hs : Canonical s) :
    Canonical (protect s h n k kupd plain).2 := by
  unfold protect
  exact canonical_ite_of Prod.snd (canonical_snd hs) (canonical_snd (canonical_ite (canonical_sessionStatus (canonical_setKeys hs))
    (canonical_setKeys hs)))

theorem canonical_plainRecord {plain : List Byte} (hs : Canonical s) : Canonical (plainRecord s h n plain).2 := by
  unfold plainRecord
  extract_lets _ t
  have ht1 : Canonical (Prod.snd t) := canonical_via Prod.snd (canonical_takeFree hs) rfl
  exact canonical_snd (canonical_setKeys ht1)

theorem answers_execRecordProtect {session : BitVec 16} : Answers (execRecordProtect h session s) s := by
  unfold execRecordProtect
  dsimp only
  split
  · exact .next fun hs27 => hs27
  · refine .ite (.next fun hs31 => canonical_endRequest (canonical_updKln hs31)) ?_
    refine .ite (.next fun hs32 => canonical_endRequest (canonical_updKln hs32)) ?_
    refine .ite (.next fun hs33 => hs33) ?_
    refine .next fun hs34 => ?_
    refine canonical_unitCmd (fun _ hs35 => ?_) hs34
    refine canonical_ite (canonical_endRequest (canonical_updKln hs35)) ?_
    split
    · split
      next _ _ _ heq42 =>
        exact canonical_flumeSubmit (canonical_updKln (canonical_of_eq Prod.snd heq42 (canonical_protect hs35)))
      next _ _ heq45 =>
        exact canonical_endRequest (canonical_updKln (canonical_of_eq Prod.snd heq45 (canonical_protect hs35)))
    · exact canonical_ite (canonical_flumeSubmit (canonical_updKln (canonical_plainRecord hs35))) (canonical_endRequest (canonical_updKln
        hs35))

theorem answers_execPrimitivePost {m : BitVec 7} {prod : BitVec 16} : Answers (execPrimitivePost h m prod s) s := by
  unfold execPrimitivePost
  exact .next fun hs => canonical_setupWrite hs

theorem answers_primCommand {op : Nat} {f : State → HalfId → Prim → Nat × State}
    (hf : ∀ a b c, Canonical a → Canonical (f a b c).2) : Answers (primCommand h op f s) s := by
  unfold primCommand
  refine .next fun hs => canonical_unitCmd (fun s hs => ?_) hs
  split
  · refine canonical_ite hs (canonical_skipBadOps (canonical_runPrim hs fun s _ _ hs => ?_))
    split
    · exact hs
    · exact hf _ _ _ hs
  · exact hs

theorem canonical_drbgBytes (hs : Canonical s) : Canonical (drbgBytes s h n).2 := by
  unfold drbgBytes
  exact canonical_snd (canonical_updKln (canonical_of_parts hs rfl rfl rfl))

theorem canonical_unitWriteTell {mid a : Nat} {bs : List Byte} (hs : Canonical s) : Canonical (unitWriteTell s h mid a bs).2 := by
  unfold unitWriteTell
  refine canonical_foldl_snd (fun _ _ hs => ?_) (canonical_snd hs)
  extract_lets t1
  have ht2 : Canonical (Prod.snd t1) := canonical_via Prod.snd (canonical_unitWritePart hs) rfl
  exact canonical_snd ht2

theorem canonical_setSlot {x : Option Slot} (hs : Canonical s) : Canonical (setSlot s h n x) := by
  unfold setSlot
  exact canonical_writeUnit (canonical_updKln hs)

theorem canonical_primOut {p : Prim} {out : List Byte} {slot : Option Slot} (hs : Canonical s) :
    Canonical (primOut s h p out slot).2 := by
  unfold primOut
  extract_lets t
  have ht1 : Canonical (Prod.snd t) := canonical_via Prod.snd (canonical_unitWriteTell hs) rfl
  refine canonical_ite_of Prod.snd (canonical_snd ht1) ?_
  refine canonical_snd ?_
  split
  · exact canonical_setSlot ht1
  · exact ht1

theorem canonical_primRand {p : Prim} (hs : Canonical s) : Canonical (primRand s h p).2 := by
  unfold primRand
  refine canonical_ite_of Prod.snd (canonical_snd hs) ?_
  refine canonical_ite_of Prod.snd (canonical_snd hs) ?_
  extract_lets t
  have ht1 : Canonical (Prod.snd t) := canonical_via Prod.snd (canonical_drbgBytes hs) rfl
  exact canonical_primOut ht1

theorem answers_execRand : Answers (execRand h s) s := by
  unfold execRand
  exact answers_primCommand fun _ _ _ hs => canonical_primRand hs

theorem canonical_primKeygen {p : Prim} (hs : Canonical s) : Canonical (primKeygen s h p).2 := by
  unfold primKeygen
  dsimp only
  split
  · exact canonical_snd hs
  · exact canonical_snd hs
  · exact canonical_ite_of Prod.snd (canonical_snd hs) (canonical_primOut (canonical_drbgBytes hs))

theorem answers_execKeygen : Answers (execKeygen h s) s := by
  unfold execKeygen
  exact answers_primCommand fun _ _ _ hs => canonical_primKeygen hs

theorem canonical_primIn {p : Prim} (hs : Canonical s) : Canonical (primIn s h p).2 := by
  unfold primIn
  refine canonical_ite_of Prod.snd (canonical_snd hs) ?_
  extract_lets t
  have ht1 : Canonical (Prod.snd t) := canonical_via Prod.snd (canonical_unitRead hs) rfl
  exact canonical_snd ht1

theorem canonical_primEcdh {p : Prim} (hs : Canonical s) : Canonical (primEcdh s h p).2 := by
  unfold primEcdh
  split
  · exact canonical_snd hs
  · exact canonical_snd hs
  · split
    next _ _ _ heq19 =>
      exact canonical_snd (canonical_of_eq Prod.snd heq19 (canonical_primIn hs))
    next _ _ _ heq23 =>
      split
      · exact canonical_snd (canonical_of_eq Prod.snd heq23 (canonical_primIn hs))
      · exact canonical_snd (canonical_setSlot (canonical_of_eq Prod.snd heq23 (canonical_primIn hs)))

theorem answers_execEcdh : Answers (execEcdh h s) s := by
  unfold execEcdh
  exact answers_primCommand fun _ _ _ hs => canonical_primEcdh hs

theorem canonical_primHash {p : Prim} (hs : Canonical s) : Canonical (primHash s h p).2 := by
  unfold primHash
  refine canonical_ite_of Prod.snd (canonical_snd hs) ?_
  split
  next _ _ _ heq3 =>
    exact canonical_snd (canonical_of_eq Prod.snd heq3 (canonical_primIn hs))
  next _ _ _ heq7 =>
    exact canonical_primOut (canonical_of_eq Prod.snd heq7 (canonical_primIn hs))

theorem answers_execHash : Answers (execHash h s) s := by
  unfold execHash
  exact answers_primCommand fun _ _ _ hs => canonical_primHash hs

theorem canonical_primExtract {p : Prim} (hs : Canonical s) : Canonical (primExtract s h p).2 := by
  unfold primExtract
  refine canonical_ite_of Prod.snd (canonical_snd hs) ?_
  split
  · exact canonical_snd hs
  · exact canonical_snd hs
  · exact canonical_snd hs
  · exact canonical_snd (canonical_setSlot hs)

theorem answers_execExtract : Answers (execExtract h s) s := by
  unfold execExtract
  exact answers_primCommand fun _ _ _ hs => canonical_primExtract hs

theorem canonical_primExpand {p : Prim} (hs : Canonical s) : Canonical (primExpand s h p).2 := by
  unfold primExpand
  refine canonical_ite_of Prod.snd (canonical_snd hs) ?_
  refine canonical_ite_of Prod.snd (canonical_snd hs) ?_
  dsimp only
  split
  · exact canonical_snd hs
  · exact canonical_snd hs
  · split
    next _ _ _ heq18 =>
      exact canonical_snd (canonical_of_eq Prod.snd heq18 (canonical_primIn hs))
    next _ _ _ heq22 =>
      split
      · exact canonical_snd (canonical_of_eq Prod.snd heq22 (canonical_primIn hs))
      · exact canonical_snd (canonical_setSlot (canonical_of_eq Prod.snd heq22 (canonical_primIn hs)))

theorem answers_execExpand : Answers (execExpand h s) s := by
  unfold execExpand
  exact answers_primCommand fun _ _ _ hs => canonical_primExpand hs

theorem canonical_primHmac {p : Prim} (hs : Canonical s) : Canonical (primHmac s h p).2 := by
  unfold primHmac
  split
  · exact canonical_snd hs
  · split
    next _ _ _ heq9 =>
      exact canonical_snd (canonical_of_eq Prod.snd heq9 (canonical_primIn hs))
    next _ _ _ heq13 =>
      exact canonical_primOut (canonical_of_eq Prod.snd heq13 (canonical_primIn hs))

theorem answers_execHmac : Answers (execHmac h s) s := by
  unfold execHmac
  exact answers_primCommand fun _ _ _ hs => canonical_primHmac hs

theorem canonical_primSign {p : Prim} (hs : Canonical s) : Canonical (primSign s h p).2 := by
  unfold primSign
  dsimp only
  split
  · exact canonical_snd hs
  · refine canonical_ite_of Prod.snd (canonical_snd hs) ?_
    refine canonical_ite_of Prod.snd (canonical_snd hs) ?_
    split
    next _ _ _ heq10 =>
      exact canonical_snd (canonical_of_eq Prod.snd heq10 (canonical_primIn hs))
    next _ _ _ heq14 =>
      exact canonical_primOut (canonical_ite_of Prod.snd (canonical_snd (canonical_of_eq Prod.snd heq14 (canonical_primIn hs)))
        (canonical_drbgBytes (canonical_of_eq Prod.snd heq14 (canonical_primIn hs))))

theorem answers_execSign : Answers (execSign h s) s := by
  unfold execSign
  exact answers_primCommand fun _ _ _ hs => canonical_primSign hs

theorem canonical_primVerify {p : Prim} (hs : Canonical s) : Canonical (primVerify s h p).2 := by
  unfold primVerify
  refine canonical_ite_of Prod.snd (canonical_snd hs) ?_
  split
  next _ _ _ heq3 =>
    exact canonical_snd (canonical_of_eq Prod.snd heq3 (canonical_primIn hs))
  next _ _ _ heq7 =>
    exact canonical_snd (canonical_of_eq Prod.snd heq7 (canonical_primIn hs))

theorem answers_execVerify : Answers (execVerify h s) s := by
  unfold execVerify
  exact answers_primCommand fun _ _ _ hs => canonical_primVerify hs

theorem canonical_primInstall {p : Prim} (hs : Canonical s) : Canonical (primInstall s h p).2 := by
  unfold primInstall
  extract_lets t
  have ht1 : Canonical t := canonical_ite (canonical_getD (offers_fetchCold hs) hs) hs
  refine canonical_ite_of Prod.snd (canonical_snd ht1) ?_
  dsimp only
  split
  · exact canonical_snd ht1
  · split
    · exact canonical_snd ht1
    · refine canonical_ite_of Prod.snd (canonical_snd (canonical_setKeys ht1)) ?_
      refine canonical_ite_of Prod.snd (canonical_snd (canonical_setKeys ht1)) ?_
      refine canonical_ite_of Prod.snd (canonical_snd ht1) ?_
      split
      next _ _ _ heq16 =>
        exact canonical_snd (canonical_of_eq Prod.snd heq16 (canonical_primIn ht1))
      next _ _ _ heq20 =>
        exact canonical_snd (canonical_setKeys (canonical_of_eq Prod.snd heq20 (canonical_primIn ht1)))

theorem answers_execInstall : Answers (execInstall h s) s := by
  unfold execInstall
  exact .ite (.next fun hs => hs) (answers_primCommand fun _ _ _ hs1 => canonical_primInstall hs1)

theorem canonical_primFree {p : Prim} (hs : Canonical s) : Canonical (primFree s h p).2 := by
  unfold primFree
  exact canonical_ite_of Prod.snd (canonical_snd hs) (canonical_ite_of Prod.snd (canonical_snd hs) (canonical_snd (canonical_setSlot hs)))

theorem answers_execKilnFree : Answers (execKilnFree h s) s := by
  unfold execKilnFree
  exact answers_primCommand fun _ _ _ hs => canonical_primFree hs

theorem answers_execUnwrap {m : BitVec 7} {slot : BitVec 6} {addr : BitVec 46} : Answers (execUnwrap h m slot addr s) s := by
  unfold execUnwrap
  exact answers_putReg

theorem answers_execClear {m : BitVec 7} {slot : BitVec 6} : Answers (execClear h m slot s) s := by
  unfold execClear
  exact answers_putReg

theorem answers_execDone {m : BitVec 7} : Answers (execDone h m s) s := by
  unfold execDone
  exact answers_putReg

theorem answers_execEntropyFail : Answers (execEntropyFail h s) s := by
  unfold execEntropyFail
  exact .next fun hs => canonical_raiseAttn (canonical_record (canonical_setFld (canonical_updKln hs)))

theorem answers_execDrbgReseed : Answers (execDrbgReseed h s) s := by
  unfold execDrbgReseed
  exact .next fun hs => canonical_ite (canonical_updKln hs) hs

theorem canonical_pAccRelease {a : PAcc} {rs : List Rec} (ha : Canonical a.s) : Canonical (PAcc.release a rs).s := by
  unfold PAcc.release
  exact canonical_ite_of PAcc.s ha (canonical_pAcc ha)

theorem canonical_malformed {a : PAcc} {m : Malf} (ha : Canonical a.s) : Canonical (malformed a m).s := by
  unfold malformed
  extract_lets t
  have ht1 : Canonical (PAcc.s t) := canonical_via PAcc.s (canonical_pAccRelease ha) rfl
  exact canonical_pAcc ht1

theorem canonical_resume {a : PAcc} (ha : Canonical a.s) : Canonical (resume h n a).s := by
  unfold resume
  refine canonical_ite_of PAcc.s ha ?_
  refine canonical_ite_of PAcc.s (canonical_pAcc ha) ?_
  extract_lets t t1
  have ht2 : Canonical (Prod.snd t) := canonical_via Prod.snd (canonical_unitRead ha) rfl
  have ht3 : Canonical (PAcc.s t1) := canonical_via PAcc.s (canonical_pAcc ht2) rfl
  exact canonical_ite_of PAcc.s (canonical_malformed ht3) (canonical_pAcc ht3)

theorem canonical_park {a : PAcc} (ha : Canonical a.s) : Canonical (park h n a).s := by
  unfold park
  refine canonical_ite_of PAcc.s (canonical_pAcc ha) ?_
  refine canonical_ite_of PAcc.s ?_ ?_
  · extract_lets t
    have ht1 : Canonical (PAcc.s t) := canonical_via PAcc.s (canonical_malformed ha) rfl
    exact canonical_pAcc ht1
  · extract_lets t2
    have ht3 : Canonical (Prod.snd t2) := canonical_via Prod.snd (canonical_unitWriteTell ha) rfl
    exact canonical_ite_of PAcc.s (canonical_malformed (canonical_pAcc ht3)) (canonical_pAcc (canonical_incFld ht3))

theorem canonical_checkBetween {u : Nat} {b : Byte} {a : PAcc} (ha : Canonical a.s) : Canonical (checkBetween u b a).s := by
  unfold checkBetween
  exact canonical_ite_of PAcc.s (canonical_malformed ha) (canonical_pAcc ha)

/-- (The kernel must not run `readBinding` while it compares the two sides of the definition: they are compared as functions, and it stands as a
variable after that.) -/
theorem canonical_startMessage {arrival : Word} {a : PAcc} (ha : Canonical a.s) : Canonical (startMessage h n arrival a).s := by
  have hr := canonical_readBinding (h := h) (n := n) ha
  have he := congrFun (congrFun (congrFun (congrFun (?unfolded : startMessage = ?body) h) n) arrival) a
  case unfolded => delta startMessage; rfl
  have hany : ∀ rb, rb = readBinding → Canonical (startMessage h n arrival a).s := by
    intro rb hrb
    rw [← hrb] at he hr
    rw [he]
    dsimp only
    split
    · exact hr
    · exact canonical_malformed (canonical_pAcc hr)
  exact hany _ rfl

end Sys2Proof.Proofs
end

section
/-! Commands of Mill, Scaler, the host rings, PCIe and Boom's links, and requests at their home, answer a next state and keep the
canonical form. -/

namespace Sys2Proof.Proofs

open Sys2Proof Sys2Proof.Machine

-- one theorem after another: in parallel their stacks take the memory that a check of the whole text has
set_option Elab.async false

variable {s t : State} {h : HalfId} {k : CoreId} {n : Nat}

theorem canonical_tableRead {x : MTable} {os : List Nat} (hs : Canonical s) : Canonical (tableRead s h x os).2 := by
  unfold tableRead
  refine canonical_ite_of Prod.snd (canonical_snd hs) ?_
  refine canonical_foldl_snd (fun _ _ hs => ?_) (canonical_snd hs)
  extract_lets t1
  have ht2 : Canonical (Prod.snd t1) := canonical_via Prod.snd (canonical_touchUnit hs) rfl
  exact canonical_snd ht2

theorem canonical_messageByte {x : MTable} {b : Byte} {a : PAcc} (ha : Canonical a.s) : Canonical (messageByte h x b a).s := by
  unfold messageByte
  extract_lets _ t t1
  have ht2 : Canonical (Prod.snd t) := canonical_via Prod.snd (canonical_ite_of Prod.snd (canonical_snd ha) (canonical_tableRead ha)) rfl
  have ht3 : Canonical (PAcc.s t1) := canonical_via PAcc.s (canonical_pAcc ht2) rfl
  refine canonical_ite_of PAcc.s (canonical_malformed ht3) ?_
  dsimp only
  split
  · exact canonical_malformed ht3
  · exact canonical_ite_of PAcc.s (canonical_pAcc (canonical_pAccRelease (canonical_pAcc ht3))) (canonical_pAcc ht3)

theorem canonical_nextByte {b : Byte} {arrival : Word} {a : PAcc} (ha : Canonical a.s) : Canonical (nextByte h n b arrival a).s := by
  unfold nextByte
  extract_lets t
  have ht1 : Canonical (PAcc.s t) := canonical_via PAcc.s (canonical_ite_of PAcc.s (canonical_startMessage ha) ha) rfl
  split
  · exact ht1
  · split
    · exact canonical_malformed ht1
    · exact canonical_messageByte ht1

theorem canonical_parseBytes : ∀ {bs : List (Byte × Word)} {a : PAcc}, Canonical a.s → Canonical (parseBytes h n bs a).s
  | [], _, ha => ha
  | (b, arrival) :: bs, a, ha => by
    unfold parseBytes
    split
    · exact ha
    · split
      · exact canonical_parseBytes ha
      · split
        · exact canonical_parseBytes (canonical_checkBetween ha)
        · exact canonical_parseBytes (canonical_nextByte ha)

theorem canonical_parseJob {j : ParseJob} (hs : Canonical s) : Canonical (parseJob s h j) := by
  unfold parseJob
  extract_lets _ _ _ t _ t1 t2 t3 _ t4
  have ht5 : Canonical (PAcc.s t) := canonical_via PAcc.s (canonical_pAcc (canonical_readStore hs)) rfl
  have ht6 : Canonical (PAcc.s t1) := canonical_via PAcc.s (canonical_malformed ht5) rfl
  have ht7 : Canonical (PAcc.s t2) := canonical_via PAcc.s (canonical_ite_of PAcc.s (canonical_pAcc ht6) ht5) rfl
  have ht8 : Canonical (PAcc.s t3) := canonical_via PAcc.s (canonical_resume ht7) rfl
  have ht9 : Canonical (PAcc.s t4) := canonical_via PAcc.s (canonical_park (canonical_parseBytes (canonical_pAcc ht8))) rfl
  exact canonical_freeRetired (canonical_updMil (canonical_updScl (canonical_addFld (canonical_addFld (canonical_setParseCtx ht9)))))

theorem answers_execMillParseJob {session : BitVec 16} : Answers (execMillParseJob h session s) s := by
  unfold execMillParseJob
  split
  · exact .next fun hs3 => canonical_ite (canonical_unitCmd (fun _ hs4 => canonical_parseJob hs4) hs3) hs3
  · exact .next fun hs8 => hs8
  · exact .next fun hs11 => hs11

theorem canonical_dropBuild {j : SendJob} (hs : Canonical s) : Canonical (dropBuild s h j) := by
  unfold dropBuild
  exact canonical_updMil hs

theorem canonical_buildFrame {b : Option (List Byte)} {c : ParseCtx} {j : SendJob} (hs : Canonical s) :
    Canonical (buildFrame s h b c j).2 := by
  unfold buildFrame
  dsimp only
  split
  · exact canonical_snd hs
  · refine canonical_ite_of Prod.snd (canonical_snd hs) ?_
    refine canonical_ite_of Prod.snd (canonical_snd (canonical_tableRead hs)) ?_
    split <;> exact canonical_snd (canonical_tableRead hs)

/-- (The kernel must not run `readBinding` while it compares the two sides of the definition: they are compared as functions, and it stands as a
variable after that.) -/
theorem canonical_buildJob {j : SendJob} (hs : Canonical s) : Canonical (buildJob h j s) := by
  have hr := canonical_readBinding (h := h) (n := j.session) hs
  have he := congrFun (congrFun (congrFun (?unfolded : buildJob = ?body) h) j) s
  case unfolded => delta buildJob; rfl
  have hany : ∀ rb, rb = readBinding → ∀ bf, bf = buildFrame → Canonical (buildJob h j s) := by
    intro rb hrb bf hbf
    have hb := canonical_buildFrame (b := (rb s h j.session).1) (c := readyCtx (parseCtx (rb s h j.session).2 h j.session)) (h := h) (j := j) (hrb ▸ hr)
    rw [← hrb, ← hbf] at he
    rw [← hbf] at hb
    rw [he]
    dsimp only
    split
    next heq => exact canonical_endRequest (canonical_dropBuild (canonical_incFld (canonical_of_eq Prod.snd heq hb)))
    next heq => exact canonical_updKln (canonical_dropBuild (canonical_setParseCtx (canonical_of_eq Prod.snd heq hb)))
  exact hany _ rfl _ rfl

theorem answers_execFrameBuild {session : BitVec 16} : Answers (execFrameBuild h session s) s := by
  unfold execFrameBuild
  dsimp only
  split
  · exact .next fun hs15 => hs15
  · refine .ite (.next fun hs19 => canonical_endRequest (canonical_dropBuild hs19)) ?_
    refine .ite (.next fun hs20 => canonical_endRequest (canonical_dropBuild hs20)) ?_
    exact .ite (.next fun hs21 => canonical_endRequest (canonical_dropBuild hs21)) (.ite (.next fun hs22 => hs22) (.next fun hs23 =>
      canonical_unitCmd (fun _ hs24 => canonical_getD (offers_withHot hs24 fun _ hs25 => canonical_buildJob hs25) hs24) hs23))

theorem answers_execLoad {m : BitVec 7} {slot : Byte} {addr : BitVec 40} : Answers (execLoad h m slot addr s) s := by
  unfold execLoad
  exact answers_putReg

theorem answers_execUnload {m : BitVec 7} {slot : Byte} : Answers (execUnload h m slot s) s := by
  unfold execUnload
  exact answers_putReg

theorem canonical_fetchEach {f : State → HalfId → Nat → Option (List Byte) × State} {ns : List Nat} (hf : ∀ (a : State) (a_1 : HalfId)
    (a_2 : Nat), Canonical a → Canonical (f a a_1 a_2).2) (hs : Canonical s) :
    Canonical (fetchEach h f ns s).2 := by
  unfold fetchEach
  refine canonical_foldl_snd (fun _ _ hs => ?_) (canonical_snd hs)
  extract_lets t1
  have ht2 : Canonical (Prod.snd t1) := canonical_via Prod.snd (hf _ _ _ hs) rfl
  exact canonical_ite_of Prod.snd (canonical_snd (canonical_incFld ht2)) (canonical_snd ht2)

theorem canonical_fetchSlot {key : Nat} (hs : Canonical s) : Canonical (fetchSlot s h key).2 := by
  unfold fetchSlot
  extract_lets _ t1
  have ht2 : Canonical (Prod.snd t1) := canonical_via Prod.snd (canonical_ite_of Prod.snd (canonical_unitRead hs) (canonical_unitRead hs))
    rfl
  dsimp only
  split
  · exact canonical_snd (canonical_updScl (canonical_readScaler hs))
  · exact canonical_ite_of Prod.snd (canonical_snd ht2) (canonical_snd (canonical_writeUnit (canonical_updScl ht2)))

theorem canonical_fetchJob {recs : List Rec} (hs : Canonical s) : Canonical (fetchJob s h recs).2 := by
  unfold fetchJob
  extract_lets _ t3 _ t4 t5
  have ht7 : Canonical (Prod.snd t3) := canonical_via Prod.snd (canonical_fetchEach (fun _ _ _ hs6 => canonical_fetchPoint hs6) hs) rfl
  have ht9 : Canonical (Prod.snd t4) := canonical_via Prod.snd (canonical_fetchEach (fun _ _ _ hs8 => canonical_fetchSlot hs8) ht7) rfl
  have ht11 : Canonical (Prod.snd t5) := canonical_via Prod.snd (canonical_fetchEach (fun _ _ _ hs10 => canonical_fetchPoint hs10) ht9)
    rfl
  exact canonical_snd ht11

theorem canonical_sRunLazyClose {x : SRun} {p a : Nat} (hx : Canonical x.s) : Canonical (SRun.lazyClose x h p a).s := by
  unfold SRun.lazyClose
  exact canonical_ite_of SRun.s hx (canonical_sRunRereadClass (canonical_foldl_sRun (fun _ _ hs => canonical_sRunClose hs) hx))

theorem canonical_sRunEmit {x : SRun} {o : Rec} (hx : Canonical x.s) : Canonical (SRun.emit x o).s := by
  unfold SRun.emit
  exact canonical_sRun hx

theorem canonical_sRunAggregate {x : SRun} {a t : Nat} {q : Option Int} {o : Rec} (hx : Canonical x.s) :
    Canonical (SRun.aggregate x h a t q o).s := by
  unfold SRun.aggregate
  extract_lets c cur j y z
  have hy : Canonical y.s := canonical_via SRun.s (canonical_sRunEmit hx) rfl
  have hz : Canonical z.s := canonical_via SRun.s (canonical_sRunEmit hx) rfl
  split
  · exact hx
  · split
    · exact hx
    · split
      · exact canonical_incFld hy
      · exact canonical_incFld hz

theorem canonical_sRunKeep {x : SRun} {p : Nat} {c : Cand} (hx : Canonical x.s) : Canonical (SRun.keep x h p c).s := by
  unfold SRun.keep
  refine canonical_sRun ?_
  split
  · exact canonical_snd (canonical_sRunFlushPend hx)
  · exact canonical_snd (canonical_takeFree (canonical_sRunFlushPend hx))

theorem canonical_sRunDoor {x : SRun} {p : Nat} {q : Int} {t : Nat} {info : Byte} (hx : Canonical x.s) :
    Canonical (SRun.door x h p q t info).s := by
  unfold SRun.door
  extract_lets t2
  have ht4 : ∀ (x : SRun), Canonical (SRun.s x) → Canonical (SRun.s (t2 x)) := fun _ hs3 => canonical_sRun (canonical_updScl hs3)
  exact canonical_ite_of SRun.s (ht4 _ (canonical_sRun hx)) (canonical_ite_of SRun.s (ht4 _ (canonical_sRun hx)) (ht4 _ (canonical_sRun
    (canonical_sRunFlushPend hx))))

theorem canonical_sRunCompress {x : SRun} {p vt : Nat} {c : Cand} (hx : Canonical x.s) : Canonical (SRun.compress x h p vt c).s := by
  unfold SRun.compress
  refine canonical_ite_of SRun.s (canonical_sRunKeep hx) ?_
  refine canonical_ite_of SRun.s (canonical_ite_of SRun.s hx (canonical_sRunKeep hx)) ?_
  split
  · exact canonical_sRunKeep hx
  · exact canonical_ite_of SRun.s (canonical_ite_of SRun.s (canonical_sRunKeep hx) hx) (canonical_ite_of SRun.s (canonical_sRunDoor hx)
      (canonical_sRunKeep hx))

theorem canonical_computeValue {x : SRun} {p : Nat} {i : Rec} (hx : Canonical x.s) : Canonical (computeValue x h p i).2.s := by
  unfold computeValue
  dsimp only
  split
  · refine canonical_snd_s ?_
    refine canonical_sRun ?_
    refine canonical_incFld ?_
    split
    · exact canonical_snd hx
    · split <;> exact canonical_snd (canonical_fetchSlot hx)
  · split
    · refine canonical_snd_s ?_
      refine canonical_sRun ?_
      split
      · exact canonical_snd hx
      · split <;> exact canonical_snd (canonical_fetchSlot hx)
    · split
      · refine canonical_snd_s ?_
        refine canonical_sRun ?_
        refine canonical_incFld ?_
        refine canonical_fetchSlot ?_
        split
        · exact canonical_snd hx
        · split <;> exact canonical_snd (canonical_fetchSlot hx)
      · split
        · refine canonical_snd_s ?_
          refine canonical_sRun ?_
          refine canonical_fetchSlot ?_
          split
          · exact canonical_snd hx
          · split <;> exact canonical_snd (canonical_fetchSlot hx)
        · refine canonical_snd_s ?_
          refine canonical_sRun ?_
          refine canonical_incFld ?_
          refine canonical_fetchSlot ?_
          split
          · exact canonical_snd hx
          · split <;> exact canonical_snd (canonical_fetchSlot hx)

theorem canonical_sRunPoint {x : SRun} {p a : Nat} {i : Rec} (hx : Canonical x.s) : Canonical (SRun.point x h p a i).s := by
  unfold SRun.point
  extract_lets vt x y t base done c qual w z v
  have hx : Canonical x.s := canonical_via SRun.s (canonical_sRunLazyClose hx) rfl
  have hy : Canonical y.s := canonical_via SRun.s (canonical_sRun (canonical_updScl hx)) rfl
  have hdone : ∀ w o qa qc, Canonical w.s → Canonical (done w o qa qc).s := by
    intro w o qa qc hw
    refine canonical_sRunCompress (canonical_ite_of SRun.s (canonical_sRunEmit ?_) ?_) <;>
      exact canonical_ite_of SRun.s (canonical_sRunAggregate hw) hw
  have hc : Canonical c.2.s := canonical_computeValue hy
  have hz : Canonical z.s := canonical_via SRun.s (canonical_sRun hc) rfl
  have hv : Canonical v.2 := by
    unfold v
    split
    · exact hz
    · exact canonical_freeValue hz
  exact canonical_ite_of SRun.s (hdone _ _ _ _ hy) (hdone _ _ _ _ hv)

theorem canonical_jobRecord {a : Nat} {bad : List Nat} {acc : State × List Rec} {i : Rec} (hacc : Canonical acc.1) :
    Canonical (jobRecord h a bad acc i).1 := by
  unfold jobRecord
  refine canonical_ite_of Prod.fst (canonical_fst hacc) ?_
  refine canonical_ite_of Prod.fst (canonical_fst hacc) ?_
  extract_lets t
  have ht1 : Canonical (Prod.snd t) := canonical_via Prod.snd (canonical_fetchPoint hacc) rfl
  dsimp only
  split
  · exact canonical_fst ht1
  · exact canonical_ite_of Prod.fst (canonical_fst (canonical_incFld ht1)) (canonical_fst (canonical_putPoint (canonical_sRunPoint
      (canonical_sRun ht1))))

theorem canonical_scalerJob {j : ScalerJob} (hs : Canonical s) : Canonical (scalerJob s h j) := by
  unfold scalerJob
  extract_lets t1 t2
  have ht3 : Canonical (Prod.snd t1) := canonical_via Prod.snd (canonical_fetchJob hs) rfl
  have ht5 : Canonical (Prod.fst t2) := canonical_via Prod.fst (canonical_foldl_fst (fun _ _ hs4 => canonical_jobRecord hs4)
    (canonical_fst ht3)) rfl
  exact canonical_mirrorUpdate (canonical_putOuts (canonical_updScl (canonical_trimStores ht5)))

theorem answers_execScalerJob {session : BitVec 16} : Answers (execScalerJob h session s) s := by
  unfold execScalerJob
  refine .next fun hs => ?_
  refine canonical_unitCmd (fun _ hs1 => ?_) hs
  refine canonical_ite (canonical_deliver hs1) ?_
  split
  · exact canonical_deliver hs1
  · exact canonical_ite (canonical_scalerJob (canonical_deliver hs1)) (canonical_deliver hs1)

theorem canonical_sweepPoint {cls : Nat} {c : PClass} {k : Int} {p : Nat} (hs : Canonical s) : Canonical (sweepPoint h cls c k s p) := by
  unfold sweepPoint
  extract_lets t
  have ht1 : Canonical (Prod.snd t) := canonical_via Prod.snd (canonical_fetchPoint hs) rfl
  split
  · exact canonical_incFld ht1
  · refine canonical_ite ht1 ?_
    extract_lets _ t9 t10 _ t11 _ _ t12
    have ht13 : Canonical (SRun.s t9) := canonical_via SRun.s (canonical_sRun ht1) rfl
    have ht15 : Canonical (SRun.s t10) := canonical_via SRun.s (canonical_foldl_sRun (fun _ _ hs14 => canonical_sRunClose hs14) ht13) rfl
    have ht16 : Canonical (SRun.s t11) := canonical_via SRun.s (canonical_ite_of SRun.s (canonical_sRunFlushPend ht15) ht15) rfl
    have ht18 : Canonical (SRun.s t12) := canonical_via SRun.s (canonical_ite_of SRun.s ht15 (canonical_foldl_sRun (fun _ _ hs17 =>
      canonical_sRunAggOne hs17) ht16)) rfl
    exact canonical_ite (canonical_putOuts (canonical_putPoint ht18)) (canonical_mirrorUpdate (canonical_putOuts (canonical_putPoint
      ht18)))

theorem answers_execSweepClose {cls : Fin 16} : Answers (execSweepClose h cls s) s := by
  unfold execSweepClose
  refine .ite (.next fun hs => hs) ?_
  refine .next fun hs1 => ?_
  refine canonical_unitCmd (fun _ hs2 => ?_) hs1
  extract_lets _ _ t5
  have ht7 : Canonical t5 := canonical_updScl (canonical_foldl (fun _ _ hs6 => canonical_sweepPoint hs6) hs2)
  exact canonical_trimStores (canonical_ite (canonical_takeClass ht7) ht7)

theorem answers_execSet {m : BitVec 7} {point : BitVec 24} : Answers (execSet h m point s) s := by
  unfold execSet
  exact answers_putReg

theorem answers_execRead {m : BitVec 7} {point : BitVec 24} : Answers (execRead h m point s) s := by
  unfold execRead
  exact answers_putReg

theorem answers_execFlush {m : BitVec 7} {point : BitVec 24} : Answers (execFlush h m point s) s := by
  unfold execFlush
  exact answers_putReg

theorem answers_execDropCurve {m : BitVec 7} {slot : BitVec 16} : Answers (execDropCurve h m slot s) s := by
  unfold execDropCurve
  exact answers_putReg

theorem answers_execDropProgram {m : BitVec 7} {slot : BitVec 16} : Answers (execDropProgram h m slot s) s := by
  unfold execDropProgram
  exact answers_putReg

theorem canonical_beginWake {src : WakeSource} (hs : Canonical s) : Canonical (beginWake s src) := by
  unfold beginWake
  extract_lets t1
  have ht3 : Canonical t1 := canonical_foldl (fun _ _ hs2 => canonical_incFld (canonical_setFld hs2)) hs
  exact canonical_of_parts ht3 rfl rfl rfl

theorem canonical_doorbellWake (hs : Canonical s) : Canonical (doorbellWake s) := by
  unfold doorbellWake
  exact canonical_ite (canonical_beginWake hs) hs

theorem answers_execDoorbell {ring : BitVec 17} {v : Word} : Answers (execDoorbell h ring v s) s := by
  unfold execDoorbell
  refine .ite (.next fun hs => hs) ?_
  split
  · exact .next fun hs4 => canonical_doorbellWake (canonical_setRing hs4)
  · exact .next fun hs7 => canonical_hifCount hs7

theorem canonical_readRing (hs : Canonical s) : Canonical (readRing s h n).2 := by
  unfold readRing
  exact canonical_ite_of Prod.snd (canonical_snd hs) (canonical_readUnit hs)

theorem canonical_readDescs {r : Ring} : ∀ {n i : Nat} {s : State}, Canonical s → Canonical (readDescs h r n i s).2
  | 0, _, _, hs => hs
  | n + 1, i, s, hs => by
    unfold readDescs
    exact canonical_snd (canonical_readDescs (canonical_hostRead hs))

theorem answers_execDescriptorFetch : Answers (execDescriptorFetch h s) s := by
  unfold execDescriptorFetch
  refine .ite (.next fun hs => hs) ?_
  split
  · exact .next fun hs3 => hs3
  · dsimp only
    split
    · exact .next fun hs16 => canonical_readRing hs16
    · exact .next fun hs20 => canonical_upd (canonical_setRing (canonical_readDescs (canonical_readRing hs20)))

theorem canonical_mailboxHolds {t : Nat} (hs : Canonical s) : Canonical (mailboxHolds s h t).2 := by
  unfold mailboxHolds
  extract_lets t
  have ht1 : Canonical (Prod.snd t) := canonical_via Prod.snd (canonical_unitRead hs) rfl
  exact canonical_snd ht1

theorem canonical_targetTakes {d : List Byte} (hs : Canonical s) : Canonical (targetTakes s h d).2 := by
  unfold targetTakes
  dsimp only
  split
  · exact canonical_snd hs
  · exact canonical_snd (canonical_mailboxHolds hs)
  · exact canonical_snd hs
  · exact canonical_snd hs

theorem canonical_readParams {d : List Byte} (hs : Canonical s) : Canonical (readParams s h d).2 := by
  unfold readParams
  refine canonical_ite_of Prod.snd ?_ ?_
  · extract_lets t
    have ht1 : Canonical (Prod.snd (Prod.snd t)) := canonical_via (Prod.snd ∘ Prod.snd) (canonical_hostRead hs) rfl
    exact canonical_snd ht1
  · refine canonical_ite_of Prod.snd (canonical_snd hs) ?_
    refine canonical_ite_of Prod.snd ?_ (canonical_snd hs)
    extract_lets t2
    have ht3 : Canonical (Prod.snd (Prod.snd t2)) := canonical_via (Prod.snd ∘ Prod.snd) (canonical_hostRead hs) rfl
    exact canonical_snd ht3

theorem canonical_openWindow {d : List Byte} (hs : Canonical s) : Canonical (openWindow s h d) := by
  unfold openWindow
  exact canonical_ite hs (canonical_ite (canonical_dedupUpd hs) (canonical_upd hs))

theorem canonical_acceptDesc {rr : Nat} {r x : Machine.Ring} {d : List Byte} (hs : Canonical s) :
    Canonical (acceptDesc s h n rr r x d) := by
  unfold acceptDesc
  extract_lets _ t7 _ _ _ t8
  have ht14 : Canonical t7 := by
    unfold t7
    split
    · exact canonical_setRing (canonical_setRing hs)
    · exact canonical_setRing hs
  have ht16 : ∀ (s : State) (st part : ℕ), Canonical s → Canonical (t8 s st part) := fun _ _ _ hs15 => canonical_completeWith
    (canonical_upd hs15)
  refine canonical_ite (ht16 _ _ _ ht14) ?_
  refine canonical_ite (ht16 _ _ _ ht14) ?_
  refine canonical_ite (ht16 _ _ _ ht14) ?_
  split
  · exact ht16 _ _ _ ht14
  · dsimp only
    split
    next _ _ heq34 =>
      exact canonical_completeWith (canonical_upd (canonical_of_eq Prod.snd heq34 (canonical_readParams (canonical_openWindow ht14))))
    next _ _ _ _ heq39 =>
      exact canonical_upd (canonical_of_eq Prod.snd heq39 (canonical_readParams (canonical_openWindow ht14)))

theorem answers_execAcceptance {ring : BitVec 17} : Answers (execAcceptance h ring s) s := by
  unfold execAcceptance
  dsimp only
  split
  · exact .next fun hs38 => canonical_readRing hs38
  · split
    · exact .ite (.next fun hs49 => canonical_readRing hs49) (.next fun hs50 => canonical_unitCmd (fun _ hs51 => canonical_ite
        (canonical_acceptDesc (canonical_targetTakes hs51)) (canonical_targetTakes hs51)) (canonical_readRing hs50))
    · exact .next fun hs55 => canonical_readRing hs55

theorem answers_runOp {tag op : Nat} {f : State → InFlight → State} (hf : ∀ (a : State) (a_1 : InFlight), Canonical a → Canonical (f a
    a_1)) :
    Answers (runOp h tag op f s) s := by
  unfold runOp
  split
  · exact .next fun hs2 => hs2
  · exact .ite (.next fun hs6 => hs6) (.next fun hs7 => canonical_unitCmd (fun _ hs8 => hf _ _ (canonical_setInFlight hs8)) hs7)

theorem answers_execCreateRing {tag : BitVec 15} : Answers (execCreateRing h tag s) s := by
  unfold execCreateRing
  exact answers_runOp fun _ _ hs => canonical_ite (canonical_complete hs) (canonical_complete (canonical_putRing hs))

theorem canonical_listenerNames (hs : Canonical s) : Canonical (listenerNames s h n).2 := by
  unfold listenerNames
  refine canonical_foldl_snd (fun _ _ hs => ?_) (canonical_snd hs)
  extract_lets t1
  have ht2 : Canonical (Prod.snd t1) := canonical_via Prod.snd (canonical_readListener hs) rfl
  exact canonical_snd ht2

theorem canonical_ringBusy {r : Machine.Ring} (hs : Canonical s) : Canonical (ringBusy s h n r).2 := by
  unfold ringBusy
  exact canonical_ite_of Prod.snd (canonical_snd hs) (canonical_ite_of Prod.snd (canonical_snd hs) (canonical_listenerNames hs))

theorem answers_execDestroyRing {tag : BitVec 15} : Answers (execDestroyRing h tag s) s := by
  unfold execDestroyRing
  refine answers_runOp fun _ _ hs => ?_
  dsimp only
  split
  · exact canonical_complete hs
  · exact canonical_ite (canonical_complete (canonical_ringBusy hs)) (canonical_complete (canonical_foldl (fun _ _ hs14 =>
      canonical_hifCount hs14) (canonical_upd (canonical_setRing (canonical_ringBusy hs)))))

theorem answers_execAckAttn {tag : BitVec 15} : Answers (execAckAttn h tag s) s := by
  unfold execAckAttn
  exact answers_runOp fun _ _ hs => canonical_complete (canonical_foldl (fun _ _ hs2 => canonical_ite (canonical_clearBit hs2) hs2) hs)

theorem answers_execQueryRing {tag : BitVec 15} : Answers (execQueryRing h tag s) s := by
  unfold execQueryRing
  refine answers_runOp fun _ _ hs => ?_
  split
  · exact canonical_complete hs
  · exact canonical_completeWith hs

theorem answers_execNopCommand {tag : BitVec 15} : Answers (execNopCommand h tag s) s := by
  unfold execNopCommand
  exact answers_runOp fun _ _ hs => canonical_complete hs

theorem canonical_sendFrame {src : ReqFrom} {format : Nat} {kupd : Bool} {params : List Byte} (hs : Canonical s) :
    Canonical (sendFrame s h src n format kupd params) := by
  unfold sendFrame
  exact canonical_ite (canonical_endRequest hs) (canonical_ite (canonical_endRequest hs) (canonical_updMil hs))

theorem answers_execSend {tag : BitVec 15} : Answers (execSend h tag s) s := by
  unfold execSend
  exact .ite (.next fun hs => hs) (answers_runOp fun _ _ hs1 => canonical_sendFrame hs1)

theorem canonical_putMailbox {t : Nat} {d : List Byte} (hs : Canonical s) : Canonical (putMailbox s h t d) := by
  unfold putMailbox
  extract_lets _ t
  have ht1 : Canonical (Prod.snd t) := canonical_via Prod.snd (canonical_unitRead hs) rfl
  exact canonical_fmnEvent (canonical_unitWrite (canonical_unitWrite ht1))

theorem answers_execDeliver {tag : BitVec 15} : Answers (execDeliver h tag s) s := by
  unfold execDeliver
  exact answers_runOp fun _ _ hs => canonical_ite (canonical_complete hs) (canonical_ite (canonical_complete (canonical_mailboxHolds hs))
    (canonical_putMailbox (canonical_setInFlight hs)))

theorem canonical_sendRaw {src : ReqFrom} {sub : Nat} {stamp : Bool} {frame : List Byte} (hs : Canonical s) :
    Canonical (sendRaw s h src sub stamp frame) := by
  unfold sendRaw
  exact canonical_ite (canonical_endRequest hs) (canonical_endRequest (canonical_ethSend hs))

theorem answers_execRaw {tag : BitVec 15} : Answers (execRaw h tag s) s := by
  unfold execRaw
  exact answers_runOp fun _ _ hs => canonical_sendRaw hs

theorem offers_runPart {src : ReqFrom} {cmdid : Nat} {p params : List Byte} {inl : Bool} (hs : Canonical s) :
    Offers id (runPart s h src cmdid p params inl) := by
  unfold runPart
  refine .ite (.some (canonical_endRequest hs)) ?_
  refine .ite (.some (canonical_endRequest hs)) ?_
  split
  · exact .some (canonical_sendFrame hs)
  · exact .some (canonical_sendRaw hs)
  · refine .ite (.some (canonical_endRequest hs)) ?_
    extract_lets t7
    have ht8 : Canonical (Prod.snd t7) := canonical_via Prod.snd (canonical_mailboxHolds hs) rfl
    exact .ite (.some (canonical_endRequest ht8)) (.ite .none (.some (canonical_endRequest (canonical_putMailbox ht8))))

theorem canonical_sendPart {tag k cmdid : Nat} {p params : List Byte} (hs : Canonical s) :
    Canonical (sendPart s h tag k cmdid p params) := by
  unfold sendPart
  refine canonical_ite (canonical_partEnd hs) ?_
  extract_lets t _ _ t1
  have ht2 : Canonical (Prod.snd t) := canonical_via Prod.snd (canonical_takeTxn hs) rfl
  have ht3 : Canonical (Prod.snd t1) := canonical_via Prod.snd (canonical_sendPacket ht2) rfl
  exact canonical_ite ht3 (canonical_partEnd ht3)

theorem canonical_startPart {tag k : Nat} (hs : Canonical s) : Canonical (startPart h tag s k) := by
  unfold startPart
  split
  · exact hs
  · refine canonical_ite hs ?_
    refine canonical_ite hs ?_
    extract_lets _ _ _ t6
    have ht7 : Canonical (Prod.snd (Prod.snd t6)) := canonical_via (Prod.snd ∘ Prod.snd) (canonical_ite_of (Prod.snd ∘ Prod.snd)
      (canonical_snd_snd (canonical_snd hs)) (canonical_hostRead hs)) rfl
    refine canonical_ite (canonical_partEnd (canonical_setInFlight hs)) ?_
    exact canonical_ite (canonical_partEnd (canonical_setInFlight ht7)) (canonical_ite (canonical_getD (offers_runPart
      (canonical_setInFlight ht7)) hs) (canonical_sendPart (canonical_setInFlight ht7)))

theorem answers_execGroup {tag : BitVec 15} : Answers (execGroup h tag s) s := by
  unfold execGroup
  split
  · exact .next fun hs2 => hs2
  · exact .ite (.next fun hs6 => hs6) (.next fun hs7 => canonical_unitCmd (fun _ hs8 => canonical_foldl (fun _ _ hs9 =>
      canonical_startPart hs9) hs8) hs7)

theorem canonical_signalVector {vec : Nat} (hs : Canonical s) : Canonical (signalVector s h vec) := by
  unfold signalVector
  exact canonical_ite (canonical_sendMsix hs) (canonical_upd hs)

theorem canonical_moderate (hs : Canonical s) : Canonical (moderate s h n) := by
  unfold moderate
  split
  · exact hs
  · exact canonical_ite (canonical_signalVector (canonical_setRing hs)) (canonical_setRing hs)

theorem canonical_writeRecord {bytes : List Byte} (hs : Canonical s) : Canonical (writeRecord s h n bytes) := by
  unfold writeRecord
  split
  · exact hs
  · exact canonical_moderate (canonical_setRing (canonical_hostWrite hs))

theorem canonical_writeNext (hs : Canonical s) : Canonical (writeNext s h n) := by
  unfold writeNext
  extract_lets t
  have ht1 : Canonical (Prod.snd t) := canonical_via Prod.snd (canonical_readRing hs) rfl
  split
  · exact ht1
  · split
    · exact ht1
    · dsimp only
      split
      · exact canonical_writeRecord (canonical_upd ht1)
      · exact canonical_writeRecord (canonical_dropInFlight (canonical_setRing (canonical_upd ht1)))

theorem answers_execReplyRecordWrite {ring : BitVec 17} : Answers (execReplyRecordWrite h ring s) s := by
  unfold execReplyRecordWrite
  exact .ite (.next fun hs => canonical_writeNext hs) (.next fun hs1 => hs1)

theorem offers_takePost {frame : Bool} (hs : Canonical s) : Offers Prod.snd (takePost s h frame) := by
  unfold takePost
  exact .map_of fun _ => canonical_snd (canonical_upd hs)

theorem canonical_forgetTag {tag : Nat} (hs : Canonical s) : Canonical (forgetTag s h tag) := by
  unfold forgetTag
  exact canonical_updHif hs

theorem canonical_replyPost {p : Post} (hs : Canonical s) : Canonical (replyPost s h p) := by
  unfold replyPost
  refine canonical_ite (canonical_hifCount hs) ?_
  refine canonical_ite ?_ ?_
  · split
    · exact canonical_ite (canonical_hifCount (canonical_forgetTag hs)) (canonical_hifCount hs)
    · exact canonical_ite (canonical_hifCount hs) (canonical_completeRecord hs)
  · dsimp only
    split
    · exact canonical_ite (canonical_upd hs) (canonical_hifCount hs)
    · exact canonical_ite (canonical_hifCount hs) (canonical_hifCount hs)

theorem answers_execReplyPost : Answers (execReplyPost h s) s := by
  unfold execReplyPost
  split
  next _ _ _ heq3 =>
    exact .next fun hs4 => canonical_replyPost (offers_takePost hs4 _ heq3)
  · exact .next fun hs7 => hs7

theorem canonical_framePost {p : Post} (hs : Canonical s) : Canonical (framePost s h p) := by
  unfold framePost
  refine canonical_ite (canonical_ite hs (canonical_ethSend hs)) ?_
  exact canonical_ite (canonical_hifCount hs) (canonical_ite (canonical_endRequest hs) (canonical_ite (canonical_endRequest hs)
    (canonical_ite (canonical_endRequest hs) (canonical_ite (canonical_endRequest hs) (canonical_sendFrame hs)))))

theorem answers_execFramePost : Answers (execFramePost h s) s := by
  unfold execFramePost
  split
  next _ _ _ heq3 =>
    exact .next fun hs4 => canonical_framePost (offers_takePost hs4 _ heq3)
  · exact .next fun hs7 => hs7

theorem answers_execMsixModerationTimeout {ring : BitVec 17} : Answers (execMsixModerationTimeout h ring s) s := by
  unfold execMsixModerationTimeout
  split
  · exact .next fun hs2 => hs2
  · split
    · exact .next fun hs8 => hs8
    · exact .ite (.next fun hs12 => canonical_signalVector (canonical_setRing hs12)) (.next fun hs13 => hs13)

theorem answers_execRingEngineEnable {m : BitVec 7} : Answers (execRingEngineEnable h m s) s := by
  unfold execRingEngineEnable
  exact answers_putReg

theorem answers_execRingEngineDisable {m : BitVec 7} : Answers (execRingEngineDisable h m s) s := by
  unfold execRingEngineDisable
  exact answers_putReg

theorem answers_execHifNotice {m : BitVec 7} : Answers (execHifNotice h m s) s := by
  unfold execHifNotice
  exact answers_putReg

theorem answers_execHostInterfaceReset : Answers (execHostInterfaceReset h s) s := by
  unfold execHostInterfaceReset
  refine .next fun hs => canonical_setFld (canonical_destroyRings (canonical_change hs fun _ hx => ⟨hx.mem, ?_, hx.cores⟩))
  exact wf_filter hx.regs

theorem answers_execBdfCapture {bdf : BitVec 16} : Answers (execBdfCapture h bdf s) s := by
  unfold execBdfCapture
  exact .ite (.next fun hs => hs) (.ite (.next fun hs1 => canonical_upd hs1) (.next fun hs2 => canonical_upd (canonical_upd hs2)))

theorem answers_execCompletionTimeout {line : Word} : Answers (execCompletionTimeout h line s) s := by
  unfold execCompletionTimeout
  exact .next fun hs => canonical_upd hs

theorem answers_execDedupExpiry {cmdid : Word} : Answers (execDedupExpiry h cmdid s) s := by
  unfold execDedupExpiry
  exact .next fun hs => canonical_upd hs

theorem answers_execPartTimeout {tag : BitVec 15} {part : Fin 64} : Answers (execPartTimeout h tag part s) s := by
  unfold execPartTimeout
  split
  · exact .next fun hs2 => hs2
  · exact .ite (.next fun hs6 => canonical_partEnd hs6) (.next fun hs7 => hs7)

theorem canonical_sendHello {dst : Nat} (hs : Canonical s) : Canonical (sendHello s h dst) := by
  unfold sendHello
  exact canonical_ite (canonical_sendCruise hs) (canonical_sendCruise hs)

theorem canonical_sendIdle {l : Nat} (hs : Canonical s) : Canonical (sendIdle s h l) := by
  unfold sendIdle
  split
  exact canonical_emit (canonical_updLink hs)

theorem answers_execLinkTrained {l : Fin 4} : Answers (execLinkTrained h l s) s := by
  unfold execLinkTrained
  refine .ite (.next fun hs => hs) ?_
  exact .next fun hs1 => canonical_sendHello (canonical_sendIdle (canonical_ite (canonical_setFld (canonical_setFld (canonical_setBit
    (canonical_setBit (canonical_updLink hs1))))) (canonical_setBit (canonical_setBit (canonical_updLink hs1)))))

theorem answers_execLinkTrainRetry {l : Fin 4} : Answers (execLinkTrainRetry h l s) s := by
  unfold execLinkTrainRetry
  refine .ite (.next fun hs => hs) ?_
  split
  · exact .ite (.next fun hs4 => canonical_updLink hs4) (.next fun hs5 => hs5)
  · exact .next fun hs8 => canonical_updLink hs8

theorem canonical_replayFrom {l ack : Nat} (hs : Canonical s) : Canonical (replayFrom s h l ack) := by
  unfold replayFrom
  exact canonical_replayLink (canonical_updLink hs)

theorem canonical_goodFlit {l : Nat} {flit : List Byte} (hs : Canonical s) : Canonical (goodFlit s h l flit) := by
  unfold goodFlit
  extract_lets _ _ _ _ _ _ _ t5 t6
  have ht7 : Canonical t5 := canonical_updLink (canonical_updLink (canonical_updLink hs))
  have ht13 : Canonical t6 := by
    unfold t6
    split
    · exact canonical_arrivePacket ht7
    · exact ht7
  refine canonical_ite (canonical_pumpLink (canonical_updLink hs)) ?_
  exact canonical_ite (canonical_replayFrom (canonical_updLink (canonical_updLink hs))) (canonical_ite (canonical_ite (canonical_sendIdle
    (canonical_pumpLink ht13)) (canonical_pumpLink ht13)) (canonical_pumpLink (canonical_updLink (canonical_updLink hs))))

theorem answers_execFlitReceive {l : Fin 4} {flit : List Byte} : Answers (execFlitReceive h l flit s) s := by
  unfold execFlitReceive
  exact .ite (.next fun hs => hs) (.ite (.next fun hs1 => canonical_goodFlit hs1) (.next fun hs2 => canonical_emit hs2))

theorem answers_execNak {l : Fin 4} {ack : BitVec 10} : Answers (execNak h l ack s) s := by
  unfold execNak
  exact .ite (.next fun hs => hs) (.next fun hs1 => canonical_replayFrom hs1)

theorem canonical_setNode {state epoch floor : Nat} {serial : Word} (hs : Canonical s) :
    Canonical (setNode s h n state epoch floor serial) := by
  unfold setNode
  exact canonical_setFld (canonical_setFld (canonical_setFld (canonical_setFld hs)))

theorem canonical_clearTable (hs : Canonical s) : Canonical (clearTable s h) := by
  unfold clearTable
  exact canonical_foldl (fun _ _ hs => canonical_setNode hs) hs

theorem canonical_takeResponse {o : Outstanding} {r : Packet} (hs : Canonical s) : Canonical (takeResponse s h o r) := by
  unfold takeResponse
  extract_lets _ _ _ _ t1 t2
  have ht3 : ∀ (v d : ℕ), Canonical (t1 v d) := fun _ _ => canonical_noteRefusedEffect (canonical_upd hs)
  have ht4 : Canonical t2 := canonical_ite (canonical_upd hs) (canonical_ite (ht3 _ _) (canonical_ite (ht3 _ _) (canonical_ite (ht3 _ _)
    (canonical_ite (ht3 _ _) (canonical_upd hs)))))
  refine canonical_ite (canonical_upd hs) ?_
  split
  · exact canonical_setCoreN (canonical_upd hs)
  · exact canonical_pumpEffects (canonical_upd ht4)

theorem canonical_failNode (hs : Canonical s) : Canonical (failNode s h n) := by
  unfold failNode
  extract_lets _ t1
  have ht3 : Canonical t1 := canonical_foldl (fun _ _ hs2 => canonical_takeResponse hs2) hs
  exact canonical_foldl (fun _ _ hs4 => canonical_ite hs4 (canonical_foldl (fun _ _ hs5 => canonical_ite (canonical_partEnd hs5) hs5)
    hs4)) ht3

theorem canonical_failLost (hs : Canonical s) : Canonical (failLost s h) := by
  unfold failLost
  exact canonical_foldl (fun _ _ hs => canonical_ite (canonical_failNode hs) hs) hs

theorem canonical_newRoutes (hs : Canonical s) : Canonical (newRoutes s h) := by
  unfold newRoutes
  refine canonical_foldl (fun _ _ hs => ?_) hs
  extract_lets _ _ _ t1
  have ht2 : Canonical (Prod.snd t1) := canonical_via Prod.snd (canonical_takeFree hs) rfl
  exact canonical_setFld (canonical_setFld ht2)

theorem canonical_copyTable (hs : Canonical s) : Canonical (copyTable s h) := by
  unfold copyTable
  exact canonical_ite hs (canonical_failLost (canonical_newRoutes (canonical_foldl (fun _ _ hs1 => canonical_setNode hs1)
    (canonical_clearTable hs))))

theorem canonical_publishAs {rootNode : Nat} {changed : Bool} (hs : Canonical s) : Canonical (publishAs s h rootNode changed) := by
  unfold publishAs
  extract_lets _ t3 _ _ _ t4
  have ht5 : Canonical t3 := canonical_copyTable (canonical_failLost (canonical_newRoutes (canonical_nameRoot hs)))
  have ht9 : Canonical t4 := by
    unfold t4
    refine canonical_foldl (fun _ _ hs6 => ?_) ht5
    extract_lets t7
    have ht8 : Canonical (Prod.snd t7) := canonical_via Prod.snd (canonical_takeFree hs6) rfl
    exact canonical_sendCruise ht8
  exact canonical_ite (canonical_raiseAttnBoth ht9) ht9

theorem canonical_publish {changed : Bool} (hs : Canonical s) : Canonical (publish s h changed) := by
  unfold publish
  exact canonical_publishAs hs

theorem canonical_setFgen {g : Nat} (hs : Canonical s) : Canonical (setFgen s g) := by
  unfold setFgen
  exact canonical_foldl (fun _ _ hs => canonical_ite (canonical_setFld hs) hs) hs

theorem canonical_electRoot (hs : Canonical s) : Canonical (electRoot s h) := by
  unfold electRoot
  refine canonical_ite hs ?_
  split
  · exact hs
  · exact canonical_ite hs (canonical_ite hs (canonical_publish (canonical_restartCounts (canonical_foldl (fun _ _ hs6 =>
      canonical_setNode hs6) (canonical_setFgen hs)))))

theorem canonical_afterLinkDown (hs : Canonical s) : Canonical (afterLinkDown s h) := by
  unfold afterLinkDown
  split
  · exact canonical_ite (canonical_publish hs) (canonical_electRoot hs)
  · exact hs

theorem canonical_reroute {p : Packet} (hs : Canonical s) : Canonical (reroute s h p) := by
  unfold reroute
  split
  · exact canonical_putOnPort hs
  · split
    · exact canonical_arrivePacket hs
    · exact hs

theorem canonical_takeLinkDown {l : Nat} (hs : Canonical s) : Canonical (takeLinkDown s h l) := by
  unfold takeLinkDown
  extract_lets _ _ _ t
  have ht1 : Canonical t := canonical_incFld (canonical_clearBit (canonical_clearBit (canonical_updLink hs)))
  exact canonical_foldl (fun _ _ hs2 => canonical_reroute hs2) (canonical_ite (canonical_setFld ht1) ht1)

theorem answers_execLinkDown {l : Fin 4} {cause : LinkDownCause} : Answers (execLinkDown h l cause s) s := by
  unfold execLinkDown
  exact .ite (.next fun hs => hs) (.next fun hs1 => canonical_afterLinkDown (canonical_takeLinkDown hs1))

theorem offers_takePacket {type : Nat} (hs : Canonical s) : Offers Prod.snd (takePacket s h type) := by
  unfold takePacket
  split
  · exact .none
  · exact .some (canonical_snd (canonical_upd hs))

theorem offers_dropDead {p : Packet} (hs : Canonical s) : Offers id (dropDead s h p) := by
  unfold dropDead
  exact .ite .none (.some (canonical_sendCruise (canonical_incFld hs)))

theorem canonical_respond {req : Packet} {type status : Nat} {payload : List Byte} (hs : Canonical s) :
    Canonical (respond s h req type status payload) := by
  unfold respond
  exact canonical_sendPacket hs

theorem offers_screen {p : Packet} (hs : Canonical s) : Offers id (screen s h p) := by
  unfold screen
  split
  next _ _ heq2 =>
    exact .some (offers_dropDead hs _ heq2)
  · exact .ite .none (.ite (.some hs) (.ite (.some (canonical_incFld hs)) (.ite (.some (canonical_ite hs (canonical_respond hs))) .none)))

theorem canonical_sendAnswer {p : Packet} {a : HomeAns} (hs : Canonical s) : Canonical (sendAnswer s h p a).2 := by
  unfold sendAnswer
  exact canonical_snd (canonical_sendPacket hs)

theorem canonical_homeRequest {type : Nat} {f : State → Packet → HomeAns × State} (hf : ∀ (a : State) (a_1 : Packet), Canonical a →
    Canonical (f a a_1).2) (hs : Canonical s) :
    Canonical (homeRequest h type f s) := by
  unfold homeRequest
  split
  · exact hs
  next _ _ _ heq5 =>
    split
    next _ _ heq8 =>
      exact offers_screen (offers_takePacket hs _ heq5) _ heq8
    · split
      · exact canonical_sendPacket (offers_takePacket hs _ heq5)
      · refine canonical_ite (canonical_sendAnswer (offers_takePacket hs _ heq5)) ?_
        extract_lets t16 t17
        have ht18 : Canonical (Prod.snd t16) := canonical_via Prod.snd (hf _ _ (offers_takePacket hs _ heq5)) rfl
        have ht19 : Canonical (Prod.snd t17) := canonical_via Prod.snd (canonical_sendAnswer ht18) rfl
        exact canonical_upd ht19

theorem canonical_homeRefuse {port phys detail : Nat} {overlap : Bool} (hs : Canonical s) :
    Canonical (homeRefuse s h port phys detail overlap) := by
  unfold homeRefuse
  dsimp only
  split
  · exact canonical_errWr (canonical_noteRefusalAt hs)
  · exact canonical_noteRefusalAt hs

theorem canonical_homePart {q : HomeReq} {port : Nat} {p : Nat × Nat} (hs : Canonical s) : Canonical (homePart s h q port p).2 := by
  unfold homePart
  extract_lets _ t
  have ht1 : Canonical (Prod.snd (Prod.snd t)) := canonical_via (Prod.snd ∘ Prod.snd) (canonical_translateVia hs) rfl
  dsimp only
  split
  · exact canonical_snd (canonical_upd ht1)
  · refine canonical_ite_of Prod.snd (canonical_snd (canonical_upd ht1)) ?_
    refine canonical_ite_of Prod.snd (canonical_snd (canonical_upd ht1)) ?_
    refine canonical_ite_of Prod.snd (canonical_snd (canonical_upd ht1)) ?_
    split
    · exact canonical_snd (canonical_upd ht1)
    · exact canonical_snd (canonical_homeRefuse (canonical_upd ht1))
    · exact canonical_snd (canonical_noteFenced (canonical_upd ht1))
    · exact canonical_snd (canonical_noteHeld (canonical_upd ht1))

theorem canonical_homeParts {q : HomeReq} {port : Nat} {ps : List (Nat × Nat)} (hs : Canonical s) : Canonical (homeParts h q port ps s).2 := by
  induction ps generalizing s with
  | nil => exact hs
  | cons p ps ih =>
    unfold homeParts
    split
    next heq => exact canonical_of_eq (x := homePart s h q port p) Prod.snd heq (canonical_homePart hs)
    next t heq =>
      have ht : Canonical t := canonical_of_eq (x := homePart s h q port p) Prod.snd heq (canonical_homePart hs)
      split
      next heq => exact canonical_of_eq (x := homeParts h q port ps t) Prod.snd heq (ih ht)
      next u heq =>
        have hu : Canonical u := canonical_of_eq (x := homeParts h q port ps t) Prod.snd heq (ih ht)
        exact hu

theorem canonical_homeFresh {q : HomeReq} {port f : Nat} {ps : List (Nat × Nat)} (hs : Canonical s) : Canonical (homeFresh h q port ps f s).2 := by
  induction f generalizing s with
  | zero => exact hs
  | succ f ih =>
    unfold homeFresh
    split
    next heq => exact canonical_of_eq Prod.snd heq (canonical_homeParts hs)
    next heq =>
      split
      · exact canonical_of_eq Prod.snd heq (canonical_homeParts hs)
      · exact ih (canonical_upd hs)

theorem canonical_homeCheck {q : HomeReq} {port : Nat} (hs : Canonical s) : Canonical (homeCheck s h q port).2 := by
  unfold homeCheck
  exact canonical_ite_of Prod.snd (canonical_snd hs) (canonical_ite_of Prod.snd (canonical_snd hs) (canonical_ite_of Prod.snd
    (canonical_snd hs) (canonical_ite_of Prod.snd (canonical_snd hs) (canonical_homeFresh hs))))

theorem canonical_homeRead {cap : Bool} {p : HomePart} (hs : Canonical s) : Canonical (homeRead s h cap p).2.2.2 := by
  unfold homeRead
  dsimp only
  split
  · exact canonical_snd_snd_snd (canonical_snd_snd (canonical_snd (canonical_homeBytes hs)))
  · exact canonical_snd_snd_snd (canonical_snd_snd (canonical_snd (canonical_homeBytes hs)))
  · exact canonical_snd_snd_snd (canonical_snd_snd (canonical_snd (canonical_codeRead hs)))
  · exact canonical_snd_snd_snd (canonical_snd_snd (canonical_snd (canonical_hostRead hs)))
  · exact canonical_snd_snd_snd (canonical_snd_snd (canonical_snd (canonical_busRead hs)))
  · exact canonical_snd_snd_snd (canonical_snd_snd (canonical_snd hs))

theorem canonical_homeReadAll {cap : Bool} {ps : List HomePart} (hs : Canonical s) : Canonical (homeReadAll s h cap ps).2.2.2 := by
  unfold homeReadAll
  refine canonical_foldl_snd_snd_snd (fun _ _ hs => ?_) (canonical_snd_snd_snd (canonical_snd_snd (canonical_snd hs)))
  extract_lets t1
  have ht2 : Canonical (Prod.snd (Prod.snd (Prod.snd t1))) := canonical_via (Prod.snd ∘ Prod.snd ∘ Prod.snd) (canonical_homeRead hs) rfl
  exact canonical_snd_snd_snd (canonical_snd_snd (canonical_snd ht2))

theorem canonical_homeMark {ps : List HomePart} (hs : Canonical s) : Canonical (homeMark s h ps) := by
  unfold homeMark
  refine canonical_foldl (fun _ _ hs => ?_) hs
  split
  · exact hs
  · split
    next _ _ heq9 =>
      exact canonical_of_eq Prod.snd heq9 (canonical_reread hs)
    next _ _ _ heq13 =>
      exact canonical_upd (canonical_unitWrite (canonical_of_eq Prod.snd heq13 (canonical_reread hs)))

theorem canonical_homeRd {q : HomeReq} {port : Nat} (hs : Canonical s) : Canonical (homeRd s h q port).2 := by
  unfold homeRd
  dsimp only
  split
  next _ _ _ heq3 =>
    exact canonical_snd (canonical_of_eq Prod.snd heq3 (canonical_homeCheck hs))
  next _ _ _ heq7 =>
    refine canonical_ite_of Prod.snd ?_ ?_
    · exact canonical_snd (canonical_homeReadAll (canonical_of_eq Prod.snd heq7 (canonical_homeCheck hs)))
    · refine canonical_ite_of Prod.snd ?_ ?_
      · exact canonical_snd (canonical_homeMark (canonical_homeReadAll (canonical_of_eq Prod.snd heq7 (canonical_homeCheck hs))))
      · exact canonical_snd (canonical_homeMark (canonical_homeReadAll (canonical_of_eq Prod.snd heq7 (canonical_homeCheck hs))))

theorem answers_execRd : Answers (execRd h s) s := by
  unfold execRd
  exact .next fun hs => canonical_unitCmd (fun _ hs1 => canonical_homeRequest (fun _ _ hs2 => canonical_homeRd hs2) hs1) hs

theorem canonical_arriveDatum {p : Packet} (hs : Canonical s) : Canonical (arriveDatum s h p).2 := by
  unfold arriveDatum
  exact canonical_snd (canonical_ite (canonical_incFld hs) hs)

theorem canonical_homeWrite {p : HomePart} {bs : List Byte} {tag : Bool} (hs : Canonical s) : Canonical (homeWrite s h p bs tag) := by
  unfold homeWrite
  split
  · exact canonical_ite (canonical_memPutCap hs) (canonical_memWrite hs)
  · exact canonical_memPutCap hs
  · exact canonical_hostWrite hs
  · exact canonical_busWrite hs
  · exact hs
  · exact hs

theorem canonical_homeWr {q : HomeReq} {port : Nat} {bs : List Byte} {tag : Bool} (hs : Canonical s) :
    Canonical (homeWr s h q port bs tag).2 := by
  unfold homeWr
  split
  next _ _ _ heq3 =>
    exact canonical_snd (canonical_of_eq Prod.snd heq3 (canonical_homeCheck hs))
  next _ _ _ heq7 =>
    exact canonical_snd (canonical_foldl (fun _ _ hs8 => canonical_homeWrite hs8) (canonical_homeMark (canonical_of_eq Prod.snd heq7
      (canonical_homeCheck hs))))

theorem canonical_homeStore {p : Packet} (hs : Canonical s) : Canonical (homeStore s h p).2 := by
  unfold homeStore
  refine canonical_ite_of Prod.snd ?_ (canonical_homeWr hs)
  extract_lets t
  have ht1 : Canonical (Prod.snd t) := canonical_via Prod.snd (canonical_arriveDatum hs) rfl
  exact canonical_homeWr ht1

theorem canonical_storeOnce {p : Packet} {sub : Nat} (hs : Canonical s) : Canonical (storeOnce s h p sub).2 := by
  unfold storeOnce
  extract_lets _ _ _ _ t1 t2
  have ht3 : Canonical (Prod.snd t1) := canonical_via Prod.snd (canonical_homeStore hs) rfl
  have ht4 : ∀ (ds : List DupEntry), Canonical (Prod.snd (t2 ds)) := fun _ => canonical_snd (canonical_ite (canonical_upd ht3) ht3)
  split
  · exact canonical_ite_of Prod.snd (ht4 _) (canonical_snd (canonical_upd (canonical_incFld hs)))
  · split
    · exact ht4 _
    · exact canonical_snd hs

theorem answers_execWr : Answers (execWr h s) s := by
  unfold execWr
  refine .next fun hs => ?_
  refine canonical_unitCmd (fun _ hs1 => ?_) hs
  refine canonical_homeRequest (fun _ _ hs2 => ?_) hs1
  split
  · exact canonical_storeOnce hs2
  · exact canonical_homeStore hs2

theorem canonical_homeAtom {q : HomeReq} {port : Nat} {payload : List Byte} (hs : Canonical s) :
    Canonical (homeAtom s h q port payload).2 := by
  unfold homeAtom
  dsimp only
  split
  next _ _ _ heq3 =>
    exact canonical_snd (canonical_of_eq Prod.snd heq3 (canonical_homeCheck hs))
  next _ _ _ heq7 =>
    refine canonical_ite_of Prod.snd ?_ ?_
    · exact canonical_snd (canonical_homeReadAll (canonical_of_eq Prod.snd heq7 (canonical_homeCheck hs)))
    · refine canonical_snd ?_
      split
      · exact canonical_foldl (fun _ _ hs11 => canonical_homeWrite hs11) (canonical_homeMark (canonical_homeReadAll (canonical_of_eq
          Prod.snd heq7 (canonical_homeCheck hs))))
      · exact canonical_homeMark (canonical_homeReadAll (canonical_of_eq Prod.snd heq7 (canonical_homeCheck hs)))

theorem answers_execAtom : Answers (execAtom h s) s := by
  unfold execAtom
  exact .next fun hs => canonical_unitCmd (fun _ hs1 => canonical_homeRequest (fun _ _ hs2 => canonical_homeAtom hs2) hs1) hs

theorem canonical_effRequest (hs : Canonical s) : Canonical (effRequest h s) := by
  unfold effRequest
  split
  · exact hs
  next _ _ _ heq5 =>
    split
    next _ _ heq8 =>
      exact offers_screen (offers_takePacket hs _ heq5) _ heq8
    · refine canonical_ite (canonical_sendAnswer (offers_takePacket hs _ heq5)) ?_
      extract_lets t11
      have ht12 : Canonical (Prod.snd t11) := canonical_via Prod.snd (canonical_storeOnce (offers_takePacket hs _ heq5)) rfl
      exact canonical_sendAnswer ht12

theorem answers_execEff : Answers (execEff h s) s := by
  unfold execEff
  exact .next fun hs => canonical_unitCmd (fun _ hs1 => canonical_effRequest hs1) hs

theorem canonical_sigRequest (hs : Canonical s) : Canonical (sigRequest h s) := by
  unfold sigRequest
  refine canonical_ite hs ?_
  split
  · exact hs
  next _ _ _ heq5 =>
    split
    next _ _ heq8 =>
      exact offers_screen (offers_takePacket hs _ heq5) _ heq8
    · exact canonical_sendAnswer (canonical_fmnEvent (offers_takePacket hs _ heq5))

theorem answers_execSig : Answers (execSig h s) s := by
  unfold execSig
  exact .next fun hs => canonical_unitCmd (fun _ hs1 => canonical_sigRequest hs1) hs

theorem canonical_rspRequest (hs : Canonical s) : Canonical (rspRequest h s) := by
  unfold rspRequest
  split
  · exact hs
  next _ _ _ heq5 =>
    split
    next _ _ heq8 =>
      exact offers_dropDead (offers_takePacket hs _ heq5) _ heq8
    · split
      · exact canonical_takeResponse (offers_takePacket hs _ heq5)
      · exact offers_takePacket hs _ heq5

theorem answers_execRsp : Answers (execRsp h s) s := by
  unfold execRsp
  exact .next fun hs => canonical_unitCmd (fun _ hs1 => canonical_rspRequest hs1) hs

theorem canonical_sendPres {p : Packet} {status : Nat} (hs : Canonical s) : Canonical (sendPres s h p status) := by
  unfold sendPres
  exact canonical_sendPacket hs

theorem offers_partRequest {p : Packet} (hs : Canonical s) : Offers id (partRequest s h p) := by
  unfold partRequest
  refine .ite (offers_runPart hs) ?_
  split
  · exact .ite (.some hs) (.ite (.some (canonical_sendPres hs)) (offers_runPart (canonical_dedupUpd hs)))
  · exact .ite (.some (canonical_sendPres hs)) (offers_runPart (canonical_upd hs))

theorem answers_execPart : Answers (execPart h s) s := by
  unfold execPart
  refine .next fun hs => ?_
  refine canonical_unitCmd (fun _ hs1 => ?_) hs
  refine canonical_ite hs1 ?_
  split
  · exact hs1
  next _ _ _ heq7 =>
    split
    next _ _ heq10 =>
      exact offers_screen (offers_takePacket hs1 _ heq7) _ heq10
    · exact canonical_getD (offers_partRequest (offers_takePacket hs1 _ heq7)) hs1

theorem canonical_presRequest (hs : Canonical s) : Canonical (presRequest h s) := by
  unfold presRequest
  split
  · exact hs
  next _ _ _ heq5 =>
    split
    next _ _ heq8 =>
      exact offers_dropDead (offers_takePacket hs _ heq5) _ heq8
    · dsimp only
      split
      · exact canonical_partEnd (offers_takePacket hs _ heq5)
      · exact offers_takePacket hs _ heq5

theorem answers_execPres : Answers (execPres h s) s := by
  unfold execPres
  exact .next fun hs => canonical_unitCmd (fun _ hs1 => canonical_presRequest hs1) hs

theorem canonical_applyPoint {b : List Byte} (hs : Canonical s) : Canonical (applyPoint h n s b) := by
  unfold applyPoint
  dsimp only
  split
  next _ _ _ heq10 =>
    exact canonical_ite (canonical_putPoint (canonical_of_eq Prod.snd heq10 (canonical_fetchPoint hs))) (canonical_incFld (canonical_of_eq
      Prod.snd heq10 (canonical_fetchPoint hs)))
  next _ _ heq13 =>
    exact canonical_incFld (canonical_of_eq Prod.snd heq13 (canonical_fetchPoint hs))

theorem canonical_applyMirror {p : Packet} {b : List Byte} (hs : Canonical s) : Canonical (applyMirror s h p b) := by
  unfold applyMirror
  extract_lets _ _ _ _ _ _ t1
  have ht3 : Canonical t1 := canonical_foldl (fun _ _ hs2 => canonical_applyPoint hs2) (canonical_unitWrite (canonical_updBom
    (canonical_updKln hs)))
  exact canonical_sendPacket (canonical_trimStores ht3)

theorem canonical_mirrRequest (hs : Canonical s) : Canonical (mirrRequest h s) := by
  unfold mirrRequest
  refine canonical_ite hs ?_
  split
  · exact hs
  next t heq =>
    have ht : Canonical t := offers_takePacket hs _ heq
    split
    next heq => exact Offers.ite (.some ht) (offers_screen ht) _ heq
    · split
      · exact canonical_incFld ht
      · split
        · exact canonical_incFld ht
        · exact canonical_applyMirror (canonical_updKln ht)

theorem answers_execMirr : Answers (execMirr h s) s := by
  unfold execMirr
  exact .next fun hs => canonical_unitCmd (fun _ hs1 => canonical_mirrRequest hs1) hs

theorem canonical_mackRequest (hs : Canonical s) : Canonical (mackRequest h s) := by
  unfold mackRequest
  split
  · exact hs
  next _ _ _ heq5 =>
    split
    next _ _ heq8 =>
      exact offers_dropDead (offers_takePacket hs _ heq5) _ heq8
    · exact canonical_ite (offers_takePacket hs _ heq5) (canonical_foldl (fun _ _ hs11 => canonical_ethSend hs11) (canonical_updBom
        (offers_takePacket hs _ heq5)))

theorem answers_execMack : Answers (execMack h s) s := by
  unfold execMack
  exact .next fun hs => canonical_unitCmd (fun _ hs1 => canonical_mackRequest hs1) hs

theorem canonical_sendKeyx {reply : Bool} (hs : Canonical s) : Canonical (sendKeyx s h reply) := by
  unfold sendKeyx
  split
  · exact hs
  · exact canonical_sendPacket (canonical_updBom (canonical_takeFree hs))

theorem canonical_joinDone (hs : Canonical s) : Canonical (joinDone s h) := by
  unfold joinDone
  exact canonical_ite hs (canonical_raiseAttnBoth (canonical_upd (canonical_setFld hs)))

theorem answers_execKeyx : Answers (execKeyx h s) s := by
  unfold execKeyx
  split
  · exact .next fun hs2 => hs2
  next _ _ _ heq6 =>
    split
    next _ _ heq9 =>
      exact .next fun hs10 => offers_dropDead (offers_takePacket hs10 _ heq6) _ heq9
    · refine .ite (.next fun hs13 => offers_takePacket hs13 _ heq6) ?_
      refine .ite ?_ ?_
      · exact .next fun hs14 => canonical_ite (canonical_sendKeyx (offers_takePacket hs14 _ heq6)) (offers_takePacket hs14 _ heq6)
      · exact .next fun hs15 => canonical_joinDone (canonical_updBom (canonical_updKln (canonical_ite (canonical_sendKeyx
          (offers_takePacket hs15 _ heq6)) (offers_takePacket hs15 _ heq6))))

end Sys2Proof.Proofs
end

section
/-! Commands of Cruise, the buddy, the root firmware, start-up, power, the low-speed pins and the TAP answer a next state and keep the
canonical form; `answers_exec` gathers all commands, and `answers_step` the steps. -/

namespace Sys2Proof.Proofs

open Sys2Proof Sys2Proof.Machine

-- one theorem after another: in parallel their stacks take the memory that a check of the whole text has
set_option Elab.async false

variable {s t : State} {h : HalfId} {k : CoreId} {n : Nat}

theorem canonical_retireDevice {d : Nat} (hs : Canonical s) : Canonical (retireDevice s h d) := by
  unfold retireDevice
  exact canonical_foldl (fun _ _ hs => canonical_setNode hs) hs

theorem canonical_grantDevice {d : Nat} {serial : Word} (hs : Canonical s) : Canonical (grantDevice s h d serial).2 := by
  unfold grantDevice
  exact canonical_ite_of Prod.snd (canonical_snd (canonical_retireDevice hs)) (canonical_snd (canonical_foldl (fun _ _ hs =>
    canonical_updBom (canonical_setNode hs)) hs))

theorem canonical_grantFirst {serial : Word} {ds : List Nat} (hs : Canonical s) : Canonical (grantFirst h serial ds s).2 := by
  induction ds generalizing s with
  | nil => exact hs
  | cons d ds ih =>
    unfold grantFirst
    refine canonical_ite_of Prod.snd (ih hs) ?_
    split
    next heq => exact canonical_of_eq (x := grantDevice s h d serial) Prod.snd heq (canonical_grantDevice hs)
    next heq => exact ih (canonical_of_eq (x := grantDevice s h d serial) Prod.snd heq (canonical_grantDevice hs))

theorem canonical_grantNumber {serial : Word} {pref : Nat} (hs : Canonical s) : Canonical (grantNumber s h serial pref).2 := by
  unfold grantNumber
  dsimp only
  split
  · refine canonical_ite_of Prod.snd (canonical_snd hs) ?_
    split
    next _ _ heq26 =>
      exact canonical_snd (canonical_incFld (canonical_of_eq Prod.snd heq26 (canonical_grantFirst hs)))
    · exact canonical_grantFirst hs
  · split
    next _ _ heq34 =>
      exact canonical_snd (canonical_of_eq Prod.snd heq34 (canonical_grantDevice hs))
    next _ _ heq37 =>
      split
      next _ _ heq40 =>
        exact canonical_snd (canonical_incFld (canonical_of_eq Prod.snd heq40 (canonical_grantFirst (canonical_of_eq Prod.snd heq37
          (canonical_grantDevice hs)))))
      · exact canonical_grantFirst (canonical_of_eq Prod.snd heq37 (canonical_grantDevice hs))

theorem canonical_takeNumber {node epoch root fgen cstate : Nat} (hs : Canonical s) :
    Canonical (takeNumber s h node epoch root fgen cstate) := by
  unfold takeNumber
  extract_lets _ _ _ t
  have ht1 : Canonical t := canonical_updKln (canonical_setFld (canonical_setFld (canonical_setFld (canonical_setFld (canonical_setFld
    hs)))))
  exact canonical_updBom ht1

theorem canonical_joinHalf {node epoch root fgen : Nat} (hs : Canonical s) : Canonical (joinHalf s h node epoch root fgen) := by
  unfold joinHalf
  exact canonical_sendKeyx (canonical_takeNumber hs)

theorem canonical_joinDevice {device : Nat} {epochs : Nat × Nat} {root fgen : Nat} {own : Bool} (hs : Canonical s) :
    Canonical (joinDevice s device epochs root fgen own) := by
  unfold joinDevice
  exact canonical_foldl (fun _ _ hs => canonical_ite hs (canonical_ite (canonical_joinHalf hs) (canonical_takeNumber hs))) hs

theorem canonical_admitDevice {serial : Word} {pref : Nat} (hs : Canonical s) : Canonical (admitDevice s h serial pref) := by
  unfold admitDevice
  split
  next _ _ heq2 =>
    exact canonical_ite (canonical_of_eq Prod.snd heq2 (canonical_grantNumber hs)) (canonical_publish (canonical_of_eq Prod.snd heq2
      (canonical_grantNumber hs)))
  next _ _ _ heq6 =>
    extract_lets t7
    have ht8 : Canonical t7 := canonical_updBom (canonical_of_eq Prod.snd heq6 (canonical_grantNumber hs))
    exact canonical_publishAs (canonical_ite (canonical_joinDevice (canonical_ite (canonical_setFgen ht8) ht8)) (canonical_sendCruise
      (canonical_ite (canonical_setFgen ht8) ht8)))

theorem canonical_formFabric (hs : Canonical s) : Canonical (formFabric s h) := by
  unfold formFabric
  extract_lets t
  have ht1 : Canonical t := canonical_clearTable (canonical_clearTable hs)
  exact canonical_restartCounts (canonical_joinDevice (canonical_grantDevice ht1))

theorem canonical_takeHello {serial : Word} {pref : Nat} (hs : Canonical s) : Canonical (takeHello s h serial pref) := by
  unfold takeHello
  split
  · exact hs
  · exact canonical_ite (canonical_admitDevice hs) (canonical_ite (canonical_publish (canonical_formFabric hs)) (canonical_ite
      (canonical_sendCruise hs) (canonical_ite (canonical_admitDevice (canonical_formFabric hs)) hs)))

theorem canonical_afterTable {was : Nat} (hs : Canonical s) : Canonical (afterTable s h was) := by
  unfold afterTable
  extract_lets t
  have ht1 : Canonical t := canonical_ite (canonical_joinDone (canonical_sendKeyx hs)) hs
  split
  · exact canonical_ite (canonical_publish (canonical_restartCounts ht1)) ht1
  · exact ht1

theorem canonical_takeTable {root fgen : Nat} {es : List NodeEntry} (hs : Canonical s) : Canonical (takeTable s h root fgen es) := by
  unfold takeTable
  refine canonical_ite hs ?_
  extract_lets _ _ _ _ _ _ t2 t3
  have ht5 : Canonical t2 := canonical_failLost (canonical_foldl (fun _ _ hs4 => canonical_ite hs4 (canonical_setFld (canonical_setFld
    (canonical_setNode hs4)))) (canonical_clearTable (canonical_setFld (canonical_setFld hs))))
  have ht6 : Canonical t3 := canonical_ite ht5 (canonical_raiseAttn ht5)
  exact canonical_afterTable ht6

theorem canonical_mergeEntry {r : HalfId} {e : NodeEntry} (hs : Canonical s) : Canonical (mergeEntry r s e) := by
  unfold mergeEntry
  exact canonical_ite hs (canonical_ite (canonical_ite (canonical_setNode hs) (canonical_setNode hs)) (canonical_setNode (canonical_ite
    (canonical_updBom hs) hs)))

theorem canonical_takeMerge {src : Nat} {serial : Word} {fgen : Nat} {es : List NodeEntry} (hs : Canonical s) :
    Canonical (takeMerge s h src serial fgen es) := by
  unfold takeMerge
  split
  · exact hs
  · refine canonical_ite ?_ (canonical_ite (canonical_sendCruise hs) hs)
    exact canonical_ite (canonical_publish (canonical_foldl (fun _ _ hs8 => canonical_sendCruise hs8) (canonical_foldl (fun _ _ hs9 =>
      canonical_mergeEntry hs9) (canonical_setFgen hs)))) (canonical_ite hs (canonical_sendHello (canonical_setFgen hs)))

theorem canonical_becomeExcluded (hs : Canonical s) : Canonical (becomeExcluded s h) := by
  unfold becomeExcluded
  exact canonical_ite hs (canonical_sendHello (canonical_foldl (fun _ _ hs1 => canonical_takeResponse hs1) (canonical_setFld hs)))

theorem answers_execCru {src : BitVec 9} {msg : CruMsg} : Answers (execCru h src msg s) s := by
  unfold execCru
  refine .ite (.next fun hs => hs) ?_
  split
  · exact .next fun hs4 => canonical_takeHello hs4
  · exact .ite (.next fun hs11 => hs11) (.next fun hs12 => canonical_joinDevice hs12)
  · exact .next fun hs17 => canonical_takeTable hs17
  · exact .next fun hs22 => canonical_takeMerge hs22
  · exact .next fun hs24 => canonical_becomeExcluded hs24

theorem answers_execExcluded : Answers (execExcluded h s) s := by
  unfold execExcluded
  exact .next fun hs => canonical_ite (canonical_becomeExcluded hs) hs

theorem canonical_declareDead (hs : Canonical s) : Canonical (declareDead s h n) := by
  unfold declareDead
  exact canonical_ite hs (canonical_publish (canonical_setNode hs))

theorem canonical_rootHb {fgen flags : Nat} (hs : Canonical s) : Canonical (rootHb s h n fgen flags) := by
  unfold rootHb
  split
  · exact hs
  · refine canonical_ite ?_ hs
    extract_lets _ t5
    have ht6 : Canonical t5 := canonical_ite (canonical_declareDead (canonical_updBom hs)) (canonical_updBom hs)
    exact canonical_ite (canonical_declareDead ht6) ht6

theorem canonical_buddyTold {echo : Nat} (hs : Canonical s) : Canonical (buddyTold s h echo) := by
  unfold buddyTold
  refine canonical_ite hs ?_
  split
  · exact canonical_updBom hs
  · exact canonical_ite (canonical_updBom hs) hs

theorem canonical_surrender (hs : Canonical s) : Canonical (surrender s h) := by
  unfold surrender
  exact canonical_freeRetired (canonical_updBom (canonical_foldl (fun _ _ hs1 => canonical_updBom (canonical_setParseCtx
    (canonical_setKeys (canonical_setSession (canonical_dropWaiting hs1))))) hs))

theorem canonical_resumeMirrored (hs : Canonical s) : Canonical (resumeMirrored s h) := by
  unfold resumeMirrored
  exact canonical_foldl (fun _ _ hs => canonical_mirrorUpdate hs) (canonical_updBom hs)

theorem canonical_buddyHb {p : Packet} (hs : Canonical s) : Canonical (buddyHb s h p) := by
  unfold buddyHb
  extract_lets _ _ _ _ t
  have ht1 : Canonical t := canonical_ite (canonical_updBom (canonical_updBom hs)) (canonical_updBom hs)
  exact canonical_ite ht1 (canonical_ite (canonical_buddyTold (canonical_updBom ht1)) (canonical_ite (canonical_surrender
    (canonical_buddyTold (canonical_updBom ht1))) (canonical_resumeMirrored (canonical_buddyTold (canonical_updBom ht1)))))

theorem canonical_hbRequest (hs : Canonical s) : Canonical (hbRequest h s) := by
  unfold hbRequest
  split
  · exact hs
  next _ _ _ heq5 =>
    dsimp only
    split
    next _ _ heq15 =>
      exact offers_dropDead (offers_takePacket hs _ heq5) _ heq15
    · exact canonical_ite (offers_takePacket hs _ heq5) (canonical_ite (canonical_buddyHb (canonical_rootHb (offers_takePacket hs _
        heq5))) (canonical_rootHb (offers_takePacket hs _ heq5)))

theorem answers_execHb : Answers (execHb h s) s := by
  unfold execHb
  exact .next fun hs => canonical_unitCmd (fun _ hs1 => canonical_hbRequest hs1) hs

theorem answers_execHeartbeatSend : Answers (execHeartbeatSend h s) s := by
  unfold execHeartbeatSend
  refine .ite (.next fun hs => canonical_electRoot hs) ?_
  exact .next fun hs1 => canonical_ite (canonical_sendHb (canonical_ite (canonical_electRoot hs1) (canonical_sendHb (canonical_electRoot
    hs1)))) (canonical_ite (canonical_electRoot hs1) (canonical_sendHb (canonical_electRoot hs1)))

theorem answers_execBusyResend {txn : BitVec 11} : Answers (execBusyResend h txn s) s := by
  unfold execBusyResend
  split
  · exact .next fun hs2 => hs2
  · split
    · exact .next fun hs8 => hs8
    · refine .ite (.next fun hs12 => hs12) ?_
      dsimp only
      split
      next _ _ heq23 =>
        exact .next fun hs24 => canonical_of_eq Prod.snd heq23 (canonical_sendPacket (canonical_upd hs24))
      next _ _ heq27 =>
        exact .next fun hs28 => canonical_takeResponse (canonical_of_eq Prod.snd heq27 (canonical_sendPacket (canonical_upd hs28)))

theorem answers_execNodeDead {node : BitVec 9} : Answers (execNodeDead h node s) s := by
  unfold execNodeDead
  exact .ite (.next fun hs => canonical_declareDead hs) (.next fun hs1 => hs1)

theorem answers_execSilence : Answers (execSilence h s) s := by
  unfold execSilence
  exact .ite (.next fun hs => canonical_updBom hs) (.next fun hs1 => hs1)

theorem canonical_cutSlots {p : Nat} (hs : Canonical s) : Canonical (cutSlots h n s p) := by
  unfold cutSlots
  split
  next _ _ heq2 =>
    exact canonical_of_eq Prod.snd heq2 (canonical_fetchPoint hs)
  next _ _ _ heq6 =>
    refine canonical_ite (canonical_of_eq Prod.snd heq6 (canonical_fetchPoint hs)) ?_
    extract_lets t8 _ t9
    have ht10 : Canonical (SRun.s t8) := canonical_via SRun.s (canonical_sRun (canonical_of_eq Prod.snd heq6 (canonical_fetchPoint hs)))
      rfl
    have ht12 : Canonical (SRun.s t9) := canonical_via SRun.s (canonical_sRunRereadClass (canonical_foldl_sRun (fun _ _ hs11 =>
      canonical_sRunClose hs11) ht10)) rfl
    exact canonical_putOuts (canonical_putPoint ht12)

theorem canonical_adoptSession (hs : Canonical s) : Canonical (adoptSession h s n) := by
  unfold adoptSession
  extract_lets t1 _ _ _ _ _ _ t2 _ _ _ t3 _ t4
  have ht5 : Canonical (Prod.snd t1) := canonical_via Prod.snd (canonical_unitRead hs) rfl
  have ht6 : Canonical t2 := canonical_ite (canonical_sessionStatus (canonical_setKeys ht5)) (canonical_setKeys ht5)
  have ht7 : Canonical t3 := canonical_setParseCtx (canonical_setSession (canonical_getD (offers_roomForHot ht6) ht6))
  have ht8 : Canonical t4 := canonical_unitWrite (canonical_ite ht7 (canonical_putCold ht7))
  exact canonical_ite ht5 (canonical_incFld (canonical_freeRetired (canonical_foldl (fun _ _ hs9 => canonical_cutSlots hs9) ht8)))

theorem canonical_adoptAll (hs : Canonical s) : Canonical (adoptAll h s) := by
  unfold adoptAll
  extract_lets _ _ t2
  have ht4 : Canonical t2 := canonical_updBom (canonical_trimStores (canonical_foldl (fun _ _ hs3 => canonical_adoptSession hs3)
    (canonical_fmnEvent hs)))
  exact canonical_ite (canonical_declareDead ht4) (canonical_ite ht4 (canonical_sendHb ht4))

theorem answers_execAdoption : Answers (execAdoption h s) s := by
  unfold execAdoption
  exact .ite (.next fun hs => canonical_unitCmd (fun _ hs1 => canonical_adoptAll hs1) hs) (.next fun hs2 => hs2)

theorem answers_execBomFinv {m : BitVec 7} : Answers (execBomFinv h m s) s := by
  unfold execBomFinv
  exact answers_putReg

theorem answers_execBomXsig {m : BitVec 7} {node : BitVec 9} {thread : BitVec 17} : Answers (execBomXsig h m node thread s) s := by
  unfold execBomXsig
  exact answers_putReg

theorem canonical_serviceReturn {r : Nat × State} (hr : Canonical r.2) : Canonical (serviceReturn k r) := by
  unfold serviceReturn
  dsimp only
  split
  · exact canonical_setCore hr
  · exact hr

theorem canonical_otherService (hs : Canonical s) : Canonical (otherService k s) := by
  unfold otherService
  split
  · exact canonical_ite (canonical_serviceReturn (canonical_snd hs)) hs
  · exact hs

theorem answers_service {number : Nat} {serve : HalfId → State → Nat × State} (hserve : ∀ (a : HalfId) (a_1 : State), Canonical a_1 →
    Canonical (serve a a_1).2) :
    Answers (service k number serve s) s := by
  unfold service
  split
  · exact .next fun hs2 => canonical_otherService hs2
  · exact .next fun hs6 => canonical_serviceReturn (hserve _ _ hs6)

theorem answers_execCtrRead : Answers (execCtrRead k s) s := by
  unfold execCtrRead
  exact answers_service fun _ _ hs => canonical_snd hs

theorem canonical_ctrAdvance {c target : Nat} (hs : Canonical s) : Canonical (ctrAdvance s c target).2 := by
  unfold ctrAdvance
  exact canonical_ite_of Prod.snd (canonical_snd hs) (canonical_ite_of Prod.snd (canonical_snd hs) (canonical_ite_of Prod.snd
    (canonical_snd hs) (canonical_snd (canonical_advanceCounter hs))))

theorem answers_execCtrAdvance : Answers (execCtrAdvance k s) s := by
  unfold execCtrAdvance
  exact answers_service fun _ _ hs => canonical_ctrAdvance hs

theorem canonical_svnCommit {slot : Nat} (hs : Canonical s) : Canonical (svnCommit s h slot).2 := by
  unfold svnCommit
  exact canonical_ite_of Prod.snd (canonical_snd hs) (canonical_snd (canonical_advanceCounter hs))

theorem answers_execSvnCommit : Answers (execSvnCommit k s) s := by
  unfold execSvnCommit
  exact answers_service fun _ _ hs => canonical_svnCommit hs

theorem canonical_codeWrite {die : HalfId} {a : Nat} {bs : List Byte} (hs : Canonical s) : Canonical (codeWrite s die a bs) := by
  unfold codeWrite
  exact canonical_upd hs

theorem canonical_codeWriteBoth {a : Nat} {bs : List Byte} (hs : Canonical s) : Canonical (codeWriteBoth s h a bs) := by
  unfold codeWriteBoth
  exact canonical_codeWrite (canonical_codeWrite hs)

theorem canonical_updateImage {addr slot : Nat} (hs : Canonical s) : Canonical (updateImage s h addr slot).2 := by
  unfold updateImage
  refine canonical_ite_of Prod.snd (canonical_snd hs) ?_
  refine canonical_ite_of Prod.snd (canonical_snd hs) ?_
  extract_lets r b q bad good t u
  have hr : Canonical r.2 := canonical_via Prod.snd (canonical_unitRead hs) rfl
  have hq : Canonical q.2 := canonical_via Prod.snd (canonical_unitRead hr) rfl
  have ht : Canonical t := hq
  have hu : Canonical u := by
    unfold u
    clear_value t
    exact canonical_codeWriteBoth ⟨ht.east, ht.west, ht.host⟩
  have hv : Canonical (codeWriteBoth u h (fieldLE b 8 4) q.1.bytes) := canonical_codeWriteBoth hu
  refine canonical_ite_of Prod.snd (canonical_snd hq) ?_
  exact canonical_ite_of Prod.snd (canonical_snd hq) (canonical_snd (canonical_raiseAttnBoth hv))

theorem answers_execUpdate : Answers (execUpdate k s) s := by
  unfold execUpdate
  split
  · exact .next fun hs2 => canonical_otherService hs2
  · exact .next fun hs6 => canonical_unitCmd (fun _ hs7 => canonical_serviceReturn (canonical_updateImage hs7)) hs6

theorem answers_execLcRequest : Answers (execLcRequest k s) s := by
  unfold execLcRequest
  split
  · exact .next fun hs2 => canonical_otherService hs2
  · exact .next fun hs6 => canonical_unitCmd (fun _ hs7 => canonical_serviceReturn (canonical_lcRequestAt hs7)) hs6

theorem canonical_enterSafeDevice {region index : Nat} (hs : Canonical s) : Canonical (enterSafeDevice s region index) := by
  unfold enterSafeDevice
  exact canonical_enterSafe (canonical_enterSafe hs)

theorem answers_execSafe : Answers (execSafe k s) s := by
  unfold execSafe
  split
  · exact .next fun hs2 => canonical_otherService hs2
  · exact .next fun hs6 => canonical_ite (canonical_enterSafeDevice hs6) hs6

theorem canonical_setActive {die : HalfId} {slot : Nat} {on : Bool} (hs : Canonical s) : Canonical (setActive s die slot on) := by
  unfold setActive
  exact canonical_codeWrite hs

theorem canonical_activateOn {slot kind : Nat} {die : HalfId} (hs : Canonical s) : Canonical (activateOn slot kind s die) := by
  unfold activateOn
  exact canonical_foldl (fun _ _ hs => canonical_ite (canonical_setActive hs) hs) (canonical_setActive hs)

theorem canonical_activateRest {slot : Nat} (hs : Canonical s) : Canonical (activateRest s h slot) := by
  unfold activateRest
  refine canonical_raiseAttnBoth ?_
  extract_lets t
  have ht1 : Canonical t := canonical_activateOn hs
  exact canonical_of_parts ht1 rfl rfl rfl

theorem canonical_activateOwn {slot : Nat} (hs : Canonical s) : Canonical (activateOwn s h slot) := by
  unfold activateOwn
  extract_lets t
  have ht1 : Canonical t := canonical_activateOn hs
  exact canonical_of_parts ht1 rfl rfl rfl

theorem answers_execActivate : Answers (execActivate k s) s := by
  unfold execActivate
  split
  · exact .next fun hs2 => canonical_otherService hs2
  · dsimp only
    split
    · exact .next fun hs18 => canonical_ite (canonical_serviceReturn (canonical_snd (canonical_activateRest hs18)))
        (canonical_serviceReturn (canonical_snd hs18))
    · exact .next fun hs21 => canonical_ite (canonical_serviceReturn (canonical_snd hs21)) (canonical_activateOwn hs21)

theorem answers_execLcsXreq {m : BitVec 7} {addr : BitVec 41} : Answers (execLcsXreq h m addr s) s := by
  unfold execLcsXreq
  exact answers_putReg

theorem answers_execLcsCinc {m : BitVec 7} {counter : BitVec 4} {target : Byte} : Answers (execLcsCinc h m counter target s) s := by
  unfold execLcsCinc
  exact answers_putReg

theorem canonical_zeroiseHalf (hs : Canonical s) : Canonical (zeroiseHalf s h) := by
  unfold zeroiseHalf
  exact canonical_setFld (canonical_setFld (canonical_setReg (canonical_foldl (fun _ _ hs3 => canonical_endRequest hs3) (canonical_upd
    hs))))

theorem canonical_zeroise (hs : Canonical s) : Canonical (zeroise s) := by
  unfold zeroise
  exact canonical_setFld (canonical_zeroiseHalf (canonical_zeroiseHalf hs))

theorem canonical_tamperResponse (hs : Canonical s) : Canonical (tamperResponse s) := by
  unfold tamperResponse
  split
  · exact hs
  · exact canonical_enterSafeDevice (canonical_ite (canonical_zeroise hs) hs)
  · exact canonical_enterSafeDevice (canonical_zeroise hs)
  · extract_lets t8
    have ht9 : Canonical t8 := canonical_enterSafeDevice (canonical_zeroise hs)
    exact canonical_of_parts ht9 rfl rfl rfl
  · exact canonical_ite hs (canonical_zeroise hs)
  · refine canonical_setFld ?_
    extract_lets t14
    have ht15 : Canonical t14 := canonical_zeroise hs
    exact canonical_of_parts ht15 rfl rfl rfl

theorem canonical_noteMesh (hs : Canonical s) : Canonical (noteMesh s n) := by
  unfold noteMesh
  extract_lets t1 t2
  have ht3 : Canonical (Prod.snd t1) := canonical_via Prod.snd (canonical_takeFree hs) rfl
  have ht5 : ∀ (s : State) (d : Fld) (on : Bool), Canonical s → Canonical (t2 s d on) := fun _ _ _ hs4 => canonical_ite (canonical_setBit
    hs4) (canonical_clearBit hs4)
  exact ht5 _ _ _ (ht5 _ _ _ ht3)

theorem canonical_noteTamper {c : Nat} (hs : Canonical s) : Canonical (noteTamper s c) := by
  unfold noteTamper
  extract_lets _ _ t
  have ht1 : Canonical t := canonical_setBit (canonical_ite (canonical_noteMesh hs) hs)
  exact canonical_foldl (fun _ _ hs2 => canonical_ite (canonical_raiseAttn hs2) hs2) (canonical_ite (canonical_of_parts ht1 rfl rfl rfl)
    (canonical_setFld ht1))

theorem canonical_tamper {c : Nat} (hs : Canonical s) : Canonical (tamper s c) := by
  unfold tamper
  exact canonical_ite hs (canonical_tamperResponse (canonical_stopTransition (canonical_noteTamper hs)))

theorem answers_execTamperAlarm {cause : Fin 14} : Answers (execTamperAlarm cause s) s := by
  unfold execTamperAlarm
  exact .next fun hs => canonical_tamper hs

theorem answers_execPowerOnReset : Answers (execPowerOnReset s) s := by
  unfold execPowerOnReset
  refine .next fun hs => ?_
  extract_lets t1
  have ht2 : Canonical t1 := canonical_resetPackage hs
  exact canonical_of_parts ht2 rfl rfl rfl

theorem answers_execWarmReset : Answers (execWarmReset s) s := by
  unfold execWarmReset
  refine .next fun hs => ?_
  refine canonical_ite ?_ (canonical_of_parts hs rfl rfl rfl)
  extract_lets t1
  have ht2 : Canonical t1 := canonical_warmResetPackage hs
  exact canonical_of_parts ht2 rfl rfl rfl

theorem answers_execWarm {m : BitVec 7} : Answers (execWarm h m s) s := by
  unfold execWarm
  exact answers_putReg

theorem answers_execResetRelease : Answers (execResetRelease s) s := by
  unfold execResetRelease
  refine .next fun hs => ?_
  refine canonical_ite ?_ (canonical_of_parts hs rfl rfl rfl)
  extract_lets t1
  have ht2 : Canonical t1 := canonical_setMode (canonical_setMode (canonical_loadLcs (canonical_of_parts hs rfl rfl rfl)))
  exact canonical_of_parts ht2 rfl rfl rfl

theorem answers_execDdrTrainingComplete {p : DdrPopulation} : Answers (execDdrTrainingComplete h p s) s := by
  unfold execDdrTrainingComplete
  refine .ite (.next fun hs => hs) ?_
  refine .ite ?_ ?_
  · exact .next fun hs1 => canonical_upd (canonical_setFld (canonical_setFld (canonical_setFld (canonical_setFld hs1))))
  · exact .next fun hs2 => canonical_ite (canonical_enterSafeDevice (canonical_setFld (canonical_setFld (canonical_setFld
      (canonical_setFld hs2))))) (canonical_setFld (canonical_setFld (canonical_setFld (canonical_setFld hs2))))

theorem answers_execDdrInitComplete : Answers (execDdrInitComplete h s) s := by
  unfold execDdrInitComplete
  refine .ite (.next id) (.next fun hs => canonical_setFld (canonical_updMem hs ?_))
  exact fun _ hm => wf_filter hm

theorem canonical_releaseCores (hs : Canonical s) : Canonical (releaseCores s h) := by
  unfold releaseCores
  exact canonical_foldl (fun _ _ hs => canonical_ite hs (canonical_setCoreN hs)) hs

theorem canonical_stageDone (hs : Canonical s) : Canonical (stageDone s n) := by
  unfold stageDone
  exact canonical_setFld (canonical_of_parts hs rfl rfl rfl)

theorem canonical_safeNow (hs : Canonical s) : Canonical (safeNow s h) := by
  unfold safeNow
  split
  · exact hs
  · exact canonical_enterSafe hs

theorem answers_execCoreRelease : Answers (execCoreRelease s) s := by
  unfold execCoreRelease
  exact .ite (.next fun hs => canonical_safeNow (canonical_safeNow (canonical_setMode (canonical_setMode (canonical_releaseCores
    (canonical_releaseCores (canonical_stageDone hs))))))) (.next fun hs1 => hs1)

theorem answers_execRailOutOfRange {rail : Rail} : Answers (execRailOutOfRange rail s) s := by
  unfold execRailOutOfRange
  refine .ite (.next fun hs => hs) ?_
  split
  · exact .next fun hs2 => canonical_tamper hs2
  · exact .next fun hs4 => canonical_tamper hs4
  · exact .next fun hs6 => canonical_resetPackage (canonical_tamper hs6)
  · exact .next fun hs8 => canonical_tamper hs8
  · exact .next fun hs10 => canonical_warmResetPackage hs10
  · exact .next fun hs12 => canonical_warmResetPackage hs12
  · exact .next fun hs14 => canonical_warmResetPackage hs14
  · exact .next fun hs16 => canonical_warmResetPackage hs16
  · exact .next fun hs18 => canonical_warmResetPackage hs18

theorem canonical_setVolts {mv : Nat} (hs : Canonical s) : Canonical (setVolts s h mv) := by
  unfold setVolts
  exact canonical_upd hs

theorem canonical_watchHalf (hs : Canonical s) : Canonical (watchHalf s h) := by
  unfold watchHalf
  exact canonical_setVolts (canonical_setMode (canonical_upd hs))

theorem answers_execWatchEntry : Answers (execWatchEntry s) s := by
  unfold execWatchEntry
  split
  · exact .ite (.next fun hs3 => canonical_watchHalf (canonical_watchHalf hs3)) (.next fun hs4 => hs4)
  · exact .next fun hs7 => hs7

theorem canonical_startWake {src : WakeSource} (hs : Canonical s) : Canonical (startWake s src) := by
  unfold startWake
  exact canonical_ite hs (canonical_ite (canonical_beginWake hs) hs)

theorem answers_execWake {src : WakeSource} : Answers (execWake src s) s := by
  unfold execWake
  exact .next fun hs => canonical_startWake hs

theorem answers_execWakeComplete : Answers (execWakeComplete s) s := by
  unfold execWakeComplete
  refine .ite (.next fun hs => hs) ?_
  refine .next fun hs1 => ?_
  refine canonical_safeNow ?_
  refine canonical_safeNow ?_
  extract_lets t3
  have ht5 : Canonical t3 := canonical_foldl (fun _ _ hs4 => canonical_ite (canonical_setMode (canonical_setVolts hs4)) hs4) hs1
  exact canonical_of_parts ht5 rfl rfl rfl

theorem answers_execVoltageStep {mv : BitVec 16} : Answers (execVoltageStep h mv s) s := by
  unfold execVoltageStep
  exact .ite (.next fun hs => canonical_upd (canonical_setVolts hs)) (.next fun hs1 => hs1)

theorem answers_execPmbusPoll {ok : Bool} {vout tj stepPs : BitVec 16} : Answers (execPmbusPoll h ok vout tj stepPs s) s := by
  unfold execPmbusPoll
  refine .ite (.next fun hs => hs) ?_
  exact .ite (.next fun hs1 => canonical_updateGuar (canonical_setFld (canonical_setFld (canonical_setFld (canonical_upd hs1))))) (.next
    fun hs2 => canonical_ite (canonical_incFld (canonical_setFld (canonical_upd hs2))) (canonical_upd hs2))

theorem answers_smbRead {w : Nat} : Answers (smbRead s w) s := by
  unfold smbRead
  exact .next fun hs => canonical_ite hs (canonical_emit hs)

theorem answers_execSmbReadIdv : Answers (execSmbReadIdv s) s := by
  unfold execSmbReadIdv
  exact answers_smbRead

theorem answers_execSmbReadPwrStat : Answers (execSmbReadPwrStat h s) s := by
  unfold execSmbReadPwrStat
  exact answers_smbRead

theorem answers_execSmbReadFltGuar : Answers (execSmbReadFltGuar s) s := by
  unfold execSmbReadFltGuar
  exact answers_smbRead

theorem answers_execSmbReadTmpAlarm : Answers (execSmbReadTmpAlarm s) s := by
  unfold execSmbReadTmpAlarm
  exact answers_smbRead

theorem answers_execSmbReadLcsState : Answers (execSmbReadLcsState s) s := by
  unfold execSmbReadLcsState
  exact answers_smbRead

theorem answers_execSmbWake : Answers (execSmbWake s) s := by
  unfold execSmbWake
  exact .next fun hs => canonical_startWake hs

theorem answers_execSpiGo {m : BitVec 7} {v : Word} : Answers (execSpiGo h m v s) s := by
  unfold execSpiGo
  exact answers_putReg

theorem canonical_spiFill {bs : List Byte} (hs : Canonical s) : Canonical (spiFill s bs) := by
  unfold spiFill
  exact canonical_foldl (fun _ _ hs => canonical_setReg hs) hs

theorem answers_execSpiTransferComplete {rx : List Byte} : Answers (execSpiTransferComplete rx s) s := by
  unfold execSpiTransferComplete
  split
  · exact .next id
  · exact .next fun hs => canonical_setFld (canonical_of_parts (canonical_ite hs (canonical_spiFill hs)) rfl rfl rfl)

theorem answers_execUartDataWrite {m : BitVec 7} {n : Fin 2} {v : Word} : Answers (execUartDataWrite h m n v s) s := by
  unfold execUartDataWrite
  exact answers_putReg

theorem answers_execUartDataRead {m : BitVec 7} {n : Fin 2} : Answers (execUartDataRead h m n s) s := by
  unfold execUartDataRead
  exact .next fun hs => canonical_setupRead hs

theorem answers_execUartReceive {n : Fin 2} {b : Byte} : Answers (execUartReceive n b s) s := by
  unfold execUartReceive
  exact .ite (.next fun hs => canonical_of_parts hs rfl rfl rfl) (.next fun hs1 => hs1)

theorem answers_execUartTransmit {n : Fin 2} : Answers (execUartTransmit n s) s := by
  unfold execUartTransmit
  split
  · exact .ite (.next fun hs4 => canonical_emit (canonical_of_parts hs4 rfl rfl rfl)) (.next fun hs5 => hs5)
  · exact .next fun hs8 => hs8

theorem canonical_setTap {i : TapInstr} (hs : Canonical s) : Canonical (setTap s h i) := by
  unfold setTap
  exact canonical_upd hs

theorem answers_execTapReset : Answers (execTapReset s) s := by
  unfold execTapReset
  exact .next fun hs => canonical_setTap (canonical_setTap hs)

theorem answers_execBypass : Answers (execBypass h s) s := by
  unfold execBypass
  exact .next fun hs => canonical_setTap hs

theorem answers_execIdcode : Answers (execIdcode h s) s := by
  unfold execIdcode
  exact .next fun hs => canonical_emit (canonical_setTap hs)

theorem canonical_freeBits (hs : Canonical s) : Canonical (freeBits n s).2 := by
  unfold freeBits
  exact canonical_snd (canonical_of_parts hs rfl rfl rfl)

theorem answers_execSamplePreload : Answers (execSamplePreload h s) s := by
  unfold execSamplePreload
  exact .next fun hs => canonical_emit (canonical_freeBits (canonical_setTap hs))

theorem answers_drivePins {i : TapInstr} : Answers (drivePins i h s) s := by
  unfold drivePins
  exact .ite (.next fun hs => canonical_setTap hs) (.next fun hs1 => canonical_ite (canonical_tamper (canonical_setTap hs1))
    (canonical_setTap hs1))

theorem answers_execExtest : Answers (execExtest h s) s := by
  unfold execExtest
  exact answers_drivePins

theorem answers_execHighz : Answers (execHighz h s) s := by
  unfold execHighz
  exact answers_drivePins

theorem answers_execClamp : Answers (execClamp h s) s := by
  unfold execClamp
  exact answers_drivePins

theorem answers_execExtestPulse : Answers (execExtestPulse h s) s := by
  unfold execExtestPulse
  exact answers_drivePins

theorem answers_execExtestTrain : Answers (execExtestTrain h s) s := by
  unfold execExtestTrain
  exact answers_drivePins

theorem canonical_selectAuth (hs : Canonical s) : Canonical (selectAuth s h) := by
  unfold selectAuth
  refine canonical_ite hs ?_
  extract_lets t
  have ht1 : Canonical (Prod.snd t) := canonical_via Prod.snd (canonical_drbgBytes hs) rfl
  exact canonical_upd ht1

theorem answers_execDbgAuth {signature : List Byte} {scope : Byte} : Answers (execDbgAuth h signature scope s) s := by
  unfold execDbgAuth
  exact .ite (.next fun hs => canonical_setFld (canonical_upd (canonical_emit (canonical_selectAuth hs)))) (.next fun hs1 => canonical_upd
    (canonical_emit (canonical_selectAuth hs1)))

theorem canonical_endAccess {status : Nat} (hs : Canonical s) : Canonical (endAccess h status s) := by
  unfold endAccess
  exact canonical_emit (canonical_upd hs)

theorem canonical_setDebugData {w : Word} (hs : Canonical s) : Canonical (setDebugData s h w) := by
  unfold setDebugData
  exact canonical_upd hs

theorem answers_debugAccess {kind : AccKind} {a : Nat} {go : State → State} (hgo : ∀ (a : State), Canonical a → Canonical (go a)) :
    Answers (debugAccess h kind a go s) s := by
  unfold debugAccess
  refine .ite (.next fun hs => canonical_endAccess hs) ?_
  split
  · exact .next fun hs3 => canonical_endAccess (hgo _ hs3)
  · exact .next fun hs7 => canonical_endAccess (canonical_noteHeld hs7)
  · exact .next fun hs11 => canonical_endAccess (canonical_ite (canonical_setDebugData (canonical_setupRefused hs11))
      (canonical_setupRefused hs11))

theorem canonical_debugRead {a : Nat} (hs : Canonical s) : Canonical (debugRead h a s) := by
  unfold debugRead
  refine canonical_setDebugData ?_
  split
  · exact canonical_busRead hs
  · exact canonical_snd (canonical_unitRead hs)

theorem answers_execDbgAccessRead {addr : BitVec 46} : Answers (execDbgAccessRead h addr s) s := by
  unfold execDbgAccessRead
  exact answers_debugAccess fun _ hs => canonical_debugRead hs

theorem canonical_debugWrite {a : Nat} {data : Word} (hs : Canonical s) : Canonical (debugWrite h a data s) := by
  unfold debugWrite
  split
  · exact canonical_busWrite hs
  · exact canonical_unitWrite hs

theorem answers_execDbgAccessWrite {addr : BitVec 46} {data : Word} : Answers (execDbgAccessWrite h addr data s) s := by
  unfold execDbgAccessWrite
  exact answers_debugAccess fun _ hs => canonical_debugWrite hs

theorem canonical_enterService (hs : Canonical s) : Canonical (enterService s) := by
  unfold enterService
  exact canonical_foldl (fun _ _ hs => canonical_linksOff (canonical_upd (canonical_ethDown (canonical_setMode hs)))) hs

theorem canonical_tookSlot {n : Option Nat} (hs : Canonical s) : Canonical (tookSlot s n) := by
  unfold tookSlot
  exact canonical_of_parts hs rfl rfl rfl

theorem canonical_bootFail {code : Nat} (hs : Canonical s) : Canonical (bootFail s code) := by
  unfold bootFail
  exact canonical_enterSafeDevice (canonical_setFld hs)

theorem canonical_bootEntry {ctl mask : Nat} (hs : Canonical s) : Canonical (bootEntry s h n ctl mask) := by
  unfold bootEntry
  exact canonical_setReg (canonical_setReg (canonical_setReg hs))

theorem canonical_bootLock (hs : Canonical s) : Canonical (bootLock s h) := by
  unfold bootLock
  extract_lets _ _ _ _ t4
  have ht7 : Canonical t4 := canonical_foldl (fun _ _ hs5 => canonical_setFld hs5) (canonical_foldl (fun _ _ hs6 => canonical_setFld hs6)
    (canonical_bootEntry (canonical_bootEntry (canonical_bootEntry hs))))
  exact canonical_setFld (canonical_foldl (fun _ _ hs8 => canonical_fenceGrove hs8) ht7)

theorem canonical_bootStageWork {stage : Nat} {ok : Bool} (hs : Canonical s) : Canonical (bootStageWork s h stage ok) := by
  unfold bootStageWork
  split
  · exact canonical_ite (canonical_enterSafeDevice (canonical_loadLcs hs)) (canonical_ite (canonical_enterService (canonical_stageDone
      (canonical_loadLcs hs))) (canonical_stageDone (canonical_loadLcs hs)))
  · exact canonical_ite (canonical_tookSlot (canonical_tookSlot (canonical_stageDone hs))) (canonical_bootFail hs)
  · refine canonical_ite (canonical_enterService hs) ?_
    split
    · exact canonical_tookSlot (canonical_stageDone hs)
    · exact canonical_bootFail hs
  · exact canonical_bootLock (canonical_bootLock (canonical_stageDone hs))
  · exact canonical_stageDone hs

theorem answers_execBootStageComplete {stage : Fin 6} {ok : Bool} : Answers (execBootStageComplete stage ok s) s := by
  unfold execBootStageComplete
  split
  · exact .ite (.next fun hs3 => canonical_bootStageWork hs3) (.next fun hs4 => hs4)
  · exact .next fun hs7 => hs7

theorem answers_execLifeCycleTransitionComplete {ok : Bool} : Answers (execLifeCycleTransitionComplete ok s) s := by
  unfold execLifeCycleTransitionComplete
  split
  · exact .next fun hs2 => hs2
  · refine .ite (.next fun hs6 => canonical_setFld (canonical_stopTransition hs6)) ?_
    refine .ite ?_ ?_
    · exact .next fun hs7 => canonical_setFld (canonical_setFld (canonical_of_parts hs7 rfl rfl rfl))
    · refine .next fun hs8 => ?_
      refine canonical_foldl (fun _ _ hs9 => ?_) (canonical_setFld (canonical_setFld (canonical_of_parts hs8 rfl rfl rfl)))
      extract_lets t10 t11
      have ht12 : Canonical (Prod.snd t10) := canonical_via Prod.snd (canonical_drbgBytes hs9) rfl
      have ht13 : Canonical (Prod.snd t11) := canonical_via Prod.snd (canonical_takeFree ht12) rfl
      exact canonical_setVault ht13

theorem answers_execMsixVectorUnmask {vector : BitVec 10} : Answers (execMsixVectorUnmask h vector s) s := by
  unfold execMsixVectorUnmask
  exact .ite (.next fun hs => hs) (.next fun hs1 => canonical_unmask hs1)

theorem answers_execKeptResponseExpiry {src : BitVec 9} {txn : BitVec 11} : Answers (execKeptResponseExpiry h src txn s) s := by
  unfold execKeptResponseExpiry
  exact .next fun hs => canonical_upd hs

theorem answers_execPcieLinkUp : Answers (execPcieLinkUp h s) s := by
  unfold execPcieLinkUp
  exact .ite (.next fun hs => hs) (.next fun hs1 => canonical_setFld (canonical_upd (canonical_upd hs1)))

theorem answers_exec {i : Instr} : Answers (exec i s) s := by
  unfold exec
  split
  · exact answers_execNop
  · exact answers_execWait
  · exact answers_execFence
  · exact answers_execFenceE
  · exact answers_execSvc
  · exact answers_execMcall
  · exact answers_execRet
  · exact answers_execReti
  · exact answers_execBpt
  · exact answers_execMov
  · exact answers_execMovz
  · exact answers_execMovs
  · exact answers_execClr
  · exact answers_execXchg
  · exact answers_execSwapb
  · exact answers_execAdd
  · exact answers_execAdc
  · exact answers_execSub
  · exact answers_execSbc
  · exact answers_execNeg
  · exact answers_execInc
  · exact answers_execDec
  · exact answers_execCmp
  · exact answers_execAnd
  · exact answers_execOr
  · exact answers_execXor
  · exact answers_execNot
  · exact answers_execTst
  · exact answers_execShl
  · exact answers_execShr
  · exact answers_execSar
  · exact answers_execRol
  · exact answers_execRor
  · exact answers_execMul
  · exact answers_execMuluH
  · exact answers_execMulsH
  · exact answers_execDiv
  · exact answers_execDivu
  · exact answers_execRem
  · exact answers_execRemu
  · exact answers_execLongOperationComplete
  · exact answers_execDaa
  · exact answers_execAddp
  · exact answers_execSubp
  · exact answers_execCmpp
  · exact answers_execCvtpb
  · exact answers_execCvtbp
  · exact answers_execCvtpd
  · exact answers_execCvtdp
  · exact answers_execBcc
  · exact answers_execBrl
  · exact answers_execJmp
  · exact answers_execCall
  · exact answers_execJmpa
  · exact answers_execCalla
  · exact answers_execCallr
  · exact answers_execCallrl
  · exact answers_execRdsr
  · exact answers_execWrsr
  · exact answers_execRdsc
  · exact answers_execWrsc
  · exact answers_execRdsw
  · exact answers_execWrsw
  · exact answers_execEi
  · exact answers_execDi
  · exact answers_execCas
  · exact answers_execCcopy
  · exact answers_execCstep
  · exact answers_execCplace
  · exact answers_execCfit
  · exact answers_execCfitx
  · exact answers_execCdrop
  · exact answers_execCmode
  · exact answers_execCbrand
  · exact answers_execCunbr
  · exact answers_execCsent
  · exact answers_execCvoid
  · exact answers_execCldc
  · exact answers_execCstc
  · exact answers_execCrbase
  · exact answers_execCrtop
  · exact answers_execCrspan
  · exact answers_execCrperm
  · exact answers_execCrotype
  · exact answers_execCrtag
  · exact answers_execCrnode
  · exact answers_execCrepoch
  · exact answers_execDadd
  · exact answers_execDsub
  · exact answers_execDmul
  · exact answers_execDdiv
  · exact answers_execDcmp
  · exact answers_execDquant
  · exact answers_execDrnd
  · exact answers_execDneg
  · exact answers_execDabs
  · exact answers_execDcvti
  · exact answers_execDcvtf
  · exact answers_execDcvtw
  · exact answers_execFadd
  · exact answers_execFsub
  · exact answers_execFmul
  · exact answers_execFdiv
  · exact answers_execFcmp
  · exact answers_execFcvtd
  · exact answers_execFcvtb
  · exact answers_execTlbi
  · exact answers_execTlbia
  · exact answers_execTlbik
  · exact answers_execWci
  · exact answers_execPmcrd
  · exact answers_execInterruptEntry
  · exact answers_execHoldOverrun
  · exact answers_execPaceMiss
  · exact answers_execPacedEnable
  · exact answers_execPacedCopyComplete
  · exact answers_execStart
  · exact answers_execAbortThread
  · exact answers_execAbortCompartment
  · exact answers_execFree
  · exact answers_execSignal
  · exact answers_execTimer
  · exact answers_execSwitchIn
  · exact answers_execStepLimit
  · exact answers_execRegisterWrite
  · exact answers_execBoundaryEntryWrite
  · exact answers_execGroupDisable
  · exact answers_execGroupDrained
  · exact answers_execGroupEnable
  · exact answers_execBoundaryHoldTimeout
  · exact answers_execBndFence
  · exact answers_execCodewordViolation
  · exact answers_execGroveTakeover
  · exact answers_execPacedAreaCopyComplete
  · exact answers_execStall
  · exact answers_execRotationWindow
  · exact answers_execDrainEnd
  · exact answers_execSelfTestComplete
  · exact answers_execReturnEnd
  · exact answers_execSuspensionWindow
  · exact answers_execFaultInject
  · exact answers_execFltRetest
  · exact answers_execRetestComplete
  · exact answers_execClaim
  · exact answers_execRenew
  · exact answers_execLatchRelease
  · exact answers_execLeaseExpiry
  · exact answers_execLockstep
  · exact answers_execSeamLoss
  · exact answers_execOscFail
  · exact answers_execScrubRead
  · exact answers_execScrubLate
  · exact answers_execCodestorePatrolRead
  · exact answers_execFrameReceive
  · exact answers_execPfcRepeat
  · exact answers_execPauseFrame
  · exact answers_execPfcFrame
  · exact answers_execPauseTimeExpiry
  · exact answers_execEthModeWrite
  · exact answers_execAutoNegotiationComplete
  · exact answers_execLinkUp
  · exact answers_execLinkLoss
  · exact answers_execFlumeSessionLookup
  · exact answers_execReassemblyTimeout
  · exact answers_execRetransmissionTimeout
  · exact answers_execDelayedAckTimeout
  · exact answers_execKeepaliveTimeout
  · exact answers_execUdpIdleTimeout
  · exact answers_execColdSessionFetch
  · exact answers_execOpenSession
  · exact answers_execClose
  · exact answers_execAbort
  · exact answers_execPath0
  · exact answers_execPath1
  · exact answers_execRelease
  · exact answers_execFrameTransmit
  · exact answers_execTmbStep
  · exact answers_execTmbTxts0Read
  · exact answers_execPpsIn
  · exact answers_execPpsOut
  · exact answers_execPpsOutFall
  · exact answers_execRecordUnprotect
  · exact answers_execRecordProtect
  · exact answers_execPrimitivePost
  · exact answers_execRand
  · exact answers_execKeygen
  · exact answers_execEcdh
  · exact answers_execHash
  · exact answers_execExtract
  · exact answers_execExpand
  · exact answers_execHmac
  · exact answers_execSign
  · exact answers_execVerify
  · exact answers_execInstall
  · exact answers_execKilnFree
  · exact answers_execUnwrap
  · exact answers_execClear
  · exact answers_execDone
  · exact answers_execEntropyFail
  · exact answers_execDrbgReseed
  · exact answers_execMillParseJob
  · exact answers_execFrameBuild
  · exact answers_execLoad
  · exact answers_execUnload
  · exact answers_execScalerJob
  · exact answers_execSweepClose
  · exact answers_execSet
  · exact answers_execRead
  · exact answers_execFlush
  · exact answers_execDropCurve
  · exact answers_execDropProgram
  · exact answers_execDoorbell
  · exact answers_execDescriptorFetch
  · exact answers_execAcceptance
  · exact answers_execCreateRing
  · exact answers_execDestroyRing
  · exact answers_execAckAttn
  · exact answers_execQueryRing
  · exact answers_execNopCommand
  · exact answers_execSend
  · exact answers_execDeliver
  · exact answers_execRaw
  · exact answers_execGroup
  · exact answers_execReplyRecordWrite
  · exact answers_execReplyPost
  · exact answers_execFramePost
  · exact answers_execMsixModerationTimeout
  · exact answers_execRingEngineEnable
  · exact answers_execRingEngineDisable
  · exact answers_execHifNotice
  · exact answers_execHostInterfaceReset
  · exact answers_execBdfCapture
  · exact answers_execCompletionTimeout
  · exact answers_execDedupExpiry
  · exact answers_execPartTimeout
  · exact answers_execLinkTrained
  · exact answers_execLinkTrainRetry
  · exact answers_execFlitReceive
  · exact answers_execNak
  · exact answers_execLinkDown
  · exact answers_execRd
  · exact answers_execWr
  · exact answers_execAtom
  · exact answers_execEff
  · exact answers_execSig
  · exact answers_execRsp
  · exact answers_execPart
  · exact answers_execPres
  · exact answers_execMirr
  · exact answers_execMack
  · exact answers_execKeyx
  · exact answers_execCru
  · exact answers_execExcluded
  · exact answers_execHb
  · exact answers_execHeartbeatSend
  · exact answers_execBusyResend
  · exact answers_execNodeDead
  · exact answers_execSilence
  · exact answers_execAdoption
  · exact answers_execBomFinv
  · exact answers_execBomXsig
  · exact answers_execCtrRead
  · exact answers_execCtrAdvance
  · exact answers_execSvnCommit
  · exact answers_execUpdate
  · exact answers_execLcRequest
  · exact answers_execSafe
  · exact answers_execActivate
  · exact answers_execLcsXreq
  · exact answers_execLcsCinc
  · exact answers_execTamperAlarm
  · exact answers_execPowerOnReset
  · exact answers_execWarmReset
  · exact answers_execWarm
  · exact answers_execResetRelease
  · exact answers_execDdrTrainingComplete
  · exact answers_execDdrInitComplete
  · exact answers_execCoreRelease
  · exact answers_execRailOutOfRange
  · exact answers_execWatchEntry
  · exact answers_execWake
  · exact answers_execWakeComplete
  · exact answers_execVoltageStep
  · exact answers_execPmbusPoll
  · exact answers_execSmbReadIdv
  · exact answers_execSmbReadPwrStat
  · exact answers_execSmbReadFltGuar
  · exact answers_execSmbReadTmpAlarm
  · exact answers_execSmbReadLcsState
  · exact answers_execSmbWake
  · exact answers_execSpiGo
  · exact answers_execSpiTransferComplete
  · exact answers_execUartDataWrite
  · exact answers_execUartDataRead
  · exact answers_execUartReceive
  · exact answers_execUartTransmit
  · exact answers_execTapReset
  · exact answers_execBypass
  · exact answers_execIdcode
  · exact answers_execSamplePreload
  · exact answers_execExtest
  · exact answers_execHighz
  · exact answers_execClamp
  · exact answers_execExtestPulse
  · exact answers_execExtestTrain
  · exact answers_execDbgAuth
  · exact answers_execDbgAccessRead
  · exact answers_execDbgAccessWrite
  · exact answers_execBootStageComplete
  · exact answers_execLifeCycleTransitionComplete
  · exact answers_execMsixVectorUnmask
  · exact answers_execKeptResponseExpiry
  · exact answers_execPcieLinkUp

theorem answers_step : Answers (step s) s := by
  unfold step
  split
  · exact .next canonical_tick
  · exact .of_canonical answers_exec fun hs => ⟨hs.east, hs.west, hs.host⟩

end Sys2Proof.Proofs
end

section
/-! Every command answers a next state (O50), and every step keeps the canonical form (O53). -/

namespace Sys2Proof.Proofs

open Sys2Proof Sys2Proof.Machine

/-- Settles O50: each command's arm answers a state. -/
theorem noCommandStops : Obligations.NoCommandStops := by
  unfold Obligations.NoCommandStops
  intro c s
  obtain ⟨t, ht, -⟩ := answers_exec (i := c) (s := s)
  exact ⟨t, ht⟩

/-- Settles O53: each command's arm, and the tick of an empty queue, are put together from updates that keep the canonical form. -/
theorem stepKeepsCanonical : Obligations.StepKeepsCanonical := by
  unfold Obligations.StepKeepsCanonical Steps
  intro s t hs hst
  obtain ⟨u, hu, hc⟩ := answers_step (s := s)
  rw [hu] at hst
  cases hst
  exact hc hs

end Sys2Proof.Proofs
end
